-- ==== Sys2Proof/Word.lean ====
section
/-!
DEFINITION. The word types of the machine and their ranges (spec/00 R2, R7; spec/01 R15, R17).
A string of n balanced trits is kept as the integer it stands for, of magnitude at most (3^n - 1)/2; negation
is trit-wise inversion (R4) and no sign extension exists (R3), so a value needs no width tag.
-/
namespace Sys2Proof

/-- A balanced trit: -1, 0 or +1 (R2). -/
abbrev Trit := Int
/-- A string of 9 trits, the unit of addressing (R7). -/
abbrev Tryte := Int
/-- A string of 27 trits: an instruction word, a vector lane (R7). -/
abbrev Word := Int
/-- A string of 54 trits: a scalar register, a page table entry (R7). -/
abbrev Double := Int
/-- A tryte address: an integer of 36 trits (R154). -/
abbrev Addr := Int
/-- A binary byte, at a binary edge of the device (R8). -/
abbrev Byte := BitVec 8

/-- 3^n as an integer. -/
def pow3 (n : Nat) : Int := Int.ofNat (3 ^ n)

/-- The largest value of n trits, (3^n - 1)/2 (R17). -/
def maxTrits (n : Nat) : Int := Int.ofNat ((3 ^ n - 1) / 2)

/-- x is the value of some string of n trits. -/
def Fits (n : Nat) (x : Int) : Prop := -maxTrits n ≤ x ∧ x ≤ maxTrits n

end Sys2Proof
end

