-- ==== Sys2Proof/Machine/Trits.lean ====
section
/-!
DEFINITION. Balanced-ternary strings on integers: wrap and fit (R18), truncation of low trits (R5), single trits and
fields (R2), trit-wise maps (R81), comparison (R6), and the storage order of trytes (R15, R16).
-/
namespace Sys2Proof.Machine

/-- wrap_n (R18): the unique value of n trits congruent to x modulo 3^n. -/
def wrap (n : Nat) (x : Int) : Int := (x + maxTrits n) % pow3 n - maxTrits n

/-- The nearest limit of n trits when x lies outside them (R18, saturation). -/
def clamp (n : Nat) (x : Int) : Int :=
  if x > maxTrits n then maxTrits n else if x < -maxTrits n then -maxTrits n else x

/-- x lies outside the range of n trits. -/
def outside (n : Nat) (x : Int) : Bool := decide (x > maxTrits n) || decide (x < -maxTrits n)

/-- Dropping the k low trits: the integer nearest to x / 3^k (R5). -/
def dropLow (k : Nat) (x : Int) : Int := (x + maxTrits k) / pow3 k

/-- Trits lo to lo + n - 1 of x, read as an integer (R2). -/
def sub (lo n : Nat) (x : Int) : Int := wrap n (dropLow lo x)

/-- Trit i of x. -/
def tritAt (i : Nat) (x : Int) : Trit := sub i 1 x

/-- The trits of x, least significant first. -/
def trits : Nat → Int → List Trit
  | 0, _ => []
  | n + 1, x => wrap 1 x :: trits n (dropLow 1 x)

/-- The value of a list of trits, least significant first (R2). -/
def ofTrits : List Trit → Int
  | [] => 0
  | d :: ds => d + 3 * ofTrits ds

/-- A trit-wise operation on n trits. -/
def tritwise (f : Trit → Trit → Trit) (n : Nat) (x y : Int) : Int :=
  ofTrits (List.zipWith f (trits n x) (trits n y))

/-- The comparison trit of R6. -/
def cmpTrit (a b : Int) : Trit := if a > b then 1 else if a < b then -1 else 0

/-- The trit that agrees with both, and 0 elsewhere (TCON, R81). -/
def consensus (a b : Trit) : Trit := if a = b then a else 0

/-- The balanced residue of a + b modulo 3 (TSUM, R81). -/
def tritSum (a b : Trit) : Trit := wrap 1 (a + b)

/-- The value split into n-trit digits, least significant first: the storage order of trytes (R15). -/
def digits (n : Nat) : Nat → Int → List Int
  | 0, _ => []
  | k + 1, x => wrap n x :: digits n k (dropLow n x)

/-- The value of n-trit digits, least significant first. -/
def ofDigits (n : Nat) : List Int → Int
  | [] => 0
  | d :: ds => d + pow3 n * ofDigits n ds

/-- The trytes of a value of k trytes, lowest address first (R15). -/
def toTrytes (k : Nat) (x : Int) : List Tryte := digits 9 k x

/-- The value that consecutive trytes hold (R15). -/
def ofTrytes (ts : List Tryte) : Int := ofDigits 9 ts

/-- Sub-lane k of a lane (R16). -/
def subLane (k : Nat) (x : Int) : Int := sub (9 * k) 9 x

/-- A lane made of three sub-lanes (R16). -/
def ofSubLanes (x0 x1 x2 : Int) : Int := x0 + 19683 * x1 + 387420489 * x2

/-- A lane with its sub-lane k replaced. -/
def setSubLane (k : Nat) (v x : Int) : Int := x + pow3 (9 * k) * (v - subLane k x)

/-- Trit i of x replaced by t. -/
def setTrit (i : Nat) (t x : Int) : Int := x + pow3 i * (t - tritAt i x)

/-- The value with field lo to lo + n - 1 replaced by v. -/
def setSub (lo n : Nat) (v x : Int) : Int := x + pow3 lo * (v - sub lo n x)

/-- The number of +1 trits in a list. -/
def plusTrits (n : Nat) (x : Int) : List Nat := (List.range n).filter fun i => tritAt i x = 1

/-- Some trit of the n low trits is -1. -/
def hasMinus (n : Nat) (x : Int) : Bool := (trits n x).any fun t => decide (t = -1)

/-- Every trit above the n low ones is 0. -/
def highZero (n : Nat) (x : Int) : Bool := decide (x = wrap n x)

end Sys2Proof.Machine
end

