-- ==== Sys2Proof/Syntax.lean ====
section
/-!
DEFINITION. The instructions of Oscor: one constructor of Instr for each row of spec/opcode_table.json, with the
operand fields that its encoding has (R44 to R61). Rows that are steps of the device without an instruction word (a
copy becoming visible, a host window access) carry the arguments that say which such step is taken; they are never
produced by the decoder.
-/
namespace Sys2Proof

/-- Scalar register s0 to s26 (R11, R45). -/
abbrev SReg := Fin 27
/-- Vector register v0 to v80. -/
abbrev VReg := Fin 81
/-- Mask register m0 to m8. -/
abbrev MReg := Fin 9
/-- Accumulator tile t0 to t26. -/
abbrev TReg := Fin 27

/-- The causes of traps, of fault-log entries and of stops, in the order that R266 gives among those of one class
(R63, R127, R153, R171, R234, R264, R364, R389, R404). Their codes stand in Machine/Causes.lean. -/
inductive Cause where
  /-- encoding (R63) -/
  | unassignedMajor | unassignedMinor | reservedField | regRange | typeNotAccepted | reservedCode | prefixMisuse
  | laNotHonoured | laConflict
  /-- privilege (R127) -/
  | privilegedInstr | privilegedReg
  /-- operand and format (R127) -/
  | srNotWritable | roundingNotUsable | valueRange | blockNotHeld | returnOutside | setInvalid
  /-- synchronisation (R127, R153, R364, R389) -/
  | countMismatch | setsDisagree | participantEnded | phaserMalformed | phaserOutside | nestingTooDeep | notLeader
  | recordMalformed | gridTooLarge
  /-- memory (R171, R234, R404) -/
  | misaligned | outsideSpace | ternaryOnBinary | outsideAllocation | nullPage | noWindow | lanePrivate | rankAbsent
  | privilegedHalf | notPresent | entryMalformed | ownerOutside | noRead | noWrite | noExecute | binaryOnTernary
  | ownerFenced
  /-- conversion range (R234) -/
  | conversionRange
  /-- matrix (R264) -/
  | descriptorInvalid | noPair | streamMalformed | tileNotHeld | tokenNotHeld
  /-- join (R264, R364) -/
  | portFull | portNotConfigured | portIndex | teamAbsent | bindingTableFull
  /-- asynchronous engine (R234, R364) -/
  | outsideFootprint | batchFull | cardMalformed | landingRefused | noSchedule | reductionMalformed
  /-- debug (R127, R264, R364) -/
  | breakpoint | softwareTrap | watchpoint | gangNotHalted | gangName
  /-- machine (R264) -/
  | uncorrectable | trapInHandler | phaseRecord | teamMoved
  deriving DecidableEq, Repr

/-- Rounding modes (R24). -/
inductive Rnd where
  | near | zero | up | down | stoch
  deriving DecidableEq, Repr

/-- Type codes (R46). -/
inductive Ty where
  | i27 | f27 | i54 | i9x3 | f9x3 | i9 | f9 | n3 | f18
  deriving DecidableEq, Repr

/-- Mask policies (R56). -/
inductive Policy where
  | dflt | keep | zero | inv
  deriving DecidableEq, Repr

/-- Branch conditions of B (R48). -/
inductive Cond where
  | always | gt | lt | ge | le | eq | ne | lp | ln | lz
  deriving DecidableEq, Repr

/-- Special registers (R61, R91). -/
inductive SpecialReg where
  | core | cluster | die | modul | team | gang | slice | depth | moves | mode | flags | tenant | time
  deriving DecidableEq, Repr

/-- Scope codes (R47). -/
inductive Scope where
  | core | cluster | die | modul | hop1 | hop2 | hop3
  deriving DecidableEq, Repr

/-- The combining operations of VRED, VSCAN and REDM (R104, R228). -/
inductive RedOp where
  | add | max | min
  deriving DecidableEq, Repr

/-- The selections of TIMERD (R362). -/
inductive TimeSel where
  | fabric | skew | cycles
  deriving DecidableEq, Repr

/-- The attribute prefix (R55); rounding none means the mode of sr.mode. -/
structure Attr where
  mask     : MReg
  policy   : Policy
  rounding : Option Rnd
  fourth   : Option VReg
  sat      : Bool
  deriving DecidableEq, Repr

/-- The sweep prefix (R58): the count of segments and the three steps in trytes. -/
structure Sweep where
  count : Nat
  dstep : Int
  astep : Int
  bstep : Int
  deriving DecidableEq, Repr

/-- The three register fields of a register-format vector instruction: vector registers, or, under a sweep
prefix, the scalar registers that hold scratchpad addresses (R59). -/
inductive VOps3 where
  | regs (d a b : VReg)
  | swept (sw : Sweep) (d a b : SReg)
  deriving DecidableEq, Repr

/-- The same for the two register fields of the immediate format. -/
inductive VOps2 where
  | regs (d a : VReg)
  | swept (sw : Sweep) (d a : SReg)
  deriving DecidableEq, Repr

/-- SALU fields (R80); la is the window count n of R49. -/
structure SaluF where
  attr : Option Attr
  ty   : Ty
  d    : SReg
  a    : SReg
  b    : SReg
  la   : Fin 27
  deriving DecidableEq, Repr

/-- SIMM fields (R84). -/
structure SimmF where
  attr : Option Attr
  d    : SReg
  a    : SReg
  imm  : Int
  deriving DecidableEq, Repr

/-- SMEM fields (R94). -/
structure SmemF where
  d   : SReg
  b   : SReg
  off : Int
  la  : Fin 27
  deriving DecidableEq, Repr

/-- VALU and VSFU fields (R97, R102). -/
structure ValuF where
  attr : Option Attr
  ops  : VOps3
  mask : MReg
  la   : Fin 27
  ty   : Ty
  deriving DecidableEq, Repr

/-- VCMP fields (R99). -/
structure VcmpF where
  attr : Option Attr
  d    : MReg
  a    : VReg
  b    : VReg
  mask : MReg
  ty   : Ty
  deriving DecidableEq, Repr

/-- CVT fields: source and target type (R105). -/
structure CvtF where
  attr : Option Attr
  d    : VReg
  a    : VReg
  src  : Ty
  dst  : Ty
  mask : MReg
  deriving DecidableEq, Repr

/-- VPERM forms of up to three vector registers (R104). -/
structure VpermF where
  attr : Option Attr
  d    : VReg
  a    : VReg
  b    : VReg
  mask : MReg
  la   : Fin 27
  ty   : Ty
  deriving DecidableEq, Repr

/-- VUNPK fields; k is the sub-lane (R104). -/
structure VunpkF where
  attr : Option Attr
  d    : VReg
  a    : VReg
  k    : Fin 3
  mask : MReg
  ty   : Ty
  deriving DecidableEq, Repr

/-- VRED and VSCAN fields (R104, R108). -/
structure VredF where
  attr : Option Attr
  d    : VReg
  a    : VReg
  op   : RedOp
  mask : MReg
  la   : Fin 27
  ty   : Ty
  deriving DecidableEq, Repr

/-- VROTL and VBCAST fields, with a uniform scalar (R104). -/
structure VpermSF where
  attr : Option Attr
  d    : VReg
  a    : VReg
  sb   : SReg
  mask : MReg
  ty   : Ty
  deriving DecidableEq, Repr

/-- VCOMPR and VEXPD fields (R109). -/
structure VcomprF where
  attr : Option Attr
  d    : VReg
  a    : VReg
  mask : MReg
  la   : Fin 27
  deriving DecidableEq, Repr

/-- VIDX fields (R109). -/
structure VidxF where
  attr : Option Attr
  d    : VReg
  mask : MReg
  ty   : Ty
  deriving DecidableEq, Repr

/-- VINS fields (R110). -/
structure VinsF where
  attr : Option Attr
  d    : VReg
  sa   : SReg
  mask : MReg
  deriving DecidableEq, Repr

/-- VEXT fields (R110). -/
structure VextF where
  attr : Option Attr
  d    : SReg
  a    : VReg
  sb   : SReg
  deriving DecidableEq, Repr

/-- VIMM fields (R112); the mask stands in the prefix. -/
structure VimmF where
  attr : Option Attr
  ops  : VOps2
  imm  : Int
  deriving DecidableEq, Repr

/-- VCMPI fields (R112). -/
structure VcmpiF where
  attr : Option Attr
  d    : MReg
  a    : VReg
  imm  : Int
  deriving DecidableEq, Repr

/-- VLD, VST and VPF fields (R113). -/
structure VmemF where
  attr : Option Attr
  d    : VReg
  base : SReg
  off  : Int
  la   : Fin 27
  deriving DecidableEq, Repr

/-- VGTH and VSCT fields (R54, R113). -/
structure VgthF where
  attr : Option Attr
  d    : VReg
  base : SReg
  idx  : VReg
  la   : Fin 27
  deriving DecidableEq, Repr

/-- CPY fields (R203): offsets, source base, destination base, scope. -/
structure CpyF where
  attr  : Option Attr
  x     : VReg
  y     : SReg
  z     : SReg
  scope : Scope
  deriving DecidableEq, Repr

/-- LDB and STB fields (R222). -/
structure BmemF where
  attr : Option Attr
  d    : VReg
  base : SReg
  off  : Int
  deriving DecidableEq, Repr

/-- Returning atomics (R225). -/
structure AtomF where
  x  : SReg
  y  : SReg
  z  : SReg
  la : Fin 27
  ty : Ty
  deriving DecidableEq, Repr

/-- MXM operands (R288). -/
structure MxmF where
  x : TReg
  y : VReg
  z : VReg
  deriving DecidableEq, Repr

/-- QNT, DQNT, RQZ, BSCL, VDOT and VDOTN fields (R303). -/
structure MxqF where
  attr : Option Attr
  d    : VReg
  a    : VReg
  b    : VReg
  mask : MReg
  la   : Fin 27
  ty   : Ty
  deriving DecidableEq, Repr

/-- ZPK and ZUPK fields (R309). -/
structure ZpkF where
  attr : Option Attr
  d    : VReg
  a    : VReg
  sb   : SReg
  deriving DecidableEq, Repr

/-- An issue set: a sub-gang is named by its team, its gang and its lowest slice (R73, R133). -/
structure IssueRef where
  team  : Nat
  gang  : Nat
  slice : Nat
  deriving DecidableEq, Repr

/-- The context command "create" of BAR0 (R393). -/
structure CtxCreate where
  number    : Nat
  agency    : Nat
  priv      : Bool
  userRoot  : Int
  privRoot  : Int
  faultLog  : Int
  phaseBase : Int
  phaseLen  : Int
  deriving DecidableEq, Repr

/-- A host write through a window: port, window number, byte offset, bytes in ascending order (R251 to R254,
R394), and whether it is posted or awaits a completion (R252). -/
structure WinWrite where
  port  : Fin 2
  win   : Nat
  off   : Nat
  bytes : List Byte
  posted : Bool
  deriving DecidableEq, Repr

/-- A host read through a window. -/
structure WinRead where
  port : Fin 2
  win  : Nat
  off  : Nat
  len  : Nat
  deriving DecidableEq, Repr

/-- The placement record of a module (R397), and what a discovered neighbour reports of itself (R399). -/
structure Placement where
  domain : Nat
  x : Nat
  y : Nat
  z : Nat
  xs : Nat
  ys : Nat
  zs : Nat
  sys : List (Nat × Nat)
  deriving DecidableEq, Repr

/-- A message of IEEE 1588 to an ordinary clock that receives time (R427), with its sequence number: Sync, with the time at which it
left the time transmitter when that works in one step; Follow_Up with that time; Delay_Resp with the time at which the delay request
came. -/
inductive PtpMsg where
  | sync (seq : Nat) (left : Option Int)
  | followUp (seq : Nat) (left : Int)
  | delayResp (seq : Nat) (came : Int)
  deriving DecidableEq, Repr

/-- What a message of IEEE 1588 tells the clock (R427, R428): its domain, what it says, and each die's skew bound as the clock then
estimates it. -/
structure PtpUpdate where
  domain : Nat
  msg    : PtpMsg
  bounds : List Int
  deriving DecidableEq, Repr

/-- The images of measured boot in loading order (R454, R455). -/
inductive ImageKind where
  | stage1 | runtime | facet | training
  deriving DecidableEq, Repr

/-- A firmware image in the flash (R455): the whole image, its security version in it, the public key that comes with it, and its
ML-DSA-44 signature. -/
structure Image where
  content : List Byte
  key     : List Byte
  sig     : List Byte
  deriving DecidableEq, Repr

/-- What a management frame carries, under the frame's sequence number (R458), which its answer repeats. -/
structure Framed (α : Type) where
  seq  : Nat
  body : α
  deriving DecidableEq, Repr

/-- A function with a readiness byte that becomes ready by itself (R459). -/
inductive Function where
  | cluster (c : Fin 128)
  | stack (s : Fin 16)
  | hostPort (p : Fin 2)
  | fabricPort (p : Fin 27)
  deriving DecidableEq, Repr

/-- An endpoint that speaks SPDM (R457): a DOE mailbox, or the management port with the sequence of the request's frame (R458). -/
inductive Endpoint where
  | doe (port : Fin 2)
  | management (seq : Nat)
  deriving DecidableEq, Repr

/-- A unit that a self-test targets, with the row, column or lane that failed (R461). -/
inductive TestUnit where
  | core (n : Nat)
  | arrayColumn (core column : Nat)
  | cacheRow (slice row : Nat)
  | hbmRow (stack row : Nat)
  | ucieLane (n : Nat)
  deriving DecidableEq, Repr

/-- The updates that a serialisation point makes (R190, R226, R228, R341, R342). -/
inductive AtomOp where
  | add | min | max | swp | cas
  | sigAdd
  | bind (port msg : Int)
  deriving DecidableEq, Repr

/-- One update as it travels to its serialisation point: operand prepared, mode and stochastic draw taken at issue
(R226, R228). -/
structure Update where
  op   : AtomOp
  ty   : Ty
  v    : Int
  cmp  : Int
  rnd  : Rnd
  draw : Int
  deriving DecidableEq, Repr

/-- What a debugger asks about a gang of another module (R332, R360, R361, R448): whether the name names a live gang, to open a window of a
gang onto it or to close that, to halt it, to release it, to read or write trytes of its section through a window. -/
inductive DebugOp where
  | live
  | attach (window : Nat) (opener : Int)
  | detach (window : Nat) (opener : Int)
  /-- Whether it lives and what has been written into its section may stand (R361). -/
  | check
  | halt
  | release
  | read (off n : Nat)
  | write (off : Nat) (vs : List Tryte)
  deriving DecidableEq, Repr

/-- What one module asks of another (R401, R402, R334, R214): addresses are physical tryte addresses of the owner. -/
inductive RemoteReq where
  | load (phys : Nat) (n : Nat) (bin : Bool)
  /-- Acceptance of a store or atomic, which needs what the lines hold or replaces them whole (R249). -/
  | accept (phys : Nat) (n : Nat) (needs : Bool)
  | store (phys : Nat) (vals : List Tryte) (bin : Bool)
  | update (phys : Nat) (u : Update)
  | reserve (port : Int)
  | land (port : Int) (msg : Int)
  | release (port : Int)
  | jobWrite (landing : Nat) (writes : List (Addr × Tryte)) (signal : Int) (word : Int)
  | jobSignal (tag : Nat)
  /-- Trytes of several places, read, accepted, written or updated as one: those of an access whose pages lie apart. -/
  | loads (ps : List Nat) (bin : Bool)
  | accepts (ps : List Nat) (needs : Bool)
  | stores (ws : List (Nat × Tryte)) (bin : Bool)
  | updates (ps : List Nat) (u : Update)
  /-- A byte-wise write of part of trytes: of each, the trits whose mask trit is not 0 are replaced at the access's place (R251). -/
  | patch (ws : List (Nat × Tryte × Tryte))
  /-- A post fired by a binding, held at the port's module until it lands or is dropped (R343). -/
  | fired (port : Int) (msg : Int)
  /-- A fault for the log of a context of the asked module (R343). -/
  | fault (ctx : Nat) (entry : List Int)
  | debug (name : Int) (op : DebugOp)
  /-- A place for a binding kept at the home of a signal before any slice binds, and given back (R342). -/
  | acceptBind (phys : Nat)
  | unbind (phys : Nat)
  /-- A signal whose double lies partly elsewhere has become 0: its binding fires (R343). -/
  | zeroed (phys : Nat)
  deriving DecidableEq, Repr

/-- What the asked module answers; a refusal carries the cause code that the requester reports. -/
inductive RemoteReply where
  | vals (vs : List Int)
  | done
  | refused (code : Int)
  deriving DecidableEq, Repr

/-- One module's contribution to a deadline reduction (R353): submitting module, context, its agency, number, and the element words as
read from its source. -/
structure RedPart where
  modul  : Nat
  ctx    : Nat
  agency : Nat
  num    : Nat
  vals  : List Int
  deriving DecidableEq, Repr

/-- What a stage sends towards the root (R408 to R410): the card, the contributor list, the contributions in the partial
sum, and whether it travels by itself as a late one. The exact sum that the hardware forwards is the sum of the parts
(R409), and the root accepts each by itself (R353, R414). -/
structure Contribution where
  card    : List Int
  members : List Nat
  parts   : List RedPart
  late    : Bool
  deriving DecidableEq, Repr

/-- What the payload of a flit carries. The manual fixes the flit and its classes (R396) and not the layout of the
class headers inside the payload, so the payload's meaning stands beside its bytes. -/
inductive FlitMsg where
  | nothing
  | request (tag src srcCtx : Nat) (r : RemoteReq)
  | response (tag : Nat) (r : RemoteReply)
  | contribution (c : Contribution)
  /-- The root tells a contributor what became of its contribution (R354, R414): key, context, number, state. -/
  | verdict (key : Int) (ctx num : Nat) (state : Int)
  | fence (m : Nat)
  /-- What a port's control flits tell its neighbour (R399). -/
  | hello (p : Placement)
  deriving DecidableEq, Repr

/-- A flit as received at a fabric port: its 176 bytes (R396) and the meaning of its payload. -/
structure Flit where
  bytes : List Byte
  msg   : FlitMsg
  deriving DecidableEq, Repr

/-- The instructions and steps of the device, one constructor per row of the opcode table. -/
inductive Instr where
  /-- ADD (R81). -/
  | add (f : SaluF)
  /-- SUB (R81). -/
  | sub (f : SaluF)
  /-- MUL (R81). -/
  | mul (f : SaluF)
  /-- MULH (R81). -/
  | mulh (f : SaluF)
  /-- DIV (R81). -/
  | div (f : SaluF)
  /-- REM (R81). -/
  | rem (f : SaluF)
  /-- CMP (R81). -/
  | cmp (f : SaluF)
  /-- MIN (R81). -/
  | min (f : SaluF)
  /-- MAX (R81). -/
  | max (f : SaluF)
  /-- TINV (R81). -/
  | tinv (f : SaluF)
  /-- TMIN (R81). -/
  | tmin (f : SaluF)
  /-- TMAX (R81). -/
  | tmax (f : SaluF)
  /-- TSUM (R81). -/
  | tsum (f : SaluF)
  /-- TCON (R81). -/
  | tcon (f : SaluF)
  /-- SHL (R82). -/
  | shl (f : SaluF)
  /-- SHR (R82). -/
  | shr (f : SaluF)
  /-- ADDI (R84). -/
  | addi (f : SimmF)
  /-- MULI (R84). -/
  | muli (f : SimmF)
  /-- CMPI (R84). -/
  | cmpi (f : SimmF)
  /-- SHLI (R84). -/
  | shli (f : SimmF)
  /-- SHRI (R84). -/
  | shri (f : SimmF)
  /-- TMINI (R84). -/
  | tmini (f : SimmF)
  /-- TMAXI (R84). -/
  | tmaxi (f : SimmF)
  /-- TSUMI (R84). -/
  | tsumi (f : SimmF)
  /-- LDI (R84). -/
  | ldi (f : SimmF)
  /-- LDHI (R84). -/
  | ldhi (f : SimmF)
  /-- B (R86). -/
  | b (c : Cond) (r : SReg) (disp : Int)
  /-- B3 (R86). -/
  | b3 (r : SReg) (neg pos : Int)
  /-- CALL (R86). -/
  | call (link : SReg) (disp : Int)
  /-- JR (R86). -/
  | jr (r : SReg)
  /-- JALR (R86). -/
  | jalr (link r : SReg)
  /-- RET (R86). -/
  | ret (r : SReg)
  /-- TRAP (R89). -/
  | trap (r : SReg) (code : Int)
  /-- BRK (R89). -/
  | brk (code : Int)
  /-- RDSR (R91). -/
  | rdsr (r : SReg) (sr : SpecialReg)
  /-- WRSR (R91). -/
  | wrsr (r : SReg) (sr : SpecialReg)
  /-- REGANG (R93). -/
  | regang (set : Int)
  /-- LD_I9 (R95). -/
  | ldI9 (f : SmemF)
  /-- LD_I27 (R95). -/
  | ldI27 (f : SmemF)
  /-- LD_I54 (R95). -/
  | ldI54 (f : SmemF)
  /-- ST_I9 (R95). -/
  | stI9 (f : SmemF)
  /-- ST_I27 (R95). -/
  | stI27 (f : SmemF)
  /-- ST_I54 (R95). -/
  | stI54 (f : SmemF)
  /-- LEA (R95). -/
  | lea (f : SmemF)
  /-- PF (R95). -/
  | pf (f : SmemF)
  /-- VADD (R98). -/
  | vadd (f : ValuF)
  /-- VSUB (R98). -/
  | vsub (f : ValuF)
  /-- VMUL (R98). -/
  | vmul (f : ValuF)
  /-- VDIV (R98). -/
  | vdiv (f : ValuF)
  /-- VMIN (R98). -/
  | vmin (f : ValuF)
  /-- VMAX (R98). -/
  | vmax (f : ValuF)
  /-- VFMA (R98). -/
  | vfma (f : ValuF)
  /-- VFMS (R98). -/
  | vfms (f : ValuF)
  /-- VABS (R98). -/
  | vabs (f : ValuF)
  /-- VCMP (R99). -/
  | vcmp (f : VcmpF)
  /-- VSEL3 (R100). -/
  | vsel3 (f : ValuF)
  /-- VTINV (R97). -/
  | vtinv (f : ValuF)
  /-- VTMIN (R97). -/
  | vtmin (f : ValuF)
  /-- VTMAX (R97). -/
  | vtmax (f : ValuF)
  /-- VTSUM (R97). -/
  | vtsum (f : ValuF)
  /-- VTCON (R97). -/
  | vtcon (f : ValuF)
  /-- VSHL (R98). -/
  | vshl (f : ValuF)
  /-- VSHR (R98). -/
  | vshr (f : ValuF)
  /-- VMOV (R97). -/
  | vmov (f : ValuF)
  /-- VRCP (R103). -/
  | vrcp (f : ValuF)
  /-- VRSQ (R103). -/
  | vrsq (f : ValuF)
  /-- VSQRT (R103). -/
  | vsqrt (f : ValuF)
  /-- VEXP3 (R103). -/
  | vexp3 (f : ValuF)
  /-- VLOG3 (R103). -/
  | vlog3 (f : ValuF)
  /-- VEXP (R103). -/
  | vexp (f : ValuF)
  /-- VLOG (R103). -/
  | vlog (f : ValuF)
  /-- VSIN (R103). -/
  | vsin (f : ValuF)
  /-- VCOS (R103). -/
  | vcos (f : ValuF)
  /-- VTANH (R103). -/
  | vtanh (f : ValuF)
  /-- CVT (R105). -/
  | cvt (f : CvtF)
  /-- VPACK (R106). -/
  | vpack (f : VpermF)
  /-- VUNPK (R106). -/
  | vunpk (f : VunpkF)
  /-- VSHFL (R107). -/
  | vshfl (f : VpermF)
  /-- VROTL (R107). -/
  | vrotl (f : VpermSF)
  /-- VBCAST (R107). -/
  | vbcast (f : VpermSF)
  /-- VRED (R108). -/
  | vred (f : VredF)
  /-- VSCAN (R108). -/
  | vscan (f : VredF)
  /-- VCOMPR (R109). -/
  | vcompr (f : VcomprF)
  /-- VEXPD (R109). -/
  | vexpd (f : VcomprF)
  /-- VIDX (R109). -/
  | vidx (f : VidxF)
  /-- VINS (R110). -/
  | vins (f : VinsF)
  /-- VEXT (R110). -/
  | vext (f : VextF)
  /-- MMIN (R111). -/
  | mmin (d a b : MReg)
  /-- MMAX (R111). -/
  | mmax (d a b : MReg)
  /-- MINV (R111). -/
  | minv (d a : MReg)
  /-- MCON (R111). -/
  | mcon (d a b : MReg)
  /-- MSET (R111). -/
  | mset (d : MReg) (a : SReg)
  /-- MGET (R111). -/
  | mget (d : SReg) (a : MReg)
  /-- MCNT (R111). -/
  | mcnt (d : SReg) (a : MReg) (c : Trit)
  /-- VADDI (R112). -/
  | vaddi (f : VimmF)
  /-- VMULI (R112). -/
  | vmuli (f : VimmF)
  /-- VCMPI (R112). -/
  | vcmpi (f : VcmpiF)
  /-- VSHLI (R112). -/
  | vshli (f : VimmF)
  /-- VSHRI (R112). -/
  | vshri (f : VimmF)
  /-- VLDI (R112). -/
  | vldi (f : VimmF)
  /-- VLD (R114). -/
  | vld (f : VmemF)
  /-- VST (R114). -/
  | vst (f : VmemF)
  /-- VGTH (R114). -/
  | vgth (f : VgthF)
  /-- VSCT (R114). -/
  | vsct (f : VgthF)
  /-- VPF (R114). -/
  | vpf (f : VmemF)
  /-- SWEEP_SEGMENT (R59). -/
  | sweepSegment (i : IssueRef)
  /-- LOOKAHEAD_RESULT_LANDS (R50). -/
  | lookaheadResultLands (team gang : Nat)
  /-- PHINIT (R119). -/
  | phinit (x y : SReg)
  /-- PHARR (R120). -/
  | pharr (x y z : SReg)
  /-- PHARR_W (R120). -/
  | pharrW (x y z : SReg)
  /-- PHEXP (R121). -/
  | phexp (x y : SReg)
  /-- PHWAIT (R121). -/
  | phwait (x y : SReg)
  /-- BAR (R123). -/
  | bar (m : MReg)
  /-- SYNCS (R123). -/
  | syncs (x : SReg)
  /-- YIELD (R121). -/
  | yield (x y z : SReg)
  /-- RACQ (R124). -/
  | racq (x : SReg) (m : MReg)
  /-- RACQ_W (R124). -/
  | racqW (x : SReg)
  /-- RREL (R124). -/
  | rrel (x : SReg)
  /-- PHASE (R125). -/
  | phase (x y : SReg)
  /-- PHASE_T (R125). -/
  | phaseT (x y : SReg)
  /-- WAIT_RELEASE (R143). -/
  | waitRelease (i : IssueRef)
  /-- YIELD_RESUME (R121). -/
  | yieldResume (i : IssueRef)
  /-- CPY_G (R204). -/
  | cpyG (f : CpyF)
  /-- CPY_S (R204). -/
  | cpyS (f : CpyF)
  /-- CPSEAL (R207). -/
  | cpseal (x y : SReg)
  /-- CPWAIT_RD (R208). -/
  | cpwaitRd (x : SReg)
  /-- CPWAIT_VIS (R208). -/
  | cpwaitVis (x : SReg)
  /-- LANE_COPY_READ_DONE (R199). -/
  | laneCopyReadDone (id : Nat)
  /-- LANE_COPY_VISIBLE (R199). -/
  | laneCopyVisible (id : Nat)
  /-- FAULTED_COPY_FINISH (R205). -/
  | faultedCopyFinish (id : Nat)
  /-- JOBSUB (R219). -/
  | jobsub (x y : SReg)
  /-- JOBQRY (R220). -/
  | jobqry (x y : SReg)
  /-- ADVSTG (R221). -/
  | advstg (x y : SReg)
  /-- JOB_START (R195). -/
  | jobStart (ctx job : Nat)
  /-- JOB_ACCESS (R217). -/
  | jobAccess (ctx job : Nat)
  /-- JOB_READ_DONE (R197). -/
  | jobReadDone (ctx job : Nat)
  /-- JOB_VISIBLE_COMPLETION (R218). -/
  | jobVisibleCompletion (ctx job : Nat)
  /-- M2M_JOB_ACK (R214). -/
  | m2mJobAck (ctx job : Nat)
  /-- FAULTED_JOB_FINISH (R217). -/
  | faultedJobFinish (ctx job : Nat)
  /-- LDB_S8 (R223). -/
  | ldbS8 (f : BmemF)
  /-- LDB_S16 (R223). -/
  | ldbS16 (f : BmemF)
  /-- LDB_S32 (R223). -/
  | ldbS32 (f : BmemF)
  /-- LDB_S64 (R223). -/
  | ldbS64 (f : BmemF)
  /-- LDB_Z8 (R223). -/
  | ldbZ8 (f : BmemF)
  /-- LDB_Z16 (R223). -/
  | ldbZ16 (f : BmemF)
  /-- LDB_Z32 (R223). -/
  | ldbZ32 (f : BmemF)
  /-- STB_S8 (R223). -/
  | stbS8 (f : BmemF)
  /-- STB_S16 (R223). -/
  | stbS16 (f : BmemF)
  /-- STB_S32 (R223). -/
  | stbS32 (f : BmemF)
  /-- STB_S64 (R223). -/
  | stbS64 (f : BmemF)
  /-- STB_Z8 (R223). -/
  | stbZ8 (f : BmemF)
  /-- STB_Z16 (R223). -/
  | stbZ16 (f : BmemF)
  /-- STB_Z32 (R223). -/
  | stbZ32 (f : BmemF)
  /-- AADD (R226). -/
  | aadd (f : AtomF)
  /-- AMIN (R226). -/
  | amin (f : AtomF)
  /-- AMAX (R226). -/
  | amax (f : AtomF)
  /-- ASWP (R226). -/
  | aswp (f : AtomF)
  /-- ACAS (R226). -/
  | acas (f : AtomF)
  /-- REDM (R228). -/
  | redm (x y : SReg) (op : RedOp) (ty : Ty)
  /-- REDM_UPDATE (R191). -/
  | redmUpdate (id : Nat)
  /-- FENCE (R194). -/
  | fence (sc : Scope)
  /-- TLBINV (R231). -/
  | tlbinv (x y z : SReg) (sc : Scope)
  /-- TLBINV_COMPLETE (R232). -/
  | tlbinvComplete (id : Nat)
  /-- CWB (R233). -/
  | cwb (x y : SReg)
  /-- CINV (R233). -/
  | cinv (x y : SReg)
  /-- CWBI (R233). -/
  | cwbi (x y : SReg)
  /-- MXM_N3 (R289). -/
  | mxmN3 (f : MxmF) (desc : Fin 9)
  /-- MXM_N3_Z (R290). -/
  | mxmN3Z (f : MxmF) (desc : Fin 9)
  /-- MXM_I9 (R289). -/
  | mxmI9 (f : MxmF) (sat : Bool)
  /-- MXM_F9 (R289). -/
  | mxmF9 (f : MxmF) (rnd : Option Rnd)
  /-- MXM_I27 (R289). -/
  | mxmI27 (f : MxmF) (sat : Bool)
  /-- MXM_F27 (R289). -/
  | mxmF27 (f : MxmF) (rnd : Option Rnd)
  /-- MATRIX_OP_ENTER_ARRAY (R324). -/
  | matrixOpEnterArray (core : Nat)
  /-- MATRIX_OP_RETIRE (R289). -/
  | matrixOpRetire (core : Nat)
  /-- MXZ (R294). -/
  | mxz (x : TReg)
  /-- TLD (R295). -/
  | tld (x : VReg) (y : TReg) (z : SReg)
  /-- TLD_C (R295). -/
  | tldC (x : VReg) (y : TReg) (z : SReg)
  /-- TST (R295). -/
  | tst (x : VReg) (y : TReg) (z : SReg)
  /-- TST_C (R295). -/
  | tstC (x : VReg) (y : TReg) (z : SReg)
  /-- TILE_MOVE_LAND (R295). -/
  | tileMoveLand (team gang : Nat)
  /-- TWAIT (R298). -/
  | twait (x : SReg)
  /-- MXSEAL (R297). -/
  | mxseal (x : SReg)
  /-- MXWAIT (R297). -/
  | mxwait (x : SReg)
  /-- TKGIVE (R300). -/
  | tkgive (x : TReg) (y : SReg)
  /-- TOKEN_PASS (R300). -/
  | tokenPass (team : Nat) (tile : TReg)
  /-- TKTAKE (R301). -/
  | tktake (x : TReg) (y : MReg)
  /-- QNT (R305). -/
  | qnt (f : MxqF)
  /-- DQNT (R306). -/
  | dqnt (f : MxqF)
  /-- RQZ (R307). -/
  | rqz (f : MxqF)
  /-- BSCL (R308). -/
  | bscl (f : MxqF)
  /-- ZPK (R309). -/
  | zpk (f : ZpkF)
  /-- ZUPK (R309). -/
  | zupk (f : ZpkF)
  /-- VDOT (R310). -/
  | vdot (f : MxqF)
  /-- VDOTN (R310). -/
  | vdotn (f : MxqF)
  /-- PORTCFG (R333). -/
  | portcfg (x y z : SReg)
  /-- POST (R334). -/
  | post (x y : SReg)
  /-- POST_NF (R334). -/
  | postNf (x y : SReg) (m : MReg)
  /-- PATSET (R339). -/
  | patset (x y z : SReg) (prio : Int)
  /-- PATEN (R340). -/
  | paten (x : SReg)
  /-- PATDIS (R340). -/
  | patdis (x : SReg)
  /-- PORTQRY (R337). -/
  | portqry (x y : SReg)
  /-- SIGDEC (R341). -/
  | sigdec (x y z : SReg)
  /-- SIGADD (R341). -/
  | sigadd (x y z : SReg)
  /-- SIGBIND (R342). -/
  | sigbind (x y z : SReg)
  /-- HELD_SIGNAL_POST_LAND (R343). -/
  | heldSignalPostLand (n : Nat)
  /-- JOIN_UNIT_CYCLE (R383). -/
  | joinUnitCycle (core : Nat)
  /-- LAUNCH (R349). -/
  | launch (x : SReg)
  /-- REDSUB (R353). -/
  | redsub (x y : SReg)
  /-- REDQRY (R354). -/
  | redqry (x y : SReg)
  /-- TRCEV (R355). -/
  | trcev (x : SReg) (code : Int)
  /-- TRCCTL_START (R356). -/
  | trcctlStart (x : SReg)
  /-- TRCCTL_STOP (R356). -/
  | trcctlStop (x : SReg)
  /-- TRCCTL_FLUSH (R356). -/
  | trcctlFlush (x : SReg)
  /-- PRFCTL (R357). -/
  | prfctl (x : SReg) (k : Nat)
  /-- WATCH (R359). -/
  | watch (x : SReg) (n : Fin 27)
  /-- UNWATCH (R359). -/
  | unwatch (n : Fin 27)
  /-- DBGWIN (R360). -/
  | dbgwin (x : SReg) (n : Fin 9)
  /-- HALTG (R361). -/
  | haltg (x : SReg)
  /-- RESMG (R361). -/
  | resmg (x : SReg)
  /-- TIMERD (R362). -/
  | timerd (d : SReg) (sel : TimeSel)
  /-- ACCRD (R451). -/
  | accrd (d : SReg) (agency : Nat) (c : Nat)
  /-- ACCRD_SNAPSHOT (R451). -/
  | accrdSnapshot (d : SReg) (agency : Nat)
  /-- ENGINE_WATCH_STOP (R447). -/
  | engineWatchStop (team gang : Nat)
  /-- GRID_COMPLETION (R150). -/
  | gridCompletion (grid : Nat)
  /-- TEAM_END (R149). -/
  | teamEnd (team : Nat)
  /-- MID_PHASE_SAVE_WRITE (R271). -/
  | midPhaseSaveWrite (team : Nat)
  /-- QUEUE_ENTRY_PROCESS (R370). -/
  | queueEntryProcess (port : Fin 2) (q : Fin 27)
  /-- CONTEXT_CREATE (R393). -/
  | contextCreate (port : Fin 2) (c : CtxCreate)
  /-- CONTEXT_DESTROY (R393). -/
  | contextDestroy (port : Fin 2) (ctx : Nat)
  /-- OPEN_LANDING (R393). -/
  | openLanding (port : Fin 2) (ctx peer peerCtx : Nat)
  /-- CLOSE_LANDING (R393). -/
  | closeLanding (port : Fin 2) (ctx peer peerCtx : Nat)
  /-- LINK_DOWN_TIMEOUT (R403). -/
  | linkDownTimeout (port : Fin 27)
  /-- MODULE_FENCE (R403). -/
  | moduleFence (m : Nat)
  /-- FENCE_ANNOUNCEMENT (R404). -/
  | fenceAnnouncement (m : Nat)
  /-- FLAG_FALL (R410). -/
  | flagFall (key : Int)
  /-- ROOT_WRITE (R411). -/
  | rootWrite (key : Int)
  /-- ROOT_WRITE_TIMEOUT (R411). -/
  | rootWriteTimeout (key : Int)
  /-- CORRECTION_APPLY (R417). -/
  | correctionApply (key : Int)
  /-- REDUCTION_CLOSE (R418). -/
  | reductionClose (key : Int)
  /-- REDUCTION_MAP_EXPIRY (R418). -/
  | reductionMapExpiry (key : Int)
  /-- SYNC_RECORD_PERIODIC (R434). -/
  | syncRecordPeriodic (agency source cycle : Nat)
  /-- SAMPLE_TICK (R443). -/
  | sampleTick (core sched cycle : Nat)
  /-- TRACE_HOLD_DRAIN (R440). -/
  | traceHoldDrain (agency source : Nat)
  /-- CONTRIBUTION_SOURCE_READ (R353). -/
  | contributionSourceRead (ctx red : Nat)
  /-- NOP (R88). -/
  | nop
  /-- RETT (R260). -/
  | rett
  /-- EXIT (R88). -/
  | exit
  /-- ATOMIC_SERVE (R190). -/
  | atomicServe
  /-- DISTRIBUTOR_PLACE (R375). -/
  | distributorPlace
  /-- HIGH_PRIORITY_WAIT_EXPIRY (R379). -/
  | highPriorityWaitExpiry
  /-- REMOTE_REQUEST_SERVE (R402). -/
  | remoteRequestServe
  /-- REDUCTION_CONTRIBUTION_ARRIVE (R409). -/
  | reductionContributionArrive
  /-- MODULE_RESET (R454). -/
  | moduleReset
  /-- ENERGY_ESTIMATE_UPDATE (R465). -/
  | energyEstimateUpdate
  /-- RESIDENCY_CYCLE_COUNT (R465). -/
  | residencyCycleCount
  /-- PEER_FREEZE (R460). -/
  | peerFreeze (m : Nat)
  /-- TRANSLATION_WALK (R166). -/
  | translationWalk (core ctx : Nat) (a : Addr)
  /-- QUEUE_TAIL_WRITE (R372). -/
  | queueTailWrite (port : Fin 2) (q : Fin 27) (tail : Nat)
  /-- QUEUE_STATE_WRITE (R369). -/
  | queueStateWrite (port : Fin 2) (q : Fin 27) (st : Nat)
  /-- REGISTER_WRITE (R250). -/
  | registerWrite (port : Fin 2) (off : Nat) (bytes : List Byte)
  /-- RAW_WINDOW_WRITE (R251). -/
  | rawWindowWrite (w : WinWrite)
  /-- RAW_WINDOW_READ (R251). -/
  | rawWindowRead (r : WinRead)
  /-- INTEGER_WINDOW_WRITE (R253). -/
  | integerWindowWrite (w : WinWrite)
  /-- INTEGER_WINDOW_READ (R253). -/
  | integerWindowRead (r : WinRead)
  /-- FLOAT_WINDOW_WRITE (R254). -/
  | floatWindowWrite (w : WinWrite)
  /-- FLOAT_WINDOW_READ (R254). -/
  | floatWindowRead (r : WinRead)
  /-- PHYSICAL_WINDOW_WRITE (R394). -/
  | physicalWindowWrite (w : WinWrite)
  /-- PHYSICAL_WINDOW_READ (R394). -/
  | physicalWindowRead (r : WinRead)
  /-- FLIT_RECEIVE (R396). -/
  | flitReceive (port : Fin 27) (f : Flit)
  /-- PORT_DISCOVERY (R399). -/
  | portDiscovery (port : Fin 27) (n : Placement)
  /-- CLUSTER_POWER_GATE (R442). -/
  | clusterPowerGate (cluster : Nat) (forced : Bool)
  /-- PTP_MESSAGE (R427). -/
  | ptpMessage (p : PtpUpdate)
  /-- BOOT_IMAGE_LOAD (R455). -/
  | bootImageLoad (k : ImageKind)
  /-- FUNCTION_READY (R459). -/
  | functionReady (f : Function)
  /-- GET_VERSION (R457). -/
  | getVersion (e : Endpoint)
  /-- GET_CAPABILITIES (R457). -/
  | getCapabilities (e : Endpoint)
  /-- NEGOTIATE_ALGORITHMS (R457). -/
  | negotiateAlgorithms (e : Endpoint) (mldsa44 sha3 : Bool)
  /-- GET_DIGESTS (R457). -/
  | getDigests (e : Endpoint)
  /-- GET_CERTIFICATE (R457). -/
  | getCertificate (e : Endpoint) (slot : Nat)
  /-- CHALLENGE (R457). -/
  | challenge (e : Endpoint) (slot : Nat) (nonce : List Byte)
  /-- GET_MEASUREMENTS (R457). -/
  | getMeasurements (e : Endpoint) (idx : Nat)
  /-- PLACEMENT_RECORD_WRITE (R397). -/
  | placementRecordWrite (p : Placement) (bytes : Framed (List Byte))
  /-- SIGNED_SNAPSHOT (R467). -/
  | signedSnapshot (agency : Nat) (nonce : Framed (List Byte))
  /-- FLASH_WRITE (R456). -/
  | flashWrite (k : ImageKind) (img : Framed Image)
  /-- SELF_TEST_COMPLETE (R461). -/
  | selfTestComplete (u : TestUnit) (lasting : Bool)
  /-- THERMAL_THROTTLE (R469). -/
  | thermalThrottle (die temp : Nat)
  /-- THERMAL_SHUTDOWN (R469). -/
  | thermalShutdown (die temp : Nat)
  /-- LEASE_EXPIRY (R186). -/
  | leaseExpiry (core line : Nat)
  /-- FABRIC_TIME_HOLDOVER (R428). -/
  | fabricTimeHoldover (die : Nat) (err : Nat)
  /-- MALFORMED_MANAGEMENT_FRAME (R458). -/
  | malformedManagementFrame (kind len datagram : Nat)
  /-- GATED_CLUSTER_RESTART (R442). -/
  | gatedClusterRestart (cluster : Nat)
  deriving DecidableEq, Repr

end Sys2Proof
end

