-- ==== Sys2Proof/WellFormed.lean ====
section
/-!
DEFINITION. Which instructions have an encoding: the limits of the operand fields that the types of Syntax.lean do not
already state (R44 to R58 and each instruction's own table). An instruction that is well formed is one that the decoder
accepts; rows of the table that are steps of the device have no word and are always well formed.
-/
namespace Sys2Proof

/-- lo ≤ x ≤ hi. -/
def inRange (lo hi x : Int) : Bool := decide (lo ≤ x) && decide (x ≤ hi)

/-- The immediate of 12 trits (R44). -/
def immOk (x : Int) : Bool := inRange (-265720) 265720 x
/-- The offset of 9 trits (R44). -/
def offOk (x : Int) : Bool := inRange (-9841) 9841 x
/-- The displacement or system immediate of 16 trits (R44). -/
def dispOk (x : Int) : Bool := inRange (-21523360) 21523360 x
/-- A displacement of 8 trits (B3). -/
def disp8Ok (x : Int) : Bool := inRange (-3280) 3280 x

/-- A sweep prefix: 1 to 6,560 segments, steps of 5 trits that are multiples of 3 (R58). -/
def Sweep.ok (s : Sweep) : Bool :=
  decide (1 ≤ s.count) && decide (s.count ≤ 6560) &&
  inRange (-121) 121 s.dstep && inRange (-121) 121 s.astep && inRange (-121) 121 s.bstep &&
  decide (s.dstep % 3 = 0) && decide (s.astep % 3 = 0) && decide (s.bstep % 3 = 0)

/-- A prefix before an instruction without fourth operand (R57). -/
def attrNo4 (a : Option Attr) : Bool :=
  match a with
  | none => true
  | some p => p.fourth.isNone

/-- A prefix before SALU and SIMM: no mask, no policy, no fourth operand (R57). -/
def attrScalar (a : Option Attr) : Bool :=
  match a with
  | none => true
  | some p => p.fourth.isNone && decide (p.mask = 0) && decide (p.policy = .dflt)

/-- At most one of the two mask fields is nonzero (R57). -/
def maskOnce (a : Option Attr) (m : MReg) : Bool :=
  match a with
  | none => true
  | some p => decide (p.mask = 0) || decide (m = 0)

/-- The fourth operand stands exactly where need says so (R57). -/
def attr4 (need : Bool) (a : Option Attr) : Bool :=
  match a with
  | none => !need
  | some p => p.fourth.isSome == need

/-- SALU types (R80). -/
def scalarTy (t : Ty) : Bool := decide (t = .i9) || decide (t = .i27) || decide (t = .i54)
/-- The four vector element types (R97). -/
def vecTy (t : Ty) : Bool :=
  decide (t = .i27) || decide (t = .f27) || decide (t = .i9x3) || decide (t = .f9x3)
/-- Integer element types. -/
def vecIntTy (t : Ty) : Bool := decide (t = .i27) || decide (t = .i9x3)
/-- Float element types (R102). -/
def vecFloatTy (t : Ty) : Bool := decide (t = .f27) || decide (t = .f9x3)

/-- SALU (R80): lookahead only on the forms marked L, one source for TINV. -/
def SaluF.ok (oneSrc hasLa : Bool) (f : SaluF) : Bool :=
  attrScalar f.attr && scalarTy f.ty && (hasLa || decide (f.la = 0)) && (!oneSrc || decide (f.b = 0))

/-- SIMM (R84); LDI has no source. -/
def SimmF.ok (noSrc : Bool) (f : SimmF) : Bool :=
  attrScalar f.attr && immOk f.imm && (!noSrc || decide (f.a = 0))

/-- SMEM (R94). -/
def SmemF.ok (hasLa noData : Bool) (f : SmemF) : Bool :=
  offOk f.off && (hasLa || decide (f.la = 0)) && (!noData || decide (f.d = 0))

/-- VALU and VSFU (R97, R102): the accepted types, the second source, the fourth operand, the window. -/
def ValuF.ok (tys : Ty → Bool) (hasB need4 hasLa : Bool) (f : ValuF) : Bool :=
  attr4 need4 f.attr && maskOnce f.attr f.mask && tys f.ty &&
  match f.ops with
  | .regs _ _ b => (hasLa || decide (f.la = 0)) && (hasB || decide (b = 0))
  | .swept sw _ _ b => decide (f.la = 0) && sw.ok && (hasB || (decide (b = 0) && decide (sw.bstep = 0)))

/-- VSEL3 takes the default policy only (R100). -/
def policyDflt (a : Option Attr) : Bool :=
  match a with
  | none => true
  | some p => decide (p.policy = .dflt)

/-- CVT pairs (R105). -/
def cvtPair (s t : Ty) : Bool :=
  match s, t with
  | .i27, .f27 | .i27, .f18 | .f27, .i27 | .f27, .f18 | .f18, .i27 | .f18, .f27 | .i9x3, .f9x3 | .f9x3, .i9x3 => true
  | _, _ => false

/-- VIMM (R112). -/
def VimmF.ok (noSrc : Bool) (f : VimmF) : Bool :=
  attrNo4 f.attr && immOk f.imm &&
  match f.ops with
  | .regs _ a => !noSrc || decide (a = 0)
  | .swept sw _ a => sw.ok && decide (sw.bstep = 0) && (!noSrc || (decide (a = 0) && decide (sw.astep = 0)))

/-- VLD, VST, VPF (R113); only VLD has a window, VPF has no data register. -/
def VmemF.ok (hasLa noData : Bool) (f : VmemF) : Bool :=
  attrNo4 f.attr && offOk f.off && (hasLa || decide (f.la = 0)) && (!noData || decide (f.d = 0))

/-- VGTH, VSCT (R113). -/
def VgthF.ok (hasLa : Bool) (f : VgthF) : Bool := attrNo4 f.attr && (hasLa || decide (f.la = 0))

/-- QNT to VDOTN (R303). -/
def MxqF.ok (tys : Ty → Bool) (need4 hasLa : Bool) (f : MxqF) : Bool :=
  attr4 need4 f.attr && maskOnce f.attr f.mask && tys f.ty && (hasLa || decide (f.la = 0))

/-- ZPK and ZUPK (R303): no mask, no policy. -/
def ZpkF.ok (noB : Bool) (f : ZpkF) : Bool := attrScalar f.attr && (!noB || decide (f.sb = 0))

/-- The PRFCTL intervals (R357). -/
def prfOk (k : Nat) : Bool := decide (k = 0) || (decide (6 ≤ k) && decide (k ≤ 18))

/-- The counters that ACCRD reads without taking a snapshot (R363). -/
def counterOk (c : Nat) : Bool := decide (c ≤ 9) || (decide (13 ≤ c) && decide (c ≤ 22))

/-- Atomic types of AADD, AMIN, AMAX and REDM (R225, R228). -/
def atomTy (t : Ty) : Bool := decide (t = .i27) || decide (t = .f27) || decide (t = .i54)
/-- Atomic types of ASWP and ACAS (R225). -/
def swapTy (t : Ty) : Bool := decide (t = .i27) || decide (t = .i54)
/-- f27 or f9x3. -/
def isI27 (t : Ty) : Bool := decide (t = .i27)
/-- n3 only. -/
def isN3 (t : Ty) : Bool := decide (t = .n3)
/-- VDOT types (R303). -/
def vdotTy (t : Ty) : Bool := decide (t = .i9x3) || decide (t = .f9x3)
/-- VPACK types (R104). -/
def vpackTy (t : Ty) : Bool := decide (t = .i27) || decide (t = .f27)

/-- CVT (R104, R105). -/
def CvtF.ok (f : CvtF) : Bool := attrNo4 f.attr && maskOnce f.attr f.mask && cvtPair f.src f.dst
/-- VPACK and VSHFL (R104). -/
def VpermF.ok (tys : Ty → Bool) (need4 hasLa : Bool) (f : VpermF) : Bool :=
  attr4 need4 f.attr && maskOnce f.attr f.mask && tys f.ty && (hasLa || decide (f.la = 0))
/-- VUNPK (R104). -/
def VunpkF.ok (f : VunpkF) : Bool := attrNo4 f.attr && maskOnce f.attr f.mask && vdotTy f.ty
/-- VRED and VSCAN (R104). -/
def VredF.ok (f : VredF) : Bool := attrNo4 f.attr && maskOnce f.attr f.mask && vecTy f.ty
/-- VROTL and VBCAST (R104). -/
def VpermSF.ok (f : VpermSF) : Bool := attrNo4 f.attr && maskOnce f.attr f.mask && vecIntTy f.ty
/-- VCOMPR and VEXPD (R104). -/
def VcomprF.ok (f : VcomprF) : Bool := attrNo4 f.attr && maskOnce f.attr f.mask
/-- VIDX (R104). -/
def VidxF.ok (f : VidxF) : Bool := attrNo4 f.attr && maskOnce f.attr f.mask && vecIntTy f.ty
/-- VINS (R104). -/
def VinsF.ok (f : VinsF) : Bool := attrNo4 f.attr && maskOnce f.attr f.mask
/-- VCMP (R97, R99). -/
def VcmpF.ok (f : VcmpF) : Bool := attrNo4 f.attr && maskOnce f.attr f.mask && vpackTy f.ty
/-- VCMPI (R112). -/
def VcmpiF.ok (f : VcmpiF) : Bool := attrNo4 f.attr && immOk f.imm
/-- LDB and STB (R222). -/
def BmemF.ok (f : BmemF) : Bool := attrNo4 f.attr && offOk f.off

/-- The instruction has an encoding that the decoder accepts. -/
def Instr.wellFormed : Instr → Bool
  | .add f | .sub f | .cmp f | .min f | .max f | .tmin f | .tmax f | .tsum f | .tcon f | .shl f | .shr f =>
      f.ok false false
  | .mul f | .mulh f | .div f | .rem f => f.ok false true
  | .tinv f => f.ok true false
  | .addi f | .muli f | .cmpi f | .shli f | .shri f | .tmini f | .tmaxi f | .tsumi f | .ldhi f => f.ok false
  | .ldi f => f.ok true
  | .b c r d => dispOk d && (decide (c ≠ .always) || decide (r = 0))
  | .b3 _ n p => disp8Ok n && disp8Ok p
  | .call _ d => dispOk d
  | .trap _ c => dispOk c
  | .brk c => dispOk c
  | .trcev _ c => dispOk c
  | .regang set => offOk set
  | .ldI9 f | .ldI27 f | .ldI54 f => f.ok true false
  | .stI9 f | .stI27 f | .stI54 f | .lea f => f.ok false false
  | .pf f => f.ok false true
  | .vadd f | .vsub f | .vmin f | .vmax f => f.ok vecTy true false false
  | .vmul f | .vdiv f => f.ok vecTy true false true
  | .vfma f | .vfms f => f.ok vecTy true true true
  | .vabs f => f.ok vecTy false false false
  | .vsel3 f => f.ok isI27 true true false && policyDflt f.attr
  | .vtinv f | .vmov f => f.ok isI27 false false false
  | .vtmin f | .vtmax f | .vtsum f | .vtcon f => f.ok isI27 true false false
  | .vshl f | .vshr f => f.ok vecIntTy true false false
  | .vrcp f | .vrsq f | .vsqrt f | .vexp3 f | .vlog3 f | .vexp f | .vlog f | .vsin f | .vcos f | .vtanh f =>
      f.ok vecFloatTy false false true
  | .vcmp f => f.ok
  | .cvt f => f.ok
  | .vpack f => f.ok vpackTy true false
  | .vshfl f => f.ok vecIntTy false true
  | .vunpk f => f.ok
  | .vrotl f | .vbcast f => f.ok
  | .vred f | .vscan f => f.ok
  | .vcompr f | .vexpd f => f.ok
  | .vidx f => f.ok
  | .vins f => f.ok
  | .vext f => attrScalar f.attr
  | .vaddi f | .vmuli f | .vshli f | .vshri f => f.ok false
  | .vldi f => f.ok true
  | .vcmpi f => f.ok
  | .mcnt _ _ c => inRange (-1) 1 c
  | .vld f => f.ok true false
  | .vst f => f.ok false false
  | .vpf f => f.ok false true
  | .vgth f => f.ok true
  | .vsct f => f.ok false
  | .ldbS8 f | .ldbS16 f | .ldbS32 f | .ldbS64 f | .ldbZ8 f | .ldbZ16 f | .ldbZ32 f
  | .stbS8 f | .stbS16 f | .stbS32 f | .stbS64 f | .stbZ8 f | .stbZ16 f | .stbZ32 f => f.ok
  | .aadd f | .amin f | .amax f => atomTy f.ty
  | .aswp f | .acas f => swapTy f.ty
  | .redm _ _ _ t => atomTy t
  | .tlbinv _ _ _ sc => decide (sc ≠ .core) && decide (sc ≠ .cluster) && decide (sc ≠ .die)
  | .qnt f | .dqnt f | .bscl f => f.ok (fun t => decide (t = .f27) || decide (t = .f9x3)) false false
  | .rqz f => f.ok isN3 true false
  | .vdot f => f.ok vdotTy true true
  | .vdotn f => f.ok isN3 true true
  | .zpk f => f.ok false
  | .zupk f => f.ok true
  | .patset _ _ _ p => inRange (-4) 4 p
  | .prfctl _ k => prfOk k
  | .accrd _ a c => decide (a ≤ 242) && counterOk c
  | .accrdSnapshot _ a => decide (a ≤ 242)
  | _ => true

end Sys2Proof
end

