-- ==== Sys2Proof/Decode.lean ====
section
/-!
DEFINITION. Instruction words to instructions and back (R44 to R65): the trit maps of the formats, the field values and
their checks, the encoding cause that a word meets (the one highest in R63's table), and the encoder written from the
same tables. decodeTableWord reads a word laid out in bits, two bits for each trit.
-/
namespace Sys2Proof

open Machine (wrap sub dropLow)

/-- The fields of a word, lowest first, for the given widths in trits (R44). -/
def unpack : List Nat → Int → List Int
  | [], _ => []
  | n :: ns, w => wrap n w :: unpack ns (dropLow n w)

/-- The word with the given fields, lowest first. -/
def pack : List Nat → List Int → Int
  | n :: ns, f :: fs => f + pow3 n * pack ns fs
  | _, _ => 0

/-- The widths of the register and engine formats, lowest field first (R44). -/
def regWidths : List Nat := [3, 3, 2, 4, 4, 4, 3, 4]
/-- The widths of the immediate format. -/
def immWidths : List Nat := [12, 4, 4, 3, 4]
/-- The widths of the memory format. -/
def memWidths : List Nat := [3, 9, 4, 4, 3, 4]
/-- The widths of the branch and system formats. -/
def braWidths : List Nat := [16, 4, 3, 4]
/-- The widths of B3, which splits the displacement. -/
def bra3Widths : List Nat := [8, 8, 4, 3, 4]
/-- The widths of VGTH and VSCT (R54). -/
def gthWidths : List Nat := [3, 5, 4, 4, 4, 3, 4]
/-- The widths of the attribute prefix (R55). -/
def attrWidths : List Nat := [11, 1, 1, 4, 2, 2, 2, 4]
/-- The widths of the sweep prefix (R58). -/
def sweepWidths : List Nat := [5, 5, 5, 8, 4]

/-- Field i of a word, 0 when there is none. -/
def fieldOf (fs : List Int) (i : Nat) : Int := fs.getD i 0

/-- A register field to a register number (R45): f mod N. -/
def regOf (n : Nat) [NeZero n] (f : Int) : Fin n := Fin.ofNat n (f % (n : Int)).toNat

/-- A register number to the field that names it. -/
def regField (n : Nat) (r : Fin n) : Int := if 2 * r.val < n then (r.val : Int) else (r.val : Int) - (n : Int)

/-- The window count of a lookahead field (R49): w mod 27. -/
def laOf (f : Int) : Fin 27 := regOf 27 f

/-- Rounding codes (R24); 0 and reserved codes give none. -/
def rndOf (f : Int) : Option Rnd :=
  if f = 1 then some .near else if f = -1 then some .zero else if f = 2 then some .up
  else if f = -2 then some .down else if f = 3 then some .stoch else none

/-- The code of a rounding choice. -/
def rndField : Option Rnd → Int
  | none => 0
  | some .near => 1
  | some .zero => -1
  | some .up => 2
  | some .down => -2
  | some .stoch => 3

/-- A rounding field that is not reserved (R24). -/
def rndOk (f : Int) : Bool := decide (f = 0) || (rndOf f).isSome

/-- Type codes (R46). -/
def tyOf (f : Int) : Option Ty :=
  if f = 0 then some .i27 else if f = 1 then some .f27 else if f = -1 then some .i54
  else if f = 2 then some .i9x3 else if f = -2 then some .f9x3 else if f = 3 then some .i9
  else if f = -3 then some .f9 else if f = 4 then some .n3 else if f = -4 then some .f18 else none

/-- The code of a type. -/
def tyField : Ty → Int
  | .i27 => 0 | .f27 => 1 | .i54 => -1 | .i9x3 => 2 | .f9x3 => -2 | .i9 => 3 | .f9 => -3 | .n3 => 4 | .f18 => -4

/-- Mask policies (R56). -/
def policyOf (f : Int) : Option Policy :=
  if f = 0 then some .dflt else if f = 1 then some .keep else if f = -1 then some .zero
  else if f = 2 then some .inv else none

/-- The code of a policy. -/
def policyField : Policy → Int
  | .dflt => 0 | .keep => 1 | .zero => -1 | .inv => 2

/-- Branch conditions (R48). -/
def condOf (f : Int) : Option Cond :=
  if f = 0 then some .always else if f = 1 then some .gt else if f = -1 then some .lt
  else if f = 2 then some .ge else if f = -2 then some .le else if f = 3 then some .eq
  else if f = -3 then some .ne else if f = 4 then some .lp else if f = -4 then some .ln
  else if f = 5 then some .lz else none

/-- The code of a condition. -/
def condField : Cond → Int
  | .always => 0 | .gt => 1 | .lt => -1 | .ge => 2 | .le => -2 | .eq => 3 | .ne => -3 | .lp => 4 | .ln => -4
  | .lz => 5

/-- Special register numbers (R61). -/
def srOf (f : Int) : Option SpecialReg :=
  if f = 1 then some .core else if f = 2 then some .cluster else if f = 3 then some .die
  else if f = 4 then some .modul else if f = 5 then some .team else if f = 6 then some .gang
  else if f = 7 then some .slice else if f = 8 then some .depth else if f = 9 then some .moves
  else if f = 10 then some .mode else if f = 11 then some .flags else if f = 12 then some .tenant
  else if f = 13 then some .time else none

/-- The number of a special register. -/
def srField : SpecialReg → Int
  | .core => 1 | .cluster => 2 | .die => 3 | .modul => 4 | .team => 5 | .gang => 6 | .slice => 7 | .depth => 8
  | .moves => 9 | .mode => 10 | .flags => 11 | .tenant => 12 | .time => 13

/-- Scope codes (R47). -/
def scopeOf (f : Int) : Option Scope :=
  if f = -3 then some .core else if f = -2 then some .cluster else if f = -1 then some .die
  else if f = 0 then some .modul else if f = 1 then some .hop1 else if f = 2 then some .hop2
  else if f = 3 then some .hop3 else none

/-- The code of a scope. -/
def scopeField : Scope → Int
  | .core => -3 | .cluster => -2 | .die => -1 | .modul => 0 | .hop1 => 1 | .hop2 => 2 | .hop3 => 3

/-- The combining operations of VRED, VSCAN and REDM (R104, R228). -/
def redOpOf (f : Int) : Option RedOp :=
  if f = 0 then some .add else if f = 1 then some .max else if f = -1 then some .min else none

/-- The code of a combining operation. -/
def redOpField : RedOp → Int
  | .add => 0 | .max => 1 | .min => -1

/-- What a word reads as: the encoding causes it meets, and the instruction it names when it meets none. -/
structure Dec where
  errs : List Cause
  ins  : Instr

/-- The cause e unless c holds. -/
def need (c : Bool) (e : Cause) : List Cause := if c then [] else [e]

/-- A field that must be 0 (R62). -/
def zeroF (f : Int) : List Cause := need (decide (f = 0)) .reservedField
/-- A scalar or tile register field (R45). -/
def reg27F (f : Int) : List Cause := need (inRange (-13) 13 f) .regRange
/-- A mask register field (R45). -/
def reg9F (f : Int) : List Cause := need (inRange (-4) 4 f) .regRange
/-- A lookahead field where the instruction honours it or not (R49). -/
def laF (honoured : Bool) (f : Int) : List Cause := need (honoured || decide (f = 0)) .laNotHonoured
/-- A type field among the accepted types (R46). -/
def tyF (accepted : Ty → Bool) (f : Int) : List Cause :=
  need (match tyOf f with | some t => accepted t | none => false) .typeNotAccepted
/-- A field whose value must be one of those listed (R62, R331). -/
def codeF (listed : Bool) : List Cause := need listed .reservedCode

/-- The prefixes read before an instruction word: their causes and their values. -/
structure Pfx where
  errs  : List Cause
  attr  : Option Attr
  sweep : Option Sweep

/-- No prefix. -/
def Pfx.none : Pfx := ⟨[], .none, .none⟩

/-- The attribute prefix word (R55, R57). -/
def attrOf (w : Int) : List Cause × Attr :=
  let f := fieldOf (unpack attrWidths w)
  let present := f 2
  (zeroF (f 0) ++
   codeF (decide (f 1 = 0) || decide (f 1 = 1)) ++
   codeF (decide (present = 0) || decide (present = 1)) ++
   need (decide (present ≠ 0) || decide (f 3 = 0)) .reservedField ++
   codeF (rndOk (f 4)) ++ codeF (policyOf (f 5)).isSome,
   { mask := regOf 9 (f 6), policy := (policyOf (f 5)).getD .dflt, rounding := rndOf (f 4),
     fourth := if present = 1 then some (regOf 81 (f 3)) else .none, sat := decide (f 1 = 1) })

/-- The sweep prefix word (R58). -/
def sweepOf (w : Int) : List Cause × Sweep :=
  let f := fieldOf (unpack sweepWidths w)
  (need (decide (f 3 ≠ -3280) && decide (f 0 % 3 = 0) && decide (f 1 % 3 = 0) && decide (f 2 % 3 = 0)) .prefixMisuse,
   { count := (f 3 + 3280).toNat, dstep := f 2, astep := f 1, bstep := f 0 })

/-- Prefixes before an instruction that takes none of them (R57, R58). -/
def noAttr (p : Pfx) : List Cause := need p.attr.isNone .prefixMisuse
/-- A sweep prefix before an instruction that takes none. -/
def noSweep (p : Pfx) : List Cause := need p.sweep.isNone .prefixMisuse
/-- A prefix condition of R57. -/
def pfxF (c : Bool) : List Cause := need c .prefixMisuse

/-- SALU (R80). -/
def decSalu (p : Pfx) (w : Int) : Dec :=
  let f := fieldOf (unpack regWidths w)
  let r : SaluF := ⟨p.attr, (tyOf (f 0)).getD .i27, regOf 27 (f 5), regOf 27 (f 4), regOf 27 (f 3), laOf (f 1)⟩
  let chk (oneSrc la : Bool) : List Cause :=
    zeroF (f 2) ++ (if oneSrc then zeroF (f 3) else reg27F (f 3)) ++ reg27F (f 4) ++ reg27F (f 5) ++
    tyF scalarTy (f 0) ++ laF la (f 1) ++ noSweep p ++ pfxF (attrScalar p.attr)
  if f 6 = 0 then ⟨chk false false, .add r⟩ else if f 6 = 1 then ⟨chk false false, .sub r⟩
  else if f 6 = 2 then ⟨chk false true, .mul r⟩ else if f 6 = 3 then ⟨chk false true, .mulh r⟩
  else if f 6 = 4 then ⟨chk false true, .div r⟩ else if f 6 = 5 then ⟨chk false true, .rem r⟩
  else if f 6 = 6 then ⟨chk false false, .cmp r⟩ else if f 6 = 7 then ⟨chk false false, .min r⟩
  else if f 6 = 8 then ⟨chk false false, .max r⟩ else if f 6 = -1 then ⟨chk true false, .tinv r⟩
  else if f 6 = -2 then ⟨chk false false, .tmin r⟩ else if f 6 = -3 then ⟨chk false false, .tmax r⟩
  else if f 6 = -4 then ⟨chk false false, .tsum r⟩ else if f 6 = -5 then ⟨chk false false, .tcon r⟩
  else if f 6 = -6 then ⟨chk false false, .shl r⟩ else if f 6 = -7 then ⟨chk false false, .shr r⟩
  else ⟨[.unassignedMinor], .nop⟩

/-- SIMM (R84). -/
def decSimm (p : Pfx) (w : Int) : Dec :=
  let f := fieldOf (unpack immWidths w)
  let r : SimmF := ⟨p.attr, regOf 27 (f 2), regOf 27 (f 1), f 0⟩
  let chk (noSrc : Bool) : List Cause :=
    (if noSrc then zeroF (f 1) else reg27F (f 1)) ++ reg27F (f 2) ++ noSweep p ++ pfxF (attrScalar p.attr)
  if f 3 = 0 then ⟨chk false, .addi r⟩ else if f 3 = 1 then ⟨chk false, .muli r⟩
  else if f 3 = 2 then ⟨chk false, .cmpi r⟩ else if f 3 = 3 then ⟨chk false, .shli r⟩
  else if f 3 = 4 then ⟨chk false, .shri r⟩ else if f 3 = 5 then ⟨chk false, .tmini r⟩
  else if f 3 = 6 then ⟨chk false, .tmaxi r⟩ else if f 3 = 7 then ⟨chk false, .tsumi r⟩
  else if f 3 = -1 then ⟨chk true, .ldi r⟩ else if f 3 = -2 then ⟨chk false, .ldhi r⟩
  else ⟨[.unassignedMinor], .nop⟩

/-- B (R48, R85). -/
def decB (p : Pfx) (w : Int) : Dec :=
  let f := fieldOf (unpack braWidths w)
  ⟨noAttr p ++ noSweep p ++ codeF (condOf (f 2)).isSome ++
     (if f 2 = 0 then zeroF (f 1) else reg27F (f 1)),
   .b ((condOf (f 2)).getD .always) (regOf 27 (f 1)) (f 0)⟩

/-- B3 (R48, R85): trits 15-8 for a negative register, trits 7-0 for a positive one. -/
def decB3 (p : Pfx) (w : Int) : Dec :=
  let f := fieldOf (unpack bra3Widths w)
  ⟨noAttr p ++ noSweep p ++ zeroF (f 3) ++ reg27F (f 2), .b3 (regOf 27 (f 2)) (f 1) (f 0)⟩

/-- CALL (R48, R85). -/
def decCall (p : Pfx) (w : Int) : Dec :=
  let f := fieldOf (unpack braWidths w)
  ⟨noAttr p ++ noSweep p ++ zeroF (f 2) ++ reg27F (f 1), .call (regOf 27 (f 1)) (f 0)⟩

/-- CTL (R85). -/
def decCtl (p : Pfx) (w : Int) : Dec :=
  let f := fieldOf (unpack regWidths w)
  let com : List Cause :=
    noAttr p ++ noSweep p ++ reg27F (f 4) ++ zeroF (f 3) ++ zeroF (f 2) ++ laF false (f 1) ++ zeroF (f 0)
  if f 6 = 0 then ⟨com ++ zeroF (f 5), .jr (regOf 27 (f 4))⟩
  else if f 6 = 1 then ⟨com ++ reg27F (f 5), .jalr (regOf 27 (f 5)) (regOf 27 (f 4))⟩
  else if f 6 = -1 then ⟨com ++ zeroF (f 5), .ret (regOf 27 (f 4))⟩
  else ⟨[.unassignedMinor], .nop⟩

/-- SYS (R88). -/
def decSys (p : Pfx) (w : Int) : Dec :=
  let f := fieldOf (unpack braWidths w)
  let com : List Cause := noAttr p ++ noSweep p
  if f 2 = 0 then ⟨com ++ zeroF (f 1) ++ zeroF (f 0), .nop⟩
  else if f 2 = 1 then ⟨com ++ reg27F (f 1), .trap (regOf 27 (f 1)) (f 0)⟩
  else if f 2 = -1 then ⟨com ++ zeroF (f 1) ++ zeroF (f 0), .rett⟩
  else if f 2 = 2 then ⟨com ++ zeroF (f 1), .brk (f 0)⟩
  else if f 2 = -2 then ⟨com ++ zeroF (f 1) ++ zeroF (f 0), .exit⟩
  else if f 2 = 3 then
    ⟨com ++ reg27F (f 1) ++ codeF (srOf (f 0)).isSome, .rdsr (regOf 27 (f 1)) ((srOf (f 0)).getD .core)⟩
  else if f 2 = -3 then
    ⟨com ++ reg27F (f 1) ++ codeF (srOf (f 0)).isSome, .wrsr (regOf 27 (f 1)) ((srOf (f 0)).getD .core)⟩
  else if f 2 = 4 then
    ⟨com ++ zeroF (f 1) ++ zeroF (dropLow 9 (f 0)), .regang (wrap 9 (f 0))⟩
  else ⟨[.unassignedMinor], .nop⟩

/-- SMEM (R94). -/
def decSmem (p : Pfx) (w : Int) : Dec :=
  let f := fieldOf (unpack memWidths w)
  let r : SmemF := ⟨regOf 27 (f 3), regOf 27 (f 2), f 1, laOf (f 0)⟩
  let chk (la noData : Bool) : List Cause :=
    noAttr p ++ noSweep p ++ (if noData then zeroF (f 3) else reg27F (f 3)) ++ reg27F (f 2) ++ laF la (f 0)
  if f 4 = 1 then ⟨chk true false, .ldI9 r⟩ else if f 4 = 2 then ⟨chk true false, .ldI27 r⟩
  else if f 4 = 3 then ⟨chk true false, .ldI54 r⟩ else if f 4 = -1 then ⟨chk false false, .stI9 r⟩
  else if f 4 = -2 then ⟨chk false false, .stI27 r⟩ else if f 4 = -3 then ⟨chk false false, .stI54 r⟩
  else if f 4 = 4 then ⟨chk false false, .lea r⟩ else if f 4 = 5 then ⟨chk false true, .pf r⟩
  else ⟨[.unassignedMinor], .nop⟩

/-- The operand fields of a VALU or VSFU word, with or without a sweep prefix (R59). -/
def vops3 (p : Pfx) (d a b : Int) : VOps3 :=
  match p.sweep with
  | none => .regs (regOf 81 d) (regOf 81 a) (regOf 81 b)
  | some sw => .swept sw (regOf 27 d) (regOf 27 a) (regOf 27 b)

/-- VALU and VSFU words but VCMP: operand checks (R49, R57 to R59, R97, R102). -/
def valuChk (p : Pfx) (f : Nat → Int) (tys : Ty → Bool) (hasB need4 la : Bool) : List Cause :=
  pfxF (attr4 need4 p.attr) ++ pfxF (decide (f 2 = 0) || (match p.attr with | none => true | some a => decide (a.mask = 0))) ++
  tyF tys (f 0) ++ laF (la && p.sweep.isNone) (f 1) ++ (if hasB then [] else zeroF (f 3)) ++
  match p.sweep with
  | none => []
  | some sw => reg27F (f 5) ++ reg27F (f 4) ++ reg27F (f 3) ++ pfxF (hasB || decide (sw.bstep = 0))

/-- VALU (R97). -/
def decValu (p : Pfx) (w : Int) : Dec :=
  let f := fieldOf (unpack regWidths w)
  let r : ValuF := ⟨p.attr, vops3 p (f 5) (f 4) (f 3), regOf 9 (f 2), laOf (f 1), (tyOf (f 0)).getD .i27⟩
  let chk := valuChk p f
  if f 6 = 0 then ⟨chk vecTy true false false, .vadd r⟩ else if f 6 = 1 then ⟨chk vecTy true false false, .vsub r⟩
  else if f 6 = 2 then ⟨chk vecTy true false true, .vmul r⟩ else if f 6 = 3 then ⟨chk vecTy true false true, .vdiv r⟩
  else if f 6 = 4 then ⟨chk vecTy true false false, .vmin r⟩ else if f 6 = 5 then ⟨chk vecTy true false false, .vmax r⟩
  else if f 6 = 6 then ⟨chk vecTy true true true, .vfma r⟩ else if f 6 = 7 then ⟨chk vecTy true true true, .vfms r⟩
  else if f 6 = 8 then ⟨chk vecTy false false false, .vabs r⟩
  else if f 6 = 9 then
    ⟨pfxF (attrNo4 p.attr) ++ pfxF (decide (f 2 = 0) || (match p.attr with | none => true | some a => decide (a.mask = 0))) ++
       noSweep p ++ reg9F (f 5) ++ tyF vpackTy (f 0) ++ laF false (f 1),
     .vcmp ⟨p.attr, regOf 9 (f 5), regOf 81 (f 4), regOf 81 (f 3), regOf 9 (f 2), (tyOf (f 0)).getD .i27⟩⟩
  else if f 6 = 10 then ⟨chk isI27 true true false ++ pfxF (policyDflt p.attr), .vsel3 r⟩
  else if f 6 = -1 then ⟨chk isI27 false false false, .vtinv r⟩
  else if f 6 = -2 then ⟨chk isI27 true false false, .vtmin r⟩ else if f 6 = -3 then ⟨chk isI27 true false false, .vtmax r⟩
  else if f 6 = -4 then ⟨chk isI27 true false false, .vtsum r⟩ else if f 6 = -5 then ⟨chk isI27 true false false, .vtcon r⟩
  else if f 6 = -6 then ⟨chk vecIntTy true false false, .vshl r⟩
  else if f 6 = -7 then ⟨chk vecIntTy true false false, .vshr r⟩
  else if f 6 = -8 then ⟨chk isI27 false false false, .vmov r⟩
  else ⟨[.unassignedMinor], .nop⟩

/-- VSFU (R102). -/
def decVsfu (p : Pfx) (w : Int) : Dec :=
  let f := fieldOf (unpack regWidths w)
  let r : ValuF := ⟨p.attr, vops3 p (f 5) (f 4) (f 3), regOf 9 (f 2), laOf (f 1), (tyOf (f 0)).getD .i27⟩
  let chk := valuChk p f vecFloatTy false false true
  if f 6 = 0 then ⟨chk, .vrcp r⟩ else if f 6 = 1 then ⟨chk, .vrsq r⟩ else if f 6 = 2 then ⟨chk, .vsqrt r⟩
  else if f 6 = 3 then ⟨chk, .vexp3 r⟩ else if f 6 = 4 then ⟨chk, .vlog3 r⟩ else if f 6 = 5 then ⟨chk, .vexp r⟩
  else if f 6 = 6 then ⟨chk, .vlog r⟩ else if f 6 = 7 then ⟨chk, .vsin r⟩ else if f 6 = 8 then ⟨chk, .vcos r⟩
  else if f 6 = 9 then ⟨chk, .vtanh r⟩ else ⟨[.unassignedMinor], .nop⟩

/-- Both mask fields nonzero is prefix misuse (R57). -/
def maskF (p : Pfx) (m : Int) : List Cause :=
  pfxF (decide (m = 0) || (match p.attr with | none => true | some a => decide (a.mask = 0)))

/-- VPERM (R104 to R110). -/
def decVperm (p : Pfx) (w : Int) : Dec :=
  let f := fieldOf (unpack regWidths w)
  let d := regOf 81 (f 5)
  let a := regOf 81 (f 4)
  let b := regOf 81 (f 3)
  let m := regOf 9 (f 2)
  let la := laOf (f 1)
  let ty := (tyOf (f 0)).getD .i27
  let com (la : Bool) : List Cause := noSweep p ++ maskF p (f 2) ++ laF la (f 1)
  let no4 := pfxF (attrNo4 p.attr)
  if f 6 = 0 then
    ⟨com false ++ no4 ++ need (match tyOf (f 0), tyOf (f 3) with | some s, some t => cvtPair s t | _, _ => false)
       .typeNotAccepted, .cvt ⟨p.attr, d, a, ty, (tyOf (f 3)).getD .i27, m⟩⟩
  else if f 6 = 1 then ⟨com false ++ pfxF (attr4 true p.attr) ++ tyF vpackTy (f 0), .vpack ⟨p.attr, d, a, b, m, la, ty⟩⟩
  else if f 6 = -1 then
    ⟨com false ++ no4 ++ tyF vdotTy (f 0) ++ codeF (inRange 0 2 (f 3)), .vunpk ⟨p.attr, d, a, regOf 3 (f 3), m, ty⟩⟩
  else if f 6 = 2 then ⟨com true ++ no4 ++ tyF vecIntTy (f 0), .vshfl ⟨p.attr, d, a, b, m, la, ty⟩⟩
  else if f 6 = 3 then
    ⟨com false ++ no4 ++ tyF vecIntTy (f 0) ++ reg27F (f 3), .vrotl ⟨p.attr, d, a, regOf 27 (f 3), m, ty⟩⟩
  else if f 6 = 4 then
    ⟨com false ++ no4 ++ tyF vecIntTy (f 0) ++ reg27F (f 3), .vbcast ⟨p.attr, d, a, regOf 27 (f 3), m, ty⟩⟩
  else if f 6 = 5 then
    ⟨com true ++ no4 ++ tyF vecTy (f 0) ++ codeF (redOpOf (f 3)).isSome,
     .vred ⟨p.attr, d, a, (redOpOf (f 3)).getD .add, m, la, ty⟩⟩
  else if f 6 = 6 then
    ⟨com true ++ no4 ++ tyF vecTy (f 0) ++ codeF (redOpOf (f 3)).isSome,
     .vscan ⟨p.attr, d, a, (redOpOf (f 3)).getD .add, m, la, ty⟩⟩
  else if f 6 = 7 then ⟨com true ++ no4 ++ tyF isI27 (f 0) ++ zeroF (f 3), .vcompr ⟨p.attr, d, a, m, la⟩⟩
  else if f 6 = 8 then ⟨com true ++ no4 ++ tyF isI27 (f 0) ++ zeroF (f 3), .vexpd ⟨p.attr, d, a, m, la⟩⟩
  else if f 6 = 9 then
    ⟨com false ++ no4 ++ tyF vecIntTy (f 0) ++ zeroF (f 3) ++ zeroF (f 4), .vidx ⟨p.attr, d, m, ty⟩⟩
  else if f 6 = -2 then
    ⟨com false ++ no4 ++ tyF isI27 (f 0) ++ zeroF (f 3) ++ reg27F (f 4), .vins ⟨p.attr, d, regOf 27 (f 4), m⟩⟩
  else if f 6 = -3 then
    ⟨noSweep p ++ zeroF (f 2) ++ laF false (f 1) ++ pfxF (attrScalar p.attr) ++ tyF isI27 (f 0) ++ reg27F (f 5) ++
       reg27F (f 3), .vext ⟨p.attr, regOf 27 (f 5), a, regOf 27 (f 3)⟩⟩
  else ⟨[.unassignedMinor], .nop⟩

/-- VMASK (R111). -/
def decVmask (p : Pfx) (w : Int) : Dec :=
  let f := fieldOf (unpack regWidths w)
  let com : List Cause := noAttr p ++ noSweep p ++ zeroF (f 2) ++ laF false (f 1) ++ zeroF (f 0)
  let d := regOf 9 (f 5)
  let a := regOf 9 (f 4)
  let b := regOf 9 (f 3)
  if f 6 = 0 then ⟨com ++ reg9F (f 5) ++ reg9F (f 4) ++ reg9F (f 3), .mmin d a b⟩
  else if f 6 = 1 then ⟨com ++ reg9F (f 5) ++ reg9F (f 4) ++ reg9F (f 3), .mmax d a b⟩
  else if f 6 = -1 then ⟨com ++ reg9F (f 5) ++ reg9F (f 4) ++ zeroF (f 3), .minv d a⟩
  else if f 6 = 2 then ⟨com ++ reg9F (f 5) ++ reg9F (f 4) ++ reg9F (f 3), .mcon d a b⟩
  else if f 6 = 3 then ⟨com ++ reg9F (f 5) ++ reg27F (f 4) ++ zeroF (f 3), .mset d (regOf 27 (f 4))⟩
  else if f 6 = -3 then ⟨com ++ reg27F (f 5) ++ reg9F (f 4) ++ zeroF (f 3), .mget (regOf 27 (f 5)) a⟩
  else if f 6 = 4 then
    ⟨com ++ reg27F (f 5) ++ reg9F (f 4) ++ codeF (inRange (-1) 1 (f 3)), .mcnt (regOf 27 (f 5)) a (f 3)⟩
  else ⟨[.unassignedMinor], .nop⟩

/-- The operand fields of a VIMM word. -/
def vops2 (p : Pfx) (d a : Int) : VOps2 :=
  match p.sweep with
  | none => .regs (regOf 81 d) (regOf 81 a)
  | some sw => .swept sw (regOf 27 d) (regOf 27 a)

/-- VIMM (R112). -/
def decVimm (p : Pfx) (w : Int) : Dec :=
  let f := fieldOf (unpack immWidths w)
  let r : VimmF := ⟨p.attr, vops2 p (f 2) (f 1), f 0⟩
  let chk (noSrc : Bool) : List Cause :=
    pfxF (attrNo4 p.attr) ++ (if noSrc then zeroF (f 1) else []) ++
    match p.sweep with
    | none => []
    | some sw => reg27F (f 2) ++ reg27F (f 1) ++ pfxF (decide (sw.bstep = 0) && (!noSrc || decide (sw.astep = 0)))
  if f 3 = 0 then ⟨chk false, .vaddi r⟩ else if f 3 = 1 then ⟨chk false, .vmuli r⟩
  else if f 3 = 2 then
    ⟨pfxF (attrNo4 p.attr) ++ noSweep p ++ reg9F (f 2), .vcmpi ⟨p.attr, regOf 9 (f 2), regOf 81 (f 1), f 0⟩⟩
  else if f 3 = 3 then ⟨chk false, .vshli r⟩ else if f 3 = 4 then ⟨chk false, .vshri r⟩
  else if f 3 = -1 then ⟨chk true, .vldi r⟩ else ⟨[.unassignedMinor], .nop⟩

/-- VMEM (R54, R113). -/
def decVmem (p : Pfx) (w : Int) : Dec :=
  let f := fieldOf (unpack memWidths w)
  let g := fieldOf (unpack gthWidths w)
  let r : VmemF := ⟨p.attr, regOf 81 (f 3), regOf 27 (f 2), f 1, laOf (f 0)⟩
  let q : VgthF := ⟨p.attr, regOf 81 (g 4), regOf 27 (g 3), regOf 81 (g 2), laOf (g 0)⟩
  let com : List Cause := noSweep p ++ pfxF (attrNo4 p.attr) ++ reg27F (f 2)
  if f 4 = 1 then ⟨com ++ laF true (f 0), .vld r⟩
  else if f 4 = -1 then ⟨com ++ laF false (f 0), .vst r⟩
  else if f 4 = 2 then ⟨com ++ laF true (f 0) ++ zeroF (g 1), .vgth q⟩
  else if f 4 = -2 then ⟨com ++ laF false (f 0) ++ zeroF (g 1), .vsct q⟩
  else if f 4 = 3 then ⟨com ++ laF false (f 0) ++ zeroF (f 3), .vpf r⟩
  else ⟨[.unassignedMinor], .nop⟩

/-- MXM (R287, R288). -/
def decMxm (p : Pfx) (w : Int) : Dec :=
  let f := fieldOf (unpack regWidths w)
  let r : MxmF := ⟨regOf 27 (f 5), regOf 81 (f 4), regOf 81 (f 3)⟩
  let com : List Cause := noAttr p ++ noSweep p ++ zeroF (f 2) ++ laF false (f 1) ++ reg27F (f 5)
  if f 6 = 1 then ⟨com ++ codeF (inRange 0 8 (f 0)), .mxmN3 r (regOf 9 (f 0))⟩
  else if f 6 = -1 then ⟨com ++ codeF (inRange 0 8 (f 0)), .mxmN3Z r (regOf 9 (f 0))⟩
  else if f 6 = 2 then ⟨com ++ codeF (inRange 0 1 (f 0)), .mxmI9 r (decide (f 0 = 1))⟩
  else if f 6 = 3 then ⟨com ++ codeF (rndOk (f 0)), .mxmF9 r (rndOf (f 0))⟩
  else if f 6 = 4 then ⟨com ++ codeF (inRange 0 1 (f 0)), .mxmI27 r (decide (f 0 = 1))⟩
  else if f 6 = 5 then ⟨com ++ codeF (rndOk (f 0)), .mxmF27 r (rndOf (f 0))⟩
  else ⟨[.unassignedMinor], .nop⟩

/-- MXT (R293). -/
def decMxt (p : Pfx) (w : Int) : Dec :=
  let f := fieldOf (unpack regWidths w)
  let com : List Cause := noAttr p ++ noSweep p ++ zeroF (f 2) ++ laF false (f 1)
  let fl0 := codeF (decide (f 0 = 0))
  let x := regOf 27 (f 5)
  if f 6 = 0 then ⟨com ++ fl0 ++ reg27F (f 5) ++ zeroF (f 4) ++ zeroF (f 3), .mxz x⟩
  else if f 6 = 1 then
    ⟨com ++ codeF (inRange 0 1 (f 0)) ++ reg27F (f 4) ++ reg27F (f 3),
     if f 0 = 1 then .tldC (regOf 81 (f 5)) (regOf 27 (f 4)) (regOf 27 (f 3))
     else .tld (regOf 81 (f 5)) (regOf 27 (f 4)) (regOf 27 (f 3))⟩
  else if f 6 = -1 then
    ⟨com ++ codeF (inRange 0 1 (f 0)) ++ reg27F (f 4) ++ reg27F (f 3),
     if f 0 = 1 then .tstC (regOf 81 (f 5)) (regOf 27 (f 4)) (regOf 27 (f 3))
     else .tst (regOf 81 (f 5)) (regOf 27 (f 4)) (regOf 27 (f 3))⟩
  else if f 6 = 2 then ⟨com ++ fl0 ++ reg27F (f 5) ++ zeroF (f 4) ++ zeroF (f 3), .twait x⟩
  else if f 6 = 3 then ⟨com ++ fl0 ++ reg27F (f 5) ++ zeroF (f 4) ++ zeroF (f 3), .mxseal x⟩
  else if f 6 = -3 then ⟨com ++ fl0 ++ reg27F (f 5) ++ zeroF (f 4) ++ zeroF (f 3), .mxwait x⟩
  else if f 6 = 4 then ⟨com ++ fl0 ++ reg27F (f 5) ++ reg27F (f 4) ++ zeroF (f 3), .tkgive x (regOf 27 (f 4))⟩
  else if f 6 = -4 then ⟨com ++ fl0 ++ reg27F (f 5) ++ reg9F (f 4) ++ zeroF (f 3), .tktake x (regOf 9 (f 4))⟩
  else ⟨[.unassignedMinor], .nop⟩

/-- MXQ (R303, R309). -/
def decMxq (p : Pfx) (w : Int) : Dec :=
  let f := fieldOf (unpack regWidths w)
  let r : MxqF := ⟨p.attr, regOf 81 (f 5), regOf 81 (f 4), regOf 81 (f 3), regOf 9 (f 2), laOf (f 1), (tyOf (f 0)).getD .i27⟩
  let z : ZpkF := ⟨p.attr, regOf 81 (f 5), regOf 81 (f 4), regOf 27 (f 3)⟩
  let chk (tys : Ty → Bool) (need4 la : Bool) : List Cause :=
    noSweep p ++ maskF p (f 2) ++ pfxF (attr4 need4 p.attr) ++ tyF tys (f 0) ++ laF la (f 1)
  let fl : Ty → Bool := fun t => decide (t = .f27) || decide (t = .f9x3)
  let zc : List Cause := noSweep p ++ zeroF (f 2) ++ pfxF (attrScalar p.attr) ++ tyF isN3 (f 0) ++ laF false (f 1)
  if f 6 = 0 then ⟨chk fl false false, .qnt r⟩ else if f 6 = 1 then ⟨chk fl false false, .dqnt r⟩
  else if f 6 = 2 then ⟨chk isN3 true false, .rqz r⟩ else if f 6 = 3 then ⟨chk fl false false, .bscl r⟩
  else if f 6 = 4 then ⟨zc ++ reg27F (f 3), .zpk z⟩ else if f 6 = -4 then ⟨zc ++ zeroF (f 3), .zupk z⟩
  else if f 6 = 5 then ⟨chk vdotTy true true, .vdot r⟩ else if f 6 = 6 then ⟨chk isN3 true true, .vdotn r⟩
  else ⟨[.unassignedMinor], .nop⟩

/-- SYNC (R118). -/
def decSync (p : Pfx) (w : Int) : Dec :=
  let f := fieldOf (unpack regWidths w)
  let com : List Cause := noAttr p ++ noSweep p ++ zeroF (f 2) ++ laF false (f 1)
  let x := regOf 27 (f 5)
  let y := regOf 27 (f 4)
  let z := regOf 27 (f 3)
  let fl0 := zeroF (f 0)
  let fl1 := need (inRange 0 1 (f 0)) .reservedField
  if f 6 = 1 then ⟨com ++ fl0 ++ reg27F (f 5) ++ reg27F (f 4) ++ zeroF (f 3), .phinit x y⟩
  else if f 6 = 2 then
    ⟨com ++ fl1 ++ reg27F (f 5) ++ reg27F (f 4) ++ reg27F (f 3), if f 0 = 1 then .pharrW x y z else .pharr x y z⟩
  else if f 6 = 3 then ⟨com ++ fl0 ++ reg27F (f 5) ++ reg27F (f 4) ++ zeroF (f 3), .phexp x y⟩
  else if f 6 = 4 then ⟨com ++ fl0 ++ reg27F (f 5) ++ reg27F (f 4) ++ zeroF (f 3), .phwait x y⟩
  else if f 6 = 5 then ⟨com ++ fl0 ++ reg9F (f 5) ++ zeroF (f 4) ++ zeroF (f 3), .bar (regOf 9 (f 5))⟩
  else if f 6 = 6 then ⟨com ++ fl0 ++ reg27F (f 5) ++ zeroF (f 4) ++ zeroF (f 3), .syncs x⟩
  else if f 6 = 7 then ⟨com ++ fl0 ++ reg27F (f 5) ++ reg27F (f 4) ++ reg27F (f 3), .yield x y z⟩
  else if f 6 = 8 then
    ⟨com ++ fl1 ++ reg27F (f 5) ++ (if f 0 = 1 then zeroF (f 4) else reg9F (f 4)) ++ zeroF (f 3),
     if f 0 = 1 then .racqW x else .racq x (regOf 9 (f 4))⟩
  else if f 6 = -8 then ⟨com ++ fl0 ++ reg27F (f 5) ++ zeroF (f 4) ++ zeroF (f 3), .rrel x⟩
  else if f 6 = 9 then
    ⟨com ++ fl1 ++ reg27F (f 5) ++ reg27F (f 4) ++ zeroF (f 3), if f 0 = 1 then .phaseT x y else .phase x y⟩
  else ⟨[.unassignedMinor], .nop⟩

/-- COPY (R203, R207, R208, R219 to R221). -/
def decCopy (p : Pfx) (w : Int) : Dec :=
  let f := fieldOf (unpack regWidths w)
  let com : List Cause :=
    noAttr p ++ noSweep p ++ zeroF (f 2) ++ laF false (f 1) ++ zeroF (f 0) ++ zeroF (f 3) ++ reg27F (f 5)
  let x := regOf 27 (f 5)
  let y := regOf 27 (f 4)
  if f 6 = 1 then
    let c : CpyF := ⟨p.attr, regOf 81 (f 5), regOf 27 (f 4), regOf 27 (f 3), (scopeOf (f 2)).getD .modul⟩
    ⟨noSweep p ++ laF false (f 1) ++ codeF (inRange 0 1 (f 0)) ++ codeF (scopeOf (f 2)).isSome ++
       reg27F (f 4) ++ reg27F (f 3), if f 0 = 1 then .cpyS c else .cpyG c⟩
  else if f 6 = 2 then ⟨com ++ reg27F (f 4), .cpseal x y⟩
  else if f 6 = 3 then ⟨com ++ zeroF (f 4), .cpwaitRd x⟩
  else if f 6 = 4 then ⟨com ++ zeroF (f 4), .cpwaitVis x⟩
  else if f 6 = 5 then ⟨com ++ reg27F (f 4), .jobsub x y⟩
  else if f 6 = 6 then ⟨com ++ reg27F (f 4), .jobqry x y⟩
  else if f 6 = 7 then ⟨com ++ reg27F (f 4), .advstg x y⟩
  else ⟨[.unassignedMinor], .nop⟩

/-- BMEM (R222). -/
def decBmem (p : Pfx) (w : Int) : Dec :=
  let f := fieldOf (unpack memWidths w)
  let r : BmemF := ⟨p.attr, regOf 81 (f 3), regOf 27 (f 2), f 1⟩
  let com : List Cause := noSweep p ++ pfxF (attrNo4 p.attr) ++ reg27F (f 2) ++ laF false (f 0)
  if f 4 = 1 then ⟨com, .ldbS8 r⟩ else if f 4 = 2 then ⟨com, .ldbS16 r⟩ else if f 4 = 3 then ⟨com, .ldbS32 r⟩
  else if f 4 = 4 then ⟨com, .ldbS64 r⟩ else if f 4 = 5 then ⟨com, .ldbZ8 r⟩ else if f 4 = 6 then ⟨com, .ldbZ16 r⟩
  else if f 4 = 7 then ⟨com, .ldbZ32 r⟩ else if f 4 = -1 then ⟨com, .stbS8 r⟩ else if f 4 = -2 then ⟨com, .stbS16 r⟩
  else if f 4 = -3 then ⟨com, .stbS32 r⟩ else if f 4 = -4 then ⟨com, .stbS64 r⟩ else if f 4 = -5 then ⟨com, .stbZ8 r⟩
  else if f 4 = -6 then ⟨com, .stbZ16 r⟩ else if f 4 = -7 then ⟨com, .stbZ32 r⟩
  else ⟨[.unassignedMinor], .nop⟩

/-- ATOM (R225, R228, R230, R231, R233). -/
def decAtom (p : Pfx) (w : Int) : Dec :=
  let f := fieldOf (unpack regWidths w)
  let x := regOf 27 (f 5)
  let y := regOf 27 (f 4)
  let z := regOf 27 (f 3)
  let ty := (tyOf (f 0)).getD .i27
  let r : AtomF := ⟨x, y, z, laOf (f 1), ty⟩
  let com : List Cause := noAttr p ++ noSweep p
  let at3 : List Cause := com ++ zeroF (f 2) ++ reg27F (f 5) ++ reg27F (f 4) ++ reg27F (f 3)
  let line : List Cause :=
    com ++ zeroF (f 2) ++ laF false (f 1) ++ zeroF (f 0) ++ zeroF (f 3) ++ reg27F (f 5) ++ reg27F (f 4)
  if f 6 = 1 then ⟨at3 ++ tyF atomTy (f 0), .aadd r⟩ else if f 6 = 2 then ⟨at3 ++ tyF atomTy (f 0), .amin r⟩
  else if f 6 = 3 then ⟨at3 ++ tyF atomTy (f 0), .amax r⟩ else if f 6 = 4 then ⟨at3 ++ tyF swapTy (f 0), .aswp r⟩
  else if f 6 = 5 then ⟨at3 ++ tyF swapTy (f 0), .acas r⟩
  else if f 6 = -1 then
    ⟨com ++ zeroF (f 2) ++ laF false (f 1) ++ tyF atomTy (f 0) ++ reg27F (f 5) ++ reg27F (f 4) ++
       codeF (redOpOf (f 3)).isSome, .redm x y ((redOpOf (f 3)).getD .add) ty⟩
  else if f 6 = -2 then
    ⟨com ++ codeF (scopeOf (f 2)).isSome ++ laF false (f 1) ++ zeroF (f 0) ++ zeroF (f 5) ++ zeroF (f 4) ++ zeroF (f 3),
     .fence ((scopeOf (f 2)).getD .modul)⟩
  else if f 6 = -3 then
    ⟨com ++ codeF (inRange 0 3 (f 2)) ++ laF false (f 1) ++ zeroF (f 0) ++ reg27F (f 5) ++ reg27F (f 4) ++ reg27F (f 3),
     .tlbinv x y z ((scopeOf (f 2)).getD .modul)⟩
  else if f 6 = -4 then ⟨line, .cwb x y⟩ else if f 6 = -5 then ⟨line, .cinv x y⟩
  else if f 6 = -6 then ⟨line, .cwbi x y⟩
  else ⟨[.unassignedMinor], .nop⟩

/-- PORT (R331 to R342). -/
def decPort (p : Pfx) (w : Int) : Dec :=
  let f := fieldOf (unpack regWidths w)
  let com : List Cause := noAttr p ++ noSweep p ++ zeroF (f 2) ++ laF false (f 1) ++ reg27F (f 5)
  let x := regOf 27 (f 5)
  let y := regOf 27 (f 4)
  let z := regOf 27 (f 3)
  let three : List Cause := com ++ zeroF (f 0) ++ reg27F (f 4) ++ reg27F (f 3)
  let two : List Cause := com ++ zeroF (f 0) ++ reg27F (f 4) ++ zeroF (f 3)
  let one : List Cause := com ++ zeroF (f 0) ++ zeroF (f 4) ++ zeroF (f 3)
  if f 6 = 1 then ⟨three, .portcfg x y z⟩ else if f 6 = 2 then ⟨two, .post x y⟩
  else if f 6 = -2 then ⟨com ++ zeroF (f 0) ++ reg27F (f 4) ++ reg9F (f 3), .postNf x y (regOf 9 (f 3))⟩
  else if f 6 = 3 then
    ⟨com ++ reg27F (f 4) ++ reg27F (f 3) ++ codeF (inRange (-4) 4 (f 0)), .patset x y z (f 0)⟩
  else if f 6 = 4 then ⟨one, .paten x⟩ else if f 6 = -4 then ⟨one, .patdis x⟩
  else if f 6 = 5 then ⟨two, .portqry x y⟩ else if f 6 = 6 then ⟨three, .sigdec x y z⟩
  else if f 6 = 7 then ⟨three, .sigadd x y z⟩ else if f 6 = 8 then ⟨three, .sigbind x y z⟩
  else ⟨[.unassignedMinor], .nop⟩

/-- GRID (R349, R353, R354). -/
def decGrid (p : Pfx) (w : Int) : Dec :=
  let f := fieldOf (unpack regWidths w)
  let com : List Cause :=
    noAttr p ++ noSweep p ++ zeroF (f 2) ++ laF false (f 1) ++ zeroF (f 0) ++ zeroF (f 3) ++ reg27F (f 5)
  if f 6 = 1 then ⟨com ++ zeroF (f 4), .launch (regOf 27 (f 5))⟩
  else if f 6 = 2 then ⟨com ++ reg27F (f 4), .redsub (regOf 27 (f 5)) (regOf 27 (f 4))⟩
  else if f 6 = 3 then ⟨com ++ reg27F (f 4), .redqry (regOf 27 (f 5)) (regOf 27 (f 4))⟩
  else ⟨[.unassignedMinor], .nop⟩

/-- The ACCRD immediate 27a + c (R363). -/
def accOk (imm : Int) : Bool :=
  inRange 0 6560 imm && (counterOk (imm % 27).toNat || decide (imm % 27 = 26))

/-- DBG (R331, R355 to R363). -/
def decDbg (p : Pfx) (w : Int) : Dec :=
  let f := fieldOf (unpack braWidths w)
  let com : List Cause := noAttr p ++ noSweep p
  let r := regOf 27 (f 1)
  let k := f 0
  if f 2 = 1 then ⟨com ++ reg27F (f 1), .trcev r k⟩
  else if f 2 = 2 then
    ⟨com ++ reg27F (f 1) ++ codeF (decide (k = 1) || decide (k = -1) || decide (k = 2)),
     if k = 1 then .trcctlStart r else if k = -1 then .trcctlStop r else .trcctlFlush r⟩
  else if f 2 = 3 then ⟨com ++ reg27F (f 1) ++ codeF (decide (0 ≤ k) && prfOk k.toNat), .prfctl r k.toNat⟩
  else if f 2 = 4 then ⟨com ++ reg27F (f 1) ++ codeF (inRange 0 26 k), .watch r (regOf 27 k)⟩
  else if f 2 = -4 then ⟨com ++ zeroF (f 1) ++ codeF (inRange 0 26 k), .unwatch (regOf 27 k)⟩
  else if f 2 = 5 then ⟨com ++ reg27F (f 1) ++ codeF (inRange 0 8 k), .dbgwin r (regOf 9 k)⟩
  else if f 2 = 6 then ⟨com ++ reg27F (f 1) ++ codeF (decide (k = 0)), .haltg r⟩
  else if f 2 = -6 then ⟨com ++ reg27F (f 1) ++ codeF (decide (k = 0)), .resmg r⟩
  else if f 2 = 7 then
    ⟨com ++ reg27F (f 1) ++ codeF (inRange 0 2 k),
     .timerd r (if k = 0 then .fabric else if k = 1 then .skew else .cycles)⟩
  else if f 2 = 8 then
    ⟨com ++ reg27F (f 1) ++ codeF (accOk k),
     if k % 27 = 26 then .accrdSnapshot r (k / 27).toNat else .accrd r (k / 27).toNat (k % 27).toNat⟩
  else ⟨[.unassignedMinor], .nop⟩

/-- The major opcode of a word (R44). -/
def majorOf (w : Int) : Int := sub 23 4 w

/-- An instruction word behind the prefixes p (R61); a prefix out of place meets the cases of its own fields too (R55, R58, R63). -/
def decWord (p : Pfx) (w : Int) : Dec :=
  let m := majorOf w
  if m = 1 then decSalu p w else if m = 2 then decSimm p w else if m = 3 then decB p w
  else if m = 4 then decB3 p w else if m = 5 then decCall p w else if m = 6 then decCtl p w
  else if m = 7 then decSys p w else if m = 9 then decSmem p w else if m = 14 then decValu p w
  else if m = 15 then decVsfu p w else if m = 16 then decVperm p w else if m = 17 then decVmask p w
  else if m = 18 then decVimm p w else if m = 19 then decVmem p w else if m = 27 then decMxm p w
  else if m = 28 then decMxt p w else if m = 29 then decMxq p w else if m = -14 then decSync p w
  else if m = -15 then decCopy p w else if m = -16 then decBmem p w else if m = -17 then decAtom p w
  else if m = -27 then decPort p w else if m = -28 then decGrid p w else if m = -29 then decDbg p w
  else if m = 12 then ⟨(attrOf w).1 ++ [.prefixMisuse], .nop⟩ else if m = 13 then ⟨(sweepOf w).1 ++ [.prefixMisuse], .nop⟩
  else ⟨[.unassignedMajor], .nop⟩

/-- The place of an encoding cause in R63's table. -/
def encRank : Cause → Nat
  | .unassignedMajor => 0 | .unassignedMinor => 1 | .reservedField => 2 | .regRange => 3 | .typeNotAccepted => 4
  | .reservedCode => 5 | .prefixMisuse => 6 | .laNotHonoured => 7 | _ => 8

/-- The cause highest in R63's table. -/
def firstCause : List Cause → Option Cause
  | [] => none
  | e :: es =>
    match firstCause es with
    | none => some e
    | some e' => if encRank e ≤ encRank e' then some e else some e'

/-- The prefixes at the head of the words, and the words behind them (R60): at most one attribute prefix and then at
most one sweep prefix. -/
def prefixes (ws : List Int) : Pfx × List Int :=
  match ws with
  | [] => (Pfx.none, [])
  | w :: rest =>
    if majorOf w = 12 then
      match rest with
      | w2 :: rest2 =>
        if majorOf w2 = 13 then (⟨(attrOf w).1 ++ (sweepOf w2).1, some (attrOf w).2, some (sweepOf w2).2⟩, rest2)
        else (⟨(attrOf w).1, some (attrOf w).2, none⟩, rest)
      | [] => (⟨(attrOf w).1, some (attrOf w).2, none⟩, [])
    else if majorOf w = 13 then (⟨(sweepOf w).1, none, some (sweepOf w).2⟩, rest)
    else (Pfx.none, ws)

/-- The instruction at the head of the words with the number of words it takes, prefixes included, or the encoding
cause it traps with (R60, R62, R63). R63 ranks the cases of one word; the model ranks those of all words of the unit together, a prefix's
and the instruction's (DESIGN CHOICE, log 10). Total: too few words read as the unassigned word of zeros (R65). -/
def decode (ws : List Int) : Except Cause (Instr × Nat) :=
  let pr := prefixes ws
  let w := pr.2.headD 0
  let d := decWord pr.1 w
  match firstCause (pr.1.errs ++ d.errs) with
  | some e => .error e
  | none => .ok (d.ins, ws.length - pr.2.length + 1)

/-- How many words the instruction that begins with these words takes (R60): one more than its prefixes. -/
def wordsNeeded (ws : List Int) : Nat := ws.length - (prefixes ws).2.length + 1

/-- The lookahead field of a window count (R49, R69). -/
def laField (n : Fin 27) : Int := regField 27 n

/-- A truth value as a flag trit. -/
def flagF (b : Bool) : Int := if b then 1 else 0

/-- A word of the register or engine format. -/
def regWord (major minor d a b mask la ty : Int) : Int := pack regWidths [ty, la, mask, b, a, d, minor, major]
/-- A word of the immediate format. -/
def immWord (major minor d a imm : Int) : Int := pack immWidths [imm, a, d, minor, major]
/-- A word of the memory format. -/
def memWord (major minor d b off la : Int) : Int := pack memWidths [la, off, b, d, minor, major]
/-- A word of the branch or system format. -/
def braWord (major minor r disp : Int) : Int := pack braWidths [disp, r, minor, major]

/-- The attribute prefix word (R55). -/
def attrWord (a : Attr) : Int :=
  pack attrWidths
    [0, flagF a.sat, flagF a.fourth.isSome, (match a.fourth with | some v => regField 81 v | none => 0),
     rndField a.rounding, policyField a.policy, regField 9 a.mask, 12]

/-- The sweep prefix word (R58). -/
def sweepWord (s : Sweep) : Int := pack sweepWidths [s.bstep, s.astep, s.dstep, (s.count : Int) - 3280, 13]

/-- An optional attribute prefix. -/
def attrWords (a : Option Attr) : List Int :=
  match a with
  | none => []
  | some p => [attrWord p]

/-- SALU (R80). -/
def encSalu (minor : Int) (f : SaluF) : List Int :=
  attrWords f.attr ++ [regWord 1 minor (regField 27 f.d) (regField 27 f.a) (regField 27 f.b) 0 (laField f.la) (tyField f.ty)]

/-- SIMM (R84). -/
def encSimm (minor : Int) (f : SimmF) : List Int :=
  attrWords f.attr ++ [immWord 2 minor (regField 27 f.d) (regField 27 f.a) f.imm]

/-- SMEM (R94). -/
def encSmem (minor : Int) (f : SmemF) : List Int :=
  [memWord 9 minor (regField 27 f.d) (regField 27 f.b) f.off (laField f.la)]

/-- VALU and VSFU (R97, R102). -/
def encValu (major minor : Int) (f : ValuF) : List Int :=
  attrWords f.attr ++
  match f.ops with
  | .regs d a b => [regWord major minor (regField 81 d) (regField 81 a) (regField 81 b) (regField 9 f.mask) (laField f.la) (tyField f.ty)]
  | .swept sw d a b =>
    [sweepWord sw,
     regWord major minor (regField 27 d) (regField 27 a) (regField 27 b) (regField 9 f.mask) (laField f.la) (tyField f.ty)]

/-- VIMM (R112). -/
def encVimm (minor : Int) (f : VimmF) : List Int :=
  attrWords f.attr ++
  match f.ops with
  | .regs d a => [immWord 18 minor (regField 81 d) (regField 81 a) f.imm]
  | .swept sw d a => [sweepWord sw, immWord 18 minor (regField 27 d) (regField 27 a) f.imm]

/-- VPERM with three register fields (R104). -/
def encVperm (minor : Int) (attr : Option Attr) (d a b : Int) (m : MReg) (la : Fin 27) (ty : Int) : List Int :=
  attrWords attr ++ [regWord 16 minor d a b (regField 9 m) (laField la) ty]

/-- VMASK (R111). -/
def encVmask (minor d a b : Int) : List Int := [regWord 17 minor d a b 0 0 0]

/-- VMEM (R113). -/
def encVmem (minor : Int) (f : VmemF) : List Int :=
  attrWords f.attr ++ [memWord 19 minor (regField 81 f.d) (regField 27 f.base) f.off (laField f.la)]

/-- VGTH and VSCT (R54). -/
def encVgth (minor : Int) (f : VgthF) : List Int :=
  attrWords f.attr ++
  [pack gthWidths [laField f.la, 0, regField 81 f.idx, regField 27 f.base, regField 81 f.d, minor, 19]]

/-- MXM (R287, R288). -/
def encMxm (minor : Int) (f : MxmF) (flags : Int) : List Int :=
  [regWord 27 minor (regField 27 f.x) (regField 81 f.y) (regField 81 f.z) 0 0 flags]

/-- MXQ (R303). -/
def encMxq (minor : Int) (f : MxqF) : List Int :=
  attrWords f.attr ++
  [regWord 29 minor (regField 81 f.d) (regField 81 f.a) (regField 81 f.b) (regField 9 f.mask) (laField f.la) (tyField f.ty)]

/-- ZPK and ZUPK (R303). -/
def encZpk (minor : Int) (f : ZpkF) : List Int :=
  attrWords f.attr ++ [regWord 29 minor (regField 81 f.d) (regField 81 f.a) (regField 27 f.sb) 0 0 4]

/-- BMEM (R222). -/
def encBmem (minor : Int) (f : BmemF) : List Int :=
  attrWords f.attr ++ [memWord (-16) minor (regField 81 f.d) (regField 27 f.base) f.off 0]

/-- The engine format with scalar operands (R44). -/
def encEng (major minor x y z scope flags : Int) : List Int := [regWord major minor x y z scope 0 flags]

/-- Returning atomics (R225). -/
def encAtom (minor : Int) (f : AtomF) : List Int :=
  [regWord (-17) minor (regField 27 f.x) (regField 27 f.y) (regField 27 f.z) 0 (laField f.la) (tyField f.ty)]

/-- A scalar or tile register field. -/
abbrev r27 (r : Fin 27) : Int := regField 27 r
/-- A vector register field. -/
abbrev r81 (r : Fin 81) : Int := regField 81 r
/-- A mask register field. -/
abbrev r9 (r : Fin 9) : Int := regField 9 r

/-- The words of an instruction, prefixes first (R44 to R61); none for a step of the device without a word. -/
def encode : Instr → List Int
  | .add f => encSalu 0 f | .sub f => encSalu 1 f | .mul f => encSalu 2 f | .mulh f => encSalu 3 f
  | .div f => encSalu 4 f | .rem f => encSalu 5 f | .cmp f => encSalu 6 f | .min f => encSalu 7 f
  | .max f => encSalu 8 f | .tinv f => encSalu (-1) f | .tmin f => encSalu (-2) f | .tmax f => encSalu (-3) f
  | .tsum f => encSalu (-4) f | .tcon f => encSalu (-5) f | .shl f => encSalu (-6) f | .shr f => encSalu (-7) f
  | .addi f => encSimm 0 f | .muli f => encSimm 1 f | .cmpi f => encSimm 2 f | .shli f => encSimm 3 f
  | .shri f => encSimm 4 f | .tmini f => encSimm 5 f | .tmaxi f => encSimm 6 f | .tsumi f => encSimm 7 f
  | .ldi f => encSimm (-1) f | .ldhi f => encSimm (-2) f
  | .b c r d => [braWord 3 (condField c) (r27 r) d]
  | .b3 r n p => [pack bra3Widths [p, n, r27 r, 0, 4]]
  | .call l d => [braWord 5 0 (r27 l) d]
  | .jr r => [regWord 6 0 0 (r27 r) 0 0 0 0]
  | .jalr l r => [regWord 6 1 (r27 l) (r27 r) 0 0 0 0]
  | .ret r => [regWord 6 (-1) 0 (r27 r) 0 0 0 0]
  | .nop => [braWord 7 0 0 0]
  | .trap r c => [braWord 7 1 (r27 r) c]
  | .rett => [braWord 7 (-1) 0 0]
  | .brk c => [braWord 7 2 0 c]
  | .exit => [braWord 7 (-2) 0 0]
  | .rdsr r n => [braWord 7 3 (r27 r) (srField n)]
  | .wrsr r n => [braWord 7 (-3) (r27 r) (srField n)]
  | .regang set => [braWord 7 4 0 set]
  | .ldI9 f => encSmem 1 f | .ldI27 f => encSmem 2 f | .ldI54 f => encSmem 3 f
  | .stI9 f => encSmem (-1) f | .stI27 f => encSmem (-2) f | .stI54 f => encSmem (-3) f
  | .lea f => encSmem 4 f | .pf f => encSmem 5 f
  | .vadd f => encValu 14 0 f | .vsub f => encValu 14 1 f | .vmul f => encValu 14 2 f | .vdiv f => encValu 14 3 f
  | .vmin f => encValu 14 4 f | .vmax f => encValu 14 5 f | .vfma f => encValu 14 6 f | .vfms f => encValu 14 7 f
  | .vabs f => encValu 14 8 f
  | .vcmp f => attrWords f.attr ++ [regWord 14 9 (r9 f.d) (r81 f.a) (r81 f.b) (r9 f.mask) 0 (tyField f.ty)]
  | .vsel3 f => encValu 14 10 f | .vtinv f => encValu 14 (-1) f | .vtmin f => encValu 14 (-2) f
  | .vtmax f => encValu 14 (-3) f | .vtsum f => encValu 14 (-4) f | .vtcon f => encValu 14 (-5) f
  | .vshl f => encValu 14 (-6) f | .vshr f => encValu 14 (-7) f | .vmov f => encValu 14 (-8) f
  | .vrcp f => encValu 15 0 f | .vrsq f => encValu 15 1 f | .vsqrt f => encValu 15 2 f | .vexp3 f => encValu 15 3 f
  | .vlog3 f => encValu 15 4 f | .vexp f => encValu 15 5 f | .vlog f => encValu 15 6 f | .vsin f => encValu 15 7 f
  | .vcos f => encValu 15 8 f | .vtanh f => encValu 15 9 f
  | .cvt f => encVperm 0 f.attr (r81 f.d) (r81 f.a) (tyField f.dst) f.mask 0 (tyField f.src)
  | .vpack f => encVperm 1 f.attr (r81 f.d) (r81 f.a) (r81 f.b) f.mask f.la (tyField f.ty)
  | .vunpk f => encVperm (-1) f.attr (r81 f.d) (r81 f.a) (f.k.val : Int) f.mask 0 (tyField f.ty)
  | .vshfl f => encVperm 2 f.attr (r81 f.d) (r81 f.a) (r81 f.b) f.mask f.la (tyField f.ty)
  | .vrotl f => encVperm 3 f.attr (r81 f.d) (r81 f.a) (r27 f.sb) f.mask 0 (tyField f.ty)
  | .vbcast f => encVperm 4 f.attr (r81 f.d) (r81 f.a) (r27 f.sb) f.mask 0 (tyField f.ty)
  | .vred f => encVperm 5 f.attr (r81 f.d) (r81 f.a) (redOpField f.op) f.mask f.la (tyField f.ty)
  | .vscan f => encVperm 6 f.attr (r81 f.d) (r81 f.a) (redOpField f.op) f.mask f.la (tyField f.ty)
  | .vcompr f => encVperm 7 f.attr (r81 f.d) (r81 f.a) 0 f.mask f.la 0
  | .vexpd f => encVperm 8 f.attr (r81 f.d) (r81 f.a) 0 f.mask f.la 0
  | .vidx f => encVperm 9 f.attr (r81 f.d) 0 0 f.mask 0 (tyField f.ty)
  | .vins f => encVperm (-2) f.attr (r81 f.d) (r27 f.sa) 0 f.mask 0 0
  | .vext f => encVperm (-3) f.attr (r27 f.d) (r81 f.a) (r27 f.sb) 0 0 0
  | .mmin d a b => encVmask 0 (r9 d) (r9 a) (r9 b)
  | .mmax d a b => encVmask 1 (r9 d) (r9 a) (r9 b)
  | .minv d a => encVmask (-1) (r9 d) (r9 a) 0
  | .mcon d a b => encVmask 2 (r9 d) (r9 a) (r9 b)
  | .mset d a => encVmask 3 (r9 d) (r27 a) 0
  | .mget d a => encVmask (-3) (r27 d) (r9 a) 0
  | .mcnt d a c => encVmask 4 (r27 d) (r9 a) c
  | .vaddi f => encVimm 0 f | .vmuli f => encVimm 1 f
  | .vcmpi f => attrWords f.attr ++ [immWord 18 2 (r9 f.d) (r81 f.a) f.imm]
  | .vshli f => encVimm 3 f | .vshri f => encVimm 4 f | .vldi f => encVimm (-1) f
  | .vld f => encVmem 1 f | .vst f => encVmem (-1) f | .vgth f => encVgth 2 f | .vsct f => encVgth (-2) f
  | .vpf f => encVmem 3 f
  | .phinit x y => encEng (-14) 1 (r27 x) (r27 y) 0 0 0
  | .pharr x y z => encEng (-14) 2 (r27 x) (r27 y) (r27 z) 0 0
  | .pharrW x y z => encEng (-14) 2 (r27 x) (r27 y) (r27 z) 0 1
  | .phexp x y => encEng (-14) 3 (r27 x) (r27 y) 0 0 0
  | .phwait x y => encEng (-14) 4 (r27 x) (r27 y) 0 0 0
  | .bar m => encEng (-14) 5 (r9 m) 0 0 0 0
  | .syncs x => encEng (-14) 6 (r27 x) 0 0 0 0
  | .yield x y z => encEng (-14) 7 (r27 x) (r27 y) (r27 z) 0 0
  | .racq x m => encEng (-14) 8 (r27 x) (r9 m) 0 0 0
  | .racqW x => encEng (-14) 8 (r27 x) 0 0 0 1
  | .rrel x => encEng (-14) (-8) (r27 x) 0 0 0 0
  | .phase x y => encEng (-14) 9 (r27 x) (r27 y) 0 0 0
  | .phaseT x y => encEng (-14) 9 (r27 x) (r27 y) 0 0 1
  | .cpyG f => attrWords f.attr ++ encEng (-15) 1 (r81 f.x) (r27 f.y) (r27 f.z) (scopeField f.scope) 0
  | .cpyS f => attrWords f.attr ++ encEng (-15) 1 (r81 f.x) (r27 f.y) (r27 f.z) (scopeField f.scope) 1
  | .cpseal x y => encEng (-15) 2 (r27 x) (r27 y) 0 0 0
  | .cpwaitRd x => encEng (-15) 3 (r27 x) 0 0 0 0
  | .cpwaitVis x => encEng (-15) 4 (r27 x) 0 0 0 0
  | .jobsub x y => encEng (-15) 5 (r27 x) (r27 y) 0 0 0
  | .jobqry x y => encEng (-15) 6 (r27 x) (r27 y) 0 0 0
  | .advstg x y => encEng (-15) 7 (r27 x) (r27 y) 0 0 0
  | .ldbS8 f => encBmem 1 f | .ldbS16 f => encBmem 2 f | .ldbS32 f => encBmem 3 f | .ldbS64 f => encBmem 4 f
  | .ldbZ8 f => encBmem 5 f | .ldbZ16 f => encBmem 6 f | .ldbZ32 f => encBmem 7 f
  | .stbS8 f => encBmem (-1) f | .stbS16 f => encBmem (-2) f | .stbS32 f => encBmem (-3) f
  | .stbS64 f => encBmem (-4) f | .stbZ8 f => encBmem (-5) f | .stbZ16 f => encBmem (-6) f
  | .stbZ32 f => encBmem (-7) f
  | .aadd f => encAtom 1 f | .amin f => encAtom 2 f | .amax f => encAtom 3 f | .aswp f => encAtom 4 f
  | .acas f => encAtom 5 f
  | .redm x y op ty => encEng (-17) (-1) (r27 x) (r27 y) (redOpField op) 0 (tyField ty)
  | .fence sc => encEng (-17) (-2) 0 0 0 (scopeField sc) 0
  | .tlbinv x y z sc => encEng (-17) (-3) (r27 x) (r27 y) (r27 z) (scopeField sc) 0
  | .cwb x y => encEng (-17) (-4) (r27 x) (r27 y) 0 0 0
  | .cinv x y => encEng (-17) (-5) (r27 x) (r27 y) 0 0 0
  | .cwbi x y => encEng (-17) (-6) (r27 x) (r27 y) 0 0 0
  | .mxmN3 f d => encMxm 1 f (d.val : Int)
  | .mxmN3Z f d => encMxm (-1) f (d.val : Int)
  | .mxmI9 f s => encMxm 2 f (flagF s)
  | .mxmF9 f r => encMxm 3 f (rndField r)
  | .mxmI27 f s => encMxm 4 f (flagF s)
  | .mxmF27 f r => encMxm 5 f (rndField r)
  | .mxz x => encEng 28 0 (r27 x) 0 0 0 0
  | .tld x y z => encEng 28 1 (r81 x) (r27 y) (r27 z) 0 0
  | .tldC x y z => encEng 28 1 (r81 x) (r27 y) (r27 z) 0 1
  | .tst x y z => encEng 28 (-1) (r81 x) (r27 y) (r27 z) 0 0
  | .tstC x y z => encEng 28 (-1) (r81 x) (r27 y) (r27 z) 0 1
  | .twait x => encEng 28 2 (r27 x) 0 0 0 0
  | .mxseal x => encEng 28 3 (r27 x) 0 0 0 0
  | .mxwait x => encEng 28 (-3) (r27 x) 0 0 0 0
  | .tkgive x y => encEng 28 4 (r27 x) (r27 y) 0 0 0
  | .tktake x y => encEng 28 (-4) (r27 x) (r9 y) 0 0 0
  | .qnt f => encMxq 0 f | .dqnt f => encMxq 1 f | .rqz f => encMxq 2 f | .bscl f => encMxq 3 f
  | .zpk f => encZpk 4 f | .zupk f => encZpk (-4) f | .vdot f => encMxq 5 f | .vdotn f => encMxq 6 f
  | .portcfg x y z => encEng (-27) 1 (r27 x) (r27 y) (r27 z) 0 0
  | .post x y => encEng (-27) 2 (r27 x) (r27 y) 0 0 0
  | .postNf x y m => encEng (-27) (-2) (r27 x) (r27 y) (r9 m) 0 0
  | .patset x y z p => encEng (-27) 3 (r27 x) (r27 y) (r27 z) 0 p
  | .paten x => encEng (-27) 4 (r27 x) 0 0 0 0
  | .patdis x => encEng (-27) (-4) (r27 x) 0 0 0 0
  | .portqry x y => encEng (-27) 5 (r27 x) (r27 y) 0 0 0
  | .sigdec x y z => encEng (-27) 6 (r27 x) (r27 y) (r27 z) 0 0
  | .sigadd x y z => encEng (-27) 7 (r27 x) (r27 y) (r27 z) 0 0
  | .sigbind x y z => encEng (-27) 8 (r27 x) (r27 y) (r27 z) 0 0
  | .launch x => encEng (-28) 1 (r27 x) 0 0 0 0
  | .redsub x y => encEng (-28) 2 (r27 x) (r27 y) 0 0 0
  | .redqry x y => encEng (-28) 3 (r27 x) (r27 y) 0 0 0
  | .trcev x c => [braWord (-29) 1 (r27 x) c]
  | .trcctlStart x => [braWord (-29) 2 (r27 x) 1]
  | .trcctlStop x => [braWord (-29) 2 (r27 x) (-1)]
  | .trcctlFlush x => [braWord (-29) 2 (r27 x) 2]
  | .prfctl x k => [braWord (-29) 3 (r27 x) (k : Int)]
  | .watch x n => [braWord (-29) 4 (r27 x) (n.val : Int)]
  | .unwatch n => [braWord (-29) (-4) 0 (n.val : Int)]
  | .dbgwin x n => [braWord (-29) 5 (r27 x) (n.val : Int)]
  | .haltg x => [braWord (-29) 6 (r27 x) 0]
  | .resmg x => [braWord (-29) (-6) (r27 x) 0]
  | .timerd d sel => [braWord (-29) 7 (r27 d) (match sel with | .fabric => 0 | .skew => 1 | .cycles => 2)]
  | .accrd d a c => [braWord (-29) 8 (r27 d) (27 * (a : Int) + (c : Int))]
  | .accrdSnapshot d a => [braWord (-29) 8 (r27 d) (27 * (a : Int) + 26)]
  | .sweepSegment _ | .lookaheadResultLands _ _ | .waitRelease _ | .yieldResume _ | .laneCopyReadDone _
  | .laneCopyVisible _ | .faultedCopyFinish _ | .jobStart _ _ | .jobAccess _ _ | .jobReadDone _ _
  | .jobVisibleCompletion _ _ | .m2mJobAck _ _ | .faultedJobFinish _ _ | .atomicServe | .redmUpdate _
  | .tlbinvComplete _ | .translationWalk _ _ _ | .matrixOpEnterArray _ | .matrixOpRetire _
  | .tileMoveLand _ _ | .tokenPass _ _ | .heldSignalPostLand _ | .joinUnitCycle _ | .engineWatchStop _ _
  | .gridCompletion _ | .teamEnd _ | .distributorPlace | .highPriorityWaitExpiry | .midPhaseSaveWrite _
  | .queueEntryProcess _ _ | .queueTailWrite _ _ _ | .queueStateWrite _ _ _ | .contextCreate _ _
  | .contextDestroy _ _ | .openLanding _ _ _ _ | .closeLanding _ _ _ _ | .registerWrite _ _ _
  | .rawWindowWrite _ | .rawWindowRead _ | .integerWindowWrite _ | .integerWindowRead _
  | .floatWindowWrite _ | .floatWindowRead _ | .physicalWindowWrite _ | .physicalWindowRead _
  | .flitReceive _ _ | .remoteRequestServe | .portDiscovery _ _ | .linkDownTimeout _ | .moduleFence _
  | .fenceAnnouncement _ | .peerFreeze _ | .reductionContributionArrive | .flagFall _ | .rootWrite _
  | .rootWriteTimeout _ | .correctionApply _ | .reductionClose _ | .reductionMapExpiry _
  | .syncRecordPeriodic _ _ _ | .sampleTick _ _ _ | .traceHoldDrain _ _ | .clusterPowerGate _ _
  | .ptpMessage _ | .moduleReset | .bootImageLoad _ | .functionReady _ | .getVersion _
  | .getCapabilities _ | .negotiateAlgorithms _ _ _ | .getDigests _ | .getCertificate _ _
  | .challenge _ _ _ | .getMeasurements _ _ | .placementRecordWrite _ _ | .signedSnapshot _ _
  | .flashWrite _ _ | .selfTestComplete _ _ | .thermalThrottle _ _ | .thermalShutdown _ _
  | .contributionSourceRead _ _ | .leaseExpiry _ _ | .fabricTimeHoldover _ _
  | .malformedManagementFrame _ _ _ | .energyEstimateUpdate | .residencyCycleCount
  | .gatedClusterRestart _ => []

/-- Trit i of an instruction laid out in bits, two bits for each trit: 00 is 0, 01 is +1, 10 is -1; 11 is no trit. -/
def bitTrit (w i : Nat) : Option Trit :=
  let b := w / 4 ^ i % 4
  if b = 0 then some 0 else if b = 1 then some 1 else if b = 2 then some (-1) else none

/-- The n trits from trit i on, as a value. -/
def bitTrits (w : Nat) : Nat → Nat → Option Int
  | _, 0 => some 0
  | i, n + 1 =>
    match bitTrit w i, bitTrits w (i + 1) n with
    | some t, some r => some (t + 3 * r)
    | _, _ => none

/-- The three words that an instruction of nbits bits with value w lays down, bits above nbits zero. -/
def bitWords (nbits w : Nat) : Option (List Int) :=
  let v := w % 2 ^ nbits
  match bitTrits v 0 27, bitTrits v 27 27, bitTrits v 54 27 with
  | some a, some b, some c => some [a, b, c]
  | _, _, _ => none

/-- The instruction that the decoder reads from bits numbered as the opcode table numbers them. -/
def decodeTableWord (nbits w : Nat) : Option Instr :=
  match bitWords nbits w with
  | none => none
  | some ws =>
    match decode ws with
    | .ok (i, _) => some i
    | .error _ => none

end Sys2Proof
end

