-- ==== Sys2Proof/Machine/Flags.lean ====
section
/-!
DEFINITION. The sticky flags (R30, R31): a set of flags is the value of its trits, each +1 or 0; sets join by union.
-/
namespace Sys2Proof.Machine

/-- A set of raised flags, as the low trits of sr.flags. -/
abbrev FlagSet := Int

/-- sr.flags trit 0: a rounded result differs from its exact value. -/
def fInexact : FlagSet := 1
/-- sr.flags trit 1 (R26). -/
def fUnderflow : FlagSet := 3
/-- sr.flags trit 2 (R18, R26). -/
def fOverflow : FlagSet := 9
/-- sr.flags trit 3 (R28). -/
def fDivZero : FlagSet := 27
/-- sr.flags trit 4 (R23, R28). -/
def fInvalid : FlagSet := 81
/-- sr.flags trit 5: a narrowing conversion or quantisation saturates. -/
def fNarrow : FlagSet := 243

/-- The union of two sets (R31). -/
def joinF (a b : FlagSet) : FlagSet := if a = 0 then b else if b = 0 then a else tritwise max 6 a b

/-- The union of many sets. -/
def joinAll (fs : List FlagSet) : FlagSet := fs.foldl joinF 0

/-- A flag when the condition holds. -/
def flagIf (c : Bool) (f : FlagSet) : FlagSet := if c then f else 0

/-- What a WRSR of sr.flags leaves (R30): +1 raises, 0 and -1 clear, reserved trits read zero. -/
def writtenFlags (x : Int) : FlagSet := ofTrits ((trits 6 x).map fun t => if t = 1 then 1 else 0)

end Sys2Proof.Machine
end

