-- ==== Sys2Proof/Machine/Float.lean ====
section
/-!
DEFINITION. Integer results and floats (R18 to R29): fitting, the rounding modes, the three ternary float formats, exact
sums, the stochastic generator. Exact values are fractions num / den, or integers times a power of 3.
-/
namespace Sys2Proof.Machine

/-- A fraction with positive denominator. -/
structure Frac where
  num : Int
  den : Nat
  deriving DecidableEq, Repr

/-- m times 3^e. -/
structure Scaled where
  m : Int
  e : Int
  deriving DecidableEq, Repr

/-- m * 3^e as a fraction. -/
def Scaled.frac (x : Scaled) : Frac :=
  if x.e ≥ 0 then ⟨x.m * pow3 x.e.toNat, 1⟩ else ⟨x.m, 3 ^ (-x.e).toNat⟩

/-- The exact sum. -/
def Scaled.add (x y : Scaled) : Scaled :=
  if x.m = 0 then y else if y.m = 0 then x
  else if x.e ≤ y.e then ⟨x.m + y.m * pow3 (y.e - x.e).toNat, x.e⟩
  else ⟨x.m * pow3 (x.e - y.e).toNat + y.m, y.e⟩

/-- The exact product. -/
def Scaled.mul (x y : Scaled) : Scaled := ⟨x.m * y.m, x.e + y.e⟩

/-- The exact product of fractions. -/
def Frac.mul (x y : Frac) : Frac := ⟨x.num * y.num, x.den * y.den⟩
/-- The exact sum of fractions. -/
def Frac.add (x y : Frac) : Frac := ⟨x.num * (y.den : Int) + y.num * (x.den : Int), x.den * y.den⟩
/-- The negation. -/
def Frac.neg (x : Frac) : Frac := ⟨-x.num, x.den⟩
/-- x / y for y ≠ 0. -/
def Frac.div (x y : Frac) : Frac :=
  if y.num < 0 then ⟨-(x.num * (y.den : Int)), x.den * y.num.natAbs⟩ else ⟨x.num * (y.den : Int), x.den * y.num.natAbs⟩
/-- x < y. -/
def Frac.lt (x y : Frac) : Bool := decide (x.num * (y.den : Int) < y.num * (x.den : Int))
/-- An integer as a fraction. -/
def Frac.ofInt (x : Int) : Frac := ⟨x, 1⟩

/-- A result with the flags it raises. -/
structure Res where
  val   : Int
  flags : FlagSet
  deriving DecidableEq, Repr

/-- fit_n (R18): wrap, or the nearest limit with overflow under saturation. -/
def fitInt (n : Nat) (sat : Bool) (z : Int) : Res :=
  if sat then ⟨clamp n z, flagIf (outside n z) fOverflow⟩ else ⟨wrap n z, 0⟩

/-- Saturation to n trits with narrowing overflow (R38). -/
def narrowInt (n : Nat) (z : Int) : Res := ⟨clamp n z, flagIf (outside n z) fNarrow⟩

/-- The stochastic generator's next state (R27). -/
def genNext (s : Int) : Int := wrap 54 (s * 2718281828459045236 + 1)
/-- The draw that a generator state gives (R27). -/
def genDraw (s : Int) : Int := sub 45 9 s

/-- Whether the larger magnitude is taken: the magnitude lies the fraction r / d of the gap above the smaller one; neg is
the sign; tie is whether nearest takes the larger above one half (R25, R27). -/
def takeUpper (rnd : Rnd) (draw : Int) (neg : Bool) (r d : Nat) : Bool :=
  match rnd with
  | .near => decide (2 * r > d)
  | .zero => false
  | .up => decide (r > 0) && !neg
  | .down => decide (r > 0) && neg
  | .stoch => decide (r > 0) && decide (39366 * (r : Int) > (2 * draw + 19683) * (d : Int))

/-- A fraction rounded to an integer (R19, R25): ties go to the smaller magnitude. -/
def roundToInt (rnd : Rnd) (draw : Int) (x : Frac) : Res :=
  let n := x.num.natAbs
  let neg := decide (x.num < 0)
  let q := n / x.den
  let r := n % x.den
  let m : Nat := if takeUpper rnd draw neg r x.den then q + 1 else q
  ⟨if neg then -(m : Int) else (m : Int), flagIf (decide (r ≠ 0)) fInexact⟩

/-- A ternary float format (R20): significand trits p, bias b, qmax. -/
structure Fmt where
  p    : Nat
  b    : Int
  qmax : Int
  deriving DecidableEq, Repr

/-- f9 (R20). -/
def f9 : Fmt := ⟨6, 6, 13⟩
/-- f18 (R20). -/
def f18 : Fmt := ⟨13, 60, 121⟩
/-- f27 (R20). -/
def f27 : Fmt := ⟨21, 182, 364⟩

/-- emax (R20). -/
def Fmt.emax (f : Fmt) : Int := f.qmax - 1 - f.b
/-- emin (R20). -/
def Fmt.emin (f : Fmt) : Int := 1 - f.b
/-- The canonical NaN (R22). -/
def Fmt.nan (f : Fmt) : Int := f.qmax * pow3 f.p + 1
/-- Positive infinity (R22). -/
def Fmt.inf (f : Fmt) : Int := f.qmax * pow3 f.p
/-- The largest significand in units of the grid, (3^(p+1) - 1) / 2. -/
def Fmt.maxSig (f : Fmt) : Nat := (3 ^ (f.p + 1) - 1) / 2
/-- The largest finite word (R20). -/
def Fmt.largest (f : Fmt) : Int := (f.qmax - 1) * pow3 f.p + maxTrits f.p

/-- What a float word stands for (R21, R22). -/
inductive FVal where
  | fin (x : Scaled)
  | inf (neg : Bool)
  | nan
  deriving DecidableEq, Repr

/-- The value of a float word (R21, R22). -/
def Fmt.value (f : Fmt) (w : Int) : FVal :=
  let t := wrap f.p w
  let e := dropLow f.p w
  if e = f.qmax then (if t = 0 then .inf false else .nan)
  else if e = -f.qmax then (if t = 0 then .inf true else .nan)
  else if e = 0 then .fin ⟨t, f.emin - (f.p : Int)⟩
  else if e > 0 then .fin ⟨pow3 f.p + t, e - f.b - (f.p : Int)⟩
  else .fin ⟨-pow3 f.p + t, -e - f.b - (f.p : Int)⟩

/-- A NaN word. -/
def Fmt.isNan (f : Fmt) (w : Int) : Bool := decide (f.value w = .nan)

/-- Counts how often d can be multiplied by 3 and stay below n. -/
def climb : Nat → Nat → Nat → Nat
  | 0, _, _ => 0
  | fuel + 1, d, n => if d * 3 < n then climb fuel (d * 3) n + 1 else 0

/-- Counts how often n must be multiplied by 3 to exceed d. -/
def descend : Nat → Nat → Nat → Nat
  | 0, _, _ => 0
  | fuel + 1, n, d => if n > d then 0 else descend fuel (n * 3) d + 1

/-- The exponent e of R25: 3^e < 2 |x| ≤ 3^(e + 1), for x ≠ 0. -/
def exponentOf (x : Frac) : Int :=
  let n := 2 * x.num.natAbs
  if n > x.den then (climb (Nat.log2 n + 1) x.den n : Int) else -(descend (Nat.log2 x.den + 2) n x.den : Int)

/-- A magnitude of m units of 3^(e - p), e the binade, as a word (R21). -/
def Fmt.encode (f : Fmt) (e : Int) (m : Nat) : Int :=
  if 2 * m ≤ 3 ^ f.p - 1 then (m : Int)
  else if m ≤ f.maxSig then (e + f.b) * pow3 f.p + ((m : Int) - pow3 f.p)
  else (e + 1 + f.b) * pow3 f.p + (((m / 3 : Nat) : Int) - pow3 f.p)

/-- The word of a result beyond the format (R26). -/
def Fmt.overflowWord (f : Fmt) (rnd : Rnd) (neg : Bool) : Int :=
  match rnd, neg with
  | .near, false | .stoch, false | .up, false => f.inf
  | .near, true | .stoch, true | .down, true => -f.inf
  | .zero, false | .down, false => f.largest
  | .zero, true | .up, true => -f.largest

/-- A nonzero exact value rounded to the format (R25 to R27). conv says that a conversion rounds, which saturates where
R26 would overflow (R38). Between the largest value of one binade and the smallest of the next no value is
representable, and the two are 2 units of the lower grid apart; nearest decides there by the grid of the binade in which
the exact value lies. -/
def Fmt.roundNz (f : Fmt) (conv : Bool) (rnd : Rnd) (draw : Int) (x : Frac) : Res :=
  let neg := decide (x.num < 0)
  let e0 := exponentOf x
  let g0 := max e0 f.emin
  let u0 := g0 - (f.p : Int)
  let n0 : Nat := if u0 ≥ 0 then x.num.natAbs else x.num.natAbs * 3 ^ (-u0).toNat
  let d : Nat := if u0 ≥ 0 then x.den * 3 ^ u0.toNat else x.den
  let low := decide (2 * n0 < (3 ^ f.p + 1) * d)
  let edge := decide (e0 > f.emin) && low
  let g := if edge then g0 - 1 else g0
  let n := if edge then 3 * n0 else n0
  let q := if edge then f.maxSig else n / d
  let r := n - q * d
  let wide := edge || (decide (q = f.maxSig) && decide (e0 < f.emax))
  let upper := if edge && decide (rnd = .near) then true else takeUpper rnd draw neg r (if wide then 2 * d else d)
  let m := if upper then (if wide then q + 2 else q + 1) else q
  let sg (w : Int) : Int := if neg then -w else w
  if e0 > f.emax ∨ (e0 = f.emax ∧ edge = false ∧ m > f.maxSig) then
    if conv then ⟨sg f.largest, fNarrow + fInexact⟩ else ⟨f.overflowWord rnd neg, fOverflow + fInexact⟩
  else
    ⟨sg (f.encode g m), if r = 0 then 0 else if decide (e0 ≤ f.emin) && low then fInexact + fUnderflow else fInexact⟩

/-- An exact value rounded to the format; zero stays zero in every mode (R25). -/
def Fmt.round (f : Fmt) (conv : Bool) (rnd : Rnd) (draw : Int) (x : Frac) : Res :=
  if x.num = 0 then ⟨0, 0⟩ else f.roundNz conv rnd draw x

/-- The product of two values (R28): 0 times infinity is a new NaN. -/
def FVal.mul (x y : FVal) : FVal × FlagSet :=
  match x, y with
  | .nan, _ | _, .nan => (.nan, 0)
  | .fin a, .fin b => (.fin (a.mul b), 0)
  | .inf s, .fin b => if b.m = 0 then (.nan, fInvalid) else (.inf (s != decide (b.m < 0)), 0)
  | .fin a, .inf s => if a.m = 0 then (.nan, fInvalid) else (.inf (s != decide (a.m < 0)), 0)
  | .inf s, .inf t => (.inf (s != t), 0)

/-- The sum of two values (R28, R29). -/
def FVal.add (x y : FVal) : FVal × FlagSet :=
  match x, y with
  | .nan, _ | _, .nan => (.nan, 0)
  | .fin a, .fin b => (.fin (a.add b), 0)
  | .inf s, .fin _ => (.inf s, 0)
  | .fin _, .inf s => (.inf s, 0)
  | .inf s, .inf t => if s = t then (.inf s, 0) else (.nan, fInvalid)

/-- The negated value. -/
def FVal.neg (x : FVal) : FVal :=
  match x with
  | .fin a => .fin ⟨-a.m, a.e⟩
  | .inf s => .inf (!s)
  | .nan => .nan

/-- An exact value or special value as a result of the format. -/
def Fmt.result (f : Fmt) (rnd : Rnd) (draw : Int) (v : FVal) : Res :=
  match v with
  | .fin x => f.round false rnd draw x.frac
  | .inf s => ⟨if s then -f.inf else f.inf, 0⟩
  | .nan => ⟨f.nan, 0⟩

/-- The special value of an exact sum, decided before the sum (R29): a NaN among the inputs or a product of zero and an
infinity, infinities of both signs, infinities of one sign. Flags are those of R28: none when a NaN operand is there. -/
def specialSum (nanIn zeroTimesInf pos neg : Bool) : Option (FVal × FlagSet) :=
  if nanIn then some (.nan, 0)
  else if zeroTimesInf then some (.nan, fInvalid)
  else if pos && neg then some (.nan, fInvalid)
  else if pos then some (.inf false, 0)
  else if neg then some (.inf true, 0)
  else none

/-- The exact sum of finite terms. -/
def sumScaled (xs : List Scaled) : Scaled := xs.foldl Scaled.add ⟨0, 0⟩

/-- The finite terms of a list. -/
def finTerms (vs : List FVal) : List Scaled :=
  vs.filterMap fun v => match v with | .fin x => some x | _ => none

/-- The exact sum of an addend and products, rounded once (R29). -/
def Fmt.dot (f : Fmt) (rnd : Rnd) (draw : Int) (c : FVal) (ps : List (FVal × FVal)) : Res :=
  let prods := ps.map fun p => FVal.mul p.1 p.2
  let nanIn := decide (c = .nan) || ps.any fun p => decide (p.1 = .nan) || decide (p.2 = .nan)
  let zi := prods.any fun p => decide (p.2 ≠ 0)
  let all := c :: prods.map Prod.fst
  match specialSum nanIn zi (all.any fun v => decide (v = .inf false)) (all.any fun v => decide (v = .inf true)) with
  | some (v, fl) => let r := f.result rnd draw v; ⟨r.val, joinF r.flags fl⟩
  | none => f.result rnd draw (.fin (sumScaled (finTerms all)))

/-- a + b (R28). -/
def Fmt.add (f : Fmt) (rnd : Rnd) (draw : Int) (a b : Int) : Res :=
  let s := FVal.add (f.value a) (f.value b)
  let r := f.result rnd draw s.1
  ⟨r.val, joinF r.flags s.2⟩

/-- a - b. -/
def Fmt.sub (f : Fmt) (rnd : Rnd) (draw : Int) (a b : Int) : Res := f.add rnd draw a (-b)

/-- a * b (R28). -/
def Fmt.mul (f : Fmt) (rnd : Rnd) (draw : Int) (a b : Int) : Res :=
  let s := FVal.mul (f.value a) (f.value b)
  let r := f.result rnd draw s.1
  ⟨r.val, joinF r.flags s.2⟩

/-- a / b (R28). -/
def Fmt.div (f : Fmt) (rnd : Rnd) (draw : Int) (a b : Int) : Res :=
  match f.value a, f.value b with
  | .nan, _ | _, .nan => ⟨f.nan, 0⟩
  | .inf _, .inf _ => ⟨f.nan, fInvalid⟩
  | .inf s, .fin y => ⟨if s != decide (y.m < 0) then -f.inf else f.inf, 0⟩
  | .fin _, .inf _ => ⟨0, 0⟩
  | .fin x, .fin y =>
    if y.m = 0 then
      if x.m = 0 then ⟨f.nan, fInvalid⟩ else ⟨if x.m < 0 then -f.inf else f.inf, fDivZero⟩
    else f.round false rnd draw (Frac.div x.frac y.frac)

/-- The smaller of two float words by R23; a NaN operand gives the canonical NaN (R98). -/
def Fmt.min (f : Fmt) (a b : Int) : Int := if f.isNan a || f.isNan b then f.nan else if a ≤ b then a else b
/-- The larger. -/
def Fmt.max (f : Fmt) (a b : Int) : Int := if f.isNan a || f.isNan b then f.nan else if a ≤ b then b else a

/-- The float comparison trit (R23): a NaN gives 0 and raises invalid. -/
def Fmt.cmp (f : Fmt) (a b : Int) : Res :=
  if f.isNan a || f.isNan b then ⟨0, fInvalid⟩ else ⟨cmpTrit a b, 0⟩

/-- Integer division (R19, R28): a nonzero value by zero gives the range limit and divide-by-zero, 0 by 0 gives 0 and
invalid. -/
def divInt (n : Nat) (rnd : Rnd) (draw : Int) (x y : Int) : Res :=
  if y = 0 then
    if x = 0 then ⟨0, fInvalid⟩ else ⟨if x < 0 then -maxTrits n else maxTrits n, fDivZero⟩
  else roundToInt rnd draw (Frac.div (Frac.ofInt x) (Frac.ofInt y))

/-- The shift of R82 by k: k ≥ 0 multiplies by 3^k and fits, k < 0 divides and rounds. Counts of n or more to the left
are cut at 2n, where the exact value is already outside every range it could meet and congruent to 0. -/
def shiftInt (n : Nat) (sat : Bool) (rnd : Rnd) (draw : Int) (x k : Int) : Res :=
  if k ≥ 0 then fitInt n sat (x * pow3 (Min.min k.toNat (2 * n)))
  else roundToInt rnd draw ⟨x, 3 ^ (Min.min (-k).toNat (3 * n))⟩

end Sys2Proof.Machine
end

