-- ==== Sys2Proof/Machine/Convert.lean ====
section
/-!
DEFINITION. Conversions (R38 to R41): between the ternary formats, between ternary and two's-complement integers, and
between ternary floats and the binary floats of IEEE 754 and bfloat16.
-/
namespace Sys2Proof.Machine

/-- An integer converted to a float (R38). -/
def intToFloat (f : Fmt) (rnd : Rnd) (draw x : Int) : Res := f.round true rnd draw (Frac.ofInt x)

/-- A float converted to an integer of n trits (R38). -/
def floatToInt (n : Nat) (f : Fmt) (rnd : Rnd) (draw w : Int) : Res :=
  match f.value w with
  | .nan => ⟨0, fInvalid⟩
  | .inf s => ⟨if s then -maxTrits n else maxTrits n, fNarrow⟩
  | .fin x =>
    let r := roundToInt rnd draw x.frac
    ⟨clamp n r.val, joinF r.flags (flagIf (outside n r.val) fNarrow)⟩

/-- A float converted to another ternary format (R38). -/
def floatToFloat (f g : Fmt) (rnd : Rnd) (draw w : Int) : Res :=
  match f.value w with
  | .nan => ⟨g.nan, 0⟩
  | .inf s => ⟨if s then -g.inf else g.inf, 0⟩
  | .fin x => g.round true rnd draw x.frac

/-- The format of the float types of one element. -/
def fmtOf (t : Ty) : Fmt :=
  match t with
  | .f9 | .f9x3 => f9
  | .f18 => f18
  | _ => f27

/-- One element converted from type src to type dst, each a type of CVT (R105); an f18 stands in the low 18 trits. -/
def cvtElem (src dst : Ty) (rnd : Rnd) (draw x : Int) : Res :=
  match src, dst with
  | .i27, d => intToFloat (fmtOf d) rnd draw x
  | .i9x3, _ => intToFloat f9 rnd draw x
  | .f27, .i27 => floatToInt 27 f27 rnd draw x
  | .f18, .i27 => floatToInt 27 f18 rnd draw (wrap 18 x)
  | .f9x3, _ => floatToInt 9 f9 rnd draw x
  | .f18, d => floatToFloat f18 (fmtOf d) rnd draw (wrap 18 x)
  | s, d => floatToFloat (fmtOf s) (fmtOf d) rnd draw x

/-- A two's-complement or unsigned integer of n bits, from its value modulo 2^n (R39, R223). -/
def binToInt (n : Nat) (signed : Bool) (u : Nat) : Int :=
  if signed && decide (2 ^ (n - 1) ≤ u) then (u : Int) - 2 ^ n else u

/-- An integer saturated to n bits (R39). -/
def intToBin (n : Nat) (signed : Bool) (x : Int) : Int × FlagSet :=
  let lo : Int := if signed then -(2 ^ (n - 1)) else 0
  let hi : Int := if signed then 2 ^ (n - 1) - 1 else 2 ^ n - 1
  (if x < lo then lo else if x > hi then hi else x, flagIf (decide (x < lo) || decide (x > hi)) fNarrow)

/-- The n-byte value of an integer, least significant byte first. -/
def bytesOfInt (n : Nat) (x : Int) : List Byte :=
  (List.range n).map fun i => BitVec.ofInt 8 (x / (256 ^ i : Nat))

/-- The unsigned value of bytes, least significant byte first. -/
def natOfBytes : List Byte → Nat
  | [] => 0
  | b :: bs => b.toNat + 256 * natOfBytes bs

/-- A binary float format: exponent bits and fraction bits. -/
structure BinFmt where
  ebits : Nat
  mbits : Nat
  deriving DecidableEq, Repr

/-- binary16. -/
def binary16 : BinFmt := ⟨5, 10⟩
/-- bfloat16. -/
def bfloat16 : BinFmt := ⟨8, 7⟩
/-- binary32. -/
def binary32 : BinFmt := ⟨8, 23⟩
/-- binary64. -/
def binary64 : BinFmt := ⟨11, 52⟩

/-- Bytes of a value. -/
def BinFmt.bytes (b : BinFmt) : Nat := (1 + b.ebits + b.mbits) / 8
/-- The exponent bias, which is the largest exponent. -/
def BinFmt.emax (b : BinFmt) : Int := 2 ^ (b.ebits - 1) - 1
/-- The smallest normal exponent. -/
def BinFmt.emin (b : BinFmt) : Int := 1 - b.emax
/-- Positive infinity. -/
def BinFmt.inf (b : BinFmt) : Nat := (2 ^ b.ebits - 1) * 2 ^ b.mbits
/-- The default quiet NaN (R41). -/
def BinFmt.qnan (b : BinFmt) : Nat := b.inf + 2 ^ (b.mbits - 1)
/-- The sign bit. -/
def BinFmt.signBit (b : BinFmt) : Nat := 2 ^ (b.ebits + b.mbits)

/-- m * 2^e as a fraction. -/
def binFrac (m : Int) (e : Int) : Frac := if e ≥ 0 then ⟨m * 2 ^ e.toNat, 1⟩ else ⟨m, 2 ^ (-e).toNat⟩

/-- A binary float converted to a ternary format (R40). -/
def binToFloat (b : BinFmt) (f : Fmt) (rnd : Rnd) (draw : Int) (u : Nat) : Res :=
  let neg := decide (u / b.signBit % 2 = 1)
  let e := u / 2 ^ b.mbits % 2 ^ b.ebits
  let m := u % 2 ^ b.mbits
  if e = 2 ^ b.ebits - 1 then (if m = 0 then ⟨if neg then -f.inf else f.inf, 0⟩ else ⟨f.nan, 0⟩)
  else
    let sig : Int := if e = 0 then m else m + 2 ^ b.mbits
    let ex : Int := (if e = 0 then 1 else (e : Int)) - b.emax - b.mbits
    f.round true rnd draw (binFrac (if neg then -sig else sig) ex)

/-- The exponent e with 2^e ≤ x < 2^(e + 1), for n and d positive. -/
def binExp (n d : Nat) : Int :=
  let k : Int := (Nat.log2 n : Int) - (Nat.log2 d : Int)
  if k ≥ 0 then (if n ≥ d * 2 ^ k.toNat then k else k - 1)
  else (if n * 2 ^ (-k).toNat ≥ d then k else k - 1)

/-- A nonzero finite value rounded to a binary format (R41). A value is out of range exactly when the mode chooses a
value beyond the largest finite one on the unbounded grid (R38). -/
def BinFmt.round (b : BinFmt) (rnd : Rnd) (draw : Int) (x : Frac) : Nat × FlagSet :=
  let neg := decide (x.num < 0)
  let a := x.num.natAbs
  let e := binExp a x.den
  let g := max e b.emin
  let u := g - (b.mbits : Int)
  let n := if u ≥ 0 then a else a * 2 ^ (-u).toNat
  let d := if u ≥ 0 then x.den * 2 ^ u.toNat else x.den
  let q := n / d
  let r := n % d
  let m := if takeUpper rnd draw neg r d then q + 1 else q
  let bits := (g - b.emin).toNat * 2 ^ b.mbits + m
  let sg := if neg then b.signBit else 0
  if e > b.emax ∨ bits ≥ b.inf then (sg + b.inf - 1, fNarrow + fInexact)
  else (sg + bits, if r = 0 then 0 else if e < b.emin then fInexact + fUnderflow else fInexact)

/-- A ternary float converted to a binary float (R41). -/
def floatToBin (f : Fmt) (b : BinFmt) (rnd : Rnd) (draw w : Int) : Nat × FlagSet :=
  match f.value w with
  | .nan => (b.qnan, 0)
  | .inf s => ((if s then b.signBit else 0) + b.inf, 0)
  | .fin x => if x.m = 0 then (0, 0) else b.round rnd draw x.frac

end Sys2Proof.Machine
end

