-- ==== Sys2Proof/Config.lean ====
section
/-!
DEFINITION. What the manual leaves to the implementation or to chance: free values and functions without a body, so that
nothing can be proved of their values. notes/assumptions names the log entry of each.
-/
namespace Sys2Proof.Config

/-- A fresh free value for each count of State.draws (log 4). -/
opaque free : Nat → Int

/-- The result and flags of a special function, by function, significand trits of the format, rounding mode, draw and
operand, where no precision of Machine/Sfu.lean decides the rounding (log 12). -/
opaque sfuOpen : Nat → Nat → Rnd → Int → Int → Int × Int

/-- Whether an access that finds an old TLB entry uses it rather than the tables (R174), for a count of State.draws and
a page (log 13). -/
opaque tlbChoice : Nat → Int → Bool

/-- The 64-bit link CRC over the first 168 bytes of a flit, whose polynomial R396 does not give (log 25). -/
opaque linkCrc : List Byte → BitVec 64

/-- The credits of a port and class with which a link begins, less one, which R396 does not give (log 25). -/
opaque linkCredits : Nat → Nat → Nat

/-- Whether a stage of another module held, when it was fenced, a contribution of this one: module, key, number; only that stage knows
(R414, log 49). -/
opaque stageHeld : Nat → Int → Nat → Bool

/-- Byte i of the payload by which a flit carries a message, whose layout R396 does not give (log 25). -/
opaque flitPayload : FlitMsg → Nat → Byte

/-- Whether a load that its core's leases could serve is served from them (R186), for a count of State.draws (log 39). -/
opaque leased : Nat → Bool

/-- Which of the contents that a fetch may see it sees (R43), for a count of State.draws (log 27). -/
opaque fetchAge : Nat → Nat

/-- An ML-DSA-44 signature of an image verifies under a public key: key, image, signature (R455, log 28). -/
opaque signatureOk : List Byte → List Byte → List Byte → Bool

/-- The SHA3-256 digest of the Sildex firmware public key, which the boot ROM holds (R455, log 29). -/
opaque keyDigest : List Byte

/-- The security version that an image states (R455, log 29). -/
opaque imageVersion : List Byte → Nat

/-- Byte i of the ML-DSA-44 signature of a message under the key of a slot; the alias key of slot 1 follows M0 to M3
(R457, R467, log 28). -/
opaque signatureByte : Nat → List (List Byte) → List Byte → Nat → Byte

/-- The certificate chain of a slot; that of slot 1 follows M0 to M3 (R457, log 28). -/
opaque certificate : Nat → List (List Byte) → List Byte

/-- The bytes of an SPDM 1.4 message with a code and its contents (R457, log 28). -/
opaque spdm : Nat → List (List Byte) → List Byte

/-- The type of a measurement in DMTF digest form, by register (R457, log 28). -/
opaque measurementType : Nat → Byte

/-- The content of the boot ROM (R454, log 29). -/
opaque rom : List Byte

/-- The bytes whose digest is measured into M5, M6 or M7, given their fields (R454, log 29). -/
opaque measured : Nat → List Int → List Byte

/-- The IEEE 1588 domain number that the management port configures (R427, log 29). -/
opaque clockDomain : Nat

/-- The energy estimate of an agency by the runtime firmware whose measurement is M2, from counters 0 to 7, the cache accesses and the
scratchpad accesses, not all 0 (R465, R466, log 31). -/
opaque energy : List Byte → List Int → Int

/-- The row of its cache slice in which a line is held (R461, log 67). -/
opaque cacheRow : Nat → Nat

/-- Spare rows of an HBM4 stack and redundant lanes of the die-to-die links (R461, log 32). -/
opaque spareRows : Nat
/-- Redundant lanes of the die-to-die links. -/
opaque spareLanes : Nat

end Sys2Proof.Config
end

