-- ==== Sys2Proof/Machine/State.lean ====
section
/-!
DEFINITION. The whole state of one SX-J27M module as plain data, the reasons a step can stop, and the state after
reset. Storage of many like cells is a ZMap: a list of (key, value) pairs in rising key order that lists no cell whose
value is 0, so that equal contents are equal data. INVENTORY.md gives the rule of the spec behind every field.
-/
namespace Sys2Proof.Machine

/-- Cells by key: keys strictly rising, no cell of value 0 listed; an unlisted cell holds 0. -/
abbrev ZMap := List (Nat × Int)

/-- Why an issue set is stalled (R142, R444); it has not left issue and issues its instruction afresh. -/
inductive Stall where
  | operand | bank | tile | post | trace | walkers | migrating | pairQueue | copyLimit | remote | fenceWait
  | pendingLimit | fetch | flush
  deriving DecidableEq, Repr

/-- The wait in which a slice stands (R126, R141): the phaser it waits on and the phase or count it needs. -/
inductive Wait where
  /-- PHWAIT and PHARR.w: phaser address and phase. -/
  | phaser (addr phase : Int)
  /-- YIELD: phaser, phase and continuation; the slice is out of issue. -/
  | yield (addr phase cont : Int)
  /-- BAR: the team phaser's phase at arrival. -/
  | bar (phase : Int)
  /-- SYNCS: the gang phaser's phase at arrival. -/
  | syncs (phase : Int)
  /-- REGANG: the set awaited. -/
  | regang (set : Int)
  /-- PHASE: the team's boundary. -/
  | boundary
  /-- RACQ.w: the place of the request in the core's order. -/
  | racq (blocks : Int)
  /-- CPWAIT.rd: the count of batches that may be unreported. -/
  | batchRd (n : Int)
  /-- CPWAIT.vis. -/
  | batchVis (n : Int)
  /-- TWAIT: the count of moves that may be outstanding. -/
  | moves (n : Int)
  /-- MXWAIT: the batch. -/
  | matrix (n : Int)
  /-- RETT: the other slices of the trapped set have not yet returned (R260). -/
  | rett
  deriving DecidableEq, Repr

/-- Why a gang is halted, with the code of R437. -/
inductive Halt where
  | haltg | contextFence | unhandled | inHandler | breakpoint | watchStop | engineWatch
  /-- Stopped before an instruction that needs an uncorrectable line (R249), which R437 gives no code. -/
  | uncorrectable
  deriving DecidableEq, Repr

/-- A register in which a pending result lands (R50, R267). -/
inductive Dest where
  | vec (r : VReg)
  | sca (slice : Nat) (r : SReg)
  | msk (r : MReg)
  deriving DecidableEq, Repr

/-- A lookahead result that has not landed (R50, R53): its issue set, its register, the values by lane (one pair for a
scalar), the flags it will raise and the window instructions still to issue. -/
structure Pending where
  slices    : List Nat
  dest      : Dest
  writes    : List (Nat × Int)
  flags     : Int
  remaining : Nat
  deriving DecidableEq, Repr

/-- A swept instruction between two of its segments (R59): its address, the words fetched, the segments done, what is the same for
every segment (the bases of its operands among it), and whether the sweep rests before a segment that failed while another
sub-gang's handler was to begin. -/
structure SweepHold where
  at_    : Int
  words  : List Int
  done   : Nat
  rnd    : Rnd
  mask   : Int
  fourth : List Int
  bases  : List (Nat × Int)
  paused : Bool
  deriving DecidableEq, Repr

/-- One entry of a copy batch (R202): the lane copies of one CPY, or a job; or the faulted job that a phase record says the batch
holds and of which the device knows nothing (R267, R268). -/
inductive BatchEntry where
  | copies (ids : List Nat)
  | job (num : Nat)
  | faulty
  deriving DecidableEq, Repr

/-- A sealed batch not yet reported visible (R202, R207): its number, the phaser it lands on (0 none), its entries and
whether its read-done stage is reported. -/
structure Batch where
  number  : Int
  phaser  : Int
  entries : List BatchEntry
  rd      : Bool
  deriving DecidableEq, Repr

/-- The copy state of a slice (R202). -/
structure CopyState where
  openB : List BatchEntry
  last  : Int
  sealed : List Batch
  deriving DecidableEq, Repr

/-- What has become of the wait of a slice at the accesses to its phaser (R117, R143): it is open, its phase has completed, or its
phaser has turned malformed. -/
inductive Fate where
  | waits
  | passes
  | malformed
  deriving DecidableEq, Repr

/-- A slice (R130): program counter, s1 to s26, the lowest slice of its sub-gang, what it waits for and what has become of that,
the trap it takes before its next instruction (R117, R123), and whether it owes that of a team moved (R276). -/
structure Slice where
  pc        : Int
  s         : ZMap
  sub       : Nat
  ended     : Bool
  wait      : Option Wait
  fate      : Fate
  stall     : Option Stall
  copy      : CopyState
  redmFlags : Int
  fenced    : Nat
  sweep     : Option SweepHold
  owed      : Option Cause
  moved     : Bool
  deriving DecidableEq, Repr

/-- What the register bank holds while a handler runs (R259, R260): the interrupted program's v72 to v80 (key
27 r + lane, r from 0) and s18 to s26 of each slice (key 9 k + r), the trapped slices, those that have executed RETT, the
pending results and partial sweeps set aside, and whether a watchpoint caused the trap (R446). -/
structure Bank where
  v       : ZMap
  s       : ZMap
  slices  : List Nat
  returned : List Nat
  pending : List Pending
  sweeps  : List (Nat × SweepHold)
  watch   : Bool
  deriving DecidableEq, Repr

/-- The implicit phaser of a team (gangs) or a gang (slices) for BAR and SYNCS (R123, R141): the number of completed
phases, the first arrival's set with the participants it fixed, and who has arrived: (gang, slice). -/
structure Barrier where
  phase   : Int
  set     : Int
  parts   : List Nat
  arrived : List (Nat × Nat)
  deriving DecidableEq, Repr

/-- A REGANG arrival (R93). -/
structure Regang where
  slice : Nat
  set   : Int
  addr  : Int
  deriving DecidableEq, Repr

/-- A PHASE arrival of a slice (R125). -/
structure Arrival where
  gang    : Nat
  slice   : Nat
  blocks  : Int
  scalars : Int
  tiles   : Bool
  deriving DecidableEq, Repr

/-- What a matrix operation computes (R287, R294). -/
inductive MxKind where
  | zero | n3 | i9 | f9 | i27 | f27
  deriving DecidableEq, Repr

/-- A matrix operation not retired (R289): operands, descriptors, mode and generators as read at issue, the B blocks
to be issued to an array, its place in the order of the pair's queue and whether it has entered the arrays (R324, R325). -/
structure MxOp where
  kind   : MxKind
  x      : Nat
  a      : List Int
  b      : List Int
  desc   : List Int
  rnd    : Rnd
  sat    : Bool
  gens   : List Int
  issued : Nat
  seq    : Nat
  batch  : Int
  inArray : Bool
  deriving DecidableEq, Repr

/-- A tile move not landed (R295): TLD into registers base to base + 8, or TST of the rows read at issue. bank says of a TLD
into v72 to v80 that it belongs to the banked copies of an interrupted program (+1), or to a handler that has ended (-1). -/
structure TileMove where
  bank : Int
  load : Bool
  base : Nat
  tile : Nat
  g    : Nat
  cols : Bool
  rows : List Int
  deriving DecidableEq, Repr

/-- A tile operation in a gang's issue order (R282). -/
inductive TileOp where
  | mx (o : MxOp)
  | move (m : TileMove)
  deriving DecidableEq, Repr

/-- A gang (R130, R132). engStop: an engine access for it has met a stopping watchpoint since its last release (R447). edits: words of
its section that a debug window has written and that take effect together when the gang is released (R361). -/
structure Gang where
  idx      : Nat
  slot     : Nat
  subPtr   : Nat
  slices   : List Slice
  blocks   : Int
  v        : ZMap
  m        : ZMap
  mode     : Int
  flags    : Int
  gens     : ZMap
  lanes    : ZMap
  tiles    : ZMap
  tileSet  : List Nat
  pending  : List Pending
  bank     : Option Bank
  phaser   : Barrier
  regangs  : List Regang
  ops      : List TileOp
  sealedMx : Int
  halt     : Option Halt
  exempt   : Bool
  engStop  : Bool
  edits    : List (Nat × Int)
  deriving DecidableEq, Repr

/-- A message port (R333, R334): depth, generation, messages oldest first, reservations not landed. -/
structure Port where
  depth    : Nat
  gen      : Int
  held     : List Int
  reserved : Nat
  deriving DecidableEq, Repr

/-- A pattern (R338). -/
structure Pattern where
  cond    : Int
  prio    : Int
  enabled : Bool
  handler : Int
  deriving DecidableEq, Repr

/-- Where a team stands: on its core, or draining before a mid-phase save, or switched out at a boundary or in mid-phase
since a cycle, or out for good with a malformed record (R269 to R271). -/
inductive Residence where
  | resident
  | saving
  | out (boundary : Bool) (since : Nat)
  | broken
  deriving DecidableEq, Repr

/-- A team (R130). phasers lists the scratchpad offsets that a phaser instruction or a landing has named. Tiles of token mode stand here with the holder of each token, or the giver and receiver of one that
is passing (R281, R300). group is the size of its cluster group (R161, R267). home is the core number kept for a team that a self-test has moved aside (R274), and swapped says that a
spare core has taken the number that it last ran on (R273). -/
structure Team where
  key      : Nat
  index    : Nat
  grid     : Nat
  group    : Nat
  core     : Nat
  pos      : Nat
  line     : Nat
  place    : Residence
  since    : Nat
  gangs    : List Gang
  scratch  : ZMap
  phasers  : List Nat
  alloc    : Nat
  record   : Int
  moves    : Nat
  lastCore : Nat
  stage    : Nat
  ports    : List Port
  pats     : List Pattern
  bar      : Barrier
  arrivals : List Arrival
  tiles    : ZMap
  tokens   : List Nat
  passing  : List (Nat × Nat × Nat)
  home     : Option Nat
  swapped  : Bool
  ended    : Bool
  deriving DecidableEq, Repr

/-- A grid (R130, R149): its launch record's doubles and patterns, the next team to place, teams ended, its chip
scratchpad once allocated. -/
structure Grid where
  num      : Nat
  ctx      : Nat
  depth    : Nat
  parent   : Option Nat
  launch   : List Int
  pats     : List Pattern
  accepted : Nat
  next     : Nat
  endedTeams : Nat
  complete : Bool
  hasChip  : Bool
  chip     : ZMap
  deriving DecidableEq, Repr

/-- The state of a job that JOBQRY can report (R220). -/
inductive JobState where
  | submitted | running | readDone | visible | faulted | finished
  deriving DecidableEq, Repr

/-- A job (R209, R217, R218, R241, R242): card, submitter, engine, the element of its walk in hand and the next new one, those put
back for a migrating page with where in its stream they lie and what has been read of them (R244), the word of its stream at which the
element in hand begins, how many elements' places in the stream are known and the word at which the next begins, trytes written, what it
has read of the element in hand, the trytes it has staged (virtual address, value, element), whether they have entered S, its
flags, whether they are merged, and whether an access of it met a stopping watchpoint (R447). -/
structure Job where
  num    : Nat
  ctx    : Nat
  team   : Nat
  grid   : Nat
  gang   : Nat
  slice  : Nat
  core   : Nat
  word   : Int
  card   : List Int
  at_    : Int
  rnd    : Rnd
  state  : JobState
  engine : Nat
  pos    : Nat
  fresh  : Nat
  waiting : List (Nat × Nat × List Int)
  off    : Nat
  sized  : Nat
  next   : Nat
  count  : Nat
  stream : List Int
  staged : List (Int × Int × Nat)
  entered : Bool
  flags  : Int
  merged : Bool
  watched : Bool
  deriving DecidableEq, Repr

/-- A reduction as its submitter follows it (R353, R354). -/
structure RedSub where
  num   : Nat
  team  : Nat
  card  : List Int
  members : List Nat
  vals  : List Int
  word  : Int
  core  : Nat
  gang  : Nat
  slice : Nat
  at_   : Int
  state : Int
  deriving DecidableEq, Repr

/-- A context (R392). halted: its fault log held an entry not acknowledged when the device last knew (R193). -/
structure Context where
  num       : Nat
  agency    : Nat
  priv      : Bool
  userRoot  : Nat
  privRoot  : Nat
  faultLog  : Int
  phaseBase : Int
  phaseLen  : Int
  landing   : List (Nat × Nat)
  records   : List (Int × Int)
  halted    : Bool
  jobSeq    : Nat
  redSeq    : Nat
  jobs      : List Job
  reds      : List RedSub
  deriving DecidableEq, Repr

/-- Where a tryte of storage lies: an HBM4 tryte of this module, a team's scratchpad, a grid's chip scratchpad, a
lane's private slice, an HBM4 tryte of a peer, or a tryte of the section of a halted gang of this module or a peer, shown by a
debug window (R360). -/
inductive Loc where
  | hbm (phys : Nat)
  | scratch (team off : Nat)
  | chip (grid off : Nat)
  | lane (team gang cell : Nat)
  | peer (modul phys : Nat)
  | window (name : Int) (off : Nat)
  | peerWin (modul : Nat) (name : Int) (off : Nat)
  deriving DecidableEq, Repr

/-- A leaf as a walk found it (R167): first small frame, owner, size in trits, and its fields. -/
structure Leaf where
  frame     : Nat
  owner     : Nat
  size      : Nat
  binary    : Bool
  compress  : Bool
  read      : Bool
  write     : Bool
  exec      : Bool
  policy    : Int
  migrating : Bool
  deriving DecidableEq, Repr

/-- A TLB entry (R172): of a core (first level) or a die (second level). -/
structure TlbEntry where
  core : Bool
  at_  : Nat
  ctx  : Nat
  page : Int
  leaf : Leaf
  deriving DecidableEq, Repr

/-- Whose access met a migrating leaf (R175). -/
inductive Parker where
  | issue (team gang slice : Nat)
  | copy (id : Nat)
  | job (ctx job : Nat)
  | redm (id : Nat)
  | red (key : Int)
  | source (ctx red : Nat)
  | trace (agency : Nat)
  | host (port : Nat)
  | grid (num : Nat)
  | post (id : Nat)
  | store (id : Nat)
  | inbound (src tag : Nat)
  | log (ctx : Nat)
  | table (team : Nat)
  | device (ctx : Nat)
  deriving DecidableEq, Repr

/-- A walk parked at a migrating leaf (R175): context, first and last address of the page, who waits. -/
structure Parked where
  ctx   : Nat
  first : Int
  last  : Int
  who   : Parker
  deriving DecidableEq, Repr

/-- A TLBINV in progress (R231, R232): who stalls on it, the context, the ranges of its slices still to do. -/
structure TlbInv where
  id     : Nat
  team   : Nat
  gang   : Nat
  slices : List Nat
  ranges : List (Nat × Int × Int)
  deriving DecidableEq, Repr

/-- A lane copy handed to a copy engine (R204, R205, R241): the first lane copy of its CPY, its scope, the translated tryte locations
of source and destination with the pages that translated them (R232), the data once read, and the stage: 0 queued, 1
read-done, -1 frozen by a fault. -/
structure LaneCopy where
  id    : Nat
  core  : Nat
  ctx   : Nat
  team  : Nat
  grid  : Nat
  gang  : Nat
  slice : Nat
  lane  : Nat
  cpy   : Nat
  word  : Int
  src   : Int
  dst   : Int
  srcs  : List Loc
  dsts  : List Loc
  scope : Scope
  pages : List (Int × Int)
  stage : Int
  data  : List Int
  watched : Bool
  deriving DecidableEq, Repr

/-- A REDM update not yet placed in S (R191, R228). -/
structure RedmUpd where
  id    : Nat
  ctx   : Nat
  grid  : Nat
  core  : Nat
  team  : Nat
  gang  : Nat
  slice : Nat
  addr  : Int
  upd   : Update
  word  : Int
  deriving DecidableEq, Repr

/-- A signal binding at a home slice (R342). -/
structure Binding where
  loc  : Loc
  ctx  : Nat
  port : Int
  msg  : Int
  deriving DecidableEq, Repr

/-- A fired or correcting post that waits for room in its port (R343, R417). -/
structure HeldPost where
  id   : Nat
  port : Int
  msg  : Int
  ctx  : Nat
  deriving DecidableEq, Repr

/-- A line of the shared cache (R163, R164, R233, R465): whether it is held compressed, dirty, at the lowest retention priority,
or only until a write that passes through it is made, and the agency of its last writer. -/
structure CacheLine where
  line   : Nat
  form   : Bool
  dirty  : Bool
  stream : Bool
  through : Bool
  agency : Nat
  deriving DecidableEq, Repr

/-- A load lease (R186): core, line, the cycle of its start. seen is the number of overwriting accesses in S behind which the core's copy
stands. -/
structure Lease where
  core  : Nat
  line  : Nat
  since : Nat
  seen  : Nat := 0
  deriving DecidableEq, Repr

/-- The HBM4 trytes that one access has overwritten, with what they held: what a fetch without a FENCE may still see (R43). -/
structure Overwrite where
  cells : List (Nat × Int)
  deriving DecidableEq, Repr

/-- What a core's scratchpad still holds where a team that has ended had its allocation (R149): core, first line, trytes. -/
structure Residue where
  core  : Nat
  line  : Nat
  cells : ZMap
  deriving DecidableEq, Repr

/-- The memory of the module (R156, R163, R165, R246 to R249). hbm is keyed by physical tryte address 19,683 f + o. Of the slots it
holds the lines of the binary view, those stored compressed, those that cannot be corrected, and the bytes that an upset has left
in a slot against its image (line, byte, value). -/
structure Mem where
  hbm      : ZMap
  binLines : List Nat
  comp     : List Nat
  badLines : List Nat
  upsets   : List (Nat × Nat × Nat)
  residue  : List Residue
  wlog     : List Overwrite
  cache    : List CacheLine
  leases   : List Lease
  deriving DecidableEq, Repr

/-- Translation hardware (R172 to R175, R231). -/
structure Xlate where
  tlb    : List TlbEntry
  parked : List Parked
  invs   : List TlbInv
  nextId : Nat
  deriving DecidableEq, Repr

/-- A fault waiting for its context's log, whose page migrates (R175, R192). -/
structure HeldFault where
  ctx   : Nat
  entry : List Int
  deriving DecidableEq, Repr

/-- One access of a store instruction still to be made: its addresses, its form, the pages that translated it (R232), its places, its trytes. -/
structure StorePart where
  addr : Int
  len  : Nat
  bin  : Bool
  pages : List (Int × Int)
  locs : List Loc
  vals : List Int
  deriving DecidableEq, Repr

/-- The stores of an instruction that have been accepted and are not all in S yet (R182, R402): the slices that issued it, its
accesses in their order. -/
structure StoreSeq where
  id     : Nat
  ctx    : Nat
  team   : Nat
  gang   : Nat
  slices : List Nat
  parts  : List StorePart
  deriving DecidableEq, Repr

/-- The engines' work in hand (R241). -/
structure Engines where
  faults   : List HeldFault
  copies   : List LaneCopy
  redms    : List RedmUpd
  stores   : List StoreSeq
  bindings : List Binding
  posts    : List HeldPost
  racq     : List (Nat × Nat × Nat × Int)
  nextId   : Nat
  deriving DecidableEq, Repr

/-- A completion that a host port returned (R250, R252): 0 success, 1 Unsupported Request, 2 Completer Abort. -/
structure Completion where
  status : Nat
  bytes  : List Byte
  deriving DecidableEq, Repr

/-- A window descriptor as it stood when a request arrived (R250). -/
structure Win where
  base  : Int
  len   : Nat
  ctx   : Nat
  kind  : Nat
  fmt   : Nat
  ty    : Nat
  range : Nat
  rnd   : Nat
  deriving DecidableEq, Repr

/-- A request that a port holds: one through a window as it stood, until what it waits for is there (R252), or a write to the queue
descriptors that came after a held write (R372). -/
inductive HeldReq where
  | write (r : WinWrite) (w : Win)
  | read (r : WinRead) (w : Win)
  | tail (queue : Fin 27) (tail : Nat)
  | state (queue : Fin 27) (st : Nat)
  | queues (off : Nat) (bytes : List Nat)
  deriving DecidableEq, Repr

/-- A queue's entry whose status is decided and not yet written (R370, R371): queue, status, grid number, whether that is written. -/
structure Serving where
  queue  : Nat
  status : Int
  grid   : Nat
  told   : Bool
  deriving DecidableEq, Repr

/-- A PCI Express port (R250, R369, R390 to R393): the bytes of its BAR0 registers by offset, MSI-X vectors raised, AER
headers logged, completions returned, the queue whose turn is next, the requests held, oldest first, the
entry in hand, whether the doorbell was rung while the other port's command was pending (R393). -/
structure HostPort where
  bar0  : ZMap
  msix  : List Nat
  aer   : List (Nat × Nat)
  comps : List Completion
  turn  : Nat
  held  : List HeldReq
  serving : Option Serving
  behind  : Bool
  deriving DecidableEq, Repr

/-- What somebody asked of a peer (R402): who, of which module, which of its requests, the tag, the context and addresses
of the access, the pages that translated it (R232), an update whose turn has not come, the answer once there. -/
structure RemoteWait where
  who    : Parker
  modul  : Nat
  key    : Nat
  tag    : Nat
  ctx    : Nat
  addr   : Int
  len    : Nat
  pages  : List (Int × Int)
  todo   : Option (List Loc × Update)
  reply  : Option RemoteReply
  deriving DecidableEq, Repr

/-- A request received and not yet served, or a message received (R396, R402). -/
structure Inbound where
  src : Nat
  msg : FlitMsg
  deriving DecidableEq, Repr

/-- A module-to-module job that its landing context has accepted and that is not done here (R214, R393): its module, its request, the landing
context, its signal, the word of its submission. -/
structure AcceptedJob where
  src     : Nat
  tag     : Nat
  landing : Nat
  signal  : Int
  word    : Int
  deriving DecidableEq, Repr

/-- A flit sent by a port (R396). -/
structure SentFlit where
  port : Nat
  seq  : Nat
  flit : Flit
  deriving DecidableEq, Repr

/-- A message that waits for a credit of its class, or for a route, to leave in a flit: its source and destination (R396, R401). -/
structure Outgoing where
  src : Nat
  dst : Nat
  msg : FlitMsg
  deriving DecidableEq, Repr

/-- The fabric side of the module (R395 to R404, R460): the placement record, the module that each port's exchange found, the
scope table's rows 4 to 6 (R400), the next sequence number expected and to be sent by port, credits returned less those spent and
credits to be returned by port and class (key 8 port + class), the fabric time of each port's last flit, the port by which messages of
one module reach another (R401), the flits of the retry buffers, all flits sent, messages that wait to leave, modules found, fenced,
without a live route and since when, whether a prism die has reported a fatal machine error (R403), modules frozen, refusals by module
and time, messages sent, received and not yet served, peers' jobs accepted, what is asked of peers. -/
structure Fabric where
  place   : Placement
  near    : List (Nat × Nat)
  scopes  : List (List Nat)
  seqIn   : ZMap
  seqOut  : ZMap
  credits : ZMap
  owed    : ZMap
  lastRx  : ZMap
  routes  : List (Nat × Nat × Nat)
  retry   : List SentFlit
  wire    : List SentFlit
  queue   : List Outgoing
  found   : List Nat
  fenced  : List Nat
  lost    : List (Nat × Int)
  fatal   : Bool
  frozen  : List Nat
  refusals : List (Nat × Int)
  out     : List (Nat × FlitMsg)
  inbox   : List Inbound
  accepted : List AcceptedJob
  waits   : List RemoteWait
  nextTag : Nat
  deriving DecidableEq, Repr

/-- What the root of a reduction has in hand (R353, R411, R417): nothing, the writes of its result, its signal, the fencing of a
contributor, a late contribution. -/
inductive RedDoing where
  | nothing
  | result
  | signal
  | fencing
  | correction
  deriving DecidableEq, Repr

/-- A reduction open at this module (R408 to R418), as a stage or, where it is the destination, as root: the card that fixed
it, its list, the agency of the context whose card opened it, the contributions held, the children (fabric ports) that have forwarded,
and at the root whether its flag has fallen, whether it opened after that, whether its result is fixed, the map, the
contributions accepted (module, context, number), the late ones held, the contributors whose fencing is still to be written
into the map (R415), what the root has in hand, the writes of it still to enter (address, length of a unit, trytes) and when it
closed. -/
structure RedOpen where
  key       : Int
  card      : List Int
  members   : List Nat
  agency    : Nat
  parts     : List RedPart
  kids      : List Nat
  fell      : Bool
  lateOpen  : Bool
  written   : Bool
  map       : List Int
  took      : List (Nat × Nat × Nat)
  late      : List RedPart
  due       : List Nat
  doing     : RedDoing
  plan      : List (Int × Nat × List Int)
  closed    : Option Int
  deriving DecidableEq, Repr

/-- A record held for room in a lossless buffer (R440): its source, its stamp as cycle, fabric time and skew bound, its trytes. -/
structure Held where
  src    : Nat
  cycle  : Nat
  fabric : Int
  bound  : Int
  body   : List Int
  deriving DecidableEq, Repr

/-- The open loss marker of a lossy buffer (R424): where it stands, its time, the records lost, the time of the last, and whether the
buffer says so, which a migrating page may put off. -/
structure LossMark where
  off  : Nat
  time : Nat
  lost : Nat
  last : Nat
  told : Bool
  deriving DecidableEq, Repr

/-- The trace configuration of an agency (R356, R433, R440): control block, write offset, source of the last record,
current time of each source's stream, sources that have written since start and since their last synchronisation record,
records held, the open loss marker, and records to be counted before a source's next
synchronisation record (source, count, first and last cycle), and the cycle of each source's last periodic synchronisation
record. -/
structure TraceCfg where
  agency   : Nat
  ctx      : Nat
  block    : List Int
  offset   : Nat
  last     : Option Nat
  streams  : List (Nat × Nat)
  wrote    : List Nat
  dirty    : List Nat
  holds    : List Held
  mark     : Option LossMark
  owed     : List (Nat × Nat × Nat × Nat)
  synced   : List (Nat × Nat)
  deriving DecidableEq, Repr

/-- An armed watch comparator (R358). -/
structure Watch where
  n      : Nat
  ctx    : Nat
  access : Int
  stop   : Bool
  start  : Int
  len    : Int
  target : Int
  deriving DecidableEq, Repr

/-- Periscope (R431 to R450): trace configurations, sampling exponents by agency, slot and cycle last sampled by scheduler,
armed comparators, open debug windows with the gang named and the gang that opened it, since when an issue set stalls (team, gang, slice, cycle), gated
clusters. -/
structure Periscope where
  cfgs     : List TraceCfg
  sampling : List (Nat × Nat)
  lastSlot : ZMap
  sampled  : ZMap
  watches  : List Watch
  windows  : List (Nat × Int × Int)
  stallAt  : List (Nat × Nat × Nat × Nat)
  gated    : List Nat
  deriving DecidableEq, Repr

/-- The hub's accounts (R451, R465): counters and snapshot copies at key 10 agency + c, cache and scratchpad accesses at key 2 agency and
2 agency + 1, the time of the last snapshot, the cycles up to which residency and energy are counted. -/
structure Hub where
  counters : ZMap
  accesses : ZMap
  snaps    : ZMap
  lastSnap : Int
  resAt    : Nat
  energyAt : Nat
  deriving DecidableEq, Repr

/-- An entry of the health log (R463). -/
structure HealthEntry where
  time   : Int
  event  : Nat
  kind   : Nat
  index  : Nat
  spare  : Nat
  detail : Nat
  rep    : Nat
  deriving DecidableEq, Repr

/-- Trust and health (R454 to R469): M0 to M8 of each prism die, the fused minimum versions, the flash, and what of it this boot loads,
images loaded and the boot state, the readiness bytes by offset, the health log with the count of entries written and the events of each kind and unit
since reset, spares used, units under self-test, die temperatures, leaders whose arrays and cache slices that are out of service,
answers given at the DOE mailboxes (0, 1) and the management port (2), and of each the messages that its next signature covers (R457). -/
structure Trust where
  meas0   : List (List Byte)
  meas1   : List (List Byte)
  fused   : List Nat
  flash   : List (Option Image)
  images  : List (Option Image)
  loaded  : Nat
  boot    : Nat
  ready   : ZMap
  health  : List HealthEntry
  written : Nat
  repeats : List (Nat × Nat × Nat × Nat)
  spares  : ZMap
  testing : List TestUnit
  temps   : ZMap
  downArrays : List Nat
  downSlices : List Nat
  answers : List (Nat × List Byte)
  said    : List (Nat × List Byte)
  deriving DecidableEq, Repr

/-- The IEEE 1588 exchange in hand (R427): its sequence number, when the time transmitter's message left there and arrived here, and
when the delay request left. -/
structure PtpState where
  seq    : Nat
  left   : Option Int
  came   : Int
  asked  : Option Int
  deriving DecidableEq, Repr

/-- The clocks (R427 to R430): the cycle count; fabric time with the 19ths of a nanosecond that have passed beyond it; the correction
still to be slewed and the cycles that it has waited for; each die's skew bound; the exchange in hand. -/
structure Clock where
  cycle  : Nat
  fabric : Int
  part   : Nat
  slew   : Int
  slewed : Nat
  bounds : List Int
  ptp    : PtpState
  deriving DecidableEq, Repr

/-- The issue set that issues now: its team, gang, slices, the words fetched, and whether the accesses of its instruction stand apart in
S, other agents' between them (R182). -/
structure Issue where
  team   : Nat
  gang   : Nat
  slices : List Nat
  words  : List Int
  apart  : Bool
  deriving DecidableEq, Repr

/-- What moves next, when the environment or an agent other than an issue scheduler does (the model's own): a step of the device, an
issue scheduler, one whose instruction's accesses stand apart in S, an upset of bytes of an HBM4 slot, a retry on a die-to-die
link, a neighbour that retries the flits of a port from its retry buffer (R396), what the domain's other modules tell of the live
routes to a module, a fatal machine error of a prism die (R403), an error of a unit, corrected or not (R461), a host's read of BAR0
registers, or nothing; or the turn that follows takes place in the cycle of the one before (R131, R422). -/
inductive Turn where
  | still
  | event (i : Instr)
  | issue (core sched : Nat)
  | apart (core sched : Nat)
  | upset (line : Nat) (bytes : List (Nat × Nat))
  | linkRetry (link : Nat)
  | resend (port : Nat)
  | routes (modul : Nat) (live : Bool)
  | fatal
  | unitError (u : TestUnit) (corrected : Bool)
  | registerRead (port : Fin 2) (off n : Nat)
  | idle
  deriving DecidableEq, Repr

/-- The state of the machine. issued: the schedulers that have issued in the present cycle, as 3 core + scheduler, each with the slot. -/
structure State where
  clock   : Clock
  issued  : List (Nat × Nat)
  mem     : Mem
  xlate   : Xlate
  ctxs    : List Context
  grids   : List Grid
  teams   : List Team
  eng     : Engines
  nextGrid : Nat
  distPtr : Nat
  slotPtr : ZMap
  lastFire : ZMap
  hosts   : List HostPort
  fab     : Fabric
  reds    : List RedOpen
  scope   : Periscope
  hub     : Hub
  trust   : Trust
  cur     : Option Issue
  agenda  : List Turn
  turn    : Nat
  agents  : Bool
  draws   : Nat
  deriving DecidableEq, Repr

/-- Why a step stops with a fault. -/
inductive Fault where
  /-- Raised by an instruction's meaning when no issue set is selected. Safe: the machine never issues so. -/
  | noIssueSet
  /-- Raised by a step of the device (a row of the table without a word) whose own precondition does not hold, so that
  the machine could not take it in this state. Safe: it stops where the hardware never goes. -/
  | notEnabled (row : String)
  deriving DecidableEq, Repr

/-- Why a step is refused. -/
inductive Refusal where
  /-- Raised by the dispatch for an instruction that has no meaning yet. Safe. -/
  | notModelled (mnemonic : String)
  deriving DecidableEq, Repr

/-- What one step answers. -/
abbrev Answer := Host.Outcome State Fault Refusal

/-- The host port after reset (R250, R369, R393): every register byte 0. -/
def HostPort.reset : HostPort := { bar0 := [], msix := [], aer := [], comps := [], turn := 0, held := [], serving := none, behind := false }

/-- A measurement register after reset: 32 zero bytes (R454). -/
def measZero : List Byte := List.replicate 32 0

/-- The machine right after module reset: no context (R392), so no grid, team or gang; boot in progress, nothing ready
(R454, R459). -/
def State.reset : State where
  clock := { cycle := 0, fabric := 0, part := 0, slew := 0, slewed := 0, bounds := List.replicate 18 (-1),
             ptp := { seq := 0, left := none, came := 0, asked := none } }
  issued := []
  mem := { hbm := [], binLines := [], comp := [], badLines := [], upsets := [], residue := [], wlog := [], cache := [], leases := [] }
  xlate := { tlb := [], parked := [], invs := [], nextId := 0 }
  ctxs := []
  grids := []
  teams := []
  eng := { faults := [], copies := [], redms := [], stores := [], bindings := [], posts := [], racq := [], nextId := 0 }
  nextGrid := 0
  distPtr := 0
  slotPtr := []
  lastFire := []
  hosts := [HostPort.reset, HostPort.reset]
  fab := { place := { domain := 0, x := 0, y := 0, z := 0, xs := 1, ys := 1, zs := 1, sys := [] }, near := [], scopes := [], seqIn := [],
           seqOut := [], credits := [], owed := [], lastRx := [], routes := [], retry := [], wire := [], queue := [], found := [], fenced := [],
           lost := [], fatal := false, frozen := [], refusals := [], out := [],
           inbox := [], accepted := [], waits := [], nextTag := 0 }
  reds := []
  scope := { cfgs := [], sampling := [], lastSlot := [], sampled := [], watches := [], windows := [], stallAt := [], gated := [] }
  hub := { counters := [], accesses := [], snaps := [], lastSnap := -1, resAt := 0, energyAt := 0 }
  trust := { meas0 := List.replicate 9 measZero, meas1 := List.replicate 9 measZero, fused := [0, 0, 0, 0],
             flash := [none, none, none, none],
             images := [none, none, none, none], loaded := 0, boot := 0, ready := [], health := [], written := 0, repeats := [],
             spares := [], testing := [], temps := [], downArrays := [], downSlices := [], answers := [], said := [] }
  cur := none
  agenda := []
  turn := 0
  agents := false
  draws := 0

end Sys2Proof.Machine
end

