-- ==== Sys2Proof/Machine/Store.lean ====
section
/-!
DEFINITION. Reading and writing cells of a ZMap in its canonical form, and small list operations on keyed records.
-/
namespace Sys2Proof.Machine

/-- The value of the cell with key k. -/
def getZ (k : Nat) : ZMap → Int
  | [] => 0
  | (a, x) :: r => if k = a then x else getZ k r

/-- A cell put in its place by key. -/
def insZ (k : Nat) (v : Int) : ZMap → ZMap
  | [] => [(k, v)]
  | (a, x) :: r => if k < a then (k, v) :: (a, x) :: r else (a, x) :: insZ k v r

/-- The map with the cell of key k set to v; writing 0 removes the cell. -/
def setZ (k : Nat) (v : Int) (m : ZMap) : ZMap :=
  let r := m.filter fun c => decide (c.1 ≠ k)
  if v = 0 then r else insZ k v r

/-- The canonical form: keys strictly rising, no cell of value 0. -/
def wfZ : ZMap → Bool
  | [] => true
  | (a, x) :: r => decide (x ≠ 0) && (match r with | [] => true | (b, _) :: _ => decide (a < b)) && wfZ r

/-- Several cells set in order. -/
def setsZ (ws : List (Nat × Int)) (m : ZMap) : ZMap := ws.foldl (fun m w => setZ w.1 w.2 m) m

/-- n consecutive cells from key k. -/
def rangeZ (k n : Nat) (m : ZMap) : List Int := (List.range n).map fun i => getZ (k + i) m

/-- Consecutive cells from key k set to the values. -/
def setRangeZ (k : Nat) : List Int → ZMap → ZMap
  | [], m => m
  | v :: vs, m => setRangeZ (k + 1) vs (setZ k v m)

/-- The map without the cells of keys k to k + n - 1. -/
def clearZ (k n : Nat) (m : ZMap) : ZMap := m.filter fun c => decide (c.1 < k) || decide (k + n ≤ c.1)

/-- The list with element i replaced. -/
def setAt {α : Type} (i : Nat) (x : α) (l : List α) : List α := l.set i x

/-- The list with f applied to every element that satisfies p. -/
def mapIf {α : Type} (p : α → Bool) (f : α → α) (l : List α) : List α := l.map fun x => if p x then f x else x

/-- The list with f applied to element i. -/
def mapAt {α : Type} (i : Nat) (f : α → α) (l : List α) : List α := l.modify i f

/-- The first element of least measure. -/
def minBy {α : Type} (m : α → Nat) : List α → Option α
  | [] => none
  | x :: r =>
    match minBy m r with
    | none => some x
    | some y => if m x ≤ m y then some x else some y

end Sys2Proof.Machine
end

