-- ==== Sys2Proof/Machine/Access.lean ====
section
/-!
DEFINITION. Finding and changing the parts of the state: contexts, grids, teams, gangs and slices by their names, scalar,
vector and mask registers (R11, R45, R76), fields of the launch record (R344, R345), gang names (R332).
-/
namespace Sys2Proof.Machine

/-- The context with number n. -/
def State.ctx? (s : State) (n : Nat) : Option Context := s.ctxs.find? fun c => decide (c.num = n)
/-- The grid with number n. -/
def State.grid? (s : State) (n : Nat) : Option Grid := s.grids.find? fun g => decide (g.num = n)
/-- The team with key k. -/
def State.team? (s : State) (k : Nat) : Option Team := s.teams.find? fun t => decide (t.key = k)
/-- Gang g of a team. -/
def Team.gang? (t : Team) (g : Nat) : Option Gang := t.gangs.find? fun x => decide (x.idx = g)
/-- Gang g of the team with key t. -/
def State.gang? (s : State) (t g : Nat) : Option Gang := (s.team? t).bind fun x => x.gang? g

/-- The state with f applied to context n. -/
def State.modCtx (s : State) (n : Nat) (f : Context → Context) : State :=
  { s with ctxs := mapIf (fun c => decide (c.num = n)) f s.ctxs }
/-- The state with f applied to grid n. -/
def State.modGrid (s : State) (n : Nat) (f : Grid → Grid) : State :=
  { s with grids := mapIf (fun g => decide (g.num = n)) f s.grids }
/-- The state with f applied to the team with key k. -/
def State.modTeam (s : State) (k : Nat) (f : Team → Team) : State :=
  { s with teams := mapIf (fun t => decide (t.key = k)) f s.teams }
/-- The team with f applied to its gang g. -/
def Team.modGang (t : Team) (g : Nat) (f : Gang → Gang) : Team :=
  { t with gangs := mapIf (fun x => decide (x.idx = g)) f t.gangs }
/-- The state with f applied to gang g of the team with key t. -/
def State.modGang (s : State) (t g : Nat) (f : Gang → Gang) : State := s.modTeam t fun x => x.modGang g f

/-- The team stands on its core. -/
def Team.onCore (t : Team) : Bool := match t.place with | .out _ _ | .broken => false | _ => true

/-- The list with f, given the position, applied to the elements at positions that satisfy p. -/
def mapPos {α : Type} (p : Nat → Bool) (f : Nat → α → α) (l : List α) : List α :=
  l.zipIdx.map fun x => if p x.2 then f x.2 x.1 else x.1

/-- The gang with f applied to its slices ks. -/
def Gang.modSlices (g : Gang) (ks : List Nat) (f : Nat → Slice → Slice) : Gang :=
  { g with slices := mapPos (fun k => ks.contains k) f g.slices }

/-- A slice that does not exist reads as an ended one. -/
def Slice.none : Slice :=
  { pc := 0, s := [], sub := 0, ended := true, wait := .none, fate := .waits, stall := .none,
    copy := { openB := [], last := 0, sealed := [] }, redmFlags := 0, fenced := 0, sweep := .none,
    owed := .none, moved := false }

/-- Slice k of a gang. -/
def Gang.slice (g : Gang) (k : Nat) : Slice := g.slices.getD k Slice.none

/-- The live slices of a gang. -/
def Gang.liveSlices (g : Gang) : List Nat := (List.range g.slices.length).filter fun k => !(g.slice k).ended

/-- Scalar register r of a slice; s0 reads zero (R76). -/
def Slice.get (x : Slice) (r : SReg) : Int := if r.val = 0 then 0 else getZ r.val x.s
/-- Scalar register r set; a write to s0 is discarded (R76). -/
def Slice.set (x : Slice) (r : SReg) (v : Int) : Slice := if r.val = 0 then x else { x with s := setZ r.val v x.s }

/-- The key of lane i of vector register r. -/
def vKey (r : Nat) (i : Nat) : Nat := 27 * r + i
/-- Lane i of vector register r. -/
def Gang.lane (g : Gang) (r : VReg) (i : Nat) : Int := getZ (vKey r.val i) g.v
/-- Lanes of vector register r set. -/
def Gang.setLanes (g : Gang) (r : VReg) (ws : List (Nat × Int)) : Gang :=
  { g with v := setsZ (ws.map fun w => (vKey r.val w.1, w.2)) g.v }

/-- Mask register r as 27 trits; m0 reads 27 trits of +1 (R76). -/
def Gang.mask (g : Gang) (r : MReg) : Int := if r.val = 0 then maxTrits 27 else getZ r.val g.m
/-- Trits of mask register r set; a write to m0 is discarded (R76). -/
def Gang.setMask (g : Gang) (r : MReg) (ws : List (Nat × Int)) : Gang :=
  if r.val = 0 then g
  else { g with m := setZ r.val (ws.foldl (fun m w => setTrit w.1 w.2 m) (getZ r.val g.m)) g.m }

/-- A pattern of trits: the value with +1 at each listed position. -/
def tritSet (l : List Nat) : Int := (l.map fun i => pow3 i).sum

/-- Block b of a gang is held (R79, R138). -/
def Gang.holds (g : Gang) (b : Nat) : Bool := decide (tritAt b g.blocks = 1)

/-- A handler runs in the gang: trit 4 of sr.mode (R92). -/
def Gang.inHandler (g : Gang) : Bool := decide (tritAt 4 g.mode = 1)
/-- sr.mode trit 2: token mode. -/
def Gang.token (g : Gang) : Bool := decide (tritAt 2 g.mode = 1)
/-- sr.mode trit 3: privileged context. -/
def Gang.priv (g : Gang) : Bool := decide (tritAt 3 g.mode = 1)

/-- The rounding mode of a code (R24); reserved codes do not occur in sr.mode. -/
def rndOfCode (c : Int) : Rnd :=
  if c = -1 then .zero else if c = 2 then .up else if c = -2 then .down else if c = 3 then .stoch else .near

/-- The rounding mode of sr.mode. -/
def Gang.rnd (g : Gang) : Rnd := rndOfCode (sub 0 2 g.mode)

/-- Double i of a launch record. -/
def Grid.dbl (g : Grid) (i : Nat) : Int := g.launch.getD i 0
/-- Gangs per team. -/
def Grid.gangs (g : Grid) : Nat := (sub 50 4 (g.dbl 3)).toNat
/-- Slices per gang. -/
def Grid.slices (g : Grid) : Nat := (sub 47 3 (g.dbl 3)).toNat
/-- Entry blocks per gang. -/
def Grid.entryBlocks (g : Grid) : Nat := (sub 44 3 (g.dbl 3)).toNat
/-- Ports per team. -/
def Grid.ports (g : Grid) : Nat := (sub 40 4 (g.dbl 3)).toNat
/-- Tiles per gang, or per team in token mode. -/
def Grid.tiles (g : Grid) : Nat := (sub 36 4 (g.dbl 3)).toNat
/-- Cluster group size. -/
def Grid.group (g : Grid) : Nat := (sub 33 3 (g.dbl 3)).toNat
/-- Token mode. -/
def Grid.token (g : Grid) : Bool := decide (tritAt 49 (g.dbl 0) = 1)
/-- Launch priority. -/
def Grid.prio (g : Grid) : Int := tritAt 50 (g.dbl 0)
/-- Chip scratchpad trytes, rounded up to a line (R162). -/
def Grid.chipSize (g : Grid) : Nat := (((g.dbl 5) + 80) / 81 * 81).toNat

/-- This module's number (R397). -/
def State.modul (s : State) : Nat :=
  729 * s.fab.place.domain + 81 * s.fab.place.x + 9 * s.fab.place.y + s.fab.place.z

/-- The load-store domain of this module (R397). -/
def State.inDomain (s : State) (m : Nat) : Bool :=
  decide (m = s.modul) || (s.fab.found.contains m && decide (m / 729 = s.fab.place.domain))

/-- A gang name (R332). -/
def gangName (modul team gang : Nat) : Int := (modul : Int) * pow3 45 + (team : Int) * pow3 27 + (gang : Int) * pow3 23

/-- A port name (R332). -/
def portName (modul team port : Nat) (gen : Int) : Int :=
  (modul : Int) * pow3 45 + (team : Int) * pow3 27 + (port : Int) * pow3 23 + gen * pow3 14

/-- The lane number of lane i of gang g in its grid (R130). -/
def laneNumber (teamIndex gang i : Nat) : Nat := (teamIndex * 27 + gang) * 27 + i

/-- The readiness byte at an offset of the table (R459). -/
def State.readyByte (s : State) (off : Nat) : Int := getZ off s.trust.ready
/-- HBM4 stack k is ready. -/
def State.stackReady (s : State) (k : Nat) : Bool := decide (s.readyByte (0x80 + k) = 1)

/-- Fabric port p carries flits (R459). -/
def State.portLive (s : State) (p : Nat) : Bool := decide (s.readyByte (0xA0 + p) = 1)

/-- The cluster of a core is power-gated (R442). -/
def State.gated (s : State) (core : Nat) : Bool := s.scope.gated.contains (core / 8)

/-- The coordinates of a module (R397). -/
def coordsOf (m : Nat) : List Nat := [m / 81 % 9, m / 9 % 9, m % 9]

/-- The fabric ports that lead a module of the domain closer, in dimension order (R398, R401). -/
def portsTowards (own m : Nat) : List Nat :=
  (List.zip (coordsOf own) (coordsOf m)).zipIdx.filterMap fun c =>
    if c.1.1 = c.1.2 then none else some (8 * c.2 + (c.1.2 + 8 - c.1.1) % 9)

/-- The port by which a message to a module leaves (R214, R401): in dimension order, or another order, or by way of an
intermediate module; a module of another domain is reached by a system port. -/
def State.portTo (s : State) (m : Nat) : Option Nat :=
  if m / 729 = s.fab.place.domain then
    (portsTowards s.modul m ++ List.range 24).find? s.portLive
  else (s.fab.near.find? fun n => decide (24 ≤ n.1) && decide (n.2 / 729 = m / 729) && s.portLive n.1).map Prod.fst

/-- The arrays of the pair of a core are out of service for want of a spare column (R462). -/
def State.pairDown (s : State) (core : Nat) : Bool := s.trust.downArrays.contains (core / 2 * 2)

/-- The issuing set with everything it belongs to, and whether the arrays of its core's pair are out of service. -/
structure Iss where
  issue : Issue
  team  : Team
  gang  : Gang
  grid  : Grid
  ctx   : Context
  down  : Bool
  deriving DecidableEq, Repr

/-- The issue set selected in the state. -/
def State.iss? (s : State) : Option Iss :=
  match s.cur with
  | none => none
  | some i =>
    match s.team? i.team with
    | none => none
    | some t =>
      match t.gang? i.gang, s.grid? t.grid with
      | some g, some gr =>
        match s.ctx? gr.ctx with
        | some c => some { issue := i, team := t, gang := g, grid := gr, ctx := c, down := s.pairDown t.core }
        | none => none
      | _, _ => none

/-- The slices of the issue set. -/
def Iss.slices (x : Iss) : List Nat := x.issue.slices
/-- The lowest slice of the issue set. -/
def Iss.low (x : Iss) : Nat := x.slices.headD 0
/-- The lanes of slices (R73). -/
def lanesOf (ks : List Nat) : List Nat := ks.flatMap fun k => [3 * k, 3 * k + 1, 3 * k + 2]
/-- The lanes of the issue set (R73). -/
def Iss.lanes (x : Iss) : List Nat := lanesOf x.slices
/-- Scalar register r of slice k. -/
def Iss.s (x : Iss) (k : Nat) (r : SReg) : Int := (x.gang.slice k).get r
/-- A uniform scalar operand (R75). -/
def Iss.uniform (x : Iss) (r : SReg) : Int := x.s x.low r
/-- Lane i of vector register r. -/
def Iss.v (x : Iss) (r : VReg) (i : Nat) : Int := x.gang.lane r i
/-- Lane i of vector register r, zero outside the issue set (R78). -/
def Iss.vIn (x : Iss) (r : VReg) (i : Nat) : Int := if x.lanes.contains i then x.v r i else 0
/-- The instruction word. -/
def Iss.word (x : Iss) : Int := x.issue.words.getLastD 0

/-- The state with f applied to the gang that issues. -/
def Iss.modGang (x : Iss) (f : Gang → Gang) (s : State) : State := s.modGang x.issue.team x.issue.gang f
/-- The state with f applied to the slices of the issue set. -/
def Iss.modSlices (x : Iss) (f : Nat → Slice → Slice) (s : State) : State := x.modGang (fun g => g.modSlices x.slices f) s

/-- Scalar register r of slices set. -/
def Iss.setS (x : Iss) (r : SReg) (ws : List (Nat × Int)) (s : State) : State :=
  x.modGang (fun g => ws.foldl (fun g w => g.modSlices [w.1] fun _ sl => sl.set r w.2) g) s

end Sys2Proof.Machine
end

