-- ==== Sys2Proof/Machine/Flits.lean ====
section
/-!
DEFINITION. The flits of the fabric (R396): their fields, when a receiver takes one for corrupt, the flit that carries a message,
and sending one by the port that leads to its module (R398, R401), with the credits and the retry buffers of the ports.
-/
namespace Sys2Proof.Machine

/-- Bytes as a number, least significant byte first. -/
def leNat (bs : List Byte) : Nat := bs.foldr (fun b n => b.toNat + 256 * n) 0

/-- A number as n bytes, least significant byte first. -/
def leBytes : Nat → Nat → List Byte
  | 0, _ => []
  | n + 1, v => BitVec.ofNat 8 (v % 256) :: leBytes n (v / 256)

/-- The destination of a flit (R396). -/
def flitDst (f : Flit) : Nat := leNat (f.bytes.take 2)
/-- The source of a flit. -/
def flitSrc (f : Flit) : Nat := leNat ((f.bytes.drop 2).take 2)
/-- Byte i of a flit. -/
def flitByte (f : Flit) (i : Nat) : Nat := (f.bytes.getD i 0).toNat
/-- The link sequence number of a flit. -/
def flitSeq (f : Flit) : Nat := leNat ((f.bytes.drop 6).take 2)
/-- The highest sequence number that the sender has received in order. -/
def flitAck (f : Flit) : Nat := leNat ((f.bytes.drop 8).take 2)
/-- The tag of a flit. -/
def flitTag (f : Flit) : Nat := leNat ((f.bytes.drop 10).take 4)
/-- The credits that a flit returns. -/
def flitCredits (f : Flit) : Nat := leNat ((f.bytes.drop 14).take 2)
/-- The payload of a flit. -/
def flitBody (f : Flit) : List Byte := (f.bytes.drop 16).take 146

/-- A ternary payload bears an unused byte code (R245). -/
def unusedCode (payload : List Byte) : Bool := (payload.take 145).any (fun b => decide (b.toNat > 242)) || decide ((payload.getD 145 0).toNat > 80)

/-- The receiver treats the flit as corrupt (R396). -/
def flitCorrupt (f : Flit) : Bool :=
  let cls := flitByte f 4
  let kind := flitByte f 5
  decide (f.bytes.length ≠ 176) || decide (leNat (f.bytes.drop 168) ≠ (Config.linkCrc (f.bytes.take 168)).toNat) ||
    ((f.bytes.drop 162).take 6).any (fun b => decide (b.toNat ≠ 0)) || decide (cls < 1) || decide (cls > 7) || decide (kind > 2) ||
    (decide (kind = 2) && decide (cls ≠ 7)) || (decide (kind = 1) && unusedCode (flitBody f))

/-- The class of the flits that carry a request (R396): posts, job data, or requests. -/
def requestClass (r : RemoteReq) : Nat :=
  match r with
  | .reserve _ | .land _ _ | .release _ | .fired _ _ => 3
  | .jobWrite _ _ _ _ | .jobSignal _ => 5
  | _ => 1

/-- The classes of the flits that may carry a message; a sender uses the first (R396). -/
def msgClasses (m : FlitMsg) : List Nat :=
  match m with
  | .nothing => [4, 7]
  | .request _ _ _ r => [requestClass r]
  | .response _ _ => [2, 4]
  | .contribution _ | .verdict _ _ _ _ => [6]
  | .fence _ | .hello _ => [7]

/-- The payload kind of a message (R396): none, binary in the control class, else ternary. -/
def msgKind (m : FlitMsg) : Nat := match m with | .nothing => 0 | .fence _ | .hello _ => 2 | _ => 1

/-- The transaction tag of a message. -/
def msgTag (m : FlitMsg) : Nat := match m with | .request t _ _ _ | .response t _ => t | _ => 0

/-- The payload of a message: no byte of a ternary payload bears an unused code (R245, R396). -/
def payloadOf (m : FlitMsg) : List Byte :=
  (List.range 146).map fun i =>
    let b := (Config.flitPayload m i).toNat
    if msgKind m = 0 then 0 else if msgKind m = 1 then BitVec.ofNat 8 (b % (if i = 145 then 81 else 243)) else BitVec.ofNat 8 b

/-- The flit is one that can carry its message: class, kind, tag and payload are the message's (R396). -/
def flitCarries (f : Flit) : Bool :=
  (msgClasses f.msg).contains (flitByte f 4) && decide (flitByte f 5 = msgKind f.msg) && decide (flitTag f = msgTag f.msg % 4294967296) &&
    decide (flitBody f = payloadOf f.msg)

/-- The flit that carries a message from one module to another, with the credits that it returns (R396). -/
def flitOf (src dst seq ack credits : Nat) (m : FlitMsg) : Flit :=
  let head := leBytes 2 dst ++ leBytes 2 src ++ leBytes 1 ((msgClasses m).headD 7) ++ leBytes 1 (msgKind m) ++ leBytes 2 seq ++
    leBytes 2 ack ++ leBytes 4 (msgTag m) ++ leBytes 2 credits ++ payloadOf m ++ leBytes 6 0
  { bytes := head ++ leBytes 8 (Config.linkCrc head).toNat, msg := m }

/-- The prism die on which a fabric port stands (R395). -/
def portDie (port : Nat) : Nat := if port ≤ 13 then 0 else 1

/-- The place of a message's class among a port's credits. -/
def creditKey (port : Nat) (m : FlitMsg) : Nat := 8 * port + (msgClasses m).headD 7

/-- A port has a credit for the class of a message (R396). -/
def State.hasCredit (s : State) (port : Nat) (m : FlitMsg) : Bool :=
  decide (0 < (Config.linkCredits port ((msgClasses m).headD 7) : Int) + 1 + getZ (creditKey port m) s.fab.credits)

/-- A message of a module put into a flit by a port, under the port's next sequence number: it spends a credit of its class and
returns those owed; the flit stays in the port's retry buffer (R396). -/
def State.transmitOn (s : State) (port src dst : Nat) (m : FlitMsg) : State :=
  let seq := (getZ port s.fab.seqOut).toNat
  let ack := ((getZ port s.fab.seqIn + 65535) % 65536).toNat
  let k := creditKey port m
  let f : SentFlit := ⟨port, seq, flitOf src dst seq ack (getZ k s.fab.owed).toNat m⟩
  { s with fab := { s.fab with
      seqOut := setZ port (((seq + 1) % 65536 : Nat) : Int) s.fab.seqOut, credits := setZ k (getZ k s.fab.credits - 1) s.fab.credits,
      owed := setZ k 0 s.fab.owed, retry := s.fab.retry ++ [f], wire := s.fab.wire ++ [f] } }

/-- The flits of a port's retry buffer go once more, as its neighbour asks (R396). -/
def State.resend (s : State) (port : Nat) : State :=
  { s with fab := { s.fab with wire := s.fab.wire ++ s.fab.retry.filter fun r => decide (r.port = port) } }

/-- A request of this module to another has left it and is not answered (R401). -/
def State.flying (s : State) (dst : Nat) : Bool :=
  s.fab.waits.any fun w => decide (w.modul = dst) && decide (w.tag ≠ 0) && w.reply.isNone &&
    !s.fab.queue.any fun q => decide (q.dst = dst) && decide (msgTag q.msg = w.tag)

/-- The port by which a message of a module to another leaves: while requests of the pair are in flight, the one that they took; a
module that only passes messages on keeps to the port that they took as long as it carries flits (R401, log 49). -/
def State.routeTo (s : State) (src dst : Nat) : Option Nat :=
  match s.fab.routes.find? fun r => decide (r.1 = src) && decide (r.2.1 = dst) with
  | some r =>
    let flying := decide (src = s.modul) && s.flying dst
    if s.portLive r.2.2 && (decide (src ≠ s.modul) || flying) then some r.2.2 else if flying then none else s.portTo dst
  | none => s.portTo dst

/-- Two messages of one pair of modules and one class, which keep their order. -/
def Outgoing.follows (a b : Outgoing) : Bool :=
  decide (a.src = b.src) && decide (a.dst = b.dst) && decide ((msgClasses a.msg).headD 7 = (msgClasses b.msg).headD 7)

/-- A message leaves by the port that leads to its module, where there is one with a credit (R396, R401). -/
def State.launch (s : State) (q : Outgoing) : Option State :=
  match s.routeTo q.src q.dst with
  | some p =>
    if s.hasCredit p q.msg then
      let other (r : Nat × Nat × Nat) : Bool := decide (r.1 ≠ q.src) || decide (r.2.1 ≠ q.dst)
      some ({ s with fab := { s.fab with routes := (q.src, q.dst, p) :: s.fab.routes.filter other } }.transmitOn p q.src q.dst q.msg)
    else none
  | none => none

/-- A message of a module handed to the fabric (R396, R398, R401): it leaves at once, or waits behind those before it. -/
def State.transmitFrom (s : State) (src dst : Nat) (m : FlitMsg) : State :=
  let q : Outgoing := ⟨src, dst, m⟩
  let s1 : State := { s with fab := { s.fab with out := s.fab.out ++ [(dst, m)] } }
  if s.fab.queue.any q.follows then { s1 with fab := { s1.fab with queue := s1.fab.queue ++ [q] } }
  else (s1.launch q).getD { s1 with fab := { s1.fab with queue := s1.fab.queue ++ [q] } }

/-- The first waiting message that may leave by now does (R396, R401). -/
def State.launchNext (s : State) : Option State :=
  s.fab.queue.zipIdx.findSome? fun q =>
    if (s.fab.queue.take q.2).any q.1.follows then none
    else ({ s with fab := { s.fab with queue := s.fab.queue.eraseIdx q.2 } } : State).launch q.1

/-- A message of this module handed to the fabric. -/
def State.transmit (s : State) (dst : Nat) (m : FlitMsg) : State := s.transmitFrom s.modul dst m

/-- What a port has sent up to an acknowledged sequence number leaves its retry buffer (R396). -/
def State.acknowledge (s : State) (port ack : Nat) : State :=
  let mine := s.fab.retry.filter fun r => decide (r.port = port)
  match mine.findIdx? fun r => decide (r.seq = ack) with
  | none => s
  | some i =>
    { s with fab := { s.fab with
        retry := (s.fab.retry.filter fun r => decide (r.port ≠ port)) ++ mine.drop (i + 1) } }

end Sys2Proof.Machine
end

