-- ==== Sys2Proof/Machine/Health.lean ====
section
/-!
DEFINITION. The health log (R463), readiness bytes (R459), units under self-test (R461).
-/
namespace Sys2Proof.Machine

/-- The spare field of an entry that names none (R463). -/
def noSpare : Nat := 0xFFFFFFFF

/-- An entry written to the health log: event, unit kind and index, spare, detail; it counts the events of its kind on its
unit since reset (R463). -/
def State.health (s : State) (event kind index spare detail : Nat) : State :=
  let mine (r : Nat × Nat × Nat × Nat) : Bool := decide (r.1 = event) && decide (r.2.1 = kind) && decide (r.2.2.1 = index)
  let n := 1 + match s.trust.repeats.find? mine with | some r => r.2.2.2 | none => 0
  let e : HealthEntry := ⟨s.clock.fabric, event, kind, index, spare, detail, n⟩
  let t := s.trust
  { s with trust := { t with
      health := (t.health ++ [e]).drop (t.health.length + 1 - 729), written := t.written + 1,
      repeats := (event, kind, index, n) :: t.repeats.filter fun r => !mine r } }

/-- A readiness byte set. -/
def State.setReady (s : State) (off : Nat) (v : Int) : State :=
  { s with trust := { s.trust with ready := setZ off v s.trust.ready } }

/-- A unit in the health log: kind, index, detail (R463). -/
def unitNo (u : TestUnit) : Nat × Nat × Nat :=
  match u with
  | .core n => (1, n, 0)
  | .arrayColumn c k => (2, c, k)
  | .cacheRow h r => (3, h, r)
  | .hbmRow k r => (4, k, r)
  | .ucieLane n => (5, n, 0)

/-- An entry of the health log about a unit. -/
def State.logUnit (s : State) (event : Nat) (u : TestUnit) (spare : Nat) : State :=
  let n := unitNo u
  s.health event n.1 n.2.1 spare n.2.2

/-- The cluster of a unit whose tests run one at a time (R461). -/
def unitCluster (u : TestUnit) : Option Nat :=
  match u with
  | .core n => some (n / 8)
  | .arrayColumn c _ => some (c / 8)
  | _ => none

/-- The unit under self-test in a cluster, if any: the first whose error arose (R461). -/
def State.testedIn (s : State) (cluster : Nat) : Option TestUnit := s.trust.testing.find? fun u => decide (unitCluster u = some cluster)

/-- The self-test of a unit has begun: it is the first of its cluster's (R461). -/
def State.underTest (s : State) (u : TestUnit) : Bool :=
  s.trust.testing.contains u && (match unitCluster u with | some c => decide (s.testedIn c = some u) | none => true)

/-- The units under test replaced. -/
def State.setTesting (s : State) (l : List TestUnit) : State := { s with trust := { s.trust with testing := l } }

/-- An error in an HBM4 slot, corrected or not, is logged and triggers the self-test of the row that holds it (R249, R461, R463). -/
def State.rowError (s : State) (corrected : Bool) (stack row : Nat) : State :=
  let s1 := s.logUnit (if corrected then 1 else 2) (.hbmRow stack row) noSpare
  if s.trust.testing.contains (.hbmRow stack row) then s1 else s1.setTesting (s.trust.testing ++ [.hbmRow stack row])

end Sys2Proof.Machine
end

