-- ==== Sys2Proof/Machine/Narrow.lean ====
section
/-!
DEFINITION. Narrow codes (R33 to R37) and compressed streams (R283 to R286). Values t(c) are kept times 729, which makes
every one of the four tables integral.
-/
namespace Sys2Proof.Machine

/-- 729 t(c) for codes 1 to 13 of the small float type (R35). -/
def smallFloatTable : List Int := [81, 162, 243, 324, 486, 729, 972, 1458, 2187, 2916, 4374, 6561, 8748]

/-- 729 t(c) for codes 1 to 13 of the hybrid type (R35). -/
def hybridTable : List Int := [729, 1458, 2187, 2916, 3645, 4374, 5103, 5832, 6561, 8748, 13122, 19683, 26244]

/-- 729 t(c) (R35): type 0 uniform, 1 small float, -1 power of three, 2 hybrid. -/
def codeValue (ty c : Int) : Int :=
  let k := c.natAbs
  let a : Int :=
    if k = 0 then 0
    else if ty = 1 then smallFloatTable.getD (k - 1) 0
    else if ty = -1 then pow3 (k - 1)
    else if ty = 2 then hybridTable.getD (k - 1) 0
    else 729 * (k : Int)
  if c < 0 then -a else a

/-- A block descriptor read (R34). -/
structure Desc where
  scale : Scaled
  ty    : Int
  z     : Int
  deriving DecidableEq, Repr

/-- A descriptor word (R34); none when it is invalid. -/
def readDesc (w : Int) : Option Desc :=
  let ty := sub 7 2 w
  if (ty = 0 ∨ ty = 1 ∨ ty = -1 ∨ ty = 2) ∧ sub 0 4 w = 0 then
    match f18.value (sub 9 18 w) with
    | .fin s => some ⟨s, ty, sub 4 3 w⟩
    | _ => none
  else none

/-- The element value of code c (R36). -/
def Desc.element (d : Desc) (c : Int) : Scaled :=
  ⟨d.scale.m * (codeValue d.ty c - codeValue d.ty d.z), d.scale.e - 6⟩

/-- The greatest code whose 729 t(c) is at most num / den, from -13 up; -13 when none is. -/
def codeBelow (ty num den : Int) : Int :=
  (List.range 27).foldl (fun best i => let c : Int := i - 13; if codeValue ty c * den ≤ num then c else best) (-13)

/-- Quantisation of a finite value (R37). -/
def Desc.quantise (d : Desc) (rnd : Rnd) (draw : Int) (x : Frac) : Res :=
  if d.scale.m = 0 then
    if x.num = 0 then ⟨d.z, 0⟩ else ⟨if x.num > 0 then 13 else -13, fNarrow + fDivZero⟩
  else
    let tz := codeValue d.ty d.z
    let q := Frac.div x d.scale.frac
    let yn := 729 * q.num + tz * (q.den : Int)
    let yd : Int := q.den
    if yn > codeValue d.ty 13 * yd then ⟨13, fNarrow + fInexact⟩
    else if yn < codeValue d.ty (-13) * yd then ⟨-13, fNarrow + fInexact⟩
    else
      let lo := codeBelow d.ty yn yd
      let tl := codeValue d.ty lo
      if tl * yd = yn then ⟨lo, 0⟩
      else
        let hi := lo + 1
        let th := codeValue d.ty hi
        let near := if tz ≤ tl then lo else hi
        let far := if tz ≤ tl then hi else lo
        let c :=
          match rnd with
          | .near => if 2 * yn < (tl + th) * yd then lo else if 2 * yn > (tl + th) * yd then hi else near
          | .zero => near
          | .up => if d.scale.m > 0 then hi else lo
          | .down => if d.scale.m > 0 then lo else hi
          | .stoch =>
            let dl := (codeValue d.ty near - tz).natAbs
            let dh := (codeValue d.ty far - tz).natAbs
            let dx := (yn - tz * yd).natAbs
            if 39366 * ((dx : Int) - (dl : Int) * yd) > (2 * draw + 19683) * (((dh : Int) - (dl : Int)) * yd)
            then far else near
        ⟨c, fInexact⟩

/-- Quantisation of a float word (R37). -/
def Desc.quantiseFloat (d : Desc) (f : Fmt) (rnd : Rnd) (draw w : Int) : Res :=
  match f.value w with
  | .nan => ⟨d.z, fInvalid⟩
  | .inf s => ⟨if s then -13 else 13, fNarrow⟩
  | .fin x => d.quantise rnd draw x.frac

/-- The nine codes of a word (R33). -/
def codesOf (w : Int) : List Int := digits 3 9 w

/-- The word of codes. -/
def wordOfCodes (cs : List Int) : Int := ofDigits 3 cs

/-- The form and words of a block of three words in a stream (R283). -/
def packBlock (ws : List Int) : Int × List Int :=
  let codes := (ws.take 3).flatMap codesOf
  let idx := (List.range 27).filter fun j => codes.getD j 0 ≠ 0
  if idx = [] then (0, [])
  else if idx.length ≤ 9 then
    (1, [ofTrits ((List.range 27).map fun j => if codes.getD j 0 ≠ 0 then 1 else 0),
         wordOfCodes (idx.map fun j => codes.getD j 0)])
  else (-1, ws.take 3)

/-- The blocks of a run of words. -/
def blocksOf : Nat → List Int → List (List Int)
  | 0, _ => []
  | n + 1, ws => ws.take 3 :: blocksOf n (ws.drop 3)

/-- A stream of nb blocks with nm map words (R284, R285). -/
def packStream (nm nb : Nat) (ws : List Int) : List Int :=
  let bs := (blocksOf nb ws).map packBlock
  let forms := bs.map Prod.fst
  ((List.range nm).map fun u => ofTrits ((forms.drop (27 * u)).take 27)) ++ (bs.map Prod.snd).flatten

/-- A block of a stream expanded (R283, R286): its three words and the words left; none when it is malformed. -/
def unpackBlock (form : Int) (ws : List Int) : Option (List Int × List Int) :=
  if form = 0 then some ([0, 0, 0], ws)
  else if form = -1 then
    match ws with
    | a :: b :: c :: r => some ([a, b, c], r)
    | _ => none
  else
    match ws with
    | p :: k :: r =>
      let idx := (List.range 27).filter fun j => tritAt j p ≠ 0
      let n := idx.length
      let cs := codesOf k
      if hasMinus 27 p || decide (n = 0) || decide (n > 9) || (cs.take n).any (fun c => decide (c = 0)) ||
          (cs.drop n).any (fun c => decide (c ≠ 0)) then none
      else
        let cell (j : Nat) : Int := if tritAt j p ≠ 0 then cs.getD (idx.idxOf j) 0 else 0
        some ((List.range 3).map fun w => wordOfCodes ((List.range 9).map fun q => cell (9 * w + q)), r)
    | _ => none

/-- The blocks of a stream expanded, given their forms. -/
def unpackBlocks : List Int → List Int → Option (List Int × List Int)
  | [], ws => some ([], ws)
  | f :: fs, ws =>
    match unpackBlock f ws with
    | none => none
    | some (b, r) =>
      match unpackBlocks fs r with
      | none => none
      | some (bs, r') => some (b ++ bs, r')

/-- A stream of nb blocks with nm map words expanded (R284 to R286): the words and the words of the container left. -/
def unpackStream (nm nb : Nat) (ws : List Int) : Option (List Int × List Int) :=
  if ws.length < nm then none
  else
    let forms := ((ws.take nm).flatMap fun m => trits 27 m)
    if (forms.drop nb).any (fun t => decide (t ≠ 0)) then none else unpackBlocks (forms.take nb) (ws.drop nm)

end Sys2Proof.Machine
end

