-- ==== Sys2Proof/Machine/Causes.lean ====
section
/-!
DEFINITION. The six-trit code of every cause (R63, R127, R153, R171, R234, R264, R364, R389, R404) and its place in the
order of R266.
-/
namespace Sys2Proof.Machine

/-- The code of a cause, the value of its six trits (R263). -/
def causeCode : Cause → Int
  | .unassignedMajor => -323  -- 0t--000+
  | .unassignedMinor => -322  -- 0t--00+-
  | .reservedField => -321  -- 0t--00+0
  | .regRange => -320  -- 0t--00++
  | .typeNotAccepted => -319  -- 0t--0+--
  | .reservedCode => -318  -- 0t--0+-0
  | .prefixMisuse => -317  -- 0t--0+-+
  | .laNotHonoured => -316  -- 0t--0+0-
  | .laConflict => -315  -- 0t--0+00
  | .privilegedInstr => -202  -- 0t-+----
  | .privilegedReg => -201  -- 0t-+---0
  | .srNotWritable => -310  -- 0t--+---
  | .roundingNotUsable => -309  -- 0t--+--0
  | .valueRange => -308  -- 0t--+--+
  | .blockNotHeld => -307  -- 0t--+-0-
  | .returnOutside => -306  -- 0t--+-00
  | .setInvalid => -305  -- 0t--+-0+
  | .countMismatch => -229  -- 0t-0+---
  | .setsDisagree => -228  -- 0t-0+--0
  | .participantEnded => -227  -- 0t-0+--+
  | .phaserMalformed => -226  -- 0t-0+-0-
  | .phaserOutside => -225  -- 0t-0+-00
  | .nestingTooDeep => -224  -- 0t-0+-0+
  | .notLeader => -223  -- 0t-0+-+-
  | .recordMalformed => -221  -- 0t-0+-++
  | .gridTooLarge => -222  -- 0t-0+-+0
  | .misaligned => -283  -- 0t-0----
  | .outsideSpace => -282  -- 0t-0---0
  | .ternaryOnBinary => -280  -- 0t-0--0-
  | .outsideAllocation => -281  -- 0t-0---+
  | .nullPage => -279  -- 0t-0--00
  | .noWindow => -278  -- 0t-0--0+
  | .lanePrivate => -277  -- 0t-0--+-
  | .rankAbsent => -276  -- 0t-0--+0
  | .privilegedHalf => -275  -- 0t-0--++
  | .notPresent => -274  -- 0t-0-0--
  | .entryMalformed => -273  -- 0t-0-0-0
  | .ownerOutside => -272  -- 0t-0-0-+
  | .noRead => -271  -- 0t-0-00-
  | .noWrite => -270  -- 0t-0-000
  | .noExecute => -269  -- 0t-0-00+
  | .binaryOnTernary => -268  -- 0t-0-0+-
  | .ownerFenced => -267  -- 0t-0-0+0
  | .conversionRange => -256  -- 0t-00---
  | .descriptorInvalid => 203  -- 0t+0----
  | .noPair => 204  -- 0t+0---0
  | .streamMalformed => 205  -- 0t+0---+
  | .tileNotHeld => 206  -- 0t+0--0-
  | .tokenNotHeld => 218  -- 0t+0-0+-
  | .portFull => -175  -- 0t-+0---
  | .portNotConfigured => -174  -- 0t-+0--0
  | .portIndex => -173  -- 0t-+0--+
  | .teamAbsent => -172  -- 0t-+0-0-
  | .bindingTableFull => -171  -- 0t-+0-00
  | .outsideFootprint => 122  -- 0t+-----
  | .batchFull => 123  -- 0t+----0
  | .cardMalformed => 124  -- 0t+----+
  | .landingRefused => 125  -- 0t+---0-
  | .noSchedule => 126  -- 0t+---00
  | .reductionMalformed => 127  -- 0t+---0+
  | .breakpoint => -148  -- 0t-++---
  | .softwareTrap => -147  -- 0t-++--0
  | .watchpoint => -146  -- 0t-++--+
  | .gangNotHalted => -145  -- 0t-++-0-
  | .gangName => -144  -- 0t-++-00
  | .uncorrectable => 338  -- 0t+++---
  | .trapInHandler => 339  -- 0t+++--0
  | .phaseRecord => 340  -- 0t+++--+
  | .teamMoved => 341  -- 0t+++-0-

/-- Every cause. -/
def allCauses : List Cause :=
  [.unassignedMajor, .unassignedMinor, .reservedField, .regRange, .typeNotAccepted, .reservedCode,
   .prefixMisuse, .laNotHonoured, .laConflict, .privilegedInstr, .privilegedReg, .srNotWritable,
   .roundingNotUsable, .valueRange, .blockNotHeld, .returnOutside, .setInvalid, .countMismatch, .setsDisagree,
   .participantEnded, .phaserMalformed, .phaserOutside, .nestingTooDeep, .notLeader, .recordMalformed,
   .gridTooLarge, .misaligned, .outsideSpace, .ternaryOnBinary, .outsideAllocation, .nullPage, .noWindow,
   .lanePrivate, .rankAbsent, .privilegedHalf, .notPresent, .entryMalformed, .ownerOutside, .noRead, .noWrite,
   .noExecute, .binaryOnTernary, .ownerFenced, .conversionRange, .descriptorInvalid, .noPair, .streamMalformed,
   .tileNotHeld, .tokenNotHeld, .portFull, .portNotConfigured, .portIndex, .teamAbsent, .bindingTableFull,
   .outsideFootprint, .batchFull, .cardMalformed, .landingRefused, .noSchedule, .reductionMalformed,
   .breakpoint, .softwareTrap, .watchpoint, .gangNotHalted, .gangName, .uncorrectable, .trapInHandler,
   .phaseRecord, .teamMoved]

/-- The cause with a code. -/
def causeOfCode (n : Int) : Option Cause := allCauses.find? fun c => decide (causeCode c = n)

/-- The place of a cause in the order of R266: the classes in their order, R171's order among memory causes. -/
def causeRank : Cause → Nat
  | .unassignedMajor => 0
  | .unassignedMinor => 1
  | .reservedField => 2
  | .regRange => 3
  | .typeNotAccepted => 4
  | .reservedCode => 5
  | .prefixMisuse => 6
  | .laNotHonoured => 7
  | .laConflict => 8
  | .privilegedInstr => 9
  | .privilegedReg => 10
  | .srNotWritable => 11
  | .roundingNotUsable => 12
  | .valueRange => 13
  | .blockNotHeld => 14
  | .returnOutside => 15
  | .setInvalid => 16
  | .countMismatch => 17
  | .setsDisagree => 18
  | .participantEnded => 19
  | .phaserMalformed => 20
  | .phaserOutside => 21
  | .nestingTooDeep => 22
  | .notLeader => 23
  | .recordMalformed => 24
  | .gridTooLarge => 25
  | .misaligned => 26
  | .outsideSpace => 27
  | .ternaryOnBinary => 28
  | .outsideAllocation => 29
  | .nullPage => 30
  | .noWindow => 31
  | .lanePrivate => 32
  | .rankAbsent => 33
  | .privilegedHalf => 34
  | .notPresent => 35
  | .entryMalformed => 36
  | .ownerOutside => 37
  | .noRead => 38
  | .noWrite => 39
  | .noExecute => 40
  | .binaryOnTernary => 41
  | .ownerFenced => 42
  | .conversionRange => 43
  | .descriptorInvalid => 44
  | .noPair => 45
  | .streamMalformed => 46
  | .tileNotHeld => 47
  | .tokenNotHeld => 48
  | .portFull => 49
  | .portNotConfigured => 50
  | .portIndex => 51
  | .teamAbsent => 52
  | .bindingTableFull => 53
  | .outsideFootprint => 54
  | .batchFull => 55
  | .cardMalformed => 56
  | .landingRefused => 57
  | .noSchedule => 58
  | .reductionMalformed => 59
  | .breakpoint => 60
  | .softwareTrap => 61
  | .watchpoint => 62
  | .gangNotHalted => 63
  | .gangName => 64
  | .uncorrectable => 65
  | .trapInHandler => 66
  | .phaseRecord => 67
  | .teamMoved => 68

/-- The cause that comes first by R266. -/
def firstOf : List Cause → Option Cause
  | [] => none
  | c :: cs =>
    match firstOf cs with
    | none => some c
    | some d => if causeRank c ≤ causeRank d then some c else some d

/-- A memory cause: its trap state carries effective addresses (R259). -/
def isMemoryCause (c : Cause) : Bool := decide (26 ≤ causeRank c) && decide (causeRank c ≤ 42)

end Sys2Proof.Machine
end

