-- ==== Sys2Proof/Machine/Phaser.lean ====
section
/-!
DEFINITION. Explicit phasers: three words of a scratchpad (R116, R117). The words of a place count as a phaser's from the
first phaser instruction or landing that names it (log 23).
-/
namespace Sys2Proof.Machine

/-- Word j of the phaser at offset off of a team's scratchpad. -/
def Team.phWord (t : Team) (off j : Nat) : Int := ofTrytes (rangeZ (off + 3 * j) 3 t.scratch)

/-- Word j of a phaser written. -/
def Team.setPhWord (t : Team) (off j : Nat) (v : Int) : Team :=
  { t with scratch := setRangeZ (off + 3 * j) (toTrytes 3 v) t.scratch }

/-- The phase. -/
def Team.phPhase (t : Team) (off : Nat) : Int := t.phWord off 0
/-- The count of arrivals expected. -/
def Team.phCount (t : Team) (off : Nat) : Int := sub 18 9 (t.phWord off 1)
/-- The slices arrived. -/
def Team.phArrived (t : Team) (off : Nat) : Int := sub 9 9 (t.phWord off 1)
/-- The trytes expected. -/
def Team.phExpected (t : Team) (off : Nat) : Int := sub 14 13 (t.phWord off 2)
/-- The trytes landed. -/
def Team.phLanded (t : Team) (off : Nat) : Int := sub 0 14 (t.phWord off 2)
/-- The phaser is malformed (R116). -/
def Team.phBad (t : Team) (off : Nat) : Bool := decide (sub 0 9 (t.phWord off 1) ≠ 0)

/-- The completion test that is part of an access to a phaser (R117); direct is an arrival or a PHEXP. -/
def Team.phTest (t : Team) (direct : Bool) (off : Nat) : Team :=
  if t.phArrived off = t.phCount off ∧ t.phLanded off ≥ t.phExpected off ∧
      (direct ∨ t.phArrived off ≠ 0 ∨ t.phExpected off ≠ 0) then
    ((t.setPhWord off 0 (wrap 27 (t.phPhase off + 1))).setPhWord off 1 (setSub 9 9 0 (t.phWord off 1))).setPhWord off 2
      (t.phLanded off - t.phExpected off)
  else t

/-- The place named by a phaser instruction or a landing. -/
def Team.phName (t : Team) (off : Nat) : Team := if t.phasers.contains off then t else { t with phasers := off :: t.phasers }

/-- An engine lands n trytes (R117). -/
def Team.phLand (t : Team) (off : Nat) (n : Int) : Team :=
  let t := t.phName off
  let l := t.phLanded off + n
  if l > 2391484 then
    (t.setPhWord off 1 (setTrit 0 1 (t.phWord off 1))).setPhWord off 2 (setSub 0 14 2391484 (t.phWord off 2))
  else (t.setPhWord off 2 (setSub 0 14 l (t.phWord off 2))).phTest false off

/-- Phase p has completed when the current phase is q (R117). -/
def passed (q p : Int) : Bool := decide (1 ≤ wrap 27 (q - p)) && decide (wrap 27 (q - p) ≤ 1906399371246)

end Sys2Proof.Machine
end

