-- ==== Sys2Proof/Machine/Section.lean ====
section
/-!
DEFINITION. The gang section of a phase record (R267), word by word: 883 lines of 27 words. Debug windows (R360) show a
halted gang in this layout, and saves and resumptions (R269, R271) write and read it. What the layout has no field for
(which lanes a pending result writes, its flags) stays in the state while the team is out.
-/
namespace Sys2Proof.Machine

/-- The low or high word of a double. -/
def halfOf (hi : Bool) (x : Int) : Int := if hi then dropLow 27 x else wrap 27 x
/-- A double with its low or high word replaced. -/
def setHalf (hi : Bool) (v x : Int) : Int := if hi then wrap 27 x + pow3 27 * v else v + pow3 27 * dropLow 27 x

/-- The wait of a slice as words 4, 5-6 and 7 of its area give it: code, operand, phase awaited (R267). Of a batch wait the phase is
the number of the batch awaited; a TWAIT awaits no phase, only a count (R298, R329). -/
def waitFields (t : Team) (g : Gang) (x : Slice) : Int × Int × Int :=
  match x.wait with
  | none => (0, 0, 0)
  | some (.phaser a p) => (1, a, p)
  | some (.yield a p _) => (-1, a, p)
  | some (.bar p) => (2, 0, p)
  | some .boundary => (2, 0, t.bar.phase)
  | some (.syncs p) => (-2, 0, p)
  | some (.regang _) => (-2, 0, g.phaser.phase)
  | some (.batchRd n) => (3, n, wrap 27 (x.copy.last - n))
  | some (.batchVis n) => (3, n, wrap 27 (x.copy.last - n))
  | some (.moves n) => (-3, n, 0)
  | some (.matrix n) => (-3, 0, n)
  | some (.racq b) => (4, b, 0)
  | some .rett => (0, 0, 0)

/-- A wait with the fields written into it; one whose code changes becomes the plain wait of the new code. -/
def waitOfFields (old : Option Wait) (code op ph : Int) : Option Wait :=
  if code = 0 then (if old = some .rett then old else none)
  else if code = 1 then some (.phaser op ph)
  else if code = -1 then (match old with | some (.yield _ _ c) => some (.yield op ph c) | _ => some (.yield op ph 0))
  else if code = 2 then (if old = some .boundary then old else some (.bar ph))
  else if code = -2 then (match old with | some (.regang x) => some (.regang x) | _ => some (.syncs ph))
  else if code = 3 then (match old with | some (.batchRd _) => some (.batchRd op) | _ => some (.batchVis op))
  else if code = -3 then (match old with | some (.matrix _) => some (.matrix ph) | _ => some (.moves op))
  else some (.racq op)

/-- The field value that names a register of a pending result (R45). -/
def destField (d : Dest) : Int :=
  match d with
  | .vec r => if r.val ≤ 40 then r.val else (r.val : Int) - 81
  | .sca _ r => if r.val ≤ 13 then r.val else (r.val : Int) - 27
  | .msk r => if r.val ≤ 4 then r.val else (r.val : Int) - 9

/-- A pending directory word (R267); that of an entry that has been blanked is 0. -/
def pendingWord (p : Pending) : Int :=
  if p.slices = [] then 0 else
  let n : Int := if p.remaining ≤ 13 then p.remaining else (p.remaining : Int) - 27
  match p.dest with
  | .vec _ => pow3 25 + pow3 21 * destField p.dest + pow3 15 * n
  | .sca k _ => -pow3 25 + pow3 21 * destField p.dest + pow3 18 * (k : Int) + pow3 15 * n
  | .msk _ => 2 * pow3 25 + pow3 21 * destField p.dest + pow3 15 * n

/-- A pending directory word is well-formed (R270). -/
def pendingWordOk (w : Int) : Bool :=
  let k := sub 25 2 w
  let r := sub 21 4 w
  let sl := sub 18 3 w
  decide (sub 0 15 w = 0) &&
    (decide (w = 0) || (decide (k = 1) && decide (sl = 0)) ||
     (decide (k = -1) && decide (0 ≤ sl) && decide (sl ≤ 8) && decide (-13 ≤ r) && decide (r ≤ 13)) ||
     (decide (k = 2) && decide (sl = 0) && decide (-4 ≤ r) && decide (r ≤ 4)))

/-- The register that a directory word names. -/
def destOfWord (w : Int) : Dest :=
  let r := sub 21 4 w
  if sub 25 2 w = 1 then .vec (Fin.ofNat 81 (r % 81).toNat)
  else if sub 25 2 w = 2 then .msk (Fin.ofNat 9 (r % 9).toNat)
  else .sca (sub 18 3 w).toNat (Fin.ofNat 27 (r % 27).toNat)

/-- Pending result n after its directory word has been written. -/
def setPendingWord (slices : Nat) (w : Int) (p : Pending) : Pending :=
  let d := destOfWord w
  { p with
    dest := d, remaining := (sub 15 3 w % 27).toNat,
    slices := if p.slices = [] then List.range slices else p.slices,
    writes :=
      if p.slices = [] then (match d with | .vec _ => (List.range 27).map fun i => (i, 0) | _ => [(0, 0)]) else p.writes }

/-- The pending results that a gang section shows: those set aside while a handler runs, then the gang's. -/
def Gang.shown (g : Gang) : List Pending := (match g.bank with | some b => b.pending | none => []) ++ g.pending

/-- Scalar register r of slice k as the program sees it: the interrupted value while banked copies are in use. -/
def Gang.progS (g : Gang) (k r : Nat) : Int :=
  match g.bank with
  | some b => if r ≥ 18 ∧ b.slices.contains k then getZ (9 * k + (r - 18)) b.s else getZ r (g.slice k).s
  | none => getZ r (g.slice k).s

/-- Word j of the third line of a slice's area (R267). -/
def sliceWord (t : Team) (g : Gang) (fb : Nat → Int) (k j : Nat) : Int :=
  let x := g.slice k
  let w := waitFields t g x
  let pc := match x.wait with | some (.yield _ _ c) => c | _ => x.pc
  if j = 0 then halfOf false pc else if j = 1 then halfOf true pc
  else if j = 2 then halfOf false x.copy.last else if j = 3 then halfOf true x.copy.last
  else if j = 4 then w.1 else if j = 5 then halfOf false w.2.1 else if j = 6 then halfOf true w.2.1
  else if j = 7 then w.2.2
  else if j = 8 then (match x.sweep with | some h => h.done | none => 0)
  else if j = 9 then x.copy.openB.length
  else if j = 10 then fb k else 0

/-- Word j of the gang header (R267). -/
def headerWord (g : Gang) (tiles : List Nat) (j : Nat) : Int :=
  if j = 0 then g.idx else if j = 1 then g.blocks else if j = 2 then tritSet tiles
  else if j ≤ 10 then getZ (j - 2) g.m
  else if j = 11 then g.mode else if j = 12 then g.flags
  else if j = 13 then (g.slices.zipIdx.map fun p => pow3 (2 * p.2) * ((p.1.sub : Int) - 4)).sum
  else if j = 14 then (g.slices.zipIdx.map fun p => pow3 p.2 * (if p.1.ended then -1 else 1)).sum
  else if j = 15 then (if g.inHandler then 1 else 0)
  else if j = 16 then (match g.bank with | some b => tritSet b.slices | none => 0) else 0

/-- The tiles that a gang holds: its own, or in token mode those whose token it holds. -/
def Team.heldTiles (t : Team) (g : Gang) : List Nat :=
  if g.token then (List.range t.tokens.length).filter fun j => decide (t.tokens.getD j 27 = g.idx) else g.tileSet

/-- The words of tiles, where the tile mode keeps them. -/
def Team.tileCells (t : Team) (g : Gang) : ZMap := if g.token then t.tiles else g.tiles

/-- Word w of the gang section (R267); fb gives word 10 of each slice. -/
def sectionWord (t : Team) (g : Gang) (fb : Nat → Int) (w : Nat) : Int :=
  let l := w / 27
  let j := w % 27
  if l = 0 then headerWord g (t.heldTiles g) j
  else if l ≤ 2 then halfOf (decide (w % 2 = 0)) (getZ ((w - 27) / 2) g.gens)
  else if l < 30 then
    let k := (l - 3) / 3
    if (l - 3) % 3 = 2 then (if k < g.slices.length then sliceWord t g fb k j else 0)
    else
      let o := w - 27 * (3 + 3 * k)
      if o / 2 = 0 then 0 else halfOf (decide (o % 2 = 1)) (g.progS k (o / 2))
  else if l < 111 then
    let r := l - 30
    match g.bank with
    | some b => if r ≥ 72 then getZ (vKey (r - 72) j) b.v else getZ (vKey r j) g.v
    | none => getZ (vKey r j) g.v
  else if l < 840 then getZ (729 * ((l - 111) / 27) + 27 * ((l - 111) % 27) + j) (t.tileCells g)
  else if l < 849 then (match g.bank with | some _ => getZ (vKey (72 + (l - 840)) j) g.v | none => 0)
  else if l < 855 then
    let o := w - 27 * 849
    match g.bank with
    | some b => if b.slices.contains (o / 18) then halfOf (decide (o % 2 = 1)) (getZ (18 + o / 2 % 9) (g.slice (o / 18)).s) else 0
    | none => 0
  else if l = 855 then (match g.shown[j]? with | some p => pendingWord p | none => 0)
  else
    match g.shown[l - 856]? with
    | some p =>
      match p.dest with
      | .sca _ _ => if j ≤ 1 then halfOf (decide (j = 1)) ((p.writes.headD (0, 0)).2) else 0
      | _ => ((p.writes.find? fun c => decide (c.1 = j)).getD (0, 0)).2
    | none => 0

/-- The shown pending results changed, each kept in its place. -/
def Gang.setShown (g : Gang) (f : List Pending → List Pending) : Gang :=
  match g.bank with
  | some b => { g with bank := some { b with pending := (f g.shown).take b.pending.length }, pending := (f g.shown).drop b.pending.length }
  | none => { g with pending := f g.pending }

/-- A directory entry that describes no result. -/
def Pending.blank : Pending := { slices := [], dest := .vec 0, writes := [], flags := 0, remaining := 0 }

/-- The gang without blanked directory entries. -/
def Gang.dropBlank (g : Gang) : Gang :=
  let keep (ps : List Pending) : List Pending := ps.filter fun p => decide (p.slices ≠ [])
  { g with pending := keep g.pending, bank := g.bank.map fun b => { b with pending := keep b.pending } }

/-- A slice without the sealed batches that satisfy f. -/
def Slice.dropBatches (f : Batch → Bool) (x : Slice) : Slice :=
  { x with copy := { x.copy with sealed := x.copy.sealed.filter fun b => !f b } }

/-- A slice whose oldest batch that holds a faulted job has number v, 0 for none (R267, R268): the batch that had been it, of number
old, is dropped where it is older, and batch v holds a job that faulted. -/
def Slice.setFaulted (old v : Int) (x : Slice) : Slice :=
  let last := x.copy.last
  let x1 :=
    if old = 0 ∨ (v ≠ 0 ∧ v ≤ old) then x
    else if old = last + 1 then { x with copy := { x.copy with openB := [] } } else x.dropBatches fun b => decide (b.number = old)
  let bs := x1.copy.sealed
  if v = 0 ∨ v = old then x1
  else if v = last + 1 then { x1 with copy := { x1.copy with openB := x1.copy.openB ++ [.faulty] } }
  else if bs.any fun b => decide (b.number = v) then
    { x1 with copy := { x1.copy with
        sealed := mapIf (fun b => decide (b.number = v)) (fun b => { b with entries := b.entries ++ [.faulty] }) bs } }
  else
    let new : Batch := { number := v, phaser := 0, entries := [.faulty], rd := false }
    { x1 with copy := { x1.copy with sealed := (bs.filter fun b => decide (b.number < v)) ++ new :: bs.filter fun b => decide (v < b.number) } }

/-- A slice with word j of the third line of its area written. A shorter open batch keeps its first entries, a longer one has more
that are complete. -/
def setSliceWord (t : Team) (g : Gang) (fb : Nat → Int) (k j : Nat) (v : Int) : Gang :=
  let follow := g.bank.isSome && !g.inHandler
  let upd (hi : Bool) (x : Slice) : Slice :=
    match x.wait with
    | some (.yield a p c) => { x with wait := some (.yield a p (setHalf hi v c)) }
    | _ =>
      let pc := setHalf hi v x.pc
      { x with pc := pc, s := if follow then setZ 19 pc x.s else x.s }
  let w (x : Slice) : Slice :=
    let f := waitFields t g x
    if j = 4 then { x with wait := waitOfFields x.wait v f.2.1 f.2.2, fate := .waits }
    else if j = 7 then { x with wait := waitOfFields x.wait f.1 f.2.1 v, fate := .waits }
    else { x with wait := waitOfFields x.wait f.1 (setHalf (decide (j = 6)) v f.2.1) f.2.2, fate := .waits }
  g.modSlices [k] fun _ x =>
    if j = 0 then upd false x else if j = 1 then upd true x
    else if j = 2 then { x with copy := { x.copy with last := setHalf false v x.copy.last } }
    else if j = 3 then { x with copy := { x.copy with last := setHalf true v x.copy.last } }
    else if j ≤ 7 then w x
    else if j = 8 then { x with sweep := x.sweep.map fun h => { h with done := v.toNat, bases := [] } }
    else if j = 9 then { x with copy := { x.copy with openB := x.copy.openB.take v.toNat ++ List.replicate (v.toNat - x.copy.openB.length) (.copies []) } }
    else if j = 10 then x.setFaulted (fb k) v
    else x

/-- The gang with its trapped slices set (R259, R267): a slice that leaves the set has the program's scalars again, one that
joins it has them set aside; the bank is gone when none is left, and is made when there was none. -/
def Gang.setTrapped (g : Gang) (ks : List Nat) : Gang :=
  match g.bank with
  | some b =>
    let back := b.slices.filter fun k => !ks.contains k
    let g1 := g.modSlices back fun k x => { x with s := setRangeZ 18 (rangeZ (9 * k) 9 b.s) x.s }
    if ks = [] then { g1 with v := setRangeZ 1944 (rangeZ 0 243 b.v) g1.v, pending := g1.shown, bank := none }
    else
      let new := ks.filter fun k => !b.slices.contains k
      let s := new.foldl (fun m k => setRangeZ (9 * k) (rangeZ 18 9 (g1.slice k).s) m) b.s
      { g1.modSlices new (fun _ x => { x with s := clearZ 18 9 x.s }) with
        bank := some { b with slices := ks, s := s, returned := b.returned.filter fun k => ks.contains k } }
  | none =>
    if ks = [] then g
    else
      let b : Bank :=
        { v := setRangeZ 0 (rangeZ 1944 243 g.v) [], s := ks.foldl (fun m k => setRangeZ (9 * k) (rangeZ 18 9 (g.slice k).s) m) [],
          slices := ks, returned := [], pending := g.pending, sweeps := [], watch := false }
      { g.modSlices ks (fun _ x => { x with s := clearZ 18 9 x.s }) with v := clearZ 1944 243 g.v, pending := [], bank := some b }

/-- A gang with word j of its header written. -/
def setHeaderWord (g : Gang) (j : Nat) (v : Int) : Gang :=
  if j = 1 then { g with blocks := v } 
  else if j = 2 then (if g.token then g else { g with tileSet := plusTrits 27 v })
  else if j = 0 then g
  else if j ≤ 10 then { g with m := setZ (j - 2) v g.m }
  else if j = 11 then { g with mode := v } else if j = 12 then { g with flags := v }
  else if j = 13 then { g with slices := mapPos (fun _ => true) (fun k x => { x with sub := (sub (2 * k) 2 v + 4).toNat }) g.slices }
  else if j = 14 then
    { g with slices := mapPos (fun _ => true) (fun k x => { x with ended := decide (tritAt k v = -1) }) g.slices }
  else if j = 15 then { g with mode := setTrit 4 v g.mode }
  else if j = 16 then g.setTrapped (plusTrits 9 v)
  else g

/-- The team after word 2 of the header of gang g has been written in token mode: the tokens that it names are the gang's, those
that it no longer names are nobody's. -/
def Team.setTokens (t : Team) (g : Nat) (v : Int) : Team :=
  { t with tokens := mapPos (fun _ => true) (fun j h => if tritAt j v = 1 then g else if h = g then 27 else h) t.tokens }

/-- The gang section with word w written, in the team that holds gang g, whatever the value. -/
def putSectionWord (t : Team) (fb : Nat → Int) (g : Nat) (w : Nat) (v : Int) : Team :=
  let l := w / 27
  let j := w % 27
  let on (f : Gang → Gang) : Team := t.modGang g f
  if l = 0 then
    match t.gang? g with
    | some x => if j = 2 ∧ x.token = true then t.setTokens g v else on fun x => setHeaderWord x j v
    | none => t
  else if l ≤ 2 then
    on fun x => { x with gens := setZ ((w - 27) / 2) (setHalf (decide (w % 2 = 0)) v (getZ ((w - 27) / 2) x.gens)) x.gens }
  else if l < 30 then
    let k := (l - 3) / 3
    if (l - 3) % 3 = 2 then on fun x => setSliceWord t x fb k j v
    else
      let o := w - 27 * (3 + 3 * k)
      let r := o / 2
      let hi := decide (o % 2 = 1)
      if r = 0 then t
      else on fun x =>
        match x.bank with
        | some b =>
          if r ≥ 18 ∧ b.slices.contains k then
            { x with bank := some { b with s := setZ (9 * k + (r - 18)) (setHalf hi v (getZ (9 * k + (r - 18)) b.s)) b.s } }
          else x.modSlices [k] fun _ sl => { sl with s := setZ r (setHalf hi v (getZ r sl.s)) sl.s }
        | none => x.modSlices [k] fun _ sl => { sl with s := setZ r (setHalf hi v (getZ r sl.s)) sl.s }
  else if l < 111 then
    let r := l - 30
    on fun x =>
      match x.bank with
      | some b =>
        if r ≥ 72 then { x with bank := some { b with v := setZ (vKey (r - 72) j) v b.v } }
        else { x with v := setZ (vKey r j) v x.v }
      | none => { x with v := setZ (vKey r j) v x.v }
  else if l < 840 then
    let c := 729 * ((l - 111) / 27) + 27 * ((l - 111) % 27) + j
    match t.gang? g with
    | some x => if x.token then { t with tiles := setZ c v t.tiles } else on fun x => { x with tiles := setZ c v x.tiles }
    | none => t
  else if l < 849 then
    on fun x => if x.bank.isSome then { x with v := setZ (vKey (72 + (l - 840)) j) v x.v } else x
  else if l < 855 then
    let o := w - 27 * 849
    let r := 18 + o / 2 % 9
    let hi := decide (o % 2 = 1)
    on fun x =>
      match x.bank with
      | some b =>
        if b.slices.contains (o / 18) then
          x.modSlices [o / 18] fun _ sl =>
            { sl with s := setZ r (setHalf hi v (getZ r sl.s)) sl.s }
        else x
      | none => x
  else if l = 855 then
    on fun x => x.setShown fun ps =>
      if v = 0 then ps.modify j fun _ => Pending.blank
      else if j < ps.length then ps.modify j (setPendingWord x.slices.length v)
      else ps ++ List.replicate (j - ps.length) Pending.blank ++ [setPendingWord x.slices.length v Pending.blank]
  else
    on fun x => x.setShown fun ps => ps.modify (l - 856) fun p =>
      match p.dest with
      | .sca _ _ =>
        if j ≤ 1 then { p with writes := [((p.writes.headD (0, 0)).1, setHalf (decide (j = 1)) v (p.writes.headD (0, 0)).2)] }
        else p
      | _ => { p with writes := p.writes.map fun c => if c.1 = j then (j, v) else c }

/-- A header word of a section of a gang holds a value that R267 gives it (R270). -/
def headerWordOk (g : Gang) (ended : Nat → Bool) (j : Nat) (v : Int) : Bool :=
  let n := g.slices.length
  if j = 0 then decide (v = (g.idx : Int))
  else if j = 1 then highZero 9 v && !hasMinus 9 v
  else if j = 2 then highZero 27 v && !hasMinus 27 v
  else if j ≤ 10 then true
  else if j = 11 then
    let r := sub 0 2 v
    highZero 5 v && decide (tritAt 2 v ≠ -1) && decide (tritAt 3 v ≠ -1) && decide (tritAt 4 v ≠ -1) &&
      (decide (r = 1) || decide (r = -1) || decide (r = 2) || decide (r = -2) || decide (r = 3))
  else if j = 12 then highZero 6 v && !hasMinus 6 v
  else if j = 13 then
    decide (dropLow (2 * n) v = 0) && (List.range n).all fun k =>
      let h := (sub (2 * k) 2 v + 4).toNat
      ended k || (decide (h ≤ k) && decide (sub (2 * h) 2 v + 4 = (h : Int)))
  else if j = 14 then decide (dropLow n v = 0) && (List.range n).all fun k => decide (tritAt k v ≠ 0)
  else if j = 15 then decide (v = 0) || decide (v = 1)
  else if j = 16 then decide (dropLow n v = 0) && !hasMinus 9 v
  else decide (v = 0)

/-- The 27 words of a header are those of a section of the gang (R270). -/
def headerOk (g : Gang) (h : Nat → Int) : Bool :=
  (List.range 27).all fun j => headerWordOk g (fun k => decide (tritAt k (h 14) = -1)) j (h j)

/-- Word w of the section of a gang says how the gang is built: what is written there through a debug window takes effect when
the gang is released (R361). -/
def Gang.structural (g : Gang) (w : Nat) : Bool :=
  let l := w / 27
  decide (l = 0) || (decide (3 ≤ l) && decide (l < 30) && decide ((l - 3) % 3 = 2)) || decide (855 ≤ l) ||
    (decide (840 ≤ l) && g.bank.isNone)

/-- Word w is one of s26 of a slice in whose sweep a watch stop has halted the gang: it shows the segments done (R449). -/
def Gang.stoppedWord (g : Gang) (w : Nat) : Option Int :=
  let l := w / 27
  let o := w - 27 * (3 + 3 * ((l - 3) / 3))
  if g.halt = some .watchStop ∧ 3 ≤ l ∧ l < 30 ∧ o / 2 = 26 then
    (g.slice ((l - 3) / 3)).sweep.map fun h => halfOf (decide (o % 2 = 1)) h.done
  else none

/-- Word w as a debug window shows it (R360, R449): what has been written there, else what the gang holds. -/
def shownWord (t : Team) (g : Gang) (fb : Nat → Int) (w : Nat) : Int :=
  match g.edits.find? fun e => decide (e.1 = w) with
  | some e => e.2
  | none => (g.stoppedWord w).getD (sectionWord t g fb w)

/-- The gang section with word w written through a debug window (R360). -/
def setSectionWord (t : Team) (fb : Nat → Int) (g : Nat) (w : Nat) (v : Int) : Team :=
  match t.gang? g with
  | none => t
  | some x =>
    if x.structural w then
      t.modGang g fun y => { y with edits := (y.edits.filter fun e => decide (e.1 < w)) ++ (w, v) :: y.edits.filter fun e => decide (w < e.1) }
    else putSectionWord t fb g w v

/-- What debug windows have written into the section of a gang keeps R270 (R361). -/
def Team.editsOk (t : Team) (fb : Nat → Int) (g : Gang) : Bool :=
  headerOk g (shownWord t g fb) && (List.range 27).all fun j => pendingWordOk (shownWord t g fb (27 * 855 + j))

/-- What debug windows have written put in place, in the order of the section. -/
def Team.applyEdits (t : Team) (fb : Nat → Int) (g : Nat) : Team :=
  match t.gang? g with
  | none => t
  | some x => (x.edits.foldl (fun t e => putSectionWord t fb g e.1 e.2) t).modGang g fun y => { y.dropBlank with edits := [] }

/-- The lane copy with a number. -/
def State.copy? (s : State) (id : Nat) : Option LaneCopy := s.eng.copies.find? fun c => decide (c.id = id)

/-- The job of a context with a number. -/
def Context.job? (c : Context) (n : Nat) : Option Job := c.jobs.find? fun j => decide (j.num = n)

/-- An entry of a batch has faulted (R205, R217). -/
def State.entryFaulted (s : State) (ctx : Nat) (e : BatchEntry) : Bool :=
  match e with
  | .copies ids => ids.any fun i => match s.copy? i with | some c => decide (c.stage = -1) | none => false
  | .job n => match (s.ctx? ctx).bind fun c => c.job? n with | some j => decide (j.state = .faulted) | none => false
  | .faulty => true

/-- The number of the oldest batch of a slice that holds faulted work, or 0 (R267, R271). -/
def State.faultedBatch (s : State) (ctx : Nat) (x : Slice) : Int :=
  match x.copy.sealed.find? fun b => b.entries.any (s.entryFaulted ctx) with
  | some b => b.number
  | none => if x.copy.openB.any (s.entryFaulted ctx) then x.copy.last + 1 else 0

/-- Word 10 of the areas of a gang's slices (R267). -/
def State.faultWords (s : State) (t : Team) (g : Gang) (k : Nat) : Int :=
  match s.grid? t.grid with
  | some gr => s.faultedBatch gr.ctx (g.slice k)
  | none => 0

end Sys2Proof.Machine
end

