-- ==== Sys2Proof/Machine/Xlate.lean ====
section
/-!
DEFINITION. From virtual addresses to storage: the local windows (R155 to R162), the debug windows (R360), the walk and
its checks (R166 to R171), stale TLB entries (R174), and reading and writing one tryte of storage in either form of its
line (R248).
-/
namespace Sys2Proof.Machine

/-- The largest address (R154). -/
def maxAddr : Int := maxTrits 36
/-- The base of the local region (R155). -/
def localBase : Int := 16677181699666569
/-- The last address of the local region. -/
def localLast : Int := localBase + 3486784399
/-- a lies in the local region. -/
def isLocal (a : Int) : Bool := decide (localBase ≤ a) && decide (a ≤ localLast)
/-- The window of lane-private slices. -/
def laneBase : Int := localBase + 1594323
/-- The cluster-shared window. -/
def clusterBase : Int := localBase + 4782969
/-- The chip scratchpad window. -/
def chipBase : Int := localBase + 387420489
/-- Trytes of a core scratchpad. -/
def scratchSize : Int := 531441
/-- The base of the debug windows (R360). -/
def debugBase : Int := -16677181699666569
/-- a lies in the range of the debug windows. -/
def isDebug (a : Int) : Bool := decide (debugBase ≤ a) && decide (a ≤ debugBase + 1594322)
/-- Frames of the module, and of a stack (R165). -/
def frameCount : Nat := 19753072
/-- Frames of a stack. -/
def stackFrames : Nat := 1234567

/-- Who makes an access: its context, its team for the local windows, its gang, the lane whose private slice it may
reach, and its core for the TLB. -/
structure Who where
  ctx  : Context
  team : Option Team
  gang : Nat
  lane : Option Nat
  core : Option Nat
  deriving DecidableEq, Repr

/-- Who the device is when it acts for a context: no team, every half. -/
def Who.device (c : Context) : Who := { ctx := { c with priv := true }, team := none, gang := 0, lane := none, core := none }

/-- What an access does. -/
structure AccOp where
  rd  : Bool
  wr  : Bool
  ex  : Bool
  bin : Bool
  deriving DecidableEq, Repr

/-- A ternary load, store, atomic; binary load and store; fetch. -/
def AccOp.load : AccOp := ⟨true, false, false, false⟩
/-- A ternary store. -/
def AccOp.store : AccOp := ⟨false, true, false, false⟩
/-- An atomic. -/
def AccOp.rmw : AccOp := ⟨true, true, false, false⟩
/-- An instruction fetch. -/
def AccOp.fetch : AccOp := ⟨false, false, true, false⟩
/-- A load from a binary-view page. -/
def AccOp.binLoad : AccOp := ⟨true, false, false, true⟩
/-- A store to a binary-view page. -/
def AccOp.binStore : AccOp := ⟨false, true, false, true⟩

/-- The outcome of translating one address: its storage, the causes that apply, or a migrating page. -/
inductive Xl where
  | ok (l : Loc)
  | bad (cs : List Cause)
  | migr (first last : Int)
  deriving DecidableEq, Repr

/-- The outcome of a walk. -/
inductive Walk where
  | leaf (l : Leaf)
  | fault (c : Cause)
  deriving DecidableEq, Repr

/-- An HBM4 tryte as an access of a page kind reads it: a line of the other form reads zero (R248). -/
def Mem.cell (m : Mem) (bin : Bool) (p : Nat) : Int := if m.binLines.contains (p / 81) = bin then getZ p m.hbm else 0

/-- An HBM4 tryte written; the first write in the other kind rewrites the slot in that kind (R248). -/
def Mem.setCell (m : Mem) (bin : Bool) (p : Nat) (v : Int) : Mem :=
  let l := p / 81
  if m.binLines.contains l = bin then { m with hbm := setZ p v m.hbm }
  else
    let off (ls : List Nat) : List Nat := ls.filter fun x => decide (x ≠ l)
    { m with hbm := setZ p v (clearZ (81 * l) 81 m.hbm), comp := off m.comp,
             binLines := if bin then l :: m.binLines else off m.binLines }

/-- HBM4 trytes written by one access, which is remembered for fetches that may still see what stood there (R43). -/
def Mem.setCells (m : Mem) (bin : Bool) (ws : List (Nat × Int)) : Mem :=
  let m1 := ws.foldl (fun m w => m.setCell bin w.1 w.2) m
  let turned := (ws.map fun w => w.1 / 81).filter fun l => m.binLines.contains l != bin
  let ps : List Nat := (ws.map Prod.fst ++ turned.flatMap fun l => (List.range 81).map fun i => 81 * l + i).eraseDups
  let olds : List (Nat × Int) := ps.filterMap fun p => if m.cell false p = m1.cell false p then none else some (p, m.cell false p)
  if olds.isEmpty then m1 else { m1 with wlog := { cells := olds } :: m1.wlog }

/-- A double of storage as a ternary load reads it. -/
def Mem.double (m : Mem) (p : Nat) : Int := ofTrytes ((List.range 6).map fun i => m.cell false (p + i))

/-- The size of a leaf in trits (R167). -/
def leafTrits (code : Int) : Nat := if code = 1 then 12 else if code = -1 then 15 else if code = 2 then 18 else 9

/-- A page table entry is well-formed at its level (R168); an invalid entry is not asked. -/
def pteOk (self : Nat) (level : Nat) (e : Int) : Bool :=
  let f := sub 38 16 e
  let o := sub 29 9 e
  let sizeOk :=
    let k := leafTrits (sub 26 2 e)
    let n := 3 ^ (k - 9)
    let i := f.toNat % stackFrames
    (decide (sub 26 2 e = 0) || decide (sub 26 2 e = 1) || decide (sub 26 2 e = -1) || decide (sub 26 2 e = 2)) &&
      (decide (k = 18) == decide (level = 2)) && (decide (k = 18) || decide (level = 3)) && decide (i % n = 0) &&
      decide (i + n ≤ stackFrames)
  decide (0 ≤ f) && decide (f < (frameCount : Int)) && decide (0 ≤ o) && decide (o ≤ 6560) &&
  (if tritAt 28 e = 0 then decide (level ≠ 3) && decide (o = (self : Int)) && decide (sub 0 28 e = 0)
   else
    sizeOk && decide (tritAt 25 e ≠ -1) && decide (tritAt 24 e ≠ -1) && decide (tritAt 23 e ≠ -1) &&
      decide (tritAt 22 e ≠ -1) && decide (tritAt 21 e ≠ -1) && decide (tritAt 18 e ≠ -1) &&
      (decide (sub 19 2 e = 0) || decide (sub 19 2 e = 1) || decide (sub 19 2 e = -1)) && decide (sub 0 18 e = 0) &&
      !(decide (tritAt 25 e = 1) && decide (tritAt 24 e = 1)))

/-- The leaf that an entry describes (R167). -/
def leafOf (e : Int) : Leaf :=
  { frame := (sub 38 16 e).toNat, owner := (sub 29 9 e).toNat, size := leafTrits (sub 26 2 e),
    binary := decide (tritAt 25 e = 1), compress := decide (tritAt 24 e = 1), read := decide (tritAt 23 e = 1),
    write := decide (tritAt 22 e = 1), exec := decide (tritAt 21 e = 1), policy := sub 19 2 e,
    migrating := decide (tritAt 18 e = 1) }

/-- The cause with which an entry ends a walk, if any (R168, R256). -/
def pteFault (s : State) (level : Nat) (e : Int) : Option Cause :=
  if tritAt 28 e = -1 then some .notPresent
  else if !pteOk s.modul level e then some .entryMalformed
  else if tritAt 28 e = 1 && !s.inDomain (sub 29 9 e).toNat then some .ownerOutside
  else if (sub 29 9 e).toNat = s.modul && !s.stackReady ((sub 38 16 e).toNat / stackFrames) then some .notPresent
  else none

/-- The entry with index i of the table in frame f. -/
def State.pte (s : State) (f i : Nat) : Int := s.mem.double (19683 * f + 6 * i)

/-- The lines of the entry with index i of the table in frame f: one, or two that it straddles. -/
def pteLines (f i : Nat) : List Nat := [(19683 * f + 6 * i) / 81, (19683 * f + 6 * i + 5) / 81].eraseDups

/-- The cause with which that entry ends a walk at a level: a line of it cannot be corrected (R249), or it fails a check of R168. -/
def State.pteEnds (s : State) (level f i : Nat) : Option Cause :=
  if (pteLines f i).any fun l => s.mem.badLines.contains l then some .uncorrectable else pteFault s level (s.pte f i)

/-- The walk for address a (R166). Of the entry of a group that is not its first, whose own fields count for nothing, the owner and the stack
are checked all the same (R168, log 90). -/
def State.walk (s : State) (c : Context) (a : Int) : Walk :=
  let root := if a < 0 then c.privRoot else c.userRoot
  if !s.stackReady (root / stackFrames) then .fault .notPresent else
  let i1 := ((a / pow3 27) + (if a < 0 then 9842 else 0)).toNat
  let e1 := s.pte root i1
  match s.pteEnds 1 root i1 with
  | some x => .fault x
  | none =>
    if tritAt 28 e1 = 1 then .leaf (leafOf e1) else
    let i2 := (a / pow3 18 % 19683).toNat
    let e2 := s.pte (sub 38 16 e1).toNat i2
    match s.pteEnds 2 (sub 38 16 e1).toNat i2 with
    | some x => .fault x
    | none =>
      if tritAt 28 e2 = 1 then .leaf (leafOf e2) else
      let t := (sub 38 16 e2).toNat
      let i := (a / pow3 9 % 19683).toNat
      let e3 := s.pte t i
      match s.pteEnds 3 t i with
      | some x => .fault x
      | none =>
        let n := 3 ^ ((leafOf e3).size - 9)
        if i % n = 0 then .leaf (leafOf e3)
        else
          let e := s.pte t (i - i % n)
          if (pteLines t (i - i % n)).any fun l => s.mem.badLines.contains l then .fault .uncorrectable
          else if tritAt 28 e = 1 && pteOk s.modul 3 e && decide ((leafOf e).size = (leafOf e3).size) then
            match pteFault s 3 e with
            | some x => .fault x
            | none => .leaf (leafOf e)
          else .fault .entryMalformed

/-- The first address of the page of size 3^k that holds a (R154). -/
def pageBase (k : Nat) (a : Int) : Int := pow3 k * (a / pow3 k)

/-- The TLB entry that an access from a core could still use (R172, R174). -/
def State.tlbLeaf (s : State) (w : Who) (a : Int) : Option Leaf :=
  match w.core with
  | none => none
  | some c =>
    (s.xlate.tlb.find? fun e =>
      decide (e.ctx = w.ctx.num) && decide (e.at_ = if e.core then c else c / 64) &&
        decide (e.page = pageBase e.leaf.size a)).map TlbEntry.leaf

/-- The leaf that translates a: the tables', or an old one still held in a TLB (R174). -/
def State.leafFor (s : State) (w : Who) (a : Int) : Walk :=
  let t := s.walk w.ctx a
  match s.tlbLeaf w a with
  | none => t
  | some l => if t = .leaf l then t else if Config.tlbChoice s.draws a then .leaf l else t

/-- The pages whose leaves translate an access (R232). -/
def State.pagesOf (s : State) (w : Who) (a : Int) (n : Nat) : List (Int × Int) :=
  [a, a + (n : Int) - 1].filterMap fun b =>
    if n = 0 ∨ isLocal b ∨ isDebug b then none
    else match s.leafFor w b with
      | .leaf l => some (pageBase l.size b, pageBase l.size b + pow3 l.size - 1)
      | .fault _ => none

/-- A team of the group of t by rank (R161). -/
def State.rankTeam (s : State) (t : Team) (r : Nat) : Option Team :=
  if r < t.group then s.teams.find? fun x => decide (x.grid = t.grid) && decide (x.index = t.index / t.group * t.group + r) else none

/-- An address of the local region decoded (R155 to R162). -/
def State.window (s : State) (w : Who) (a : Int) : Xl :=
  let o := a - localBase
  match w.team with
  | none =>
    .bad [if laneBase ≤ a ∧ a < laneBase + 243 then .lanePrivate
          else if o < scratchSize then .outsideAllocation
          else if clusterBase ≤ a ∧ a < clusterBase + 8 * scratchSize then .rankAbsent
          else if chipBase ≤ a ∧ a < chipBase + 129140163 then .outsideAllocation else .noWindow]
  | some t =>
    if o < scratchSize then
      if o < (t.alloc : Int) then .ok (.scratch t.key o.toNat) else .bad [.outsideAllocation]
    else if laneBase ≤ a ∧ a < laneBase + 243 then
      match w.lane with
      | some l => .ok (.lane t.key w.gang (243 * l + (a - laneBase).toNat))
      | none => .bad [.lanePrivate]
    else if clusterBase ≤ a ∧ a < clusterBase + 8 * scratchSize then
      let r := ((a - clusterBase) / scratchSize).toNat
      let off := ((a - clusterBase) % scratchSize).toNat
      match s.rankTeam t r with
      | some u => if off < u.alloc then .ok (.scratch u.key off) else .bad [.outsideAllocation]
      | none => .bad [.rankAbsent]
    else if chipBase ≤ a ∧ a < chipBase + 129140163 then
      let off := (a - chipBase).toNat
      match s.grid? t.grid with
      | some g => if off < g.chipSize then .ok (.chip g.num off) else .bad [.outsideAllocation]
      | none => .bad [.outsideAllocation]
    else .bad [.noWindow]

/-- The live gang of this module that a gang name names (R332). -/
def State.namedGang (s : State) (n : Int) : Option (Team × Gang) :=
  let idx := (sub 23 4 n).toNat
  if n = gangName s.modul (sub 27 18 n).toNat idx ∧ 0 < sub 27 18 n ∧ idx < 27 then
    match s.team? (sub 27 18 n).toNat with
    | some t =>
      match t.gang? idx with
      | some g => if t.ended || g.slices.all Slice.ended then none else some (t, g)
      | none => none
    | none => none
  else none

/-- The module of a gang name (R332). -/
def nameModule (n : Int) : Nat := (sub 45 9 n).toNat

/-- The name of the gang for which an access is made, as the owner of debug windows (R360). -/
def Who.opener (w : Who) (modul : Nat) : Int := match w.team with | some t => gangName modul t.key w.gang | none => 0

/-- An address of the debug windows decoded (R360): a window belongs to the gang that opened it. -/
def State.debugAt (s : State) (w : Who) (a : Int) : Xl :=
  let n := ((a - debugBase) / 177147).toNat
  let off := ((a - debugBase) % 177147).toNat
  if !w.ctx.priv then .bad [.privilegedHalf]
  else
    match s.scope.windows.find? fun x => decide (x.1 = n) && decide (x.2.2 = w.opener s.modul) with
    | some (_, name, _) =>
      if off > 71522 then .bad [.notPresent]
      else if nameModule name ≠ s.modul then .ok (.peerWin (nameModule name) name off)
      else
        match s.namedGang name with
        | some (_, g) => if g.halt.isSome then .ok (.window name off) else .bad [.gangNotHalted]
        | none => .bad [.gangNotHalted]
    | none => .bad [.notPresent]

/-- What a leaf answers to an access (R170, R171, R224). -/
def State.leafXl (s : State) (op : AccOp) (l : Leaf) (a : Int) : Xl :=
  let b := pageBase l.size a
  if l.migrating then .migr b (b + pow3 l.size - 1)
  else
    let cs :=
      (if op.ex then (if l.exec && !l.binary then [] else [Cause.noExecute])
       else if l.binary && !op.bin then [Cause.ternaryOnBinary]
       else if !l.binary && op.bin then [Cause.binaryOnTernary] else []) ++
      (if op.rd && !l.read then [Cause.noRead] else []) ++ (if op.wr && !l.write then [Cause.noWrite] else [])
    if cs = [] then
      let p := (19683 * (l.frame : Int) + (a - b)).toNat
      .ok (if l.owner = s.modul then .hbm p else .peer l.owner p)
    else .bad cs

/-- The cause of a page of the other kind than the access, which stands before that of the half that it lies in (R115, R171, R224). -/
def State.pageKind (s : State) (w : Who) (op : AccOp) (a : Int) : List Cause :=
  match s.leafFor w a with
  | .leaf l =>
    if l.migrating || op.ex then [] else if l.binary && !op.bin then [.ternaryOnBinary] else if !l.binary && op.bin then [.binaryOnTernary] else []
  | .fault _ => []

/-- An access in the range of the debug windows, which has no page kind and is never executed (R360, log 60). -/
def State.debugXl (s : State) (w : Who) (op : AccOp) (a : Int) : Xl :=
  if op.bin then .bad [.binaryOnTernary]
  else
    match s.debugAt w a with
    | .ok l => if op.ex then .bad [.noExecute] else .ok l
    | r => r

/-- Translation of one address (R154, R155, R166 to R171). -/
def State.xlate1 (s : State) (w : Who) (op : AccOp) (a : Int) : Xl :=
  if a > maxAddr ∨ a < -maxAddr then .bad [.outsideSpace]
  else if isLocal a then
    if op.ex then .bad [.noWindow] else if op.bin then .bad [.binaryOnTernary] else s.window w a
  else if isDebug a then s.debugXl w op a
  else if 0 ≤ a ∧ a < 19683 then .bad [.nullPage]
  else if a < 0 ∧ !w.ctx.priv then .bad (s.pageKind w op a ++ [.privilegedHalf])
  else
    match s.leafFor w a with
    | .fault c => .bad [c]
    | .leaf l => s.leafXl op l a

/-- A place k trytes further. -/
def Loc.shift (l : Loc) (k : Nat) : Loc :=
  match l with
  | .hbm p => .hbm (p + k)
  | .scratch t o => .scratch t (o + k)
  | .chip g o => .chip g (o + k)
  | .lane t g c => .lane t g (c + k)
  | .peer m p => .peer m (p + k)
  | .window n o => .window n (o + k)
  | .peerWin m n o => .peerWin m n (o + k)

/-- The addresses from which an access of n trytes is translated: each word of an access of whole words, each tryte or
byte of any other. -/
def pieces (op : AccOp) (a : Int) (n : Nat) : List (Int × Nat) :=
  if op.bin then (List.range n).map fun i => (a + (i : Int), 1)
  else if a % 3 ≠ 0 ∨ n % 3 ≠ 0 then (List.range n).map fun i => (a + (i : Int), 1)
  else (List.range (n / 3)).map fun (i : Nat) => (a + 3 * (i : Int), 3)

/-- The outcome of translating a whole access. -/
inductive Xs where
  | ok (ls : List Loc)
  | bad (c : Cause)
  | migr (ps : List (Int × Int))
  deriving DecidableEq, Repr

/-- The causes among outcomes. -/
def xlCauses (xs : List Xl) : List Cause := xs.flatMap fun x => match x with | .bad cs => cs | _ => []

/-- The migrating pages among outcomes. -/
def xlPages (xs : List Xl) : List (Int × Int) := xs.filterMap fun x => match x with | .migr a b => some (a, b) | _ => none

/-- An access of n trytes from a: every place, the first cause (R171, R224), or the pages it must wait for (R175). -/
def State.locate (s : State) (w : Who) (op : AccOp) (a : Int) (n : Nat) : Xs :=
  if n = 0 then .ok [] else
  if a > maxAddr ∨ a < -maxAddr ∨ a + (n : Int) - 1 > maxAddr then .bad .outsideSpace else
  let ps := (pieces op a n).map fun p => (s.xlate1 w op p.1, p.2)
  let cs := xlCauses (ps.map Prod.fst)
  match if cs.contains .binaryOnTernary then some .binaryOnTernary else firstOf cs with
  | some c => .bad c
  | none =>
    let ms := xlPages (ps.map Prod.fst)
    if ms ≠ [] then .migr ms
    else .ok (ps.flatMap fun p => match p.1 with | .ok l => (List.range p.2).map fun k => l.shift k | _ => [])

/-- The word of the section of a gang of which a tryte of its debug window is part (R360). -/
def State.windowWord (s : State) (name : Int) (off : Nat) : Int :=
  match s.namedGang name with
  | some (t, g) => shownWord t g (s.faultWords t g) (off / 3)
  | none => 0

/-- A word of the section of a gang written through a debug window. -/
def State.setWindowWord (s : State) (name : Int) (off : Nat) (v : Int) : State :=
  match s.namedGang name with
  | some (t, g) => s.modTeam t.key fun u => setSectionWord u (s.faultWords t g) g.idx (off / 3) v
  | none => s

/-- The content of one tryte of storage. A peer's storage is not this module's: the access that reads it waits for the
owner's answer (R402), and nothing reads it here. -/
def State.readLoc (s : State) (bin : Bool) (l : Loc) : Int :=
  match l with
  | .hbm p => s.mem.cell bin p
  | .scratch t o => (match s.team? t with | some x => getZ o x.scratch | none => 0)
  | .chip g o => (match s.grid? g with | some x => getZ o x.chip | none => 0)
  | .lane t g c => (match s.gang? t g with | some x => getZ c x.lanes | none => 0)
  | .peer _ _ => 0
  | .peerWin _ _ _ => 0
  | .window n o => sub (9 * (o % 3)) 9 (s.windowWord n o)

/-- One tryte of storage written. -/
def State.writeLoc (s : State) (bin : Bool) (l : Loc) (v : Int) : State :=
  match l with
  | .hbm p => { s with mem := s.mem.setCell bin p v }
  | .scratch t o => s.modTeam t fun x => { x with scratch := setZ o v x.scratch }
  | .chip g o => s.modGrid g fun x => { x with chip := setZ o v x.chip }
  | .lane t g c => s.modGang t g fun x => { x with lanes := setZ c v x.lanes }
  | .peer _ _ => s
  | .peerWin _ _ _ => s
  | .window n o => s.setWindowWord n o (setSub (9 * (o % 3)) 9 v (s.windowWord n o))

/-- The value that consecutive trytes of storage hold (R15). -/
def State.readLocs (s : State) (bin : Bool) (ls : List Loc) : Int := ofTrytes (ls.map fun l => s.readLoc bin l)

/-- Trytes of storage written in order, those of HBM4 as one access. -/
def State.writeRaw (s : State) (bin : Bool) (ls : List Loc) (vs : List Int) : State :=
  let ws := ls.zip vs
  let hs := ws.filterMap fun w => match w.1 with | .hbm p => some (p, w.2) | _ => none
  let s1 := if hs = [] then s else { s with mem := s.mem.setCells bin hs }
  (ws.filter fun w => match w.1 with | .hbm _ => false | _ => true).foldl (fun s w => s.writeLoc bin w.1 w.2) s1

/-- The teams whose scratchpad a list of places names, each once. -/
def teamsOf : List Loc → List Nat
  | [] => []
  | .scratch t _ :: r => if (teamsOf r).contains t then teamsOf r else t :: teamsOf r
  | _ :: r => teamsOf r

/-- The offsets that a list of places names in the scratchpad of team t. -/
def offsOf (t : Nat) (ls : List Loc) : List Nat := ls.filterMap fun l => match l with | .scratch u o => if u = t then some o else none | _ => none

/-- The HBM4 trytes of this module among places. -/
def hbmOf (ls : List Loc) : List Nat := ls.filterMap fun l => match l with | .hbm p => some p | _ => none

/-- The lines that a list of HBM4 trytes covers wholly. -/
def wholeOf (ps : List Nat) : List Nat :=
  (ps.filter fun q => decide (q % 81 = 0) && (List.range 81).all fun i => ps.contains (q + i)).map fun q => q / 81

/-- Lines replaced whole are uncorrectable no longer (R249). -/
def State.replaced (s : State) (lines : List Nat) : State :=
  { s with mem := { s.mem with badLines := s.mem.badLines.filter fun l => !lines.contains l } }

/-- A place lies in an uncorrectable line (R249). -/
def State.badLoc (s : State) (l : Loc) : Bool := match l with | .hbm p => s.mem.badLines.contains (p / 81) | _ => false

/-- A module is fenced, or this module is cut off from all others (R403). -/
def State.isFenced (s : State) (m : Nat) : Bool := s.fab.fenced.contains m || s.fab.fenced.contains s.modul

/-- The place belongs to a peer module. -/
def Loc.isPeer (l : Loc) : Bool := match l with | .peer _ _ | .peerWin _ _ _ => true | _ => false

/-- The scratchpad place of the phaser at an address, as a team names it, or the cause of R122. -/
def State.phaserAt (s : State) (t : Team) (a : Int) : Except Cause (Nat × Nat) :=
  if a % 3 ≠ 0 then .error .misaligned
  else if localBase ≤ a ∧ a < localBase + scratchSize then
    let o := (a - localBase).toNat
    if o + 9 ≤ t.alloc then .ok (t.key, o) else .error .outsideAllocation
  else if clusterBase ≤ a ∧ a < clusterBase + 8 * scratchSize then
    let o := ((a - clusterBase) % scratchSize).toNat
    match s.rankTeam t ((a - clusterBase) / scratchSize).toNat with
    | some u => if o + 9 ≤ u.alloc then .ok (u.key, o) else .error .outsideAllocation
    | none => .error .rankAbsent
  else .error .phaserOutside

/-- What an access to the phaser at a place means for a slice of a team that waits on it (R117, R126, R143). -/
def State.fateOf (s : State) (u : Team) (p : Nat × Nat) (t : Team) (x : Slice) : Slice :=
  match x.wait with
  | some (.phaser a q) | some (.yield a q _) =>
    match x.fate, s.phaserAt t a with
    | .waits, .ok r =>
      if r ≠ p then x
      else if u.phBad p.2 then { x with fate := .malformed }
      else if passed (u.phPhase p.2) q then { x with fate := .passes } else x
    | _, _ => x
  | _ => x

/-- The waits on the phaser at a place tested, as every access that may complete its phase does (R143). -/
def State.freeWaiters (s : State) (p : Nat × Nat) : State :=
  match s.team? p.1 with
  | none => s
  | some u =>
    { s with teams := s.teams.map fun t =>
        { t with gangs := t.gangs.map fun g => { g with slices := g.slices.map (s.fateOf u p t) } } }

/-- The waits of a gang's slices tested where they stand (R143). -/
def State.retest (s : State) (team gang : Nat) : State :=
  match s.team? team with
  | none => s
  | some t =>
    match t.gang? gang with
    | none => s
    | some g =>
      g.slices.foldl (fun s x =>
        match x.wait with
        | some (.phaser a _) | some (.yield a _ _) => (match s.phaserAt t a with | .ok p => s.freeWaiters p | .error _ => s)
        | _ => s) s

/-- An ordinary store to the scratchpad of a team has written these offsets: the phasers there are tested, and the waits on them
(R117, R143). -/
def State.phStored (s : State) (t : Nat) (offs : List Nat) : State :=
  match s.team? t with
  | none => s
  | some u =>
    let ps := u.phasers.filter fun p => offs.any fun o => decide (p ≤ o) && decide (o < p + 9)
    ps.foldl (fun s p => (s.modTeam t fun x => x.phTest false p).freeWaiters (t, p)) s

end Sys2Proof.Machine
end

