-- ==== Sys2Proof/Machine/Slots.lean ====
section
/-!
DEFINITION. The 160-byte slots in which HBM4 holds its lines (R246): what a slot holds of a line in each form (R245, R248), the
check code over GF(81) (R247), what a slot whose bytes an upset has changed decodes to, and what becomes of the line (R249).
-/
namespace Sys2Proof.Machine

/-- The sum in GF(81), an element being the number whose base-3 digits are the coefficients of x⁰ to x³ (R247). -/
def gfAdd (a b : Nat) : Nat :=
  (a + b) % 3 + 3 * ((a / 3 + b / 3) % 3) + 9 * ((a / 9 + b / 9) % 3) + 27 * ((a / 27 + b / 27) % 3)
/-- The negative in GF(81): twice the element. -/
def gfNeg (a : Nat) : Nat := gfAdd a a
/-- x times an element: x⁴ = x³ + 1, for x⁴ + 2x³ + 2 = 0 (R247). -/
def gfTimesX (a : Nat) : Nat := gfAdd (3 * (a % 27)) (28 * (a / 27))
/-- An element times a coefficient of GF(3). -/
def gfScale (c a : Nat) : Nat := if c % 3 = 0 then 0 else if c % 3 = 1 then a else gfNeg a
/-- The product in GF(81). -/
def gfMul (a b : Nat) : Nat :=
  [27, 9, 3, 1].foldl (fun acc k => gfAdd (gfTimesX acc) (gfScale (b / k) a)) 0
/-- A power in GF(81). -/
def gfPow (a : Nat) : Nat → Nat
  | 0 => 1
  | n + 1 => gfMul a (gfPow a n)
/-- The inverse of an element other than 0: its 79th power. -/
def gfInv (a : Nat) : Nat := gfPow a 79
/-- The powers of the basis element x, whose order is 80. -/
def gfPowers : List Nat := (List.range 79).foldl (fun l _ => l ++ [gfTimesX (l.getLastD 1)]) [1]
/-- The basis element x to the power n. -/
def gfX (n : Nat) : Nat := gfPowers.getD (n % 80) 1
/-- The value at a point of the polynomial with these coefficients, lowest first. -/
def gfEval (p : List Nat) (z : Nat) : Nat := p.foldr (fun c acc => gfAdd c (gfMul z acc)) 0
/-- A polynomial times z - r. -/
def gfTimesRoot (p : List Nat) (r : Nat) : List Nat :=
  List.zipWith gfAdd (0 :: p) ((p.map fun c => gfMul (gfNeg r) c) ++ [0])
/-- g(z), whose roots are x¹ to x⁵ (R247). -/
def gfGenerator : List Nat := ([1, 2, 3, 4, 5].map gfX).foldl gfTimesRoot [1]

/-- One step of the division by g: the remainder so far times z plus a coefficient, reduced. -/
def gfStep (r : List Nat) (s : Nat) : List Nat :=
  let top := r.getD 4 0
  List.zipWith (fun a b => gfAdd a (gfMul (gfNeg top) b)) (s :: r.take 4) (gfGenerator.take 5)

/-- The check symbols p₁ to p₅ of a message s₀, s₁, … (R247): minus the remainder of Σ sᵢ zⁱ⁺⁵. -/
def checkSymbols (ms : List Nat) : List Nat :=
  ((ms.reverse ++ [0, 0, 0, 0, 0]).foldl gfStep [0, 0, 0, 0, 0]).map gfNeg

/-- A symbol of four trits as an element (R247): -1 read as 2. -/
def symbolOf (ts : List Trit) : Nat := ts.foldr (fun t acc => (t % 3).toNat + 3 * acc) 0
/-- The four trits of an element. -/
def tritsOfSymbol (a : Nat) : List Trit := [1, 3, 9, 27].map fun k => wrap 1 (a / k % 3 : Nat)

/-- A list in groups of n. -/
def groupsOf {α : Type} (n : Nat) : Nat → List α → List (List α)
  | 0, _ => []
  | k + 1, l => l.take n :: groupsOf n k (l.drop n)

/-- The elements of a list whose position is c modulo 3. -/
def everyThird {α : Type} (c : Nat) (l : List α) : List α := (l.zipIdx.filter fun p => decide (p.2 % 3 = c)).map Prod.fst

/-- Codeword c of a string of 740 trits and 60 check trits (R247), as coefficients lowest first: p₁ to p₅, then the message. -/
def codeword (str chk : List Trit) (c : Nat) : List Nat :=
  ((groupsOf 4 15 chk).map symbolOf |>.drop (5 * c) |>.take 5) ++ everyThird c ((groupsOf 4 185 str).map symbolOf)

/-- The check trits of a string (R247). -/
def checkTrits (str : List Trit) : List Trit :=
  let syms := (groupsOf 4 185 str).map symbolOf
  [0, 1, 2].flatMap fun c => (checkSymbols (everyThird c syms)).flatMap tritsOfSymbol

/-- The words of a line as a ternary access reads them. -/
def Mem.lineWords (m : Mem) (line : Nat) : List Int :=
  (List.range 27).map fun i => ofTrytes ((List.range 3).map fun j => m.cell false (81 * line + 3 * i + j))

/-- The stream of a line in compressed form (R284). -/
def Mem.lineStream (m : Mem) (line : Nat) : List Int := packStream 1 9 (m.lineWords line)

/-- The form that a slot records (R246): -1 binary view, the trytes of its stream, or 0 plain. -/
def Mem.slotForm (m : Mem) (line : Nat) : Int :=
  let n := 3 * (m.lineStream line).length
  if m.binLines.contains line then -1 else if m.comp.contains line && decide (n ≤ 80) then n else 0

/-- Trits padded with zeros to a length. -/
def padTrits (n : Nat) (ts : List Trit) : List Trit := ts ++ List.replicate (n - ts.length) 0

/-- The data trits that the check code reads of a line (R247, R248). -/
def Mem.slotData (m : Mem) (line : Nat) : List Trit :=
  if m.binLines.contains line then
    padTrits 729 ((List.range 81).flatMap fun k => trits 6 (m.cell true (81 * line + k) - 121))
  else if m.slotForm line > 0 then padTrits 729 ((m.lineStream line).flatMap (trits 27))
  else (m.lineWords line).flatMap (trits 27)

/-- The tag of a line's slot (R246). -/
def slotTag (line : Nat) : Int := (line % 243 : Nat) - 121

/-- Five trits as a byte (R245). -/
def byteOfTrits (ts : List Trit) : Nat := (ofTrits ts + 121).toNat

/-- The 160 bytes of a line's slot (R246, R248). -/
def Mem.slotBytes (m : Mem) (line : Nat) : List Nat :=
  let data := m.slotData line
  let f := m.slotForm line
  let str := data ++ trits 5 f ++ trits 5 (slotTag line) ++ [0]
  let body :=
    if f = -1 then
      ((List.range 81).map fun k => (m.cell true (81 * line + k)).toNat) ++ List.replicate 64 121 ++ [40]
    else (groupsOf 5 145 data).map byteOfTrits ++ [(ofTrits (data.drop 725) + 40).toNat]
  body ++ (groupsOf 5 12 (checkTrits str)).map byteOfTrits ++ [(f + 121).toNat, (slotTag line + 121).toNat]

/-- The trits of a byte in a five-trit position; an unused code gives none (R245). -/
def tritsOfByte (b : Nat) : Option (List Trit) := if b ≤ 242 then some (trits 5 ((b : Int) - 121)) else none

/-- Five trits of a byte, 0 for an unused code. -/
def tritsOr (b : Nat) : List Trit := (tritsOfByte b).getD [0, 0, 0, 0, 0]

/-- The string of 740 trits that the bytes of a slot give, its data in the layout of the binary view or not, with the string
positions that unused codes leave without a value (R247). In the layout of the binary view the bytes of fill are not looked at (DESIGN
CHOICE, log 95). -/
def slotString (bin : Bool) (bs : List Nat) : List Trit × List Nat :=
  let at_ (i : Nat) : Nat := bs.getD i 0
  let last := if at_ 145 ≤ 80 then trits 4 ((at_ 145 : Int) - 40) else [0, 0, 0, 0]
  let data :=
    if bin then padTrits 729 ((bs.take 81).flatMap fun b => trits 6 ((b : Int) - 121))
    else (bs.take 145).flatMap tritsOr ++ last
  let lost (pos n : Nat) (used : Bool) : List Nat := if used then [] else (List.range n).map fun i => pos + i
  let holes :=
    (if bin then []
     else ((List.range 145).flatMap fun j => lost (5 * j) 5 (tritsOfByte (at_ j)).isSome) ++ lost 725 4 (decide (at_ 145 ≤ 80))) ++
    lost 729 5 (tritsOfByte (at_ 158)).isSome ++ lost 734 5 (tritsOfByte (at_ 159)).isSome
  (data ++ tritsOr (at_ 158) ++ tritsOr (at_ 159) ++ [0], holes)

/-- The positions in codeword c of the symbols marked as erasures: those of check trits, then those of string trits (R247). -/
def erasures (holes chkHoles : List Nat) (c : Nat) : List Nat :=
  ((chkHoles.map fun i => i / 4).filterMap fun q => if q / 5 = c then some (q % 5) else none).eraseDups ++
    ((holes.map fun i => i / 4).filterMap fun k => if k % 3 = c then some (k / 3 + 5) else none).eraseDups

/-- The five syndromes of a codeword: its values at x¹ to x⁵. -/
def syndromes (w : List Nat) : List Nat := [1, 2, 3, 4, 5].map fun u => gfEval w (gfX u)

/-- The values of errors at the positions ps that the first syndromes ask for: Lagrange's polynomials at the points of ps. -/
def errorValues (syn ps : List Nat) : List (Nat × Nat) :=
  ps.map fun p =>
    let others := ps.filter fun q => decide (q ≠ p)
    let num := (others.map gfX).foldl gfTimesRoot [1]
    let scale := gfInv (gfMul (gfX p) (gfEval num (gfX p)))
    (p, gfMul scale ((List.zipWith gfMul num syn).foldl gfAdd 0))

/-- Errors at the roots of this polynomial alone can give these syndromes: they obey its recurrence. -/
def explains (syn : List Nat) (loc : List Nat) : Bool :=
  (List.range (6 - loc.length)).all fun u => decide ((List.zipWith gfMul loc (syn.drop u)).foldl gfAdd 0 = 0)

/-- The sets of at most n positions out of a list. -/
def choices : Nat → List Nat → List (List Nat)
  | 0, _ => [[]]
  | _, [] => [[]]
  | n + 1, p :: ps => choices (n + 1) ps ++ (choices n ps).map fun c => p :: c

/-- A codeword decoded (R247): twice its symbol errors and its erasures number at most five; else none. -/
def decodeWord (w er : List Nat) : Option (List Nat) :=
  let syn := syndromes w
  if er.length > 5 then none
  else
    let rest := (List.range w.length).filter fun p => !er.contains p
    let marked := (er.map gfX).foldl gfTimesRoot [1]
    ((choices ((5 - er.length) / 2) rest).find? fun c => explains syn ((c.map gfX).foldl gfTimesRoot marked)).map fun c =>
      (errorValues syn (er ++ c)).foldl (fun w e => w.modify e.1 fun a => gfAdd a (gfNeg e.2)) w

/-- The string of a slot after the correction of its codewords, its data read in one of the two layouts; none where a codeword cannot
be corrected (R247). -/
def decodeString (bin : Bool) (bs : List Nat) : Option (List Trit) :=
  let s := slotString bin bs
  let chk := ((bs.drop 146).take 12).map tritsOfByte
  let chkHoles := chk.zipIdx.flatMap fun p => if p.1.isSome then [] else (List.range 5).map fun i => 5 * p.2 + i
  let chkTrits := chk.flatMap fun t => t.getD [0, 0, 0, 0, 0]
  let word (c : Nat) : Option (List Nat) := (decodeWord (codeword s.1 chkTrits c) (erasures s.2 chkHoles c)).map fun w => w.drop 5
  match word 0, word 1, word 2 with
  | some a, some b, some d =>
    some (((List.range 185).flatMap fun k => tritsOfSymbol ((if k % 3 = 0 then a else if k % 3 = 1 then b else d).getD (k / 3) 0)))
  | _, _, _ => none

/-- What a slot holds once decoded: the form with the trytes or bytes of the line; none where the line is uncorrectable: no
decoding, a tag that is not the slot's own, a form that is unused or not that of the layout read, or a malformed stream
(R246 to R249, R286). A corrected string whose trit 739 is not 0 is uncorrectable too (DESIGN CHOICE, log 94). -/
def decodeAs (bin : Bool) (line : Nat) (bs : List Nat) : Option (Int × List Int) :=
  match decodeString bin bs with
  | none => none
  | some str =>
    let f := ofTrits ((str.drop 729).take 5)
    let words (n : Nat) : List Int := (groupsOf 27 n str).map ofTrits
    if ofTrits ((str.drop 734).take 5) ≠ slotTag line ∨ str.getD 739 0 ≠ 0 then none
    else if bin then
      let vs := (groupsOf 6 81 str).map fun g => ofTrits g + 121
      if f = -1 ∧ vs.all fun v => decide (0 ≤ v) && decide (v ≤ 255) then some (f, vs) else none
    else if f = 0 then some (f, (words 27).flatMap (toTrytes 3))
    else if 3 ≤ f ∧ f ≤ 80 ∧ f % 3 = 0 then
      match unpackStream 1 9 (words (f / 3).toNat) with
      | some (ws, []) => some (f, ws.flatMap (toTrytes 3))
      | _ => none
    else none

/-- The decoding of a slot: in the layout that its form byte names, else in the other (log 86). -/
def decodeSlot (line : Nat) (bs : List Nat) : Option (Int × List Int) :=
  let bin := decide (bs.getD 158 0 = 120)
  (decodeAs bin line bs).orElse fun _ => decodeAs (!bin) line bs

/-- The bytes of a line's slot as upsets have left them. -/
def Mem.slotNow (m : Mem) (line : Nat) : List Nat :=
  m.upsets.foldl (fun bs u => if u.1 = line then bs.set u.2.1 u.2.2 else bs) (m.slotBytes line)

/-- The upsets that turn a line's slot image into these bytes. -/
def Mem.upsetsFor (m : Mem) (line : Nat) (bs : List Nat) : List (Nat × Nat × Nat) :=
  ((m.slotBytes line).zip bs).zipIdx.filterMap fun p => if p.1.1 = p.1.2 then none else some (line, p.2, p.1.2)

/-- The memory with the slot of a line holding these bytes. -/
def Mem.withSlot (m : Mem) (line : Nat) (bs : List Nat) : Mem :=
  { m with upsets := m.upsetsFor line bs ++ m.upsets.filter fun u => decide (u.1 ≠ line) }

/-- A line held in a form with these trytes or bytes. -/
def Mem.fill (m : Mem) (line : Nat) (f : Int) (vs : List Int) : Mem :=
  let off (l : List Nat) : List Nat := l.filter fun x => decide (x ≠ line)
  { m with hbm := setRangeZ (81 * line) vs m.hbm,
           binLines := if f = -1 then line :: off m.binLines else off m.binLines,
           comp := if f > 0 then line :: off m.comp else off m.comp }

/-- The slot of a line that is not in the cache, judged by its bytes (R247, R249): a line that cannot be corrected is bad; one
whose bytes decode to other content holds that content. -/
def Mem.judge (m : Mem) (line : Nat) : Mem :=
  if m.upsets.all fun u => decide (u.1 ≠ line) then m
  else
    let bs := m.slotNow line
    match decodeSlot line bs with
    | none => { m with badLines := if m.badLines.contains line then m.badLines else line :: m.badLines }
    | some (f, vs) => (m.fill line f vs).withSlot line bs

/-- An upset of bytes of a slot (the environment's; log 6). -/
def State.upset (s : State) (line : Nat) (bytes : List (Nat × Nat)) : State :=
  if line ≥ 243 * frameCount then s
  else
    let bs := bytes.foldl (fun bs b => if b.2 ≤ 255 then bs.set b.1 b.2 else bs) (s.mem.slotNow line)
    let m := s.mem.withSlot line bs
    { s with mem := if m.cache.any fun c => decide (c.line = line) then m else m.judge line }

/-- The stack of a line and its slot there (R165). -/
def slotOf (line : Nat) : Nat × Nat := (line / (243 * stackFrames), line % (243 * stackFrames))

/-- A line's slot is rewritten from what its line holds: no upset is left. -/
def Mem.rewritten (m : Mem) (line : Nat) : Mem := { m with upsets := m.upsets.filter fun u => decide (u.1 ≠ line) }

/-- A slot read (R249, R461): one that decodes with correction is rewritten, the health log says so, and its row is tested. -/
def State.correctSlot (s : State) (line : Nat) : State :=
  if (s.mem.upsets.all fun u => decide (u.1 ≠ line)) || s.mem.badLines.contains line then s
  else { s with mem := s.mem.rewritten line }.rowError true (slotOf line).1 (slotOf line).2

/-- An uncorrectable line needed by somebody (R249, R463). -/
def State.uncorrectable (s : State) (line : Nat) : State := s.rowError false (slotOf line).1 (slotOf line).2

/-- The uncorrectable line among the places that somebody needs noted in the health log. -/
def State.noteBad (s : State) (ls : List Loc) : State :=
  match ls.find? fun l => s.badLoc l with
  | some (.hbm p) => s.uncorrectable (p / 81)
  | _ => s

end Sys2Proof.Machine
end

