-- ==== Sys2Proof/Machine/Account.lean ====
section
/-!
DEFINITION. The hub's counters (R363, R465), the residency of lines in the shared cache (R163, R164, R178), and accesses
made by the device itself through a context's tables.
-/
namespace Sys2Proof.Machine

/-- The agency of no context of this module: what is done for a peer is charged to nobody here (log 50). -/
def peerAgency : Nat := 243

/-- Counter c of an agency raised by n (R465); counters wrap (R18). -/
def State.count (s : State) (agency c : Nat) (n : Int) : State :=
  let k := 10 * agency + c
  let cs := s.hub.counters
  { s with hub := { s.hub with counters := if agency ≥ peerAgency then cs else setZ k (wrap 54 (getZ k cs + n)) cs } }

/-- An access of an agency to the shared cache (0) or a scratchpad (1), which its energy estimate counts (R465). -/
def State.countAccess (s : State) (agency kind : Nat) : State :=
  let k := 2 * agency + kind
  let m := s.hub.accesses
  { s with hub := { s.hub with accesses := if agency ≥ peerAgency then m else setZ k (getZ k m + 1) m } }

/-- Data trytes that a line moves to or from its slot, by the form that the slot holds (R248, R465). -/
def State.slotTrytes (s : State) (line : Nat) : Int :=
  let f := s.mem.slotForm line
  if f > 0 then f else 81

/-- A slot read for an agency (R249, R465). -/
def State.readSlot (s : State) (agency line : Nat) : State := (s.count agency 4 (s.slotTrytes line)).correctSlot line

/-- The memory whose slot of a line has been written in a form: compressed where its stream is 80 trytes or shorter (R248). -/
def Mem.inForm (m : Mem) (line : Nat) (comp : Bool) : Mem :=
  let off := m.comp.filter fun x => decide (x ≠ line)
  { m.rewritten line with
    comp := if comp && !m.binLines.contains line && decide (3 * (m.lineStream line).length ≤ 80) then line :: off else off }

/-- A slot written for an agency in a form. -/
def State.writeSlot (s : State) (agency line : Nat) (comp : Bool) : State :=
  let s1 := { s with mem := s.mem.inForm line comp }
  s1.count agency 5 (s1.slotTrytes line)

/-- The cached lines without one. -/
def Mem.uncache (m : Mem) (line : Nat) : Mem := { m with cache := m.cache.filter fun y => decide (y.line ≠ line) }

/-- A cached line leaves the cache; a dirty one is written back and charged to its last writer (R465), and the slot of a clean one
stands for the line again. -/
def State.evict (s : State) (line : Nat) : State :=
  match s.mem.cache.find? fun x => decide (x.line = line) with
  | none => s
  | some x =>
    let s1 := if x.dirty then s.writeSlot x.agency line x.form else s
    let m := s1.mem.uncache line
    { s1 with mem := if x.dirty then m else m.judge line }

/-- The storage that a cached line takes (R163). -/
def State.cacheTrytes (s : State) (x : CacheLine) : Nat :=
  if x.form && !s.mem.binLines.contains x.line then Nat.min 81 (3 * (s.mem.lineStream x.line).length) else 81

/-- The trytes of line storage of the shared cache (R163). -/
def cacheCapacity : Nat := 3 ^ 18

/-- The line that leaves the cache for another (R164): a streaming one first; which of several is a free choice (log 87). -/
def State.displaced (s : State) (keep i : Nat) : Option Nat :=
  let others := s.mem.cache.filter fun x => decide (x.line ≠ keep)
  let low := others.filter CacheLine.stream
  let from_ := if low.isEmpty then others else low
  (from_[(Config.free (s.draws + i)).natAbs % from_.length]?).map CacheLine.line

/-- Lines displaced until the cache has room for what it holds, at most n of them. -/
def State.cacheRoom (keep : Nat) : Nat → State → State
  | 0, s => s
  | n + 1, s =>
    if (s.mem.cache.map s.cacheTrytes).sum ≤ cacheCapacity then s
    else
      match s.displaced keep n with
      | some l => State.cacheRoom keep n (s.evict l)
      | none => s

/-- The home slice of a line of this module, numbered 27 die + slice (R163). -/
def homeSlice (line : Nat) : Nat := 27 * (line / 243 / stackFrames) + line % (243 * stackFrames) % 27

/-- The cache has room for what it holds after a line has come into it or grown (R163, R164). -/
def State.makeRoom (s : State) (line : Nat) : State :=
  if 81 * s.mem.cache.length ≤ cacheCapacity then s else State.cacheRoom line s.mem.cache.length s

/-- A line brought into the cache (R163, R164). -/
def State.cacheLine (s : State) (x : CacheLine) : State :=
  State.makeRoom { s with mem := { s.mem with cache := x :: (s.mem.uncache x.line).cache } } x.line

/-- A cached line leaves for an access of a form: one held in the other is written back in its own, clean or dirty (R178). -/
def State.leaveFor (s : State) (comp : Bool) (line : Nat) : State :=
  match s.mem.cache.find? fun x => decide (x.line = line) with
  | some x =>
    if x.form = comp then s.evict line
    else let s1 := s.writeSlot x.agency line x.form; { s1 with mem := s1.mem.uncache line }
  | none => s

/-- The home slice of a line is out of service, or bypasses the row in which it would hold the line (R461, R462). -/
def State.bypassed (s : State) (line : Nat) : Bool :=
  let h := homeSlice line
  s.trust.downSlices.contains h || s.trust.testing.any fun u => decide (u = .cacheRow h (Config.cacheRow line))

/-- A line of this module touched by an access of an agency under a leaf (R163, R164, R178). A write that passes through the home
slice stands as a dirty line until it has been made; only a write of a whole line reads no slot (R249). A line held in the
other form is written back in its own and fetched again. -/
def State.touchLine (s0 : State) (agency : Nat) (op : AccOp) (whole : Bool) (l : Leaf) (line : Nat) : State :=
  let s := s0.countAccess agency 0
  let fetch (s : State) : State := if whole && !op.rd then s else s.readSlot agency line
  let fresh (through : Bool) : CacheLine :=
    { line := line, form := l.compress, dirty := op.wr, stream := decide (l.policy = 1), through := through, agency := agency }
  if l.policy = -1 ∨ s.bypassed line then
    let s1 := fetch (s.leaveFor l.compress line)
    if op.wr then s1.cacheLine (fresh true) else s1
  else
    match s.mem.cache.find? fun x => decide (x.line = line) with
    | some x =>
      if x.form = l.compress then
        if op.wr then
          let c := mapIf (fun y => decide (y.line = line)) (fun y => { y with dirty := true, agency := agency }) s.mem.cache
          { s with mem := { s.mem with cache := c } }
        else s
      else (fetch (s.leaveFor l.compress line)).cacheLine (fresh false)
    | none => (fetch s).cacheLine (fresh false)

/-- A tryte of storage as it stood before the newest j accesses that overwrote anything. -/
def Mem.cellBefore (m : Mem) (j p : Nat) : Int :=
  match (m.wlog.take j).reverse.findSome? fun w => w.cells.find? fun c => decide (c.1 = p) with
  | some c => c.2
  | none => m.cell false p

/-- A line has been overwritten since a core obtained its copy. -/
def Mem.outdated (m : Mem) (l : Lease) : Bool :=
  (m.wlog.take (m.wlog.length - l.seen)).any fun w => w.cells.any fun c => decide (c.1 / 81 = l.line)

/-- Cores whose slices have come to stand behind everything in S: their leases on lines overwritten meanwhile end, the others stay valid
(R186, log 39). -/
def State.catchUp (s : State) (cores : Nat → Bool) : State :=
  let kept (l : Lease) : Option Lease :=
    if !cores l.core then some l else if s.mem.outdated l then none else some { l with seen := s.mem.wlog.length }
  { s with mem := { s.mem with leases := s.mem.leases.filterMap kept } }

/-- A core that loads a line holds a lease on it (R186). -/
def State.lease (s : State) (w : Who) (op : AccOp) (line : Nat) : State :=
  match w.core with
  | none => s
  | some c =>
    let mine (l : Lease) : Bool := decide (l.core = c) && decide (l.line = line)
    if op.wr || s.mem.leases.any mine then s
    else
      let l : Lease := { core := c, line := line, since := s.clock.cycle, seen := s.mem.wlog.length }
      { s with mem := { s.mem with leases := l :: s.mem.leases } }

/-- The leaf under which the device touches a line of this module that no context's leaf names: normal, in the form in which the cache, or
else the slot, holds it (R163, log 50). -/
def State.heldLeaf (s : State) (line : Nat) : Leaf :=
  let form : Bool := match s.mem.cache.find? fun c => decide (c.line = line) with | some c => c.form | none => s.mem.comp.contains line
  { frame := 0, owner := 0, size := 9, binary := false, compress := form, read := true, write := true, exec := false, policy := 0, migrating := false }

/-- The lines that an access served for a peer touches at their home slices (R163, R177); a write of it ends the leases on them, whatever the
scope at which it completes (R188, log 84). -/
def State.touchServed (s : State) (op : AccOp) (ps : List Nat) : State :=
  let whole := if op.wr then wholeOf ps else []
  let lines := (ps.map fun p => p / 81).eraseDups
  let s1 := lines.foldl (fun s l => s.touchLine peerAgency op (whole.contains l) (s.heldLeaf l) l) s
  if op.wr then { s1 with mem := { s1.mem with leases := s1.mem.leases.filter fun l => !lines.contains l.line } } else s1

/-- The lines of the page table entries that a walk for an address reads (R166, R173): of a leaf of a group, that of the group's first
entry too. -/
def State.walkLines (s : State) (c : Context) (a : Int) : List Nat :=
  let root := if a < 0 then c.privRoot else c.userRoot
  if !s.stackReady (root / stackFrames) then [] else
  let i1 := ((a / pow3 27) + (if a < 0 then 9842 else 0)).toNat
  let e1 := s.pte root i1
  if (s.pteEnds 1 root i1).isSome || decide (tritAt 28 e1 = 1) then pteLines root i1 else
  let f2 := (sub 38 16 e1).toNat
  let i2 := (a / pow3 18 % 19683).toNat
  let e2 := s.pte f2 i2
  if (s.pteEnds 2 f2 i2).isSome || decide (tritAt 28 e2 = 1) then pteLines root i1 ++ pteLines f2 i2 else
  let f3 := (sub 38 16 e2).toNat
  let i3 := (a / pow3 9 % 19683).toNat
  let n := 3 ^ (leafTrits (sub 26 2 (s.pte f3 i3)) - 9)
  let first := if (s.pteEnds 3 f3 i3).isSome || decide (i3 % n = 0) then [] else pteLines f3 (i3 - i3 % n)
  (pteLines root i1 ++ pteLines f2 i2 ++ pteLines f3 i3 ++ first).eraseDups

/-- A walk for an address that no TLB entry serves: it reads through the shared cache, and takes no place in S (R173). -/
def State.touchWalk (s : State) (w : Who) (a : Int) : State :=
  if isLocal a || isDebug a || (s.tlbLeaf w a).isSome then s
  else
    (s.walkLines w.ctx a).foldl (fun s l => s.touchLine w.ctx.agency .load false (s.heldLeaf l) l) s

/-- The walks of the pages that meet n trytes from an address, which some access or fetch needs (R173). -/
def State.touchWalks (s : State) (w : Who) (a : Int) (n : Nat) : State :=
  (if a / 19683 = (a + (n : Int) - 1) / 19683 then [a] else [a, a + (n : Int) - 1]).foldl (fun s b =>
    if b > maxAddr ∨ b < -maxAddr ∨ (0 ≤ b ∧ b < 19683) ∨ (b < 0 ∧ w.ctx.priv = false) then s else s.touchWalk w b) s

/-- The uncorrectable line that stops the walk for an address, noted in the health log (R249, R463). -/
def State.noteWalk (s : State) (w : Who) (a : Int) : State :=
  match (s.walkLines w.ctx a).find? fun l => s.mem.badLines.contains l with | some l => s.uncorrectable l | none => s

/-- The lines of this module among addressed places, each with the address of its first place. -/
def linePlaces (cs : List (Int × Loc)) : List (Nat × Int) :=
  cs.foldl (fun acc c =>
    match c.2 with
    | .hbm p => if acc.any fun q => decide (q.1 = p / 81) then acc else acc ++ [(p / 81, c.1)]
    | _ => acc) []

/-- The small pages among the addresses of places that a walk translates, each with its first address there. -/
def pagePlaces (cs : List (Int × Loc)) : List (Int × Int) :=
  cs.foldl (fun acc c =>
    match c.2 with
    | .hbm _ | .peer _ _ => if acc.any fun q => decide (q.1 = c.1 / 19683) then acc else acc ++ [(c.1 / 19683, c.1)]
    | _ => acc) []

/-- A place lies in a scratchpad, a chip scratchpad or a private slice. -/
def Loc.isScratch (l : Loc) : Bool := match l with | .scratch _ _ | .chip _ _ | .lane _ _ _ => true | _ => false

/-- The lines that an access of these places, each at its address, touches, charged to the agency of its context. A core that
loads comes to stand at the present place in S. -/
def State.touchAt (s0 : State) (w : Who) (op : AccOp) (cs : List (Int × Loc)) : State :=
  let sc := match w.core with | some c => if op.wr then s0 else s0.catchUp fun k => decide (k = c) | none => s0
  let s := if cs.any fun c => c.2.isScratch then sc.countAccess w.ctx.agency 1 else sc
  let s1 := (pagePlaces cs).foldl (fun s p => s.touchWalk w p.2) s
  let whole := if op.wr then wholeOf (hbmOf (cs.map Prod.snd)) else []
  (linePlaces cs).foldl (fun s q =>
    match s.leafFor w q.2 with
    | .leaf lf => (s.touchLine w.ctx.agency op (whole.contains q.1) lf q.1).lease w op q.1
    | .fault _ => s) s1

/-- The places of an access from an address, each at its own. -/
def atAddr (a : Int) (ls : List Loc) : List (Int × Loc) := ls.zipIdx.map fun l => (a + (l.2 : Int), l.1)

/-- The lines that an access from address a touches. -/
def State.touch (s : State) (w : Who) (op : AccOp) (a : Int) (ls : List Loc) : State := s.touchAt w op (atAddr a ls)

/-- Lines that only pass through their home slices are written to their slots once the write is made; after an update that has written
nothing they just leave (R164). -/
def State.passThrough (s : State) (wrote : Bool) (ls : List Loc) : State :=
  if s.mem.cache.any CacheLine.through then
    ((hbmOf ls).map fun p => p / 81).eraseDups.foldl (fun s l =>
      if s.mem.cache.any fun x => x.through && decide (x.line = l) then
        (if wrote then s.evict l else { s with mem := (s.mem.uncache l).judge l })
      else s) s
  else s

/-- One access that writes trytes of storage; where they are a phaser's, a phase may complete (R117). -/
def State.writeLocs (s : State) (bin : Bool) (ls : List Loc) (vs : List Int) : State :=
  let s1 := (teamsOf ls).foldl (fun s t => s.phStored t (offsOf t ls)) (s.writeRaw bin ls vs)
  let s2 := if s1.mem.badLines = [] then s1 else s1.replaced (wholeOf (hbmOf ls))
  match hbmOf ls with
  | p :: _ => (s2.passThrough true ls).makeRoom (p / 81)
  | [] => s2

/-- A message sent to a module, with its payload charged when it is sent (R465). -/
def State.send (s : State) (agency dst : Nat) (m : FlitMsg) : State := (s.transmit dst m).count agency 6 81

/-- The runs of an access that lie on a peer's frames: first tryte of the access, module, physical address, trytes. -/
def peerRuns : Nat → List Loc → List (Nat × Nat × Nat × Nat)
  | _, [] => []
  | i, .peer m p :: r =>
    match peerRuns (i + 1) r with
    | (j, m', p', n) :: rest => if j = i + 1 ∧ m' = m ∧ p' = p + 1 then (i, m, p, n + 1) :: rest else (i, m, p, 1) :: (j, m', p', n) :: rest
    | [] => [(i, m, p, 1)]
  | i, _ :: r => peerRuns (i + 1) r

/-- A request sent to a module for somebody, who waits for the answer (R402): what the note of it holds but the tag. -/
def State.ask (s : State) (agency : Nat) (w : RemoteWait) (r : RemoteReq) : State :=
  let t := s.fab.nextTag + 1
  let s1 := s.send agency w.modul (.request t s.modul w.ctx r)
  { s1 with fab := { s1.fab with waits := s1.fab.waits ++ [{ w with tag := t }], nextTag := t } }

/-- Values that the device sends to the peers' places among ls. It goes on without the answers (R402, log 55). -/
def State.devSend (s : State) (w : Who) (a : Int) (ls : List Loc) (vs : List Int) : State :=
  let note (m : Nat) : RemoteWait :=
    { who := .device w.ctx.num, modul := m, key := 0, tag := 0, ctx := w.ctx.num, addr := a, len := ls.length,
      pages := s.pagesOf w a ls.length, todo := none, reply := none }
  (peerRuns 0 ls).foldl (fun s r =>
    s.ask w.ctx.agency (note r.2.1) (.store r.2.2.1 ((vs.drop r.1).take r.2.2.2) false)) s

/-- The outcome of an access that the device makes for a context. -/
inductive Dev (α : Type) where
  | ok (a : α)
  | bad (c : Cause)
  | migr (ps : List (Int × Int))
  deriving DecidableEq, Repr

/-- n trytes read by the device (R433, R192). -/
def State.devRead (s : State) (w : Who) (a : Int) (n : Nat) : Dev Int :=
  match s.locate w .load a n with
  | .ok ls => if ls.any fun l => s.badLoc l then .bad .uncorrectable else .ok (s.readLocs false ls)
  | .bad c => .bad c
  | .migr ps => .migr ps

/-- n trytes written by the device. -/
def State.devWrite (s : State) (w : Who) (a : Int) (n : Nat) (v : Int) : Dev State :=
  match s.locate w .store a n with
  | .ok ls =>
    let vs := toTrytes n v
    .ok (((s.touch w .store a ls).writeLocs false ls vs).devSend w a ls vs)
  | .bad c => .bad c
  | .migr ps => .migr ps

/-- A list of doubles at consecutive addresses read by the device. -/
def State.devDoubles (s : State) (w : Who) (a : Int) (n : Nat) : Dev (List Int) :=
  (List.range n).foldl (fun (acc : Dev (List Int)) (i : Nat) =>
    match acc with
    | .ok l =>
      match s.devRead w (a + 6 * (i : Int)) 6 with
      | .ok v => .ok (l ++ [v])
      | .bad c => .bad c
      | .migr ps => .migr ps
    | e => e) (.ok [])

end Sys2Proof.Machine
end

