-- ==== Sys2Proof/Machine/Trace.lean ====
section
/-!
DEFINITION. The fault log of a context (R192, R193) and the records of Periscope (R422 to R444).
-/
namespace Sys2Proof.Machine

/-- A fault as it is logged (R192). -/
structure LogEntry where
  addr    : Int
  word    : Int
  cause   : Cause
  core    : Nat
  gang    : Nat
  slice   : Nat
  lane    : Nat
  operand : Int
  deriving DecidableEq, Repr

/-- The four doubles of an entry, stamped (R192). -/
def LogEntry.doubles (e : LogEntry) (time : Int) : List Int :=
  [e.addr,
   e.word * pow3 27 + causeCode e.cause * pow3 21 + (e.core : Int) * pow3 11 + (e.gang : Int) * pow3 7 +
     (e.slice : Int) * pow3 4 + (e.lane : Int),
   e.operand, time]

/-- Doubles written by the device at consecutive addresses; the first failure ends them. -/
def State.devWrites (s : State) (w : Who) (a : Int) : List Int → State
  | [] => s
  | v :: vs =>
    match s.devWrite w a 6 v with
    | .ok s' => State.devWrites s' w (a + 6) vs
    | _ => s

/-- The log of a context stands in a page that migrates or on a peer (R175, R402): the device reaches it only by waiting. -/
def State.logFar (s : State) (x : Context) : Bool :=
  [x.faultLog, x.faultLog + 5844].any fun a =>
    match s.locate (Who.device x) .store a 6 with
    | .ok ls => ls.any Loc.isPeer
    | .migr _ => true
    | .bad _ => false

/-- Entries of a context wait to be stored in its log. -/
def State.logWaits (s : State) (c : Nat) : Bool := s.eng.faults.any fun f => decide (f.ctx = c)

/-- The stores that put an entry into a log whose header holds these doubles (R192): the entry and the count written, or the count
lost. -/
def logStores (log n ack lost : Int) (ds : List Int) : List (Int × List Int) :=
  if n - ack = 243 then [(log + 12, [lost + 1])] else [(log + 6 * (3 + 4 * (n % 243)), ds), (log, [n + 1])]

/-- The four doubles of an entry stored in the log of context c (R192), or kept until the log can be reached, in order. -/
def State.logDoubles (s : State) (c : Nat) (ds : List Int) : State :=
  match s.ctx? c with
  | none => s
  | some x =>
    let w := Who.device x
    if s.logWaits c || s.logFar x then { s with eng := { s.eng with faults := s.eng.faults ++ [{ ctx := c, entry := ds }] } }
    else
      match s.devDoubles w x.faultLog 3 with
      | .ok [n, ack, lost] =>
        ((logStores x.faultLog n ack lost ds).foldl (fun s p => s.devWrites w p.1 p.2) s).modCtx c fun y => { y with halted := true }
      | _ => s

/-- A fault stored in the log of context c (R192). -/
def State.logFault (s : State) (c : Nat) (e : LogEntry) : State := s.logDoubles c (e.doubles s.clock.fabric)

/-- The log of context c holds an unacknowledged fault (R193); of a log out of reach the device goes by what it last knew. -/
def State.ctxHalted (s : State) (c : Nat) : Bool :=
  match s.ctx? c with
  | none => false
  | some x =>
    if s.logWaits c then true
    else if s.logFar x then x.halted
    else
      match s.devDoubles (Who.device x) x.faultLog 3 with
      | .ok [n, ack, lost] => decide (n > ack) || decide (lost ≠ 0)
      | _ => false

/-- The cause in the oldest entry of the log of context c that is not acknowledged, as far as the device can reach it, or 0. -/
def State.loggedCause (s : State) (c : Nat) : Int :=
  match s.ctx? c with
  | none => 0
  | some x =>
    if s.logFar x then (match s.eng.faults.find? fun f => decide (f.ctx = c) with | some f => sub 21 6 (f.entry.getD 1 0) | none => 0)
    else
      match s.devDoubles (Who.device x) x.faultLog 3 with
      | .ok [_, ack, _] => (match s.devRead (Who.device x) (x.faultLog + 6 * (3 + 4 * (ack % 243)) + 6) 6 with | .ok v => sub 21 6 v | _ => 0)
      | _ => 0

/-- The log of context c holds no unacknowledged entry from number n on: privileged software has taken it. -/
def State.acked (s : State) (c : Nat) : Bool := !s.ctxHalted c

/-- The die of a trace source (R431). -/
def sourceDie (src : Nat) : Nat :=
  if src < 1024 then src / 64 else if src < 2048 then (src - 1024) / 64 else if src < 3072 then (src - 2048) / 64
  else if src < 3216 then (src - 3072) / 9 else if src < 3234 then 16 + (src - 3216) / 9
  else if src < 3236 then 16 + (src - 3234) else if src = 3236 then 16 else src - 3237

/-- A record (R435): header and body. -/
def record (kind slot detail : Int) (body : List Int) : List Int := (729 * kind + 27 * slot + detail) :: body

/-- The synchronisation record of a source now (R434, R436). -/
def State.syncRecord (s : State) (src cycle : Nat) : List Int :=
  record 1 0 (s.clock.bounds.getD (sourceDie src) (-1))
    (wrap 9 src :: (toTrytes 4 (wrap 36 cycle) ++ toTrytes 4 (wrap 36 s.clock.fabric)))

/-- Delta records that advance a stream from a time by n cycles, each with the time at which it stands (R436, R438). -/
def deltas : Nat → Nat → Nat → List (Nat × List Int)
  | 0, _, _ => []
  | fuel + 1, time, n =>
    if n = 0 then []
    else
      let k := Min.min n 265720
      (time, record 2 0 (dropLow 9 k) [wrap 9 k]) :: deltas fuel (time + k) (n - k)

/-- A loss marker (R436). -/
def lossRecord (lost span : Nat) : List Int := record (-2) 0 0 (toTrytes 2 (wrap 18 lost) ++ toTrytes 3 (wrap 27 span))

/-- The configuration of an agency. -/
def State.cfg? (s : State) (agency : Nat) : Option TraceCfg := s.scope.cfgs.find? fun c => decide (c.agency = agency)
/-- The configuration of an agency changed. -/
def State.modCfg (s : State) (agency : Nat) (f : TraceCfg → TraceCfg) : State :=
  { s with scope := { s.scope with cfgs := mapIf (fun c => decide (c.agency = agency)) f s.scope.cfgs } }
/-- Tracing of an agency stopped. -/
def State.dropCfg (s : State) (agency : Nat) : State :=
  { s with scope := { s.scope with cfgs := s.scope.cfgs.filter fun c => decide (c.agency ≠ agency) } }

/-- Double i of a control block (R356). -/
def TraceCfg.dbl (c : TraceCfg) (i : Nat) : Int := c.block.getD i 0
/-- The length of the buffer. -/
def TraceCfg.len (c : TraceCfg) : Nat := (c.dbl 2).toNat
/-- Lossless mode. -/
def TraceCfg.lossless (c : TraceCfg) : Bool := decide (c.dbl 3 = 1)
/-- A trit of the source set is on. -/
def TraceCfg.on (c : TraceCfg) (i : Nat) : Bool := decide (tritAt i (c.dbl 4) = 1)

/-- The addresses that the next records of a buffer reach, n trytes in all and a loss marker, with the write offset and what an open
marker has still to say (R433). -/
def TraceCfg.reached (c : TraceCfg) (n : Nat) : List Int :=
  let at_ (off : Nat) : List Int := [c.dbl 1 + ((off % c.len : Nat) : Int), c.dbl 1 + (((off + n + 5) % c.len : Nat) : Int)]
  (match c.mark with | some m => if m.told then [] else at_ m.off | none => []) ++ at_ c.offset ++ [c.dbl 6, c.dbl 6 + 5]

/-- The room of a buffer for n trytes (R424, R433), or the cause of a failing translation; a buffer that meets a migrating page is
treated as full, until a TLBINV that covers it completes (R175). -/
def State.traceRoom (s : State) (c : TraceCfg) (n : Nat) : Dev Nat :=
  match s.ctx? c.ctx with
  | none => .bad .notPresent
  | some x =>
    let w := Who.device x
    if s.xlate.parked.any fun p => decide (p.who = .trace c.agency) then .ok 0
    else
      let ps := (c.reached n).map fun a => s.locate w .store a 1
      match ps.findSome? (fun p => match p with | .bad e => some e | _ => none), s.devRead w (c.dbl 7) 6 with
      | some e, _ => .bad e
      | _, .bad e => .bad e
      | _, .migr qs => .migr qs
      | none, .ok r =>
        match ps.flatMap fun p => match p with | .migr qs => qs | _ => [] with
        | [] =>
          let n := ((r - (c.offset : Int)) % (c.len : Int)).toNat
          .ok (if n = 0 then c.len else n)
        | qs => .migr qs.eraseDups

/-- Walks parked for somebody at pages (R175). -/
def State.park (s : State) (ctx : Nat) (who : Parker) (ps : List (Int × Int)) : State :=
  let qs := ps.map fun p => ({ ctx := ctx, first := p.1, last := p.2, who := who } : Parked)
  { s with xlate := { s.xlate with parked := s.xlate.parked ++ qs } }

/-- Trytes of a record written from an offset of the ring (R433), and whether all of them could be; none on a failing translation. -/
def State.traceBytes (s : State) (w : Who) (c : TraceCfg) (off : Nat) : List Int → Except Cause (State × Bool)
  | [] => .ok (s, true)
  | v :: vs =>
    match s.devWrite w (c.dbl 1 + ((off % c.len : Nat) : Int)) 1 v with
    | .ok s' => State.traceBytes s' w c (off + 1) vs
    | .bad e => .error e
    | .migr _ => .ok (s, false)

/-- Tracing of an agency stopped by a failing buffer access, and logged (R433). -/
def State.traceFail (s : State) (c : TraceCfg) (e : Cause) : State :=
  (s.dropCfg c.agency).logFault c.ctx
    { addr := c.dbl 1 + (c.offset : Int), word := 0, cause := e, core := 0, gang := 0, slice := 0, lane := 0, operand := 0 }

/-- A record of a source written at the write offset, which then advances (R433, R434). -/
def State.traceWrite (s : State) (agency src : Nat) (r : List Int) : State :=
  match s.cfg? agency with
  | none => s
  | some c =>
    match s.ctx? c.ctx with
    | none => s
    | some x =>
      let w := Who.device x
      match s.traceBytes w c c.offset r with
      | .error e => s.traceFail c e
      | .ok s1 =>
        let o := (c.offset + r.length) % c.len
        let s2 := (s1.1.modCfg agency fun y => { y with offset := o, last := if y.lossless then some src else y.last }).count agency 9 1
        match s2.devWrite w (c.dbl 6) 6 o with
        | .ok s3 => s3
        | .bad e => s2.traceFail c e
        | .migr _ => s2

/-- The open loss marker rewritten with n more records lost, the last at a cycle (R424). -/
def State.traceLose (s : State) (agency n cycle : Nat) : State :=
  match s.cfg? agency with
  | none => s
  | some c =>
    match c.mark, s.ctx? c.ctx with
    | some m, some x =>
      match s.traceBytes (Who.device x) c m.off (lossRecord (m.lost + n) (cycle - m.time)) with
      | .ok s1 => s1.1.modCfg agency fun y => { y with mark := some { m with lost := m.lost + n, last := cycle, told := s1.2 } }
      | .error e => s.traceFail c e
    | _, _ => s

/-- The open loss marker closed (R424), the buffer saying what it counts. -/
def State.closeMark (s : State) (agency : Nat) : State :=
  let s1 :=
    match (s.cfg? agency).bind TraceCfg.mark with
    | some m => if m.told then s else s.traceLose agency 0 m.last
    | none => s
  s1.modCfg agency fun y => { y with mark := none }

/-- A record of the lossy stream that is the first to be lost, at a time (R424). -/
def State.openMark (s : State) (c : TraceCfg) (src time : Nat) : State :=
  let s1 := s.traceWrite c.agency src (lossRecord 1 0)
  let told := (match s.traceRoom c 0 with | .migr _ => false | _ => true) && !s.xlate.parked.any fun p => decide (p.who = .trace c.agency)
  s1.modCfg c.agency fun y => { y with mark := some { off := c.offset, time := time, lost := 1, last := time, told := told } }

/-- One record of the lossy stream, at its time, no marker being open (R424): written, or the first to be lost. -/
def State.traceLossy1 (s : State) (agency src time : Nat) (r : List Int) : State :=
  match s.cfg? agency with
  | none => s
  | some c =>
    match s.traceRoom c r.length with
    | .bad e => s.traceFail c e
    | .migr ps => (s.openMark c src time).park c.ctx (.trace agency) ps
    | .ok room => if r.length + 6 < room then s.traceWrite agency src r else s.openMark c src time

/-- A marker is open. -/
def State.marked (s : State) (agency : Nat) : Bool :=
  match s.cfg? agency with | some c => c.mark.isSome | none => false

/-- A group of records of the lossy stream, each with its time: synchronisation or deltas, then the event when there is one (R424). -/
def State.traceLossy (s : State) (agency src cycle : Nat) (event : Bool) : List (Nat × List Int) → State
  | [] => s
  | r :: rs =>
    if s.marked agency then
      match s.cfg? agency with
      | none => s
      | some c =>
        let last := ((r :: rs).getLastD (0, [])).2
        let out := if event then [s.syncRecord src cycle, last] else [last]
        let n := (out.map List.length).sum
        match s.traceRoom c n with
        | .ok room =>
          if n + 6 < room then out.foldl (fun s r => s.traceWrite agency src r) (s.closeMark agency)
          else s.traceLose agency (r :: rs).length cycle
        | .bad e => s.traceFail c e
        | .migr ps => (s.traceLose agency (r :: rs).length cycle).park c.ctx (.trace agency) ps
    else State.traceLossy (s.traceLossy1 agency src r.1 r.2) agency src cycle event rs

/-- The source holds records for the agency (R440). -/
def TraceCfg.held (c : TraceCfg) (src : Nat) : Bool := c.holds.any fun h => decide (h.src = src)

/-- One record of the lossless stream: written when there is room and nothing of its source is held before it (R440). -/
def State.traceLossless (s : State) (agency src cycle : Nat) (r : List Int) : State :=
  match s.cfg? agency with
  | none => s
  | some c =>
    let hold : State :=
      s.modCfg agency fun y => { y with holds := y.holds ++ [⟨src, cycle, s.clock.fabric, s.clock.bounds.getD (sourceDie src) (-1), r⟩] }
    match s.traceRoom c r.length with
    | .bad e => s.traceFail c e
    | .migr ps => hold.park c.ctx (.trace agency) ps
    | .ok room => if !c.held src && decide (r.length < room) then s.traceWrite agency src r else hold

/-- What precedes a source's next record in time, each with its time (R434, R438): a synchronisation record after a record of another source,
with what was lost before it, else deltas. The held records of a source are put in order when they are written. -/
def State.traceHead (s : State) (c : TraceCfg) (src cycle : Nat) (sync : Bool) : Bool × List (Nat × List Int) :=
  let cur := (c.streams.find? fun p => decide (p.1 = src)).map Prod.snd
  if sync || cur.isNone || (decide (c.last ≠ some src) && !(c.lossless && c.held src)) then
    let owed := (c.owed.filter fun o => decide (o.1 = src)).map fun o => lossRecord o.2.1 (o.2.2.2 - o.2.2.1)
    (true, (owed ++ [s.syncRecord src cycle]).map fun r => (cycle, r))
  else let n := cycle - cur.getD cycle; (false, deltas (n / 265720 + 1) (cur.getD cycle) n)

/-- Records of a source put into its stream: what precedes them in time first (R434, R438). -/
def State.traceStream (s : State) (agency src cycle : Nat) (sync : Bool) (ev : List (List Int)) : State :=
  match s.cfg? agency with
  | none => s
  | some c =>
    let head := s.traceHead c src cycle sync
    let cur := ((c.streams.find? fun p => decide (p.1 = src)).map Prod.snd).getD 0
    let s1 := s.modCfg agency fun y =>
      { y with
        last := if c.lossless then y.last else some src,
        streams := (src, Max.max cycle cur) :: y.streams.filter fun p => decide (p.1 ≠ src),
        wrote := if y.wrote.contains src then y.wrote else src :: y.wrote,
        dirty := if ev = [] then y.dirty.filter fun d => decide (d ≠ src)
                 else if y.dirty.contains src then y.dirty else src :: y.dirty,
        owed := if head.1 then y.owed.filter fun o => decide (o.1 ≠ src) else y.owed }
    let all := head.2 ++ ev.map fun r => (cycle, r)
    if c.lossless then all.foldl (fun s r => s.traceLossless agency src cycle r.2) s1
    else s1.traceLossy agency src cycle (decide (ev ≠ [])) all

/-- A loss counted for a source, to be marked before its next synchronisation record (R440, R442): n records, the first
and the last at these cycles. -/
def TraceCfg.owe (c : TraceCfg) (src n first last : Nat) : TraceCfg :=
  let o :=
    match c.owed.find? fun o => decide (o.1 = src) with
    | some o => (src, o.2.1 + n, o.2.2.1, last)
    | none => (src, n, first, last)
  { c with owed := o :: c.owed.filter fun p => decide (p.1 ≠ src) }

/-- An event record of an agency and source, formed when the source's trit is on (R432, R356). -/
def State.emit (s : State) (agency src trit : Nat) (r : List Int) : State :=
  match s.cfg? agency with
  | none => s
  | some c => if c.on trit then s.traceStream agency src s.clock.cycle false [r] else s

/-- A sample record (R440): in lossless mode one that does not fit is dropped and counted. -/
def State.emitSample (s : State) (agency src cycle : Nat) (r : List Int) : State :=
  match s.cfg? agency with
  | none => s
  | some c =>
    if !c.on 8 then s
    else if !c.lossless then s.traceStream agency src cycle false [r]
    else
      let n := (((s.traceHead c src cycle false).2.map Prod.snd ++ [r]).map List.length).sum
      match s.traceRoom c n with
      | .ok room =>
        if !c.held src && decide (n < room) then s.traceStream agency src cycle false [r]
        else s.modCfg agency fun y => y.owe src 1 cycle cycle
      | .bad e => s.traceFail c e
      | .migr ps => (s.modCfg agency fun y => y.owe src 1 cycle cycle).park c.ctx (.trace agency) ps

/-- The trytes of a gang name. -/
def nameTrytes (n : Int) : List Int := toTrytes 6 n

/-- The name of a gang of this module. -/
def State.nameOf (s : State) (team gang : Nat) : Int := gangName s.modul team gang

/-- A scheduler event of a gang (R437): slot field, event code, operand. -/
def State.emitSched (s : State) (agency : Nat) (t : Team) (g : Gang) (code operand : Int) : State :=
  s.emit agency t.core 0 (record 6 ((g.slot : Int) - 13) code (nameTrytes (s.nameOf t.key g.idx) ++ [operand]))

/-- A fault event (R436): +1 trapped, +2 logged, +3 halted. -/
def State.emitFault (s : State) (agency core : Nat) (name : Int) (code : Int) (cause : Int) : State :=
  s.emit agency (3237 + core / 64) 6 (record 11 0 code (cause :: nameTrytes name))

/-- An engine event (R436). -/
def State.emitEngine (s : State) (agency src : Nat) (queue code : Int) (name num : Int) : State :=
  s.emit agency src 2 (record 7 queue code (nameTrytes name ++ toTrytes 3 (wrap 27 num)))

/-- A fault logged for a context, with its fault event (R192, R193, R432). -/
def State.logEvent (s : State) (c : Nat) (e : LogEntry) (name : Int) : State :=
  let s1 := s.logFault c e
  match s.ctx? c with
  | some x => s1.emitFault x.agency e.core name 2 (causeCode e.cause)
  | none => s1

end Sys2Proof.Machine
end

