-- ==== Sys2Proof/Machine/Ops.lean ====
section
/-!
DEFINITION. The operations that instructions share: regrouping sub-gangs (R133), landing pending results (R50), halting
(R437), TAKING A TRAP and returning from one (R257 to R262), memory accesses with their checks (R96, R115, R402), stores that peers
serve (R182), the watchpoints (R445, R446), and issuing an instruction with everything that surrounds its effect.
-/
namespace Sys2Proof.Machine

/-- Sub-gangs regrouped among slices ks: those of one sub-gang with one program counter stay together (R133, R134). -/
def Gang.regroup (g : Gang) (ks : List Nat) : Gang :=
  let live := ks.filter fun k => !(g.slice k).ended
  let head (k : Nat) : Nat :=
    (live.find? fun j => decide ((g.slice j).sub = (g.slice k).sub) && decide ((g.slice j).pc = (g.slice k).pc)).getD k
  let g1 := g.modSlices live fun k x => { x with sub := head k }
  let alive (h : Gang) (k : Nat) : Bool := decide (k < h.slices.length) && !(h.slice k).ended
  let named := (List.range 9).find? fun k => alive g k && decide ((g.slice k).sub = g.subPtr)
  let next := (List.range 9).map fun i => (g.subPtr + 1 + i) % 9
  let p := match named with | some k => (g1.slice k).sub | none => (next.find? fun k => alive g1 k && decide ((g1.slice k).sub = k)).getD g.subPtr
  { g1 with subPtr := p }

/-- A pending result written to its register, with its flags (R31, R50). -/
def Gang.land (g : Gang) (p : Pending) : Gang :=
  let g1 :=
    match p.dest with
    | .vec r => g.setLanes r p.writes
    | .sca k r => g.modSlices [k] fun _ x => x.set r ((p.writes.headD (0, 0)).2)
    | .msk r => g.setMask r p.writes
  { g1 with flags := joinF g1.flags p.flags }

/-- The pending results that satisfy q land, oldest first. -/
def Gang.landWhere (g : Gang) (q : Pending → Bool) : Gang :=
  (g.pending.filter q).foldl Gang.land { g with pending := g.pending.filter fun p => !q p }

/-- A pending result belongs to one of the slices. -/
def Pending.meets (p : Pending) (ks : List Nat) : Bool := p.slices.any fun k => ks.contains k

/-- One instruction of slices ks has issued: their windows shrink by one (R50). -/
def Gang.tickWindows (g : Gang) (ks : List Nat) : Gang :=
  { g with pending := mapIf (fun p => p.meets ks) (fun p => { p with remaining := p.remaining - 1 }) g.pending }

/-- The codes of halts in scheduler events (R437). -/
def haltCode (h : Halt) : Int :=
  match h with
  | .haltg => 1 | .contextFence => 2 | .unhandled => 3 | .inHandler => 4 | .breakpoint => 5 | .watchStop => 6
  | .engineWatch => 7 | .uncorrectable => 0

/-- The requests that somebody has made. -/
def State.waitsOf (s : State) (p : Parker) : List RemoteWait := s.fab.waits.filter fun w => decide (w.who = p)

/-- A request is a note that an instruction has begun what must be carried through: its messages land or its updates are made one after
another, where no check stops them any more, or places for its bindings are kept (R226, R334, R342). -/
def RemoteWait.begins (w : RemoteWait) : Bool := decide (w.key = 200) || (decide (4194304 ≤ w.key) && decide (w.key < 8388608))

/-- The instruction of slices, the lowest of them k, has begun what must be carried through; a POST has from its first reservation on. -/
def State.begun (s : State) (t g k : Nat) : Bool :=
  let ws := s.waitsOf (.issue t g k)
  ws.any RemoteWait.begins ||
    (!ws.isEmpty && (match s.gang? t g with | some y => decide ((y.slice k).stall = some .post) | none => false))

/-- What the sub-gangs of a gang have read or asked for an instruction that has not begun is forgotten: it issues afresh (R137, R361). -/
def State.forget (s : State) (team gang : Nat) : State :=
  let keep (w : RemoteWait) : Bool :=
    match w.who with
    | .issue t g k => !(decide (t = team) && decide (g = gang)) || s.begun t g k
    | _ => true
  { s with fab := { s.fab with waits := s.fab.waits.filter keep } }

/-- A gang stands between instructions, as far as slices other than those given go: no sweep is under way, and no instruction that has
begun (R137, R361). -/
def State.atBoundary (s : State) (team : Nat) (g : Gang) (but : List Nat) : Bool :=
  g.liveSlices.all fun k =>
    but.contains k || ((match (g.slice k).sweep with | some h => h.paused | none => true) && !s.begun team g.idx k)

/-- The reason code of a stall (R444). -/
def stallCode (w : Stall) : Int :=
  match w with
  | .operand => 1 | .bank => 2 | .tile => 3 | .post => 4 | .trace | .flush => 5 | .walkers => -3 | .migrating => -4
  | .pairQueue => -5 | .copyLimit => -6 | .fetch => -7 | .remote => -8 | .fenceWait => -9 | .pendingLimit => -11

/-- The end of the stall of a sub-gang whose lowest slice is k, at a cycle: its record when it was long or the trace's own (R440,
R444). -/
def State.stallOver (s : State) (agency : Nat) (t : Team) (g : Gang) (k cycle : Nat) : State :=
  let mine (p : Nat × Nat × Nat × Nat) : Bool := decide (p.1 = t.key) && decide (p.2.1 = g.idx) && decide (p.2.2.1 = k)
  match (g.slice k).stall, s.scope.stallAt.find? mine with
  | some w, some p =>
    let n := cycle - p.2.2.2 - (if w = .trace then 1 else 0)
    let s1 := { s with scope := { s.scope with stallAt := s.scope.stallAt.filter fun q => !mine q } }
    let r := record 12 ((g.slot : Int) - 13) 0 (stallCode w :: toTrytes 2 (Min.min (n : Int) 193710244))
    match s1.cfg? agency with
    | some c => if w = .trace ∨ (n ≥ 27 ∧ c.on 7 = true) then s1.traceStream agency t.core cycle false [r] else s1
    | none => s1
  | _, _ => s

/-- The stalls in which issue sets of a gang stand are over, but those that the trace imposes (R440). -/
def State.endStalls (s : State) (agency : Nat) (t : Team) (g : Gang) : State :=
  let ks := g.liveSlices.filter fun k => decide ((g.slice k).sub = k) &&
    (match (g.slice k).stall with | some w => decide (w ≠ .trace) | none => false)
  (ks.foldl (fun s k => s.stallOver agency t g k s.clock.cycle) s).modGang t.key g.idx fun y =>
    y.modSlices y.liveSlices fun _ z => if z.stall = some .trace then z else { z with stall := none }

/-- The cause that the fault event of a halt gives (R436); a halt that no fault brings about has no such event. -/
def State.haltCause (s : State) (t : Team) (h : Halt) (cause : Int) : Option Int :=
  match h with
  | .haltg | .breakpoint | .watchStop | .engineWatch => none
  | .contextFence => some (match s.grid? t.grid with | some g => s.loggedCause g.ctx | none => 0)
  | .unhandled | .inHandler => some cause
  | .uncorrectable => some (causeCode .uncorrectable)

/-- A gang halts, keeping its state; one already halted is not affected (R361). cause is that of the trap that halts it. -/
def State.halt (s : State) (agency team gang : Nat) (h : Halt) (cause : Int := 0) : State :=
  match s.team? team with
  | none => s
  | some t =>
    match t.gang? gang with
    | none => s
    | some g =>
      if g.halt.isSome then s
      else
        let s1 := ((s.forget team gang).endStalls agency t g).modGang team gang fun x => { x with halt := some h }
        let s2 := if h = .uncorrectable then s1 else s1.emitSched agency t g 3 (haltCode h)
        match s.haltCause t h cause with
        | some c => s2.emitFault agency t.core (s.nameOf team gang) 3 c
        | none => s2

/-- A request made of a peer (R402): its key among those of its maker, the lanes that it serves, the addresses of the
access. -/
structure RemReq where
  key   : Nat
  modul : Nat
  lanes : List Nat
  req   : RemoteReq
  addr  : Int := 0
  len   : Nat := 0
  deriving DecidableEq, Repr

/-- The requests that somebody has made forgotten. -/
def State.dropWaits (s : State) (p : Parker) : State :=
  { s with fab := { s.fab with waits := s.fab.waits.filter fun w => decide (w.who ≠ p) } }

/-- The first key of the requests by which writes that lie with one peer alone enter there. -/
def soloKey : Nat := 11534336
/-- The first key of the requests by which writes that enter together are made at peers, of accesses that lie with several owners
(R198, R199). -/
def commitKey : Nat := 12582912
/-- The key of the notes that hold an access that several owners have parts of (R180). -/
def holdKey : Nat := 16777216
/-- The key of the note that keeps the places of this module while an update enters at a peer (R190). -/
def lockKey : Nat := 16777217

/-- A request or note is of an access that several owners have parts of, which is in hand (log 83). -/
def RemoteWait.holds (w : RemoteWait) : Bool := decide (commitKey ≤ w.key)

/-- Somebody else's access with a part at a module is in hand: nothing of this module goes there until it is done, so that all parts
have one place in S (R180, log 83). -/
def State.taken (s : State) (p : Parker) (m : Nat) : Bool :=
  s.fab.waits.any fun w => w.holds && decide (w.modul = m) && decide (w.who ≠ p)

/-- An access with parts at several owners is in hand. -/
def State.entering (s : State) : Bool := s.fab.waits.any RemoteWait.holds

/-- A request of a module waits for an access that is in hand here: its place in S is a later one, unless the module has still to answer
with its own part, since then it has asked before it answers (log 83). -/
def State.heldFrom (s : State) (src : Nat) : Bool :=
  s.fab.waits.any fun w => w.holds && !(s.waitsOf w.who).any fun v => decide (v.modul = src) && v.reply.isNone

/-- Some of the places are kept while somebody else's update enters at a peer (R190). -/
def State.locked (s : State) (p : Parker) (ls : List Loc) : Bool :=
  s.fab.waits.any fun w => decide (w.key = lockKey) && decide (w.who ≠ p) &&
    (match w.todo with | some q => ls.any fun l => q.1.contains l | none => false)

/-- A note put among the requests of somebody. -/
def State.noteFor (s : State) (p : Parker) (m ctx key : Nat) (todo : Option (List Loc × Update)) : State :=
  let w : RemoteWait := { who := p, modul := m, key := key, tag := 0, ctx := ctx, addr := 0, len := 0, pages := [], todo := todo, reply := some .done }
  { s with fab := { s.fab with waits := s.fab.waits ++ [w] } }

/-- The notes that hold somebody's access taken away. -/
def State.unhold (s : State) (p : Parker) : State :=
  { s with fab := { s.fab with waits := s.fab.waits.filter fun w => decide (w.who ≠ p) || decide (w.key < holdKey) } }

/-- The pages that translate an access of which somebody asks peers a part (R232); a store's are noted with the store. -/
def State.askPages (s : State) (p : Parker) (ctx : Nat) (a : Int) (n : Nat) : List (Int × Int) :=
  let core := match p with
    | .issue t _ _ => (s.team? t).map Team.core
    | .job c j => ((s.ctx? c).bind fun x => x.jobs.find? fun i => decide (i.num = j)).map Job.core
    | _ => none
  match p, s.ctx? ctx with
  | .store _, _ | _, none => []
  | _, some c => s.pagesOf { Who.device c with core := core } a n

/-- Requests sent to their owners, all of them or, while somebody else's access is in hand there, none. -/
def State.askFor (s : State) (p : Parker) (agency ctx : Nat) (rs : List RemReq) : State :=
  if rs.any fun r => s.taken p r.modul then s else
  rs.foldl (fun s r =>
    s.ask agency { who := p, modul := r.modul, key := r.key, tag := 0, ctx := ctx, addr := r.addr, len := r.len,
                   pages := s.askPages p ctx r.addr r.len, todo := none, reply := none } r.req) s

/-- The cause that a peer's refusal reports (R336, R342, R402, R404). -/
def refusalCause (code : Int) : Cause := (causeOfCode code).getD .entryMalformed

/-- The first key of the requests that land messages, once every place has been reserved. -/
def landKey : Nat := 100
/-- The first key of the requests by which slice k's update is made. -/
def atomKey (k : Nat) : Nat := 2097152 + 64 * k
/-- The key of the turn of slice k's update. -/
def turnKey (k : Nat) : Nat := 4194304 + 64 * k
/-- The key of the request for a place for slice k's binding. -/
def bindKey (k : Nat) : Nat := 6291456 + k

/-- Requests for the parts of one access sent; where others than one peer have parts too, the access is in hand from then on. -/
def State.askParts (s : State) (p : Parker) (agency ctx : Nat) (mixed : Bool) (rs : List RemReq) : State :=
  if !mixed || rs.any (fun r => s.taken p r.modul) then s.askFor p agency ctx rs
  else (rs.foldl (fun s r => s.noteFor p r.modul ctx holdKey none) s).askFor p agency ctx rs

/-- How requests to peers stand: all answered, all settled and some refused or to a fenced owner, or these still to be sent. -/
inductive Answers where
  | all (rs : List (Nat × RemoteReply))
  | bad (fs : List (RemReq × Cause))
  | pending (missing : List RemReq)
  deriving DecidableEq, Repr

/-- The answers to requests (R402, R404). -/
def State.answers (s : State) (p : Parker) (rs : List RemReq) : Answers :=
  let ws := s.waitsOf p
  let find (r : RemReq) : Option RemoteWait := ws.find? fun w => decide (w.key = r.key) && decide (w.modul = r.modul)
  let answer (r : RemReq) : Option RemoteReply := (find r).bind fun w => w.reply
  let bad := rs.filterMap fun r =>
    match answer r with
    | some (.refused c) => some (r, refusalCause c)
    | some _ => none
    | none => if s.isFenced r.modul then some (r, .ownerFenced) else none
  let open_ := rs.filter fun r => (answer r).isNone && !s.isFenced r.modul
  if open_ ≠ [] then .pending (open_.filter fun r => (find r).isNone)
  else if bad ≠ [] then .bad bad
  else .all (rs.filterMap fun r => (answer r).map fun a => (r.key, a))

/-- The issue set as somebody who waits for a page or a peer. -/
def Iss.parker (x : Iss) : Parker := .issue x.issue.team x.issue.gang x.low

/-- A trap as an instruction raises it: the faulting lanes with their causes and effective addresses, what s25 holds in
each slice where its rule says, the immediate, whether the next instruction is recorded, and the cause where no lane
faults. -/
structure Trap where
  lanes : List (Nat × Cause × Int)
  args  : List (Nat × Int)
  imm   : Int
  after : Bool
  plain : Option Cause
  deriving DecidableEq, Repr

/-- A trap with one cause in some lanes. -/
def Trap.of (lanes : List Nat) (c : Cause) : Trap := ⟨lanes.map fun l => (l, c, 0), [], 0, false, none⟩

/-- A trap with a list of faulting lanes. -/
def Trap.lanesOnly (ls : List (Nat × Cause × Int)) : Trap := ⟨ls, [], 0, false, none⟩

/-- The cause that the trap reports (R266). -/
def Trap.cause (t : Trap) : Cause :=
  match firstOf (t.lanes.map fun l => l.2.1) with
  | some c => c
  | none => t.plain.getD .unassignedMajor

/-- The faulting lanes in order, each once, with the first of its causes. -/
def Trap.faults (t : Trap) : List (Nat × Cause × Int) :=
  (List.range 27).filterMap fun i =>
    match firstOf ((t.lanes.filter fun l => decide (l.1 = i)).map fun l => l.2.1) with
    | some c => t.lanes.find? fun l => decide (l.1 = i) && decide (l.2.1 = c)
    | none => none

/-- The prefix word with a major opcode among the words fetched, or 0. -/
def prefixWord (major : Int) (ws : List Int) : Int := (ws.dropLast.find? fun w => decide (sub 23 4 w = major)).getD 0

/-- What s25 of slice k holds at handler entry (R259). -/
def Trap.s25 (t : Trap) (k : Nat) : Int :=
  match t.args.find? fun a => decide (a.1 = k) with
  | some a => a.2
  | none =>
    match t.faults.find? fun l => decide (l.1 / 3 = k) with
    | some l => if isMemoryCause l.2.1 then l.2.2 else 0
    | none => 0

/-- The resume address of slice k (R259). -/
def Iss.resume (x : Iss) (t : Trap) (k : Nat) : Int :=
  (x.gang.slice k).pc + (if t.after then 3 * (x.issue.words.length : Int) else 0)

/-- The segments that the issue set's sweep has done. -/
def Iss.segments (x : Iss) : Nat := match (x.gang.slice x.low).sweep with | some h => h.done | none => 0

/-- s18 to s26 of slice k at handler entry (R259). -/
def Iss.trapScalars (x : Iss) (t : Trap) (k : Nat) : List Int :=
  [causeCode t.cause, x.resume t k, tritSet (t.faults.map fun l => l.1), x.word, prefixWord 12 x.issue.words,
   prefixWord 13 x.issue.words, t.imm, t.s25 k, x.segments]

/-- A TLD into the banked registers that has not landed, marked (R53, R259). -/
def TileOp.rebank (f : Int → Int) (o : TileOp) : TileOp :=
  match o with
  | .move m => if m.load && decide (m.base = 72) then .move { m with bank := f m.bank } else o
  | .mx _ => o

/-- The gang with its bank in use: the program's v72 to v80 and s18 to s26 saved, the trap state in their place (R259),
pending results and partial sweeps set aside (R53, R59). -/
def Iss.bankTrap (x : Iss) (t : Trap) (g : Gang) : Gang :=
  let ks := x.slices
  let b : Bank :=
    { v := setRangeZ 0 (rangeZ 1944 243 g.v) [],
      s := ks.foldl (fun m k => setRangeZ (9 * k) (rangeZ 18 9 (g.slice k).s) m) [],
      slices := ks, returned := [], pending := g.pending,
      sweeps := ks.filterMap fun k => (g.slice k).sweep.map fun h => (k, h), watch := decide (t.cause = .watchpoint) }
  let v := setsZ (t.faults.flatMap fun l =>
      (vKey 72 l.1, causeCode l.2.1) ::
        [(vKey 73 l.1, wrap 27 l.2.2), (vKey 74 l.1, dropLow 27 l.2.2)])
    (clearZ 1944 243 g.v)
  let g1 := { g with bank := some b, v := v, pending := [], ops := g.ops.map (TileOp.rebank fun k => if k = 0 then 1 else k) }
  g1.modSlices ks fun k y =>
    { y with s := setRangeZ 18 (x.trapScalars t k) y.s, sweep := none, stall := none, wait := none, fate := .waits,
             owed := none, moved := y.moved && decide (t.cause ≠ .teamMoved) }

/-- The entry with which a trap that finds no handler is logged (R192, R258, R261). -/
def Iss.trapEntry (x : Iss) (t : Trap) (c : Cause) : LogEntry :=
  let l := t.faults.headD (3 * x.low, c, 0)
  { addr := if isMemoryCause l.2.1 then l.2.2 else 0, word := x.word, cause := c, core := x.team.core, gang := x.gang.idx,
    slice := l.1 / 3, lane := l.1, operand := 0 }

/-- TAKING A TRAP (R258, R259, R261): in a handler the gang halts; without a handler it halts with the trap state in its
bank and the recorded program counters; else every slice of the issue set continues at the handler, with trit 4 of
sr.mode set. -/
def takeTrap (s : State) (x : Iss) (t : Trap) : State :=
  let a := x.ctx.agency
  let n := s.nameOf x.team.key x.gang.idx
  let s := (s.dropWaits x.parker).forget x.issue.team x.issue.gang
  let s1 := s.emitFault a x.team.core n 1 (causeCode t.cause)
  if x.gang.inHandler then
    let s2 := x.modSlices (fun k y => { y with pc := x.resume t k, stall := none, owed := none }) s1
    (s2.logEvent x.ctx.num (x.trapEntry t .trapInHandler) n).halt a x.issue.team x.issue.gang .inHandler
      (causeCode .trapInHandler)
  else
    let h := x.grid.dbl 6
    let s2 := x.modGang (fun g =>
      let g1 := (x.bankTrap t g).modSlices x.slices fun k y => { y with pc := if h = 0 then x.resume t k else h }
      if h = 0 then g1 else { g1 with mode := setTrit 4 1 g1.mode }) s1
    if h = 0 then
      if t.cause = .teamMoved then x.modSlices (fun _ y => { y with moved := false }) s
      else (s2.logEvent x.ctx.num (x.trapEntry t t.cause) n).halt a x.issue.team x.issue.gang .unhandled (causeCode t.cause)
    else s2.emitSched a x.team x.gang 2 (causeCode t.cause)

/-- The gang after the handler's end: the program's registers, pending results and sweeps restored, each slice at the
address given (R260). -/
def Gang.unbank (g : Gang) (pc : Nat → Slice → Int) : Gang :=
  match g.bank with
  | none => g
  | some b =>
    let keep := b.sweeps.all fun p => (g.slice p.1).ended || decide (pc p.1 (g.slice p.1) = p.2.at_)
    let sw (k : Nat) (y : Slice) : Option SweepHold :=
      if keep then (b.sweeps.find? fun p => decide (p.1 = k)).map fun p => { p.2 with done := (getZ 26 y.s).toNat, bases := [] } else none
    let g1 := g.modSlices b.slices fun k y =>
      { y with pc := pc k y, s := setRangeZ 18 (rangeZ (9 * k) 9 b.s) y.s, wait := none, fate := .waits, sweep := sw k y }
    { g1 with v := setRangeZ 1944 (rangeZ 0 243 b.v) g1.v, bank := none, pending := b.pending,
              ops := g1.ops.map (TileOp.rebank fun k => k - 1),
              mode := setTrit 4 0 g1.mode, exempt := b.watch }.regroup b.slices

/-- The return from a trap, once every trapped slice has executed RETT or ended (R260). -/
def Gang.returnFromTrap (g : Gang) : Gang := g.unbank fun _ y => getZ 19 y.s

/-- Every slice of the trapped set has executed RETT or ended (R260). -/
def Gang.allReturned (g : Gang) : Bool :=
  match g.bank with
  | some b => b.slices.all fun k => b.returned.contains k || (g.slice k).ended
  | none => false

/-- Why an instruction does not take its effect: a trap, a stall (R142) with what it has set going, a halt. -/
inductive Stop where
  | trap (t : Trap)
  /-- A trap that also changes what other slices stand in (R93, R123). -/
  | trapWith (t : Trap) (s : State)
  | stall (why : Stall) (s : State)
  | halt (h : Halt) (s : State)
  deriving DecidableEq, Repr

/-- An access that an instruction makes: the lanes that fault with it, the lane whose private slice it may reach,
address, trytes, kind, and whether the address is aligned. -/
structure Acc where
  lanes   : List Nat
  lane    : Option Nat
  addr    : Int
  len     : Nat
  op      : AccOp
  aligned : Bool
  deriving DecidableEq, Repr

/-- What an instruction names: destinations (R51), vector registers (R79, R445), accesses, tile rows (R445), how many
pending results it opens (R267), the faults of its operands, whether its accesses are made later by an engine, and the faults that
its description finds in the state and in what its accesses read, by access, as far as it could be read, with what it asks of peers
for that. -/
structure Uses where
  dests  : List Dest
  vregs  : List VReg
  accs   : List Acc
  rows   : List (Nat × Bool)
  opens  : Nat
  faults : List (Nat × Cause × Int)
  later  : Bool
  leases : Bool := false
  more   : State → (Nat → Option (List Int)) → List (Nat × Cause × Int) := fun _ _ => []
  asks   : State → (Nat → Option (List Int)) → List RemReq := fun _ _ => []

/-- An instruction that names nothing. -/
def Uses.none : Uses := { dests := [], vregs := [], accs := [], rows := [], opens := 0, faults := [], later := false }

/-- Who an access of the issue set is made for. -/
def Iss.who (x : Iss) (lane : Option Nat) : Who :=
  { ctx := x.ctx, team := some x.team, gang := x.issue.gang, lane := lane, core := some x.team.core }

/-- The places of an access, or what stops it (R96, R115, R171). -/
def State.checkAcc (s : State) (x : Iss) (a : Acc) : Xs :=
  if a.aligned then s.locate (x.who a.lane) a.op a.addr a.len else .bad .misaligned

/-- The next place of a list has the owner of the one before: a frame of the same peer, the next tryte of the same window of a peer, or
any place of this module after another. -/
def Loc.next (l k : Loc) : Bool :=
  match l, k with
  | .peer m _, .peer n _ => decide (m = n)
  | _, _ => if l.isPeer then decide (k = l.shift 1) else !k.isPeer

/-- The places of an access in runs, one for each owner in turn, each with the position of its first place. -/
def placeRuns : Nat → List Loc → List (Nat × List Loc)
  | _, [] => []
  | i, l :: r =>
    match placeRuns (i + 1) r with
    | (j, k :: ks) :: rest => if l.next k then (i, l :: k :: ks) :: rest else (i, [l]) :: (j, k :: ks) :: rest
    | _ => [(i, [l])]

/-- The runs of an access that lie on peers. -/
def farRuns (ls : List Loc) : List (Nat × List Loc) := (placeRuns 0 ls).filter fun r => r.2.any Loc.isPeer

/-- The owner of a run on a peer. -/
def runModule (ls : List Loc) : Nat := match ls with | .peer m _ :: _ | .peerWin m _ _ :: _ => m | _ => 0
/-- The physical addresses of a run on a peer, where they do not follow one another. -/
def runApart (ls : List Loc) : Option (List Nat) :=
  let ps := ls.filterMap fun l => match l with | .peer _ p => some p | _ => none
  if ps = (List.range ps.length).map fun i => ps.headD 0 + i then none else some ps

/-- The request that reads a run on a peer (R402). -/
def runLoad (bin : Bool) (ls : List Loc) : RemoteReq :=
  match ls with
  | .peer _ p :: _ => (match runApart ls with | some ps => .loads ps bin | none => .load p ls.length bin)
  | .peerWin _ n o :: _ => .debug n (.read o ls.length)
  | _ => .load 0 0 bin
/-- The request that stores a run on a peer. -/
def runStore (bin : Bool) (ls : List Loc) (vs : List Int) : RemoteReq :=
  match ls with
  | .peer _ p :: _ => (match runApart ls with | some ps => .stores (ps.zip vs) bin | none => .store p vs bin)
  | .peerWin _ n o :: _ => .debug n (.write o vs)
  | _ => .store 0 [] bin
/-- The request for the acceptance of a store or atomic on a run on a peer (R402). -/
def runAccept (needs : Bool) (ls : List Loc) : RemoteReq :=
  match ls with
  | .peer _ p :: _ => (match runApart ls with | some ps => .accepts ps needs | none => .accept p ls.length needs)
  | .peerWin _ n o :: _ => .debug n (.read o 0)
  | _ => .accept 0 0 needs

/-- The lines of peers that places cover whole, as module and line. -/
def farLines (ls : List Loc) : List (Nat × Nat) :=
  let ps := ls.filterMap fun l => match l with | .peer m q => some (m, q) | _ => none
  (ps.filter fun q => decide (q.2 % 81 = 0) && (List.range 81).all fun i => ps.contains (q.1, q.2 + i)).map fun q => (q.1, q.2 / 81)

/-- The lines of peers that accesses replace whole (R249). -/
def farWhole (accs : List (Acc × List Loc)) : List (Nat × Nat) :=
  farLines (accs.flatMap fun p => if p.1.op.wr && !p.1.op.rd then p.2 else [])

/-- The acceptances that an instruction asks of peers before any lane is performed, for the accesses of an engine too (R402). -/
def acceptReqs (later : Bool) (accs : List (Acc × List Loc)) : List RemReq :=
  let whole := farWhole accs
  accs.zipIdx.flatMap fun p =>
    if !(p.1.1.op.wr || later) then []
    else (farRuns p.1.2).map fun r =>
      let needs := !later && !(r.2.all fun l => match l with | .peer m q => whole.contains (m, q / 81) | _ => false)
      { key := 256 * p.2 + r.1, modul := runModule r.2, lanes := p.1.1.lanes, addr := p.1.1.addr, len := p.1.1.len, req := runAccept needs r.2 }

/-- A run of an access that an instruction reads: its request, or the places of this module. -/
structure ReadRun where
  req  : RemReq
  bin  : Bool
  locs : List Loc
  deriving DecidableEq, Repr

/-- The runs of each access that an instruction reads, in the order of its accesses (R182). -/
def readRuns (accs : List (Acc × List Loc)) : List (List ReadRun) :=
  accs.zipIdx.map fun p =>
    if p.1.1.op.wr then []
    else (placeRuns 0 p.1.2).map fun r =>
      { req := { key := 256 * p.2 + r.1, modul := runModule r.2, lanes := p.1.1.lanes, addr := p.1.1.addr, len := p.1.1.len,
                 req := runLoad p.1.1.op.bin r.2 },
        bin := p.1.1.op.bin, locs := r.2 }

/-- What a run of this module's places holds, kept for the instruction while it waits for later ones. -/
def State.keepRead (s : State) (x : Iss) (r : ReadRun) : State :=
  let w : RemoteWait :=
    { who := x.parker, modul := s.modul, key := r.req.key, tag := 0, ctx := x.ctx.num, addr := r.req.addr, len := r.req.len, pages := [], todo := none,
      reply := some (.vals (r.locs.map fun l => s.readLoc r.bin l)) }
  { s with fab := { s.fab with waits := s.fab.waits ++ [w] } }

/-- One access read, whose runs these are (R180): what peers hold of it first; once they have answered, or are fenced, what this module
holds. Answers whether it is read; one that stands apart from those after it is, with its turn. -/
def readAccess (x : Iss) (last : Bool) (rs : List ReadRun) (s : State) : State × Bool :=
  let far := rs.filter fun r => r.locs.any Loc.isPeer
  let near := rs.filter fun r => !r.locs.any Loc.isPeer
  let wait (r : ReadRun) : Option RemoteWait := (s.waitsOf x.parker).find? fun w => decide (w.key = r.req.key)
  let open_ := far.filter fun r => !s.isFenced r.req.modul && (match wait r with | some w => w.reply.isNone | none => true)
  let new := open_.filter fun r => (wait r).isNone
  if new ≠ [] then (s.askParts x.parker x.ctx.agency x.ctx.num (decide (rs.length > 1)) (new.map ReadRun.req), false)
  else if open_ ≠ [] then (s, false)
  else if near.all fun r => (wait r).isSome then (s.unhold x.parker, true)
  else if s.locked x.parker (near.flatMap ReadRun.locs) then (s, false)
  else ((near.foldl (fun s r => s.keepRead x r) s).unhold x.parker, !(x.issue.apart && !last && far.isEmpty))

/-- Accesses read one after another, each only when those before it have been (R182); where they stand apart, one at a time. Answers
whether all are read, or their owners fenced. -/
def readTurns (x : Iss) : List (List ReadRun) → State → State × Bool
  | [], s => (s, true)
  | r :: rs, s =>
    let a := readAccess x rs.isEmpty r s
    if a.2 then readTurns x rs a.1 else a

/-- What the requests of an instruction have brought: the answers by key, and those refused or lost with their causes. -/
structure Reached where
  rem : List (Nat × RemoteReply)
  bad : List (RemReq × Cause)
  deriving DecidableEq, Repr

/-- The requests that refused or whose owners were fenced before they answered (R402, R404). -/
def State.lostOf (s : State) (x : Iss) (rs : List RemReq) : List (RemReq × Cause) :=
  rs.filterMap fun r =>
    match (s.waitsOf x.parker).find? fun w => decide (w.key = r.key) with
    | some w => (match w.reply with | some (.refused c) => some (r, refusalCause c) | some _ => none | none => some (r, .ownerFenced))
    | none => some (r, .ownerFenced)

/-- An instruction's accesses to peers (R402): acceptances first, all at once, then the reads in order; else the state in which it
waits. Where no place is a peer's and the accesses do not stand apart, nothing is asked. -/
def State.reach (s : State) (x : Iss) (later : Bool) (accs : List (Acc × List Loc)) : Except State Reached :=
  if !later && s.locked x.parker (accs.flatMap Prod.snd) then .error s
  else if !(x.issue.apart && decide (accs.length > 1)) && accs.all (fun p => !p.2.any Loc.isPeer) then .ok ⟨[], []⟩
  else
    let asks := acceptReqs later accs
    match s.answers x.parker asks with
    | .pending [] => .error s
    | .pending missing => .error (s.askFor x.parker x.ctx.agency x.ctx.num missing)
    | _ =>
      let runs := if later then [] else readRuns accs
      let r := readTurns x runs s
      if !r.2 then .error r.1
      else
        let far := (runs.flatten.filter fun q => q.locs.any Loc.isPeer).map ReadRun.req
        .ok ⟨(r.1.waitsOf x.parker).filterMap fun w => w.reply.map fun a => (w.key, a), r.1.lostOf x (asks ++ far)⟩

/-- The answers of peers to an instruction's requests: all of them, a stall until they are there, or a trap in the lanes
whose owner refused or is fenced before answering (R402, R404). -/
def State.remote (s : State) (x : Iss) (rs : List RemReq) : Except Stop (List (Nat × RemoteReply)) :=
  match s.answers x.parker rs with
  | .bad fs => .error (.trap (.lanesOnly (fs.flatMap fun f => f.1.lanes.map fun l => (l, f.2, f.1.addr))))
  | .pending [] => .error (.stall .remote s)
  | .pending missing => .error (.stall .remote (s.askFor x.parker x.ctx.agency x.ctx.num missing))
  | .all rs => .ok rs

/-- What a pure load reads of its core's leased copies, where they are chosen to serve it (R186): every line that it reads is leased, and it
reads what all of them held at the place in S behind which the core's slices stand (log 39). -/
def State.leased (s : State) (x : Iss) (u : Uses) (accs : List (Acc × List Loc)) : List (Nat × RemoteReply) :=
  let held (l : Loc) : Option Int :=
    match l with
    | .hbm p =>
      (s.mem.leases.find? fun q => decide (q.core = x.team.core) && decide (q.line = p / 81) && decide (s.clock.cycle ≤ q.since + 6561)).map
        fun q => s.mem.cellBefore (s.mem.wlog.length - q.seen) p
    | _ => none
  if u.leases && !x.issue.apart && !accs.isEmpty && (accs.all fun p => p.2.all fun l => (held l).isSome) && Config.leased s.draws then
    accs.zipIdx.map fun p => (256 * p.2, .vals (p.1.2.map fun l => (held l).getD 0))
  else []

/-- The faults that peers answer to what an instruction asks of them, or the state in which it waits for the answers (R402). -/
def State.asked (s : State) (x : Iss) (rs : List RemReq) : Except State (List (Nat × Cause × Int)) :=
  match s.answers x.parker rs with
  | .pending [] => .error s
  | .pending missing => .error (s.askFor x.parker x.ctx.agency x.ctx.num missing)
  | .bad fs => .ok (fs.flatMap fun f => f.1.lanes.map fun l => (l, f.2, f.1.addr))
  | .all _ => .ok []

/-- The places of an instruction's accesses, the answers to its requests, and the pages that translated each access (R232). -/
structure Got where
  accs : List (Acc × List Loc)
  rem  : List (Nat × RemoteReply)
  pages : List (List (Int × Int))
  deriving DecidableEq, Repr

/-- The value read before for tryte j of access i, of those that an instruction had to wait for. -/
def Got.kept (got : Got) (i j : Nat) : Option Int :=
  got.rem.findSome? fun p =>
    match p.2 with
    | .vals vs => if p.1 / 256 = i ∧ p.1 % 256 ≤ j ∧ j < p.1 % 256 + vs.length then vs[j - p.1 % 256]? else none
    | _ => none

/-- The trytes or bytes that access i reads. -/
def Got.readBytes (got : Got) (s : State) (i : Nat) : List Int :=
  match got.accs[i]? with
  | none => []
  | some (a, ls) => ls.zipIdx.map fun l => (got.kept i l.2).getD (s.readLoc a.op.bin l.1)

/-- The value that access i reads (R15, R179). -/
def Got.read (got : Got) (s : State) (i : Nat) : Int := ofTrytes (got.readBytes s i)

/-- What access i has read, if all of it could be read. -/
def Got.seen (got : Got) (s : State) (i : Nat) : Option (List Int) :=
  match got.accs[i]? with
  | none => none
  | some (a, ls) =>
    if ls = [] ∨ a.op.wr = true then none
    else if ls.zipIdx.all fun l => (got.kept i l.2).isSome || !l.1.isPeer then some (got.readBytes s i) else none

/-- The stores of the instruction enter S one after another, others' accesses between them, because a peer serves one of them or
because its accesses stand apart (R182). -/
def Got.queued (got : Got) (x : Iss) : Bool :=
  (x.issue.apart && decide (got.accs.length > 1)) || got.accs.any fun p => p.1.op.wr && p.2.any Loc.isPeer

/-- A store of the issue set that has been accepted put behind those of its instruction. -/
def Iss.queueStore (x : Iss) (p : StorePart) (s : State) : State :=
  let mine (q : StoreSeq) : Bool := decide (q.team = x.issue.team) && decide (q.gang = x.issue.gang) && decide (q.slices = x.slices)
  if s.eng.stores.any mine then
    { s with eng := { s.eng with stores := mapIf mine (fun q => { q with parts := q.parts ++ [p] }) s.eng.stores } }
  else
    let q : StoreSeq := { id := s.eng.nextId, ctx := x.ctx.num, team := x.issue.team, gang := x.issue.gang, slices := x.slices, parts := [p] }
    { s with eng := { s.eng with stores := s.eng.stores ++ [q], nextId := s.eng.nextId + 1 } }

/-- Values stored at the places of access i. -/
def Got.write (got : Got) (x : Iss) (i : Nat) (vs : List Int) (s : State) : State :=
  match got.accs[i]? with
  | none => s
  | some (a, ls) =>
    if got.queued x then x.queueStore { addr := a.addr, len := a.len, bin := a.op.bin, pages := got.pages.getD i [], locs := ls, vals := vs } s
    else s.writeLocs a.op.bin ls vs

/-- The state without the first of the stores of a sequence. -/
def State.dropStore (s : State) (q : StoreSeq) : State :=
  let rest (r : StoreSeq) : Option StoreSeq :=
    if r.id ≠ q.id then some r
    else
      match r.parts with
      | _ :: p :: ps => some { r with parts := p :: ps }
      | _ => none
  let s1 := s.dropWaits (.store q.id)
  { s1 with eng := { s1.eng with stores := s1.eng.stores.filterMap rest } }

/-- The next of the stores of a sequence enters S: what peers hold when they serve it, what this module holds once they have. A peer
fenced after its acceptance counts as having served it (R404). -/
def State.drainStore (s : State) (q : StoreSeq) : State :=
  match q.parts with
  | [] => s
  | p :: _ =>
    let own := (p.locs.zip p.vals).filter fun l => !l.1.isPeer
    let put (s : State) : State := s.writeLocs p.bin (own.map Prod.fst) (own.map Prod.snd)
    let first := if (placeRuns 0 p.locs).length > 1 then commitKey else soloKey
    let reqs := (farRuns p.locs).map fun r =>
      ({ key := first + r.1, modul := runModule r.2, lanes := [], addr := p.addr, len := p.len,
         req := runStore p.bin r.2 ((p.vals.drop r.1).take r.2.length) } : RemReq)
    let agency := match s.ctx? q.ctx with | some c => c.agency | none => 0
    if s.locked (.store q.id) p.locs then s
    else if reqs.isEmpty then (put s).dropStore q
    else
      match s.answers (.store q.id) reqs with
      | .pending [] => s
      | .pending missing => s.askFor (.store q.id) agency q.ctx missing
      | _ => (put s).dropStore q

/-- The scratchpad offset of the team's own allocation that a place names. -/
def Loc.scratchOff (l : Loc) (team : Nat) : Option Nat := match l with | .scratch t o => if t = team then some o else none | _ => none

/-- A comparator is armed for the issuing gang (R358, R359). -/
def Watch.targets (w : Watch) (s : State) (x : Iss) : Bool :=
  if w.target = 0 then decide (w.ctx = x.ctx.num) else decide (w.target = s.nameOf x.issue.team x.issue.gang)

/-- A match of a comparator: its lanes with their effective addresses, the lowest matching address or index, written or read. -/
abbrev WatchHit := List (Nat × Int) × Int × Bool

/-- The matches of one comparator (R445). A register that an instruction names both as destination and as source is listed for
each. -/
def Watch.hits (w : Watch) (x : Iss) (u : Uses) (accs : List (Acc × Xs)) : List WatchHit :=
  let inside (lo : Int) (n : Int) : Bool := decide (lo < w.start + w.len) && decide (w.start < lo + n)
  let acc (wr rd : Bool) : Bool := decide (w.access = 0) || (decide (w.access = 1) && wr) || (decide (w.access = -1) && rd)
  let all : List (Nat × Int) := x.lanes.map fun l => (l, 0)
  if w.n ≤ 8 then
    accs.filterMap fun p =>
      if acc p.1.op.wr p.1.op.rd && inside p.1.addr p.1.len then
        some (p.1.lanes.map fun l => (l, p.1.addr), Max.max p.1.addr w.start, p.1.op.wr)
      else none
  else if w.n ≤ 14 then
    accs.filterMap fun p =>
      match p.2 with
      | .ok ls =>
        match (ls.filterMap fun l => l.scratchOff x.issue.team).filter fun o => inside o 1 with
        | o :: _ => if acc p.1.op.wr p.1.op.rd then some (p.1.lanes.map fun l => (l, p.1.addr), o, p.1.op.wr) else none
        | [] => none
      | _ => none
  else if w.n ≤ 20 then
    (u.rows.filter fun r => acc r.2 (!r.2) && inside r.1 1).map fun r => (all, (r.1 : Int), r.2)
  else
    let out := u.dests.filterMap fun d => match d with | .vec r => some r | _ => none
    let hit (wr : Bool) (rs : List VReg) : List WatchHit :=
      (rs.filter fun r => acc wr (!wr) && inside r.val 1).map fun r => (all, (r.val : Int), wr)
    hit true (u.vregs.filter fun r => out.contains r) ++ hit false (u.vregs.diff out)

/-- A comparator's matches taken together: its number, whether it stops, lanes, lowest address, written. -/
abbrev WatchMatch := Nat × Bool × List (Nat × Int) × Int × Bool

/-- The matches of all comparators. -/
def State.watchHits (s : State) (x : Iss) (u : Uses) (accs : List (Acc × Xs)) : List WatchMatch :=
  (s.scope.watches.filter fun w => w.targets s x).filterMap fun w =>
    match w.hits x u accs with
    | [] => none
    | h :: hs => some (w.n, w.stop, (h :: hs).flatMap fun p => p.1, hs.foldl (fun m p => Min.min m p.2.1) h.2.1, (h :: hs).any fun p => p.2.2)

/-- A watch record for each match (R446). -/
def State.watchRecords (s : State) (x : Iss) (hs : List WatchMatch) : State :=
  hs.foldl (fun s h =>
    match s.cfg? x.ctx.agency with
    | none => s
    | some _ =>
      s.traceStream x.ctx.agency x.team.core s.clock.cycle false
        [record (-3) ((x.gang.slot : Int) - 13) (if h.2.2.2.2 then 1 else -1)
          ((h.1 : Int) :: (toTrytes 4 (wrap 36 h.2.2.2.1) ++ nameTrytes (s.nameOf x.issue.team x.issue.gang)))]) s

/-- A debug window is open onto the gang (R448). -/
def State.debugged (s : State) (team gang : Nat) : Bool := s.scope.windows.any fun w => decide (w.2.1 = s.nameOf team gang)

/-- The end of the stall of the issue set. -/
def State.endStall (s : State) (x : Iss) : State :=
  x.modSlices (fun _ y => { y with stall := none }) (s.stallOver x.ctx.agency x.team x.gang x.low s.clock.cycle)

/-- The stall of the issue set recorded, with the cycle at which it began; where it stalled for another reason, that stall is over. -/
def State.setStall (s : State) (i : Issue) (w : Stall) : State :=
  let k := i.slices.headD 0
  let other : Bool := match s.gang? i.team i.gang with
    | some g => (match (g.slice k).stall with | some v => decide (v ≠ w) | none => false)
    | none => false
  let s0 := if other then (match s.iss? with | some x => s.endStall x | none => s) else s
  let s1 := s0.modGang i.team i.gang fun g => g.modSlices i.slices fun _ y => { y with stall := some w }
  if s1.scope.stallAt.any fun p => decide (p.1 = i.team) && decide (p.2.1 = i.gang) && decide (p.2.2.1 = k) then s1
  else { s1 with scope := { s1.scope with stallAt := (i.team, i.gang, k, s1.clock.cycle) :: s1.scope.stallAt } }

/-- The program counters of the issue set moved past the instruction. -/
def Iss.advance (x : Iss) (s : State) : State :=
  x.modSlices (fun _ y => { y with pc := y.pc + 3 * (x.issue.words.length : Int) }) s

/-- The lanes of causes stopped by checks of an instruction's accesses; a line that cannot be corrected is none of them (R249). -/
def accFaults (rs : List (Acc × Xs)) : List (Nat × Cause × Int) :=
  rs.flatMap fun p => match p.2 with | .bad c => if c = .uncorrectable then [] else p.1.lanes.map fun l => (l, c, p.1.addr) | _ => []

/-- The walks of accesses that translation stops, which read their entries all the same (R173). -/
def State.stoppedWalks (s : State) (x : Iss) (rs : List (Acc × Xs)) : State :=
  rs.foldl (fun s p => match p.2 with | .ok _ => s | _ => if p.1.aligned then s.touchWalks (x.who p.1.lane) p.1.addr p.1.len else s) s

/-- The pages whose leaves translate each of the issue set's accesses (R232). -/
def State.accLeaves (s : State) (x : Iss) (accs : List Acc) : List (List (Int × Int)) := accs.map fun a => s.pagesOf (x.who a.lane) a.addr a.len

/-- The migrating pages that an instruction's accesses meet. -/
def accPages (rs : List (Acc × Xs)) : List (Int × Int) := rs.flatMap fun p => match p.2 with | .migr ps => ps | _ => []

/-- The accesses that may go ahead, with their places. -/
def accPlaces (rs : List (Acc × Xs)) : List (Acc × List Loc) := rs.map fun p => (p.1, match p.2 with | .ok ls => ls | _ => [])

/-- Whole lines that the accesses replace, which need no reading (R249). -/
def wholeLines (rs : List (Acc × List Loc)) : List Nat :=
  wholeOf (rs.flatMap fun p => if p.1.op.wr && !p.1.op.rd then hbmOf p.2 else [])

/-- The first uncorrectable line that the accesses need (R249): the faulting access, and the line. -/
def State.badAcc (s : State) (rs : List (Acc × List Loc)) : Option (Acc × Nat) :=
  if s.mem.badLines = [] then none
  else
    let ws := wholeLines rs
    rs.findSome? fun p => p.2.findSome? fun l => match l with
      | .hbm q => if s.mem.badLines.contains (q / 81) && !ws.contains (q / 81) then some (p.1, q / 81) else none
      | _ => none

/-- A TLD that has not landed writes register r (R296). -/
def Gang.landing (g : Gang) (r : VReg) : Bool :=
  g.ops.any fun o => match o with | .move m => m.load && decide (m.bank = 0) && decide (m.base ≤ r.val) && decide (r.val < m.base + 9) | .mx _ => false

/-- The die at whose walkers the walks of somebody are made: that of the core that they are made for (R173, log 101). -/
def State.dieOf (s : State) (p : Parker) : Option Nat :=
  match p with
  | .issue t _ _ => (s.team? t).map fun u => u.core / 64
  | .copy id => (s.copy? id).map fun c => c.core / 64
  | .job c n => ((s.ctx? c).bind fun x => x.jobs.find? fun j => decide (j.num = n)).map fun j => j.core / 64
  | .redm id => (s.eng.redms.find? fun r => decide (r.id = id)).map fun r => r.core / 64
  | _ => none

/-- Walks parked at the walkers of a die: context and page (R173, R175). -/
def State.parkedWalks (s : State) (die : Nat) : List (Nat × Int) :=
  (s.xlate.parked.filterMap fun p => if s.dieOf p.who = some die then some (p.ctx, p.first) else none).eraseDups

/-- Every walker of a die is busy and n trytes from an address need one more (R173): no TLB entry serves them, and no walk that it could
join is under way. -/
def State.walkersBusy (s : State) (die : Nat) (w : Who) (a : Int) (n : Nat) : Bool :=
  decide (s.xlate.parked.length ≥ 81) && decide ((s.parkedWalks die).length ≥ 81) &&
    [a, a + (n : Int) - 1].any fun b =>
      !isLocal b && !isDebug b && (s.tlbLeaf w b).isNone &&
        !(s.xlate.parked.any fun p => decide (p.ctx = w.ctx.num) && decide (p.first ≤ b) && decide (b ≤ p.last))

/-- Every walker of the issuing die is busy and one of the accesses needs one more (R173). -/
def State.walkersFull (s : State) (x : Iss) (accs : List Acc) : Bool :=
  accs.any fun a => s.walkersBusy (x.team.core / 64) (x.who a.lane) a.addr a.len

/-- The gang stops before an instruction that needs an uncorrectable line, which is logged (R249, R463). -/
def State.stopBad (s : State) (x : Iss) (a : Acc) (line : Option Nat) : Stop :=
  let l := a.lanes.headD (3 * x.low)
  let e : LogEntry := ⟨a.addr, x.word, .uncorrectable, x.team.core, x.gang.idx, l / 3, l, 0⟩
  let s1 := match line with | some n => s.uncorrectable n | none => s
  .halt .uncorrectable (s1.logEvent x.ctx.num e (s.nameOf x.issue.team x.issue.gang))

/-- The gang stops where a walk of an access needs an uncorrectable line. -/
def State.stopWalk (s : State) (x : Iss) (a : Acc) : Stop :=
  s.stopBad x a ((s.walkLines x.ctx a.addr).find? fun l => s.mem.badLines.contains l)

/-- The access of a list whose walk needs an uncorrectable line. -/
def badWalk (rs : List (Acc × Xs)) : Option Acc := (rs.find? fun p => decide (p.2 = .bad .uncorrectable)).map Prod.fst

/-- The checks of an instruction that precede its effect, and what its accesses need from elsewhere: in order, the
lookahead conflict (R51), privilege (R64), registers of a tile move (R296), walkers (R173), then together register blocks (R79), the
operands, the accesses and the watchpoints (R445), the answers of peers (R402), then migrating pages (R175) and uncorrectable
lines (R249). Which lanes fail where a register block is not held, the rules leave open: every lane of the issue set (log 76). -/
def State.precheck (s : State) (x : Iss) (priv : Bool) (u : Uses) : Except Stop Got × List WatchMatch :=
  if x.gang.pending.any fun p => p.meets x.slices && u.dests.contains p.dest then
    (.error (.trap (.of x.lanes .laConflict)), [])
  else if priv && !x.ctx.priv then (.error (.trap (.of x.lanes .privilegedInstr)), [])
  else if u.vregs.any x.gang.landing then (.error (.stall .tile s), [])
  else if s.walkersFull x u.accs then (.error (.stall .walkers s), [])
  else
    let held (r : VReg) : Bool := x.gang.holds (r.val / 9) || (x.gang.inHandler && decide (72 ≤ r.val))
    let loose := if u.vregs.all held then [] else x.lanes.map fun l => (l, Cause.blockNotHeld, (0 : Int))
    let rs := u.accs.map fun a => (a, s.checkAcc x a)
    let hits := s.watchHits x u (if u.later then [] else rs)
    let places := accPlaces rs
    match s.reach x u.later places with
    | .error s' => (.error (.stall .remote s'), hits)
    | .ok r =>
      let got : Got := { accs := places, rem := r.rem ++ s.leased x u places, pages := s.accLeaves x u.accs }
      let lost := r.bad.filter fun b => decide (b.2 ≠ .uncorrectable)
      match s.asked x (u.asks s (got.seen s)) with
      | .error s' => (.error (.stall .remote s'), hits)
      | .ok far =>
      let fs := loose ++ u.faults ++ accFaults rs ++ (lost.flatMap fun b => b.1.lanes.map fun l => (l, b.2, b.1.addr)) ++ u.more s (got.seen s) ++ far
      if fs ≠ [] then (.error (if accFaults rs = [] then .trap (.lanesOnly fs) else .trapWith (.lanesOnly fs) (s.stoppedWalks x rs)), hits)
      else if accPages rs ≠ [] then
        let ps := (accPages rs).map fun p =>
          ({ ctx := x.ctx.num, first := p.1, last := p.2, who := x.parker } : Parked)
        let s := (s.stoppedWalks x rs).dropWaits x.parker
        (.error (.stall .migrating { s with xlate := { s.xlate with parked := s.xlate.parked ++ ps } }), [])
      else
        match r.bad with
        | b :: _ => (.error (s.stopBad x { lanes := b.1.lanes, lane := none, addr := b.1.addr, len := 0, op := .load, aligned := true } none), hits)
        | [] =>
          match badWalk rs with
          | some a => (.error (s.stopWalk x a), hits)
          | none =>
          match if u.later then none else s.badAcc places with
          | some a => (.error (s.stopBad x a.1 (some a.2)), hits)
          | none => (.ok got, hits)

/-- A trap with the lanes of stopping watchpoints added where no other cause stands (R445, R446). -/
def Trap.withWatch (t : Trap) (hs : List WatchMatch) : Trap :=
  let ls := (hs.flatMap fun h => h.2.2.1).filter fun l => !t.lanes.any fun p => decide (p.1 = l.1)
  { t with lanes := t.lanes ++ ls.map fun l => (l.1, Cause.watchpoint, l.2) }

/-- The trap of a stopping watchpoint (R446): s25 holds the lowest matching address or index. -/
def watchTrap (x : Iss) (hs : List WatchMatch) : Trap :=
  let lo := match hs with | [] => 0 | h :: r => r.foldl (fun m p => Min.min m p.2.2.2.1) h.2.2.2.1
  { (Trap.of [] .watchpoint).withWatch hs with args := x.slices.map fun k => (k, lo) }

/-- The watchpoints of accesses that no check translates at issue (R445, R446): a record of each match, or what a stopping one
does. -/
def State.watchLate (s : State) (x : Iss) (u : Uses) (accs : List (Acc × Xs)) : Except Stop State :=
  let soft := x.gang.inHandler || x.gang.exempt
  let hs0 := s.watchHits x u accs
  let stops := if soft then [] else hs0.filter fun h => h.2.1
  let s1 := s.watchRecords x (if soft then hs0.map fun h => (h.1, false, h.2.2) else hs0)
  if stops = [] then .ok s1
  else if s.debugged x.issue.team x.issue.gang then .error (.halt .watchStop s1)
  else .error (.trapWith (watchTrap x stops) s1)

/-- The number of records that an agency's hold keeps. -/
def State.heldRecords (s : State) (agency : Nat) : Nat := match s.cfg? agency with | some c => c.holds.length | none => 0

/-- The records of an agency that have been formed and not dropped: those written, and those held. -/
def State.formed (s : State) (agency : Nat) : Int := getZ (10 * agency + 9) s.hub.counters + (s.heldRecords agency : Int)

/-- The gang, which before what it has just done stood in s0, stalls before its next instruction when a record that it has emitted is
held, or its agency's hold was not empty then (R440). -/
def Iss.backPressure (x : Iss) (s0 s : State) : State :=
  match s.cfg? x.ctx.agency with
  | some c =>
    if c.lossless && decide (c.holds ≠ []) && decide (s.formed x.ctx.agency ≠ s0.formed x.ctx.agency) then s.setStall x.issue .trace else s
  | none => s

/-- The end of an instruction that has taken effect, which began in s0: what it had asked of peers is done with, and, once no segment of
it is left, so is the first instruction after a release (R446). -/
def Iss.finish (x : Iss) (s0 s : State) : State :=
  let s1 := x.modGang (fun g => { (g.modSlices x.slices fun _ y => { y with stall := none }) with
    exempt := g.exempt && g.slices.any fun y => y.sweep.isSome }) s
  x.backPressure s0 (s1.dropWaits x.parker)

/-- The state after an instruction that stops, which began in s. -/
def Iss.stopped (x : Iss) (s : State) (hs : List WatchMatch) (e : Stop) : State :=
  match e with
  | .trap t => x.backPressure s (takeTrap (s.watchRecords x hs) x (t.withWatch (hs.filter fun h => h.2.1)))
  | .trapWith t s' => x.backPressure s (takeTrap (s'.watchRecords x hs) x (t.withWatch (hs.filter fun h => h.2.1)))
  | .stall w s' => s'.setStall x.issue w
  | .halt h s' => (s'.watchRecords x hs).halt x.ctx.agency x.issue.team x.issue.gang h

/-- An instruction that does not take its effect uses up no window (R50, R53). -/
def Stop.unticked (e : Stop) (x : Iss) : Stop :=
  let put (s : State) : State := x.modGang (fun g => { g with pending := x.gang.pending }) s
  match e with
  | .trap t => .trap t
  | .trapWith t s => .trapWith t (put s)
  | .stall w s => .stall w (put s)
  | .halt h s => .halt h (put s)

/-- The results of the issue set whose window is used up land, or all of them; between two segments of a sweep, which is one
instruction, none (R50, R52, R59). -/
def Iss.landDue (x : Iss) (ends : Bool) (s : State) : State :=
  if x.segments ≠ 0 then s
  else x.modGang (fun g => g.landWhere fun p => p.meets x.slices && (ends || decide (p.remaining = 0))) s

/-- Issuing an instruction (R50, R62, R77, R446): results whose window is used up land, all of them before an
instruction that ends windows (R52); then the checks, then the effect, which reads the registers as they stand. body
answers the state after the effect or what stops it, the program counters being left to it when adv is false. -/
def issueWith (ends priv adv : Bool) (uses : Iss → Uses) (body : Iss → Got → State → Except Stop State) (s : State) : Answer :=
  match s.iss? with
  | none => .fault .noIssueSet
  | some x0 =>
    let s0 := x0.landDue ends s
    match s0.iss? with
    | none => .fault .noIssueSet
    | some x =>
      let u := uses x
      let r := s0.precheck x priv u
      let soft := x.gang.inHandler || x.gang.exempt
      let stops := if soft then [] else r.2.filter fun h => h.2.1
      let hs := if soft then r.2.map fun h => (h.1, false, h.2.2) else r.2
      match r.1 with
      | .error e => .next (x.stopped s0 hs e)
      | .ok got =>
        if stops ≠ [] then
          if s0.debugged x.issue.team x.issue.gang then
            .next ((s0.watchRecords x hs).halt x.ctx.agency x.issue.team x.issue.gang .watchStop)
          else .next (x.backPressure s0 (takeTrap (s0.watchRecords x hs) x (watchTrap x stops)))
        else
          let s1 := x.modGang (fun g => if x.segments = 0 then g.tickWindows x.slices else g) s0
          let own := !(s0.leased x u got.accs).isEmpty
          let s2 := if u.later then s1 else got.accs.foldl (fun s p =>
            if own then s.touchWalks (x.who p.1.lane) p.1.addr p.1.len else s.touch (x.who p.1.lane) p.1.op p.1.addr p.2) s1
          match body x got (if u.later || decide (s2.mem.badLines = []) then s2 else s2.replaced (wholeLines got.accs)) with
          | .error e => .next (x.stopped s0 hs (e.unticked x))
          | .ok s3 =>
            if u.opens > 0 ∧ x.gang.shown.length + u.opens > 27 then .next (s0.setStall x.issue .pendingLimit)
            else .next (x.finish s0 ((if adv then x.advance s3 else s3).watchRecords x hs))

/-- Issuing an instruction without a privilege check whose program counters advance. -/
def issue (uses : Iss → Uses) (body : Iss → Got → State → Except Stop State) (s : State) : Answer :=
  issueWith false false true uses body s

/-- Flags raised into sr.flags (R31). -/
def Iss.raise (x : Iss) (f : FlagSet) (s : State) : State := x.modGang (fun g => { g with flags := joinF g.flags f }) s

end Sys2Proof.Machine
end

