-- ==== Sys2Proof/Machine/Operands.lean ====
section
/-!
DEFINITION. Operands and results: the rounding mode and saturation in force (R24, R77), stochastic draws (R27), lane roles
under mask and policy (R56, R73), elements (R16), and results written at once or after a lookahead window (R50).
-/
namespace Sys2Proof.Machine

/-- The rounding mode in force (R24, R77). -/
def Iss.rnd (x : Iss) (a : Option Attr) : Rnd :=
  match a.bind Attr.rounding with
  | some r => r
  | none => x.gang.rnd

/-- The saturation trit (R18). -/
def satOf (a : Option Attr) : Bool := match a with | some p => p.sat | none => false

/-- f applied n times. -/
def iter {α : Type} (f : α → α) : Nat → α → α
  | 0, x => x
  | n + 1, x => iter f n (f x)

/-- Draw number j, from 0, that the generator of a lane supplies next (R27). -/
def Gang.draw (g : Gang) (lane j : Nat) : Int := genDraw (iter genNext (j + 1) (getZ lane g.gens))

/-- Generators advanced, each by a number of draws (R27). -/
def Gang.spend (g : Gang) (ws : List (Nat × Nat)) : Gang :=
  { g with gens := ws.foldl (fun m w => setZ w.1 (iter genNext w.2 (getZ w.1 m)) m) g.gens }

/-- The draws of an instruction spent when its mode is stochastic (R27). -/
def Iss.spend (x : Iss) (rnd : Rnd) (ws : List (Nat × Nat)) (s : State) : State :=
  if rnd = .stoch then x.modGang (fun g => g.spend ws) s else s

/-- A pending result opened (R50). -/
def Iss.open_ (x : Iss) (p : Pending) (s : State) : State := x.modGang (fun g => { g with pending := g.pending ++ [p] }) s

/-- Scalar results of slices written with their flags, at once or after a window (R31, R50). -/
def Iss.putS (x : Iss) (la : Fin 27) (r : SReg) (rs : List (Nat × Res)) (s : State) : State :=
  if la.val = 0 then x.raise (joinAll (rs.map fun p => p.2.flags)) (x.setS r (rs.map fun p => (p.1, p.2.val)) s)
  else
    rs.foldl (fun s p =>
      x.open_ { slices := [p.1], dest := .sca p.1 r, writes := [(0, p.2.val)], flags := p.2.flags, remaining := la.val } s) s

/-- Lanes of a vector register written with flags, at once or after a window (R31, R50). -/
def Iss.putV (x : Iss) (la : Fin 27) (r : VReg) (ws : List (Nat × Int)) (f : FlagSet) (s : State) : State :=
  if la.val = 0 then x.raise f (x.modGang (fun g => g.setLanes r ws) s)
  else x.open_ { slices := x.slices, dest := .vec r, writes := ws, flags := f, remaining := la.val } s

/-- What the scalar destination of a form is, for the checks (R51). -/
def Iss.sDests (x : Iss) (r : SReg) : List Dest := if r.val = 0 then [] else x.slices.map fun k => .sca k r

/-- The pending results that a scalar form with a window opens. -/
def Iss.sOpens (x : Iss) (la : Fin 27) : Nat := if la.val = 0 then 0 else x.slices.length

/-- What a lane does (R56). -/
inductive Role where
  | run | keep | zero
  deriving DecidableEq, Repr

/-- The role that a policy gives to a mask trit (R56). -/
def roleOf (p : Policy) (t : Trit) : Role :=
  match p with
  | .dflt => if t = 1 then .run else if t = 0 then .keep else .zero
  | .keep => if t = 1 then .run else .keep
  | .zero => if t = 1 then .run else .zero
  | .inv => if t = 1 then .zero else if t = 0 then .keep else .run

/-- The mask policy of an optional prefix. -/
def polOf (a : Option Attr) : Policy := match a with | some p => p.policy | none => .dflt

/-- The mask register in force: the instruction's own, or the prefix's when that is the nonzero one (R57). -/
def maskReg (a : Option Attr) (m : MReg) : MReg :=
  if m.val ≠ 0 then m else match a with | some p => p.mask | none => 0

/-- Lanes of the issue set with a role. -/
def Iss.withRole (x : Iss) (a : Option Attr) (m : MReg) (r : Role) : List Nat :=
  x.lanes.filter fun i => decide (roleOf (polOf a) (tritAt i (x.gang.mask (maskReg a m))) = r)

/-- The active lanes (R73). -/
def Iss.active (x : Iss) (a : Option Attr) (m : MReg) : List Nat := x.withRole a m .run
/-- The lanes that are zeroed. -/
def Iss.zeroed (x : Iss) (a : Option Attr) (m : MReg) : List Nat := x.withRole a m .zero

/-- A type whose lanes hold three elements (R16). -/
def isSub (t : Ty) : Bool := match t with | .i9x3 | .f9x3 => true | _ => false
/-- Elements of a lane. -/
def elems (t : Ty) : Nat := if isSub t then 3 else 1
/-- Element e of a lane. -/
def elemOf (t : Ty) (e : Nat) (x : Int) : Int := if isSub t then subLane e x else x
/-- A lane from its elements (R16). -/
def laneOfElems (t : Ty) (es : List Int) : Int :=
  if isSub t then ofSubLanes (es.getD 0 0) (es.getD 1 0) (es.getD 2 0) else es.getD 0 0
/-- The width of an integer element. -/
def widthOf (t : Ty) : Nat := match t with | .i9 | .i9x3 => 9 | .i54 => 54 | _ => 27
/-- The element type is a float. -/
def isFloat (t : Ty) : Bool := match t with | .f27 | .f9 | .f9x3 | .f18 => true | _ => false

/-- The result of a lane from one result per element (R16, R31). -/
def laneRes (t : Ty) (f : Nat → Res) : Res :=
  let rs := (List.range (elems t)).map f
  ⟨laneOfElems t (rs.map Res.val), joinAll (rs.map Res.flags)⟩

/-- A mask register written, with its record (R436). -/
def Iss.putMask (x : Iss) (r : MReg) (ws : List (Nat × Int)) (s : State) : State :=
  let g := x.gang.setMask r ws
  let s1 := x.modGang (fun g => g.setMask r ws) s
  s1.emit x.ctx.agency x.team.core 1
    (record 4 ((x.gang.slot : Int) - 13) r.val (tritSet x.slices :: toTrytes 3 (g.mask r)))

/-- Vector elements counted for the agency (R465). -/
def Iss.countElems (x : Iss) (n : Nat) (s : State) : State := s.count x.ctx.agency 3 n

end Sys2Proof.Machine
end

