-- ==== Sys2Proof/Machine/Barriers.lean ====
section
/-!
DEFINITION. What the ends of slices and gangs do (R88, R135, R149), and the implicit phasers of gangs and teams on which
REGANG, SYNCS and BAR wait (R93, R123, R141, R144).
-/
namespace Sys2Proof.Machine

/-- Every slice of the gang has ended (R88). -/
def Gang.dead (g : Gang) : Bool := g.slices.all Slice.ended

/-- The gangs of a team that have not ended. -/
def Team.live (t : Team) : List Gang := t.gangs.filter fun g => !g.dead

/-- A batch entry is a job. -/
def BatchEntry.isJob (e : BatchEntry) : Bool := match e with | .job _ => true | .copies _ | .faulty => false

/-- A gang has work outstanding whose completion must still be delivered: tile operations, sealed batches, jobs of a batch that was
never sealed (R88, R149). -/
def Gang.busy (g : Gang) : Bool :=
  !g.ops.isEmpty || g.slices.any fun x => !x.copy.sealed.isEmpty || x.copy.openB.any BatchEntry.isJob

/-- Slices may leave their waits: the team is there, the gang is not halted, and no handler of others runs (R126, R137). -/
def Team.mayLeave (t : Team) (g : Gang) (ks : List Nat) : Bool :=
  decide (t.place = .resident) && g.halt.isNone && !ks.isEmpty &&
    (match g.bank with | some b => ks.all fun k => b.slices.contains k | none => true)

/-- Slices of a gang trap with a cause before their next instruction and leave their wait (R93, R123). -/
def Gang.owe (g : Gang) (ks : List Nat) (c : Cause) : Gang :=
  g.modSlices ks fun _ x => if x.ended then x else { x with owed := some c, wait := none, fate := .waits }

/-- The phase of a gang's phaser completes when every named slice has arrived (R123). -/
def Gang.testSyncs (g : Gang) : Gang :=
  let b := g.phaser
  if b.parts ≠ [] && b.parts.all fun k => b.arrived.contains (g.idx, k) && !(g.slice k).ended then
    { g with phaser := { phase := wrap 27 (b.phase + 1), set := 0, parts := [], arrived := [] } }
  else g

/-- The phase of a team's phaser completes when every slice of every participant has arrived (R123). -/
def Team.testBar (t : Team) : Team :=
  let b := t.bar
  let ok (p : Nat) : Bool :=
    match t.live.find? fun g => decide (g.idx = p) with
    | some g => g.liveSlices.all fun k => b.arrived.contains (p, k)
    | none => false
  if b.parts ≠ [] && b.parts.all ok then
    { t with bar := { phase := wrap 27 (b.phase + 1), set := 0, parts := [], arrived := [] } }
  else t

/-- A slice waits in SYNCS. -/
def Slice.inSyncs (x : Slice) : Bool := match x.wait with | some (.syncs _) => true | _ => false
/-- A slice waits in BAR. -/
def Slice.inBar (x : Slice) : Bool := match x.wait with | some (.bar _) => true | _ => false
/-- The slices of a gang that wait in SYNCS. -/
def Gang.syncers (g : Gang) : List Nat := g.liveSlices.filter fun k => (g.slice k).inSyncs
/-- The team with every slice that waits in BAR trapping with a cause. -/
def Team.oweBar (t : Team) (c : Cause) : Team :=
  { t with gangs := t.gangs.map fun g => g.owe (g.liveSlices.filter fun k => (g.slice k).inBar) c }

/-- The team with every slice that waits on the team phaser, in BAR or in PHASE, trapping because the sets disagree; the phase's
arrivals are cleared (R123, R144). -/
def Team.disagree (t : Team) : Team :=
  let out (g : Gang) (k : Nat) : Bool := (g.slice k).inBar || decide ((g.slice k).wait = some .boundary)
  { t with
    gangs := t.gangs.map fun g => g.owe (g.liveSlices.filter fun k => out g k) .setsDisagree,
    bar := { t.bar with set := 0, parts := [], arrived := [] }, arrivals := [] }

/-- The gang with every slice that waits on the gang phaser, in SYNCS or in REGANG, trapping because the sets disagree; the phase's
arrivals are cleared (R93, R123, R144). -/
def Gang.disagree (g : Gang) : Gang :=
  { g.owe (g.syncers ++ g.regangs.map Regang.slice) .setsDisagree with
    phaser := { g.phaser with set := 0, parts := [], arrived := [] }, regangs := [] }

/-- What the end of slices means for those that wait for them (R93, R123). -/
def Gang.afterEnds (g : Gang) (ended : List Nat) : Gang :=
  let hit := g.regangs.filter fun r => ended.any fun k => decide (tritAt k r.set = 1)
  let g1 := { g with regangs := g.regangs.filter fun r => !hit.contains r }
  let g2 := g1.owe (hit.map Regang.slice) .participantEnded
  if g2.phaser.parts.any fun k => ended.contains k then
    { g2.owe g2.syncers .participantEnded with phaser := { g2.phaser with arrived := [] } }
  else g2

/-- What marks, among the participants of a phase, a gang that has ended. -/
def endedMark : Nat := 100

/-- What the end of a gang means for the participants of the team's phase (R123). -/
def Team.afterGangEnd (t : Team) (p : Nat) : Team :=
  if t.bar.parts.contains p then
    { t.oweBar .participantEnded with
      bar := { t.bar with parts := t.bar.parts.map (fun q => if q = p then p + endedMark else q), arrived := [] } }
  else t.testBar

/-- Slices leave their wait past its instruction, a word long (R133). -/
def Gang.leave (g : Gang) (ks : List Nat) : Gang :=
  (g.modSlices ks fun _ x => { x with wait := none, fate := .waits, pc := x.pc + 3 }).regroup g.liveSlices

/-- Slices part from the rest of their sub-gang though the program counters agree (R134). -/
def Gang.part (g : Gang) (ks : List Nat) : Gang :=
  let rest (k : Nat) : List Nat := g.liveSlices.filter fun j => decide ((g.slice j).sub = (g.slice k).sub) && !ks.contains j
  let mine (k : Nat) : List Nat := ks.filter fun j => decide ((g.slice j).sub = (g.slice k).sub)
  let put (k : Nat) (x : Slice) : Slice := { x with sub := if ks.contains k then (mine k).headD x.sub else (rest k).headD x.sub }
  { g with slices := mapPos (fun _ => true) put g.slices }

/-- The tile moves of a gang not landed. -/
def Gang.moveCount (g : Gang) : Nat := (g.ops.filter fun o => match o with | .mx _ => false | .move _ => true).length

/-- The blocks that a gang holds. -/
def Gang.blockList (g : Gang) : List Nat := plusTrits 9 g.blocks

/-- Pool blocks of a core that no gang holds (R138). -/
def State.freeBlocks (s : State) (core : Nat) : Nat :=
  216 - ((s.teams.filter fun t => decide (t.core = core) && t.onCore).flatMap fun t =>
    t.gangs.map fun g => g.blockList.length).sum

/-- The registers of a block read zero. -/
def Gang.clearBlock (g : Gang) (b : Nat) : Gang :=
  match g.bank with
  | some k => if b = 8 then { g with bank := some { k with v := [] } } else { g with v := clearZ (243 * b) 243 g.v }
  | none => { g with v := clearZ (243 * b) 243 g.v }

/-- Blocks acquired by a gang, reading zero (R124). -/
def Gang.acquire (g : Gang) (bs : List Nat) : Gang :=
  let new := bs.filter fun b => !g.holds b
  new.foldl Gang.clearBlock { g with blocks := g.blocks + tritSet new }

/-- Blocks released by a gang. -/
def Gang.release (g : Gang) (bs : List Nat) : Gang :=
  let old := bs.filter fun b => g.holds b
  old.foldl Gang.clearBlock { g with blocks := g.blocks - tritSet old }

/-- The slices of a sub-gang that have not ended. -/
def Gang.members (g : Gang) (h : Nat) : List Nat := g.liveSlices.filter fun k => decide ((g.slice k).sub = h)

/-- The oldest waiting requests of a core granted while the pool covers them (R140), at most n of them. A request of a sub-gang that
may not leave its wait stays the oldest (R137). -/
def State.grantRacq (s : State) (core : Nat) : Nat → State
  | 0 => s
  | n + 1 =>
    let mine (r : Nat × Nat × Nat × Int) : Bool := match s.team? r.1 with | some t => decide (t.core = core) && t.onCore | none => false
    match s.eng.racq.find? mine with
    | none => s
    | some r =>
      let s1 := { s with eng := { s.eng with racq := s.eng.racq.filter fun q => decide (q ≠ r) } }
      match s.team? r.1, s.gang? r.1 r.2.1 with
      | some t, some g =>
        let bs := plusTrits 9 r.2.2.2
        let need := (bs.filter fun b => !g.holds b).length
        if need ≤ s.freeBlocks core && t.mayLeave g (g.members r.2.2.1) then
          State.grantRacq (s1.modGang r.1 r.2.1 fun g => (g.acquire bs).leave (g.members r.2.2.1)) core n
        else s
      | _, _ => State.grantRacq s1 core n

/-- The allocation phaser of a core advances (R140). -/
def State.blocksReturned (s : State) (core : Nat) : State := s.grantRacq core (s.eng.racq.length + 1)

/-- A request waits at the core. -/
def State.racqWaits (s : State) (core : Nat) : Bool :=
  s.eng.racq.any fun r => match s.team? r.1 with | some t => decide (t.core = core) && t.onCore | none => false

/-- A number for a gang that has ended with work outstanding: its index is free again for a new gang. -/
def Team.ghost (t : Team) (idx : Nat) : Nat := idx + 27 * (1 + (t.gangs.filter fun g => decide (27 ≤ g.idx)).length +
  (t.gangs.map Gang.idx).foldl Nat.max 0 / 27)

/-- The end of a gang (R88): its slot, blocks and tiles return to the core, its tokens pass to the leader (R281); work
outstanding keeps a record of it. -/
def State.endGang (s : State) (team gang : Nat) : State :=
  match s.team? team with
  | none => s
  | some t =>
    match t.gang? gang, s.grid? t.grid with
    | some g, some gr =>
      let agency := match s.ctx? gr.ctx with | some c => c.agency | none => 0
      let s1 := s.emitSched agency t g (-1) 0
      let n := t.ghost gang
      let t1 : Team :=
        if g.busy then t.modGang gang fun x => { x with idx := n, blocks := 0, halt := none }
        else { t with gangs := t.gangs.filter fun x => decide (x.idx ≠ gang) }
      let mine := (t1.tokens.zipIdx.filter fun p => decide (p.1 = gang)).map fun p => (p.2, n, 27)
      let pass := t1.passing.map fun p => (p.1, if p.2.1 = gang then n else p.2.1, if p.2.2 = gang then 27 else p.2.2)
      let tok := t1.tokens.map fun h => if h = gang then 27 else h
      let t2 := { t1 with tokens := tok, passing := pass ++ mine }.afterGangEnd gang
      let s2 := (s1.modTeam team fun _ => t2).blocksReturned t.core
      let e := s2.eng
      let cs := mapIf (fun c => decide (c.team = team) && decide (c.gang = gang)) (fun c => { c with gang := n }) e.copies
      let rs := mapIf (fun r => decide (r.team = team) && decide (r.gang = gang)) (fun r => { r with gang := n }) e.redms
      let ss := mapIf (fun q => decide (q.team = team) && decide (q.gang = gang)) (fun q => { q with gang := n }) e.stores
      let s3 := { s2 with eng := { e with copies := cs, redms := rs, stores := ss } }
      s3.modCtx gr.ctx fun c =>
        { c with jobs := mapIf (fun j => decide (j.team = team) && decide (j.gang = gang)) (fun j => { j with gang := n }) c.jobs }
    | _, _ => s

/-- A gang that has ended leaves the state once its last outstanding work is delivered. -/
def State.reap (s : State) (team : Nat) : State :=
  let ctx := ((s.team? team).bind fun t => s.grid? t.grid).bind fun g => s.ctx? g.ctx
  let out (e : BatchEntry) : Bool :=
    match e with
    | .job n => (match ctx.bind fun c => c.job? n with | some j => decide (j.state ≠ .visible) && decide (j.state ≠ .finished) | none => false)
    | .copies _ => true
    | .faulty => false
  let tidy (x : Slice) : Slice := { x with copy := { x.copy with openB := x.copy.openB.filter out } }
  s.modTeam team fun t =>
    let gs := mapIf (fun g => g.dead && decide (27 ≤ g.idx)) (fun g => { g with slices := g.slices.map tidy }) t.gangs
    { t with gangs := gs.filter fun g => !(g.dead && decide (27 ≤ g.idx) && !g.busy) }

/-- The fault of a target (R87). -/
def targetFault (a : Int) : Option Cause :=
  if a % 3 ≠ 0 then some .misaligned else if a > maxAddr ∨ a < -maxAddr then some .outsideSpace else none

/-- The slices of the trapped set that would return to an address that is no target, with their causes (R260). -/
def Gang.returnFaults (g : Gang) : List (Nat × Cause) :=
  match g.bank with
  | some b => (b.slices.filter fun k => !(g.slice k).ended).filterMap fun k => (targetFault (getZ 19 (g.slice k).s)).map fun c => (k, c)
  | none => []

/-- The gang after a slice of its handler has ended: where no other is left to return, those that wait in RETT return, or trap there
for their addresses (R260, R261). -/
def Gang.tryReturn (g : Gang) : Gang :=
  if !g.allReturned then g
  else if g.returnFaults = [] then g.returnFromTrap
  else
    let cause (k : Nat) : Option Cause := (g.returnFaults.find? fun f => decide (f.1 = k)).map Prod.snd
    match g.bank with
    | some b => { g.modSlices b.slices fun k x => { x with wait := none, owed := cause k } with bank := some { b with returned := [] } }
    | none => g

/-- Slices end (R88, R135): those that wait for them trap, and the handler that they may have stood in ends when no slice
of it is left to return (R260). -/
def State.endSlices (s : State) (team gang : Nat) (ks : List Nat) : State :=
  let s1 := s.modGang team gang fun g =>
    let g1 := (g.modSlices ks fun _ x => { x with ended := true, wait := none, fate := .waits, stall := none, owed := none }).regroup ks
    let g2 := g1.afterEnds ks
    g2.tryReturn
  match s1.gang? team gang with
  | some g => if g.dead then s1.endGang team gang else s1.modTeam team Team.testBar
  | none => s1

/-- The slices that a set of trits names, among those the gang has. -/
def Gang.named (g : Gang) (set : Int) : List Nat :=
  (List.range g.slices.length).filter fun k => decide (tritAt k set = 1)

/-- The effect of REGANG on the gang, its checks of the set passed (R93): arrivals recorded, and the join when every
named slice has arrived. -/
def Gang.regang (g : Gang) (ks : List Nat) (set addr : Int) : Gang :=
  let g1 := { g with regangs := g.regangs ++ ks.map fun k => Regang.mk k set addr }
  let names := g1.named set
  if names.all fun k => g1.regangs.any fun r => decide (r.slice = k) then
    let low := names.headD 0
    let g2 := g1.modSlices names fun _ x => { x with sub := low, wait := none, fate := .waits, pc := addr + 3 }
    let g3 := { g2 with phaser := { g2.phaser with phase := wrap 27 (g2.phaser.phase + 1) }, regangs := g2.regangs.filter fun r => !names.contains r.slice }
    { g3 with subPtr := if names.contains g1.subPtr then low else g1.subPtr }
  else g1.modSlices ks fun _ x => { x with wait := some (.regang set), fate := .waits }

/-- The waiting arrivals that an arrival with a set at an address contradicts: the first of a phase fixes both, so that sets without a
slice in common do not wait side by side (R93, R144, log 99). -/
def Gang.regangClash (g : Gang) (set addr : Int) : List Regang :=
  g.regangs.filter fun r => decide (r.addr ≠ addr) || decide (g.named r.set ≠ g.named set)

end Sys2Proof.Machine
end

