-- ==== Sys2Proof/Machine/Join.lean ====
section
/-!
DEFINITION. Port tables (R332 to R337, R386, R387), posts fired by signal bindings (R343), and the updates made at a
serialisation point (R190, R226, R341, R342): what POST, the atomics, signals and requests of peers share.
-/
namespace Sys2Proof.Machine

/-- The team key of a name (R332). -/
def nameTeam (n : Int) : Int := sub 27 18 n
/-- The index of a name. -/
def nameIndex (n : Int) : Int := sub 23 4 n
/-- The generation of a name. -/
def nameGen (n : Int) : Int := sub 14 9 n

/-- The address of port p of a team that is out: its line of the port backing store (R267, R386). -/
def Team.portAddr (t : Team) (p : Nat) : Int := t.record + 81 * (23842 + (t.alloc : Int) / 81 + p)

/-- The first word of a port line (R386). -/
def portHeader (p : Port) : Int := (p.depth : Int) * pow3 24 + (p.held.length : Int) * pow3 21 + p.gen * pow3 12

/-- The words of a port line (R386). -/
def portLine (p : Port) : List Int :=
  [portHeader p, 0, 0] ++ ((List.range 9).flatMap fun k => [wrap 27 (p.held.getD k 0), dropLow 27 (p.held.getD k 0)]) ++
    List.replicate 6 0

/-- The port of a line, with the reservations that no line shows. -/
def portOfLine (reserved : Nat) (header : Int) (msgs : List Int) : Port :=
  { depth := (sub 24 3 header).toNat, gen := sub 12 9 header, held := msgs.take (sub 21 3 header).toNat, reserved := reserved }

/-- The context of a team's grid. -/
def State.ctxOf (s : State) (t : Team) : Option Context := (s.grid? t.grid).bind fun g => s.ctx? g.ctx

/-- The line of port i of a team that is out lies on a peer: the device goes by what it last wrote there (log 55). -/
def State.portFar (s : State) (t : Team) (c : Context) (i : Nat) : Bool :=
  match s.locate (Who.device c) .load (t.portAddr i) 81 with | .ok ls => ls.any Loc.isPeer | _ => false

/-- Port i of a team, at its join unit or in its backing store (R387). -/
def State.readPort (s : State) (t : Team) (i : Nat) : Dev Port :=
  match t.ports[i]? with
  | none => .ok { depth := 0, gen := 0, held := [], reserved := 0 }
  | some p =>
    if t.onCore then .ok p
    else
      match s.ctxOf t with
      | none => .bad .notPresent
      | some c =>
        if s.portFar t c i then .ok p else
        match s.devRead (Who.device c) (t.portAddr i) 3, s.devDoubles (Who.device c) (t.portAddr i + 9) 9 with
        | .ok h, .ok ms => .ok (portOfLine p.reserved h ms)
        | .bad e, _ => .bad e
        | _, .bad e => .bad e
        | .migr ps, _ => .migr ps
        | _, .migr ps => .migr ps

/-- Port i of a team written where it is. -/
def State.writePort (s : State) (t : Team) (i : Nat) (p : Port) : State :=
  let s1 := s.modTeam t.key fun u => { u with ports := mapAt i (fun (_ : Port) => p) u.ports }
  if t.onCore then s1
  else
    match s.ctxOf t with
    | none => s1
    | some c =>
      match s1.devWrite (Who.device c) (t.portAddr i) 81 (ofDigits 27 (portLine p)) with
      | .ok s2 => s2
      | _ => s1

/-- What a port name of this module leads to. -/
inductive PortAt where
  | at_ (t : Team) (i : Nat) (p : Port)
  | bad (c : Cause)
  /-- Its line lies on pages of a context that are migrating (R175, R387). -/
  | wait (ctx : Nat) (ps : List (Int × Int))
  deriving DecidableEq, Repr

/-- The fault of a port name that needs no look at its port (R336, R404). -/
def State.portNameFault (s : State) (n : Int) : Option Cause :=
  if sub 0 14 n ≠ 0 ∨ nameIndex n < 0 ∨ nameIndex n > 26 then some .portIndex
  else if sub 45 9 n < 0 ∨ nameTeam n ≤ 0 ∨ !s.inDomain (nameModule n) then some .teamAbsent
  else if nameModule n ≠ s.modul ∧ s.isFenced (nameModule n) then some .teamAbsent
  else none

/-- The port that a name of this module names (R336). -/
def State.portAt (s : State) (n : Int) : PortAt :=
  match s.portNameFault n with
  | some c => .bad c
  | none =>
    match s.team? (nameTeam n).toNat with
    | none => .bad .teamAbsent
    | some t =>
      if t.ended then .bad .teamAbsent
      else
        match s.readPort t (nameIndex n).toNat with
        | .bad c => .bad c
        | .migr ps => .wait ((s.ctxOf t).elim 0 Context.num) ps
        | .ok p =>
          if p.depth = 0 ∨ p.gen ≠ nameGen n then .bad .portNotConfigured else .at_ t (nameIndex n).toNat p

/-- The port has room for one more (R334). -/
def Port.room (p : Port) : Bool := decide (p.held.length + p.reserved < p.depth)

/-- A join event of a team (R432, R436): what, a pattern or port index, the gang started. -/
def State.emitJoin (s : State) (t : Team) (what idx gang : Int) : State :=
  match s.ctxOf t with
  | some c => s.emit c.agency (2048 + t.core) 3 (record 8 0 what (toTrytes 2 (t.key : Int) ++ [idx, gang]))
  | none => s

/-- The number under which a context of another module stands in a binding or a held post: no context of this module bears it. -/
def foreignCtx (modul ctx : Nat) : Nat := 1048576 * (modul + 1) + ctx

/-- The module and the context that a number of a binding or a held post names. -/
def State.originOf (s : State) (n : Nat) : Nat × Nat := if n < 1048576 then (s.modul, n) else (n / 1048576 - 1, n % 1048576)

/-- The number by which this module knows a context of a module. -/
def State.ctxNumber (s : State) (modul ctx : Nat) : Nat := if modul = s.modul then ctx else foreignCtx modul ctx

/-- A fault of the device logged for the context that made a binding, on whichever module it is (R343). -/
def State.logFor (s : State) (n : Nat) (e : LogEntry) : State :=
  let o := s.originOf n
  if o.1 = s.modul then s.logEvent o.2 e 0
  else s.send 0 o.1 (.request 0 s.modul 0 (.fault o.2 (e.doubles s.clock.fabric)))

/-- A fired post dropped and logged (R343). -/
def State.dropPost (s : State) (h : HeldPost) (c : Cause) : State :=
  let s1 := { s with eng := { s.eng with posts := s.eng.posts.filter fun q => decide (q.id ≠ h.id) } }
  let s2 :=
    match s1.team? (nameTeam h.port).toNat with
    | some t => if c = Cause.portNotConfigured then s1.emitJoin t (-1) (nameIndex h.port) 0 else s1
    | none => s1
  s2.logFor h.ctx ⟨0, 0, c, 0, 0, 0, 0, 0⟩

/-- A held post that is the first for its port lands when there is room; none when it must wait on (R343, R175). -/
def State.landHeldPost (s : State) (held : Bool) (h : HeldPost) : Option State :=
  if s.xlate.parked.any fun q => decide (q.who = .post h.id) then none else
  match s.portAt h.port with
  | .bad c => some (s.dropPost h c)
  | .wait ctx ps => some (s.park ctx (.post h.id) ps)
  | .at_ t i p =>
    if p.room then
      let s1 := { s with eng := { s.eng with posts := s.eng.posts.filter fun q => decide (q.id ≠ h.id) } }
      let s2 := s1.writePort t i { p with held := p.held ++ [h.msg] }
      some (if held then s2.emitJoin t 2 i 0 else s2)
    else none

/-- The posts held for a port of this module that have room land before any new reservation is made (R334). -/
def State.flushPosts (s : State) (n : Int) : State :=
  (s.eng.posts.filter fun h => decide (h.port = n)).foldl (fun s h =>
    match s.eng.posts.find? fun q => decide (q.port = n) with
    | some q => if q.id = h.id then (match s.landHeldPost true h with | some s' => s' | none => s) else s
    | none => s) s

/-- The outcome of a reservation. -/
inductive Reserve where
  | taken (s : State)
  | full
  | bad (c : Cause)
  | wait (ctx : Nat) (ps : List (Int × Int))
  deriving DecidableEq, Repr

/-- The reservations of a port of this module raised by n; no line shows them (R386). -/
def State.addReserved (s : State) (t : Team) (i : Nat) (n : Int) : State :=
  s.modTeam t.key fun u => { u with ports := mapAt i (fun (p : Port) => { p with reserved := ((p.reserved : Int) + n).toNat }) u.ports }

/-- A place reserved in a port of this module (R334). -/
def State.reserve (s : State) (n : Int) : Reserve :=
  let s := s.flushPosts n
  match s.portAt n with
  | .bad c => .bad c
  | .wait ctx ps => .wait ctx ps
  | .at_ t i p => if p.room then .taken (s.addReserved t i 1) else .full

/-- A reservation of a port given back (R334). -/
def State.unreserve (s : State) (n : Int) : State :=
  match s.team? (nameTeam n).toNat with
  | none => s
  | some t => s.addReserved t (nameIndex n).toNat (-1)

/-- A message lands at a reserved place (R335). -/
def State.landPost (s : State) (n m : Int) : State :=
  match s.portAt n with
  | .at_ t i p => s.writePort t i { p with held := p.held ++ [m], reserved := p.reserved - 1 }
  | _ => s.unreserve n

/-- A post fired by a binding, or made by a correction (R343, R417): it lands, is held, or is dropped. One to a port of another module
goes there and is held there, in the order in which the posts to the port come (R343). -/
def State.firePost (s : State) (ctx : Nat) (port msg : Int) : State :=
  let h : HeldPost := { id := s.eng.nextId, port := port, msg := msg, ctx := ctx }
  let s1 := { s with eng := { s.eng with posts := s.eng.posts ++ [h], nextId := h.id + 1 } }
  match s.portNameFault port with
  | some c => s1.dropPost h c
  | none =>
    if nameModule port ≠ s.modul then
      let o := s.originOf ctx
      let agency := match s.ctx? ctx with | some c => c.agency | none => 0
      s.send agency (nameModule port) (.request 0 o.1 o.2 (.fired port msg))
    else if s.eng.posts.any (fun q => decide (q.port = port)) then s1
    else match s1.landHeldPost false h with | some s2 => s2 | none => s1

/-- A post made by a correction (R417): to a port of another module it is held at the root until there is room. -/
def State.postAtRoot (s : State) (ctx : Nat) (port msg : Int) : State :=
  if (s.portNameFault port).isNone && decide (nameModule port ≠ s.modul) then
    { s with eng := { s.eng with
        posts := s.eng.posts ++ [{ id := s.eng.nextId, port := port, msg := msg, ctx := ctx }], nextId := s.eng.nextId + 1 } }
  else s.firePost ctx port msg

/-- A post that the root of a reduction holds for a port of another module a step further: a place is reserved there, again and again while
the port is full, and the message lands in it (R334, R417). -/
def State.landFarPost (s : State) (h : HeldPost) : Option State :=
  let p : Parker := .post h.id
  let agency := match s.ctx? h.ctx with | some c => c.agency | none => 0
  match s.portNameFault h.port with
  | some c => some ((s.dropWaits p).dropPost h c)
  | none =>
    match s.answers p [{ key := 0, modul := nameModule h.port, lanes := [], addr := 0, len := 0, req := .reserve h.port }] with
    | .pending missing => if missing = [] then none else some (s.askFor p agency h.ctx missing)
    | .bad fs =>
      match fs with
      | (_, .portFull) :: _ => some (s.dropWaits p)
      | f :: _ => some ((s.dropWaits p).dropPost h f.2)
      | [] => none
    | .all _ =>
      let s1 := s.dropWaits p
      some (({ s1 with eng := { s1.eng with posts := s1.eng.posts.filter fun q => decide (q.id ≠ h.id) } } : State).send agency
        (nameModule h.port) (.request 0 s.modul h.ctx (.land h.port h.msg)))

/-- The home of a place: where bindings of signals are held (R163, R342). The banks of a scratchpad, of chip scratchpads
and of private slices are each taken as one home. -/
def Loc.home (l : Loc) : Nat × Nat :=
  match l with
  | .hbm p => (0, p / 19683 / stackFrames * 27 + (243 * (p / 19683 % stackFrames) + p % 19683 / 81) % 27)
  | .scratch t _ => (1, t)
  | .chip g _ => (2, g)
  | .lane t _ _ => (3, t)
  | .peer m _ => (4, m)
  | .window n _ => (5, n.natAbs)
  | .peerWin m _ _ => (4, m)

/-- The home of a place holds as many bindings as it can, none of them for the place (R342). -/
def State.bindFull (s : State) (l : Loc) : Bool :=
  let bs := s.eng.bindings.filter fun b => decide (b.loc.home = l.home)
  decide (bs.length ≥ 243) && !bs.any fun b => decide (b.loc = l)

/-- What an update leaves: the new value, whether it is written, the value returned, flags (R226, R341). -/
structure Updated where
  new   : Int
  wr    : Bool
  ret   : Int
  flags : FlagSet
  deriving DecidableEq, Repr

/-- The result of an update on the old value (R226, R228, R341). -/
def applyUpdate (u : Update) (old : Int) : Updated :=
  let n := if u.ty = .i54 then 54 else 27
  match u.op with
  | .add =>
    if u.ty = .f27 then (let r := f27.add u.rnd u.draw old u.v; ⟨r.val, true, old, r.flags⟩)
    else ⟨wrap n (old + u.v), true, old, 0⟩
  | .min => ⟨if u.ty = .f27 then f27.min old u.v else Min.min old u.v, true, old, 0⟩
  | .max => ⟨if u.ty = .f27 then f27.max old u.v else Max.max old u.v, true, old, 0⟩
  | .swp => ⟨u.v, true, old, 0⟩
  | .cas => if old = u.cmp then ⟨u.v, true, old, 0⟩ else ⟨old, false, old, 0⟩
  | .sigAdd => ⟨wrap 54 (old + u.v), true, wrap 54 (old + u.v), 0⟩
  | .bind _ _ => ⟨old, false, old, 0⟩

/-- The trytes that an update covers. -/
def updateLen (u : Update) : Nat := if u.ty = .i54 then 6 else 3

/-- The binding of a signal fires: it is removed and its message is posted (R343). A place that is only kept for a binding (R342) has
the port 0 and does not fire. -/
def State.fireBinding (s : State) (l : Loc) : State :=
  match s.eng.bindings.find? fun b => decide (b.loc = l) && decide (b.port ≠ 0) with
  | none => s
  | some b =>
    let s1 := { s with eng := { s.eng with bindings := s.eng.bindings.filter fun q => decide (q.loc ≠ l) } }
    s1.firePost b.ctx b.port b.msg

/-- The binding of a signal set, replaced or removed, and fired at once when the signal is 0 (R342). -/
def State.bindSignal (s : State) (ctx : Nat) (l : Loc) (value port msg : Int) : State :=
  let bs := s.eng.bindings.filter fun q => decide (q.loc ≠ l)
  if port = 0 then { s with eng := { s.eng with bindings := bs } }
  else
    let s1 := { s with eng := { s.eng with bindings := { loc := l, ctx := ctx, port := port, msg := msg } :: bs } }
    if value = 0 then s1.fireBinding l else s1

/-- One update at its serialisation point, as one access (R190, R341, R342). -/
def State.update (s : State) (ctx : Nat) (ls : List Loc) (u : Update) : State × Updated :=
  let old := s.readLocs false ls
  let r := applyUpdate u old
  let s1 := if r.wr then s.writeLocs false ls (toTrytes (updateLen u) r.new) else s.passThrough false ls
  let l := ls.headD (.hbm 0)
  match u.op with
  | .sigAdd => (if old ≠ 0 ∧ r.new = 0 then s1.fireBinding l else s1, r)
  | .bind port msg => (s1.bindSignal ctx l (if old = 0 then u.cmp else old) port msg, r)
  | _ => (s1, r)

/-- What an update of places comes to: made, with what it returns; waiting for peers, with what it has set going; refused. -/
inductive FarUpdate where
  | done (s : State) (ret : Int) (f : FlagSet)
  | waits (s : State)
  | bad (c : Cause)
  deriving DecidableEq, Repr

/-- What peers have told of the places of an update, by the requests with keys from base + 1 on. -/
def toldAt (base j : Nat) (rem : List (Nat × RemoteReply)) : Int :=
  (rem.findSome? fun q => match q.2 with | .vals vs => if q.1 ≤ base + 1 + j then vs[base + 1 + j - q.1]? else none | _ => none).getD 0

/-- The end of an update of which peers have made their parts: that of this module, and what follows for a signal; a binding fires at the
home of the first tryte (R342, R343). -/
def State.endSplit (s : State) (p : Parker) (agency ctx : Nat) (ls : List Loc) (u : Update) (old : Int) : FarUpdate :=
  let r := applyUpdate u old
  let fire : Bool := decide (u.op = .sigAdd) && decide (old ≠ 0) && decide (r.new = 0)
  let head := ls.headD (.hbm 0)
  let own := (ls.zip (toTrytes ls.length r.new)).filter fun l => !l.1.isPeer
  let s0 := s.unhold p
  let s1 := if r.wr then s0.writeLocs false (own.map Prod.fst) (own.map Prod.snd) else s0.passThrough false ls
  let s2 :=
    match head, u.op with
    | .peer m q, .sigAdd => if fire then s1.send agency m (.request 0 s.modul ctx (.zeroed q)) else s1
    | .peer m q, .bind _ _ => s1.send agency m (.request 0 s.modul ctx (.update q { u with ty := .i27, cmp := if old = 0 then 0 else 1 }))
    | _, .sigAdd => if fire then s1.fireBinding head else s1
    | _, .bind port msg => s1.bindSignal ctx head old port msg
    | _, _ => s1
  .done s2 r.ret r.flags

/-- An answer to one of somebody's requests replaced by another. -/
def State.answerAs (s : State) (p : Parker) (key : Nat) (r : RemoteReply) : State :=
  { s with fab := { s.fab with waits := mapIf (fun w => decide (w.who = p) && decide (w.key = key)) (fun w => { w with reply := some r }) s.fab.waits } }

/-- One of somebody's requests forgotten. -/
def State.dropWait (s : State) (p : Parker) (key : Nat) : State :=
  { s with fab := { s.fab with waits := s.fab.waits.filter fun w => decide (w.who ≠ p) || decide (w.key ≠ key) } }

/-- The update of a double of which a peer holds one word and this module the other (R190): the peer's word is read, then replaced if it is
still what was read, this module's word being kept meanwhile; else the update is computed anew from what the word was (log 83). -/
def State.swapHalf (s : State) (p : Parker) (agency ctx base : Nat) (a : Int) (ls : List Loc) (u : Update) (m q j : Nat) (old : Int) : FarUpdate :=
  let was := sub (9 * j) 27 old
  let want := sub (9 * j) 27 (applyUpdate u old).new
  let own := ls.filter fun l => !l.isPeer
  if !(applyUpdate u old).wr || decide (want = was) then s.endSplit p agency ctx ls u old
  else
    let swap : RemReq :=
      { key := base + 32, modul := m, lanes := [], addr := a, len := ls.length, req := .update q ⟨.cas, .i27, want, was, .near, 0⟩ }
    match s.answers p [swap] with
    | .pending [] => .waits s
    | .pending missing =>
      if s.taken p m then .waits s else .waits ((s.noteFor p s.modul ctx lockKey (some (own, u))).askFor p agency ctx missing)
    | .all [(_, .vals vs)] =>
      if vs.getD 0 0 = was then s.endSplit p agency ctx ls u old
      else .waits (((s.answerAs p (base + 1 + j) (.vals (toTrytes 3 (vs.getD 0 0)))).dropWait p (base + 32)).dropWait p lockKey)
    | _ => s.endSplit p agency ctx ls u old

/-- The update of a double that lies with several owners, or in a debug window of a peer (R190, log 83): its parts are read, then written;
nothing of this module looks there meanwhile. -/
def State.splitUpdate (s : State) (p : Parker) (agency ctx base : Nat) (a : Int) (ls : List Loc) (u : Update) : FarUpdate :=
  let far := farRuns ls
  let rq (off : Nat) (f : Nat × List Loc → RemoteReq) : List RemReq := far.map fun r =>
    ({ key := base + off + r.1, modul := runModule r.2, lanes := [], addr := a, len := ls.length, req := f r } : RemReq)
  if s.locked p ls then .waits s else
  match s.answers p (rq 1 fun r => runLoad false r.2) with
  | .pending missing => .waits (s.askParts p agency ctx true missing)
  | .bad fs => .bad (match fs with | f :: _ => f.2 | [] => .ownerFenced)
  | .all rem =>
    let old := ofTrytes (ls.zipIdx.map fun l => if l.1.isPeer then toldAt base l.2 rem else s.readLoc false l.1)
    let r := applyUpdate u old
    match far with
    | [(j, .peer m q :: _)] => s.swapHalf p agency ctx base a ls u m q j old
    | _ =>
      if !r.wr then s.endSplit p agency ctx ls u old
      else
        match s.answers p (rq 32 fun q => runStore false q.2 (((toTrytes ls.length r.new).drop q.1).take q.2.length)) with
        | .pending missing => .waits (s.askFor p agency ctx missing)
        | _ => s.endSplit p agency ctx ls u old

/-- The request by which one peer updates a double that it holds. -/
def runUpdate (ls : List Loc) (q : Nat) (u : Update) : RemoteReq := match runApart ls with | some ps => .updates ps u | none => .update q u

/-- An update of places, wherever they are, for somebody whose requests to peers have keys from base on (R190, R402): at once where
this module holds them, by one request where one peer does. -/
def State.farUpdate (s : State) (p : Parker) (agency ctx base : Nat) (a : Int) (ls : List Loc) (u : Update) : FarUpdate :=
  if !ls.any Loc.isPeer then
    if s.locked p ls then .waits s else let q := s.update ctx ls u; .done q.1 q.2.ret q.2.flags
  else
    match placeRuns 0 ls with
    | [(_, .peer m q :: _)] =>
      match s.answers p [{ key := base, modul := m, lanes := [], addr := a, len := ls.length, req := runUpdate ls q u }] with
      | .pending missing => .waits (s.askFor p agency ctx missing)
      | .bad fs => .bad (match fs with | f :: _ => f.2 | [] => .ownerFenced)
      | .all rem =>
        match rem with
        | (_, .vals vs) :: _ => .done s (vs.getD 0 0) (writtenFlags (vs.getD 1 0))
        | _ => .done s 0 0
    | _ => s.splitUpdate p agency ctx base a ls u

/-- What the device does for somebody comes to: done or logged, waiting for a peer, or waiting for pages. -/
inductive DevStep where
  | done (s : State)
  | waits (s : State)
  | migr (ps : List (Int × Int))
  deriving DecidableEq, Repr

/-- The first key of the requests by which the device decrements a signal. -/
def signalKey : Nat := 8388608

/-- The device decrements a signal for somebody, the last thing that it does for them, its address checked under a
context (R150); a failing one is logged with a word. -/
def State.decrementSignal (s : State) (p : Parker) (c : Context) (a word : Int) : DevStep :=
  let w : Who := { ctx := c, team := none, gang := 0, lane := none, core := none }
  let fail (s : State) (e : Cause) : DevStep := .done ((s.dropWaits p).logEvent c.num ⟨a, word, e, 0, 0, 0, 0, 0⟩ 0)
  match (if a % 3 ≠ 0 then Xs.bad .misaligned else s.locate w .rmw a 6) with
  | .migr ps => .migr ps
  | .bad e => fail s e
  | .ok ls =>
    if ls.any fun l => s.badLoc l then fail (s.noteBad ls) .uncorrectable
    else
      let s0 := if (s.waitsOf p).any fun w => decide (w.key ≥ signalKey) then s else s.touch w .rmw a ls
      match s0.farUpdate p c.agency c.num signalKey a ls ⟨.sigAdd, .i54, -1, 0, .near, 0⟩ with
      | .done s1 _ _ => .done (s1.dropWaits p)
      | .waits s1 => .waits s1
      | .bad e => fail s e

end Sys2Proof.Machine
end

