-- ==== Sys2Proof/Machine/Engine.lean ====
section
/-!
DEFINITION. What the copy, job, link and matrix engines share: their event records (R436), the watchpoints that their
accesses meet (R445, R447), reading and writing places for a command (R242, R402), when an engine may start one, and what a scope
covers (R187, R188).
-/
namespace Sys2Proof.Machine

/-- The agency of a context. -/
def State.agencyOf (s : State) (ctx : Nat) : Nat := match s.ctx? ctx with | some c => c.agency | none => 0

/-- A die is too hot for any work (R469). -/
def State.overheated (s : State) : Bool := s.trust.temps.any fun t => decide (t.2 > 95)

/-- An engine may start a command for a gang: its agency's records are written, no watch stop holds and no die is too hot
(R440, R447, R469). -/
def State.mayStart (s : State) (ctx team gang : Nat) : Bool :=
  !s.overheated && decide (s.heldRecords (s.agencyOf ctx) = 0) && (match s.gang? team gang with | some g => !g.engStop | none => true)

/-- The comparators that an engine access for a gang matches: number, stop, lowest match (R445). -/
def State.engineHits (s : State) (ctx team gang : Nat) (wr : Bool) (a : Int) (n : Nat) (ls : List Loc) : List (Nat × Bool × Int) :=
  s.scope.watches.filterMap fun (w : Watch) =>
    let mine : Bool := if w.target = (0 : Int) then decide (w.ctx = ctx) else decide (w.target = s.nameOf team (gang % 27))
    let kind : Bool := decide (w.access = (0 : Int)) || (decide (w.access = (1 : Int)) && wr) || (decide (w.access = (-1 : Int)) && !wr)
    if !(mine && kind) then none
    else if w.n ≤ 8 then
      if a < w.start + w.len ∧ w.start < a + (n : Int) then some (w.n, w.stop, Max.max a w.start) else none
    else if w.n ≤ 14 then
      match (ls.filterMap fun l => l.scratchOff team).filter fun o => decide (w.start ≤ (o : Int)) && decide ((o : Int) < w.start + w.len) with
      | o :: _ => some (w.n, w.stop, (o : Int))
      | [] => none
    else none

/-- An engine access seen by the watchpoints: a record for each match, and whether one of them stops (R446, R447). -/
def State.engineWatch (s : State) (src ctx team gang : Nat) (wr : Bool) (a : Int) (n : Nat) (ls : List Loc) : State × Bool :=
  let hs := s.engineHits ctx team gang wr a n ls
  let agency := s.agencyOf ctx
  let slot : Int := match s.gang? team gang with | some g => (g.slot : Int) - 13 | none => 0
  let s1 := hs.foldl (fun s h =>
    match s.cfg? agency with
    | none => s
    | some _ =>
      s.traceStream agency src s.clock.cycle false
        [record (-3) slot (if wr then 1 else -1) ((h.1 : Int) :: (toTrytes 4 (wrap 36 h.2.2) ++ nameTrytes (s.nameOf team (gang % 27))))]) s
  if hs.any fun h => h.2.1 then (s1.modGang team gang fun g => { g with engStop := true }, true) else (s1, false)

/-- An engine event of a gang's command (R432, R436). -/
def State.engineEvent (s : State) (src ctx team gang : Nat) (queue code num : Int) : State :=
  s.emitEngine (s.agencyOf ctx) src queue code (s.nameOf team (gang % 27)) num

/-- The requests by which an engine reads places on peers. -/
def readReqs (bin : Bool) (a : Int) (ls : List Loc) : List RemReq :=
  (farRuns ls).map fun r => { key := r.1, modul := runModule r.2, lanes := [], req := runLoad bin r.2, addr := a, len := ls.length }

/-- Places have more owners than one. -/
def severalOwners (ls : List Loc) : Bool := decide ((placeRuns 0 ls).length > 1)

/-- The values of places, those of peers from their answers. -/
def State.readWith (s : State) (bin : Bool) (ls : List Loc) (rem : List (Nat × RemoteReply)) : List Int :=
  let peerVal (j : Nat) : Int :=
    (rem.findSome? fun p => match p.2 with | .vals vs => if p.1 ≤ j ∧ j < p.1 + vs.length then vs[j - p.1]? else none | _ => none).getD 0
  ls.zipIdx.map fun p => if p.1.isPeer then peerVal p.2 else s.readLoc bin p.1

/-- Lines touched by an engine of a context at an address (R465). -/
def State.engineTouch (s : State) (ctx : Nat) (op : AccOp) (a : Int) (ls : List Loc) : State :=
  match s.ctx? ctx with
  | some c => s.touch (Who.device c) op a ls
  | none => s

/-- Trytes that an engine writes: address, place, value. -/
abbrev Cells := List (Int × Loc × Int)

/-- The trytes from an address on. -/
def cellsAt (a : Int) (ls : List Loc) (vs : List Int) : Cells := (atAddr a ls).zipWith (fun c v => (c.1, c.2, v)) vs

/-- A tryte with the trits where the mask is not 0 taken from another. -/
def patchTrits (old val mask : Int) : Int := ofTrits ((List.range 9).map fun i => if tritAt i mask ≠ 0 then tritAt i val else tritAt i old)

/-- The requests by which an engine's writes enter at peers: one for each module. Where several owners have parts, they are held until
all have entered (log 83). -/
def enterReqs (bin : Bool) (cs : Cells) : List RemReq :=
  let far : List (Nat × Nat × Int) := cs.filterMap fun c => match c.2.1 with | .peer m p => some (m, p, c.2.2) | _ => none
  let as := cs.map Prod.fst
  let lo := as.foldl Min.min (as.headD 0)
  let hi := as.foldl Max.max (as.headD 0)
  let ms := (far.map Prod.fst).eraseDups
  let first := if decide (ms.length > 1) || cs.any fun c => !c.2.1.isPeer then commitKey else soloKey
  ms.zipIdx.map fun m =>
    { key := first + m.2, modul := m.1, lanes := [], addr := lo, len := (hi - lo + 1).toNat,
      req := .stores ((far.filter fun f => decide (f.1 = m.1)).map Prod.snd) bin }

/-- An engine's writes enter together (R198, R199): at the peers that hold some of them first, and once these have served them, or
are fenced (R404), here. The state in which they wait, or the state with all of them. -/
def State.enterAll (s : State) (p : Parker) (w : Who) (bin : Bool) (cs : Cells) : Except State State :=
  if s.locked p (cs.map fun c => c.2.1) then .error s else
  match s.answers p (enterReqs bin cs) with
  | .pending missing => .error (s.askFor p w.ctx.agency w.ctx.num missing)
  | _ =>
    let own := cs.filter fun c => !c.2.1.isPeer
    .ok (((s.dropWaits p).touchAt w (if bin then .binStore else .store) (cs.map fun c => (c.1, c.2.1))).writeLocs bin
      (own.map fun c => c.2.1) (own.map fun c => c.2.2))

/-- The part of a line that cannot be corrected among trytes that an engine writes: its address (R249). -/
def State.badCell (s : State) (cs : Cells) : Option Int :=
  if s.mem.badLines = [] then none
  else
    let whole := wholeOf (hbmOf (cs.map fun c => c.2.1))
    let part (l : Loc) : Bool := match l with | .hbm p => !whole.contains (p / 81) | _ => false
    (cs.find? fun c => s.badLoc c.2.1 && part c.2.1).map Prod.fst

/-- What a scope can cover (R187): the slices, the scratchpad banks and the copy queue of a core, the engines of a cluster, a slice of a
die's shared cache, a host port, a module with all that it holds. -/
inductive ScopeAgent where
  | slices (core : Nat)
  | banks (core : Nat)
  | queue (core : Nat)
  | engines (cluster : Nat)
  | cache (die slice : Nat)
  | port (p : Nat)
  | modul (m : Nat)
  deriving DecidableEq, Repr

/-- The modules that a scope covers (R187, R400). -/
def State.coversModule (s : State) (scope : Scope) (m : Nat) : Bool :=
  let row (i : Nat) : Bool := (s.fab.scopes.getD i []).contains m
  decide (m = s.modul) ||
    match scope with
    | .core | .cluster | .die | .modul => false
    | .hop1 => row 0
    | .hop2 => row 1
    | .hop3 => row 2

/-- An agent is covered by a scope for an agent on core c (R187): each row covers the row before it. -/
def State.covers (s : State) (scope : Scope) (c : Nat) (a : ScopeAgent) : Bool :=
  match a with
  | .modul m => (match scope with | .core | .cluster | .die => false | _ => s.coversModule scope m)
  | .slices d | .banks d | .queue d =>
    match scope with
    | .core => decide (c = d)
    | .cluster => decide (c / 8 = d / 8)
    | .die => decide (c / 64 = d / 64)
    | _ => true
  | .engines k =>
    match scope with
    | .core => false
    | .cluster => decide (c / 8 = k)
    | .die => decide (c / 64 = k / 8)
    | _ => true
  | .cache d _ => (match scope with | .core | .cluster => false | .die => decide (c / 64 = d) | _ => true)
  | .port _ => (match scope with | .core | .cluster | .die => false | _ => true)

/-- The leases that covered cores of this module hold on lines are ended (R188). A peer ends those of its own when it serves the write
(log 84). -/
def State.endLeases (s : State) (scope : Scope) (core : Nat) (lines : List Nat) : State :=
  { s with mem := { s.mem with leases := s.mem.leases.filter fun l => !(lines.contains l.line && s.covers scope core (.slices l.core)) } }

/-- What a read by an engine comes to. -/
inductive EngRead where
  | ok (vs : List Int) (ls : List Loc) (s : State)
  | bad (c : Cause) (s : State)
  | migr (ps : List (Int × Int))
  /-- It waits for a peer; what it has set going. -/
  | wait (s : State)
  deriving DecidableEq, Repr

/-- n trytes read by an engine for somebody; pre are causes found before translation. -/
def State.engineRead (s : State) (w : Who) (p : Parker) (op : AccOp) (a : Int) (n : Nat) (pre : List Cause) : EngRead :=
  if (match s.dieOf p with | some d => s.walkersBusy d w a n | none => false) then .wait s else
  let x := s.locate w op a n
  match firstOf (pre ++ match x with | .bad c => [c] | _ => []) with
  | some c => .bad c (if c = .uncorrectable then s.noteWalk w a else s)
  | none =>
    match x with
    | .bad c => .bad c s
    | .migr ps => .migr ps
    | .ok ls =>
      if ls.any fun l => s.badLoc l then .bad .uncorrectable (s.noteBad ls)
      else if s.locked p ls then .wait s
      else
        match s.answers p (readReqs op.bin a ls) with
        | .bad fs => .bad (match fs with | f :: _ => f.2 | [] => .ownerFenced) s
        | .pending missing => .wait (s.askParts p w.ctx.agency w.ctx.num (severalOwners ls) missing)
        | .all rem => .ok (s.readWith op.bin ls rem) ls ((s.dropWaits p).touch w op a ls)

end Sys2Proof.Machine
end

