-- ==== Sys2Proof/Machine/Control.lean ====
section
/-!
DEFINITION. Control transfer (R85 to R87) and the system major (R88 to R93, R260).
-/
namespace Sys2Proof.Machine

/-- An indirect record (R436): slot, slice, what transferred, target. -/
def Iss.emitIndirect (x : Iss) (k : Nat) (what target : Int) (s : State) : State :=
  s.emit x.ctx.agency x.team.core 0
    (record 5 ((x.gang.slot : Int) - 13) k (what :: toTrytes 4 (wrap 36 target)))

/-- A fault of every lane of a slice. -/
def sliceFault (k : Nat) (c : Cause) (a : Int) : List (Nat × Cause × Int) := (lanesOf [k]).map fun l => (l, c, a)

/-- The fault of a slice's target, where it has one (R87). -/
def targetFaults (k : Nat) (a : Int) : List (Nat × Cause × Int) :=
  match targetFault a with
  | some c => sliceFault k c a
  | none => []

/-- A control transfer (R86, R87): each slice goes to its target, the link register receives the address of the next
instruction, and slices that part form sub-gangs (R133). -/
def transfer (target : Iss → Nat → Int) (link : Option SReg) (rec : Iss → State → State) (s : State) : Answer :=
  issueWith true false false
    (fun x => { Uses.none with
      dests := (match link with | some r => x.sDests r | none => []), faults := x.slices.flatMap fun k => targetFaults k (target x k) })
    (fun x _ s =>
      let lk (y : Slice) : Slice := match link with | some r => y.set r (y.pc + 3) | none => y
      let s1 := x.modGang (fun g => (g.modSlices x.slices fun k y => { lk y with pc := target x k }).regroup x.slices) s
      .ok (rec x s1)) s

/-- The program counter of slice k. -/
def Iss.pc (x : Iss) (k : Nat) : Int := (x.gang.slice k).pc

/-- The test of a branch condition (R48). -/
def condHolds (c : Cond) (v : Int) : Bool :=
  match c with
  | .always => true
  | .gt => decide (v > 0)
  | .lt => decide (v < 0)
  | .ge => decide (v ≥ 0)
  | .le => decide (v ≤ 0)
  | .eq => decide (v = 0)
  | .ne => decide (v ≠ 0)
  | .lp => decide (tritAt 0 v = 1)
  | .ln => decide (tritAt 0 v = -1)
  | .lz => decide (tritAt 0 v = 0)

/-- A branch record (R436): the outcome trit of each slice. -/
def Iss.emitBranch (x : Iss) (f : Nat → Int) (s : State) : State :=
  s.emit x.ctx.agency x.team.core 0
    (record 3 ((x.gang.slot : Int) - 13) 0 [(x.slices.map fun k => pow3 k * f k).sum])

/-- B (R86). -/
def execB (c : Cond) (r : SReg) (disp : Int) (s : State) : Answer :=
  transfer (fun x k => x.pc k + (if condHolds c (x.s k r) then 3 * disp else 3)) none
    (fun x s => if c = .always then s else x.emitBranch (fun k => if condHolds c (x.s k r) then 1 else 0) s) s

/-- B3 (R86). -/
def execB3 (r : SReg) (neg pos : Int) (s : State) : Answer :=
  transfer (fun x k => x.pc k + (if x.s k r < 0 then 3 * neg else if x.s k r > 0 then 3 * pos else 3)) none
    (fun x s => x.emitBranch (fun k => cmpTrit (x.s k r) 0) s) s

/-- CALL (R86). -/
def execCall (link : SReg) (disp : Int) (s : State) : Answer :=
  transfer (fun x k => x.pc k + 3 * disp) (some link) (fun _ s => s) s

/-- JR (R86). -/
def execJr (r : SReg) (s : State) : Answer :=
  transfer (fun x k => x.s k r) none (fun x s => x.slices.foldl (fun s k => x.emitIndirect k 1 (x.s k r) s) s) s

/-- JALR (R86). -/
def execJalr (link r : SReg) (s : State) : Answer :=
  transfer (fun x k => x.s k r) (some link) (fun x s => x.slices.foldl (fun s k => x.emitIndirect k 1 (x.s k r) s) s) s

/-- RET (R86). -/
def execRet (r : SReg) (s : State) : Answer :=
  transfer (fun x k => x.s k r) none (fun x s => x.slices.foldl (fun s k => x.emitIndirect k 2 (x.s k r) s) s) s

/-- NOP (R88). -/
def execNop (s : State) : Answer := issue (fun _ => Uses.none) (fun _ _ s => .ok s) s

/-- TRAP (R89). -/
def execTrap (r : SReg) (code : Int) (s : State) : Answer :=
  issueWith true false false (fun _ => Uses.none)
    (fun x _ _ =>
      let t := Trap.of x.lanes .softwareTrap
      .error (.trap { t with args := x.slices.map (fun k => (k, x.s k r)), imm := code, after := true })) s

/-- BRK (R89, R448). -/
def execBrk (code : Int) (s : State) : Answer :=
  issueWith true false false (fun _ => Uses.none)
    (fun x _ s =>
      if s.debugged x.issue.team x.issue.gang then .error (.halt .breakpoint (x.advance s))
      else
        let t := Trap.of x.lanes .breakpoint
        .error (.trap { t with imm := code, after := true })) s

/-- The gang once slices have executed RETT. -/
def Gang.returning (g : Gang) (ks : List Nat) : Gang :=
  { g with bank := g.bank.map fun (b : Bank) => { b with returned := b.returned ++ ks } }

/-- The faults of RETT (R90, R260): outside a handler; or, where it is the last of the trapped set, the addresses to which the slices
that have not ended would return. -/
def Iss.rettFaults (x : Iss) : List (Nat × Cause × Int) :=
  if !x.gang.inHandler then x.lanes.map fun l => (l, .returnOutside, 0)
  else if (x.gang.returning x.slices).allReturned then
    x.gang.returnFaults.flatMap fun f => sliceFault f.1 f.2 (getZ 19 (x.gang.slice f.1).s)
  else []

/-- RETT (R90, R260): the slice waits for the rest of the trapped set; the last to come returns them all. -/
def execRett (s : State) : Answer :=
  issueWith true false false (fun x => { Uses.none with faults := x.rettFaults })
    (fun x _ s =>
      let s1 := x.slices.foldl (fun s k => x.emitIndirect k 3 (getZ 19 (x.gang.slice k).s) s) s
      .ok (x.modGang (fun g =>
        let g1 := g.returning x.slices
        if g1.allReturned then g1.returnFromTrap
        else g1.modSlices x.slices fun _ y => { y with wait := some .rett, fate := .waits }) s1)) s

/-- EXIT (R88). -/
def execExit (s : State) : Answer :=
  issueWith true false false (fun _ => Uses.none)
    (fun x _ s => .ok (s.endSlices x.issue.team x.issue.gang x.slices)) s

/-- The content of a special register for slice k (R91). -/
def Iss.special (x : Iss) (s : State) (k : Nat) (sr : SpecialReg) : Int :=
  match sr with
  | .core => x.team.core
  | .cluster => x.team.core / 8
  | .die => x.team.core / 64
  | .modul => s.modul
  | .team => x.team.index
  | .gang => x.gang.idx
  | .slice => k
  | .depth => x.grid.depth
  | .moves => x.team.moves
  | .mode => x.gang.mode
  | .flags => x.gang.flags
  | .tenant => x.ctx.agency
  | .time => s.clock.fabric

/-- RDSR (R91). -/
def execRdsr (r : SReg) (sr : SpecialReg) (s : State) : Answer :=
  issue (fun x => { Uses.none with dests := x.sDests r })
    (fun x _ s => .ok (x.setS r (x.slices.map fun k => (k, x.special s k sr)) s)) s

/-- The lanes of the slices that satisfy p, with a cause. -/
def Iss.sliceFaults (x : Iss) (p : Nat → Bool) (c : Cause) : List (Nat × Cause × Int) :=
  (lanesOf (x.slices.filter p)).map fun l => (l, c, 0)

/-- The rounding code that a value would place in sr.mode is usable (R24). -/
def usableRounding (v : Int) : Bool :=
  let c := sub 0 2 v
  decide (c = 1) || decide (c = -1) || decide (c = 2) || decide (c = -2) || decide (c = 3)

/-- The faults of a write of a special register (R24, R91, R92). -/
def Iss.wrsrFaults (x : Iss) (r : SReg) (sr : SpecialReg) : List (Nat × Cause × Int) :=
  match sr with
  | .mode => x.sliceFaults (fun k => !usableRounding (x.s k r)) .roundingNotUsable
  | .flags => []
  | .tenant =>
    if !x.ctx.priv then x.lanes.map fun l => (l, .privilegedReg, 0)
    else x.sliceFaults (fun k => decide (x.s k r < 0) || decide (x.s k r > 242)) .valueRange
  | _ => x.lanes.map fun l => (l, .srNotWritable, 0)

/-- WRSR (R91, R92, R30): in ascending slice order, so the highest slice's value remains. -/
def execWrsr (r : SReg) (sr : SpecialReg) (s : State) : Answer :=
  issue (fun x => { Uses.none with faults := x.wrsrFaults r sr })
    (fun x _ s =>
      let last := x.s (x.slices.getLastD 0) r
      match sr with
      | .mode => .ok (x.modGang (fun g => { g with mode := setSub 0 2 (sub 0 2 last) g.mode }) s)
      | .flags => .ok (x.modGang (fun g => { g with flags := writtenFlags last }) s)
      | .tenant => .ok (s.modCtx x.ctx.num fun c => { c with agency := last.toNat })
      | _ => .ok s) s

/-- The set of a REGANG is invalid: a trit -1, or a slice of the issue set that it does not name (R93). -/
def Iss.regangInvalid (x : Iss) (set : Int) : Bool := hasMinus 9 set || x.slices.any fun k => !(x.gang.named set).contains k

/-- REGANG (R93, R144). A SYNCS is no arrival with its set at its address: those that wait there disagree with it (log 85). -/
def execRegang (set : Int) (s : State) : Answer :=
  issueWith true false false
    (fun x => { Uses.none with faults := if x.regangInvalid set then x.lanes.map fun l => (l, .setInvalid, 0) else [] })
    (fun x _ s =>
      let addr := x.pc x.low
      let names := x.gang.named set
      if x.gang.phaser.parts ≠ [] ∨ x.gang.regangClash set addr ≠ [] then
        .error (.trapWith (.of x.lanes .setsDisagree) (x.modGang Gang.disagree s))
      else if names.any fun k => (x.gang.slice k).ended then
        let owed (g : Gang) : Gang := Gang.owe { g with regangs := [] } (g.regangs.map Regang.slice) .participantEnded
        .error (.trapWith (.of x.lanes .participantEnded) (x.modGang owed s))
      else .ok (x.modGang (fun g => g.regang x.slices set addr) s)) s

end Sys2Proof.Machine
end

