-- ==== Sys2Proof/Machine/Sync.lean ====
section
/-!
DEFINITION. Phasers and synchronisation (R118 to R124, R140): explicit phasers, YIELD, BAR, SYNCS, and register blocks.
What releases a wait stands in Machine/Release.lean, PHASE in Machine/Phases.lean.
-/
namespace Sys2Proof.Machine

/-- The phaser at a place, if its team is there. -/
def State.phTeam (s : State) (p : Nat × Nat) : Option Team := s.team? p.1

/-- The phase of the phaser at a place. -/
def State.phPhase (s : State) (p : Nat × Nat) : Int := match s.phTeam p with | some t => t.phPhase p.2 | none => 0
/-- The phaser at a place is malformed. -/
def State.phBad (s : State) (p : Nat × Nat) : Bool := match s.phTeam p with | some t => t.phBad p.2 | none => false

/-- The phaser that slice k of the issue set names in register r. -/
def Iss.phaser (x : Iss) (s : State) (r : SReg) (k : Nat) : Except Cause (Nat × Nat) := s.phaserAt x.team (x.s k r)

/-- The faults of the phasers that an issue set names (R116, R122); strict asks that none is malformed. -/
def Iss.phFaults (x : Iss) (s : State) (r : SReg) (strict : Bool) : List (Nat × Cause × Int) :=
  x.slices.flatMap fun k =>
    match x.phaser s r k with
    | .error c => sliceFault k c (x.s k r)
    | .ok p => if strict && s.phBad p then sliceFault k .phaserMalformed (x.s k r) else []

/-- The places of the phasers that the slices name, in slice order. -/
def Iss.phPlaces (x : Iss) (s : State) (r : SReg) : List (Nat × (Nat × Nat)) :=
  x.slices.filterMap fun k => match x.phaser s r k with | .ok p => some (k, p) | .error _ => none

/-- The accesses of a phaser instruction, for the watchpoints: those to a phaser in the scratchpad window or in one sub-window of the
cluster-shared window (R445); the checks of R122 stop the others. -/
def Iss.phAccs (x : Iss) (r : SReg) (op : AccOp) : List Acc :=
  x.slices.flatMap fun k =>
    let a := x.s k r
    let inside := decide (localBase ≤ a ∧ a + 9 ≤ localBase + (x.team.alloc : Int)) ||
      decide (clusterBase ≤ a ∧ a < clusterBase + 8 * scratchSize ∧ (a - clusterBase) % scratchSize + 9 ≤ scratchSize)
    if a % 3 = 0 && inside then [⟨lanesOf [k], none, a, 9, op, true⟩] else []

/-- Slices with a wait stand in it, those without go on past the instruction (R133). -/
def Iss.waitOn (x : Iss) (w : Nat → Option Wait) (s : State) : State :=
  x.modGang (fun g =>
    (g.modSlices x.slices fun k y =>
      match w k with
      | some v => { y with wait := some v, fate := .waits }
      | none => { y with pc := y.pc + 3 }).regroup x.slices) s

/-- The flags of a job that an instruction or a wait observes merge into those of the submitting gang (R31, R218, R220). -/
def State.mergeJob (s : State) (j : Job) : State :=
  if j.merged then s
  else
    (s.modCtx j.ctx fun c => { c with jobs := mapIf (fun i => decide (i.num = j.num)) (fun i => { i with merged := true }) c.jobs }).modGang
      j.team j.gang fun g => { g with flags := joinF g.flags j.flags }

/-- A wait on the phaser at a place passes: it observes the visible completion of the jobs that have landed there, also of those whose
signal waits for a page or a peer (R31, R218). -/
def State.observeAt (s : State) (p : Nat × Nat) : State :=
  let mine (j : Job) : Bool :=
    (decide (j.state = .visible) || (decide (j.state = .readDone) && j.entered)) && !j.merged && decide (j.card.getD 1 0 ≠ 0) &&
      (match s.team? j.team with | some t => (match s.phaserAt t (j.card.getD 1 0) with | .ok q => decide (q = p) | .error _ => false) | none => false)
  ((s.ctxs.flatMap Context.jobs).filter mine).foldl State.mergeJob s

/-- A synchronisation instruction: it ends every window (R52) and moves its program counters itself. -/
def syncIssue (uses : Iss → Uses) (body : Iss → State → Except Stop State) (s : State) : Answer :=
  issueWith true false false uses (fun x _ s => body x s) s

/-- The three words of a new phaser stored, each as an ordinary store of a word (R117, R119). -/
def State.initPhaser (s : State) (p : Nat × Nat) (count : Int) : State :=
  let put (s : State) (j : Nat) (v : Int) : State :=
    s.writeLocs false ((List.range 3).map fun i => .scratch p.1 (p.2 + 3 * j + i)) (toTrytes 3 v)
  put (put (put (s.modTeam p.1 fun t => t.phName p.2) 0 0) 1 (pow3 18 * count)) 2 0

/-- PHINIT (R119). -/
def execPhinit (rx ry : SReg) (s : State) : Answer :=
  syncIssue (fun x => { Uses.none with
      accs := x.phAccs rx .store, faults := x.sliceFaults (fun k => decide (x.s k ry < 0) || decide (x.s k ry > 9841)) .valueRange,
      more := fun s _ => x.phFaults s rx false })
    (fun x s => .ok (x.advance ((x.phPlaces s rx).foldl (fun s q => s.initPhaser q.2 (x.s q.1 ry)) s))) s

/-- The distinct places in the order of the lowest slice that names each. -/
def distinctPlaces (l : List (Nat × (Nat × Nat))) : List (Nat × Nat) :=
  l.foldl (fun ps q => if ps.contains q.2 then ps else ps ++ [q.2]) []

/-- The slices of an issue set that arrive at a place. -/
def arriving (ps : List (Nat × (Nat × Nat))) (p : Nat × Nat) : Int := (ps.filter fun q => decide (q.2 = p)).length

/-- The slices whose arrival contradicts its phaser's count (R120): where one slice's sy differs, every slice of the issue set that names
that phaser (DESIGN CHOICE, log 89). -/
def Iss.countFaults (x : Iss) (s : State) (rx ry : SReg) : List (Nat × Cause × Int) :=
  let ps := x.phPlaces s rx
  ps.flatMap fun q =>
    match s.phTeam q.2 with
    | some t =>
      let group := ps.filter fun r => decide (r.2 = q.2)
      if group.any (fun r => decide (x.s r.1 ry ≠ t.phCount q.2.2)) || decide (t.phArrived q.2.2 + arriving ps q.2 > t.phCount q.2.2)
      then sliceFault q.1 .countMismatch 0 else []
    | none => []

/-- n slices arrive at the phaser at a place (R117, R120). -/
def State.arrive (s : State) (p : Nat × Nat) (n : Int) : State :=
  (s.modTeam p.1 fun t =>
    let t := t.phName p.2
    (t.setPhWord p.2 1 (setSub 9 9 (t.phArrived p.2 + n) (t.phWord p.2 1))).phTest true p.2).freeWaiters p

/-- PHARR and PHARR.w (R120). Where sz is s0, which discards the phase written to it, a slice waits for the phase that it arrived
at (log 79). -/
def pharr (wait : Bool) (rx ry rz : SReg) (s : State) : Answer :=
  syncIssue (fun x => { Uses.none with
      accs := x.phAccs rx .rmw, dests := x.sDests rz, more := fun s _ => x.phFaults s rx true ++ x.countFaults s rx ry })
    (fun x s =>
      let ps := x.phPlaces s rx
      let phase (k : Nat) : Int := match ps.find? fun q => decide (q.1 = k) with | some q => s.phPhase q.2 | none => 0
      let s1 := x.setS rz (x.slices.map fun k => (k, phase k)) s
      let s2 := (distinctPlaces ps).foldl (fun s p => s.arrive p (arriving ps p)) s1
      let passes (q : Nat × (Nat × Nat)) : Bool := passed (s2.phPhase q.2) (phase q.1)
      let w (k : Nat) : Option Wait :=
        match ps.find? fun q => decide (q.1 = k) with
        | some q => if wait && !passes q then some (.phaser (x.s k rx) (phase k)) else none
        | none => none
      let s3 := if wait then (ps.filter passes).foldl (fun s q => s.observeAt q.2) s2 else s2
      .ok (x.waitOn w s3)) s

/-- PHARR (R120). -/
def execPharr (x y z : SReg) (s : State) : Answer := pharr false x y z s
/-- PHARR.w (R120). -/
def execPharrW (x y z : SReg) (s : State) : Answer := pharr true x y z s

/-- The expectations of PHEXP added by the slices one after another, and the slices that fail (R121). -/
def Iss.expects (x : Iss) (rx ry : SReg) (s : State) : State × List Nat :=
  (x.phPlaces s rx).foldl (fun (acc : State × List Nat) q =>
    match acc.1.phTeam q.2 with
    | some t =>
      let e := t.phExpected q.2.2 + x.s q.1 ry
      if x.s q.1 ry < 0 ∨ e > 797161 then (acc.1, acc.2 ++ [q.1])
      else
        ((acc.1.modTeam q.2.1 fun t =>
          ((t.phName q.2.2).setPhWord q.2.2 2 (setSub 14 13 e (t.phWord q.2.2 2))).phTest true q.2.2).freeWaiters q.2, acc.2)
    | none => acc) (s, [])

/-- PHEXP (R121): the slices act one after another; a trap leaves every phaser unchanged. -/
def execPhexp (rx ry : SReg) (s : State) : Answer :=
  syncIssue (fun x => { Uses.none with
      accs := x.phAccs rx .rmw,
      more := fun s _ => x.phFaults s rx true ++ (x.expects rx ry s).2.flatMap fun k => sliceFault k .phaserMalformed 0 })
    (fun x s => .ok (x.advance (x.expects rx ry s).1)) s

/-- PHWAIT (R121). -/
def execPhwait (rx ry : SReg) (s : State) : Answer :=
  syncIssue (fun x => { Uses.none with accs := x.phAccs rx .load, more := fun s _ => x.phFaults s rx true })
    (fun x s =>
      let ps := x.phPlaces s rx
      let s1 := ps.foldl (fun s q => s.modTeam q.2.1 fun t => t.phName q.2.2) s
      let passes (q : Nat × (Nat × Nat)) : Bool := passed (s.phPhase q.2) (x.s q.1 ry)
      let w (k : Nat) : Option Wait :=
        match ps.find? fun q => decide (q.1 = k) with
        | some q => if passes q then none else some (.phaser (x.s k rx) (x.s k ry))
        | none => none
      .ok (x.waitOn w ((ps.filter passes).foldl (fun s q => s.observeAt q.2) s1))) s

/-- Slices of a gang resume at their continuations after a YIELD, with their records (R121, R133, R436). -/
def State.resumeAt (s : State) (agency team gang : Nat) (cs : List (Nat × Int)) : State :=
  let ks := cs.map Prod.fst
  let dest (k : Nat) : Int := match cs.find? fun c => decide (c.1 = k) with | some c => c.2 | none => 0
  let s1 := match s.team? team with
    | some t =>
      match t.gang? gang with
      | some g => cs.foldl (fun (s : State) (c : Nat × Int) => s.emit agency t.core 0 (record 5 ((g.slot : Int) - 13) c.1 (4 :: toTrytes 4 (wrap 36 c.2)))) s
      | none => s
    | none => s
  s1.modGang team gang fun g => (g.modSlices ks fun k y => { y with wait := none, fate := .waits, pc := dest k }).regroup ks

/-- The phase that slice k names on the phaser in rx has completed (R117). -/
def Iss.phaseDone (x : Iss) (s : State) (rx ry : SReg) (k : Nat) : Bool :=
  match x.phaser s rx k with
  | .ok p => passed (s.phPhase p) (x.s k ry)
  | .error _ => true

/-- YIELD (R121). Slices that name several phasers resume together, once each has completed the phase named (log 80). -/
def execYield (rx ry rz : SReg) (s : State) : Answer :=
  syncIssue (fun x => { Uses.none with
      accs := x.phAccs rx .load, faults := x.slices.flatMap fun k => targetFaults k (x.s k rz), more := fun s _ => x.phFaults s rx true })
    (fun x s =>
      let ps := x.phPlaces s rx
      let s1 := ps.foldl (fun s q => s.modTeam q.2.1 fun t => t.phName q.2.2) s
      if x.slices.all fun k => x.phaseDone s rx ry k then
        .ok ((ps.foldl (fun s q => s.observeAt q.2) s1).resumeAt x.ctx.agency x.issue.team x.issue.gang (x.slices.map fun k => (k, x.s k rz)))
      else
        let s2 := s1.emitSched x.ctx.agency x.team x.gang 4 0
        let rest (k : Nat) (y : Slice) : Slice :=
          { y with
            wait := some (.yield (x.s k rx) (x.s k ry) (x.s k rz)),
            fate := if x.phaseDone s rx ry k then .passes else .waits }
        .ok (x.modSlices rest s2)) s

/-- The gangs of the team, live and numbered, that a set of trits names. -/
def Team.namedLive (t : Team) (set : Int) : List Nat :=
  (t.live.filter fun g => decide (g.idx < 27) && decide (tritAt g.idx set = 1)).map Gang.idx

/-- A set agrees with the participants of the phase in progress (R123). -/
def Team.barAgrees (t : Team) (gang : Nat) (set : Int) : Bool :=
  t.bar.parts.contains gang && t.bar.parts.all (fun p => decide (tritAt (p % endedMark) set = 1)) &&
    (t.namedLive set).all fun q => t.bar.parts.contains q

/-- The set that a PHASE names on the team phaser: every gang that has not ended (R125, R141). -/
def Team.phaseSet (t : Team) : Int := tritSet ((t.live.filter fun g => decide (g.idx < 27)).map Gang.idx)

/-- The phase in progress as a first BAR finds it: where gangs stand in PHASE their arrivals and their set have opened it (R144,
log 85). -/
def Team.barOpen (t : Team) : Barrier :=
  if t.bar.parts = [] && !t.arrivals.isEmpty then
    { t.bar with set := t.phaseSet, parts := t.namedLive t.phaseSet, arrived := t.arrivals.map fun a => (a.gang, a.slice) }
  else t.bar

/-- What an arrival of a gang with a set on the team phaser meets: the sets disagree, or a participant has ended (R123, R144). -/
def Team.barClash (t : Team) (gang : Nat) (set : Int) : Option Cause :=
  if t.bar.parts = [] then none
  else if !t.barAgrees gang set then some .setsDisagree
  else if t.bar.parts.any fun p => decide (p ≥ endedMark) then some .participantEnded
  else none

/-- Slices of a gang arrive on the team phaser with a set (R123). -/
def Team.barArrive (t : Team) (gang : Nat) (ks : List Nat) (set : Int) : Team :=
  let b := if t.bar.parts = [] then { t.bar with set := set, parts := t.namedLive set } else t.bar
  { t with bar := { b with arrived := b.arrived ++ ks.map fun k => (gang, k) } }.testBar

/-- The state after an arrival on the team phaser that traps (R123, R144). -/
def State.barClashed (s : State) (team : Nat) (c : Cause) : State := if c = .setsDisagree then s.modTeam team Team.disagree else s

/-- BAR (R123, R144). A slice that has ended without arriving is waited for no longer (log 81). -/
def execBar (m : MReg) (s : State) : Answer :=
  syncIssue (fun x => { Uses.none with
      faults := if hasMinus 27 (x.gang.mask m) || decide (tritAt x.issue.gang (x.gang.mask m) ≠ 1) then x.lanes.map fun l => (l, .setInvalid, 0) else [] })
    (fun x s =>
      let set := x.gang.mask m
      let t := { x.team with bar := x.team.barOpen }
      match t.barClash x.issue.gang set with
      | some c => .error (.trapWith (.of x.lanes c) (s.barClashed t.key c))
      | none =>
        let phase := t.bar.phase
        let s1 := s.modTeam t.key fun u => { u with bar := t.bar }.barArrive x.issue.gang x.slices set
        match s1.team? t.key with
        | some u => .ok (x.waitOn (fun _ => if passed u.bar.phase phase then none else some (.bar phase)) s1)
        | none => .ok s1) s

/-- The slices that the SYNCS set of a slice names. -/
def Gang.syncSet (g : Gang) (v : Int) : List Nat := if v = 0 then List.range g.slices.length else g.named v

/-- The set with which a slice arrives at SYNCS is invalid (R123). -/
def Iss.syncsInvalid (x : Iss) (r : SReg) (k : Nat) : Bool :=
  !highZero 9 (x.s k r) || hasMinus 9 (x.s k r) || x.slices.any fun j => !(x.gang.syncSet (x.s k r)).contains j

/-- What the arrival of an issue set at SYNCS meets (R123, R144): the slices whose own sets are invalid, whether another's set differs from
that of the phase, and whether a slice of it has ended. A REGANG is an arrival at an address, with which no SYNCS agrees (log 85). A
slice that had ended before the phase's first arrival counts as one that has ended (log 88). -/
structure SyncsMeets where
  parts   : List Nat
  invalid : List Nat
  differs : Bool
  ended   : Bool

/-- What the arrival of an issue set at SYNCS meets. -/
def Iss.syncsMeets (x : Iss) (r : SReg) : SyncsMeets :=
  let g := x.gang
  let bad := x.slices.filter (x.syncsInvalid r)
  let sets := (x.slices.filter fun k => !bad.contains k).map fun k => g.syncSet (x.s k r)
  let parts := if g.phaser.parts = [] then sets.headD [] else g.phaser.parts
  { parts := parts, invalid := bad, differs := decide (sets ≠ []) && (!g.regangs.isEmpty || sets.any fun q => decide (q ≠ parts)),
    ended := decide (sets ≠ []) && parts.any fun k => (g.slice k).ended }

/-- The faults of an arrival at SYNCS, by lane. -/
def SyncsMeets.faults (m : SyncsMeets) (x : Iss) : List (Nat × Cause × Int) :=
  ((lanesOf m.invalid).map fun l => (l, Cause.setInvalid, (0 : Int))) ++
    (if m.differs then x.lanes.map fun l => (l, Cause.setsDisagree, (0 : Int)) else []) ++
    (if m.ended then x.lanes.map fun l => (l, Cause.participantEnded, (0 : Int)) else [])

/-- The gang after an arrival at SYNCS that traps: those that wait in the phase trap too (R123). -/
def SyncsMeets.spoil (m : SyncsMeets) (g : Gang) : Gang :=
  if m.differs then g.disagree
  else if m.ended then { g.owe g.syncers .participantEnded with phaser := { g.phaser with arrived := [] } }
  else g

/-- SYNCS (R123, R144). A set that names a slice which had ended before the phase's first arrival traps participant ended (log 88). -/
def execSyncs (r : SReg) (s : State) : Answer :=
  syncIssue (fun _ => Uses.none)
    (fun x s =>
      let m := x.syncsMeets r
      if m.faults x ≠ [] then .error (.trapWith (.lanesOnly (m.faults x)) (x.modGang m.spoil s))
      else
        let phase := x.gang.phaser.phase
        let s1 := x.modGang (fun h =>
          Gang.testSyncs { h with phaser := { h.phaser with
            set := tritSet m.parts, parts := m.parts, arrived := h.phaser.arrived ++ x.slices.map fun k => (h.idx, k) } }) s
        match s1.gang? x.issue.team x.issue.gang with
        | some h => .ok (x.waitOn (fun _ => if passed h.phaser.phase phase then none else some (.syncs phase)) s1)
        | none => .ok s1) s

/-- The slices of an issue set whose block set is bad (R124). -/
def Iss.blockFaults (x : Iss) (r : SReg) : List (Nat × Cause × Int) :=
  x.sliceFaults (fun k => !highZero 9 (x.s k r) || hasMinus 9 (x.s k r)) .valueRange

/-- The blocks named by the slices of an issue set (R124). -/
def Iss.blockSet (x : Iss) (r : SReg) : List Nat := (List.range 9).filter fun b => x.slices.any fun k => decide (tritAt b (x.s k r) = 1)

/-- The blocks that the gang lacks of those named. -/
def Iss.lacks (x : Iss) (bs : List Nat) : Nat := (bs.filter fun b => !x.gang.holds b).length

/-- The core can grant a request at once (R140). -/
def State.grantsNow (s : State) (x : Iss) (bs : List Nat) : Bool :=
  !s.racqWaits x.team.core && decide (x.lacks bs ≤ s.freeBlocks x.team.core)

/-- RACQ (R124, R140). -/
def execRacq (r : SReg) (m : MReg) (s : State) : Answer :=
  syncIssue (fun x => { Uses.none with dests := (if m.val = 0 then [] else [.msk m]), faults := x.blockFaults r })
    (fun x s =>
      let ok := s.grantsNow x (x.blockSet r)
      let s1 := if ok then x.modGang (fun g => g.acquire (x.blockSet r)) s else s
      .ok (x.advance (x.putMask m (x.lanes.map fun i => (i, if ok then 1 else 0)) s1))) s

/-- RACQ.w (R124, R140). -/
def execRacqW (r : SReg) (s : State) : Answer :=
  syncIssue (fun x => { Uses.none with faults := x.blockFaults r })
    (fun x s =>
      let bs := x.blockSet r
      if s.grantsNow x bs then .ok (x.advance (x.modGang (fun g => g.acquire bs) s))
      else
        let e := { s.eng with racq := s.eng.racq ++ [(x.issue.team, x.issue.gang, x.low, tritSet bs)] }
        .ok (x.modSlices (fun _ y => { y with wait := some (.racq (tritSet bs)), fate := .waits }) { s with eng := e })) s

/-- A tile move that has not landed writes into one of the blocks (R124, R296). -/
def Gang.landsInto (g : Gang) (bs : List Nat) : Bool :=
  g.ops.any fun o => match o with | .move m => m.load && bs.any (fun b => (List.range 9).any fun i => decide ((m.base + i) % 81 / 9 = b)) | .mx _ => false

/-- RREL (R124). -/
def execRrel (r : SReg) (s : State) : Answer :=
  syncIssue (fun x => { Uses.none with faults := x.blockFaults r })
    (fun x s =>
      let bs := x.blockSet r
      if x.gang.landsInto (bs.filter fun b => x.gang.holds b) then .error (.stall .tile s)
      else .ok (State.blocksReturned (x.advance (x.modGang (fun g => g.release bs) s)) x.team.core)) s

end Sys2Proof.Machine
end

