-- ==== Sys2Proof/Machine/Copy.lean ====
section
/-!
DEFINITION. Per-lane copies, batches and their two stages (R199 to R208), and the steps of the copy engines (R205, R241).
-/
namespace Sys2Proof.Machine

/-- A job counts as read-done, or finished (R217). -/
def JobState.isRead (j : JobState) : Bool := match j with | .readDone | .visible | .finished => true | _ => false
/-- A job counts as visible, or finished. -/
def JobState.isVisible (j : JobState) : Bool := match j with | .visible | .finished => true | _ => false

/-- An entry of a batch has reached a stage (R202). -/
def State.entryAt (s : State) (ctx : Nat) (visible : Bool) (e : BatchEntry) : Bool :=
  match e with
  | .copies ids => ids.all fun i => match s.copy? i with | some c => !visible && decide (c.stage ≥ 1) | none => true
  | .job n =>
    match (s.ctx? ctx).bind fun c => c.job? n with
    | some j => if visible then j.state.isVisible else j.state.isRead
    | none => true
  | .faulty => !s.ctxHalted ctx

/-- The batches of a list, oldest first, that stand reported at a stage. -/
def State.reported (s : State) (ctx : Nat) (visible : Bool) : List Batch → List Batch
  | [] => []
  | b :: r => if b.entries.all fun e => s.entryAt ctx visible e then b :: State.reported s ctx visible r else []

/-- The lane copies of a batch, but those that a fault has left unwritten (R205). -/
def Batch.laneCopies (b : Batch) : Nat :=
  (b.entries.map fun e => match e with | .copies ids => ids.length | .job _ | .faulty => 0).sum

/-- Trytes landed by an engine on the phaser at an address of a team (R117, R207, R218). -/
def State.land (s : State) (team : Nat) (a n : Int) : State :=
  match s.team? team with
  | none => s
  | some t =>
    match s.phaserAt t a with
    | .ok p => (s.modTeam p.1 fun u => u.phLand p.2 n).freeWaiters p
    | .error _ => s

/-- The stages of a slice's batches reported as far as they can be, in seal order, with the landings (R202, R207). -/
def State.settle (s : State) (ctx team gang slice : Nat) : State :=
  match s.gang? team gang with
  | none => s
  | some g =>
    let bs := (g.slice slice).copy.sealed
    let seen := (s.reported ctx true bs).length
    let read := (s.reported ctx false bs).length
    let left := (bs.zipIdx.map fun p => { p.1 with rd := p.1.rd || decide (p.2 < read) }).drop seen
    let core := match s.team? team with | some t => t.core | none => 0
    let s0 := s.modGang team gang fun h => h.modSlices [slice] fun _ y => { y with copy := { y.copy with sealed := left } }
    let event (code : Int) (s : State) (b : Batch) : State := s.engineEvent (1024 + core) ctx team gang 1 code b.number
    let s1 := (bs.take seen).foldl (event 3) (((bs.take read).filter fun b => !b.rd).foldl (event 2) s0)
    (bs.take seen).foldl (fun s b => if b.phaser = 0 ∨ b.laneCopies = 0 then s else s.land team b.phaser (27 * b.laneCopies)) s1

/-- The batches that a CPWAIT of a slice still needs: all but the n newest of those not reported at its stage. -/
def Slice.needed (x : Slice) (visible : Bool) (n : Int) : List Batch :=
  let open_ := x.copy.sealed.filter fun b => visible || !b.rd
  open_.take (open_.length - n.toNat)

/-- A gang that waits for a completion of faulted work halts in its wait (R193, R205, R217). -/
def State.haltWaiters (s : State) (ctx : Nat) : State :=
  if !s.ctxHalted ctx then s
  else
    s.teams.foldl (fun s t =>
      match s.grid? t.grid with
      | none => s
      | some gr =>
        if gr.ctx ≠ ctx then s
        else
          let agency := match s.ctx? ctx with | some c => c.agency | none => 0
          t.gangs.foldl (fun s g =>
            let stuck (x : Slice) : Bool :=
              match x.wait with
              | some (.batchRd n) => (x.needed false n).any fun b => b.entries.any (s.entryFaulted ctx)
              | some (.batchVis n) => (x.needed true n).any fun b => b.entries.any (s.entryFaulted ctx)
              | _ => false
            if g.halt.isNone && g.slices.any stuck then s.halt agency t.key g.idx .contextFence else s) s) s

/-- The batch entries of a slice that a CPWAIT which passes at a stage does not cover: those of the open batch, and those of sealed
batches not reported at that stage (R208). -/
def Slice.uncovered (x : Slice) (visible : Bool) : List BatchEntry :=
  x.copy.openB ++ (x.copy.sealed.filter fun b => visible || !b.rd).flatMap Batch.entries

/-- The flags of the jobs of the batches that a CPWAIT of a slice has covered merged into sr.flags (R31, R208). -/
def State.mergeJobs (s : State) (ctx team gang slice : Nat) (visible : Bool) : State :=
  match s.ctx? ctx, s.gang? team gang with
  | some c, some g =>
    let out := (g.slice slice).uncovered visible
    let done (j : Job) : Bool := decide (j.state = .visible) || (!visible && decide (j.state = .readDone))
    let mine (j : Job) : Bool :=
      decide (j.team = team) && decide (j.gang = gang) && decide (j.slice = slice) && done j && !j.merged && !out.contains (.job j.num)
    let f := joinAll ((c.jobs.filter mine).map Job.flags)
    (s.modCtx ctx fun c => { c with jobs := mapIf mine (fun j => { j with merged := true }) c.jobs }).modGang team gang
      fun h => { h with flags := joinF h.flags f }
  | _, _ => s

/-- The count operand of lane i of a CPY (R204). -/
def Iss.cpyCount (x : Iss) (f : CpyF) (i : Nat) : Int :=
  match f.attr.bind Attr.fourth with
  | some r => x.v r i
  | none => 27

/-- The source of lane i. -/
def Iss.cpySrc (x : Iss) (f : CpyF) (scatter : Bool) (i : Nat) : Int :=
  x.s (i / 3) f.y + (if scatter then 27 * (i : Int) else x.v f.x i)
/-- The destination of lane i. -/
def Iss.cpyDst (x : Iss) (f : CpyF) (scatter : Bool) (i : Nat) : Int :=
  x.s (i / 3) f.z + (if scatter then x.v f.x i else 27 * (i : Int))

/-- CPY in either form (R203 to R205): checked whole, then handed to the copy engine of the core. -/
def cpy (scatter : Bool) (f : CpyF) (s : State) : Answer :=
  issue
    (fun x =>
      let ls := x.active f.attr 0
      let okCount (i : Nat) : Bool := decide (0 ≤ x.cpyCount f i) && decide (x.cpyCount f i ≤ 27)
      let full (i : Nat) : Bool := decide ((x.gang.slice (i / 3)).copy.openB.length ≥ 27)
      { Uses.none with
        vregs := f.x :: (match f.attr.bind Attr.fourth with | some r => [r] | none => []),
        accs := ls.flatMap fun i =>
          [⟨[i], none, x.cpySrc f scatter i, if okCount i then (x.cpyCount f i).toNat else 0, .load, true⟩,
           ⟨[i], none, x.cpyDst f scatter i, 27, .store, true⟩],
        faults := (ls.filter fun i => !okCount i).map (fun i => (i, Cause.valueRange, 0)) ++
          (ls.filter full).map (fun i => (i, Cause.batchFull, 0)),
        later := true })
    (fun x got s =>
      let ls := x.active f.attr 0
      if (s.eng.copies.filter fun c => decide (c.core = x.team.core)).length + ls.length > 243 then .error (.stall .copyLimit s) else
      let n0 := s.eng.nextId
      let new := ls.zipIdx.map fun p =>
        ({ id := n0 + p.2, core := x.team.core, ctx := x.ctx.num, team := x.issue.team, grid := x.grid.num, gang := x.issue.gang,
           slice := p.1 / 3, lane := p.1, cpy := n0, word := x.word, src := x.cpySrc f scatter p.1, dst := x.cpyDst f scatter p.1,
           srcs := match got.accs[2 * p.2]? with | some q => q.2 | none => [],
           dsts := match got.accs[2 * p.2 + 1]? with | some q => q.2 | none => [],
           scope := f.scope,
           pages := got.pages.getD (2 * p.2) [] ++ got.pages.getD (2 * p.2 + 1) [],
           stage := 0, data := [], watched := false } : LaneCopy)
      let s1 := { s with eng := { s.eng with copies := s.eng.copies ++ new, nextId := n0 + new.length } }
      .ok (x.modSlices (fun k y =>
        let ids := (new.filter fun c => decide (c.slice = k)).map LaneCopy.id
        if ids = [] then y else { y with copy := { y.copy with openB := y.copy.openB ++ [.copies ids] } }) s1)) s

/-- CPY.g (R204). -/
def execCpyG (f : CpyF) (s : State) : Answer := cpy false f s
/-- CPY.s (R204). -/
def execCpyS (f : CpyF) (s : State) : Answer := cpy true f s

/-- The faults of a phaser operand of which 0 names none (R122, R207). -/
def Iss.phOptional (x : Iss) (s : State) (r : SReg) : List (Nat × Cause × Int) :=
  x.slices.flatMap fun k =>
    if x.s k r = 0 then []
    else match x.phaser s r k with
      | .error c => (lanesOf [k]).map fun l => (l, c, x.s k r)
      | .ok _ => []

/-- CPSEAL (R207). -/
def execCpseal (rx ry : SReg) (s : State) : Answer :=
  issue (fun x => { Uses.none with dests := x.sDests ry, more := fun s _ => x.phOptional s rx })
    (fun x _ s =>
      if x.slices.any fun k => decide ((x.gang.slice k).copy.sealed.length ≥ 27) then .error (.stall .copyLimit s)
      else
        let s1 := x.modSlices (fun k y =>
          let n := y.copy.last + 1
          let b : Batch := { number := n, phaser := x.s k rx, entries := y.copy.openB, rd := false }
          { y with copy := { openB := [], last := n, sealed := y.copy.sealed ++ [b] } }) s
        let s2 := x.slices.foldl (fun s k =>
          s.engineEvent (1024 + x.team.core) x.ctx.num x.issue.team x.issue.gang 1 1 ((x.gang.slice k).copy.last + 1))
          (x.setS ry (x.slices.map fun k => (k, wrap 54 ((x.gang.slice k).copy.last + 1))) s1)
        .ok (x.slices.foldl (fun s k => s.settle x.ctx.num x.issue.team x.issue.gang k) s2)) s

/-- CPWAIT (R208): each slice waits alone. -/
def cpwait (visible : Bool) (r : SReg) (s : State) : Answer :=
  issueWith true false false (fun x => { Uses.none with faults := x.sliceFaults (fun k => decide (x.s k r < 0)) .valueRange })
    (fun x _ s =>
      let passes (k : Nat) : Bool := ((x.gang.slice k).needed visible (x.s k r)).isEmpty
      let w (k : Nat) : Option Wait :=
        if passes k then none else some (if visible then .batchVis (x.s k r) else .batchRd (x.s k r))
      let s1 := (x.slices.filter passes).foldl (fun s k => s.mergeJobs x.ctx.num x.issue.team x.issue.gang k visible) s
      .ok ((x.waitOn w s1).haltWaiters x.ctx.num)) s

/-- CPWAIT.rd (R208). -/
def execCpwaitRd (r : SReg) (s : State) : Answer := cpwait false r s
/-- CPWAIT.vis (R208). -/
def execCpwaitVis (r : SReg) (s : State) : Answer := cpwait true r s

/-- The fault of a lane copy as it is logged (R192, R205). -/
def LaneCopy.entry (c : LaneCopy) (cause : Cause) : LogEntry :=
  { addr := c.src, word := c.word, cause := cause, core := c.core, gang := c.gang % 27, slice := c.slice, lane := c.lane,
    operand := c.src }

/-- A lane copy changed. -/
def State.modCopy (s : State) (id : Nat) (f : LaneCopy → LaneCopy) : State :=
  { s with eng := { s.eng with copies := mapIf (fun c => decide (c.id = id)) f s.eng.copies } }

/-- The number of the batch that holds a lane copy; of the open batch, the number that it will have (R202, R436). -/
def State.copyNumber (s : State) (c : LaneCopy) : Int :=
  match s.gang? c.team c.gang with
  | some g =>
    let y := (g.slice c.slice).copy
    let has (b : Batch) : Bool := b.entries.any fun e => match e with | .copies ids => ids.contains c.id | _ => false
    match y.sealed.find? has with | some b => b.number | none => y.last + 1
  | none => 0

/-- A lane copy frozen by a fault that it meets, which is logged (R205, R249). -/
def State.freezeCopy (s : State) (c : LaneCopy) (cause : Cause) : State :=
  let s1 := s.modCopy c.id fun x => { x with stage := -1 }
  let s2 := s1.engineEvent (1024 + c.core) c.ctx c.team c.gang 1 (-1) (s.copyNumber c)
  (s2.logEvent c.ctx (c.entry cause) (s.nameOf c.team (c.gang % 27))).haltWaiters c.ctx

/-- The copy engine of a core is frozen (R205). -/
def State.copyFrozen (s : State) (core : Nat) : Bool := s.eng.copies.any fun d => decide (d.core = core) && decide (d.stage = -1)

/-- A lane copy leaves its engine. -/
def State.dropCopy (s : State) (id : Nat) : State := { s with eng := { s.eng with copies := s.eng.copies.filter fun d => decide (d.id ≠ id) } }

/-- LANE_COPY_READ_DONE (R199, R205): the source is read, unless a line of it is uncorrectable or a peer must answer
first. -/
def execLaneCopyReadDone (id : Nat) (s : State) : Answer :=
  match s.copy? id with
  | none => .fault (.notEnabled "LANE_COPY_READ_DONE")
  | some c =>
    if c.stage ≠ 0 ∨ s.gated c.core ∨ !s.mayStart c.ctx c.team c.gang ∨ s.copyFrozen c.core then
      .fault (.notEnabled "LANE_COPY_READ_DONE")
    else if s.locked (.copy id) c.srcs then .fault (.notEnabled "LANE_COPY_READ_DONE")
    else if c.srcs.any fun l => s.badLoc l then .next ((s.noteBad c.srcs).freezeCopy c .uncorrectable)
    else
      let agency := s.agencyOf c.ctx
      match s.answers (.copy id) (readReqs false c.src c.srcs) with
      | .bad fs => .next ((s.dropWaits (.copy id)).freezeCopy c (match fs with | f :: _ => f.2 | [] => .ownerFenced))
      | .pending missing =>
        if missing = [] then .fault (.notEnabled "LANE_COPY_READ_DONE")
        else .next (s.askParts (.copy id) agency c.ctx (severalOwners c.srcs) missing)
      | .all rem =>
        let vs := s.readWith false c.srcs rem
        let s1 := (s.dropWaits (.copy id)).engineTouch c.ctx .load c.src c.srcs
        let w := s1.engineWatch (1024 + c.core) c.ctx c.team c.gang false c.src c.srcs.length c.srcs
        let s2 := w.1.modCopy id fun x =>
          { x with stage := 1, data := vs ++ List.replicate (27 - vs.length) 0, watched := w.2 }
        .next (s2.settle c.ctx c.team c.gang c.slice)

/-- LANE_COPY_VISIBLE (R188, R199): the 27 trytes enter together, after those of the lower lanes of the CPY, and the leases that the
agents covered by the copy's scope hold on them end. -/
def execLaneCopyVisible (id : Nat) (s : State) : Answer :=
  match s.copy? id with
  | none => .fault (.notEnabled "LANE_COPY_VISIBLE")
  | some c =>
    if c.stage ≠ 1 ∨ s.overheated ∨ s.copyFrozen c.core ∨ s.eng.copies.any fun d => decide (d.cpy = c.cpy) && decide (d.lane < c.lane) then
      .fault (.notEnabled "LANE_COPY_VISIBLE")
    else if c.dsts.any fun l => s.badLoc l then .next ((s.noteBad c.dsts).freezeCopy c .uncorrectable)
    else
      match (s.ctx? c.ctx).map fun x => s.enterAll (.copy id) (Who.device x) false (cellsAt c.dst c.dsts c.data) with
      | none => .fault (.notEnabled "LANE_COPY_VISIBLE")
      | some (.error s') => if s' = s then .fault (.notEnabled "LANE_COPY_VISIBLE") else .next s'
      | some (.ok s0) =>
        let w := s0.engineWatch (1024 + c.core) c.ctx c.team c.gang true c.dst 27 c.dsts
        let s1 := if c.watched || w.2 then w.1.engineEvent (1024 + c.core) c.ctx c.team c.gang 1 6 (s.copyNumber c) else w.1
        let s2 := s1.endLeases c.scope c.core ((hbmOf c.dsts).map fun p => p / 81)
        .next (((s2.dropCopy id).settle c.ctx c.team c.gang c.slice).reap c.team)

/-- A slice without a lane copy among the entries of its batches. -/
def Slice.forget (id : Nat) (x : Slice) : Slice :=
  let out (e : BatchEntry) : BatchEntry := match e with | .copies ids => .copies (ids.filter fun i => decide (i ≠ id)) | .job n => .job n | .faulty => .faulty
  { x with copy := { x.copy with
      openB := x.copy.openB.map out, sealed := x.copy.sealed.map fun b => { b with entries := b.entries.map out } } }

/-- FAULTED_COPY_FINISH (R205): once the log entry is acknowledged the lane copy is finished with nothing written and nothing to
land. -/
def execFaultedCopyFinish (id : Nat) (s : State) : Answer :=
  match s.copy? id with
  | none => .fault (.notEnabled "FAULTED_COPY_FINISH")
  | some c =>
    if c.stage ≠ -1 ∨ s.ctxHalted c.ctx then .fault (.notEnabled "FAULTED_COPY_FINISH")
    else
      let s1 := (s.dropCopy id).modGang c.team c.gang fun g => g.modSlices [c.slice] fun _ y => y.forget id
      .next ((s1.settle c.ctx c.team c.gang c.slice).reap c.team)

end Sys2Proof.Machine
end

