-- ==== Sys2Proof/Machine/Create.lean ====
section
/-!
DEFINITION. What a slice, a gang and a team hold when they are created (R132, R137, R156, R281, R347, R385).
-/
namespace Sys2Proof.Machine

/-- The copy state of a new slice (R202). -/
def CopyState.fresh : CopyState := { openB := [], last := 0, sealed := [] }

/-- A new slice at an address (R132); what it fetches first it sees as memory stands (log 21). -/
def Slice.fresh (pc : Int) (s : ZMap) (fenced : Nat) : Slice :=
  { Slice.none with pc := pc, s := s, ended := false, fenced := fenced }

/-- An implicit phaser with no arrival. -/
def Barrier.fresh : Barrier := { phase := 0, set := 0, parts := [], arrived := [] }

/-- The generators of the 27 lanes of a gang (R347). -/
def seeds (seed : Int) (teamIndex gang n : Nat) : ZMap :=
  setsZ ((List.range n).map fun i =>
    (i, wrap 54 (seed + (laneNumber teamIndex gang i : Int) * 1414213562373095048 + 1))) []

/-- A new gang of a team of grid g (R132): index, slot, slices, their program counter and scalars. -/
def Gang.fresh (g : Grid) (priv : Bool) (teamIndex idx slot slices : Nat) (pc : Int) (s : ZMap) (fenced : Nat) : Gang :=
  { idx := idx, slot := slot, subPtr := 0, slices := List.replicate slices (Slice.fresh pc s fenced),
    blocks := tritSet (List.range g.entryBlocks), v := [], m := [],
    mode := 1 + (if g.token then 9 else 0) + (if priv then 27 else 0), flags := 0,
    gens := seeds (g.dbl 9) teamIndex idx 27, lanes := [], tiles := [],
    tileSet := if g.token then [] else List.range g.tiles, pending := [], bank := none, phaser := Barrier.fresh,
    regangs := [], ops := [], sealedMx := 0, halt := none, exempt := false, engStop := false, edits := [] }

/-- The scalars of a gang at a kernel's entry: s1 and s2 (R132). -/
def entryScalars (arg : Int) : ZMap := setZ 1 localBase (setZ 2 arg [])

/-- The scratchpad of a team in trytes, rounded up to a line (R158). -/
def Grid.scratchSize (g : Grid) : Nat := ((g.dbl 4 + 80) / 81 * 81).toNat

/-- A new team of grid g with its gangs (R131, R132, R137, R281, R377): key, index, core, resident position, line, slots. -/
def Team.fresh (s : State) (g : Grid) (key index core pos line : Nat) (slots : List Nat) : Team :=
  let priv := match s.ctx? g.ctx with | some c => c.priv | none => false
  { key := key, index := index, grid := g.num, group := g.group, core := core, pos := pos, line := line, place := .resident,
    since := s.clock.cycle,
    gangs := slots.zipIdx.map fun p =>
      Gang.fresh g priv index p.2 p.1 g.slices (g.dbl 1) (entryScalars (g.dbl 8)) s.mem.wlog.length,
    scratch := [], phasers := [], alloc := g.scratchSize, record := 0, moves := 0, lastCore := core, stage := 0,
    ports := List.replicate g.ports { depth := 0, gen := 0, held := [], reserved := 0 },
    pats := g.pats, bar := Barrier.fresh, arrivals := [], tiles := [],
    tokens := if g.token then List.replicate g.tiles 0 else [], passing := [], home := none, swapped := false, ended := false }

end Sys2Proof.Machine
end

