-- ==== Sys2Proof/Machine/Ports.lean ====
section
/-!
DEFINITION. The major PORT but for signals (R331 to R340), and the steps of the join units (R343, R382 to R385).
-/
namespace Sys2Proof.Machine

/-- The index operand of slice k names no port of the team (R333, R337). -/
def Iss.badIndex (x : Iss) (r : SReg) (k : Nat) : Bool := decide (x.s k r < 0) || decide (x.s k r ≥ (x.team.ports.length : Int))

/-- A port configured (R333). -/
def Port.configure (p : Port) (depth : Nat) : Port :=
  if depth = 0 ∧ p.depth ≠ 0 then { p with depth := 0, gen := wrap 9 (p.gen + 1), held := [] } else { p with depth := depth }

/-- PORTCFG (R333). -/
def execPortcfg (rx ry rz : SReg) (s : State) : Answer :=
  issue (fun x => { Uses.none with
      dests := x.sDests rz,
      faults := x.sliceFaults (x.badIndex rx) .portIndex ++ x.sliceFaults (fun k => decide (x.s k ry < 0) || decide (x.s k ry > 9)) .valueRange })
    (fun x _ s =>
      .ok (x.slices.foldl (fun s k =>
        let i := (x.s k rx).toNat
        let s1 := s.modTeam x.team.key fun t =>
          { t with ports := mapAt i (fun (p : Port) => p.configure (x.s k ry).toNat) t.ports }
        let gen : Int := match (s1.team? x.team.key).bind fun t => t.ports[i]? with | some p => p.gen | none => 0
        x.setS rz [(k, portName s.modul x.team.key i gen)] s1) s)) s

/-- The slices that post, with name and message. -/
def Iss.posts (x : Iss) (rx ry : SReg) : List (Nat × Int × Int) := x.slices.map fun k => (k, x.s k rx, x.s k ry)

/-- The reservations of slices on this module, one after another; faults, the slices refused for a full port, and the pages of contexts
that ports out of a core wait for. -/
structure LocalPosts where
  s     : State
  bad   : List (Nat × Cause)
  full  : List Nat
  wait  : List (Nat × List (Int × Int))
  deriving DecidableEq, Repr

/-- Reservations made in slice order on this module (R334). -/
def State.reserveAll (s : State) (ps : List (Nat × Int × Int)) : LocalPosts :=
  ps.foldl (fun (a : LocalPosts) p =>
    if nameModule p.2.1 ≠ s.modul then (match s.portNameFault p.2.1 with | some c => { a with bad := a.bad ++ [(p.1, c)] } | none => a)
    else
      match a.s.reserve p.2.1 with
      | .taken s' => { a with s := s' }
      | .full => { a with full := a.full ++ [p.1] }
      | .bad c => { a with bad := a.bad ++ [(p.1, c)] }
      | .wait ctx qs => { a with wait := a.wait ++ [(ctx, qs)] }) ⟨s, [], [], []⟩

/-- The reservations that peers granted given back. -/
def State.releaseRemote (s : State) (x : Iss) (ps : List (Nat × Int × Int)) : State :=
  (s.waitsOf x.parker).foldl (fun s w =>
    match w.reply, ps.find? fun p => decide (p.1 = w.key) with
    | some .done, some p => s.send x.ctx.agency w.modul (.request 0 s.modul x.ctx.num (.release p.2.1))
    | _, _ => s) s

/-- A wait of the issue set that is over, as its own note of what it has done. -/
def State.note (s : State) (x : Iss) (key : Nat) (r : RemoteReply) : State :=
  let w : RemoteWait := { who := x.parker, modul := s.modul, key := key, tag := 0, ctx := x.ctx.num, addr := 0, len := 0, pages := [], todo := none, reply := some r }
  { s with fab := { s.fab with waits := s.fab.waits ++ [w] } }

/-- The answer to the reservation of slice k. -/
def State.granted (s : State) (x : Iss) (k : Nat) : Option RemoteReply :=
  ((s.waitsOf x.parker).find? fun w => decide (w.key = k)).bind fun w => w.reply

/-- Messages landed at their reserved places in slice order, those of peers one after another (R335). Answers whether all have. -/
def State.landTurns (s : State) (x : Iss) : List (Nat × Int × Int) → State × Bool
  | [] => (s, true)
  | p :: ps =>
    match (s.waitsOf x.parker).find? fun w => decide (w.key = landKey + p.1) with
    | some w => if w.reply.isSome || s.isFenced w.modul then State.landTurns s x ps else (s, false)
    | none =>
      if nameModule p.2.1 = s.modul then
        match s.portAt p.2.1 with
        | .wait ctx qs => (s.park ctx x.parker qs, false)
        | _ => State.landTurns ((s.landPost p.2.1 p.2.2).note x (landKey + p.1) .done) x ps
      else
        (s.askFor x.parker x.ctx.agency x.ctx.num
          [{ key := landKey + p.1, modul := nameModule p.2.1, lanes := lanesOf [p.1], req := .land p.2.1 p.2.2 }], false)

/-- What the reservations of an instruction come to. -/
inductive Reserved where
  /-- Refused in these slices. -/
  | bad (fs : List (Nat × Cause))
  | waits (s : State)
  /-- Every answer is there: the state with the places of this module, and the slices that got one. -/
  | got (s : State) (ok : List Nat)
  deriving DecidableEq, Repr

/-- The names of a POST checked and its places reserved, at peers too (R334, R336). Slices that fail here do not keep those of peers
from being checked. -/
def State.reservePosts (s : State) (x : Iss) (nf : Bool) (ps : List (Nat × Int × Int)) : Reserved :=
  let here := s.reserveAll ps
  let remote := ps.filter fun p => decide (nameModule p.2.1 ≠ s.modul) && (s.portNameFault p.2.1).isNone
  let missing := remote.filter fun p => !(s.waitsOf x.parker).any fun w => decide (w.key = p.1)
  let ask := missing.map fun p =>
    ({ key := p.1, modul := nameModule p.2.1, lanes := lanesOf [p.1], req := .reserve p.2.1 } : RemReq)
  let refused := remote.filterMap fun p =>
    match s.granted x p.1 with | some (.refused c) => some (p.1, refusalCause c) | _ => none
  let full := here.full.map fun k => (k, Cause.portFull)
  let bad := here.bad ++ (if nf then [] else full) ++ refused.filter fun r => decide (r.2 ≠ .portFull) || !nf
  if missing ≠ [] then .waits (s.askFor x.parker x.ctx.agency x.ctx.num ask)
  else if remote.any fun p => (s.granted x p.1).isNone then .waits s
  else if bad ≠ [] then .bad bad
  else if here.wait ≠ [] then .waits (here.wait.foldl (fun s q => s.park q.1 x.parker q.2) s)
  else .got here.s ((ps.filter fun p => !here.full.contains p.1 && !refused.any fun r => decide (r.1 = p.1)).map Prod.fst)

/-- POST and POST.nf (R334 to R336): every place is reserved before any message lands. -/
def post (nf : Option MReg) (rx ry : SReg) (s : State) : Answer :=
  issue
    (fun _ => { Uses.none with dests := match nf with | some m => if m.val = 0 then [] else [.msk m] | none => [] })
    (fun x _ s =>
      let ps := x.posts rx ry
      let finish (ok : List Nat) (s : State) : State :=
        match nf with
        | some m => x.putMask m (ps.flatMap fun p => (lanesOf [p.1]).map fun l => (l, if ok.contains p.1 then 1 else 0)) s
        | none => s
      let land (ok : List Nat) (s : State) : Except Stop State :=
        let r := s.landTurns x (ps.filter fun p => ok.contains p.1)
        if r.2 then .ok (finish ok r.1) else .error (.stall .post r.1)
      match ((s.waitsOf x.parker).find? fun w => decide (w.key = 2 * landKey)).bind fun w => w.reply with
      | some (.vals ks) => land (ks.map Int.toNat) s
      | _ =>
        match s.reservePosts x nf.isSome ps with
        | .bad fs =>
          if fs.all fun b => decide (b.2 = .uncorrectable) then .error (.halt .uncorrectable (s.releaseRemote x ps)) else
          .error (.trapWith (.lanesOnly (fs.flatMap fun b => (lanesOf [b.1]).map fun l => (l, b.2, 0))) (s.releaseRemote x ps))
        | .waits s1 => .error (.stall .post s1)
        | .got s1 ok =>
          if ps.all fun p => decide (nameModule p.2.1 = s.modul) then
            .ok (finish ok ((ps.filter fun p => ok.contains p.1).foldl (fun s p => s.landPost p.2.1 p.2.2) s1))
          else land ok (s1.note x (2 * landKey) (.vals (ok.map Int.ofNat)))) s

/-- POST (R334). -/
def execPost (x y : SReg) (s : State) : Answer := post none x y s
/-- POST.nf (R334). -/
def execPostNf (x y : SReg) (m : MReg) (s : State) : Answer := post (some m) x y s

/-- PORTQRY (R337). -/
def execPortqry (rx ry : SReg) (s : State) : Answer :=
  issue (fun x => { Uses.none with dests := x.sDests ry, faults := x.sliceFaults (x.badIndex rx) .portIndex })
    (fun x _ s =>
      let v (k : Nat) : Int :=
        match x.team.ports[(x.s k rx).toNat]? with
        | some p => if p.depth = 0 then -1 else p.held.length
        | none => -1
      .ok (x.setS ry (x.slices.map fun k => (k, v k)) s)) s

/-- An empty pattern (R338). -/
def Pattern.empty : Pattern := { cond := 0, prio := 0, enabled := false, handler := 0 }

/-- Pattern i of a team. -/
def Team.pat (t : Team) (i : Nat) : Pattern := t.pats.getD i Pattern.empty
/-- Pattern i of a team changed. -/
def Team.modPat (t : Team) (i : Nat) (f : Pattern → Pattern) : Team :=
  { t with pats := (List.range 27).map fun j => if j = i then f (t.pat j) else t.pat j }

/-- The positions of the +1 trits of a condition, and of the -1 trits. -/
def condPlus (c : Int) : List Nat := plusTrits 27 c
/-- The ports that must be empty. -/
def condMinus (c : Int) : List Nat := (List.range 27).filter fun i => decide (tritAt i c = -1)

/-- What PATSET checks of its index, condition and handler (R339). -/
def Iss.patFaults (x : Iss) (rx ry rz : SReg) : List (Nat × Cause × Int) :=
  x.sliceFaults (fun k => decide (x.s k rx < 0) || decide (x.s k rx > 26)) .portIndex ++
    x.sliceFaults (fun k =>
      let c := x.s k ry
      !highZero 27 c || (condPlus c).isEmpty || decide ((condPlus c).length > 24)) .valueRange ++
    x.sliceFaults (fun k =>
      (condPlus (x.s k ry) ++ condMinus (x.s k ry)).any fun i => decide (i ≥ x.team.ports.length)) .portIndex ++
    x.slices.flatMap fun k => targetFaults k (x.s k rz)

/-- PATSET (R339). -/
def execPatset (rx ry rz : SReg) (prio : Int) (s : State) : Answer :=
  issue (fun x => { Uses.none with faults := x.patFaults rx ry rz })
    (fun x _ s =>
      .ok (x.slices.foldl (fun s k => s.modTeam x.team.key fun t =>
        t.modPat (x.s k rx).toNat fun p => { p with cond := x.s k ry, prio := prio, handler := x.s k rz }) s)) s

/-- PATEN and PATDIS (R340). -/
def patSwitch (on : Bool) (rx : SReg) (s : State) : Answer :=
  issue (fun x => { Uses.none with
      faults := x.sliceFaults (fun k =>
        !highZero 27 (x.s k rx) || hasMinus 27 (x.s k rx) ||
          (on && (condPlus (x.s k rx)).any fun i => decide ((x.team.pat i).cond = 0))) .valueRange })
    (fun x _ s =>
      .ok (x.slices.foldl (fun s k => s.modTeam x.team.key fun t =>
        (condPlus (x.s k rx)).foldl (fun t i => t.modPat i fun p => { p with enabled := on }) t) s)) s

/-- PATEN (R340). -/
def execPaten (x : SReg) (s : State) : Answer := patSwitch true x s
/-- PATDIS (R340). -/
def execPatdis (x : SReg) (s : State) : Answer := patSwitch false x s

/-- HELD_SIGNAL_POST_LAND (R343, R417): the post that a binding fired, or a correction made, and no room was there for lands, in firing
order. -/
def execHeldSignalPostLand (n : Nat) (s : State) : Answer :=
  match s.eng.posts.find? fun h => decide (h.id = n) with
  | none => .fault (.notEnabled "HELD_SIGNAL_POST_LAND")
  | some h =>
    if ((s.eng.posts.find? fun q => decide (q.port = h.port)).map HeldPost.id) ≠ some n then .fault (.notEnabled "HELD_SIGNAL_POST_LAND")
    else
      match (if nameModule h.port = s.modul then s.landHeldPost true h else s.landFarPost h) with
      | some s' => .next s'
      | none => .fault (.notEnabled "HELD_SIGNAL_POST_LAND")

/-- A pattern holds (R382). -/
def Team.holdsPat (t : Team) (p : Pattern) : Bool :=
  let held (i : Nat) : Nat := match t.ports[i]? with | some q => q.held.length | none => 0
  p.enabled && decide (p.cond ≠ 0) && (condPlus p.cond).all (fun i => decide (held i > 0)) &&
    (condMinus p.cond).all fun i => decide (held i = 0)

/-- The gang slots of a core that are in use (R131). -/
def State.usedSlots (s : State) (core : Nat) : List Nat :=
  (s.teams.filter fun t => decide (t.core = core) && t.onCore).flatMap fun t => (t.gangs.filter fun g => decide (g.idx < 27)).map Gang.slot

/-- The slot that a gang takes next, given those in use (R377). -/
def freeSlot (used : List Nat) : Option Nat :=
  minBy (fun n => 27 * (used.filter fun u => decide (u % 3 = n % 3)).length + n) ((List.range 27).filter fun n => !used.contains n)

/-- The lowest gang index that a team does not use (R385). -/
def Team.freeIndex (t : Team) : Option Nat := (List.range 27).find? fun i => !t.gangs.any fun g => decide (g.idx = i)

/-- A handler gang of the team could start at once (R382). -/
def State.canStart (s : State) (t : Team) : Bool :=
  match s.grid? t.grid with
  | none => false
  | some g => (freeSlot (s.usedSlots t.core)).isSome && t.freeIndex.isSome && decide (g.entryBlocks ≤ s.freeBlocks t.core)

/-- The eligible patterns of a core: team, pattern index (R382). A team that drains before a save is still on its core (R271). -/
def State.eligible (s : State) (core : Nat) : List (Team × Nat) :=
  (s.teams.filter fun t => decide (t.core = core) && t.onCore && !t.ended).flatMap fun t =>
    ((List.range 27).filter fun i => t.holdsPat (t.pat i) && s.canStart t).map fun i => (t, i)

/-- The position of the pattern that a core fired last (R383). -/
def State.lastFired (s : State) (core : Nat) : Nat := let v := (getZ core s.lastFire).toNat; if v = 0 then 728 else v - 1

/-- The pattern that fires next on a core (R383). -/
def State.nextPattern (s : State) (core : Nat) : Option (Team × Nat) :=
  let es := s.eligible core
  let top := (es.map fun e => (e.1.pat e.2).prio).foldl Max.max (-4)
  minBy (fun e => (27 * e.1.pos + e.2 + 729 - s.lastFired core - 1) % 729) (es.filter fun e => decide ((e.1.pat e.2).prio = top))

/-- A pattern fires: its messages are dequeued and its handler starts as a new gang (R383, R385). -/
def State.firePattern (s : State) (t : Team) (i : Nat) : State :=
  match s.grid? t.grid, freeSlot (s.usedSlots t.core), t.freeIndex with
  | some g, some slot, some idx =>
    let p := t.pat i
    let ps := condPlus p.cond
    let msgs := ps.map fun q => match t.ports[q]? with | some r => r.held.headD 0 | none => 0
    let priv := match s.ctx? g.ctx with | some c => c.priv | none => false
    let regs := setRangeZ 3 msgs (entryScalars (g.dbl 8))
    let h : Gang := { Gang.fresh g priv t.index idx slot 1 p.handler regs s.mem.wlog.length with tileSet := [] }
    let take (u : Team) : Team :=
      { u with ports := mapPos (fun q => ps.contains q) (fun _ (r : Port) => { r with held := r.held.drop 1 }) u.ports,
               gangs := u.gangs ++ [h] }
    let s1 := s.modTeam t.key take
    let s2 := { s1 with lastFire := setZ t.core ((27 * t.pos + i + 1 : Nat) : Int) s1.lastFire }
    let s3 := s2.emitJoin t 1 i idx
    let agency := match s.ctx? g.ctx with | some c => c.agency | none => 0
    let s4 := s3.emitSched agency t h 1 0
    ps.foldl (fun s q => match t.ports[q]? with | some r => s.flushPosts (portName s.modul t.key q r.gen) | none => s) s4
  | _, _, _ => s

/-- JOIN_UNIT_CYCLE (R383): at most one pattern fires on the core, and posts held for freed places land. -/
def execJoinUnitCycle (core : Nat) (s : State) : Answer :=
  if s.gated core then .fault (.notEnabled "JOIN_UNIT_CYCLE") else
  match s.nextPattern core with
  | some (t, i) => .next (s.firePattern t i)
  | none => .next s

end Sys2Proof.Machine
end

