-- ==== Sys2Proof/Machine/Record.lean ====
section
/-!
DEFINITION. Phase records in memory (R267 to R272, R386): what a save writes, and what a resumption checks and reads back.
A team that is out keeps its state beside the record; what privileged software stores in the record replaces it.
-/
namespace Sys2Proof.Machine

/-- The lines of a phase record of a team with an allocation of so many trytes (R267, R386). -/
def recordLines (alloc : Nat) : Nat := 23842 + alloc / 81 + 32

/-- The address of word w of the section of gang g. -/
def Team.sectionAddr (t : Team) (g w : Nat) : Int := t.record + 81 * (1 + 883 * (g : Int)) + 3 * (w : Int)
/-- The address of the scratchpad image. -/
def Team.imageAddr (t : Team) : Int := t.record + 81 * 23842
/-- The address of pattern i in the port backing store (R386). -/
def Team.patAddr (t : Team) (i : Nat) : Int := t.portAddr 27 + 12 * (i : Int)
/-- The address of the join state line. -/
def Team.joinAddr (t : Team) : Int := t.portAddr 31

/-- The teams of the cluster group of a team, itself among them (R146). -/
def State.groupOf (s : State) (t : Team) : List Team :=
  if t.group ≤ 1 then [t]
  else s.teams.filter fun u => decide (u.grid = t.grid) && decide (u.index / t.group = t.index / t.group)

/-- The numbered gangs of a team. -/
def Team.numbered (t : Team) : List Gang := t.gangs.filter fun g => decide (g.idx < 27)

/-- Word j of the record header (R267). -/
def State.recordHeader (s : State) (t : Team) (boundary : Bool) (j : Nat) : Int :=
  if j = 0 then (if boundary then 1 else -1)
  else if j = 1 then t.index
  else if j = 2 then tritSet (t.numbered.map Gang.idx)
  else if j = 3 then t.moves
  else if j = 4 then t.alloc
  else if j = 5 then 27 * (Nat.max 1 t.group : Int) + ((t.index % Nat.max 1 t.group : Nat) : Int)
  else if j = 6 then t.core
  else if j = 7 then t.stage
  else if j = 8 then (match s.grid? t.grid with | some g => if g.token then 1 else 0 | none => 0)
  else 0

/-- A record header is one that R270 accepts for the team. -/
def recordHeaderOk (t : Team) (ws : List Int) : Bool :=
  let w (i : Nat) : Int := ws.getD i 0
  (decide (w 0 = 1) || decide (w 0 = -1)) && decide (w 1 ≥ 0) && decide (w 2 = tritSet (t.numbered.map Gang.idx)) && decide (w 3 ≥ 0) &&
    decide (w 4 = (t.alloc : Int)) && highZero 6 (w 5) && decide (1 ≤ sub 3 3 (w 5)) && decide (sub 3 3 (w 5) ≤ 8) &&
    decide (0 ≤ sub 0 3 (w 5)) && decide (sub 0 3 (w 5) ≤ 7) && decide (0 ≤ w 6) && decide (w 6 ≤ 1023) && decide (w 7 ≥ 0) &&
    (decide (w 8 = 0) || decide (w 8 = 1)) && (List.range 18).all fun i => decide (w (9 + i) = 0)

/-- Words lo to lo + n - 1. -/
def wordRun (lo n : Nat) : List Nat := (List.range n).map fun i => lo + i

/-- The scalars of slice k that a boundary save carries (R125). -/
def Team.carriedS (t : Team) (g k : Nat) : List Nat :=
  match t.arrivals.find? fun a => decide (a.gang = g) && decide (a.slice = k) with
  | some a => (plusTrits 27 a.scalars).filter fun r => decide (r ≠ 0)
  | none => []

/-- The words of a gang's section that a save writes and a resumption reads (R267), the header apart. -/
def Team.savedWords (t : Team) (g : Gang) (boundary : Bool) : List Nat :=
  let ks := List.range g.slices.length
  wordRun 27 54 ++
    (ks.flatMap fun k =>
      let area := 27 * (3 + 3 * k)
      if boundary then ((t.carriedS g.idx k).flatMap fun r => [area + 2 * r, area + 2 * r + 1]) ++ wordRun (area + 54) 2
      else wordRun area 81) ++
    (g.blockList.flatMap fun b => wordRun (27 * (30 + 9 * b)) 243) ++
    ((t.heldTiles g).flatMap fun j => wordRun (27 * (111 + 27 * j)) 729) ++
    (if boundary then []
     else
       (match g.bank with
        | some b => wordRun (27 * 840) 243 ++ b.slices.flatMap fun k => wordRun (27 * 849 + 18 * k) 18
        | none => []) ++
         wordRun (27 * 855) 27 ++ (List.range g.shown.length).flatMap fun n => wordRun (27 * (856 + n)) 27)

/-- A word of storage of a record written by the device. -/
def State.putWord (s : State) (w : Who) (a v : Int) : State := match s.devWrite w a 3 v with | .ok s' => s' | _ => s

/-- The words of a list written from an address on. -/
def State.putWords (s : State) (w : Who) (a : Int) (vs : List Int) : State :=
  vs.zipIdx.foldl (fun s v => s.putWord w (a + 3 * (v.2 : Int)) v.1) s

/-- The words of line p of the port backing store (R386). -/
def Team.portWords (t : Team) (p : Nat) : List Int := match t.ports[p]? with | some q => portLine q | none => List.replicate 27 0

/-- The record of a team written (R269, R271, R386). -/
def State.writeRecord (s : State) (t : Team) (boundary : Bool) : State :=
  match s.ctxOf t with
  | none => s
  | some c =>
    let w := Who.device c
    let s1 := s.putWords w t.record ((List.range 27).map (s.recordHeader t boundary))
    let s2 := t.numbered.foldl (fun s g =>
      let fb (k : Nat) : Int := s.faultedBatch c.num (g.slice k)
      (List.range 27 ++ t.savedWords g boundary).foldl (fun s i => s.putWord w (t.sectionAddr g.idx i) (sectionWord t g fb i)) s) s1
    let s3 := (List.range (t.alloc / 81)).foldl (fun (s : State) (i : Nat) =>
      match s.devWrite w (t.imageAddr + 81 * (i : Int)) 81 (ofTrytes (rangeZ (81 * i) 81 t.scratch)) with | .ok s' => s' | _ => s) s2
    let s4 := (List.range 27).foldl (fun s p => s.putWords w (t.portAddr p) (t.portWords p)) s3
    let s5 := (List.range 27).foldl (fun s i =>
      let p := t.pat i
      s.devWrites w (t.patAddr i) [p.cond * pow3 27 + p.prio * pow3 25 + (if p.enabled then pow3 24 else 0), p.handler]) s4
    s5.putWords w t.joinAddr ((t.pos : Int) :: List.replicate 26 0)

/-- The parts of a team's record that lie on peers, page by page, as the device asks for them (R402). -/
def State.recordReqs (s : State) (t : Team) (c : Context) : List RemReq :=
  let first := t.record / 19683
  let last := t.record + 81 * (recordLines t.alloc : Int) - 1
  (List.range (last / 19683 - first + 1).toNat).filterMap fun (i : Nat) =>
    let lo := Max.max t.record (19683 * (first + (i : Int)))
    let n := (Min.min last (19683 * (first + (i : Int)) + 19682) - lo + 1).toNat
    match s.locate (Who.device c) .load lo 1 with
    | .ok [.peer m p] => some { key := i, modul := m, lanes := [], req := .load p n false, addr := lo, len := n }
    | _ => none

/-- Who reads a record, and the parts of it that peers have answered, by address. -/
structure RecView where
  who : Who
  far : List (Int × List Int)

/-- The record of a team as the device reads it. -/
def State.recView (s : State) (t : Team) (c : Context) : RecView :=
  { who := Who.device c,
    far := (s.waitsOf (.table t.key)).filterMap fun w => match w.reply with | some (.vals vs) => some (w.addr, vs) | _ => none }

/-- n trytes of a record read back; none when they cannot be read. -/
def State.getTrytes (s : State) (v : RecView) (a : Int) (n : Nat) : Option (List Int) :=
  match s.locate v.who .load a n with
  | .ok ls =>
    if ls.any Loc.isPeer then
      (v.far.find? fun f => decide (f.1 ≤ a) && decide (a + (n : Int) ≤ f.1 + f.2.length)).map fun f => (f.2.drop (a - f.1).toNat).take n
    else some (ls.map fun l => s.readLoc false l)
  | _ => none

/-- Words read back from an address on; none when one cannot be read. -/
def State.getWords (s : State) (v : RecView) (a : Int) (n : Nat) : Option (List Int) :=
  (List.range n).foldl (fun (acc : Option (List Int)) i =>
    match acc, s.getTrytes v (a + 3 * (i : Int)) 3 with
    | some l, some ts => some (l ++ [ofTrytes ts])
    | _, _ => none) (some [])

/-- A team with words of the section of gang g put in place where they differ from what the section shows. -/
def Team.loadWords (t : Team) (s : State) (v : RecView) (fb : Nat → Int) (g : Nat) (is : List Nat) : Option Team :=
  is.foldl (fun (acc : Option Team) i =>
    match acc with
    | none => none
    | some t =>
      match t.gang? g, s.getTrytes v (t.sectionAddr g i) 3 with
      | some x, some ts => some (if ofTrytes ts = sectionWord t x fb i then t else putSectionWord t fb g i (ofTrytes ts))
      | _, _ => none) (some t)

/-- A port line that keeps the layout of R386. -/
def portLineOk (ws : List Int) : Bool :=
  let h := ws.headD 0
  let n := sub 21 3 h
  decide (0 ≤ sub 24 3 h) && decide (sub 24 3 h ≤ 9) && decide (0 ≤ n) && decide (n ≤ 9) && decide (sub 0 12 h = 0) &&
    decide (ws.getD 1 0 = 0) && decide (ws.getD 2 0 = 0) &&
    ((List.range 24).all fun i => decide ((i : Int) < 2 * n) || decide (ws.getD (3 + i) 0 = 0))

/-- A join state line that keeps the layout of R386. -/
def joinLineOk (ws : List Int) : Bool := decide (-1 ≤ ws.headD 0) && decide (ws.headD 0 ≤ 26) && (ws.drop 1).all fun v => decide (v = 0)

/-- A pattern as two doubles keeps R338. -/
def patternOk (a b : Int) : Bool :=
  decide (sub 0 24 a = 0) && decide (tritAt 24 a ≠ -1) && decide (b % 3 = 0) && decide (b ≤ maxAddr) && decide (b ≥ -maxAddr)

/-- A pattern of two doubles. -/
def patternOf (a b : Int) : Pattern := { cond := sub 27 27 a, prio := sub 25 2 a, enabled := decide (tritAt 24 a = 1), handler := b }

/-- The team as a record's header gives it (R267, R268): moves, last core, next stage, team number, and the size of its group and its
rank there where they have been changed (log 56). -/
def State.headerTeam (s : State) (t : Team) (h : List Int) : Team :=
  let w (i : Nat) : Int := h.getD i 0
  let group := Nat.max 1 (sub 3 3 (w 5)).toNat
  let rank := (sub 0 3 (w 5)).toNat
  let base := (w 1).toNat
  let turned := decide (w 5 ≠ s.recordHeader t true 5)
  { t with
    moves := (w 3).toNat, lastCore := (w 6).toNat, stage := (w 7).toNat, group := if turned then group else t.group,
    index := if turned && decide (rank < group) then base / group * group + rank else base }

/-- The gangs in the tile mode of a record's header, where that has been changed. -/
def State.headerMode (s : State) (t u : Team) (h : List Int) : Team :=
  if h.getD 8 0 = s.recordHeader t true 8 then u
  else { u with gangs := u.gangs.map fun g => { g with mode := setTrit 2 (h.getD 8 0) g.mode } }

/-- The ports and patterns of a record's backing store; none when a line breaks R386 (R388). -/
def State.readStore (s : State) (t : Team) (v : RecView) : Option (List Port × List Pattern) :=
  let lines := (List.range 27).map fun p => s.getWords v (t.portAddr p) 27
  let pats := (List.range 27).map fun i => s.getTrytes v (t.patAddr i) 12
  let ok (l : Option (List Int)) (f : List Int → Bool) : Bool := match l with | some ws => f ws | none => false
  let pat (ts : List Int) : Int × Int := (ofTrytes (ts.take 6), ofTrytes (ts.drop 6))
  if (lines.all fun l => ok l portLineOk) && (pats.all fun l => ok l fun ts => patternOk (pat ts).1 (pat ts).2) &&
      ok (s.getWords v t.joinAddr 27) joinLineOk then
    let port (p : Port × Nat) : Port :=
      let ws := (lines.getD p.2 none).getD []
      let m (k : Nat) : Int := ws.getD (3 + 2 * k) 0 + pow3 27 * ws.getD (4 + 2 * k) 0
      portOfLine p.1.reserved (ws.headD 0) ((List.range 9).map m)
    some (t.ports.zipIdx.map port, pats.map fun l => let q := pat (l.getD []); patternOf q.1 q.2)
  else none

/-- The gang sections of a record read into a team; none when one is malformed or cannot be read (R270). -/
def State.readGangs (s : State) (t : Team) (ctx : Nat) (v : RecView) (boundary : Bool) (u : Team) : Option Team :=
  t.numbered.foldl (fun (acc : Option Team) g =>
    match acc, s.getWords v (t.sectionAddr g.idx 0) 27 with
    | some u, some ws =>
      let dir := if boundary then some [] else s.getWords v (t.sectionAddr g.idx (27 * 855)) 27
      if !headerOk g (fun j => ws.getD j 0) || !(match dir with | some ds => ds.all pendingWordOk | none => false) then none
      else
        let fb (k : Nat) : Int := s.faultedBatch ctx (g.slice k)
        match u.loadWords s v fb g.idx (List.range 27 ++ if boundary then [] else wordRun (27 * 855) 27) with
        | none => none
        | some u1 =>
          match u1.gang? g.idx with
          | some g1 => (u1.loadWords s v fb g.idx (u1.savedWords g1 boundary)).map fun u2 => u2.modGang g.idx Gang.dropBlank
          | none => none
    | _, _ => none) (some u)

/-- A team as its record holds it, with the kind of the record; none when it is malformed or cannot be read (R268, R270, R388). -/
def State.readRecord (s : State) (t : Team) : Option (Bool × Team) :=
  match s.ctxOf t with
  | none => none
  | some c =>
    let v := s.recView t c
    match s.getWords v t.record 27 with
    | none => none
    | some h =>
      if !recordHeaderOk t h then none
      else
        let boundary := decide (h.getD 0 0 = 1)
        let scratch := (List.range (t.alloc / 81)).foldl (fun (acc : Option ZMap) (i : Nat) =>
          match acc, s.getTrytes v (t.imageAddr + 81 * (i : Int)) 81 with
          | some m, some ts => some (setRangeZ (81 * i) ts m)
          | _, _ => none) (some [])
        match s.readGangs t c.num v boundary t, scratch, s.readStore t v with
        | some u, some m, some q => some (boundary, s.headerMode t { s.headerTeam u h with scratch := m, ports := q.1, pats := q.2 } h)
        | _, _, _ => none

/-- The migrating pages in which the record of a team lies (R175). -/
def State.recordPages (s : State) (t : Team) : List (Int × Int) :=
  match s.ctxOf t with
  | none => []
  | some c =>
    let first := t.record / 19683
    let n := ((t.record + 81 * (recordLines t.alloc : Int) - 1) / 19683 - first + 1).toNat
    ((List.range n).flatMap fun (i : Nat) =>
      match s.locate (Who.device c) .store (Max.max t.record (19683 * (first + (i : Int)))) 1 with | .migr ps => ps | _ => []).eraseDups

/-- The device waits for pages of a team's record. -/
def State.recordParked (s : State) (t : Team) : Bool := s.xlate.parked.any fun p => decide (p.who = .table t.key)

/-- The record of a team lies in no migrating page, nor waits for one (R175). -/
def State.recordThere (s : State) (t : Team) : Bool := !s.recordParked t && (s.recordPages t).isEmpty

/-- The device waits for the pages of the records of teams that migrate (R175). -/
def State.parkRecords (s : State) (ts : List Team) : State :=
  ts.foldl (fun s t => if s.recordParked t then s else s.park ((s.ctxOf t).map Context.num |>.getD 0) (.table t.key) (s.recordPages t)) s

end Sys2Proof.Machine
end

