-- ==== Sys2Proof/Machine/Distribute.lean ====
section
/-!
DEFINITION. The distributor (R374 to R378): what fits where, the order of pending work, placing teams and cluster groups,
resuming those that were switched out (R272, R273, R276), and when a boundary switches a team out.
-/
namespace Sys2Proof.Machine

/-- What a team asks of a core (R376): gang slots, pool blocks, scratchpad lines, tiles in the leader's and the follower's
store. -/
structure Need where
  gangs  : Nat
  blocks : Nat
  lines  : Nat
  lead   : Nat
  follow : Nat
  deriving DecidableEq, Repr

/-- The need of a new team of a grid. -/
def Grid.need (g : Grid) : Need :=
  let n := if g.token then 1 else g.gangs
  { gangs := g.gangs, blocks := g.gangs * g.entryBlocks, lines := g.scratchSize / 81, lead := n * ((g.tiles + 1) / 2),
    follow := n * (g.tiles / 2) }

/-- Tiles that a team holds in the leader's and in the follower's store (R319); those of a gang that has ended return once its tile
operations have retired (R88, R281). -/
def Team.tileUse (t : Team) : Nat × Nat :=
  let ts := List.range t.tokens.length ++ t.gangs.flatMap fun g => if g.token || (decide (27 ≤ g.idx) && g.ops.isEmpty) then [] else g.tileSet
  ((ts.filter fun j => decide (j % 2 = 0)).length, (ts.filter fun j => decide (j % 2 = 1)).length)

/-- The need of a team that resumes (R376): a slot for each gang of a team, and for each handler that it has beyond those; each gang's
entry blocks together with every block that the team carries. -/
def Team.need (t : Team) (g : Grid) : Need :=
  { gangs := Nat.max g.gangs t.numbered.length, blocks := g.gangs * g.entryBlocks + (t.numbered.map fun x => x.blockList.length).sum, lines := t.alloc / 81, lead := t.tileUse.1, follow := t.tileUse.2 }

/-- A core may be given work (R375, R459, R461). -/
def State.coreReady (s : State) (core : Nat) : Bool := decide (s.readyByte (core / 8) = 1) && !s.underTest (.core core)

/-- The teams on a core. -/
def State.teamsOn (s : State) (core : Nat) : List Team := s.teams.filter fun t => decide (t.core = core) && t.onCore

/-- The lines of the core's scratchpad that are allocated: first line, lines (R158). -/
def State.linesUsed (s : State) (core : Nat) : List (Nat × Nat) := (s.teamsOn core).map fun t => (t.line, t.alloc / 81)

/-- The first run of n free lines. -/
def freeRun (used : List (Nat × Nat)) (n : Nat) : Option Nat :=
  let free (l : Nat) : Bool := decide (l + n ≤ 6561) && used.all fun u => decide (u.2 = 0) || decide (l + n ≤ u.1) || decide (u.1 + u.2 ≤ l)
  minBy id ((0 :: used.map fun u => u.1 + u.2).filter free)

/-- The tiles in use in the stores of the pair whose leader is a core. -/
def State.tilesUsed (s : State) (leader : Nat) : Nat × Nat :=
  ((s.teamsOn leader).map fun t => t.tileUse.1).sum |> fun a => (a, ((s.teamsOn leader).map fun t => t.tileUse.2).sum)

/-- The placement check of a core (R376): the first scratchpad line that the team would take. -/
def State.coreFits (s : State) (core : Nat) (n : Need) : Option Nat :=
  let resident := ((s.teamsOn core).filter fun t => !t.ended).length
  let u := s.tilesUsed core
  let tiles :=
    if n.lead + n.follow = 0 then true
    else
      decide (core % 2 = 0) && s.coreReady (core + 1) && !s.trust.downArrays.contains core && !s.trust.downArrays.contains (core + 1) &&
        decide (u.1 + n.lead ≤ 27) && decide (u.2 + n.follow ≤ 27)
  if (s.usedSlots core).length + n.gangs ≤ 27 ∧ n.blocks ≤ s.freeBlocks core ∧ tiles ∧ resident < 27 then
    freeRun (s.linesUsed core) n.lines
  else none

/-- A team of a grid passes the check on an empty core (R371, R373, R376). -/
def Grid.fitsEmpty (g : Grid) : Bool :=
  let n := g.need
  decide (n.gangs ≤ 27) && decide (n.blocks ≤ 216) && decide (n.lines ≤ 6561) && decide (n.lead ≤ 27) && decide (n.follow ≤ 27)

/-- An item of the distributor's pending work (R374). -/
inductive Item where
  | fresh (grid index : Nat)
  | resume (key : Nat)
  deriving DecidableEq, Repr

/-- A pending item with what orders it: priority, whether it is switched out, since when, the number of its grid. -/
structure Pend where
  item  : Item
  prio  : Int
  out   : Bool
  since : Nat
  num   : Nat
  deriving DecidableEq, Repr

/-- One item goes before another (R374). -/
def Pend.before (a b : Pend) : Bool :=
  if a.prio ≠ b.prio then decide (a.prio > b.prio)
  else if a.out ≠ b.out then a.out
  else if a.since ≠ b.since then decide (a.since < b.since) else decide (a.num < b.num)

/-- Teams of a grid that its record asks for. -/
def Grid.teams (g : Grid) : Nat := (g.dbl 2).toNat

/-- The teams of a team's group that are switched out. -/
def State.outGroup (s : State) (t : Team) : List Team :=
  (s.groupOf t).filter fun u => match u.place with | .out _ _ => true | _ => false

/-- A team that a self-test has moved aside waits for the core number kept for it, which is still under test (R274). -/
def State.kept (s : State) (t : Team) : Bool := match t.home with | some n => s.trust.testing.contains (.core n) | none => false

/-- The items of the pending work, of each grid the first unplaced one (R374). -/
def State.pending (s : State) : List Pend :=
  let outs := s.teams.filterMap fun t =>
    match t.place, s.grid? t.grid with
    | .out _ since, some g =>
      if ((s.outGroup t).head?.map Team.key) = some t.key && !(s.outGroup t).any s.kept then
        some { item := .resume t.key, prio := g.prio, out := true, since := since, num := g.num }
      else none
    | _, _ => none
  outs ++ s.grids.filterMap fun g =>
    if g.next < g.teams then some { item := .fresh g.num g.next, prio := g.prio, out := false, since := g.accepted, num := g.num } else none

/-- The item that the distributor serves first (R374). -/
def State.firstPending (s : State) : Option Pend :=
  s.pending.foldl (fun (a : Option Pend) p =>
    match a with
    | none => some p
    | some q => if p.before q then some p else some q) none

/-- A distributor record (R436). -/
def State.emitDist (s : State) (t : Team) (what : Int) : State :=
  match s.ctxOf t with
  | some c => s.emit c.agency 3236 5 (record 10 0 what (toTrytes 2 (t.key : Int) ++ [(t.core : Int)]))
  | none => s

/-- The lowest resident position that no team of the core has (R383). -/
def State.freePos (s : State) (core : Nat) : Nat :=
  ((List.range 27).find? fun i => !(s.teamsOn core).any fun t => decide (t.pos = i) && !t.ended).getD 27

/-- Slots taken one after another by so many gangs (R377). -/
def takeSlots (used : List Nat) : Nat → List Nat
  | 0 => []
  | n + 1 => match freeSlot used with | some k => k :: takeSlots (k :: used) n | none => []

/-- A team key for a new team: a free choice among those not in use (R332, log 5). -/
def State.newKey (s : State) : Nat :=
  let used (k : Nat) : Bool := s.teams.any fun t => decide (t.key = k)
  let k := 1 + (Config.free s.draws).natAbs % 193710244
  if used k then ((List.range (s.teams.length + 1)).map fun i => i + 1).find? (fun i => !used i) |>.getD (s.teams.length + 1) else k

/-- The first place for a record of n trytes in a context's phase area (R392). -/
def Context.recordRoom (c : Context) (n : Int) : Option Int :=
  let up (a : Int) : Int := (a + 728) / 729 * 729
  let ok (a : Int) : Bool :=
    decide (a + n ≤ c.phaseBase + c.phaseLen) && c.records.all fun r => decide (a + n ≤ r.1) || decide (r.1 + r.2 ≤ a)
  let cands := (c.phaseBase :: c.records.map fun r => up (r.1 + r.2)).filter ok
  cands.foldl (fun (m : Option Int) a => match m with | none => some a | some b => some (Min.min a b)) none

/-- The module's chip scratchpad can give a grid its allocation (R162, R374). -/
def State.chipRoom (s : State) (g : Grid) : Bool :=
  g.hasChip || decide (g.chipSize + ((s.grids.filter fun h => h.hasChip).map Grid.chipSize).sum ≤ 129140163)

/-- What scratchpads hold where teams that have ended had their allocations, but for lines that are allocated again (R149). -/
def Mem.allocate (m : Mem) (core line n : Nat) : Mem :=
  let taken (r : Residue) (c : Nat × Int) : Bool := decide (r.core = core) && decide (line ≤ r.line + c.1 / 81) && decide (r.line + c.1 / 81 < line + n)
  { m with residue := (m.residue.map fun r => { r with cells := r.cells.filter fun c => !taken r c }).filter fun r => !r.cells.isEmpty }

/-- Gangs in the order of their slots, in which the records of one cycle stand (R422). -/
def bySlot (gs : List Gang) : List Gang := (List.range 27).flatMap fun n => gs.filter fun g => decide (g.slot = n)

/-- A new team placed on a core at a line (R375, R377, R392). -/
def State.placeFresh (s : State) (g : Grid) (index core line : Nat) : Option State :=
  match s.ctx? g.ctx with
  | none => none
  | some c =>
    let n : Int := 81 * (recordLines g.scratchSize : Int)
    match c.recordRoom n with
    | none => none
    | some a =>
      if !s.chipRoom g then none
      else
        let t := { Team.fresh s g s.newKey index core (s.freePos core) line (takeSlots (s.usedSlots core) g.gangs) with record := a }
        let s1 : State := { s with teams := s.teams ++ [t], mem := s.mem.allocate core line (t.alloc / 81) }
        let s2 := (s1.modGrid g.num fun h => { h with next := index + 1, hasChip := true }).modCtx c.num fun d =>
          { d with records := (a, n) :: d.records }
        some ((bySlot t.gangs).foldl (fun s x => s.emitSched c.agency t x 1 0) (s2.emitDist t 1))

/-- A gang as it stands on a core again (R272, R276, R380): the sub-gang that holds its lowest slice comes first. -/
def Gang.backOn (g : Gang) (slot : Nat) (moved : Bool) : Gang :=
  let ks := g.liveSlices
  let low := if ks.contains 0 then (g.slice 0).sub else (g.slice (ks.headD 0)).sub
  { g.modSlices ks (fun _ y => { y with stall := none, moved := y.moved || moved }) with subPtr := low, slot := slot }

/-- The waits that a resumed team's return may end, tested (R143, R272). -/
def State.retestTeam (s : State) (t : Team) : State :=
  t.gangs.foldl (fun s g => s.retest t.key g.idx) (t.phasers.foldl (fun s p => s.freeWaiters (t.key, p)) s)

/-- The arrivals at the boundary of a team saved in mid-phase whose slices still wait there (R125, R271). -/
def Team.standing (t : Team) : List Arrival :=
  t.arrivals.filter fun a => t.gangs.any fun g => decide (g.idx = a.gang) && decide ((g.slice a.slice).wait = some .boundary)

/-- A team brought back on a core at a line, its record read and marked as that of a resident team (R267, R272, R273, R276). A
malformed record is logged and the team stays out for good (R270). -/
def State.placeResume (s0 : State) (t : Team) (core line : Nat) : Option State :=
  match t.place, s0.ctxOf t with
  | .out _ _, some c =>
    let s := { s0 with mem := s0.mem.allocate core line (t.alloc / 81) }
    match s.readRecord t with
    | none =>
      some (((s0.dropWaits (.table t.key)).modTeam t.key fun u => { u with place := .broken }).logEvent c.num
        ⟨t.record, 0, .phaseRecord, 0, 0, 0, 0, 0⟩ 0)
    | some (boundary, u) =>
      let moved := decide (core ≠ u.lastCore) || t.swapped
      let ids := (List.range 27).filter fun i => u.gangs.any fun g => decide (g.idx = i)
      let slots := takeSlots (s.usedSlots core) ids.length
      let slot (x : Gang) : Nat := match ids.idxOf? x.idx with | some i => slots.getD i 0 | none => x.slot
      let v : Team :=
        { u with place := .resident, core := core, pos := s.freePos core, line := line, since := s.clock.cycle,
                 moves := u.moves + (if moved then 1 else 0), lastCore := core, arrivals := if boundary then [] else u.standing, home := none, swapped := false,
                 gangs := u.gangs.map fun x => x.backOn (slot x) (moved && !boundary) }
      let s1 := ((s.dropWaits (.table t.key)).modTeam t.key fun _ => v).putWord (Who.device c) t.record 0
      some ((s1.emitDist v 4).retestTeam v |>.blocksReturned core)
  | _, _ => none

/-- One team of an item placed on a core when it passes the check there. -/
def State.placeOn (s : State) (core : Nat) (fresh : Option (Grid × Nat)) (key : Nat) : Option State :=
  if !s.coreReady core then none
  else
    match fresh with
    | some (g, i) => match s.coreFits core g.need with | some line => s.placeFresh g i core line | none => none
    | none =>
      match s.team? key with
      | none => none
      | some t =>
        match s.grid? t.grid with
        | none => none
        | some g => match s.coreFits core (t.need g) with | some line => s.placeResume t core line | none => none

/-- The teams of an item: new ones by grid and index, or keys. -/
def State.itemTeams (s : State) (p : Pend) : List (Option (Grid × Nat) × Nat) :=
  match p.item with
  | .fresh n i =>
    match s.grid? n with
    | some g => (List.range (Nat.max 1 g.group)).map fun r => (some (g, i + r), 0)
    | none => []
  | .resume k =>
    match s.team? k with
    | some t => (s.outGroup t).map fun u => (none, u.key)
    | none => []

/-- A grid whose next team has been placed meanwhile, as the state now has it. -/
def State.refresh (s : State) (f : Option (Grid × Nat)) : Option (Grid × Nat) := f.bind fun q => (s.grid? q.1.num).map fun g => (g, q.2)

/-- Teams placed in order, each on the first of some cores that takes it (R375). -/
def State.placeEach (s : State) (cores : List Nat) : List (Option (Grid × Nat) × Nat) → Option State
  | [] => some s
  | q :: qs =>
    match cores.findSome? fun c => s.placeOn c (s.refresh q.1) q.2 with
    | some s' => State.placeEach s' cores qs
    | none => none

/-- The core numbers kept for the teams of an item that a self-test has moved aside (R274). -/
def State.itemHomes (s : State) (qs : List (Option (Grid × Nat) × Nat)) : List Nat :=
  qs.filterMap fun q => if q.1.isSome then none else (s.team? q.2).bind Team.home

/-- Teams placed each on the core whose number is kept for it (R274). -/
def State.placeHome (s : State) (qs : List (Option (Grid × Nat) × Nat)) : Option State :=
  qs.foldl (fun (o : Option State) q => o.bind fun s => ((s.team? q.2).bind Team.home).bind fun c => s.placeOn c none q.2) (some s)

/-- The item is a cluster group, whatever its members still count (R374). -/
def State.itemGroup (s : State) (p : Pend) : Bool := match s.grid? p.num with | some g => decide (1 < g.group) | none => false

/-- An item placed by R375; none when it fits nowhere. -/
def State.placeItem (s : State) (p : Pend) : Option State :=
  match s.itemTeams p with
  | [] => none
  | q :: qs =>
    if s.itemHomes (q :: qs) ≠ [] then s.placeHome (q :: qs)
    else if s.itemGroup p then
      let order := (List.range 128).map fun i => (s.distPtr / 8 + i) % 128
      order.findSome? fun c =>
        (s.placeEach ((List.range 8).map fun i => 8 * c + i) (q :: qs)).map fun s' => { s' with distPtr := (8 * c + 8) % 1024 }
    else
      let order := (List.range 1024).map fun i => (s.distPtr + i) % 1024
      order.findSome? fun c => (s.placeOn c q.1 q.2).map fun s' => { s' with distPtr := (c + 1) % 1024 }

/-- An item would fit on a core, or for a group in its cluster (R378, R379). -/
def State.wouldFit (s : State) (p : Pend) (core : Nat) : Bool :=
  match s.itemTeams p with
  | [] => false
  | q :: qs =>
    let homes := s.itemHomes (q :: qs)
    if homes ≠ [] then homes.contains core && (s.placeHome (q :: qs)).isSome
    else if s.itemGroup p then (s.placeEach ((List.range 8).map fun i => 8 * (core / 8) + i) (q :: qs)).isSome
    else (s.placeOn core q.1 q.2).isSome

/-- The teams of an item that have records. -/
def State.itemOut (s : State) (p : Pend) : List Team :=
  match p.item with
  | .resume k => (match s.team? k with | some t => s.outGroup t | none => [])
  | .fresh _ _ => []

/-- The parts of teams' records on peers asked for; none when all have been answered (R402). -/
def State.askRecords (s : State) (ts : List Team) : Option State :=
  ts.foldl (fun (o : Option State) t =>
    let s1 := o.getD s
    match s1.ctxOf t with
    | none => o
    | some c =>
      match s1.answers (.table t.key) (s1.recordReqs t c) with
      | .pending missing => some (s1.askFor (.table t.key) c.agency c.num missing)
      | _ => o) none

/-- DISTRIBUTOR_PLACE (R374, R375): the first pending item is placed where it fits; when it fits nowhere it waits, and every
item behind it. Where a record lies in a migrating page or on a peer, the device first waits for that (R175, R402). -/
def execDistributorPlace (s : State) : Answer :=
  match s.firstPending with
  | none => .fault (.notEnabled "DISTRIBUTOR_PLACE")
  | some p =>
    let us := s.itemOut p
    match s.placeItem p with
    | none => .fault (.notEnabled "DISTRIBUTOR_PLACE")
    | some s' =>
      if us.any fun u => s.recordParked u then .fault (.notEnabled "DISTRIBUTOR_PLACE")
      else if us.any fun u => !(s.recordPages u).isEmpty then .next (s.parkRecords us)
      else
        match s.askRecords us with
        | none => .next s'
        | some s1 => if s1 = s then .fault (.notEnabled "DISTRIBUTOR_PLACE") else .next s1

/-- The posts and updates that instructions of a team have begun, its stores, copies, jobs, memory-side updates and tile operations are
done, those aside that have faulted (R271). -/
def State.drained (s : State) (t : Team) : Bool :=
  let begun := t.gangs.any fun g => g.liveSlices.any fun k => s.begun t.key g.idx k
  !begun && !(s.eng.redms.any fun r => decide (r.team = t.key)) && !(s.eng.stores.any fun q => decide (q.team = t.key)) &&
    !(s.eng.copies.any fun c => decide (c.team = t.key) && decide (c.stage ≠ -1)) &&
    (t.gangs.all fun g => g.ops.isEmpty) &&
    s.ctxs.all fun c => c.jobs.all fun j =>
      decide (j.team ≠ t.key) || (match j.state with | .submitted | .running | .readDone => false | _ => true)

/-- Teams switched out at a boundary that they have passed (R269). -/
def State.switchOut (s : State) (ts : List Team) : State :=
  let s1 := ts.foldl (fun s t =>
    match s.team? t.key with
    | some u => ((s.writeRecord u true).modTeam t.key fun v => { v with place := .out true s.clock.cycle }).emitDist u 2
    | none => s) s
  ts.foldl (fun s t => s.blocksReturned t.core) s1

/-- Pending work asks for the core of a team of a group that has passed its boundary (R378). -/
def State.wantsCore (s : State) (ts : List Team) : Bool :=
  match ts with
  | [] => false
  | t :: _ =>
    let prio := match s.grid? t.grid with | some g => g.prio | none => 0
    let gone := ts.foldl (fun (s : State) u => s.modTeam u.key fun v => { v with place := .broken }) s
    s.pending.any fun p =>
      (decide (p.prio > prio) || (decide (p.prio = prio) && decide (s.clock.cycle - p.since ≥ 1594323))) &&
        ts.any fun u => gone.wouldFit p u.core

end Sys2Proof.Machine
end

