-- ==== Sys2Proof/Machine/Jobs.lean ====
section
/-!
DEFINITION. Job cards (R209 to R216), submitting and following jobs (R219 to R221), and the steps of the task scheduler and
of the job and link engines (R195 to R198, R214, R217, R218, R241 to R244).
-/
namespace Sys2Proof.Machine

/-- Double i of a card. -/
def cardDbl (c : List Int) (i : Nat) : Int := c.getD i 0
/-- The kind of a card (R210). -/
def cardKind (c : List Int) : Int := sub 51 3 (cardDbl c 0)
/-- The element field of a card. -/
def cardElem (c : List Int) : Int := sub 49 2 (cardDbl c 0)
/-- The regions that a card declares, reads or writes (R211). -/
def cardRegions (c : List Int) (write : Bool) : List (Int × Int) :=
  (List.range 3).map fun i => (sub 18 36 (cardDbl c ((if write then 6 else 3) + i)), sub 0 18 (cardDbl c ((if write then 6 else 3) + i)))
/-- The count of a counter double. -/
def counterCount (d : Int) : Int := sub 36 18 d
/-- The stride of a counter double. -/
def counterStride (d : Int) : Int := sub 0 36 d
/-- The number of the first source or destination counter. -/
def counterBase (dest : Bool) : Nat := if dest then 17 else 11
/-- The product of six counts. -/
def cardCount (c : List Int) (dest : Bool) : Int :=
  (List.range 6).foldl (fun (a : Int) i => a * counterCount (cardDbl c (counterBase dest + i))) 1
/-- The elements of a card's walk (R212, R213). -/
def cardElements (c : List Int) : Nat := (cardCount c (decide (cardKind c = 1 ∨ cardKind c = -3))).toNat
/-- The offset of element n by six counters (R212). -/
def walkOffset (c : List Int) (dest : Bool) (n : Nat) : Int :=
  ((List.range 6).foldl (fun (a : Int × Nat) i =>
    let d := cardDbl c (counterBase dest + i)
    let k := (counterCount d).toNat
    (a.1 + counterStride d * ((a.2 % k : Nat) : Int), a.2 / k)) (0, n)).1

/-- Trytes of an element code (R210). -/
def elemTrytes (e : Int) : Nat := if e = 1 then 3 else if e = -1 then 6 else if e = 2 then 81 else 1
/-- The alignment of an element code (R216). -/
def elemAlign (e : Int) : Int := if e = 0 then 1 else if e = 2 then 81 else 3

/-- Bytes of a binary format code, 0 for a reserved one (R215). -/
def convBytes (f : Int) : Nat :=
  if f = 1 ∨ f = -1 then 1 else if f = 2 ∨ f = -2 ∨ f = 5 ∨ f = -5 then 2 else if f = 3 ∨ f = -3 ∨ f = 6 then 4
  else if f = 4 ∨ f = 7 then 8 else 0
/-- The binary float format of a code, if it is one. -/
def convFloat (f : Int) : Option BinFmt :=
  if f = 5 then some binary16 else if f = 6 then some binary32 else if f = 7 then some binary64 else if f = -5 then some bfloat16 else none
/-- Trytes of the ternary type of a conversion. -/
def tyTrytes (t : Ty) : Nat := match t with | .i27 | .f27 => 3 | .i54 => 6 | .f18 => 2 | _ => 1
/-- The conversion double of a card. -/
def cardConv (c : List Int) : Int := cardDbl c 23
/-- The direction: binary to ternary. -/
def convIn (d : Int) : Bool := decide (tritAt 53 d = 1)
/-- The binary format code. -/
def convFmt (d : Int) : Int := sub 50 3 d
/-- The ternary type. -/
def convTy (d : Int) : Ty := (tyOf (sub 47 3 d)).getD .i27
/-- A value out of range saturates. -/
def convSat (d : Int) : Bool := decide (tritAt 44 d = 1)

/-- The rounding of a conversion (R215). -/
def convRnd (d : Int) (mode : Rnd) : Rnd := if sub 45 2 d = 0 then mode else rndOfCode (sub 45 2 d)

/-- A conversion double is well-formed (R215, R216). -/
def convOk (d : Int) (mode : Rnd) : Bool :=
  let f := convFmt d
  let r := sub 45 2 d
  decide (tritAt 53 d ≠ 0) && decide (convBytes f ≠ 0) && decide (sub 0 44 d = 0) && decide (tritAt 44 d ≠ -1) &&
    (decide (r = 0) || decide (r = 1) || decide (r = -1) || decide (r = 2) || decide (r = -2)) &&
    decide (convRnd d mode ≠ .stoch) &&
    (match tyOf (sub 47 3 d) with
     | some t =>
       if (convFloat f).isSome then decide (t = .f9 ∨ t = .f18 ∨ t = .f27) else decide (t = .i9 ∨ t = .i27 ∨ t = .i54)
     | none => false)

/-- Six counters all count 1 with stride 0. -/
def unitCounters (c : List Int) (dest : Bool) : Bool :=
  (List.range 6).all fun i => decide (cardDbl c (counterBase dest + i) = pow3 36)

/-- A card is well-formed, but for its phaser and signal (R216); a negative destination module of kind +4 is not (DESIGN CHOICE, log 93). -/
def cardOk (self : Nat) (mode : Rnd) (c : List Int) : Bool :=
  let k := cardKind c
  let e := cardElem c
  let al := elemAlign e
  let ds := (List.range 12).map fun i => cardDbl c (11 + i)
  let es := cardCount c false
  let ed := cardCount c true
  let tail (n : Nat) : Bool := (List.range (27 - n)).all fun i => decide (cardDbl c (n + i) = 0)
  (decide (k = 0) || decide (k = 1) || decide (k = -1) || decide (k = 2) || decide (k = 3) || decide (k = -3) || decide (k = 4)) &&
    (decide (e = 0) || decide (e = 1) || decide (e = -1) || decide (e = 2)) && (decide (k ≠ 2) || decide (e = 0)) &&
    decide (sub 47 2 (cardDbl c 0) ≠ 4) && decide (sub 47 2 (cardDbl c 0) ≠ -4) && decide (sub 0 47 (cardDbl c 0) = 0) &&
    ((cardRegions c false) ++ (cardRegions c true)).all (fun r => decide (r.2 ≥ 0)) &&
    ds.all (fun d => decide (counterCount d ≥ 1) && decide (counterStride d % al = 0)) &&
    (if k = 1 then unitCounters c false else if k = -1 ∨ k = 3 then unitCounters c true
     else if k = -3 then unitCounters c false else decide (es = ed)) &&
    decide (es ≤ pow3 26) && decide (ed ≤ pow3 26) && decide (cardDbl c 9 % al = 0) && decide (cardDbl c 10 % al = 0) &&
    (if k = 1 ∨ k = -1 then tail 24 && decide (cardDbl c 23 % al = 0)
     else if k = 2 then tail 24 && convOk (cardConv c) mode
     else if k = 4 then
       tail 25 && decide (0 ≤ cardDbl c 23) && decide (cardDbl c 23 ≤ 6560) && decide (cardDbl c 23 ≠ (self : Int))
     else tail 23)

/-- The causes with which a card that a slice submits traps, with the address of the phaser or signal where the cause is its (R216, R259). -/
def State.cardFaults (s : State) (x : Iss) (c : List Int) : List (Cause × Int) :=
  (if cardOk s.modul x.gang.rnd c then [] else [(Cause.cardMalformed, (0 : Int))]) ++
    (if cardDbl c 1 = 0 then [] else match s.phaserAt x.team (cardDbl c 1) with | .error e => [(e, cardDbl c 1)] | .ok _ => []) ++
    (if cardDbl c 2 % 3 = 0 then [] else [(Cause.misaligned, cardDbl c 2)])

/-- Jobs of a context that have not reached visibility (R219). -/
def Context.openJobs (c : Context) : Nat :=
  (c.jobs.filter fun j => match j.state with | .visible | .finished => false | _ => true).length

/-- A card submitted by a slice: the next number of its context, a job, an entry of its open batch (R219). -/
def State.submitJob (s : State) (x : Iss) (k : Nat) (a : Int) (c : List Int) : State × Nat :=
  match s.ctx? x.ctx.num with
  | none => (s, 0)
  | some cx =>
    let n := cx.jobSeq + 1
    let j : Job :=
      { num := n, ctx := cx.num, team := x.issue.team, grid := x.grid.num, gang := x.issue.gang, slice := k, core := x.team.core,
        word := x.word, card := c, at_ := a, rnd := x.gang.rnd, state := .submitted, engine := 0, pos := 0, fresh := 1, waiting := [], off := 0, sized := 0, next := 0,
        count := 0, stream := [], staged := [], entered := false, flags := 0, merged := false, watched := false }
    let keep (i : Job) : Bool :=
      decide (i.num + 2187 > n) || (match i.state with | .visible | .finished => false | _ => true)
    let s1 := s.modCtx cx.num fun y => { y with jobSeq := n, jobs := y.jobs.filter keep ++ [j] }
    (x.modGang (fun g => g.modSlices [k] fun _ y => { y with copy := { y.copy with openB := y.copy.openB ++ [.job n] } }) s1, n)

/-- The accesses by which slices read n doubles at register r (R219, R349, R353). -/
def Iss.cardAccs (x : Iss) (r : SReg) (n : Nat) (al : Int) : List Acc :=
  x.slices.map fun k =>
    { lanes := lanesOf [k], lane := some (3 * k), addr := x.s k r, len := 6 * n, op := .load, aligned := decide (x.s k r % al = 0) }

/-- The doubles that access i reads. -/
def Got.doubles (got : Got) (s : State) (i n : Nat) : List Int := digits 54 n (got.read s i)

/-- The slices whose open batch is full (R205, R219). -/
def Iss.batchFaults (x : Iss) (ks : List Nat) : List (Nat × Cause × Int) :=
  (ks.filter fun k => decide ((x.gang.slice k).copy.openB.length ≥ 27)).flatMap fun k => sliceFault k .batchFull 0

/-- JOBSUB (R219). -/
def execJobsub (rx ry : SReg) (s : State) : Answer :=
  issue (fun x => { Uses.none with
      dests := x.sDests ry, accs := x.cardAccs rx 27 81, faults := x.batchFaults x.slices,
      more := fun s seen => x.slices.zipIdx.flatMap fun p =>
        match seen p.2 with
        | some vs => (s.cardFaults x (digits 54 27 (ofTrytes vs))).flatMap fun c => sliceFault p.1 c.1 c.2
        | none => [] })
    (fun x got s =>
      let cards := x.slices.zipIdx.map fun p => (p.1, got.doubles s p.2 27)
      if x.ctx.openJobs + cards.length > 2187 then .error (.stall .copyLimit s)
      else
        .ok (cards.foldl (fun s p =>
          let r := s.submitJob x p.1 (x.s p.1 rx) p.2
          x.setS ry [(p.1, (r.2 : Int))] r.1) s)) s

/-- JOBQRY (R220). -/
def execJobqry (rx ry : SReg) (s : State) : Answer :=
  issue (fun x => { Uses.none with dests := x.sDests ry })
    (fun x _ s =>
      .ok (x.slices.foldl (fun s k =>
        let n := x.s k rx
        let recent := decide (1 ≤ n) && decide (n ≤ (x.ctx.jobSeq : Int)) && decide (n > (x.ctx.jobSeq : Int) - 2187)
        match if recent then (s.ctx? x.ctx.num).bind fun c => c.job? n.toNat else none with
        | none => x.setS ry [(k, -2)] s
        | some j =>
          let v : Int := match j.state with | .visible => 2 | .readDone => 1 | .submitted | .running => 0 | .faulted | .finished => -1
          x.setS ry [(k, v)] (if v > 0 then s.mergeJob j else s)) s)) s

/-- A load that an instruction makes after its first ones, at an address that these gave. -/
def bodyAcc (k : Nat) (a : Int) (n : Nat) (al : Int) : Acc :=
  { lanes := lanesOf [k], lane := some (3 * k), addr := a, len := n, op := .load, aligned := decide (a % al = 0) }

/-- The requests to peers of such a load, numbered from key on (R402). -/
def State.bodyReqs (s : State) (x : Iss) (k key : Nat) (a : Int) (n : Nat) (al : Int) : List RemReq :=
  match s.checkAcc x (bodyAcc k a n al) with
  | .ok ls => (farRuns ls).map fun r => { key := key + r.1, modul := runModule r.2, lanes := lanesOf [k], req := runLoad false r.2, addr := a, len := n }
  | _ => []

/-- The traps among what stops slices. -/
def stopLanes (es : List Stop) : List (Nat × Cause × Int) := es.flatMap fun e => match e with | .trap t => t.lanes | _ => []

/-- The records of 27 doubles that the slices of an instruction could read, by slice. -/
def Iss.cardsRead (x : Iss) (seen : Nat → Option (List Int)) : List (Nat × List Int) :=
  x.slices.zipIdx.filterMap fun p => (seen p.2).map fun vs => (p.1, digits 54 27 (ofTrytes vs))

/-- The value of such a load, or what stops the instruction (R96, R175, R249, R402). key numbers its requests to peers. -/
def State.bodyLoad (s : State) (x : Iss) (k key : Nat) (a : Int) (n : Nat) (al : Int) : Except Stop Int :=
  let acc := bodyAcc k a n al
  if s.walkersFull x [acc] then .error (.stall .walkers s) else
  match s.checkAcc x acc with
  | .bad .uncorrectable => .error (s.stopWalk x acc)
  | .bad c => .error (.trap (.lanesOnly ((lanesOf [k]).map fun l => (l, c, a))))
  | .migr ps => .error (.stall .migrating ((s.dropWaits x.parker).park x.ctx.num x.parker ps))
  | .ok ls =>
    match s.badAcc [(acc, ls)] with
    | some b => .error (s.stopBad x acc (some b.2))
    | none =>
      match s.answers x.parker (s.bodyReqs x k key a n al) with
      | .pending [] => .error (.stall .remote s)
      | .pending missing => .error (.stall .remote (s.askFor x.parker x.ctx.agency x.ctx.num missing))
      | .bad fs =>
        let hard := fs.filter fun f => decide (f.2 ≠ .uncorrectable)
        if hard = [] then .error (s.stopBad x acc none)
        else .error (.trap (.lanesOnly (hard.flatMap fun f => f.1.lanes.map fun l => (l, f.2, f.1.addr))))
      | .all rem => .ok (ofTrytes (s.readWith false ls (rem.map fun p => (p.1 - key, p.2))))

/-- Several doubles read so. -/
def State.bodyDoubles (s : State) (x : Iss) (k key : Nat) (a : Int) (n : Nat) (al : Int) : Except Stop (List Int) :=
  match s.bodyLoad x k key a (6 * n) al with
  | .error e => .error e
  | .ok v => .ok (digits 54 n v)

/-- The lines that loads of an instruction's body touch, and the watchpoints that they meet (R359, R445). -/
def State.bodyDone (s : State) (x : Iss) (accs : List Acc) : Except Stop State :=
  let rs := accs.map fun a => (a, s.checkAcc x a)
  match s.watchLate x Uses.none rs with
  | .error e => .error e
  | .ok s1 => .ok ((accPlaces rs).foldl (fun s p => s.touch (x.who p.1.lane) .load p.1.addr p.2) s1)

/-- A trap in the lanes of slice k. -/
def sliceTrap (k : Nat) (c : Cause) : Stop := .trap (.of (lanesOf [k]) c)

/-- The stop of an instruction that stops so: a trap with every trapping lane, or else the first stall or halt. -/
def joinStops (es : List Stop) : Option Stop :=
  if stopLanes es ≠ [] then some (.trap (.lanesOnly (stopLanes es))) else es.head?

/-- The first key of the requests to peers that slice k's ADVSTG makes. -/
def stageKey (k : Nat) : Nat := 16384 * (k + 1)

/-- What a slice's ADVSTG has read: the cards with their addresses, and its accesses. -/
structure StageRead where
  cards : List (Int × List Int)
  accs  : List Acc
  deriving DecidableEq, Repr

/-- The cards that a list of addresses names, each read and checked as JOBSUB does (R219, R221), and what stops some of them. -/
def State.stageCards (s : State) (x : Iss) (k : Nat) (as : List (Int × Nat)) : List (Int × List Int) × List Stop :=
  as.foldl (fun (r : List (Int × List Int) × List Stop) a =>
    match s.bodyDoubles x k (stageKey k + 512 * (a.2 + 2)) a.1 27 81 with
    | .error e => (r.1, r.2 ++ [e])
    | .ok c => (r.1 ++ [(a.1, c)], r.2 ++ (s.cardFaults x c).map fun f => .trap (.lanesOnly (sliceFault k f.1 f.2)))) ([], [])

/-- The cards of stage n of the schedule of a team (R221, R346), for a slice's open batch. -/
def State.stage (s : State) (x : Iss) (k : Nat) (n : Int) : Except Stop StageRead :=
  let sched := x.grid.dbl 10
  if sched % 3 ≠ 0 then .error (sliceTrap k .cardMalformed)
  else
    match s.bodyDoubles x k (stageKey k) sched 1 3 with
    | .error e => .error e
    | .ok h =>
      let count := h.headD 0
      if count < 1 ∨ count > 729 then .error (sliceTrap k .cardMalformed)
      else if n < 0 ∨ n ≥ count then .error (sliceTrap k .valueRange)
      else
        match s.bodyDoubles x k (stageKey k + 64) (sched + 6 + 6 * n) 1 3 with
        | .error e => .error e
        | .ok l =>
          let list := l.headD 0
          if list % 3 ≠ 0 then .error (sliceTrap k .cardMalformed)
          else
            match s.bodyDoubles x k (stageKey k + 128) list 1 3 with
            | .error e => .error e
            | .ok q =>
              let cards := q.headD 0
              if cards < 1 ∨ cards > 27 then .error (sliceTrap k .cardMalformed)
              else
                match s.bodyDoubles x k (stageKey k + 256) (list + 6) cards.toNat 3 with
                | .error e => .error e
                | .ok as =>
                  let r := s.stageCards x k as.zipIdx
                  let full := if (x.gang.slice k).copy.openB.length + as.length > 27 then [sliceTrap k .batchFull] else []
                  match joinStops (r.2 ++ full) with
                  | some e => .error e
                  | none =>
                    .ok { cards := r.1,
                          accs := [bodyAcc k sched 6 3, bodyAcc k (sched + 6 + 6 * n) 6 3, bodyAcc k list 6 3,
                                   bodyAcc k (list + 6) (6 * cards.toNat) 3] ++ as.map fun a => bodyAcc k a 162 81 }

/-- What ADVSTG of the slices comes to (R221): for each what it reads or what stops it; next is the stage after those submitted. -/
def State.stages (s : State) (x : Iss) (rx : SReg) : List Nat → Int → List (Nat × Except Stop StageRead)
  | [], _ => []
  | k :: ks, next =>
    if x.grid.dbl 10 = 0 then (k, .error (sliceTrap k .noSchedule)) :: State.stages s x rx ks next
    else if x.s k rx < next then (k, .ok ⟨[], []⟩) :: State.stages s x rx ks next
    else if x.s k rx > next then (k, .error (sliceTrap k .valueRange)) :: State.stages s x rx ks next
    else
      match s.stage x k next with
      | .error e => (k, .error e) :: State.stages s x rx ks next
      | .ok r => (k, .ok r) :: State.stages s x rx ks (next + 1)

/-- ADVSTG (R221). -/
def execAdvstg (rx ry : SReg) (s : State) : Answer :=
  issue (fun x => { Uses.none with dests := x.sDests ry })
    (fun x _ s =>
      let plan := s.stages x rx x.slices x.team.stage
      match joinStops (plan.filterMap fun p => match p.2 with | .error e => some e | .ok _ => none) with
      | some e => .error e
      | none =>
        let read (p : Nat × Except Stop StageRead) : StageRead := match p.2 with | .ok r => r | .error _ => ⟨[], []⟩
        if x.ctx.openJobs + (plan.map fun p => (read p).cards.length).sum > 2187 then .error (.stall .copyLimit s)
        else
          match s.bodyDone x (plan.flatMap fun p => (read p).accs) with
          | .error e => .error e
          | .ok s1 =>
            .ok (plan.foldl (fun s p =>
              let cs := (read p).cards
              let r := cs.foldl (fun (a : State × Nat) c => a.1.submitJob x p.1 c.1 c.2) (s, 0)
              let s2 := if cs = [] then r.1 else r.1.modTeam x.team.key fun t => { t with stage := t.stage + 1 }
              x.setS ry [(p.1, (r.2 : Int))] s2) s1)) s

/-- A job by its context and number. -/
def State.job? (s : State) (ctx n : Nat) : Option Job := (s.ctx? ctx).bind fun c => c.job? n
/-- A job changed. -/
def State.modJob (s : State) (j : Job) (f : Job → Job) : State :=
  s.modCtx j.ctx fun c => { c with jobs := mapIf (fun i => decide (i.num = j.num)) f c.jobs }

/-- A job is of kind +4 and runs on a link engine (R241). -/
def Job.link (j : Job) : Bool := decide (cardKind j.card = 4)
/-- A job occupies its engine. -/
def Job.busy (j : Job) : Bool := match j.state with | .running | .readDone | .faulted => true | _ => false
/-- The trace source of a job's engine (R431). -/
def Job.source (j : Job) : Nat := if j.link then 3216 + j.engine else 3072 + 9 * (j.core / 64) + j.engine

/-- The engines of the kind that a job needs which are in use: of its facet die, or of the prism dies. -/
def State.enginesUsed (s : State) (j : Job) : List Nat :=
  (s.ctxs.flatMap fun c => c.jobs.filter fun i => i.busy && (i.link == j.link) && (j.link || decide (i.core / 64 = j.core / 64))).map
    Job.engine

/-- The engine that takes a job: the lowest free of nine, or of the eighteen link engines (R241). -/
def State.freeEngine (s : State) (j : Job) : Option Nat :=
  (List.range (if j.link then 18 else 9)).find? fun n => !(s.enginesUsed j).contains n

/-- Two regions meet (R195). -/
def regionsMeet (a b : Int × Int) : Bool := decide (0 < a.2) && decide (0 < b.2) && decide (a.1 < b.1 + b.2) && decide (b.1 < a.1 + a.2)
/-- Some region of one list meets one of the other. -/
def anyMeet (as bs : List (Int × Int)) : Bool := as.any fun a => bs.any fun b => regionsMeet a b

/-- The regions that a job declares (R195, R211); those to which a module-to-module job writes too, though they lie elsewhere. -/
def Job.regions (j : Job) (write : Bool) : List (Int × Int) := cardRegions j.card write

/-- Every edge from earlier jobs of its context is satisfied (R195, R217). -/
def State.edgesMet (s : State) (j : Job) : Bool :=
  match s.ctx? j.ctx with
  | none => false
  | some c =>
    (c.jobs.filter fun i => decide (i.num < j.num)).all fun i =>
      (i.state.isVisible || !(anyMeet (j.regions false) (i.regions true) || anyMeet (j.regions true) (i.regions true))) &&
        (i.state.isRead || !anyMeet (j.regions true) (i.regions false))

/-- An event record of a job's engine (R436). -/
def State.jobEvent (s : State) (j : Job) (code : Int) : State := s.engineEvent j.source j.ctx j.team j.gang 2 code j.num

/-- JOB_START (R195, R241): the scheduler hands a job to an engine. -/
def execJobStart (ctx n : Nat) (s : State) : Answer :=
  match s.job? ctx n with
  | none => .fault (.notEnabled "JOB_START")
  | some j =>
    match s.freeEngine j with
    | none => .fault (.notEnabled "JOB_START")
    | some e =>
      if j.state ≠ .submitted ∨ !s.edgesMet j ∨ !s.mayStart ctx j.team j.gang then .fault (.notEnabled "JOB_START")
      else .next ((s.modJob j fun i => { i with state := .running, engine := e }).jobEvent { j with engine := e } 1)

/-- A job faults: its engine is frozen with its state kept, nothing of it enters S, and the fault is logged (R196, R217). -/
def State.faultJob (s : State) (j : Job) (c : Cause) (a : Int) : State :=
  let s1 := (s.modJob j fun i => { i with state := .faulted }).dropWaits (.job j.ctx j.num)
  let e : LogEntry := ⟨a, j.word, c, j.core, j.gang % 27, j.slice, 3 * j.slice, j.at_⟩
  ((s1.jobEvent j (-1)).logEvent j.ctx e (s.nameOf j.team (j.gang % 27))).haltWaiters j.ctx

/-- Who a job's accesses are made for. -/
def State.jobWho (s : State) (j : Job) (c : Context) : Who :=
  { ctx := c, team := s.team? j.team, gang := j.gang, lane := none, core := some j.core }

/-- Every tryte of an access lies in a region (R196). -/
def inRegions (rs : List (Int × Int)) (a : Int) (n : Nat) : Bool :=
  (List.range n).all fun (i : Nat) => rs.any fun r => decide (r.1 ≤ a + (i : Int)) && decide (a + (i : Int) < r.1 + r.2)

/-- The form of one side of a job's elements: trytes, whether they are bytes, alignment (R213, R215). A compress or expand card may carry any
element code; its alignment follows the code and its walk takes whole lines (DESIGN CHOICE, log 92). -/
def Job.side (j : Job) (dest : Bool) : Nat × Bool × Int :=
  let k := cardKind j.card
  if k = 2 then
    let d := cardConv j.card
    if convIn d = dest then
      let n := tyTrytes (convTy d)
      (n, false, if n % 3 = 0 then 3 else 1)
    else (convBytes (convFmt d), true, 1)
  else if k = 3 then (if dest then (3, false, 3) else (81, false, 81))
  else if k = -3 then (if dest then (81, false, 81) else (3, false, 3))
  else (elemTrytes (cardElem j.card), false, elemAlign (cardElem j.card))

/-- The trytes of one read: a byte of a binary-view page, else a word, or an element shorter than a word (R197). -/
def Job.partLen (j : Job) : Nat := let f := j.side false; if f.2.1 then 1 else if f.1 % 3 = 0 then 3 else f.1

/-- Words that the stream of a line has, by its map word (R284). -/
def lineStreamLen (map : Int) : Nat :=
  1 + ((trits 9 map).map fun t => if t = 1 then 2 else if t = -1 then 3 else 0).sum

/-- The reads that the current element needs, its index word apart. -/
def Job.reads (j : Job) : Nat :=
  if cardKind j.card = -3 then (match j.stream with | [] => 1 | m :: _ => lineStreamLen m)
  else (j.side false).1 / j.partLen

/-- The card names an index list. -/
def Job.indexed (j : Job) : Bool := decide (cardKind j.card = 1 ∨ cardKind j.card = -1)

/-- The index of the current element. -/
def Job.index (j : Job) : Int := if j.indexed then j.stream.headD 0 else 0
/-- What has been read of the current element itself. -/
def Job.parts (j : Job) : List Int := if j.indexed then j.stream.drop 1 else j.stream

/-- The address of the current element on one side (R212, R213). -/
def Job.elemAddr (j : Job) (dest : Bool) : Int :=
  let k := cardKind j.card
  let streamed := decide ((k = 3 ∧ dest) ∨ (k = -3 ∧ !dest))
  cardDbl j.card (if dest then 10 else 9) +
    (if streamed then 3 * (j.off : Int)
     else walkOffset j.card dest j.pos + (if (k = 1 ∧ !dest) ∨ (k = -1 ∧ dest) then j.index else 0))

/-- The converted element: its trytes or bytes, with flags; none when it faults (R215, R39 to R41). -/
def convElem (d : Int) (rnd : Rnd) (parts : List Int) (unit : Nat) : Option (List Int × FlagSet) :=
  let f := convFmt d
  let t := convTy d
  let n := convBytes f
  let signed := decide (f > 0)
  let check (f : FlagSet) (v : List Int) : Option (List Int × FlagSet) :=
    if tritAt 5 f = 1 && !convSat d then none else some (v, f)
  if convIn d then
    let u := (parts.zipIdx.map fun p => p.1.toNat * 256 ^ p.2).sum
    match convFloat f with
    | some b => let r := binToFloat b (fmtOf t) (convRnd d rnd) 0 u; check r.flags (toTrytes (tyTrytes t) r.val)
    | none => let r := narrowInt (widthOf t) (binToInt (8 * n) signed u); check r.flags (toTrytes (tyTrytes t) r.val)
  else
    let x := ofDigits (9 * unit) parts
    match convFloat f with
    | some b =>
      let r := floatToBin (fmtOf t) b (convRnd d rnd) 0 x
      check r.2 ((bytesOfInt n r.1).map fun y => (y.toNat : Int))
    | none => let r := intToBin (8 * n) signed x; check r.2 ((bytesOfInt n r.1).map fun y => (y.toNat : Int))

/-- The trytes of values of the parts of an element. -/
def Job.partTrytes (j : Job) (parts : List Int) : List Int := parts.flatMap fun v => toTrytes j.partLen v

/-- What the current element writes, with flags; or the cause of a fault (R212, R213, R215, R286). -/
def Job.element (j : Job) : Except Cause (List Int × FlagSet) :=
  let k := cardKind j.card
  if k = 2 then
    match convElem (cardConv j.card) j.rnd j.parts j.partLen with
    | some r => .ok r
    | none => .error .conversionRange
  else if k = 3 then .ok ((packStream 1 9 j.parts).flatMap fun w => toTrytes 3 w, 0)
  else if k = -3 then
    match unpackStream 1 9 j.parts with
    | some (ws, _) => .ok (ws.flatMap fun w => toTrytes 3 w, 0)
    | none => .error .streamMalformed
  else .ok (j.partTrytes j.parts, 0)

/-- Trytes of element n put among those staged; of each address that of the last element in walk order remains (R198). -/
def stageAll (st : List (Int × Int × Nat)) (n : Nat) (a : Int) (vs : List Int) : List (Int × Int × Nat) :=
  let hit (p : Int × Int × Nat) : Bool := decide (a ≤ p.1) && decide (p.1 < a + (vs.length : Int))
  let later := st.filter fun p => hit p && decide (n < p.2.2)
  let new := vs.zipIdx.map fun v => (a + (v.2 : Int), v.1, n)
  (st.filter fun p => !hit p || decide (n < p.2.2)) ++ new.filter fun c => !later.any fun p => decide (p.1 = c.1)

/-- The pages for which a job waits (R244). -/
def State.jobParked (s : State) (j : Job) : Bool := s.xlate.parked.any fun p => decide (p.who = .job j.ctx j.num)

/-- Everything that the element in hand needs has been read. -/
def Job.isRead (j : Job) : Bool := !(j.indexed && j.stream.isEmpty) && decide (j.reads ≤ j.parts.length)

/-- The element in hand has n words of the job's stream, those after the element before it (R212, R213). -/
def Job.sizedBy (j : Job) (n : Nat) : Job :=
  if j.sized = j.pos then { j with off := j.next, next := j.next + n, sized := j.pos + 1 } else j

/-- The words that the element in hand adds to the stream of a compress job. -/
def Job.packed (j : Job) : Nat := (packStream 1 9 j.parts).length

/-- The job with the place of its element in hand settled: what a compress job has read of it says how long its stream is. -/
def Job.settled (j : Job) : Job := if cardKind j.card = 3 && j.isRead then j.sizedBy j.packed else j

/-- The element in hand can go on: of a compress job, its place in the stream is known, or it is still being read. -/
def Job.inOrder (j : Job) : Bool := decide (cardKind j.card ≠ 3) || !j.isRead || decide (j.pos ≤ j.sized)

/-- The address and length of the next access of the element in hand. -/
def Job.nextAccess (j : Job) : Int × Nat :=
  if j.indexed && j.stream.isEmpty then (cardDbl j.card 23 + 3 * (j.pos : Int), 3)
  else if j.parts.length < j.reads then (j.elemAddr false + (j.partLen : Int) * (j.parts.length : Int), j.partLen)
  else (j.settled.elemAddr true, if cardKind j.card = 3 then 3 * j.packed else (j.side true).1)

/-- The next access of the element in hand can be made, and meets no page for which the job waits (R175, R244). -/
def State.jobMay (s : State) (j : Job) : Bool :=
  let a := j.nextAccess
  j.inOrder && s.xlate.parked.all fun p =>
    decide (p.who ≠ .job j.ctx j.num) || !(decide (p.first < a.1 + (a.2 : Int)) && decide (a.1 ≤ p.last))

/-- The job with an element in hand that it had put back. -/
def Job.take (j : Job) (w : Nat × Nat × List Int) : Job :=
  { j with pos := w.1, off := w.2.1, stream := w.2.2, waiting := j.waiting.filter fun v => decide (v ≠ w) }

/-- The job with its element in hand put back. -/
def Job.aside (j : Job) : Job := { j with waiting := j.waiting ++ [(j.pos, j.off, j.stream)] }

/-- The job with its next element in hand (R244): one put back that can go on, else a new one, else none. Where the stream of an expand job
goes on is known once the map word before has been read. -/
def State.jobTurn (s : State) (j : Job) : Job :=
  match j.waiting.find? fun w => s.jobMay (j.take w) with
  | some w => j.take w
  | none =>
    let e := cardElements j.card
    if j.fresh < e ∧ (cardKind j.card = -3 → j.sized = j.fresh) then
      { j with pos := j.fresh, off := j.next, stream := [], fresh := j.fresh + 1 }
    else { j with pos := e, stream := [] }

/-- The element in hand waits for pages (R244): the job goes on with others. -/
def State.jobPark (s : State) (j : Job) (ps : List (Int × Int)) : State :=
  let s1 := s.park j.ctx (.job j.ctx j.num) ps
  s1.modJob j fun i => s1.jobTurn i.aside

/-- One read of a job (R217): misalignment and the footprint are checked with translation. -/
def State.jobRead (s : State) (j : Job) (c : Context) (a : Int) (n : Nat) (bin : Bool) (al : Int) : State :=
  let pre := (if a % al = 0 then [] else [Cause.misaligned]) ++
    (if inRegions (cardRegions j.card false) a n then [] else [.outsideFootprint])
  let op : AccOp := if bin then .binLoad else .load
  match s.engineRead (s.jobWho j c) (.job j.ctx j.num) op a n pre with
  | .bad e s1 => s1.faultJob j e a
  | .migr ps => s.jobPark j ps
  | .wait s1 => s1
  | .ok vs ls s1 =>
    let w := s1.engineWatch j.source j.ctx j.team j.gang false a n ls
    let r := ofTrytes vs
    let first := decide (cardKind j.card = -3) && j.stream.isEmpty
    w.1.modJob j fun i =>
      { (if first then i.sizedBy (lineStreamLen r) else i) with stream := i.stream ++ [r], watched := i.watched || w.2 }

/-- The staging of the current element's writes (R217, R242). -/
def State.jobStage (s : State) (j : Job) (c : Context) : State :=
  let a := j.elemAddr true
  let f := j.side true
  match j.element with
  | .error e => s.faultJob j e (j.elemAddr false)
  | .ok (vs, fl) =>
    let pre := (if a % f.2.2 = 0 then [] else [Cause.misaligned]) ++
      (if inRegions (cardRegions j.card true) a vs.length then [] else [.outsideFootprint])
    let op : AccOp := if f.2.1 then .binStore else .store
    let x := if j.link then Xs.ok [] else s.locate (s.jobWho j c) op a vs.length
    match firstOf (pre ++ match x with | .bad e => [e] | _ => []) with
    | some e => s.faultJob j e a
    | none =>
      match x with
      | .bad e => s.faultJob j e a
      | .migr ps => s.jobPark j ps
      | .ok ls =>
        let w := s.engineWatch j.source j.ctx j.team j.gang true a vs.length ls
        w.1.modJob j fun i =>
          s.jobTurn { i with staged := stageAll i.staged i.pos a vs, count := i.count + vs.length,
                             flags := joinF i.flags fl, watched := i.watched || w.2 }

/-- JOB_ACCESS (R217, R244): the next access of the walk: the element's index word, its reads in ascending order, then the
staging of its writes. -/
def execJobAccess (ctx n : Nat) (s0 : State) : Answer :=
  match s0.job? ctx n, s0.ctx? ctx with
  | some j0, some c =>
    let j := (if j0.pos ≥ cardElements j0.card then s0.jobTurn j0 else if j0.inOrder then j0 else s0.jobTurn j0.aside).settled
    if j.state ≠ .running ∨ j.pos ≥ cardElements j.card ∨ !s0.jobMay j ∨ s0.overheated then .fault (.notEnabled "JOB_ACCESS")
    else
      let s := s0.modJob j fun _ => j
      if j.indexed && j.stream.isEmpty then .next (s.jobRead j c j.nextAccess.1 3 false 3)
      else if cardKind j.card = -3 && (match j.stream with | m :: _ => !highZero 9 m | [] => false) then
        .next (s.faultJob j .streamMalformed (j.elemAddr false))
      else if j.parts.length < j.reads then
        let f := j.side false
        .next (s.jobRead j c j.nextAccess.1 j.partLen f.2.1 (if j.parts.length = 0 then f.2.2 else 1))
      else .next (s.jobStage j c)
  | _, _ => .fault (.notEnabled "JOB_ACCESS")

/-- JOB_READ_DONE (R197): every read of the walk has been made. -/
def execJobReadDone (ctx n : Nat) (s : State) : Answer :=
  match s.job? ctx n with
  | some j =>
    if j.state ≠ .running ∨ j.pos < cardElements j.card ∨ j.fresh < cardElements j.card ∨ j.waiting ≠ [] ∨ s.overheated then .fault (.notEnabled "JOB_READ_DONE")
    else
      let s1 := (s.modJob j fun i => { i with state := .readDone }).jobEvent j 2
      .next (s1.settle ctx j.team j.gang j.slice)
  | none => .fault (.notEnabled "JOB_READ_DONE")

/-- A job is reported visible: what it was to do has been done (R218). -/
def State.jobReport (s : State) (j : Job) : State :=
  let s1 := (s.modJob j fun i => { i with state := .visible, staged := [] }).jobEvent j 3
  let s2 := if j.watched then s1.jobEvent j 6 else s1
  (s2.settle j.ctx j.team j.gang j.slice).reap j.team

/-- The trytes written by a job land on its phaser, if it names one (R218). -/
def State.jobLand (s : State) (j : Job) : State := if cardDbl j.card 1 = 0 then s else s.land j.team (cardDbl j.card 1) j.count

/-- What making staged writes comes to: a fault with its address, pages, peers, or the state with the writes and the lines of this
module that they touch. -/
inductive Entered where
  | bad (c : Cause) (a : Int) (s : State)
  | migr (ps : List (Int × Int))
  | waits (s : State)
  | done (s : State) (lines : List Nat)

/-- Staged trytes enter together (R198), translated afresh (R244): every check first, with the acceptance of the peers that hold some
of them (R402). -/
def State.enterStaged (s : State) (p : Parker) (w : Who) (bin : Bool) (st : List (Int × Int)) : Entered :=
  let op : AccOp := if bin then .binStore else .store
  let ps := st.map fun t => (t.1, s.locate w op t.1 1, t.2)
  match ps.findSome? fun q => match q.2.1 with | .bad c => some (c, q.1) | _ => none with
  | some f => .bad f.1 f.2 s
  | none =>
    match ps.flatMap fun q => match q.2.1 with | .migr r => r | _ => [] with
    | r :: rs => .migr (r :: rs)
    | [] =>
      let cs : Cells := ps.filterMap fun q => match q.2.1 with | .ok [l] => some (q.1, l, q.2.2) | _ => none
      match s.badCell cs with
      | some a => .bad .uncorrectable a (s.noteBad ((cs.filter fun c => decide (c.1 = a)).map fun c => c.2.1))
      | none =>
        let ls := cs.map fun c => c.2.1
        let accepts := (farRuns ls).map fun r =>
          ({ key := r.1, modul := runModule r.2, lanes := [], req := runAccept true r.2, addr := (cs.map Prod.fst).getD r.1 0, len := r.2.length } : RemReq)
        match s.answers p accepts with
        | .pending missing => .waits (s.askFor p w.ctx.agency w.ctx.num missing)
        | .bad fs => (match fs with | f :: _ => .bad f.2 f.1.addr s | [] => .bad .ownerFenced 0 s)
        | .all _ =>
          match s.enterAll p w bin cs with
          | .error s1 => .waits s1
          | .ok s1 => .done s1 ((hbmOf ls).map fun q => q / 81).eraseDups

/-- The scope of a card (R210). -/
def cardScope (c : List Int) : Scope := (scopeOf (sub 47 2 (cardDbl c 0))).getD .modul

/-- The signal of a job on this module decremented, the last of what its visible completion does (R218). -/
def State.jobSignal (s : State) (j : Job) (c : Context) : State :=
  let sig := cardDbl j.card 2
  if sig = 0 then s.jobReport j
  else
    match s.decrementSignal (.job j.ctx j.num) c sig j.word with
    | .done s1 => s1.jobReport j
    | .waits s1 => s1
    | .migr ps => s.park j.ctx (.job j.ctx j.num) ps

/-- The module that a module-to-module job writes on (R213). -/
def Job.dest (j : Job) : Nat := (cardDbl j.card 23).toNat

/-- JOB_VISIBLE_COMPLETION (R198, R218): every staged write enters together, then the landing, then the signal. The writes
of a module-to-module job are sent to their module (R214). -/
def execJobVisibleCompletion (ctx n : Nat) (s : State) : Answer :=
  match s.job? ctx n, s.ctx? ctx with
  | some j, some c =>
    if j.state ≠ .readDone ∨ s.jobParked j ∨ s.overheated then .fault (.notEnabled "JOB_VISIBLE_COMPLETION")
    else if j.link then
      if s.waitsOf (.job ctx n) ≠ [] then .fault (.notEnabled "JOB_VISIBLE_COMPLETION")
      else if cardDbl j.card 24 < 0 then .next (s.faultJob j .landingRefused (cardDbl j.card 10))
      else
        let ws := j.staged.map fun t => (t.1, t.2.1)
        let r : RemReq := ⟨0, j.dest, [], .jobWrite (cardDbl j.card 24).toNat ws (cardDbl j.card 2) j.word, 0, 0⟩
        .next (s.askFor (.job ctx n) c.agency ctx [r])
    else if j.entered then
      let t := s.jobSignal j c
      if t = s then .fault (.notEnabled "JOB_VISIBLE_COMPLETION") else .next t
    else
      match s.enterStaged (.job ctx n) (s.jobWho j c) (j.side true).2.1 (j.staged.map fun t => (t.1, t.2.1)) with
      | .bad e a s1 => .next (s1.faultJob j e a)
      | .migr ps => .next (s.park ctx (.job ctx n) ps)
      | .waits s1 => if s1 = s then .fault (.notEnabled "JOB_VISIBLE_COMPLETION") else .next s1
      | .done s1 lines =>
        let s2 := (s1.endLeases (cardScope j.card) j.core lines).jobLand j
        .next ((s2.modJob j fun i => { i with entered := true }).jobSignal j c)
  | _, _ => .fault (.notEnabled "JOB_VISIBLE_COMPLETION")

/-- What follows the writes of a module-to-module job, which its destination has acknowledged (R214, R218): its trytes land on its phaser here,
then the destination decrements its signal, which tag names. -/
def State.jobAcked (s : State) (j : Job) (c : Context) (tag : Nat) : State :=
  let s1 := (s.dropWaits (.job j.ctx j.num)).jobLand j
  if cardDbl j.card 2 = 0 then s1.jobReport j
  else (s1.modJob j fun i => { i with entered := true }).askFor (.job j.ctx j.num) c.agency j.ctx [⟨0, j.dest, [], .jobSignal tag, 0, 0⟩]

/-- M2M_JOB_ACK (R214): the destination has acknowledged the job's writes, refused them, or been fenced (R404); or it has decremented the
signal, which a fence leaves undone (R150). -/
def execM2mJobAck (ctx n : Nat) (s : State) : Answer :=
  match s.job? ctx n, s.ctx? ctx with
  | some j, some c =>
    if j.state ≠ .readDone ∨ s.overheated then .fault (.notEnabled "M2M_JOB_ACK")
    else
      match s.waitsOf (.job ctx n) with
      | w :: _ =>
        if w.reply.isNone && !s.isFenced w.modul then .fault (.notEnabled "M2M_JOB_ACK")
        else if j.entered then .next ((s.dropWaits (.job ctx n)).jobReport j)
        else
          match w.reply with
          | some (.refused e) => .next (s.faultJob j (refusalCause e) (cardDbl j.card 10))
          | some _ =>
            if s.taken (.job ctx n) j.dest then .fault (.notEnabled "M2M_JOB_ACK") else .next (s.jobAcked j c w.tag)
          | none => .next (s.faultJob j .ownerFenced (cardDbl j.card 10))
      | [] => .fault (.notEnabled "M2M_JOB_ACK")
  | _, _ => .fault (.notEnabled "M2M_JOB_ACK")

/-- FAULTED_JOB_FINISH (R217): once the log entry is acknowledged the job counts as finished. -/
def execFaultedJobFinish (ctx n : Nat) (s : State) : Answer :=
  match s.job? ctx n with
  | some j =>
    if j.state ≠ .faulted ∨ s.ctxHalted ctx then .fault (.notEnabled "FAULTED_JOB_FINISH")
    else .next (((s.modJob j fun i => { i with state := .finished, staged := [], stream := [], waiting := [] }).settle ctx j.team j.gang j.slice).reap j.team)
  | none => .fault (.notEnabled "FAULTED_JOB_FINISH")

end Sys2Proof.Machine
end

