-- ==== Sys2Proof/Machine/Matrix.lean ====
section
/-!
DEFINITION. The matrix pair (R278 to R302, R317 to R330): MXM in its forms, tile operations in their order, batches, tokens.
-/
namespace Sys2Proof.Machine

/-- Registers r to r + n - 1, as far as they exist. -/
def vrun (r n : Nat) : List VReg := (List.range n).filterMap fun i => if r + i < 81 then some (Fin.ofNat 81 (r + i)) else none

/-- The words of n registers from r on, all 27 lanes of each (R278). -/
def Gang.words (g : Gang) (r n : Nat) : List Int := rangeZ (27 * r) (27 * n) g.v

/-- A cause in every lane of the issue set. -/
def Iss.allLanes (x : Iss) (c : Cause) : List (Nat × Cause × Int) := x.lanes.map fun l => (l, c, (0 : Int))

/-- A cause in every lane of the issue set when it applies. -/
def Iss.when (x : Iss) (b : Bool) (c : Cause) : List (Nat × Cause × Int) := if b then x.allLanes c else []

/-- The tiles that a team holds. -/
def Team.holdsTiles (t : Team) : Bool := !t.tokens.isEmpty || t.gangs.any fun g => !g.token && !g.tileSet.isEmpty

/-- The core is not the leader of a pair that the team holds (R292, R318), or that serves it (R462). -/
def Iss.noPair (x : Iss) : Bool := decide (x.team.core % 2 = 1) || !x.team.holdsTiles || x.down

/-- Tile j is not held (R292). -/
def Iss.noTile (x : Iss) (j : Nat) : Bool := if x.gang.token then decide (j ≥ x.team.tokens.length) else !x.gang.tileSet.contains j

/-- The token of tile j is not held (R299). -/
def Iss.noToken (x : Iss) (j : Nat) : Bool := x.gang.token && decide (x.team.tokens.getD j 27 ≠ x.issue.gang)

/-- The causes of a tile operation on tiles (R292, R295, R299). -/
def Iss.tileFaults (x : Iss) (js : List Nat) : List (Nat × Cause × Int) :=
  x.when x.noPair .noPair ++ x.when (js.any x.noTile) .tileNotHeld ++ x.when (js.any x.noToken) .tokenNotHeld

/-- The map trits of the fragment stream at register r, one for each of its 81 blocks (R285). -/
def Gang.streamMap (g : Gang) (r : Nat) : List Int := (rangeZ (27 * r) 3 g.v).flatMap fun m => trits 27 m

/-- The length in words that the map of the fragment stream at register r gives (R285, R290). -/
def Gang.streamLen (g : Gang) (r : Nat) : Nat :=
  3 + ((g.streamMap r).map fun f => if f = 1 then 2 else if f = -1 then 3 else 0).sum

/-- The registers of a stream that its length reaches (R290). -/
def Gang.streamRegs (g : Gang) (r : Nat) : List VReg := vrun r (Nat.min 9 ((g.streamLen r + 26) / 27))

/-- The fragment stream at register r expanded; none when it is malformed (R285, R286). -/
def Gang.fragment (g : Gang) (r : Nat) : Option (List Int) :=
  if g.streamLen r > 243 then none else (unpackStream 3 81 (g.words r 9)).map Prod.fst

/-- The descriptor words of block d (R280). -/
def Gang.descs (g : Gang) (d : Nat) : List Int := g.words (9 * d) 9

/-- The lanes that hold a failing descriptor (R292). -/
def descFaults (ws : List Int) : List (Nat × Cause × Int) :=
  (ws.zipIdx.filter fun p => (readDesc p.1).isNone).map fun p => (p.2 % 27, Cause.descriptorInvalid, (0 : Int))

/-- A block reaches the array unless its map trit is 0 and its descriptor's zero point is 0 (R290, R322). -/
def blockIssued (form desc : Int) : Bool :=
  decide (form ≠ 0) || (match readDesc desc with | some d => decide (d.z ≠ 0) | none => true)

/-- The B blocks of a stream operation that reach the arrays (R322): forms are the map trits of both streams. -/
def issuedBlocks (forms desc : List Int) : Nat :=
  (forms.zipIdx.filter fun q => blockIssued q.1 (desc.getD (81 + q.2) 0)).length

/-- A form of MXM (R287): the kind of its operands, its descriptor block, whether B is two streams, saturation, the mode in
its flags field. -/
structure MxForm where
  kind   : MxKind
  desc   : Option Nat
  stream : Bool
  sat    : Bool
  rnd    : Option Rnd
  deriving DecidableEq, Repr

/-- The registers that an MXM reads (R290, R321). -/
def Iss.mxRegs (x : Iss) (o : MxForm) (f : MxmF) : List VReg :=
  vrun f.y.val 9 ++ (match o.desc with | some d => vrun (9 * d) 9 | none => []) ++
    if o.stream then x.gang.streamRegs f.z.val ++ x.gang.streamRegs (f.z.val + 9) else vrun f.z.val 18

/-- The causes of an MXM apart from registers not held (R292). -/
def Iss.mxFaults (x : Iss) (o : MxForm) (f : MxmF) : List (Nat × Cause × Int) :=
  let bad := decide (f.x.val % 2 = 1) || decide (f.x.val = 26) || decide (f.y.val % 9 ≠ 0) || decide (f.z.val % 9 ≠ 0) || decide (f.z.val > 63)
  x.when bad .valueRange ++ (match o.desc with | some d => descFaults (x.gang.descs d) | none => []) ++
    x.when (o.stream && ((x.gang.fragment f.z.val).isNone || (x.gang.fragment (f.z.val + 9)).isNone)) .streamMalformed ++
    x.tileFaults [f.x.val, f.x.val + 1]

/-- The rows of a tile read and written, for the watchpoints (R445). -/
def tileRows (j : Nat) (rows : List Nat) (rd wr : Bool) : List (Nat × Bool) :=
  (if rd then rows.map fun r => (27 * j + r, false) else []) ++ if wr then rows.map fun r => (27 * j + r, true) else []

/-- The matrix operations of a core's gangs that have not retired, with their gangs. -/
def State.mxOps (s : State) (core : Nat) : List (Nat × Nat × MxOp) :=
  (s.teams.filter fun t => decide (t.core = core) && t.onCore).flatMap fun t =>
    t.gangs.flatMap fun g => g.ops.filterMap fun o => match o with | .mx m => some (t.key, g.idx, m) | .move _ => none

/-- The matrix operations of a gang not retired. -/
def Gang.mxCount (g : Gang) : Nat := (g.ops.filter fun o => match o with | .mx _ => true | .move _ => false).length
/-- The pair queue or the gang can take no further matrix operation (R282, R324). -/
def State.mxStall (s : State) (x : Iss) : Option Stall :=
  if ((s.mxOps x.team.core).filter fun o => !o.2.2.inArray).length ≥ 9 then some .pairQueue
  else if x.gang.mxCount ≥ 27 then some .tile else none

/-- A matrix operation entered into the open batch and the pair queue (R289, R294). -/
def State.enterMx (s : State) (x : Iss) (o : MxOp) : State :=
  let s1 := x.modGang (fun g => { g with ops := g.ops ++ [.mx { o with seq := s.eng.nextId, batch := x.gang.sealedMx + 1, inArray := false }] }) s
  let s2 := { s1 with eng := { s1.eng with nextId := s1.eng.nextId + 1 } }
  s2.engineEvent x.team.core x.ctx.num x.issue.team x.issue.gang 3 1 (x.gang.sealedMx + 1)

/-- MXM (R289 to R292). -/
def mxm (o : MxForm) (f : MxmF) (s : State) : Answer :=
  issue (fun x =>
      { Uses.none with
        vregs := x.mxRegs o f, faults := x.mxFaults o f,
        rows := tileRows f.x.val (List.range 27) true true ++ tileRows (f.x.val + 1) (List.range 27) true true })
    (fun x _ s =>
      match s.mxStall x with
      | some w => .error (.stall w s)
      | none =>
        let g := x.gang
        let b := if o.stream then ((g.fragment f.z.val).getD []) ++ (g.fragment (f.z.val + 9)).getD [] else g.words f.z.val 18
        let desc := match o.desc with | some d => g.descs d | none => []
        let rnd := o.rnd.getD g.rnd
        let real := match o.kind with | .i9 | .i27 | .zero => false | _ => true
        let op : MxOp :=
          { kind := o.kind, x := f.x.val, a := g.words f.y.val 9, b := b, desc := desc, rnd := rnd, sat := o.sat, gens := rangeZ 0 27 g.gens,
            issued := if o.stream then issuedBlocks (g.streamMap f.z.val ++ g.streamMap (f.z.val + 9)) desc else 162, seq := 0, batch := 0, inArray := false }
        let s1 := if real then x.spend rnd ((List.range 27).map fun m => (m, 54)) s else s
        .ok (s1.enterMx x op)) s

/-- MXM.n3 (R287). -/
def execMxmN3 (f : MxmF) (d : Fin 9) (s : State) : Answer := mxm ⟨.n3, some d.val, false, false, none⟩ f s
/-- MXM.n3.z (R290). -/
def execMxmN3Z (f : MxmF) (d : Fin 9) (s : State) : Answer := mxm ⟨.n3, some d.val, true, false, none⟩ f s
/-- MXM.i9 (R287). -/
def execMxmI9 (f : MxmF) (sat : Bool) (s : State) : Answer := mxm ⟨.i9, none, false, sat, none⟩ f s
/-- MXM.f9 (R287). -/
def execMxmF9 (f : MxmF) (rnd : Option Rnd) (s : State) : Answer := mxm ⟨.f9, none, false, false, rnd⟩ f s
/-- MXM.i27 (R287). -/
def execMxmI27 (f : MxmF) (sat : Bool) (s : State) : Answer := mxm ⟨.i27, none, false, sat, none⟩ f s
/-- MXM.f27 (R287). -/
def execMxmF27 (f : MxmF) (rnd : Option Rnd) (s : State) : Answer := mxm ⟨.f27, none, false, false, rnd⟩ f s

/-- MXZ (R294). -/
def execMxz (t : TReg) (s : State) : Answer :=
  issue (fun x => { Uses.none with faults := x.tileFaults [t.val], rows := tileRows t.val (List.range 27) false true })
    (fun x _ s =>
      match s.mxStall x with
      | some w => .error (.stall w s)
      | none =>
        .ok (s.enterMx x
          { kind := .zero, x := t.val, a := [], b := [], desc := [], rnd := .near, sat := false, gens := [], issued := 0, seq := 0,
            batch := 0, inArray := false })) s

/-- The elements of nine words under the form's type (R279, R280); desc gives the descriptor of K-block b. -/
def MxOp.elements (o : MxOp) (ws : List Int) (desc : Nat → Int) : List FVal :=
  match o.kind with
  | .n3 =>
    ws.zipIdx.flatMap fun p =>
      match readDesc (desc (p.2 / 3)) with
      | some d => (codesOf p.1).map fun c => .fin (d.element c)
      | none => []
  | .f9 => ws.flatMap fun w => (List.range 3).map fun k => f9.value (subLane k w)
  | .f27 => ws.map f27.value
  | .i9 => ws.flatMap fun w => (List.range 3).map fun k => .fin ⟨subLane k w, 0⟩
  | .i27 => ws.map fun w => .fin ⟨w, 0⟩
  | .zero => []

/-- Row m of A. -/
def MxOp.rowA (o : MxOp) (m : Nat) : List FVal := o.elements ((o.a.drop (9 * m)).take 9) fun b => o.desc.getD (3 * m + b) 0
/-- Column n of B (R279). -/
def MxOp.colB (o : MxOp) (n : Nat) : List FVal :=
  o.elements ((o.b.drop (9 * n)).take 9) fun b => o.desc.getD (81 + 3 * n + b) 0

/-- One result: the exact sum of the tile word and the products, rounded or fitted once (R289, R326). -/
def MxOp.cell (o : MxOp) (m n : Nat) (ra cb : List FVal) (c : Int) : Res :=
  match o.kind with
  | .zero => ⟨0, 0⟩
  | .i9 | .i27 =>
    let p := (ra.zip cb).map fun q => match q with | (.fin a, .fin b) => a.m * b.m | _ => 0
    fitInt 27 o.sat (c + p.sum)
  | _ => f27.dot o.rnd (genDraw (iter genNext (n + 1) (o.gens.getD m 0))) (f27.value c) (ra.zip cb)

/-- The key of word j of row i of a tile. -/
def tileKey (tile i j : Nat) : Nat := 729 * tile + 27 * i + j

/-- The results of a matrix operation on the tile words as they stand: key of the word, result. -/
def MxOp.results (o : MxOp) (m : ZMap) : List (Nat × Res) :=
  if o.kind = .zero then (List.range 729).map fun k => (729 * o.x + k, ⟨0, 0⟩)
  else
    let cols := (List.range 54).map o.colB
    (List.range 27).flatMap fun i =>
      let ra := o.rowA i
      cols.zipIdx.map fun q =>
        let k := tileKey (o.x + q.2 / 27) i (q.2 % 27)
        (k, o.cell i q.2 ra q.1 (getZ k m))

/-- The words of a gang's tiles, or of its team's in token mode, changed. -/
def State.modTiles (s : State) (team gang : Nat) (f : ZMap → ZMap) : State :=
  s.modTeam team fun t =>
    match t.gang? gang with
    | some g => if g.token then { t with tiles := f t.tiles } else t.modGang gang fun h => { h with tiles := f h.tiles }
    | none => t

/-- The tiles that a tile operation is on. -/
def TileOp.tiles (o : TileOp) : List Nat :=
  match o with
  | .mx m => if m.kind = .zero then [m.x] else [m.x, m.x + 1]
  | .move m => [m.tile]

/-- The multiply-accumulates of an operation, by hub counter (R465). -/
def MxOp.work (o : MxOp) : Nat × Int :=
  match o.kind with
  | .zero => (0, 0)
  | .n3 => (0, 729 * (o.issued : Int))
  | .i9 | .f9 => (1, 243 * (o.issued : Int))
  | .i27 | .f27 => (2, 81 * (o.issued : Int))

/-- The first element of a list by a measure. -/
def State.mxFirst (s : State) (core : Nat) (p : Nat × Nat × MxOp → Bool) : Option (Nat × Nat × MxOp) :=
  minBy (fun o => o.2.2.seq) ((s.mxOps core).filter p)

/-- The context of a team's work. -/
def State.ctxNum (s : State) (team : Nat) : Nat := match (s.team? team).bind s.ctxOf with | some c => c.num | none => 0

/-- The arrays of the pair of a core take operations: neither is out of service nor has a column under self-test (R461, R462). -/
def State.arraysServe (s : State) (core : Nat) : Bool :=
  !s.pairDown core && s.trust.testing.all fun u =>
    match u with | .arrayColumn c _ => decide (c / 2 ≠ core / 2) || !s.underTest u | _ => true

/-- MATRIX_OP_ENTER_ARRAY (R324, R325): the arrays take the next operation of the pair queue. -/
def execMatrixOpEnterArray (core : Nat) (s : State) : Answer :=
  match s.mxFirst core fun o => !o.2.2.inArray && s.arraysServe core && s.mayStart (s.ctxNum o.1) o.1 o.2.1 with
  | none => .fault (.notEnabled "MATRIX_OP_ENTER_ARRAY")
  | some (t, g, o) =>
    .next (s.modGang t g fun h =>
      { h with ops := h.ops.map fun p => match p with | .mx m => if m.seq = o.seq then .mx { m with inArray := true } else .mx m | .move v => .move v })

/-- An operation of a gang waits for no earlier one of it: none on its tiles, and no earlier one of its own kind (R282). -/
def Gang.turn (g : Gang) (i : Nat) : Bool :=
  match g.ops[i]? with
  | none => false
  | some o =>
    (g.ops.take i).all fun p =>
      !(p.tiles.any fun t => o.tiles.contains t) &&
        (match p, o with | .mx _, .mx _ => false | .move _, .move _ => false | _, _ => true)

/-- The place of a matrix operation among its gang's tile operations. -/
def Gang.mxPlace (g : Gang) (seq : Nat) : Nat := g.ops.findIdx fun p => match p with | .mx m => decide (m.seq = seq) | .move _ => false

/-- MATRIX_OP_RETIRE (R289, R291, R324): the results are written and the flags merge. -/
def execMatrixOpRetire (core : Nat) (s : State) : Answer :=
  let ready (o : Nat × Nat × MxOp) : Bool :=
    o.2.2.inArray && !s.overheated && (match s.gang? o.1 o.2.1 with | some g => g.turn (g.mxPlace o.2.2.seq) | none => false)
  match s.mxFirst core ready with
  | none => .fault (.notEnabled "MATRIX_OP_RETIRE")
  | some (t, n, o) =>
    match s.team? t, s.gang? t n with
    | some u, some g =>
      let rs := o.results (u.tileCells g)
      let s1 := s.modTiles t n fun m => setsZ (rs.map fun r => (r.1, r.2.val)) m
      let f := joinAll (rs.map fun r => r.2.flags)
      let s2 := s1.modGang t n fun h => { h with flags := joinF h.flags f, ops := h.ops.eraseIdx (g.mxPlace o.seq) }
      let s3 := s2.count (s.agencyOf (s.ctxNum t)) o.work.1 o.work.2
      .next ((s3.engineEvent core (s.ctxNum t) t n 3 4 o.batch).reap t)
    | _, _ => .fault (.notEnabled "MATRIX_OP_RETIRE")

/-- TLD or TST in rows or columns (R295). -/
def tileMove (load cols : Bool) (v : VReg) (t : TReg) (rg : SReg) (s : State) : Answer :=
  issue (fun x =>
      let g := x.uniform rg
      let rows := if cols then List.range 27 else (List.range 9).map fun k => 9 * g.toNat + k
      { Uses.none with
        dests := if load then (vrun v.val 9).map .vec else [],
        vregs := vrun v.val 9,
        rows := tileRows t.val rows load (!load),
        faults := x.when (decide (g < 0) || decide (g > 2) || decide (v.val % 9 ≠ 0)) .valueRange ++ x.tileFaults [t.val] })
    (fun x _ s =>
      if x.gang.moveCount ≥ 27 then .error (.stall .tile s)
      else
        let m : TileMove :=
          { bank := 0, load := load, base := v.val, tile := t.val, g := (x.uniform rg).toNat, cols := cols,
            rows := if load then [] else x.gang.words v.val 9 }
        .ok (x.modGang (fun g => { g with ops := g.ops ++ [.move m] }) s)) s

/-- TLD (R295). -/
def execTld (x : VReg) (y : TReg) (z : SReg) (s : State) : Answer := tileMove true false x y z s
/-- TLD.c (R295). -/
def execTldC (x : VReg) (y : TReg) (z : SReg) (s : State) : Answer := tileMove true true x y z s
/-- TST (R295). -/
def execTst (x : VReg) (y : TReg) (z : SReg) (s : State) : Answer := tileMove false false x y z s
/-- TST.c (R295). -/
def execTstC (x : VReg) (y : TReg) (z : SReg) (s : State) : Answer := tileMove false true x y z s

/-- The tile key that word q of register k of a move goes with (R295). -/
def TileMove.cell (m : TileMove) (k q : Nat) : Nat := if m.cols then tileKey m.tile q (9 * m.g + k) else tileKey m.tile (9 * m.g + k) q

/-- The registers and lanes of a move: register offset, lane. -/
def moveCells : List (Nat × Nat) := (List.range 9).flatMap fun k => (List.range 27).map fun q => (k, q)

/-- What a landing TLD writes (R53, R295). -/
def Gang.landTile (g : Gang) (m : TileMove) (cells : ZMap) : Gang :=
  let ws := moveCells.map fun c => (c, getZ (m.cell c.1 c.2) cells)
  if m.bank = 0 then { g with v := setsZ (ws.map fun w => (vKey (m.base + w.1.1) w.1.2, w.2)) g.v }
  else
    match g.bank with
    | some b => if m.bank = 1 then { g with bank := some { b with v := setsZ (ws.map fun w => (vKey w.1.1 w.1.2, w.2)) b.v } } else g
    | none => g

/-- The waits in TWAIT of a gang tested as a tile move of it lands (R143). -/
def Gang.testMoves (g : Gang) : Gang :=
  g.modSlices g.liveSlices fun _ y =>
    match y.wait with
    | some (.moves n) => if (g.moveCount : Int) ≤ n then { y with fate := .passes } else y
    | _ => y

/-- TILE_MOVE_LAND (R143, R282, R295, R447): a gang's oldest tile move lands, and the waits for it are tested. -/
def execTileMoveLand (team gang : Nat) (s : State) : Answer :=
  match s.team? team, s.gang? team gang with
  | some t, some g =>
    let i := g.ops.findIdx fun p => match p with | .mx _ => false | .move _ => true
    match g.ops[i]? with
    | some (.move m) =>
      if g.turn i && s.mayStart (s.ctxNum team) team gang then
        let s1 :=
          if m.load then s.modGang team gang fun h => h.landTile m (t.tileCells g)
          else s.modTiles team gang fun z => setsZ (moveCells.map fun c => (m.cell c.1 c.2, m.rows.getD (27 * c.1 + c.2) 0)) z
        let s2 := s1.modGang team gang fun h => { h with ops := h.ops.eraseIdx i }.testMoves
        .next ((s2.engineEvent t.core (s.ctxNum team) team gang 4 5 0).reap team)
      else .fault (.notEnabled "TILE_MOVE_LAND")
    | _ => .fault (.notEnabled "TILE_MOVE_LAND")
  | _, _ => .fault (.notEnabled "TILE_MOVE_LAND")

/-- TWAIT (R298). -/
def execTwait (r : SReg) (s : State) : Answer :=
  syncIssue (fun x => { Uses.none with faults := x.when (decide (x.uniform r < 0)) .valueRange })
    (fun x s =>
      let n := x.uniform r
      .ok (x.waitOn (fun _ => if (x.gang.moveCount : Int) ≤ n then none else some (.moves n)) s)) s

/-- MXSEAL (R297). -/
def execMxseal (r : SReg) (s : State) : Answer :=
  issue (fun x => { Uses.none with dests := x.sDests r })
    (fun x _ s =>
      let n := wrap 54 (x.gang.sealedMx + 1)
      .ok (x.setS r (x.slices.map fun k => (k, n)) (x.modGang (fun g => { g with sealedMx := n }) s))) s

/-- Every matrix batch up to number n has retired (R297). -/
def Gang.retiredTo (g : Gang) (n : Int) : Bool := g.ops.all fun o => match o with | .mx m => decide (m.batch > n) | .move _ => true

/-- MXWAIT (R297). -/
def execMxwait (r : SReg) (s : State) : Answer :=
  syncIssue (fun x => { Uses.none with faults := x.when (decide (x.uniform r > x.gang.sealedMx)) .valueRange })
    (fun x s =>
      let n := x.uniform r
      .ok (x.waitOn (fun _ => if n ≤ 0 ∨ x.gang.retiredTo n then none else some (.matrix n)) s)) s

/-- A number names a gang of the team that has not ended (R300). -/
def Team.liveGang (t : Team) (n : Int) : Bool := decide (0 ≤ n) && decide (n < 27) && t.live.any fun g => decide ((g.idx : Int) = n)

/-- TKGIVE (R299, R300). -/
def execTkgive (t : TReg) (r : SReg) (s : State) : Answer :=
  issue (fun x => { Uses.none with faults := x.when (!x.team.liveGang (x.uniform r)) .valueRange ++ x.tileFaults [t.val] })
    (fun x _ s =>
      let to_ := (x.uniform r).toNat
      if !x.gang.token || decide (to_ = x.issue.gang) then .ok s
      else
        .ok (s.modTeam x.issue.team fun u =>
          { u with tokens := u.tokens.set t.val 27, passing := u.passing ++ [(t.val, x.issue.gang, to_)] })) s

/-- A gang has tile operations on a tile that have not taken effect. -/
def Gang.onTile (g : Gang) (j : Nat) : Bool := g.ops.any fun o => o.tiles.contains j

/-- The leader of a team (R148). -/
def Team.leader (t : Team) : Option Nat := minBy id ((t.live.filter fun g => decide (g.idx < 27)).map Gang.idx)

/-- TOKEN_PASS (R300): a token reaches its receiver, or the leader when that has ended; no gang, when there is no leader (DESIGN CHOICE,
log 97). -/
def execTokenPass (team : Nat) (tile : TReg) (s : State) : Answer :=
  match s.team? team with
  | none => .fault (.notEnabled "TOKEN_PASS")
  | some t =>
    match t.passing.find? fun p => decide (p.1 = tile.val) with
    | none => .fault (.notEnabled "TOKEN_PASS")
    | some p =>
      let busy := match t.gang? p.2.1 with | some g => g.onTile tile.val | none => false
      if busy then .fault (.notEnabled "TOKEN_PASS")
      else
        let to_ := if t.liveGang p.2.2 then p.2.2 else t.leader.getD 27
        .next (s.modTeam team fun u =>
          { u with tokens := u.tokens.set tile.val to_, passing := u.passing.filter fun q => decide (q.1 ≠ tile.val) })

/-- TKTAKE (R299, R301). -/
def execTktake (t : TReg) (m : MReg) (s : State) : Answer :=
  issue (fun x =>
      { Uses.none with
        dests := if m.val = 0 then [] else [.msk m],
        faults := x.when x.noPair .noPair ++ x.when (x.noTile t.val) .tileNotHeld })
    (fun x _ s =>
      let has := !x.noToken t.val
      let others := x.team.gangs.any fun g => decide (g.idx ≠ x.issue.gang) && g.onTile t.val
      let busy := if x.gang.token then others else x.gang.onTile t.val
      if has && busy then .error (.stall .tile s)
      else .ok (x.putMask m (x.lanes.map fun i => (i, if has then 1 else 0)) s)) s

end Sys2Proof.Machine
end

