-- ==== Sys2Proof/Machine/Launch.lean ====
section
/-!
DEFINITION. Launch records and their pattern tables (R344 to R348), accepting a grid, LAUNCH (R148, R349, R373), the end of
a team and of a grid (R149, R150).
-/
namespace Sys2Proof.Machine

/-- The value lies between two bounds. -/
def between (lo hi v : Int) : Bool := decide (lo ≤ v) && decide (v ≤ hi)

/-- The 27 doubles of a launch record are well-formed (R344, R345, R348). -/
def launchOk (r : List Int) : Bool :=
  let d (i : Nat) : Int := r.getD i 0
  let h := d 0
  let sh := d 3
  decide (sub 51 3 h = 1) && decide (tritAt 49 h ≠ -1) && decide (sub 0 49 h = 0) &&
    between 1 27 (sub 50 4 sh) && between 1 9 (sub 47 3 sh) && between 1 9 (sub 44 3 sh) && between 0 27 (sub 40 4 sh) &&
    between 0 27 (sub 36 4 sh) && between 1 8 (sub 33 3 sh) && decide (sub 0 33 sh = 0) &&
    decide (d 1 ≠ 0) && decide (d 1 % 3 = 0) && decide (d 6 % 3 = 0) && decide (d 7 % 3 = 0) &&
    between 1 387420489 (d 2) && decide (d 2 % sub 33 3 sh = 0) && between 0 531441 (d 4) && between 0 129140163 (d 5) &&
    (r.drop 12).all fun x => decide (x = 0)

/-- A pattern record is well-formed for a team of so many ports (R338, R339, R348). -/
def tablePatternOk (ports : Nat) (d0 d1 : Int) : Bool :=
  let c := sub 27 27 d0
  decide (tritAt 24 d0 ≠ -1) && decide (sub 0 24 d0 = 0) && (targetFault d1).isNone &&
    (decide (c = 0) || (!(condPlus c).isEmpty && decide ((condPlus c).length ≤ 24))) &&
    (condPlus c ++ condMinus c).all fun i => decide (i < ports)

/-- The 27 records of a pattern table, two doubles each. -/
def patternTable (ds : List Int) : List (Int × Int) := (List.range 27).map fun i => (ds.getD (2 * i) 0, ds.getD (2 * i + 1) 0)

/-- A grid as a launch record and its pattern table describe it, not accepted yet. -/
def Grid.ofRecord (num ctx depth : Nat) (parent : Option Nat) (r : List Int) (pats : List Pattern) (now : Nat) : Grid :=
  { num := num, ctx := ctx, depth := depth, parent := parent, launch := r, pats := pats, accepted := now, next := 0,
    endedTeams := 0, complete := false, hasChip := false, chip := [] }

/-- A grid passed to the distributor (R349, R370): its number and the state. -/
def State.acceptGrid (s : State) (ctx depth : Nat) (parent : Option Nat) (r : List Int) (pats : List Pattern) : State :=
  { s with grids := s.grids ++ [Grid.ofRecord s.nextGrid ctx depth parent r pats s.clock.cycle], nextGrid := s.nextGrid + 1 }

/-- A pattern table read: its patterns, or none when a record breaks its form for a team of so many ports (R348). -/
def patternsOf (ports : Nat) (ds : List Int) : Option (List Pattern) :=
  let ps := patternTable ds
  if ps.all fun p => tablePatternOk ports p.1 p.2 then some (ps.map fun p => patternOf p.1 p.2) else none

/-- The first key of the requests for the pattern table of slice k's record. -/
def tableKey (k : Nat) : Nat := 4096 * (k + 2)

/-- The record that slice k of a LAUNCH read, with its pattern table read after it: the patterns, or what stops the slice
(R348, R349, R373). -/
def State.launchSlice (s : State) (x : Iss) (k : Nat) (r : List Int) : Except Stop (List Pattern) :=
  let g := Grid.ofRecord 0 x.ctx.num 0 none r [] 0
  if !launchOk r then .error (sliceTrap k .recordMalformed)
  else
    let small := if g.fitsEmpty then none else some (sliceTrap k .gridTooLarge)
    if g.dbl 11 = 0 then (match small with | some e => .error e | none => .ok [])
    else
      match s.bodyDoubles x k (tableKey k) (g.dbl 11) 54 3 with
      | .error e => .error ((joinStops (e :: small.toList)).getD e)
      | .ok ds =>
        match patternsOf g.ports ds, small with
        | none, _ => .error (sliceTrap k .recordMalformed)
        | some _, some e => .error e
        | some ps, none => .ok ps

/-- The grids that LAUNCH has started in a context of which teams wait unplaced (R349). -/
def State.unplaced (s : State) (ctx : Nat) : Nat :=
  (s.grids.filter fun g => decide (g.ctx = ctx) && decide (g.depth > 0) && decide (g.next < g.teams)).length

/-- What becomes of the slices of a LAUNCH: record, and patterns or what stops the slice. -/
def State.launchPlan (s : State) (x : Iss) (rs : List (Nat × List Int)) : List (List Int × Except Stop (List Pattern)) :=
  rs.map fun p => (p.2, s.launchSlice x p.1 p.2)

/-- What stops slices of a LAUNCH. -/
def launchStops (plan : List (List Int × Except Stop (List Pattern))) : List Stop :=
  plan.filterMap fun p => match p.2 with | .error e => some e | .ok _ => none

/-- The pattern tables that well-formed records name, with their slices. -/
def tablesOf (rs : List (Nat × List Int)) : List (Nat × Int) :=
  (rs.filter fun p => launchOk p.2 && decide (p.2.getD 11 0 ≠ 0)).map fun p => (p.1, p.2.getD 11 0)

/-- LAUNCH (R148, R349, R373). -/
def execLaunch (rx : SReg) (s : State) : Answer :=
  issue (fun x =>
      { Uses.none with
        accs := x.cardAccs rx 27 81,
        faults := x.when (decide (x.team.leader ≠ some x.issue.gang)) .notLeader ++ x.when (decide (x.grid.depth ≥ 13)) .nestingTooDeep,
        asks := fun s seen => (tablesOf (x.cardsRead seen)).flatMap fun p => s.bodyReqs x p.1 (tableKey p.1) p.2 324 3,
        more := fun s seen => stopLanes (launchStops (s.launchPlan x (x.cardsRead seen))) })
    (fun x got s =>
      let rs := x.cardsRead (got.seen s)
      let plan := s.launchPlan x rs
      match joinStops (launchStops plan) with
      | some e => .error e
      | none =>
        if s.unplaced x.ctx.num + plan.length > 729 then .error (.stall .copyLimit s)
        else
          match s.bodyDone x ((tablesOf rs).map fun p => bodyAcc p.1 p.2 324 3) with
          | .error e => .error e
          | .ok s1 =>
            .ok (plan.foldl (fun s p =>
              s.acceptGrid x.ctx.num (x.grid.depth + 1) (some x.grid.num) p.1 (match p.2 with | .ok ps => ps | .error _ => [])) s1)) s

/-- A phaser address as a team's gangs write it names a phaser in the allocation of team k (R149). -/
def State.namesPhaser (s : State) (k team : Nat) (a : Int) : Bool :=
  match s.team? team with
  | none => false
  | some t => match s.phaserAt t a with | .ok p => decide (p.1 = k) | .error _ => false

/-- A copy batch or a job of any team has a landing to make in the allocation of team k (R149). -/
def State.landingDue (s : State) (k : Nat) : Bool :=
  (s.teams.any fun t => t.gangs.any fun g => g.slices.any fun y =>
    y.copy.sealed.any fun b => decide (b.phaser ≠ 0) && s.namesPhaser k t.key b.phaser) ||
  s.ctxs.any fun c => c.jobs.any fun j =>
    (match j.state with | .visible | .finished => false | _ => true) && decide (cardDbl j.card 1 ≠ 0) &&
      s.namesPhaser k j.team (cardDbl j.card 1)

/-- No gang and no pattern keeps a team from ending (R149). -/
def Team.mayEnd (t : Team) : Bool := t.numbered.isEmpty && !(t.pats.any fun p => t.holdsPat p)

/-- TEAM_END (R149): a team none of whose gangs is left and none of whose patterns holds ends, discarding its ports; one that
has ended gives its scratchpad, its rank and its record back once no landing in it and no work of its gangs is due; the scratchpad keeps
what it held until it is allocated again. -/
def execTeamEnd (team : Nat) (s : State) : Answer :=
  match s.team? team with
  | none => .fault (.notEnabled "TEAM_END")
  | some t =>
    if t.ended then
      let due := (s.eng.redms.any fun r => decide (r.team = team)) || s.eng.stores.any fun q => decide (q.team = team)
      if t.gangs ≠ [] ∨ s.landingDue team ∨ due then .fault (.notEnabled "TEAM_END")
      else
        let left : List Residue := if t.scratch = [] then [] else [{ core := t.core, line := t.line, cells := t.scratch }]
        let s1 : State :=
          { s with teams := s.teams.filter fun u => decide (u.key ≠ team), mem := { s.mem with residue := s.mem.residue ++ left } }
        .next ((s1.modCtx (s.ctxNum team) fun c => { c with records := c.records.filter fun r => decide (r.1 ≠ t.record) }).blocksReturned t.core)
    else if t.place ≠ .resident ∨ !t.mayEnd then .fault (.notEnabled "TEAM_END")
    else
      .next ((s.modTeam team fun u => { u with ended := true, ports := [] }).modGrid t.grid fun g => { g with endedTeams := g.endedTeams + 1 })

/-- The gangs of a grid have copies, updates, stores or jobs under way (R149). -/
def State.gridBusy (s : State) (n : Nat) : Bool :=
  (s.eng.copies.any fun c => decide (c.grid = n)) || (s.eng.redms.any fun r => decide (r.grid = n)) ||
  (s.eng.stores.any fun q => match s.team? q.team with | some t => decide (t.grid = n) | none => false) ||
  (s.teams.any fun t => decide (t.grid = n) && !t.gangs.isEmpty) ||
  s.ctxs.any fun c => c.jobs.any fun j => decide (j.grid = n) && (match j.state with | .visible | .finished => false | _ => true)

/-- GRID_COMPLETION (R149, R150): every team of the grid has ended, its engine work is done and its children are complete;
its chip scratchpad is given back and its signal decremented. -/
def execGridCompletion (n : Nat) (s : State) : Answer :=
  match s.grid? n with
  | none => .fault (.notEnabled "GRID_COMPLETION")
  | some g =>
    let open_ := s.grids.any fun h => decide (h.parent = some n) && !h.complete
    if g.complete ∨ g.endedTeams ≠ g.teams ∨ s.gridBusy n ∨ open_ ∨ (s.xlate.parked.any fun p => decide (p.who = .grid n)) then
      .fault (.notEnabled "GRID_COMPLETION")
    else
      let done (s : State) : State := s.modGrid n fun h => { h with complete := true, hasChip := false, chip := [] }
      match if g.dbl 7 = 0 then none else s.ctx? g.ctx with
      | none => .next (done s)
      | some c =>
        match s.decrementSignal (.grid n) c (g.dbl 7) 0 with
        | .done s1 => .next (done s1)
        | .migr ps => .next (s.park c.num (.grid n) ps)
        | .waits s1 => if s1 = s then .fault (.notEnabled "GRID_COMPLETION") else .next s1

end Sys2Proof.Machine
end

