-- ==== Sys2Proof/Machine/Windows.lean ====
section
/-!
DEFINITION. Host windows (R245, R250 to R254, R394): packing a line into bytes, window descriptors, checking every element of
a request before any is written, raw, integer, float and physical windows.
-/
namespace Sys2Proof.Machine

/-- Bytes of a port's BAR0 read as an unsigned number, least significant first (R250). -/
def HostPort.nat (h : HostPort) (off n : Nat) : Nat :=
  (List.range n).foldr (fun i a => (getZ (off + i) h.bar0).toNat + 256 * a) 0

/-- Eight bytes of BAR0 read as two's complement. -/
def HostPort.int (h : HostPort) (off : Nat) : Int := binToInt 64 true (h.nat off 8)

/-- Bytes put into BAR0 from an offset on. -/
def HostPort.put (h : HostPort) (off : Nat) (bs : List Nat) : HostPort :=
  { h with bar0 := setRangeZ off (bs.map fun b => (b : Int)) h.bar0 }

/-- An unsigned number put into n bytes of BAR0. -/
def HostPort.putNat (h : HostPort) (off n v : Nat) : HostPort := h.put off ((List.range n).map fun i => v / 256 ^ i % 256)

/-- A host port. -/
def State.port (s : State) (p : Fin 2) : HostPort := s.hosts.getD p.val HostPort.reset

/-- A host port changed. -/
def State.modPort (s : State) (p : Fin 2) (f : HostPort → HostPort) : State := { s with hosts := mapAt p.val f s.hosts }

/-- A host port answers requests (R391, R459). -/
def State.portReady (s : State) (p : Fin 2) : Bool := decide (s.readyByte (0x90 + p.val) = 1)

/-- A 64-bit counter of a port raised (R250). -/
def State.portCount (s : State) (p : Fin 2) (off n : Nat) : State :=
  s.modPort p fun h => h.putNat off 8 ((h.nat off 8 + n) % 2 ^ 64)

/-- Window descriptor n of a port as it stands (R250). -/
def HostPort.win (h : HostPort) (n : Nat) : Win :=
  let o := 0x1000 + 32 * n
  { base := h.int o, len := h.nat (o + 8) 4, ctx := h.nat (o + 12) 4, kind := h.nat (o + 16) 1, fmt := h.nat (o + 17) 1,
    ty := h.nat (o + 18) 1, range := h.nat (o + 19) 1, rnd := h.nat (o + 20) 1 }

/-- The trits that byte j of a packed line carries: the first and how many (R245). -/
def byteTrits (j : Nat) : Nat × Nat := (5 * j, if j = 145 then 4 else 5)

/-- The value that byte j of a packed line carries (R245). -/
def byteValue (j : Nat) (b : Byte) : Int := (b.toNat : Int) - (if j = 145 then 40 else 121)

/-- Byte j of a packed line is not an unused code (R245). -/
def byteUsed (j : Nat) (b : Byte) : Bool := decide (b.toNat < if j = 145 then 81 else 243)

/-- Byte j of a line of trytes (R245). -/
def packByte (ts : List Int) (j : Nat) : Byte :=
  let r := byteTrits j
  let v := ofTrits ((List.range r.2).map fun i => tritAt ((r.1 + i) % 9) (ts.getD ((r.1 + i) / 9) 0))
  BitVec.ofInt 8 (v + if j = 145 then 40 else 121)

/-- The bytes of a raw request by line: line, byte of the line, value. -/
def rawBytes (off : Nat) (bs : List Byte) : List (Nat × Nat × Byte) := bs.zipIdx.map fun p => ((off + p.2) / 146, (off + p.2) % 146, p.1)

/-- The trytes of a raw window that a request of n bytes touches, counted from the window's base: the first, and how many (R251). -/
def rawSpan (off n : Nat) : Nat × Nat :=
  let e := off + n - 1
  let first := 81 * (off / 146) + (byteTrits (off % 146)).1 / 9
  let last := 81 * (e / 146) + ((byteTrits (e % 146)).1 + (byteTrits (e % 146)).2 - 1) / 9
  if n = 0 then (first, 0) else (first, last + 1 - first)

/-- Tryte t of a line with the trits that bytes carry replaced (R251). -/
def patchTryte (fs : List (Nat × Byte)) (t : Nat) (old : Int) : Int :=
  fs.foldl (fun v f =>
    let r := byteTrits f.1
    (List.range r.2).foldl (fun v i => if (r.1 + i) / 9 = t then setTrit ((r.1 + i) % 9) (tritAt i (byteValue f.1 f.2)) v else v) v) old

/-- The byte of a packed line that carries a trit. -/
def byteOfTrit (i : Nat) : Nat := Min.min (i / 5) 145

/-- Some, or all, of the trits of tryte t stand in the bytes given. -/
def trytePart (fs : List (Nat × Byte)) (all : Bool) (t : Nat) : Bool :=
  let on (i : Nat) : Bool := fs.any fun f => decide (f.1 = byteOfTrit i)
  if all then (List.range 9).all fun i => on (9 * t + i) else (List.range 9).any fun i => on (9 * t + i)

/-- What the access of a host request comes to: its places with the answers of peers, refusal by a check, an
uncorrectable line with its address, or a wait with what has been set going. -/
inductive HostTry where
  | ok (ls : List Loc) (rem : List (Nat × RemoteReply))
  | refused
  | uncorrectable (a : Int) (s : State)
  | wait (s : State)
  deriving DecidableEq, Repr

/-- The trytes of a host request checked through a context's tables (R252); full says which of them it replaces whole. Peers
accept what is written, and answer what is read (R402). -/
def State.hostTry (s : State) (c : Context) (p : Parker) (wr : Bool) (a : Int) (n : Nat) (full : Nat → Bool) : HostTry :=
  match s.locate { ctx := c, team := none, gang := 0, lane := none, core := none } (if wr then .store else .load) a n with
  | .bad .uncorrectable => .uncorrectable a (s.noteWalk { ctx := c, team := none, gang := 0, lane := none, core := none } a)
  | .bad _ => .refused
  | .migr ps => .wait (s.park c.num p ps)
  | .ok ls =>
    let fulls := (ls.zipIdx.filter fun l => wr && full l.2).map Prod.fst
    let whole := wholeOf (hbmOf fulls)
    let kept (l : Loc) : Bool := match l with | .hbm q => !whole.contains (q / 81) | _ => true
    if s.locked p ls then .wait s else
    match ls.zipIdx.find? fun l => s.badLoc l.1 && kept l.1 with
    | some l => .uncorrectable (a + (l.2 : Int)) (s.noteBad [l.1])
    | none =>
      let far := farLines fulls
      let needs (r : List Loc) : Bool := !(r.all fun l => match l with | .peer m q => far.contains (m, q / 81) | _ => false)
      let reqs := (farRuns ls).map fun r =>
        ({ key := r.1, modul := runModule r.2, lanes := [], addr := a + (r.1 : Int), len := r.2.length,
           req := if wr then runAccept (needs r.2) r.2 else runLoad false r.2 } : RemReq)
      match s.answers p reqs with
      | .bad fs =>
        (match fs.find? fun f => decide (f.2 ≠ .uncorrectable) with
         | some _ => .refused
         | none => .uncorrectable (match fs with | f :: _ => f.1.addr | [] => a) s)
      | .pending [] => .wait s
      | .pending missing => .wait (s.askParts p c.agency c.num (!wr && decide ((placeRuns 0 ls).length > 1)) missing)
      | .all rem => .ok ls rem

/-- A tryte that a host request writes: its address, its place, the trits that it brings, and 1 in each trit that it writes (R251). -/
structure HostCell where
  addr : Int
  loc  : Loc
  val  : Int
  mask : Int
  deriving DecidableEq, Repr

/-- A tryte whose trits are all 1. -/
def allTrits : Int := 9841

/-- The trytes of a host write enter, the peers' at their owners, together where several owners have parts (R184, R251, log 83): made, or
waiting for them. -/
def State.hostEnter (s : State) (p : Parker) (c : Context) (cs : List HostCell) : DevStep :=
  let far (m : Nat) : List (Nat × Int × Int) :=
    cs.filterMap fun d => match d.loc with | .peer k q => if k = m then some (q, d.val, d.mask) else none | _ => none
  let reqs := (enterReqs false (cs.map fun d => (d.addr, d.loc, d.val))).map fun r => { r with req := .patch (far r.modul) }
  if s.locked p (cs.map HostCell.loc) then .waits s else
  match s.answers p reqs with
  | .pending missing => .waits (s.askFor p c.agency c.num missing)
  | _ =>
    let lineOf (l : Loc) : Option Nat := match l with | .hbm q => some (q / 81) | _ => none
    let parts := (cs.filter fun d => decide (d.mask ≠ allTrits)).filterMap fun d => lineOf d.loc
    let inPart (d : HostCell) : Bool := match lineOf d.loc with | some l => parts.contains l | none => false
    let at_ (ds : List HostCell) : List (Int × Loc) := ds.map fun d => (d.addr, d.loc)
    let s1 := ((s.dropWaits p).touchAt (Who.device c) .store (at_ (cs.filter fun d => !inPart d))).touchAt (Who.device c) .rmw (at_ (cs.filter inPart))
    let own := cs.filter fun d => !d.loc.isPeer
    .done (s1.writeLocs false (own.map HostCell.loc) (own.map fun d => patchTrits (s1.readLoc false d.loc) d.val d.mask))

/-- A completion returned by a port. -/
def State.complete (s : State) (p : Fin 2) (status : Nat) (bs : List Byte) : State :=
  s.modPort p fun h => { h with comps := h.comps ++ [⟨status, bs⟩] }

/-- The completion statuses of PCI Express: successful, Unsupported Request, Completer Abort. -/
def okStatus : Nat := 0
/-- Unsupported Request. -/
def unsupported : Nat := 1
/-- Completer Abort. -/
def aborted : Nat := 2

/-- A write refused as a whole (R252): its counter, when one matches; a posted one is logged in AER and raises MSI-X vector 0, another
receives Completer Abort. -/
def State.refuseWrite (s : State) (posted : Bool) (p : Fin 2) (counter : Option Nat) (off n : Nat) : State :=
  let s1 := match counter with | some k => s.portCount p k 1 | none => s
  if posted then s1.modPort p fun h => { h with aer := h.aer ++ [(off, n)], msix := h.msix ++ [0] } else s1.complete p aborted []

/-- The offset in BAR2 of a byte of a window (R250). -/
def bar2 (win off : Nat) : Nat := win * 2 ^ 28 + off

/-- Who waits for a window's page or peer. -/
def winParker (p : Fin 2) (n : Nat) : Parker := .host (243 * p.val + n)

/-- The uncorrectable line that a host request needs, logged for a context (R249). -/
def State.logHost (s : State) (c : Nat) (a : Int) : State := s.logFault c ⟨a, 0, .uncorrectable, 0, 0, 0, 0, 0⟩

/-- A window that a request of n bytes at an offset may use (R250). -/
def State.winFor (s : State) (p : Fin 2) (n off len : Nat) : Option Win :=
  let w := (s.port p).win n
  if n < 243 ∧ w.kind ≠ 0 ∧ w.kind ≤ 4 ∧ off + len ≤ w.len then some w else none

/-- A write through a window refused (R252). -/
def refuseHost (r : WinWrite) (k : Option Nat) (s : State) : State :=
  (s.dropWaits (winParker r.port r.win)).refuseWrite r.posted r.port k (bar2 r.win r.off) r.bytes.length

/-- A write through a window made: one that is not posted is completed. -/
def madeHost (r : WinWrite) (s : State) : State := if r.posted then s else s.complete r.port okStatus []

/-- Trytes written through a window's tables from its tryte number t0 on (R251 to R254): each with what it brings and which trits of it
count; sat of its elements were out of range. -/
def enterHost (r : WinWrite) (w : Win) (t0 : Nat) (ts : List (Int × Int)) (sat : Nat) (s : State) : DevStep :=
  match s.ctx? w.ctx with
  | none => .done (refuseHost r (some 0x20) s)
  | some c =>
    let p := winParker r.port r.win
    let a := w.base + (t0 : Int)
    match s.hostTry c p true a ts.length fun i => decide ((ts.getD i (0, 0)).2 = allTrits) with
    | .wait s1 => .waits s1
    | .refused => .done (refuseHost r (some 0x20) s)
    | .uncorrectable b s1 => .done (refuseHost r none (s1.logHost c.num b))
    | .ok ls _ =>
      match s.hostEnter p c ((List.zip (atAddr a ls) ts).map fun q => ⟨q.1.1, q.1.2, q.2.1, q.2.2⟩) with
      | .done s1 => .done (madeHost r (s1.portCount r.port 0x18 sat))
      | x => x

/-- Trytes read through a window's tables from its tryte number t0 on; out makes of them the bytes and the number of elements that
were out of range (R251 to R254). -/
def takeHost (r : WinRead) (w : Win) (t0 n : Nat) (out : List Int → List Byte × Nat) (s : State) : DevStep :=
  let abort (s : State) : State := s.complete r.port aborted []
  let refuse (s : State) : State := abort (s.portCount r.port 0x20 1)
  match s.ctx? w.ctx with
  | none => .done (refuse s)
  | some c =>
    let p := winParker r.port r.win
    let a := w.base + (t0 : Int)
    match s.hostTry c p false a n fun _ => false with
    | .wait s1 => .waits s1
    | .refused => .done (refuse (s.dropWaits p))
    | .uncorrectable b s1 => .done (abort ((s1.dropWaits p).logHost c.num b))
    | .ok ls rem =>
      let s1 := (s.dropWaits p).touch (Who.device c) .load a ls
      let o := out (s1.readWith false ls rem)
      .done ((s1.portCount r.port 0x18 o.2).complete r.port okStatus o.1)

/-- The bytes of a raw request that fall on a line, with their values. -/
def bytesOfLine (bs : List (Nat × Nat × Byte)) (l : Nat) : List (Nat × Byte) := (bs.filter fun b => decide (b.1 = l)).map Prod.snd

/-- What a raw request brings to tryte g of its window: the trits, and 1 in each of them (R251). -/
def rawCell (bs : List (Nat × Nat × Byte)) (g : Nat) : Int × Int :=
  let fs := bytesOfLine bs (g / 81)
  let on (i : Nat) : Bool := fs.any fun f => decide (f.1 = byteOfTrit (9 * (g % 81) + i))
  (patchTryte fs (g % 81) 0, ofTrits ((List.range 9).map fun i => if on i then 1 else 0))

/-- A write through a raw window (R251, R252). Of several refusal cases an unused code counts first, then the range, then the translation
(DESIGN CHOICE, log 96). -/
def rawWrite (r : WinWrite) (w : Win) (s : State) : DevStep :=
  let bs := rawBytes r.off r.bytes
  if bs.any fun b => !byteUsed b.2.1 b.2.2 then .done (refuseHost r (some 0) s)
  else
    let t := rawSpan r.off r.bytes.length
    enterHost r w t.1 ((List.range t.2).map fun i => rawCell bs (t.1 + i)) 0 s

/-- Byte b of a raw window whose trytes from number t0 on are vs (R251). -/
def rawByte (t0 : Nat) (vs : List Int) (b : Nat) : Byte :=
  packByte ((List.range 81).map fun t => vs.getD (81 * (b / 146) + t - t0) 0) (b % 146)

/-- A read through a raw window (R251, R252). -/
def rawRead (r : WinRead) (w : Win) (s : State) : DevStep :=
  let t := rawSpan r.off r.len
  takeHost r w t.1 t.2 (fun vs => ((List.range r.len).map fun i => rawByte t.1 vs (r.off + i), 0)) s

/-- The bytes of an element of a binary format (R250), and whether it is signed. -/
def fmtBytes (f : Nat) : Nat × Bool :=
  if f = 1 then (1, true) else if f = 2 then (2, true) else if f = 3 then (4, true) else if f = 4 then (8, true)
  else if f = 5 then (1, false) else if f = 6 then (2, false) else if f = 7 then (4, false)
  else if f = 8 then (2, true) else if f = 9 then (4, true) else if f = 10 then (8, true) else (2, true)

/-- The binary float format of a window (R250). -/
def winFloat (f : Nat) : BinFmt := if f = 8 then binary16 else if f = 9 then binary32 else if f = 10 then binary64 else bfloat16

/-- The trytes of an element of a ternary type of a window (R253, R254). -/
def winTrytes (t : Nat) : Nat := if t = 1 ∨ t = 4 then 1 else if t = 3 then 6 else 3

/-- The rounding mode of a window (R250). -/
def winRnd (r : Nat) : Rnd := if r = 1 then .zero else if r = 2 then .up else if r = 3 then .down else .near

/-- An element as a write converts it: the value, and whether it was out of range (R253, R254). -/
def Win.toTernary (w : Win) (u : Nat) : Int × Bool :=
  if w.kind = 2 then
    let f := fmtBytes w.fmt
    let v := binToInt (8 * f.1) f.2 u
    (clamp (9 * winTrytes w.ty) v, outside (9 * winTrytes w.ty) v)
  else
    let x := binToFloat (winFloat w.fmt) (if w.ty = 4 then f9 else f27) (winRnd w.rnd) 0 u
    (x.val, decide (tritwise Min.min 6 x.flags fNarrow = fNarrow))

/-- An element as a read converts it: the unsigned value of its bytes, and whether it was out of range (R253, R254). -/
def Win.toBinary (w : Win) (x : Int) : Nat × Bool :=
  if w.kind = 2 then
    let f := fmtBytes w.fmt
    let v := intToBin (8 * f.1) f.2 x
    ((v.1 % (256 ^ f.1 : Nat)).toNat, decide (v.2 ≠ 0))
  else
    let v := floatToBin (if w.ty = 4 then f9 else f27) (winFloat w.fmt) (winRnd w.rnd) 0 x
    (v.1, decide (tritwise Min.min 6 v.2 fNarrow = fNarrow))

/-- A write through an integer or float window (R252 to R254). Of several refusal cases a partial element counts first, then the range, then
the translation (DESIGN CHOICE, log 96). -/
def elemWrite (r : WinWrite) (w : Win) (s : State) : DevStep :=
  let n := (fmtBytes w.fmt).1
  let u := winTrytes w.ty
  if r.off % n ≠ 0 ∨ r.bytes.length % n ≠ 0 then .done (refuseHost r (some 0x10) s)
  else
    let es := (List.range (r.bytes.length / n)).map fun i => w.toTernary (natOfBytes ((r.bytes.drop (n * i)).take n))
    let sat := (es.filter Prod.snd).length
    if w.range = 1 ∧ 0 < sat then .done (refuseHost r (some 0x08) s)
    else enterHost r w (u * (r.off / n)) (es.flatMap fun e => (toTrytes u e.1).map fun v => (v, allTrits)) sat s

/-- A read through an integer or float window (R252 to R254). -/
def elemRead (r : WinRead) (w : Win) (s : State) : DevStep :=
  let n := (fmtBytes w.fmt).1
  let u := winTrytes w.ty
  let k := r.off / n
  let m := if r.len = 0 then 0 else (r.off + r.len - 1) / n - k + 1
  takeHost r w (u * k) (u * m) (fun vs =>
    let es := (List.range m).map fun i => w.toBinary (ofTrytes ((vs.drop (u * i)).take u))
    let byte (b : Nat) : Byte := BitVec.ofNat 8 ((es.getD (b / n - k) (0, false)).1 / 256 ^ (b % n))
    ((List.range r.len).map fun i => byte (r.off + i), (es.filter Prod.snd).length)) s

/-- A line of this module that a physical window may reach: within its frames, in a stack that is ready (R394). -/
def State.physLine (s : State) (line : Nat) : Bool := decide (line / 243 < frameCount) && s.stackReady (line / 243 / stackFrames)

/-- The lines of a physical window that a request touches (R394). -/
def physLines (w : Win) (off n : Nat) : List Nat :=
  let t := rawSpan off n
  ((List.range t.2).map fun i => (w.base / 81).toNat + (t.1 + i) / 81).eraseDups

/-- A write through a physical window (R394): without a context, in plain ternary form; a line of which it keeps a part must be
correctable. -/
def physWrite (r : WinWrite) (w : Win) (s : State) : DevStep :=
  let bs := rawBytes r.off r.bytes
  let t := rawSpan r.off r.bytes.length
  let base := (w.base / 81).toNat
  let lines := physLines w r.off r.bytes.length
  let cell (g : Nat) : Int × Int := rawCell bs g
  let cells := (List.range t.2).map fun i => (81 * base + t.1 + i, cell (t.1 + i))
  let whole := wholeOf ((cells.filter fun c => decide (c.2.2 = allTrits)).map Prod.fst)
  if bs.any fun b => !byteUsed b.2.1 b.2.2 then .done (refuseHost r (some 0) s)
  else if lines.any fun l => !s.physLine l then .done (refuseHost r none s)
  else
    let s1 := lines.foldl (fun s l => let t := s.evict l; if whole.contains l then t else t.correctSlot l) s
    match lines.find? fun l => s1.mem.badLines.contains l && !whole.contains l with
    | some l => .done (refuseHost r none (s1.uncorrectable l))
    | none =>
      let s2 := s1.writeLocs false (cells.map fun c => .hbm c.1) (cells.map fun c => patchTrits (s1.mem.cell false c.1) c.2.1 c.2.2)
      .done (madeHost r { s2 with mem := lines.foldl (fun m l => m.inForm l false) s2.mem })

/-- A read through a physical window (R394). -/
def physRead (r : WinRead) (w : Win) (s : State) : DevStep :=
  let t := rawSpan r.off r.len
  let base := (w.base / 81).toNat
  let lines := physLines w r.off r.len
  if lines.any fun l => !s.physLine l then .done (s.complete r.port aborted [])
  else
    let s1 := lines.foldl (fun s l => if s.mem.cache.any fun c => decide (c.line = l) then s else s.correctSlot l) s
    match lines.find? fun l => s1.mem.badLines.contains l with
    | some l => .done ((s1.uncorrectable l).complete r.port aborted [])
    | none =>
      let vs := (List.range t.2).map fun i => s1.mem.cell false (81 * base + t.1 + i)
      .done (s1.complete r.port okStatus ((List.range r.len).map fun i => rawByte t.1 vs (r.off + i)))

/-- A window request carried out. -/
def winGo (h : HeldReq) (s : State) : DevStep :=
  match h with
  | .write r w => if w.kind = 1 then rawWrite r w s else if w.kind = 4 then physWrite r w s else elemWrite r w s
  | .read r w => if w.kind = 1 then rawRead r w s else if w.kind = 4 then physRead r w s else elemRead r w s
  | _ => .done s

/-- A request that a port holds. -/
def State.hold (s : State) (p : Fin 2) (h : HeldReq) : State := s.modPort p fun g => { g with held := g.held ++ [h] }

/-- The window of a held request. -/
def HeldReq.window : HeldReq → Option Nat
  | .write r _ => some r.win
  | .read r _ => some r.win
  | _ => none

/-- A window request that its port receives (R250, R252, R391): dropped by a port that is not ready, ended by none_ where no window
takes it, held behind one of its window that is held; else carried out, or held where it meets a page that migrates or waits for a
peer. -/
def winRequest (row : String) (kind : Nat) (p : Fin 2) (n off len : Nat) (h : Win → HeldReq) (none_ : State → State) (s : State) : Answer :=
  if !s.portReady p then .next s
  else
    match s.winFor p n off len with
    | none => .next (none_ s)
    | some w =>
      if w.kind ≠ kind then .fault (.notEnabled row)
      else if (s.port p).held.any fun g => decide (g.window = some n) then .next (s.hold p (h w))
      else
        match winGo (h w) s with
        | .done s1 => .next s1
        | .waits s1 => .next (s1.hold p (h w))
        | .migr _ => .next (s.hold p (h w))

/-- A write request that its port receives; where no window takes it, it ends as an Unsupported Request (R250). -/
def winWrite (row : String) (kind : Nat) (r : WinWrite) (s : State) : Answer :=
  winRequest row kind r.port r.win r.off r.bytes.length (HeldReq.write r) (fun s => if r.posted then s else s.complete r.port unsupported []) s

/-- A read request that its port receives. -/
def winRead (row : String) (kind : Nat) (r : WinRead) (s : State) : Answer :=
  winRequest row kind r.port r.win r.off r.len (HeldReq.read r) (fun s => s.complete r.port unsupported []) s

/-- RAW_WINDOW_WRITE (R251, R252). -/
def execRawWindowWrite (r : WinWrite) (s : State) : Answer := winWrite "RAW_WINDOW_WRITE" 1 r s
/-- RAW_WINDOW_READ (R251, R252). -/
def execRawWindowRead (r : WinRead) (s : State) : Answer := winRead "RAW_WINDOW_READ" 1 r s
/-- INTEGER_WINDOW_WRITE (R253). -/
def execIntegerWindowWrite (r : WinWrite) (s : State) : Answer := winWrite "INTEGER_WINDOW_WRITE" 2 r s
/-- INTEGER_WINDOW_READ (R253). -/
def execIntegerWindowRead (r : WinRead) (s : State) : Answer := winRead "INTEGER_WINDOW_READ" 2 r s
/-- FLOAT_WINDOW_WRITE (R254). -/
def execFloatWindowWrite (r : WinWrite) (s : State) : Answer := winWrite "FLOAT_WINDOW_WRITE" 3 r s
/-- FLOAT_WINDOW_READ (R254). -/
def execFloatWindowRead (r : WinRead) (s : State) : Answer := winRead "FLOAT_WINDOW_READ" 3 r s
/-- PHYSICAL_WINDOW_WRITE (R394). -/
def execPhysicalWindowWrite (r : WinWrite) (s : State) : Answer := winWrite "PHYSICAL_WINDOW_WRITE" 4 r s
/-- PHYSICAL_WINDOW_READ (R394). -/
def execPhysicalWindowRead (r : WinRead) (s : State) : Answer := winRead "PHYSICAL_WINDOW_READ" 4 r s

end Sys2Proof.Machine
end

