-- ==== Sys2Proof/Machine/Host.lean ====
section
/-!
DEFINITION. BAR0 (R250, R369, R393): window descriptors, submission queues and their processor (R369 to R372), and the
context commands (R392, R393).
-/
namespace Sys2Proof.Machine

/-- The value is a ternary virtual address (R154). -/
def isAddr (a : Int) : Bool := decide (-maxAddr ≤ a) && decide (a ≤ maxAddr)

/-- Fields of window descriptor n hold values that R250 lists; of a disabled one only those that a write has touched, and
those by themselves. -/
def HostPort.winOk (h : HostPort) (n : Nat) (touched : Nat → Bool) : Bool :=
  let o := 0x1000 + 32 * n
  let w := h.win n
  let int := decide (1 ≤ w.fmt) && decide (w.fmt ≤ 7)
  let flt := decide (8 ≤ w.fmt) && decide (w.fmt ≤ 11)
  let ity := decide (1 ≤ w.ty) && decide (w.ty ≤ 3)
  let fty := decide (4 ≤ w.ty) && decide (w.ty ≤ 5)
  let lenOk := decide (1 ≤ w.len) && decide (w.len ≤ 2 ^ 28)
  let addr := isAddr w.base
  let sets := decide (w.kind ≤ 4) && decide (w.fmt ≤ 11) && decide (w.ty ≤ 5) && decide (w.range ≤ 1) && decide (w.rnd ≤ 3) &&
    ((List.range 11).all fun i => decide (h.nat (o + 21 + i) 1 = 0)) && !(int && fty) && !(flt && ity)
  if w.kind = 0 then
    sets && (lenOk || !((List.range 4).any fun i => touched (o + 8 + i)))
  else
    sets && lenOk &&
      (if w.kind = 1 then decide (w.fmt = 0) && decide (w.ty = 0) && addr && decide (w.base % 81 = 0) && decide (w.ctx ≤ 728)
       else if w.kind = 2 then int && ity && addr && decide (w.base % winTrytes w.ty = 0) && decide (w.ctx ≤ 728)
       else if w.kind = 3 then flt && fty && addr && decide (w.base % winTrytes w.ty = 0) && decide (w.ctx ≤ 728)
       else decide (w.fmt = 0) && decide (w.ty = 0) && decide (w.base % 81 = 0) && decide (0 ≤ w.base))

/-- The window descriptors that a write of n bytes at an offset touches. -/
def touchedWindows (off n : Nat) : List Nat :=
  (List.range 243).filter fun i => decide (0x1000 + 32 * i < off + n) && decide (off < 0x1000 + 32 * i + 32)

/-- The part of a write that falls on a register range. -/
def clip (off : Nat) (bs : List Nat) (lo n : Nat) : List (Nat × Nat) :=
  (bs.zipIdx.map fun p => (off + p.2, p.1)).filter fun p => decide (lo ≤ p.1) && decide (p.1 < lo + n)

/-- Single bytes put into BAR0. -/
def HostPort.puts (h : HostPort) (ws : List (Nat × Nat)) : HostPort := ws.foldl (fun h w => h.put w.1 [w.2]) h

/-- A write that falls on window descriptors: one that leaves a descriptor outside its values leaves it as it was (R250). -/
def HostPort.writeWindows (h : HostPort) (off : Nat) (bs : List Nat) : HostPort :=
  (touchedWindows off bs.length).foldl (fun h n =>
    let ws := clip off bs (0x1000 + 32 * n) 32
    let h1 := h.puts ws
    if h1.winOk n fun a => ws.any fun w => decide (w.1 = a) then h1 else h) h

/-- The offset of a queue's descriptor (R369). -/
def queueOff (q : Nat) : Nat := 0x8000 + 64 * q
/-- A queue's base. -/
def HostPort.qBase (h : HostPort) (q : Nat) : Int := h.int (queueOff q)
/-- A queue's count of entries. -/
def HostPort.qEntries (h : HostPort) (q : Nat) : Nat := h.nat (queueOff q + 8) 4
/-- A queue's context. -/
def HostPort.qCtx (h : HostPort) (q : Nat) : Nat := h.nat (queueOff q + 12) 4
/-- A queue's state. -/
def HostPort.qState (h : HostPort) (q : Nat) : Nat := h.nat (queueOff q + 16) 1
/-- A queue's ceiling. -/
def HostPort.qCeiling (h : HostPort) (q : Nat) : Nat := h.nat (queueOff q + 17) 1
/-- A queue's tail. -/
def HostPort.qTail (h : HostPort) (q : Nat) : Nat := h.nat (queueOff q + 32) 4
/-- A queue's head. -/
def HostPort.qHead (h : HostPort) (q : Nat) : Nat := h.nat (queueOff q + 36) 4

/-- The state of a queue written (R369). -/
def HostPort.setQueueState (h : HostPort) (q st : Nat) : HostPort :=
  let o := queueOff q
  if st = 0 then h.putNat (o + 16) 1 0
  else if st = 1 then
    if h.qState q = 0 then (h.putNat (o + 16) 1 1).putNat (o + 36) 4 (h.qTail q) else h.putNat (o + 16) 1 1
  else h

/-- The tail of a queue written (R369, R372). -/
def HostPort.setQueueTail (h : HostPort) (q tail : Nat) : HostPort :=
  if tail < h.qEntries q then h.putNat (queueOff q + 32) 4 tail else h

/-- One field of a queue's descriptor with the bytes of a write in it: kept as it was when the value is not one of its own. -/
def HostPort.writeQueueField (h : HostPort) (ws : List (Nat × Nat)) (o n : Nat) (ok : HostPort → Bool) : HostPort :=
  let h1 := h.puts (ws.filter fun w => decide (o ≤ w.1) && decide (w.1 < o + n))
  if ok h1 then h1 else h

/-- A write that falls on a queue's descriptor, field by field (R369). -/
def HostPort.writeQueue (h : HostPort) (q off : Nat) (bs : List Nat) : HostPort :=
  let o := queueOff q
  let ws := clip off bs o 64
  let st := h.qState q
  let on (i n : Nat) : Bool := ws.any fun w => decide (o + i ≤ w.1) && decide (w.1 < o + i + n)
  let h1 := h.writeQueueField ws o 8 fun x => decide (st = 0) && isAddr (x.qBase q) && decide (x.qBase q % 81 = 0)
  let h2 := h1.writeQueueField ws (o + 8) 4 fun x => decide (st = 0) && decide (1 ≤ x.qEntries q) && decide (x.qEntries q ≤ 729)
  let h3 := h2.writeQueueField ws (o + 12) 4 fun x => decide (st = 0) && decide (x.qCtx q ≤ 728)
  let h4 := match ws.find? fun w => decide (w.1 = o + 16) with | some w => h3.setQueueState q w.2 | none => h3
  let h5 := h4.writeQueueField ws (o + 17) 1 fun x => decide (x.qCeiling q ≤ 2)
  if on 32 4 then h5.writeQueueField ws (o + 32) 4 fun x => decide (x.qTail q < x.qEntries q) else h5

/-- A write to the queue descriptors. -/
def HostPort.queueWrite (h : HostPort) (r : HeldReq) : HostPort :=
  match r with
  | .tail q v => h.setQueueTail q.val v
  | .state q v => h.setQueueState q.val v
  | .queues off bs => (List.range 27).foldl (fun h q => if clip off bs (queueOff q) 64 = [] then h else h.writeQueue q off bs) h
  | _ => h

/-- A held request is a write that the host posted: a queue's descriptor written later waits behind it (R372). -/
def HeldReq.isWrite : HeldReq → Bool
  | .read _ _ => false
  | _ => true

/-- A write to the queue descriptors takes effect, or waits behind the writes that its port holds (R372). -/
def State.queueWrite (s : State) (p : Fin 2) (r : HeldReq) : State :=
  if (s.port p).held.any HeldReq.isWrite then s.hold p r else s.modPort p fun h => h.queueWrite r

/-- QUEUE_TAIL_WRITE (R372). -/
def execQueueTailWrite (port : Fin 2) (q : Fin 27) (tail : Nat) (s : State) : Answer :=
  .next (if s.portReady port then s.queueWrite port (.tail q tail) else s)

/-- QUEUE_STATE_WRITE (R369, R460). -/
def execQueueStateWrite (port : Fin 2) (q : Fin 27) (st : Nat) (s : State) : Answer :=
  .next (if s.portReady port then s.queueWrite port (.state q st) else s)

/-- The place of the first request that a port holds which may be tried: a window's own first one, whose page or peer is there; a
queue's with no write before it (R252, R372). -/
def State.heldTurn (s : State) (p : Fin 2) (h : HostPort) (i : Nat) : Bool :=
  let before := h.held.take i
  match h.held[i]? with
  | none => false
  | some r =>
    match r.window with
    | some n =>
      !(before.any fun g => decide (g.window = some n)) && !s.xlate.parked.any fun q => decide (q.who = winParker p n)
    | none => !before.any HeldReq.isWrite

/-- A request that a port holds tried again (R252, R372): the first that gets further. -/
def State.retryHeld (s : State) (p : Fin 2) : Option State :=
  let h := s.port p
  if !s.portReady p then none
  else
    (List.range h.held.length).findSome? fun i =>
      if !s.heldTurn p h i then none
      else
        match h.held[i]? with
        | none => none
        | some r =>
          let off (s : State) : State := s.modPort p fun g => { g with held := g.held.eraseIdx i }
          if r.window.isNone then some (off (s.modPort p fun g => g.queueWrite r))
          else
            match winGo r s with
            | .done s1 => some (off s1)
            | .waits s1 => if s1 = s then none else some s1
            | .migr _ => none

/-- Who waits for a page or peer that a queue's entry, pattern table or status needs: i is 0, 1 or 2. -/
def queueParker (p : Fin 2) (q i : Nat) : Parker := .host (486 + 3 * (27 * p.val + q) + i)

/-- The queue that a port's processor serves next (R370). -/
def HostPort.nextQueue (h : HostPort) : Option Nat :=
  ((List.range 27).map fun i => (h.turn + i) % 27).find? fun q => decide (h.qState q = 1) && decide (h.qHead q ≠ h.qTail q)

/-- What the processor decides about an entry (R371). -/
inductive QueueTry where
  | status (st : Int) (r : List Int) (pats : List Pattern) (s : State)
  | frozen (a : Int) (s : State)
  | wait (s : State)
  deriving DecidableEq, Repr

/-- The address of the first tryte of a read that lies in an uncorrectable line of this module; else the read's own. -/
def badAt (s : State) (w : Who) (a : Int) (n : Nat) : Int :=
  match s.locate w .load a n with
  | .ok ls => (match ls.zipIdx.find? fun l => s.badLoc l.1 with | some l => a + (l.2 : Int) | none => a)
  | _ => a

/-- The status that a record and its pattern table get once they have been read (R371). -/
def entryStatus (h : HostPort) (q : Nat) (r : List Int) (table : Option (List Int)) (s : State) : QueueTry :=
  let g := Grid.ofRecord 0 0 0 none r [] 0
  let pats := match table with | some ds => patternsOf g.ports ds | none => some []
  match launchOk r, pats with
  | true, some ps =>
    if !g.fitsEmpty then .status (-2) r [] s
    else if g.prio + 1 > (h.qCeiling q : Int) then .status (-3) r [] s
    else .status 1 r ps s
  | _, _ => .status (-1) r [] s

/-- An entry read and its status decided (R370, R371). -/
def State.queueTry (s : State) (p : Fin 2) (q : Nat) (c : Context) (a : Int) : QueueTry :=
  let h := s.port p
  let w : Who := { ctx := c, team := none, gang := 0, lane := none, core := none }
  match s.engineRead w (queueParker p q 0) .load a 162 [] with
  | .wait s1 => .wait s1
  | .migr ps => .wait (s.park c.num (queueParker p q 0) ps)
  | .bad .uncorrectable s1 => .frozen (badAt s w a 162) s1
  | .bad _ s1 => .status (-4) [] [] s1
  | .ok vs _ s1 =>
    let r := digits 54 27 (ofTrytes vs)
    let t := r.getD 11 0
    if t = 0 then entryStatus h q r none s1
    else
      match s.engineRead w (queueParker p q 1) .load t 324 (if t % 3 = 0 then [] else [.misaligned]) with
      | .wait s2 => .wait s2
      | .migr ps => .wait (s.park c.num (queueParker p q 1) ps)
      | .bad .uncorrectable s2 => .frozen (badAt s w t 324) s2
      | .bad _ _ => .status (-4) [] [] s1
      | .ok us ls _ => entryStatus h q r (some (digits 54 54 (ofTrytes us))) ((s1.dropWaits (queueParker p q 1)).engineTouch c.num .load t ls)

/-- An entry finished: head and turn advance; a negative status, or one that could not be written, is counted and raises
the queue's vector (R370, R371). -/
def State.entryDone (s : State) (p : Fin 2) (q : Nat) (refused : Bool) : State :=
  let ps := (List.range 3).map (queueParker p q)
  let s1 := ps.foldl (fun s k => s.dropWaits k) s
  s1.modPort p fun h =>
    let h1 := h.putNat (queueOff q + 36) 4 ((h.qHead q + 1) % Max.max 1 (h.qEntries q))
    let h2 : HostPort := { h1 with turn := (q + 1) % 27, serving := none }
    if refused then
      let h3 := h2.putNat (queueOff q + 40) 8 ((h2.nat (queueOff q + 40) 8 + 1) % 2 ^ 64)
      { h3 with msix := h3.msix ++ [1 + q] }
    else h2

/-- A double of an entry written under the queue's context: written, failed, or waiting with what has been set going. -/
inductive EntryWrite where
  | made (s : State)
  | failed
  | waits (s : State)
  deriving DecidableEq, Repr

/-- A double of an entry written under the queue's context (R371). -/
def State.entryWrite (s : State) (p : Fin 2) (q : Nat) (c : Context) (a v : Int) : EntryWrite :=
  let k := queueParker p q 2
  match s.hostTry c k true a 6 fun _ => true with
  | .wait s1 => .waits s1
  | .ok ls _ =>
    match s.hostEnter k c ((List.zip (atAddr a ls) (toTrytes 6 v)).map fun d => ⟨d.1.1, d.1.2, d.2, allTrits⟩) with
    | .done s1 => .made s1
    | .waits s1 => .waits s1
    | .migr _ => .waits s
  | _ => .failed

/-- The status of the entry in hand written, its grid number first (R370, R371). -/
def State.entryWrites (s : State) (p : Fin 2) (c : Context) (a : Int) (v : Serving) : State :=
  let status (s : State) : State :=
    match s.entryWrite p v.queue c (a + 162) v.status with
    | .made s1 => s1.entryDone p v.queue (decide (v.status < 0))
    | .failed => s.entryDone p v.queue true
    | .waits s1 => s1
  let told (s : State) : State := s.modPort p fun h => { h with serving := some { v with told := true } }
  if v.status ≠ 1 ∨ v.told then status s
  else
    match s.entryWrite p v.queue c (a + 168) v.grid with
    | .made s1 => status (told s1)
    | .failed => status (told (s.dropWaits (queueParker p v.queue 2)))
    | .waits s1 => s1

/-- The address of the entry at a queue's head (R370). -/
def State.queueAddr (s : State) (p : Fin 2) (q : Nat) : Int := let h := s.port p; h.qBase q + 243 * (h.qHead q : Int)

/-- QUEUE_ENTRY_PROCESS (R370, R371, R460). -/
def execQueueEntryProcess (port : Fin 2) (q : Fin 27) (s : State) : Answer :=
  let h := s.port port
  let mine (w : Parker) : Bool := (List.range 3).any fun i => decide (w = queueParker port q.val i)
  let turn : Bool := match h.serving with | some v => decide (v.queue = q.val) | none => decide (h.nextQueue = some q.val)
  if s.portReady port = false ∨ !turn ∨ (s.xlate.parked.any fun k => mine k.who) then .fault (.notEnabled "QUEUE_ENTRY_PROCESS")
  else
    let a := s.queueAddr port q.val
    match s.ctx? (h.qCtx q.val), h.serving with
    | none, _ => .next (s.entryDone port q.val true)
    | some c, some v => let t := s.entryWrites port c a v; if t = s then .fault (.notEnabled "QUEUE_ENTRY_PROCESS") else .next t
    | some c, none =>
      match s.queueTry port q.val c a with
      | .wait s1 => if s1 = s then .fault (.notEnabled "QUEUE_ENTRY_PROCESS") else .next s1
      | .frozen b s1 => .next ((s1.modPort port fun h => h.putNat (queueOff q.val + 16) 1 2).logHost c.num b)
      | .status st r pats read =>
        let v : Serving := { queue := q.val, status := st, grid := read.nextGrid, told := false }
        let s1 := if st = 1 then read.acceptGrid c.num 0 none r pats else read
        .next ((s1.modPort port fun h => { h with serving := some v }).entryWrites port c a v)

/-- The bytes of a number, least significant first. -/
def natBytes (n v : Nat) : List Nat := (List.range n).map fun i => v / 256 ^ i % 256

/-- The bytes of a signed number. -/
def intBytes (n : Nat) (v : Int) : List Nat := natBytes n (v % (256 ^ n : Nat)).toNat

/-- The context command block of bytes 0 to 61 that a host writes for a command (R393). -/
def commandBytes : Instr → Option (List Nat)
  | .contextCreate _ c =>
    some ([1, 0] ++ natBytes 2 c.number ++ [c.agency % 256, if c.priv then 1 else 0, 0, 0] ++ intBytes 4 c.userRoot ++
      intBytes 4 c.privRoot ++ intBytes 8 c.faultLog ++ intBytes 8 c.phaseBase ++ intBytes 8 c.phaseLen ++ natBytes 2 0 ++ natBytes 18 0)
  | .contextDestroy _ n => some ([2, 0] ++ natBytes 2 n ++ natBytes 56 0)
  | .openLanding _ n m k => some ([3, 0] ++ natBytes 2 n ++ [0, 0] ++ natBytes 2 m ++ natBytes 32 0 ++ natBytes 2 k ++ natBytes 18 0)
  | .closeLanding _ n m k => some ([4, 0] ++ natBytes 2 n ++ [0, 0] ++ natBytes 2 m ++ natBytes 32 0 ++ natBytes 2 k ++ natBytes 18 0)
  | _ => none

/-- The offset of the context command block. -/
def blockOff : Nat := 0x4000

/-- The command that a port's block holds; none when its command, privilege or reserved bytes are outside their values
(R393). -/
def HostPort.command (p : Fin 2) (h : HostPort) : Option Instr :=
  let b (i n : Nat) : Nat := h.nat (blockOff + i) n
  let zero := decide (b 1 1 = 0) && decide (b 61 1 = 0) && decide (b 63 1 = 0) && (List.range 18).all fun i => decide (b (42 + i) 1 = 0)
  if !zero then none
  else if b 0 1 = 1 ∧ b 5 1 ≤ 1 then
    some (.contextCreate p
      { number := b 2 2, agency := b 4 1, priv := decide (b 5 1 = 1), userRoot := b 8 4, privRoot := b 12 4,
        faultLog := h.int (blockOff + 16), phaseBase := h.int (blockOff + 24), phaseLen := h.int (blockOff + 32) })
  else if b 0 1 = 2 then some (.contextDestroy p (b 2 2))
  else if b 0 1 = 3 then some (.openLanding p (b 2 2) (b 6 2) (b 40 2))
  else if b 0 1 = 4 then some (.closeLanding p (b 2 2) (b 6 2) (b 40 2))
  else none

/-- The doorbell reads 1. -/
def HostPort.ringing (h : HostPort) : Bool := decide (h.nat (blockOff + 62) 1 = 1)
/-- The other host port. -/
def otherPort (p : Fin 2) : Fin 2 := if p = 0 then 1 else 0

/-- The outcome of a context command: its status, or a wait. -/
inductive Command where
  | status (st : Nat) (s : State)
  | wait (s : State)
  deriving DecidableEq, Repr

/-- Who waits for the page or peer that a port's context command needs. -/
def commandParker (p : Fin 2) : Parker := .host (648 + p.val)

/-- A root table of 9,842 entries from frame f on lies in one stack that is ready (R165, R166, R393). -/
def State.rootOk (s : State) (f : Int) : Bool :=
  decide (0 ≤ f) && decide (f < (frameCount : Int)) && s.stackReady (f.toNat / stackFrames) &&
    decide (f.toNat % stackFrames + 4 ≤ stackFrames)

/-- The fields of a create command hold their values (R393). -/
def State.createOk (s : State) (c : CtxCreate) : Bool :=
  decide (c.number ≤ 728) && decide (c.agency ≤ 242) && s.rootOk c.userRoot && s.rootOk c.privRoot &&
    decide (-maxAddr ≤ c.faultLog) && decide (c.faultLog < 0) && decide (c.faultLog % 81 = 0) &&
    decide (-maxAddr ≤ c.phaseBase) && decide (c.phaseBase % 729 = 0) && decide (0 < c.phaseLen) && decide (c.phaseLen % 729 = 0) &&
    decide (c.phaseBase + c.phaseLen ≤ 0)

/-- The create command (R392, R393): the context, with its fault log's header zeroed through its own tables. -/
def State.create (s : State) (p : Fin 2) (c : CtxCreate) : Command :=
  if !s.createOk c then .status 2 s
  else if (s.ctx? c.number).isSome then .status 3 s
  else
    let x : Context :=
      { num := c.number, agency := c.agency, priv := c.priv, userRoot := c.userRoot.toNat, privRoot := c.privRoot.toNat,
        faultLog := c.faultLog, phaseBase := c.phaseBase, phaseLen := c.phaseLen, landing := [], records := [], halted := false,
        jobSeq := 0, redSeq := 0, jobs := [], reds := [] }
    let k := commandParker p
    let header (ls : List Loc) : List HostCell := (atAddr c.faultLog ls).map fun d => ⟨d.1, d.2, 0, allTrits⟩
    match s.hostTry { x with priv := true } k true c.faultLog 18 fun _ => true with
    | .wait s1 => .wait s1
    | .ok ls _ =>
      (match s.hostEnter k x (header ls) with
       | .done s1 => .status 1 { s1 with ctxs := s1.ctxs ++ [x] }
       | .waits s1 => .wait s1
       | .migr _ => .wait s)
    | _ => .status 2 (s.dropWaits k)

/-- An enabled window or queue of a port names a context (R393). -/
def HostPort.names (h : HostPort) (n : Nat) : Bool :=
  ((List.range 243).any fun i => let w := h.win i; decide (w.kind ≠ 0) && decide (w.kind ≠ 4) && decide (w.ctx = n)) ||
  (List.range 27).any fun q => decide (h.qState q ≠ 0) && decide (h.qCtx q = n)

/-- A context has work (R393). -/
def State.ctxBusy (s : State) (c : Context) : Bool :=
  (s.grids.any fun g => decide (g.ctx = c.num) && !g.complete) ||
  (c.jobs.any fun j => match j.state with | .visible | .finished => false | _ => true) ||
  (c.reds.any fun r => decide (r.state = 0) || decide (r.state = 1)) || s.hosts.any fun h => h.names c.num

/-- The destroy command (R393). -/
def State.destroy (s : State) (n : Nat) : Command :=
  if 728 < n then .status 2 s
  else
    match s.ctx? n with
    | none => .status 3 s
    | some c =>
      if s.ctxBusy c then .status 3 s
      else
        let x := s.xlate
        .status 1
          { s with
            ctxs := (s.ctxs.filter fun y => decide (y.num ≠ n)).map fun y =>
              { y with landing := y.landing.filter fun l => decide (l ≠ (s.modul, n)) },
            xlate := { x with
              tlb := x.tlb.filter fun e => decide (e.ctx ≠ n), parked := x.parked.filter fun q => decide (q.ctx ≠ n) } }

/-- The landing commands (R393). -/
def State.setLanding (s : State) (open_ : Bool) (n m k : Nat) : Command :=
  if 728 < n ∨ 6560 < m ∨ m = s.modul ∨ 728 < k then .status 2 s
  else
    match s.ctx? n with
    | none => .status 3 s
    | some c =>
      if open_ then
        if c.landing.length ≥ 27 then .status 3 s
        else .status 1 (s.modCtx n fun y => { y with landing := if y.landing.contains (m, k) then y.landing else y.landing ++ [(m, k)] })
      else .status 1 (s.modCtx n fun y => { y with landing := y.landing.filter fun l => decide (l ≠ (m, k)) })

/-- What a port's command comes to (R393): one that no command fits is refused. -/
def State.command (s : State) (p : Fin 2) : Command :=
  match (s.port p).command p with
  | some (.contextCreate _ c) => s.create p c
  | some (.contextDestroy _ n) => s.destroy n
  | some (.openLanding _ n m k) => s.setLanding true n m k
  | some (.closeLanding _ n m k) => s.setLanding false n m k
  | _ => .status 2 s

/-- A port's command carried out; its status is written, the doorbell reads 0 again, and the other port's command may follow (R393). -/
def State.carryOut (s : State) (p : Fin 2) : State :=
  match s.command p with
  | .wait s1 => s1
  | .status st s1 =>
    (s1.modPort p fun h => (h.put (blockOff + 60) [st]).put (blockOff + 62) [0]).modPort (otherPort p) fun h => { h with behind := false }

/-- The doorbell of a port rung with a block in place (R393): commands are carried out in the order of their doorbells. -/
def State.ring (s : State) (p : Fin 2) : State :=
  let s1 := s.modPort p fun h => h.put (blockOff + 62) [1]
  if (s.port (otherPort p)).ringing then s1.modPort p fun h => { h with behind := true } else s1.carryOut p

/-- A port's command that its doorbell has started goes on (R393). -/
def State.retryCommand (s : State) (p : Fin 2) : Option State :=
  let h := s.port p
  if !s.portReady p || !h.ringing || h.behind || s.xlate.parked.any (fun q => decide (q.who = commandParker p)) then none
  else let t := s.carryOut p; if t = s then none else some t

/-- A context command (R393): the host's writes of its block and doorbell, ignored while the doorbell reads 1. -/
def runCommand (row : String) (p : Fin 2) (i : Instr) (s : State) : Answer :=
  if !s.portReady p || (s.port p).ringing then .next s
  else
    match commandBytes i with
    | none => .fault (.notEnabled row)
    | some bs =>
      let s1 := s.modPort p fun h => (h.put blockOff bs).puts [(blockOff + 61, 0), (blockOff + 63, 0)]
      if (s1.port p).command p = some i then .next (s1.ring p) else .fault (.notEnabled row)

/-- CONTEXT_CREATE (R393). -/
def execContextCreate (port : Fin 2) (c : CtxCreate) (s : State) : Answer :=
  runCommand "CONTEXT_CREATE" port (.contextCreate port c) s
/-- CONTEXT_DESTROY (R393). -/
def execContextDestroy (port : Fin 2) (ctx : Nat) (s : State) : Answer :=
  runCommand "CONTEXT_DESTROY" port (.contextDestroy port ctx) s
/-- OPEN_LANDING (R393). -/
def execOpenLanding (port : Fin 2) (ctx peer peerCtx : Nat) (s : State) : Answer :=
  runCommand "OPEN_LANDING" port (.openLanding port ctx peer peerCtx) s
/-- CLOSE_LANDING (R393). -/
def execCloseLanding (port : Fin 2) (ctx peer peerCtx : Nat) (s : State) : Answer :=
  runCommand "CLOSE_LANDING" port (.closeLanding port ctx peer peerCtx) s

/-- A write that falls on the context command block (R393): read-only bytes keep their content, and a doorbell of 1 runs the
command. -/
def State.writeBlock (s : State) (p : Fin 2) (off : Nat) (bs : List Nat) : State :=
  let ws := clip off bs blockOff 64
  if ws = [] ∨ (s.port p).ringing then s
  else
    let kept (i : Nat) : Bool := decide (i = blockOff + 60) || decide (i = blockOff + 62)
    let s1 := s.modPort p fun h => h.puts (ws.filter fun w => !kept w.1)
    if ws.contains (blockOff + 62, 1) then s1.ring p else s1

/-- REGISTER_WRITE (R250, R369, R393): a host write to BAR0 takes effect register by register, or is ignored. -/
def execRegisterWrite (port : Fin 2) (off : Nat) (bytes : List Byte) (s : State) : Answer :=
  if !s.portReady port then .next s
  else
    let bs := bytes.map fun b => b.toNat
    let s1 := s.modPort port fun h => h.writeWindows off bs
    let s2 := if (List.range 27).any fun q => decide (clip off bs (queueOff q) 64 ≠ []) then s1.queueWrite port (.queues off bs) else s1
    .next (s2.writeBlock port off bs)

end Sys2Proof.Machine
end

