-- ==== Sys2Proof/Machine/Atomic.lean ====
section
/-!
DEFINITION. Returning atomics (R225 to R227), signals (R341, R342), memory-side reductions (R191, R228, R229), FENCE (R194,
R230), TLBINV (R231, R232), walks (R172, R173), cache operations (R233) and the end of leases (R186).
-/
namespace Sys2Proof.Machine

/-- What a slice of a returning atomic sends: its access, its update, the flags of preparing the operand (R226). -/
structure AtomReq where
  acc : Acc
  upd : Update
  pre : FlagSet
  deriving DecidableEq, Repr

/-- The operand of an update prepared from a scalar (R226), with the flag that this raises. -/
def prepOperand (ty : Ty) (v : Int) : Int × FlagSet :=
  match ty with
  | .i54 => (v, 0)
  | .f27 => (wrap 27 v, 0)
  | _ => (clamp 27 v, flagIf (outside 27 v) fNarrow)

/-- The update of slice k: operation, type, operand, and the value compared (R226). -/
def Iss.update (x : Iss) (op : AtomOp) (ty : Ty) (k : Nat) (v cmp : Int) : Update × FlagSet :=
  let p := prepOperand ty v
  ({ op := op, ty := ty, v := p.1, cmp := if ty = .i54 then cmp else wrap 27 cmp, rnd := x.gang.rnd, draw := x.gang.draw (3 * k) 0 }, p.2)

/-- A returning update takes a stochastic draw (R226). -/
def updateDraws (u : Update) : Bool := decide (u.op = .add) && decide (u.ty = .f27)

/-- The access of an atomic of slice k. -/
def atomAcc (k : Nat) (ty : Ty) (a : Int) : Acc :=
  { lanes := lanesOf [k], lane := none, addr := a, len := if ty = .i54 then 6 else 3, op := .rmw, aligned := decide (a % 3 = 0) }


/-- The wait of an issue set with a key. -/
def State.waitOf (s : State) (x : Iss) (key : Nat) : Option RemoteWait := (s.waitsOf x.parker).find? fun w => decide (w.key = key)

/-- A wait of an issue set replaced. -/
def State.putWait (s : State) (x : Iss) (key : Nat) (w : RemoteWait) : State :=
  { s with fab := { s.fab with waits := mapIf (fun v => decide (v.who = x.parker) && decide (v.key = key)) (fun _ => w) s.fab.waits } }

/-- The answer to an update as it travels: the value returned and the flags. -/
def updateReply (ret : Int) (f : FlagSet) : RemoteReply := .vals [ret, f]

/-- The answer that an owner refuses or never gives after its acceptance: a free value stands for what memory held (log 24). -/
def State.lostUpdate (s : State) (u : Update) : State × RemoteReply :=
  let r := applyUpdate u (wrap (if u.ty = .i54 then 54 else 27) (Config.free s.draws))
  ({ s with draws := s.draws + 1 }, updateReply r.ret r.flags)

/-- The updates of slices in ascending order, each at its serialisation point (R190, R226), one after another. Answers whether all are
done. -/
def State.atomTurns (s : State) (x : Iss) : List Nat → State × Bool
  | [] => (s, true)
  | k :: ks =>
    match s.waitOf x (turnKey k) with
    | none => State.atomTurns s x ks
    | some w =>
      match w.reply, w.todo with
      | none, some (ls, u) =>
        match s.farUpdate x.parker x.ctx.agency x.ctx.num (atomKey k) w.addr ls u with
        | .waits s1 => (s1, false)
        | .done s1 ret f => State.atomTurns (s1.putWait x (turnKey k) { w with todo := none, reply := some (updateReply ret f) }) x ks
        | .bad _ =>
          let r := s.lostUpdate u
          State.atomTurns (r.1.putWait x (turnKey k) { w with todo := none, reply := some r.2 }) x ks
      | _, _ => State.atomTurns s x ks

/-- What the slices of an instruction update: slice, places, update. -/
abbrev AtomItems := List (Nat × List Loc × Update)

/-- The slices whose binding finds the table of a home on this module full (R342). One that fires at once counts among those held when later
slices are checked (DESIGN CHOICE, log 98). -/
def State.bindFaults (s : State) (x : Iss) (its : AtomItems) : List Nat :=
  (its.foldl (fun (a : State × List Nat) i =>
    match i.2.2.op with
    | .bind port _ =>
      let l := i.2.1.headD (.hbm 0)
      if l.isPeer then a
      else if port ≠ 0 && a.1.bindFull l then (a.1, a.2 ++ [i.1])
      else (a.1.bindSignal x.ctx.num l 1 port 0, a.2)
    | _ => a) (s, [])).2

/-- The requests that keep places for bindings at the homes of peers (R342). -/
def bindReqs (its : AtomItems) : List RemReq :=
  its.filterMap fun i =>
    match i.2.2.op, i.2.1 with
    | .bind port _, .peer m p :: _ =>
      if port = 0 then none else some { key := bindKey i.1, modul := m, lanes := lanesOf [i.1], req := .acceptBind p }
    | _, _ => none

/-- The places kept at peers given back. -/
def State.unkeep (s : State) (x : Iss) (its : AtomItems) : State :=
  its.foldl (fun s i =>
    match i.2.1, s.waitOf x (bindKey i.1) with
    | .peer m p :: _, some w => if w.reply = some .done then s.send x.ctx.agency m (.request 0 s.modul x.ctx.num (.unbind p)) else s
    | _, _ => s) s

/-- A place for a binding kept at its home on this module: a binding without a port (R342). -/
def State.keepBinding (s : State) (ctx : Nat) (l : Loc) : State :=
  if s.eng.bindings.any fun b => decide (b.loc = l) then s
  else { s with eng := { s.eng with bindings := { loc := l, ctx := ctx, port := 0, msg := 0 } :: s.eng.bindings } }

/-- The places for bindings of an instruction, at every home: kept, or what stops it (R342). -/
def State.keepBindings (s : State) (x : Iss) (its : AtomItems) : Except Stop State :=
  let full := (lanesOf (s.bindFaults x its)).map fun l => (l, Cause.bindingTableFull, (0 : Int))
  match s.answers x.parker (bindReqs its) with
  | .pending [] => .error (.stall .remote s)
  | .pending missing => .error (.stall .remote (s.askFor x.parker x.ctx.agency x.ctx.num missing))
  | .bad fs => .error (.trapWith (.lanesOnly (full ++ fs.flatMap fun f => f.1.lanes.map fun l => (l, f.2, 0))) (s.unkeep x its))
  | .all _ => if full ≠ [] then .error (.trapWith (.lanesOnly full) (s.unkeep x its)) else .ok s

/-- The draws of an atomic's results spent, which is done at issue (R27, R226). -/
def Iss.atomSpend (x : Iss) (req : Iss → Nat → AtomReq) (s : State) : State :=
  x.spend x.gang.rnd ((x.slices.filter fun k => updateDraws (req x k).upd).map fun k => (3 * k, 1)) s

/-- The end of an atomic: results written (R226). -/
def Iss.atomDone (x : Iss) (dest : Option SReg) (la : Fin 27) (req : Iss → Nat → AtomReq) (rs : List (Nat × Int × FlagSet))
    (s : State) : State :=
  match dest with
  | some r => x.putS la r (rs.map fun p => (p.1, ⟨p.2.1, joinF p.2.2 (req x p.1).pre⟩)) s
  | none => s

/-- The second part of an atomic has begun: its updates await their turns. -/
def State.atomLate (s : State) (x : Iss) : Bool := (s.waitsOf x.parker).any fun w => decide (turnKey 0 ≤ w.key) && decide (w.key < bindKey 0)

/-- The updates of an atomic put in the order of their slices, its draws spent, its records written and its places for bindings kept. -/
def State.beginTurns (s : State) (x : Iss) (req : Iss → Nat → AtomReq) (accs : List (Acc × List Loc)) (its : AtomItems) : State :=
  let ws := its.map fun i =>
    ({ who := x.parker, modul := s.modul, key := turnKey i.1, tag := 0, ctx := x.ctx.num, addr := (req x i.1).acc.addr,
       len := (req x i.1).acc.len, pages := s.pagesOf (x.who none) (req x i.1).acc.addr (req x i.1).acc.len, todo := some i.2,
       reply := none } : RemoteWait)
  let s1 := x.atomSpend req { s with fab := { s.fab with waits := s.fab.waits ++ ws } }
  let s2 := its.foldl (fun s i =>
    match i.2.2.op, i.2.1 with
    | .bind port _, l :: _ => if port = 0 || l.isPeer then s else s.keepBinding x.ctx.num l
    | _, _ => s) s1
  match s2.watchLate x Uses.none (accs.map fun p => (p.1, .ok p.2)) with | .ok s3 => s3 | .error _ => s2

/-- The outcomes of updates that have had their turns. -/
def State.turnValues (s : State) (x : Iss) : List (Nat × Int × FlagSet) :=
  x.slices.map fun k =>
    match (s.waitOf x (turnKey k)).bind fun w => w.reply with
    | some (.vals vs) => (k, wrap 54 (vs.getD 0 0), writtenFlags (vs.getD 1 0))
    | _ => (k, (0 : Int), (0 : Int))

/-- The updates of an instruction whose places are all this module's, in slice order (R190, R226). -/
def State.updates (s : State) (x : Iss) (its : AtomItems) : State × List (Nat × Int × FlagSet) :=
  its.foldl (fun (a : State × List (Nat × Int × FlagSet)) i =>
    let u := a.1.update x.ctx.num i.2.1 i.2.2
    (u.1, a.2 ++ [(i.1, u.2.ret, u.2.flags)])) (s, [])

/-- What a returning atomic does in either of its two parts (R190, R225 to R227, R341, R342, R402). In the first every check is
made, acceptances of peers among them; where no place is a peer's, the updates are made and it ends. Else the second part,
which no check can stop any more, makes them in slice order. -/
def atomics (dest : Option SReg) (la : Fin 27) (faults : Iss → List (Nat × Cause × Int)) (req : Iss → Nat → AtomReq) (s : State) :
    Answer :=
  let late : Bool := match s.iss? with | some x => s.atomLate x | none => false
  issue (fun x =>
      { Uses.none with
        dests := match dest with | some r => x.sDests r | none => [],
        accs := if late then [] else x.slices.map fun k => (req x k).acc,
        opens := match dest with | some _ => x.sOpens la | none => 0,
        faults := if late then [] else faults x })
    (fun x got s =>
      let its : AtomItems := (x.slices.zip got.accs).map fun p => (p.1, p.2.2, (req x p.1).upd)
      let turns (s : State) : Except Stop State :=
        let r := s.atomTurns x x.slices
        if r.2 then .ok (x.atomDone dest la req (r.1.turnValues x) r.1) else .error (.stall .remote r.1)
      if late then turns s
      else
        match s.keepBindings x its with
        | .error e => .error e
        | .ok s1 =>
          if x.issue.apart || its.any fun i => i.2.1.any Loc.isPeer then turns (s1.beginTurns x req got.accs its)
          else let r := s1.updates x its; .ok (x.atomDone dest la req r.2 (x.atomSpend req r.1))) s

/-- An atomic of the major ATOM (R225, R226). -/
def atom (op : AtomOp) (f : AtomF) (s : State) : Answer :=
  atomics (some f.x) f.la (fun _ => [])
    (fun x k =>
      let u := x.update op f.ty k (x.s k f.z) (x.s k f.x)
      ⟨atomAcc k f.ty (x.s k f.y), u.1, u.2⟩) s

/-- AADD (R226). -/
def execAadd (f : AtomF) (s : State) : Answer := atom .add f s
/-- AMIN (R226). -/
def execAmin (f : AtomF) (s : State) : Answer := atom .min f s
/-- AMAX (R226). -/
def execAmax (f : AtomF) (s : State) : Answer := atom .max f s
/-- ASWP (R226). -/
def execAswp (f : AtomF) (s : State) : Answer := atom .swp f s
/-- ACAS (R226). -/
def execAcas (f : AtomF) (s : State) : Answer := atom .cas f s

/-- SIGDEC and SIGADD (R341). -/
def signal (dec : Bool) (rx ry rz : SReg) (s : State) : Answer :=
  atomics (some rz) 0 (fun x => if dec then x.sliceFaults (fun k => decide (x.s k ry < 0)) .valueRange else [])
    (fun x k =>
      let v := if dec then -(x.s k ry) else x.s k ry
      ⟨atomAcc k .i54 (x.s k rx), (x.update .sigAdd .i54 k v 0).1, 0⟩) s

/-- SIGDEC (R341). -/
def execSigdec (x y z : SReg) (s : State) : Answer := signal true x y z s
/-- SIGADD (R341). -/
def execSigadd (x y z : SReg) (s : State) : Answer := signal false x y z s

/-- SIGBIND (R342). -/
def execSigbind (rx ry rz : SReg) (s : State) : Answer :=
  atomics none 0 (fun _ => [])
    (fun x k => ⟨atomAcc k .i54 (x.s k rx), (x.update (.bind (x.s k ry) (x.s k rz)) .i54 k 0 0).1, 0⟩) s

/-- The combining operation of a REDM. -/
def redmOp (op : RedOp) : AtomOp := match op with | .add => .add | .max => .max | .min => .min

/-- The flags that a slice merges at its next FENCE raised (R229). -/
def State.raiseLate (s : State) (team gang slice : Nat) (f : FlagSet) : State :=
  s.modGang team gang fun g => g.modSlices [slice] fun _ x => { x with redmFlags := joinF x.redmFlags f }

/-- A REDM takes a stochastic draw at issue in each of its f27 forms (R27, R228). -/
def redmDraws (u : Update) : Bool := decide (u.ty = .f27)

/-- REDM (R228): alignment and the address space are checked now, the rest where the update takes its place. -/
def execRedm (rx ry : SReg) (op : RedOp) (ty : Ty) (s : State) : Answer :=
  issue (fun x =>
      { Uses.none with
        faults := x.slices.flatMap fun k =>
          let a := x.s k rx
          let n : Int := if ty = .i54 then 6 else 3
          let bad (c : Cause) : List (Nat × Cause × Int) := (lanesOf [k]).map fun l => (l, c, a)
          if a % 3 ≠ 0 then bad .misaligned else if a > maxAddr ∨ a < -maxAddr ∨ a + n - 1 > maxAddr then bad .outsideSpace else [] })
    (fun x _ s =>
      let accs := x.slices.map fun k => atomAcc k ty (x.s k rx)
      match s.watchLate x Uses.none (accs.map fun a => (a, s.checkAcc x a)) with
      | .error e => .error e
      | .ok s1 =>
        let waiting (k : Nat) : Nat :=
          (s.eng.redms.filter fun r => decide (r.team = x.issue.team) && decide (r.gang = x.issue.gang) && decide (r.slice = k)).length
        if x.slices.any fun k => decide (waiting k ≥ 81) then .error (.stall .copyLimit s)
        else
          let new := x.slices.zipIdx.map fun p =>
            ({ id := s.eng.nextId + p.2, ctx := x.ctx.num, grid := x.grid.num, core := x.team.core, team := x.issue.team, gang := x.issue.gang,
               slice := p.1, addr := x.s p.1 rx, upd := (x.update (redmOp op) ty p.1 (x.s p.1 ry) 0).1, word := x.word } : RedmUpd)
          let s2 := { s1 with eng := { s1.eng with redms := s1.eng.redms ++ new, nextId := s1.eng.nextId + new.length } }
          let s3 := x.slices.foldl (fun s k => s.raiseLate x.issue.team x.issue.gang k (prepOperand ty (x.s k ry)).2) s2
          let drawn := (new.filter fun r => redmDraws r.upd).map fun r => (3 * r.slice, 1)
          .ok (x.spend x.gang.rnd drawn s3)) s

/-- The update of a REDM is done with. -/
def State.dropRedm (s : State) (r : RedmUpd) : State :=
  ({ s with eng := { s.eng with redms := s.eng.redms.filter fun q => decide (q.id ≠ r.id) } }).dropWaits (.redm r.id)

/-- The update of a REDM fails where it would take its place (R191). -/
def State.failRedm (s : State) (r : RedmUpd) (c : Cause) : State :=
  ((s.dropRedm r).logEvent r.ctx ⟨r.addr, r.word, c, r.core, r.gang % 27, r.slice, 3 * r.slice, r.upd.v⟩
    (s.nameOf r.team (r.gang % 27))).reap r.team

/-- REDM_UPDATE (R191, R228): the update takes its place in the order, after the slice's earlier ones to the same address. -/
def execRedmUpdate (id : Nat) (s : State) : Answer :=
  match s.eng.redms.find? fun r => decide (r.id = id) with
  | none => .fault (.notEnabled "REDM_UPDATE")
  | some r =>
    let before (q : RedmUpd) : Bool :=
      decide (q.id < id) && decide (q.team = r.team) && decide (q.gang = r.gang) && decide (q.slice = r.slice) &&
        decide (q.addr < r.addr + 6) && decide (r.addr < q.addr + 6)
    if s.eng.redms.any before || s.xlate.parked.any (fun p => decide (p.who = .redm id)) then .fault (.notEnabled "REDM_UPDATE")
    else
      match s.ctx? r.ctx with
      | none => .next (s.dropRedm r)
      | some c =>
        let n := updateLen r.upd
        let w : Who := { ctx := c, team := s.team? r.team, gang := r.gang, lane := none, core := some r.core }
        if s.walkersBusy (r.core / 64) w r.addr n then .fault (.notEnabled "REDM_UPDATE") else
        match s.locate w .rmw r.addr n with
        | .bad e => .next (s.failRedm r e)
        | .migr ps => .next (s.park c.num (.redm id) ps)
        | .ok ls =>
          if ls.any fun l => s.badLoc l then .next ((s.noteBad ls).failRedm r .uncorrectable)
          else
            let s0 := if (s.waitsOf (.redm id)).isEmpty then s.touch w .rmw r.addr ls else s
            match s0.farUpdate (.redm id) c.agency c.num 0 r.addr ls r.upd with
            | .bad e => .next (s.failRedm r e)
            | .waits s1 => if s1 = s then .fault (.notEnabled "REDM_UPDATE") else .next s1
            | .done s1 _ f => .next (((s1.raiseLate r.team r.gang r.slice f).dropRedm r).reap r.team)

/-- FENCE (R188, R194, R230): the gang halts where its context has; else the issue set stalls until its updates have taken their
place, ends the leases of the cores that its scope covers, sees code stored before, and merges the flags of R229. Its stores
are in S before it issues. -/
def execFence (sc : Scope) (s : State) : Answer :=
  issue (fun _ => Uses.none)
    (fun x _ s =>
      if s.ctxHalted x.ctx.num then .error (.halt .contextFence s)
      else
        let mine (r : RedmUpd) : Bool :=
          decide (r.team = x.issue.team) && decide (r.gang = x.issue.gang) && x.slices.contains r.slice
        if s.eng.redms.any mine then .error (.stall .fenceWait s)
        else
          let f := joinAll (x.slices.map fun k => (x.gang.slice k).redmFlags)
          let s1 := s.endLeases sc x.team.core (s.mem.leases.map Lease.line)
          .ok (x.raise f (x.modSlices (fun _ y => { y with redmFlags := 0, fenced := s1.mem.wlog.length }) s1))) s

/-- The small pages that meet n trytes from a: first and last address (R231). -/
def pagesMeeting (a n : Int) : Int × Int := (19683 * (a / 19683), 19683 * ((a + n - 1) / 19683) + 19682)

/-- The TLBINV in progress of an issue set. -/
def State.invOf (s : State) (x : Iss) : Option TlbInv :=
  s.xlate.invs.find? fun v => decide (v.team = x.issue.team) && decide (v.gang = x.issue.gang) && decide (v.slices = x.slices)

/-- The context that slice k of a TLBINV names (R231). -/
def State.invCtx (s : State) (x : Iss) (rz : SReg) (k : Nat) : Option Nat :=
  if x.s k rz = 0 then some x.ctx.num else if x.s k rz < 0 then none else (s.ctx? (x.s k rz).toNat).map Context.num

/-- TLBINV (R231, R232): the issue set stalls until each slice's range is done, in slice order. -/
def execTlbinv (rx ry rz : SReg) (_ : Scope) (s : State) : Answer :=
  issueWith false true true (fun x =>
      { Uses.none with
        more := fun s _ =>
          if (s.invOf x).isSome then []
          else x.sliceFaults (fun k => decide (x.s k ry < 1) || decide (x.s k ry > pow3 36) || (s.invCtx x rz k).isNone) .valueRange })
    (fun x _ s =>
      match s.invOf x with
      | some v =>
        if v.ranges = [] then .ok { s with xlate := { s.xlate with invs := s.xlate.invs.filter fun w => decide (w.id ≠ v.id) } }
        else .error (.stall .fenceWait s)
      | none =>
        let rs := x.slices.map fun k =>
          let p := pagesMeeting (x.s k rx) (x.s k ry)
          ((s.invCtx x rz k).getD 0, p.1, p.2)
        let v : TlbInv := { id := s.xlate.nextId, team := x.issue.team, gang := x.issue.gang, slices := x.slices, ranges := rs }
        .error (.stall .fenceWait { s with xlate := { s.xlate with invs := s.xlate.invs ++ [v], nextId := v.id + 1 } })) s

/-- Nothing that uses a leaf of the range is unfinished (R232): lane copies, accesses of which a peer has a part, stores still to enter
S, all by the pages that translated them. -/
def State.rangeQuiet (s : State) (ctx : Nat) (lo hi : Int) : Bool :=
  match s.ctx? ctx with
  | none => true
  | some _ =>
    let meets (p : Int × Int) : Bool := decide (p.1 ≤ hi) && decide (lo ≤ p.2)
    (s.eng.copies.all fun k => decide (k.ctx ≠ ctx) || !k.pages.any meets) &&
      (s.eng.stores.all fun q => decide (q.ctx ≠ ctx) || q.parts.all fun p => !p.pages.any meets) &&
      s.fab.waits.all fun w => decide (w.ctx ≠ ctx) || s.isFenced w.modul || !w.pages.any meets

/-- TLBINV_COMPLETE (R232): the first range of a TLBINV is done: translations dropped, parked walks retried (R175). -/
def execTlbinvComplete (id : Nat) (s : State) : Answer :=
  match s.xlate.invs.find? fun v => decide (v.id = id) with
  | none => .fault (.notEnabled "TLBINV_COMPLETE")
  | some v =>
    match v.ranges with
    | [] => .fault (.notEnabled "TLBINV_COMPLETE")
    | (ctx, lo, hi) :: rest =>
      if !s.rangeQuiet ctx lo hi then .fault (.notEnabled "TLBINV_COMPLETE")
      else
        let hits (e : TlbEntry) : Bool := decide (e.ctx = ctx) && decide (e.page ≤ hi) && decide (lo < e.page + pow3 e.leaf.size)
        let parked (p : Parked) : Bool := decide (p.ctx = ctx) && decide (p.first ≤ hi) && decide (lo ≤ p.last)
        let x := s.xlate
        .next { s with xlate :=
          { x with tlb := x.tlb.filter fun e => !hits e, parked := x.parked.filter fun p => !parked p,
                   invs := mapIf (fun w => decide (w.id = id)) (fun w => { w with ranges := rest }) x.invs } }

/-- TRANSLATION_WALK (R166, R172): a walk for a miss of a core; a valid leaf that is not migrating enters both levels. -/
def execTranslationWalk (core ctx : Nat) (a : Addr) (s : State) : Answer :=
  match s.ctx? ctx with
  | none => .fault (.notEnabled "TRANSLATION_WALK")
  | some c =>
    if core > 1023 ∨ a > maxAddr ∨ a < -maxAddr ∨ isLocal a = true ∨ (0 ≤ a ∧ a < 19683) ∨ (a < 0 ∧ c.priv = false) then
      .fault (.notEnabled "TRANSLATION_WALK")
    else
      let t := s.touchWalk { Who.device c with core := some core } a
      match s.walk c a with
      | .fault _ => .next t
      | .leaf l =>
        if l.migrating then .next t
        else
          let e1 : TlbEntry := { core := true, at_ := core, ctx := ctx, page := pageBase l.size a, leaf := l }
          let e2 : TlbEntry := { e1 with core := false, at_ := core / 64 }
          let same (e f : TlbEntry) : Bool :=
            (e.core == f.core) && decide (e.at_ = f.at_) && decide (e.ctx = f.ctx) && decide (e.page = f.page)
          let here (e f : TlbEntry) : Bool := (e.core == f.core) && decide (e.at_ = f.at_)
          let put (cap : Nat) (e : TlbEntry) (l : List TlbEntry) : List TlbEntry :=
            let kept := l.filter fun f => !same e f
            e :: ((kept.filter fun f => here e f).take (cap - 1) ++ kept.filter fun f => !here e f)
          .next { t with xlate := { t.xlate with tlb := put 59049 e2 (put 2187 e1 t.xlate.tlb) } }

/-- The lines of this module's HBM4 that whole lines of a virtual range name, as runs: first line, last line (R233). -/
def State.homedLines (s : State) (w : Who) (a n : Int) : List (Nat × Nat) :=
  let lo := 81 * (a / 81)
  let hi := 81 * ((a + n - 1) / 81) + 80
  let first := lo / 19683
  (List.range ((hi / 19683 - first).toNat + 1)).filterMap fun i =>
    let p := 19683 * (first + (i : Int))
    if isLocal p || isDebug p || decide (p > maxAddr) || decide (p < -maxAddr) || decide (p = 0) || (decide (p < 0) && !w.ctx.priv) then none
    else
      match s.leafFor w p with
      | .fault _ => none
      | .leaf l =>
        if l.migrating || decide (l.owner ≠ s.modul) then none
        else
          let base := 19683 * (l.frame : Int) + (p - pageBase l.size p)
          some (((base + (Max.max lo p - p)) / 81).toNat, ((base + (Min.min hi (p + 19682) - p)) / 81).toNat)

/-- A cache operation on the lines of each slice's range (R233). -/
def cacheOp (f : Iss → State → (Nat → Bool) → State) (rx ry : SReg) (s : State) : Answer :=
  issue (fun x =>
      { Uses.none with
        faults := x.sliceFaults (fun k => decide (x.s k ry < 1) || decide (x.s k ry > pow3 18)) .valueRange ++
          x.slices.flatMap fun k =>
            if x.s k rx > maxAddr ∨ x.s k rx < -maxAddr then (lanesOf [k]).map fun l => (l, Cause.outsideSpace, x.s k rx) else [] })
    (fun x _ s =>
      .ok (x.slices.foldl (fun s k =>
        let runs := s.homedLines (x.who none) (x.s k rx) (x.s k ry)
        f x s fun l => runs.any fun r => decide (r.1 ≤ l) && decide (l ≤ r.2)) s)) s

/-- CWB (R233): dirty copies are written back and kept. -/
def execCwb (x y : SReg) (s : State) : Answer :=
  cacheOp (fun _ s p =>
    (s.mem.cache.filter fun c => p c.line && c.dirty).foldl (fun s c =>
      let s1 := s.writeSlot c.agency c.line c.form
      { s1 with mem := { s1.mem with cache := mapIf (fun d => decide (d.line = c.line)) (fun d => { d with dirty := false }) s1.mem.cache } }) s)
    x y s

/-- CINV (R233): the issuing core's leases end. -/
def execCinv (x y : SReg) (s : State) : Answer :=
  cacheOp (fun i s p =>
    { s with mem := { s.mem with leases := s.mem.leases.filter fun l => !(decide (l.core = i.team.core) && p l.line) } }) x y s

/-- CWBI (R233): the lines leave the shared cache, dirty ones written back. -/
def execCwbi (x y : SReg) (s : State) : Answer :=
  cacheOp (fun _ s p => (s.mem.cache.filter fun c => p c.line).foldl (fun s c => s.evict c.line) s) x y s

/-- LEASE_EXPIRY (R186). -/
def execLeaseExpiry (core line : Nat) (s : State) : Answer :=
  let mine (l : Lease) : Bool := decide (l.core = core) && decide (l.line = line)
  match s.mem.leases.find? mine with
  | some l =>
    if s.clock.cycle ≥ l.since + 6561 then .next { s with mem := { s.mem with leases := s.mem.leases.filter fun q => !mine q } }
    else .fault (.notEnabled "LEASE_EXPIRY")
  | none => .fault (.notEnabled "LEASE_EXPIRY")

end Sys2Proof.Machine
end

