-- ==== Sys2Proof/Machine/Issue.lean ====
section
/-!
DEFINITION. From the schedulers to an instruction: which issue sets are ready and in which order a scheduler considers
them (R131, R380), fetching (R42, R43, R60), and what happens to the instruction fetched. Beside it, how time passes.
-/
namespace Sys2Proof.Machine

/-- An issue set that a scheduler may choose: its core and scheduler, team, slot, gang, slices. -/
structure Cand where
  core   : Nat
  sched  : Nat
  slot   : Nat
  team   : Nat
  gang   : Nat
  slices : List Nat
  deriving DecidableEq, Repr

/-- The slices of the sub-gang whose lowest slice is k. -/
def Gang.subgang (g : Gang) (k : Nat) : List Nat := g.liveSlices.filter fun j => decide ((g.slice j).sub = k)

/-- The pages parked for an issue set (R175). -/
def State.parkedFor (s : State) (t g k : Nat) : Bool := s.xlate.parked.any fun p => decide (p.who = .issue t g k)

/-- What a stalled issue set stalled on may have answered (R142); the stall that the trace imposes ends by itself. -/
def State.mayRetry (s : State) (agency : Nat) (t g k : Nat) (w : Stall) : Bool :=
  match w with
  | .migrating => !s.parkedFor t g k
  | .remote | .post | .fetch => !s.parkedFor t g k && (s.waitsOf (.issue t g k)).all fun x => x.todo.isSome || x.reply.isSome || s.isFenced x.modul
  | .trace => false
  | _ => true

/-- Stores of the slices have been accepted and are not all in S yet: nothing of the slices stands before them (R182). -/
def State.storing (s : State) (t g : Nat) (ks : List Nat) : Bool :=
  s.eng.stores.any fun q => decide (q.team = t) && decide (q.gang = g) && q.slices.any fun k => ks.contains k

/-- The team is on its core, and where it drains before a save, the instruction has begun (R271). -/
def State.mayGoOn (s : State) (t : Team) (g k : Nat) : Bool :=
  match t.place with
  | .resident => true
  | .saving => s.begun t.key g k
  | _ => false

/-- The sub-gang of slices ks is ready, as far as its gang's and slices' own state say (R380): other sub-gangs stop for a
handler, once each has ended its sweep and the instruction that it has begun (R137). -/
def State.ready (s : State) (agency : Nat) (t : Team) (g : Gang) (ks : List Nat) : Bool :=
  !ks.isEmpty && s.mayGoOn t g.idx (ks.headD 0) && g.halt.isNone && !s.gated t.core && !s.storing t.key g.idx ks &&
    (match g.bank with
     | some b =>
       let sweeping (k : Nat) : Bool := (g.slice k).sweep.any fun h => !h.paused
       if ks.all fun k => b.slices.contains k then g.liveSlices.all fun k => b.slices.contains k || !(sweeping k || s.begun t.key g.idx k)
       else ks.all sweeping || s.begun t.key g.idx (ks.headD 0)
     | none => true) &&
    ks.all fun k =>
      let x := g.slice k
      !x.ended && x.wait.isNone &&
        (match x.stall with | some w => s.mayRetry agency t.key g.idx k w | none => true)

/-- The ready sub-gangs of a gang in the order in which its slot considers them: from the one after the sub-gang pointer
(R380). -/
def State.readySubs (s : State) (t : Team) (g : Gang) : List (List Nat) :=
  let agency :=
    match (s.grid? t.grid).bind fun r => s.ctx? r.ctx with
    | some c => c.agency
    | none => 0
  ((List.range 9).map fun i => (g.subPtr + 1 + i) % 9).filterMap fun k =>
    let ks := g.subgang k
    if s.ready agency t g ks then some ks else none

/-- A slot may issue in the present cycle: its scheduler has not issued in it, and no later slot of the core has, since the records of
one cycle stand in slot order (R131, R422). -/
def State.slotFree (s : State) (core sched slot : Nat) : Bool :=
  s.issued.all fun p => decide (p.1 / 3 ≠ core) || (decide (p.1 ≠ 3 * core + sched) && decide (p.2 < slot))

/-- The issue sets that a scheduler of a core considers, in its order (R380). -/
def State.candidates (s : State) (core sched : Nat) : List Cand :=
  let p0 := (getZ (3 * core + sched) s.slotPtr).toNat
  let ts := s.teams.filter fun t => decide (t.core = core)
  (List.range 9).flatMap fun i =>
    let slot := 3 * ((p0 + i) % 9) + sched
    (if s.slotFree core sched slot then ts else []).flatMap fun t =>
      (t.gangs.filter fun g => decide (g.slot = slot) && decide (g.idx < 27)).flatMap fun g =>
        (s.readySubs t g).map fun ks => ⟨core, sched, slot, t.key, g.idx, ks⟩

/-- A list rotated so that the elements from the first at least n on come first. -/
def rotateFrom (n : Nat) (l : List Nat) : List Nat := (l.filter fun x => decide (n ≤ x)) ++ l.filter fun x => decide (x < n)

/-- A number put into a rising list without repeats. -/
def insertNat (n : Nat) : List Nat → List Nat
  | [] => [n]
  | a :: r => if n < a then n :: a :: r else if n = a then a :: r else a :: insertNat n r

/-- The schedulers that have gangs, by 3 core + scheduler, rising. -/
def State.schedulers (s : State) : List Nat :=
  (s.teams.flatMap fun t => if !t.onCore then [] else t.gangs.map fun g => 3 * t.core + g.slot % 3).foldl
    (fun l n => insertNat n l) []

/-- All issue sets that may issue, in the order in which the model considers them when the agenda names none. -/
def State.allCandidates (s : State) : List Cand :=
  (rotateFrom s.turn s.schedulers).flatMap fun n => s.candidates (n / 3) (n % 3)

/-- The pointers after issue set c has been chosen (R380); apart says that its instruction's accesses stand apart in S. -/
def State.choose (s : State) (c : Cand) (apart : Bool) : State :=
  let s1 := s.modGang c.team c.gang fun g => { g with subPtr := c.slices.headD 0 }
  { s1 with
    slotPtr := setZ (3 * c.core + c.sched) (((c.slot / 3 + 1) % 9 : Nat) : Int) s1.slotPtr,
    turn := (3 * c.core + c.sched + 1) % 3072,
    issued := (3 * c.core + c.sched, c.slot) :: s1.issued,
    cur := some { team := c.team, gang := c.gang, slices := c.slices, words := [], apart := apart } }

/-- What a fetch of one word finds. -/
inductive Word1 where
  | at_ (ls : List Loc)
  | stop (e : Stop)
  deriving DecidableEq, Repr

/-- The places of the word at an address for a fetch (R43, R171, R175, R249). -/
def State.fetchPlace (s : State) (x : Iss) (a : Int) : Word1 :=
  let acc : Acc := { lanes := x.lanes, lane := none, addr := a, len := 3, op := .fetch, aligned := true }
  if s.walkersFull x [acc] then .stop (.stall .walkers s) else
  match s.locate (x.who none) .fetch a 3 with
  | .bad .uncorrectable => .stop (s.stopWalk x acc)
  | .bad c => .stop (.trap (.lanesOnly (x.lanes.map fun l => (l, c, a))))
  | .migr ps =>
    let qs := ps.map fun p =>
      ({ ctx := x.ctx.num, first := p.1, last := p.2, who := x.parker } : Parked)
    .stop (.stall .migrating { s with xlate := { s.xlate with parked := s.xlate.parked ++ qs } })
  | .ok ls =>
    match s.badAcc [(acc, ls)] with
    | some b => .stop (s.stopBad x b.1 (some b.2))
    | none => .at_ ls

/-- The accesses with overwrites that the slices of the issue set need not have seen yet (R43). -/
def State.unseen (s : State) (x : Iss) : Nat :=
  let f := (x.slices.map fun k => (x.gang.slice k).fenced).foldl Nat.min s.mem.wlog.length
  s.mem.wlog.length - f

/-- The HBM4 trytes of this module that hold the word at an address, as far as it may be fetched. -/
def State.wordCells (s : State) (x : Iss) (a : Int) : List Nat :=
  match s.fetchPlace x a with
  | .at_ ls => hbmOf ls
  | .stop _ => []

/-- The words of the unit whose words lie at places of this module, of an age; at most n. -/
def Mem.unitBefore (m : Mem) (age : Nat) : Nat → List (List Nat) → List Int → List Int
  | 0, _, ws => ws
  | _ + 1, [], ws => ws
  | n + 1, c :: cs, ws =>
    let all := ws ++ [ofTrytes (c.map fun p => m.cellBefore age p)]
    if wordsNeeded all ≤ all.length then all else Mem.unitBefore m age n cs all

/-- No two words of a unit stand at an age one after and one before an overwrite: none of the last n has passed, or all of those that
meet the unit, or only one word has changed (R43). -/
def Mem.wholeAge (m : Mem) (n age : Nat) (cells : List (List Nat)) : Bool :=
  let meets (w : Overwrite) (c : List Nat) : Bool := w.cells.any fun p => c.contains p.1
  let passed := (m.wlog.take n).drop age
  let ahead := m.wlog.take age
  let old (c : List Nat) : Bool := ahead.any fun w => meets w c
  let new (c : List Nat) : Bool := passed.any fun w => meets w c
  (cells.zipIdx.all fun c => cells.zipIdx.all fun d => decide (c.2 = d.2) || !(old c.1 && new d.1))

/-- A word of the three at an address lies on a peer. -/
def State.farUnit (s : State) (x : Iss) (a : Int) : Bool :=
  (List.range 3).any fun i => match s.fetchPlace x (a + 3 * (i : Int)) with | .at_ ls => ls.any Loc.isPeer | .stop _ => false

/-- The age at which the unit at an address is fetched (R43): 0, its present content, unless some content since the
last FENCE differs; then a free choice among those that mix no old word with a new one. A unit with words on a peer is fetched as it
is at one time. -/
def State.fetchAge (s : State) (x : Iss) (a : Int) : Nat :=
  let n := s.unseen x
  if n = 0 || s.farUnit x a then 0
  else
    let cells := (List.range 3).map fun i => s.wordCells x (a + 3 * (i : Int))
    let hit (w : Overwrite) : Bool := w.cells.any fun p => cells.any fun c => c.contains p.1
    if (s.mem.wlog.take n).all fun w => !hit w then 0
    else
      let ages := (List.range (n + 1)).filter fun j => s.mem.wholeAge n j (cells.take (s.mem.unitBefore j 3 cells []).length)
      ages.getD (Config.fetchAge s.draws % ages.length) 0

/-- The words, from word i of the unit at an address on, that one access to a peer's page fetches (R43, R402). -/
def State.farWords (s : State) (x : Iss) (m p i : Nat) (a : Int) : Nat :=
  1 + (List.range (2 - i)).countP fun j =>
    match s.fetchPlace x (a + 3 * ((i + j + 1 : Nat) : Int)) with
    | .at_ (l :: _) => decide (l = .peer m (p + 3 * (j + 1)))
    | _ => false

/-- The first key of the requests for the words of a unit. -/
def fetchKey : Nat := 1048576

/-- The words from word i of a unit on that are fetched together, of an age; a peer's are asked for (R402). Where others than one peer
hold words of the unit, they are fetched as one access over several owners, so that no old word meets a new one (R43, log 83). -/
def State.fetchWords (s : State) (x : Iss) (age i : Nat) (a : Int) : Except Stop (List Int) :=
  let at_ := a + 3 * (i : Int)
  match s.fetchPlace x at_, (s.waitsOf x.parker).find? fun w => decide (w.key = fetchKey + 64 * i) && decide (w.modul = s.modul) with
  | .stop e, _ => .error e
  | .at_ _, some w => .ok (match w.reply with | some (.vals vs) => [ofTrytes vs] | _ => [])
  | .at_ ls, none =>
    match ls with
    | .peer m p :: _ =>
      let n := 3 * s.farWords x m p i a
      let r : RemReq := { key := fetchKey + 64 * i, modul := m, lanes := x.lanes, req := .load p n false, addr := at_, len := n }
      match s.answers x.parker [r] with
      | .bad ((_, c) :: _) =>
        if c = .uncorrectable then .error (s.stopBad x { lanes := x.lanes, lane := none, addr := at_, len := 3, op := .fetch, aligned := true } none)
        else .error (.trap (.lanesOnly (x.lanes.map fun l => (l, c, at_))))
      | .bad [] => .ok []
      | .pending [] => .error (.stall .fetch s)
      | .pending missing =>
        .error (.stall .fetch (s.askParts x.parker x.ctx.agency x.ctx.num (decide (i > 0) || decide (n < 9)) missing))
      | .all [(_, .vals vs)] => .ok ((List.range (n / 3)).map fun j => ofTrytes ((vs.drop (3 * j)).take 3))
      | .all _ => .ok []
    | _ => .ok [ofTrytes (ls.map fun l => match l with | .hbm p => s.mem.cellBefore age p | _ => 0)]

/-- The words of the instruction at an address, prefixes first (R43, R60), from those fetched and those fetched ahead; by at most n
more steps. -/
def State.fetchUnit (s : State) (x : Iss) (age : Nat) (a : Int) : Nat → List Int → List Int → Except Stop (List Int)
  | 0, ws, _ => .ok ws
  | n + 1, ws, w :: ahead => if wordsNeeded (ws ++ [w]) ≤ ws.length + 1 then .ok (ws ++ [w]) else State.fetchUnit s x age a n (ws ++ [w]) ahead
  | n + 1, ws, [] =>
    match s.fetchWords x age ws.length a with
    | .error e => .error e
    | .ok l => State.fetchUnit s x age a n ws l

/-- The words that the issue set fetches. -/
def State.fetch (s : State) (x : Iss) : Except Stop (List Int) :=
  let a := (x.gang.slice x.low).pc
  s.fetchUnit x (s.fetchAge x a) a 6 [] []

/-- The words of this module of a unit of n words that has words on peers, kept for the instruction while it waits (R43). -/
def State.keepWords (s : State) (x : Iss) (n : Nat) : State :=
  let a := (x.gang.slice x.low).pc
  (List.range n).foldl (fun (s : State) (i : Nat) =>
    match s.fetchPlace x (a + 3 * (i : Int)) with
    | .at_ ls =>
      if ls.any Loc.isPeer || (s.waitsOf x.parker).any (fun w => decide (w.key = fetchKey + 64 * i)) then s
      else
        let w : RemoteWait :=
          { who := x.parker, modul := s.modul, key := fetchKey + 64 * i, tag := 0, ctx := x.ctx.num, addr := a + 3 * (i : Int), len := 3, pages := [],
            todo := none, reply := some (.vals (ls.map fun l => s.readLoc false l)) }
        { s with fab := { s.fab with waits := s.fab.waits ++ [w] } }
    | .stop _ => s) s

/-- The lines of words fetched from the issue set's program counter on that decode with correction are rewritten, and a walk of the page of
the last of n words reads its entries (R173, R249). Code is read past the shared cache and charged to nobody (log 100). -/
def State.fetched (s : State) (x : Iss) (n : Nat) : State :=
  let a := (x.gang.slice x.low).pc
  let b := a + 3 * ((n - 1 : Nat) : Int)
  let s0 := if a / 19683 = b / 19683 then s else s.touchWalks (x.who none) b 3
  let s1 := if (s0.waitsOf x.parker).any fun w => decide (fetchKey ≤ w.key) && decide (w.key < fetchKey + 4096) then (s0.keepWords x n).unhold x.parker else s0
  if s1.mem.upsets = [] then s1
  else
    let cells := (List.range n).flatMap fun i => s1.wordCells x (a + 3 * (i : Int))
    (cells.map fun p => p / 81).eraseDups.foldl (fun s l => if s.mem.cache.any fun c => decide (c.line = l) then s else s.correctSlot l) s1

/-- The words put beside the selected issue set. -/
def State.withWords (s : State) (ws : List Int) : State :=
  { s with cur := s.cur.map fun i => { i with words := ws } }

/-- The trap that the issue set owes before its next instruction (R117, R123, R260, R276): in the slices that owe one; that of a moved
team has no faulting lane, and waits for the end of a handler. -/
def Iss.owed (x : Iss) : Option Trap :=
  let of (k : Nat) : List (Nat × Cause × Int) :=
    match (x.gang.slice k).owed with
    | some c => (lanesOf [k]).map fun l => (l, c, if isMemoryCause c then getZ 19 (x.gang.slice k).s else 0)
    | none => []
  let fs := x.slices.flatMap of
  if fs ≠ [] then some (.lanesOnly fs)
  else if (x.slices.any fun k => (x.gang.slice k).moved) && !x.gang.inHandler then some ⟨[], [], 0, false, some .teamMoved⟩ else none

/-- What the selected issue set does: a segment of its sweep, a trap that it owes, or its next instruction, by ex. The results whose
window is used up have landed before (R50). -/
def issueOnce (ex : Instr → State → Answer) (s0 : State) : Answer :=
  match s0.iss? with
  | none => .fault .noIssueSet
  | some x0 =>
    let s := x0.landDue false s0
    match s.iss? with
    | none => .fault .noIssueSet
    | some x =>
      match (x.gang.slice x.low).sweep with
      | some h => ex (.sweepSegment ⟨x.issue.team, x.issue.gang, x.low⟩) (s.withWords h.words)
      | none =>
        let s := s.touchWalks (x.who none) (x.gang.slice x.low).pc 3
        match s.fetch x with
        | .error e =>
          match x.owed with
          | some t => .next (takeTrap s x t)
          | none => .next (x.stopped s [] e)
        | .ok ws =>
          let s1 := (s.fetched x ws.length).withWords ws
          match s1.iss? with
          | none => .fault .noIssueSet
          | some y =>
            match y.owed with
            | some t => .next (takeTrap s1 y t)
            | none =>
              match decode ws with
              | .error c => .next (takeTrap s1 y (.of y.lanes c))
              | .ok (i, _) => ex i s1

/-- The issue set stands in a stall in a state that its attempt to issue ended in. -/
def Iss.stallsIn (x : Iss) (s : State) : Bool :=
  match s.gang? x.issue.team x.issue.gang with
  | some g => (match (g.slice x.low).stall with | some w => decide (w ≠ .trace) | none => false)
  | none => false

/-- What the selected issue set does, once its stall is over where it does not stall on (R444). -/
def issueNow (ex : Instr → State → Answer) (s : State) : Answer :=
  match s.iss? with
  | none => .fault .noIssueSet
  | some x =>
    match issueOnce ex s with
    | .next t => if x.stallsIn s && !x.stallsIn t then issueOnce ex (s.endStall x) else .next t
    | r => r

/-- The issue set stands in a stall that its last attempt to issue ended in. -/
def State.stalled (s : State) (c : Cand) : Bool :=
  match s.gang? c.team c.gang with
  | some g => (match (g.slice (c.slices.headD 0)).stall with | some w => decide (w ≠ .trace) | none => false)
  | none => false

/-- The pointers of s put back into a state in which nothing issued. -/
def State.unchoose (s : State) (c : Cand) (s' : State) : State :=
  let p := match s.gang? c.team c.gang with | some g => g.subPtr | none => 0
  { s'.modGang c.team c.gang (fun g => { g with subPtr := p }) with slotPtr := s.slotPtr, turn := s.turn, issued := s.issued }

/-- The first issue set of a list that does not stall issues (R380); none when none can, with the state that the
attempts leave. -/
def tryIssue (ex : Instr → State → Answer) (apart : Bool) : List Cand → State → Option Answer × State
  | [], s => (none, s)
  | c :: cs, s =>
    match issueNow ex (s.choose c apart) with
    | .next s' => if s'.stalled c then tryIssue ex apart cs (s.unchoose c s') else (some (.next s'), s)
    | r => (some r, s)

end Sys2Proof.Machine
end

