-- ==== Sys2Proof/Machine/Debug.lean ====
section
/-!
DEFINITION. Tracing, watchpoints, debug windows, halting and releasing gangs, reading clocks and accounts (R355 to R363),
and the steps of Periscope (R434, R440, R442, R443, R447).
-/
namespace Sys2Proof.Machine

/-- The agency of a team (R432). -/
def State.teamAgency (s : State) (t : Team) : Nat :=
  match (s.grid? t.grid).bind fun g => s.ctx? g.ctx with | some c => c.agency | none => 0

/-- A DBG instruction whose slices act one after another in ascending order (R331). -/
def perSlice (priv : Bool) (uses : Iss → Uses) (act : Iss → Nat → State → State) (s : State) : Answer :=
  issueWith false priv true uses (fun x _ s => .ok (x.slices.foldl (fun s k => act x k s) s)) s

/-- TRCEV (R355). -/
def execTrcev (r : SReg) (code : Int) (s : State) : Answer :=
  perSlice false (fun _ => Uses.none)
    (fun x k s => s.emit x.ctx.agency x.team.core 9
      (record (-1) ((x.gang.slot : Int) - 13) k (toTrytes 2 code ++ toTrytes 6 (x.s k r)))) s

/-- A number put into a rising list. -/
def sortNats (l : List Nat) : List Nat := l.foldl (fun a n => insertNat n a) []

/-- The sources that have written since start, rising. -/
def TraceCfg.writers (c : TraceCfg) : List Nat := sortNats c.wrote

/-- Trytes of what TRCCTL stop and flush write (R434). -/
def TraceCfg.flushSize (c : TraceCfg) : Nat :=
  10 * c.wrote.length + 6 * (c.owed.filter fun o => c.wrote.contains o.1).length

/-- Pending records and a synchronisation record of every source that has written (R434, R440); none while it must wait. -/
def State.flushTrace (s : State) (agency : Nat) : Option State :=
  match s.cfg? agency with
  | none => some s
  | some c =>
    let go : State := c.writers.foldl (fun s src => s.traceStream agency src s.clock.cycle true []) s
    if !c.lossless then some go
    else if c.holds ≠ [] then none
    else
      match s.traceRoom c c.flushSize with
      | .ok room => if c.flushSize < room then some go else none
      | .bad e => some (s.traceFail c e)
      | .migr _ => none

/-- The control block of tracing holds values that R356 lists. -/
def traceBlockOk (b : List Int) : Bool :=
  let d (i : Nat) : Int := b.getD i 0
  decide (0 ≤ d 0) && decide (d 0 ≤ 242) && decide (d 1 < 0) && decide (d 1 % 19683 = 0) && decide (d 2 % 19683 = 0) &&
    decide (19683 ≤ d 2) && decide (d 2 ≤ pow3 24) && (decide (d 3 = 1) || decide (d 3 = -1)) &&
    ((List.range 10).all fun i => decide (tritAt i (d 4) ≠ -1)) && highZero 10 (d 4) &&
    decide (9 ≤ d 5) && decide (d 5 ≤ 20) && decide (d 8 = 0)

/-- Tracing of a block's agency started on behalf of a core (R356, R434). -/
def State.startTrace (s : State) (x : Iss) (b : List Int) (offset : Nat) : State :=
  let a := (b.getD 0 0).toNat
  let c : TraceCfg :=
    { agency := a, ctx := x.ctx.num, block := b, offset := offset, last := none, streams := [], wrote := [], dirty := [],
      holds := [], mark := none, owed := [], synced := [] }
  let s1 := s.dropCfg a
  State.traceStream { s1 with scope := { s1.scope with cfgs := c :: s1.scope.cfgs } } a x.team.core s.clock.cycle true []

/-- The blocks of TRCCTL start that could be read, by slice. -/
def Iss.traceBlocks (x : Iss) (seen : Nat → Option (List Int)) : List (Nat × List Int) :=
  x.slices.zipIdx.filterMap fun p => (seen p.2).map fun vs => (p.1, digits 54 9 (ofTrytes vs))

/-- The load of the write offset that a block names. -/
def offsetAcc (k : Nat) (b : List Int) : Acc := bodyAcc k (b.getD 6 0) 6 3

/-- The first key of the request for the write offset of slice k's block. -/
def offsetKey (k : Nat) : Nat := 16384 * (k + 1)

/-- The write offset that a block names, as it stands in storage once a running configuration of the agency that keeps its own
there has been flushed (R356). -/
def State.traceOffset (s : State) (x : Iss) (k : Nat) (b : List Int) : Int :=
  match s.checkAcc x (offsetAcc k b) with
  | .ok ls =>
    let told := (s.waitsOf x.parker).filterMap fun w =>
      if w.key < offsetKey k ∨ w.key ≥ offsetKey (k + 1) then none else w.reply.map fun a => (w.key - offsetKey k, a)
    match s.cfg? (b.getD 0 0).toNat with
    | some c => if ls.any Loc.isPeer ∧ c.ctx = x.ctx.num ∧ c.dbl 6 = b.getD 6 0 then c.offset else ofTrytes (s.readWith false ls told)
    | none => ofTrytes (s.readWith false ls told)
  | _ => 0

/-- What TRCCTL start does block by block (R356): a running configuration is first flushed, then the write offset is read, then
tracing starts. Answers the faults of offsets, and the state unless a flush must wait. -/
def State.traceStarts (s : State) (x : Iss) : List (Nat × List Int) → Option State × List (Nat × Cause × Int)
  | [] => (some s, [])
  | (k, b) :: r =>
    match s.flushTrace (b.getD 0 0).toNat with
    | none => (none, [])
    | some s1 =>
      let o := s1.traceOffset x k b
      let q := State.traceStarts (s1.startTrace x b o.toNat) x r
      if 0 ≤ o ∧ o < b.getD 2 0 then q else (q.1, sliceFault k .valueRange 0 ++ q.2)

/-- What is wrong with a block or with the load of its write offset (R171, R356). -/
def State.traceFaults (s : State) (x : Iss) (k : Nat) (b : List Int) : List (Nat × Cause × Int) :=
  if !traceBlockOk b then sliceFault k .valueRange 0
  else match s.checkAcc x (offsetAcc k b) with | .bad c => sliceFault k c (b.getD 6 0) | _ => []

/-- The requests for the write offsets that blocks keep on peers. -/
def State.offsetReqs (s : State) (x : Iss) (bs : List (Nat × List Int)) : List RemReq :=
  bs.flatMap fun p => if traceBlockOk p.2 then s.bodyReqs x p.1 (offsetKey p.1) (p.2.getD 6 0) 6 3 else []

/-- TRCCTL start (R356): running configurations are first flushed. -/
def execTrcctlStart (r : SReg) (s : State) : Answer :=
  issueWith false true true (fun x => { Uses.none with
      accs := x.cardAccs r 9 3, asks := fun s seen => s.offsetReqs x (x.traceBlocks seen),
      more := fun s seen =>
        let bs := x.traceBlocks seen
        let early := bs.flatMap fun p => s.traceFaults x p.1 p.2
        early ++ (s.traceStarts x (bs.filter fun p => !early.any fun f => decide (f.1 / 3 = p.1))).2 })
    (fun x got s =>
      let bs := x.traceBlocks (got.seen s)
      let accs := bs.map fun p => offsetAcc p.1 p.2
      match accPages (accs.map fun a => (a, s.checkAcc x a)), s.badAcc (accPlaces (accs.map fun a => (a, s.checkAcc x a))) with
      | [], none =>
        (match (s.traceStarts x bs).1 with
         | some s1 => (match s.bodyDone x accs with | .ok _ => s1.bodyDone x accs | .error e => .error e)
         | none => .error (.stall .flush s))
      | [], some a => .error (s.stopBad x a.1 (some a.2))
      | ps, _ => .error (.stall .migrating ((s.dropWaits x.parker).park x.ctx.num x.parker ps))) s

/-- An agency named by a slice's register is not one (R356, R357). -/
def Iss.agencyFaults (x : Iss) (r : SReg) : List (Nat × Cause × Int) :=
  x.slices.flatMap fun k => if x.s k r < 0 ∨ x.s k r > 242 then sliceFault k .valueRange 0 else []

/-- TRCCTL stop and flush (R356, R434). -/
def traceFlush (stop : Bool) (r : SReg) (s : State) : Answer :=
  issueWith false true true (fun x => { Uses.none with faults := x.agencyFaults r })
    (fun x _ s =>
      let one (s : State) (k : Nat) : Option State :=
        (s.flushTrace (x.s k r).toNat).map fun s => if stop then s.dropCfg (x.s k r).toNat else s
      match x.slices.foldl (fun (o : Option State) k => o.bind fun s => one s k) (some s) with
      | some s1 => .ok s1
      | none => .error (.stall .flush s)) s

/-- TRCCTL stop (R356). -/
def execTrcctlStop (r : SReg) (s : State) : Answer := traceFlush true r s
/-- TRCCTL flush (R356). -/
def execTrcctlFlush (r : SReg) (s : State) : Answer := traceFlush false r s

/-- PRFCTL (R357). -/
def execPrfctl (r : SReg) (k : Nat) (s : State) : Answer :=
  perSlice true (fun x => { Uses.none with faults := x.agencyFaults r })
    (fun x j s =>
      let a := (x.s j r).toNat
      let rest := s.scope.sampling.filter fun p => decide (p.1 ≠ a)
      { s with scope := { s.scope with sampling := if k = 0 then rest else (a, k) :: rest } }) s

/-- A watch descriptor is well-formed (R358). -/
def watchOk (d : List Int) : Bool :=
  let a := sub 52 2 (d.getD 0 0)
  (decide (a = 0) || decide (a = 1) || decide (a = -1)) && decide (tritAt 51 (d.getD 0 0) ≠ -1) && decide (sub 0 51 (d.getD 0 0) = 0) &&
    decide (1 ≤ d.getD 2 0) && decide (d.getD 2 0 ≤ pow3 36)

/-- A gang name names a gang that may be one of another module of the domain, which is to be asked (R332). -/
def State.farGang (s : State) (n : Int) : Bool := decide (0 ≤ sub 45 9 n) && decide (nameModule n ≠ s.modul) && s.inDomain (nameModule n)

/-- What is asked of the modules of gangs that slices name. -/
def State.gangReqs (s : State) (base : Nat) (op : DebugOp) (ns : List (Nat × Int)) : List RemReq :=
  (ns.filter fun p => s.farGang p.2).map fun p =>
    { key := base + p.1, modul := nameModule p.2, lanes := lanesOf [p.1], req := .debug p.2 op }

/-- Slices whose names name no gang of this module, nor one of another module (R360, R361). -/
def State.nameFaults (s : State) (ns : List (Nat × Int)) : List (Nat × Cause × Int) :=
  ns.flatMap fun p => if s.farGang p.2 || (s.namedGang p.2).isSome then [] else sliceFault p.1 .gangName 0

/-- The names that the slices of an issue set hold in a register. -/
def Iss.names (x : Iss) (r : SReg) : List (Nat × Int) := x.slices.map fun k => (k, x.s k r)

/-- The key of the first of an instruction's requests about gangs: whether they live, then what it does to them. -/
def liveKey : Nat := 16384
/-- The key of the first request that acts on a gang. -/
def actKey : Nat := 32768

/-- The descriptors of WATCH that could be read, by slice. -/
def Iss.watchDescs (x : Iss) (seen : Nat → Option (List Int)) : List (Nat × List Int) :=
  x.slices.zipIdx.filterMap fun p => (seen p.2).map fun vs => (p.1, digits 54 4 (ofTrytes vs))

/-- The gangs that descriptors of WATCH name. -/
def targetsOf (ds : List (Nat × List Int)) : List (Nat × Int) :=
  (ds.map fun d => (d.1, d.2.getD 3 0)).filter fun p => decide (p.2 ≠ 0)

/-- WATCH (R359). -/
def execWatch (r : SReg) (n : Fin 27) (s : State) : Answer :=
  issueWith false true true (fun x => { Uses.none with
      accs := x.cardAccs r 4 3, asks := fun s seen => s.gangReqs liveKey .live (targetsOf (x.watchDescs seen)),
      more := fun s seen =>
        let ds := x.watchDescs seen
        (ds.flatMap fun d => if watchOk d.2 then [] else sliceFault d.1 .valueRange 0) ++ s.nameFaults (targetsOf ds) })
    (fun x got s =>
      .ok ((x.watchDescs (got.seen s)).foldl (fun s d =>
        let w : Watch :=
          { n := n.val, ctx := x.ctx.num, access := sub 52 2 (d.2.getD 0 0), stop := decide (tritAt 51 (d.2.getD 0 0) = 1),
            start := d.2.getD 1 0, len := d.2.getD 2 0, target := d.2.getD 3 0 }
        { s with scope := { s.scope with watches := w :: s.scope.watches.filter fun v => decide (v.n ≠ n.val) } }) s)) s

/-- UNWATCH (R359). -/
def execUnwatch (n : Fin 27) (s : State) : Answer :=
  perSlice true (fun _ => Uses.none)
    (fun _ _ s => { s with scope := { s.scope with watches := s.scope.watches.filter fun v => decide (v.n ≠ n.val) } }) s

/-- Window n of a gang onto another gang opened, or closed for the name 0 (R360). -/
def State.setWindow (s : State) (n : Nat) (name me : Int) : State :=
  let rest := s.scope.windows.filter fun w => !(decide (w.1 = n) && decide (w.2.2 = me))
  { s with scope := { s.scope with windows := if name = 0 then rest else (n, name, me) :: rest } }

/-- The modules of other gangs that a window of a gang is or was named onto, but the one of the name given last, told that it is closed
(R448). -/
def State.detachWindows (s : State) (x : Iss) (n : Nat) (me : Int) (names : List Int) : State :=
  let old := (s.scope.windows.filter fun w => decide (w.1 = n) && decide (w.2.2 = me)).map fun w => w.2.1
  let last := names.getLast?.getD 0
  (old.filter fun m => s.farGang m && !(decide (last ≠ 0) && decide (nameModule m = nameModule last))).foldl (fun s m =>
    s.send x.ctx.agency (nameModule m) (.request 0 s.modul x.ctx.num (.debug m (.detach n me)))) s

/-- DBGWIN (R360, R448): each window belongs to the gang that opened it; the module of the gang named keeps note of it. -/
def execDbgwin (r : SReg) (n : Fin 9) (s : State) : Answer :=
  issueWith false true true (fun x =>
      let ns := (x.names r).filter fun p => decide (p.2 ≠ 0)
      { Uses.none with asks := fun s _ => s.gangReqs liveKey .live ns, more := fun s _ => s.nameFaults ns })
    (fun x _ s =>
      let me := s.nameOf x.issue.team x.issue.gang
      let names := (x.names r).map Prod.snd
      let last := ((x.names r).drop (x.slices.length - 1)).filter fun p => decide (p.2 ≠ 0)
      match s.answers x.parker (s.gangReqs actKey (.attach n.val me) last) with
      | .pending missing => .error (.stall .remote (s.askFor x.parker x.ctx.agency x.ctx.num missing))
      | _ => .ok (names.foldl (fun s name => s.setWindow n.val name me) (s.detachWindows x n.val me names))) s

/-- HALTG (R361): it waits until the gangs have stopped, those of other modules where they are. -/
def execHaltg (r : SReg) (s : State) : Answer :=
  issueWith false true false (fun x =>
      { Uses.none with asks := fun s _ => s.gangReqs liveKey .live (x.names r), more := fun s _ => s.nameFaults (x.names r) })
    (fun x _ s =>
      let mine (t : Team) (g : Gang) : Bool := decide (t.key = x.issue.team) && decide (g.idx = x.issue.gang)
      let stopped (n : Int) : Bool :=
        match s.namedGang n with
        | some (t, g) => g.halt.isSome || s.atBoundary t.key g (if mine t g then x.slices else [])
        | none => true
      match s.answers x.parker (s.gangReqs actKey .halt (x.names r)) with
      | .pending missing => .error (.stall .fenceWait (s.askFor x.parker x.ctx.agency x.ctx.num missing))
      | _ =>
        if (x.names r).any fun p => !stopped p.2 then .error (.stall .fenceWait s)
        else
          .ok ((x.names r).foldl (fun s p =>
            match s.namedGang p.2 with
            | some (t, g) => s.halt (s.teamAgency t) t.key g.idx .haltg
            | none => s) (x.advance s))) s

/-- Every halt of a gang ends (R361, R450): what has been written into its section through windows is put in place, what it fetches
next it sees as memory stands, its next instruction passes stopping watchpoints, a trap that found no handler ends, each slice going
on where its s19 says (R258), and its waits are tested (R143). -/
def State.releaseNow (s : State) (t : Team) (g : Gang) (h : Halt) : State :=
  let a := s.teamAgency t
  let plain := g.bank.isSome && !g.inHandler
  let moved := match g.bank with
    | some b => if plain then b.slices.filter fun k => !(g.slice k).ended && decide (getZ 19 (g.slice k).s ≠ (g.slice k).pc) else []
    | none => []
  let s1 := s.emitSched a t g (-3) (haltCode h)
  let s2 := moved.foldl (fun s k =>
    s.emit a t.core 0 (record 5 ((g.slot : Int) - 13) k (3 :: toTrytes 4 (wrap 36 (getZ 19 (g.slice k).s))))) s1
  let s3 := s2.modGang t.key g.idx fun y =>
    let y1 := if plain then y.returnFromTrap else y
    let y2 := (y1.modSlices (List.range y1.slices.length) fun _ z => { z with fenced := s.mem.wlog.length }).regroup (List.range y1.slices.length)
    { y2 with halt := none, engStop := false, exempt := true }
  s3.retest t.key g.idx

/-- A halted gang released, as it stands once what windows have written is in place. -/
def State.release (s : State) (t : Team) (g : Gang) : State :=
  match g.halt with
  | none => s
  | some h =>
    let s0 := s.modTeam t.key fun u => u.applyEdits (s.faultWords t g) g.idx
    match s0.team? t.key with
    | some u => (match u.gang? g.idx with | some y => s0.releaseNow u y h | none => s)
    | none => s

/-- The gang may be released: it is not halted, or what windows have written into its section keeps R270 (R361). -/
def State.mayRelease (s : State) (t : Team) (g : Gang) : Bool := g.halt.isNone || g.edits.isEmpty || t.editsOk (s.faultWords t g) g

/-- RESMG (R361). -/
def execResmg (r : SReg) (s : State) : Answer :=
  issueWith false true true (fun x =>
      { Uses.none with
        asks := fun s _ => s.gangReqs liveKey .check (x.names r),
        more := fun s _ => s.nameFaults (x.names r) ++ (x.names r).flatMap fun p =>
          match s.namedGang p.2 with
          | some (t, g) => if s.mayRelease t g then [] else sliceFault p.1 .valueRange 0
          | none => [] })
    (fun x _ s =>
      match s.answers x.parker (s.gangReqs actKey .release (x.names r)) with
      | .pending missing => .error (.stall .remote (s.askFor x.parker x.ctx.agency x.ctx.num missing))
      | _ =>
        .ok ((x.names r).foldl (fun s p => match s.namedGang p.2 with | some (t, g) => s.release t g | none => s) s)) s

/-- TIMERD (R362). -/
def execTimerd (d : SReg) (sel : TimeSel) (s : State) : Answer :=
  issue (fun x => { Uses.none with dests := x.sDests d })
    (fun x _ s =>
      let v : Int := match sel with
        | .fabric => s.clock.fabric
        | .skew => s.clock.bounds.getD (x.team.core / 64) (-1)
        | .cycles => s.clock.cycle
      .ok (x.setS d (x.slices.map fun k => (k, v)) s)) s

/-- The cycle at which fabric time reaches a later time, unless it is slewed. -/
def Clock.cycleAt (c : Clock) (t : Int) : Nat := c.cycle + Nat.max 1 ((19 * (t - c.fabric).toNat - c.part + 9) / 10)

/-- The gang slots that an agency occupies. -/
def State.slotsOf (s : State) (agency : Nat) : Nat :=
  ((s.teams.filter fun t => t.onCore && decide (s.teamAgency t = agency)).map fun t => (t.gangs.filter fun g => decide (g.idx < 27)).length).sum

/-- A snapshot of an agency's counters at the hub: all ten copies at one instant, later than the module's previous snapshot; where that
is a later nanosecond, the residency up to it is counted (R451, R465, R467). The step lasts until then. -/
def State.snapshot (s : State) (agency : Nat) : State :=
  let h := s.hub
  let at_ := Max.max s.clock.fabric (h.lastSnap + 1)
  let more := if s.clock.fabric < at_ then (s.clock.cycleAt at_ - s.clock.cycle) * s.slotsOf agency else 0
  let k := 10 * agency + 7
  { s with hub := { h with
      snaps := setRangeZ (10 * agency) (rangeZ (10 * agency) 10 (setZ k (wrap 54 (getZ k h.counters + (more : Int))) h.counters)) h.snaps,
      lastSnap := at_ } }

/-- Counter or snapshot copy c of an agency as the hub holds it (R363, R451). -/
def State.account (s : State) (agency c : Nat) : Int :=
  if c ≤ 9 then getZ (10 * agency + c) s.hub.counters else getZ (10 * agency + (c - 13)) s.hub.snaps

/-- ACCRD (R363, R451). -/
def execAccrd (d : SReg) (agency c : Nat) (s : State) : Answer :=
  issueWith false true true (fun x => { Uses.none with dests := x.sDests d })
    (fun x _ s => .ok (x.setS d (x.slices.map fun k => (k, s.account agency c)) s)) s

/-- ACCRD with c = 26 (R363, R451): one snapshot for each slice, in ascending order. -/
def execAccrdSnapshot (d : SReg) (agency : Nat) (s : State) : Answer :=
  perSlice true (fun x => { Uses.none with dests := x.sDests d })
    (fun x k s => let s1 := s.snapshot agency; x.setS d [(k, s1.hub.lastSnap)] s1) s

/-- A command of a gang that has met a stopping watchpoint runs on (R447). -/
def State.watchedRuns (s : State) (team gang : Nat) : Bool :=
  (s.eng.copies.any fun c => c.watched && decide (c.stage ≠ -1) && decide (c.team = team) && decide (c.gang = gang)) ||
  s.ctxs.any fun c => c.jobs.any fun j =>
    j.watched && decide (j.team = team) && decide (j.gang = gang) && j.busy && decide (j.state ≠ .faulted)

/-- ENGINE_WATCH_STOP (R447): the gang whose command met a stopping watchpoint halts at an instruction boundary, once the
command has ended. -/
def execEngineWatchStop (team gang : Nat) (s : State) : Answer :=
  match s.team? team with
  | none => .fault (.notEnabled "ENGINE_WATCH_STOP")
  | some t =>
    match t.gang? gang with
    | none => .fault (.notEnabled "ENGINE_WATCH_STOP")
    | some g =>
      if g.engStop && g.halt.isNone && s.atBoundary team g [] && !s.watchedRuns team gang then
        .next (s.halt (s.teamAgency t) team gang .engineWatch)
      else .fault (.notEnabled "ENGINE_WATCH_STOP")

/-- A source holds resident work of an agency (R434). -/
def State.worksFor (s : State) (agency src : Nat) : Bool :=
  let team (core : Nat) : Bool := s.teams.any fun t => decide (t.core = core) && t.onCore && decide (s.teamAgency t = agency)
  let job (p : Job → Bool) : Bool := s.ctxs.any fun c => decide (c.agency = agency) && c.jobs.any p
  if src < 1024 then team src
  else if src < 2048 then s.eng.copies.any fun c => decide (c.core = src - 1024) && decide (s.agencyOf c.ctx = agency)
  else if src < 3072 then team (src - 2048)
  else if src < 3216 then job fun j => !j.link && j.busy && decide (j.source = src)
  else if src < 3234 then job fun j => j.link && j.busy && decide (j.source = src)
  else if src < 3236 then s.reds.any fun r => decide (r.agency = agency) && r.closed.isNone
  else if src = 3236 then s.grids.any fun g => decide (s.agencyOf g.ctx = agency) && !g.complete
  else false

/-- SYNC_RECORD_PERIODIC (R434): a source writes a synchronisation record at a multiple of 3^k cycles, stamped there. -/
def execSyncRecordPeriodic (agency source cycle : Nat) (s : State) : Answer :=
  match s.cfg? agency with
  | none => .fault (.notEnabled "SYNC_RECORD_PERIODIC")
  | some c =>
    let at_ (l : List (Nat × Nat)) : Nat := ((l.find? fun p => decide (p.1 = source)).map Prod.snd).getD 0
    if cycle % 3 ^ (c.dbl 5).toNat = 0 ∧ cycle = s.clock.cycle ∧ at_ c.synced < cycle ∧ at_ c.streams < cycle ∧
        (s.worksFor agency source ∨ c.dirty.contains source) then
      let s1 := s.modCfg agency fun y => { y with synced := (source, cycle) :: y.synced.filter fun p => decide (p.1 ≠ source) }
      .next (s1.traceStream agency source cycle true [])
    else .fault (.notEnabled "SYNC_RECORD_PERIODIC")

/-- The reason that a sample gives for a wait (R444). -/
def waitCode (w : Wait) : Int :=
  match w with
  | .phaser _ _ => 6 | .bar _ => 7 | .boundary => 7 | .syncs _ => 8 | .regang _ => 8 | .batchRd _ => 9 | .batchVis _ => 9
  | .moves _ => 10 | .matrix _ => 10 | .racq _ => 11 | .yield _ _ _ => 12 | .rett => -10

/-- The reason that a sample gives for a sub-gang whose lowest slice is k (R444). -/
def State.sampleReason (s : State) (t : Team) (g : Gang) (k : Nat) : Int :=
  let x := g.slice k
  let first : Bool := match (s.candidates t.core (g.slot % 3)).head? with
    | some c => decide (c.team = t.key) && decide (c.gang = g.idx) && c.slices.contains k
    | none => false
  if g.halt.isSome then 13
  else
    match x.wait, x.stall with
    | some w, _ => waitCode w
    | none, some w => stallCode w
    | none, none =>
      match g.bank with
      | some b => if b.slices.contains k then cond first 0 (-2) else -10
      | none => cond first 0 (-2)

/-- A scheduler samples its next occupied slot, and whether it has issued from it in this cycle (R443). -/
def State.sample (s : State) (core sched cycle : Nat) : State :=
  let key := 3 * core + sched
  let last := (getZ key s.scope.lastSlot).toNat
  let gs := (s.teams.filter fun t => decide (t.core = core) && t.onCore).flatMap fun t =>
    (t.gangs.filter fun g => decide (g.slot % 3 = sched) && decide (g.idx < 27)).map fun g => (t, g)
  let s1 := { s with scope := { s.scope with sampled := setZ key cycle s.scope.sampled } }
  match minBy (fun p => (p.2.slot + 27 - last) % 27) gs with
  | none => s1
  | some (t, g) =>
    let s2 := { s1 with scope := { s1.scope with lastSlot := setZ key ((g.slot + 1 : Nat) : Int) s1.scope.lastSlot } }
    let a := s.teamAgency t
    if s.scope.sampling.any fun p => decide (p.1 = a) then
      let k := g.subPtr
      let issued := decide (cycle = s.clock.cycle) && s.issued.contains (key, g.slot)
      let w := if issued then 0 else s.sampleReason t g k
      s2.emitSample a core cycle (record 13 ((g.slot : Int) - 13) (if issued then 1 else 0) (w :: toTrytes 4 (wrap 36 (g.slice k).pc)))
    else s2

/-- SAMPLE_TICK (R443): a scheduler samples at a multiple of 3^k cycles of an agency whose sampling is on. -/
def execSampleTick (core sched cycle : Nat) (s : State) : Answer :=
  let on : Bool := s.scope.sampling.any fun p =>
    decide (cycle % 3 ^ p.2 = 0) && (match s.cfg? p.1 with | some c => c.on 8 | none => false)
  if core < 1024 ∧ sched < 3 ∧ cycle = s.clock.cycle ∧ getZ (3 * core + sched) s.scope.sampled < (cycle : Int) ∧ on = true ∧
      s.gated core = false then
    .next (s.sample core sched cycle)
  else .fault (.notEnabled "SAMPLE_TICK")

/-- The kind of a record. -/
def recordKind (r : List Int) : Int := sub 6 3 (r.headD 0)

/-- The records held without the deltas with which those of a source begin. -/
def dropDeltas (src : Nat) : List Held → List Held
  | [] => []
  | h :: r => if h.src ≠ src then h :: dropDeltas src r else if recordKind h.body = 2 then dropDeltas src r else h :: r

/-- The records held without the first of a source. -/
def dropHeld (src : Nat) : List Held → List Held
  | [] => []
  | h :: r => if h.src ≠ src then h :: dropHeld src r else r

/-- The held records of a source written as far as there is room, in stamp order; after a record of another source a
synchronisation record stands in place of the deltas that come first (R434, R440). -/
def State.drain (s : State) (agency src : Nat) : Nat → State
  | 0 => s
  | n + 1 =>
    match s.cfg? agency with
    | none => s
    | some c =>
      match c.holds.find? fun h => decide (h.src = src), s.traceRoom c 12 with
      | none, _ => s
      | _, .bad e => s.traceFail c e
      | _, .migr ps => s.park c.ctx (.trace agency) ps
      | some h, .ok room =>
        if c.last ≠ some src ∧ recordKind h.body ≠ 1 ∧ recordKind h.body ≠ -2 then
          let sy := record 1 0 h.bound
            (wrap 9 src :: (toTrytes 4 (wrap 36 h.cycle) ++ toTrytes 4 (wrap 36 h.fabric)))
          if sy.length < room then
            State.drain ((s.modCfg agency fun y => { y with holds := dropDeltas src y.holds }).traceWrite agency src sy) agency src n
          else s
        else if h.body.length < room then
          State.drain ((s.modCfg agency fun y => { y with holds := dropHeld src y.holds }).traceWrite agency src h.body) agency src n
        else s

/-- TRACE_HOLD_DRAIN (R440): records that a source holds are written, once there is room for the first. -/
def execTraceHoldDrain (agency source : Nat) (s : State) : Answer :=
  match s.cfg? agency with
  | none => .fault (.notEnabled "TRACE_HOLD_DRAIN")
  | some c =>
    let s1 := s.drain agency source (2 * c.holds.length)
    if s1 = s then .fault (.notEnabled "TRACE_HOLD_DRAIN") else .next s1

/-- The trace sources of a cluster: of its cores' schedulers, copy engines and join units (R431). -/
def clusterSource (cluster src : Nat) : Bool := decide (src < 3072) && decide (src % 1024 / 8 = cluster)

/-- The cycle of the first record that a source holds (R442). -/
def TraceCfg.firstHeld (c : TraceCfg) (src : Nat) : Nat :=
  ((c.holds.find? fun h => decide (h.src = src)).map Held.cycle).getD 0

/-- The holds of a cluster's sources discarded at a forced gate, with the loss that each is to mark (R442). -/
def TraceCfg.discard (c : TraceCfg) (cluster now : Nat) : TraceCfg :=
  let srcs := sortNats ((c.holds.map Held.src).filter (clusterSource cluster))
  let c1 := srcs.foldl (fun (d : TraceCfg) src =>
    d.owe src (c.holds.filter fun h => decide (h.src = src)).length (c.firstHeld src) now) c
  { c1 with holds := c1.holds.filter fun h => !clusterSource cluster h.src }

/-- A cluster gated (R442); one that a gate forces discards the holds of its sources. -/
def State.gate (s : State) (cluster : Nat) (forced : Bool) : State :=
  let cs := if forced then s.scope.cfgs.map fun c => c.discard cluster s.clock.cycle else s.scope.cfgs
  { s with scope := { s.scope with cfgs := cs, gated := sortNats (cluster :: s.scope.gated) } }

/-- CLUSTER_POWER_GATE (R442): not forced, it waits until the holds of the cluster's sources have drained. -/
def execClusterPowerGate (cluster : Nat) (forced : Bool) (s : State) : Answer :=
  if cluster < 128 ∧ !s.scope.gated.contains cluster ∧
      (forced || s.scope.cfgs.all fun c => c.holds.all fun h => !clusterSource cluster h.src) then
    .next (s.gate cluster forced)
  else .fault (.notEnabled "CLUSTER_POWER_GATE")

/-- GATED_CLUSTER_RESTART (R442): the cluster returns to service, every stream of its sources begins afresh; not while a die is too hot (R469). -/
def execGatedClusterRestart (cluster : Nat) (s : State) : Answer :=
  if s.scope.gated.contains cluster && !s.overheated then
    let cs := s.scope.cfgs.map fun c => { c with streams := c.streams.filter fun p => !clusterSource cluster p.1 }
    .next { s with scope := { s.scope with cfgs := cs, gated := s.scope.gated.filter fun n => decide (n ≠ cluster) } }
  else .fault (.notEnabled "GATED_CLUSTER_RESTART")

end Sys2Proof.Machine
end

