-- ==== Sys2Proof/Machine/Fabric.lean ====
section
/-!
DEFINITION. The fabric: receiving flits (R396, R398), discovery (R397 to R400), links down (R403), serving the requests of peers
(R184, R190, R214, R334, R343, R360, R402), freezing a peer (R460).
-/
namespace Sys2Proof.Machine

/-- A refused landing or a protocol error of a peer counted (R460). -/
def State.refusal (s : State) (m : Nat) : State :=
  { s with fab := { s.fab with refusals := (m, s.clock.fabric) :: s.fab.refusals } }

/-- What became of a contribution reaches its context (R354, R414). -/
def State.verdict (s : State) (key : Int) (ctx num : Nat) (st : Int) : State :=
  s.modCtx ctx fun c =>
    { c with reds := mapIf (fun r => decide (r.num = num) && decide (r.card.getD 1 0 = key) && decide (r.state = 1)) (fun r => { r with state := st }) c.reds }

/-- What is asked of peers but the device's requests that have been answered (log 55). -/
def openWaits (ws : List RemoteWait) : List RemoteWait :=
  ws.filter fun w => w.reply.isNone || match w.who with | .device _ => false | _ => true

/-- Modules that p names have joined the domain again (R399, R403): what they were asked before and have not answered fails, as it does
while they are fenced (R404). -/
def State.rejoined (s : State) (p : Nat → Bool) : State :=
  let fail (w : RemoteWait) : RemoteWait :=
    { w with reply := some (.refused (causeCode (if w.len = 0 then .teamAbsent else .ownerFenced))) }
  { s with fab := { s.fab with
      fenced := s.fab.fenced.filter fun k => !p k, accepted := s.fab.accepted.filter fun j => !p j.src, lost := s.fab.lost.filter fun l => !p l.1,
      waits := openWaits (mapIf (fun w => s.isFenced w.modul && (p w.modul || p s.modul) && w.reply.isNone) fail s.fab.waits) } }

/-- A message from a module delivered (R396, R402): an answer to whoever waits for it, unless the module has been fenced meanwhile (R404),
the rest to be served in order; a module that tells of itself has joined the domain again (R399, R403). -/
def State.deliver (s : State) (src : Nat) (m : FlitMsg) : State :=
  match m with
  | .nothing => s
  | .hello _ => s.rejoined fun k => decide (k = src)
  | .response tag r =>
    if s.isFenced src then s else
    { s with fab := { s.fab with
        waits := openWaits (mapIf (fun w => decide (w.tag = tag) && decide (w.modul = src) && w.reply.isNone)
          (fun w => { w with reply := some r }) s.fab.waits) } }
  | .verdict key ctx num st => s.verdict key ctx num st
  | .request _ _ _ _ | .contribution _ | .fence _ => { s with fab := { s.fab with inbox := s.fab.inbox ++ [⟨src, m⟩] } }

/-- A message may cross between domains (R398): job data of module-to-module jobs, with what answers them, and control flits, which tell
every module of the system of a fence (R464). -/
def crosses (m : FlitMsg) : Bool :=
  match m with
  | .request _ _ _ (.jobWrite _ _ _ _) | .request _ _ _ (.jobSignal _) | .response _ _ | .nothing | .hello _ | .fence _ => true
  | _ => false

/-- What a port takes note of in a good flit: its acknowledgement, the credits that it returns to its class, its number, and the credit
that it is owed (R396). -/
def State.takeFlit (s : State) (port : Nat) (f : Flit) : State :=
  let k := 8 * port + flitByte f 4
  let s1 := s.acknowledge port (flitAck f)
  { s1 with fab := { s1.fab with
      seqIn := setZ port (((flitSeq f + 1) % 65536 : Nat) : Int) s1.fab.seqIn,
      credits := setZ k (getZ k s1.fab.credits + (flitCredits f : Int)) s1.fab.credits
      owed := setZ k (getZ k s1.fab.owed + 1) s1.fab.owed } }

/-- A request answered, when an answer is wanted. -/
def State.answer (s : State) (dst tag : Nat) (r : RemoteReply) : State := if tag = 0 then s else s.transmit dst (.response tag r)

/-- A refusal as it travels. -/
def refuse (c : Cause) : RemoteReply := .refused (causeCode c)

/-- What a frozen peer asks fails as against a fenced owner (R404, R460). -/
def State.turnAway (s : State) (src : Nat) (m : FlitMsg) : State :=
  match m with
  | .request tag _ _ _ => s.answer src tag (refuse .ownerFenced)
  | _ => s

/-- FLIT_RECEIVE (R396, R398, R459, R460): a corrupt flit is retried by its sender, one out of sequence is not delivered; one for
another module goes on towards it. What may not cross between domains is a protocol error of its source. -/
def execFlitReceive (port : Fin 27) (f : Flit) (s : State) : Answer :=
  if !s.portLive port.val || (!flitCorrupt f && !flitCarries f) then .fault (.notEnabled "FLIT_RECEIVE")
  else
    let s1 := { s with fab := { s.fab with lastRx := setZ port.val s.clock.fabric s.fab.lastRx } }
    if flitCorrupt f then .next (s1.health 9 6 port.val noSpare 0)
    else if (flitSeq f : Int) ≠ getZ port.val s.fab.seqIn then .next s1
    else
      let s2 := s1.takeFlit port.val f
      let src := flitSrc f
      let here := s.fab.place.domain
      if s.fab.frozen.contains src then .next (if flitDst f = s.modul then s2.turnAway src f.msg else s2)
      else if (decide (24 ≤ port.val) || decide (src / 729 ≠ here) || decide (flitDst f / 729 ≠ here)) && !crosses f.msg then .next (s2.refusal src)
      else if flitDst f ≠ s.modul then .next (s2.transmitFrom src (flitDst f) f.msg)
      else .next (s2.deliver src f.msg)

/-- The module that a port of the domain leads to, by R398; none for an unused port. -/
def portNeighbour (p : Placement) (port : Nat) : Option Placement :=
  let j := port % 8
  let far (c n : Nat) : Option Nat := if (c + j + 1) % 9 < n then some ((c + j + 1) % 9) else none
  if port < 8 then (far p.x p.xs).map fun v => { p with x := v }
  else if port < 16 then (far p.y p.ys).map fun v => { p with y := v }
  else if port < 24 then (far p.z p.zs).map fun v => { p with z := v }
  else none

/-- The number of a module (R397). -/
def moduleNumber (p : Placement) : Nat := 729 * p.domain + 81 * p.x + 9 * p.y + p.z

/-- A placement record keeps the bounds of R397. -/
def placementOk (p : Placement) : Bool :=
  decide (p.domain ≤ 8) && [(p.x, p.xs), (p.y, p.ys), (p.z, p.zs)].all fun c => decide (1 ≤ c.2) && decide (c.2 ≤ 9) && decide (c.1 < c.2)

/-- The claim of a neighbour is what the port expects (R398, R399): a system port joins the domain that the record states. -/
def State.expects (s : State) (port : Nat) (n : Placement) : Bool :=
  let p := s.fab.place
  if port < 24 then decide (portNeighbour p port = some { n with sys := p.sys })
  else placementOk n && decide (n.domain ≠ p.domain) && p.sys.contains (port, moduleNumber n)

/-- The modules that discovery finds, given the neighbours (R399, R400): a module of the domain is found when the neighbours
that stand on its side in each coordinate in which it differs are found. -/
def foundFrom (p : Placement) (near : List Nat) : List Nat :=
  let all := (List.range p.xs).flatMap fun x => (List.range p.ys).flatMap fun y => (List.range p.zs).map fun z => (x, y, z)
  let has (q : Placement) : Bool := near.contains (moduleNumber q)
  let ok (c : Nat × Nat × Nat) : Bool :=
    (decide (c.1 = p.x) || has { p with x := c.1 }) && (decide (c.2.1 = p.y) || has { p with y := c.2.1 }) &&
      (decide (c.2.2 = p.z) || has { p with z := c.2.2 })
  let mine := (all.filter ok).map fun c => moduleNumber { p with x := c.1, y := c.2.1, z := c.2.2 }
  mine.filter (fun m => decide (m ≠ moduleNumber p)) ++ near.filter fun m => decide (m / 729 ≠ p.domain)

/-- Rows 4 to 6 of the scope table (R400): the modules found in the domain that differ in at most one, two and three coordinates. -/
def scopeRows (own : Nat) (found : List Nat) : List (List Nat) :=
  let apart (m : Nat) : Nat := ((List.zip (coordsOf own) (coordsOf m)).filter fun c => decide (c.1 ≠ c.2)).length
  [1, 2, 3].map fun k => found.filter fun m => decide (m / 729 = own / 729) && decide (apart m ≤ k)

/-- A port's link begins afresh: sequence numbers, credits and retry buffer (R396, log 53). -/
def State.freshLink (s : State) (p : Nat) : State :=
  { s with fab := { s.fab with
      seqIn := setZ p 0 s.fab.seqIn, seqOut := setZ p 0 s.fab.seqOut, credits := clearZ (8 * p) 8 s.fab.credits,
      owed := clearZ (8 * p) 8 s.fab.owed, retry := s.fab.retry.filter fun r => decide (r.port ≠ p),
      lastRx := setZ p s.clock.fabric s.fab.lastRx } }

/-- A port tells its neighbour of this module: the control flit of the exchange (R399). -/
def State.sendHello (s : State) (p m : Nat) : State :=
  let h : FlitMsg := .hello s.fab.place
  { s with fab := { s.fab with out := s.fab.out ++ [(m, h)] } }.transmitOn p s.modul m h

/-- A port whose neighbour is what it expects joins (R399, R403): routes and scope table follow the modules found; the neighbour, and
this module, are fenced no longer, and every module may have a live route again; the neighbour's flit of the exchange has been
received. -/
def State.joinPort (s : State) (p m : Nat) : State :=
  let near := (p, m) :: s.fab.near.filter fun q => decide (q.1 ≠ p)
  let found := foundFrom s.fab.place (near.map Prod.snd)
  (({ s with fab := { s.fab with
      near := near, found := found, scopes := scopeRows s.modul found, lost := [], seqIn := setZ p 1 s.fab.seqIn } }).rejoined fun k =>
        decide (k = m) || decide (k = s.modul)).setReady (0xA0 + p) 1

/-- PORT_DISCOVERY (R399, R403): a trained port tells its neighbour of this module, and joins where the neighbour claims what R398
predicts; else it stays down, and the mismatch is entered in the health log. -/
def execPortDiscovery (port : Fin 27) (n : Placement) (s : State) : Answer :=
  let p := port.val
  if s.readyByte 0xC1 ≠ 1 ∨ s.readyByte (0xA0 + p) ≠ 0 then .fault (.notEnabled "PORT_DISCOVERY")
  else
    let s1 := (s.freshLink p).sendHello p (moduleNumber n)
    if s.expects p n then .next (s1.joinPort p (moduleNumber n)) else .next (s1.health 8 6 p noSpare 0)

/-- Nanoseconds of fabric time after which a link that receives no flit is down (R403, R464). -/
def linkTimeout : Int := 2000
/-- Nanoseconds of fabric time after which a module without a live route is fenced (R403, R464). -/
def routeTimeout : Int := 100000

/-- No port of the domain carries flits. -/
def State.isolated (s : State) : Bool := (List.range 24).all fun p => !s.portLive p

/-- Modules that have no live route from now on (R403). -/
def State.loseRoutes (s : State) (ms : List Nat) : State :=
  let new := ms.filter fun m => !s.fab.lost.any fun l => decide (l.1 = m)
  { s with fab := { s.fab with lost := s.fab.lost ++ new.map fun m => (m, s.clock.fabric) } }

/-- What the other modules tell of the routes to a module: that none is live, or that one is (R403). A module whose link to here is live
has a route. -/
def State.routesTold (s : State) (m : Nat) (live : Bool) : State :=
  if live then { s with fab := { s.fab with lost := s.fab.lost.filter fun l => decide (l.1 ≠ m) } }
  else if m = s.modul || s.fab.near.any fun q => decide (q.2 = m) && s.portLive q.1 then s
  else s.loseRoutes [m]

/-- What a port has sent and its neighbour has not acknowledged waits for another route, before all else (R396, R401). -/
def State.unsend (s : State) (p : Nat) : State :=
  let mine := (s.fab.retry.filter fun r => decide (r.port = p)).map fun r => (⟨flitSrc r.flit, flitDst r.flit, r.flit.msg⟩ : Outgoing)
  { s with fab := { s.fab with retry := s.fab.retry.filter fun r => decide (r.port ≠ p), queue := mine ++ s.fab.queue } }

/-- LINK_DOWN_TIMEOUT (R403): the link carries no flit any more; with the last of them, no module of the domain has a route to this one,
nor this one to any. -/
def execLinkDownTimeout (port : Fin 27) (s : State) : Answer :=
  let p := port.val
  if !s.portLive p ∨ s.clock.fabric < getZ p s.fab.lastRx + linkTimeout then .fault (.notEnabled "LINK_DOWN_TIMEOUT")
  else
    let s1 := (s.unsend p).setReady (0xA0 + p) 0
    .next (if s1.isolated then s1.loseRoutes (s.modul :: s.fab.found.filter fun m => decide (m / 729 = s.fab.place.domain)) else s1)

/-- The owner holds the n trytes from a physical address on (R168, R402, R459). -/
def State.holdsFrames (s : State) (p n : Nat) : Bool :=
  (List.range n).all fun i => let f := (p + i) / 19683; decide (f < frameCount) && s.stackReady (f / stackFrames)

/-- What serving a request comes to: an answer with the state, a wait with what has been set going, or nothing yet. -/
inductive Served where
  | reply (r : RemoteReply) (s : State)
  | waits (s : State)
  | held
  deriving DecidableEq, Repr

/-- The job of a module's request that has been accepted here. -/
def State.acceptedJob (s : State) (src tag : Nat) : Option AcceptedJob := s.fab.accepted.find? fun j => decide (j.src = src) && decide (j.tag = tag)

/-- That job done with. -/
def State.endAccepted (s : State) (src tag : Nat) : State :=
  { s with fab := { s.fab with accepted := s.fab.accepted.filter fun j => !(decide (j.src = src) && decide (j.tag = tag)) } }

/-- The writes of an accepted module-to-module job enter under its landing context (R198, R214), and are acknowledged; its signal waits until
its submitter asks for it, the trytes having landed there (R218). -/
def State.serveWrites (s : State) (src tag : Nat) (c : Context) (sig : Int) (ws : List (Addr × Tryte)) : Served :=
  let done (s : State) : Served := .reply .done (if sig = 0 then s.endAccepted src tag else s)
  if ws = [] then done s
  else
    match s.enterStaged (.inbound src tag) { ctx := c, team := none, gang := 0, lane := none, core := none } false ws with
    | .bad e _ s1 => .reply (refuse e) ((s1.dropWaits (.inbound src tag)).endAccepted src tag)
    | .migr ps => .waits (s.park c.num (.inbound src tag) ps)
    | .waits s1 => .waits s1
    | .done s1 lines => done { s1 with mem := { s1.mem with leases := s1.mem.leases.filter fun l => !lines.contains l.line } }

/-- A module-to-module job (R214, R393): one that the landing context does not accept, or whose context is none, is refused; one that it has
accepted goes on, though its landing be closed meanwhile. -/
def State.serveJob (s : State) (src srcCtx tag landing : Nat) (ws : List (Addr × Tryte)) (sig word : Int) : Served :=
  match s.ctx? landing with
  | none => .reply (refuse .landingRefused) ((s.refusal src).endAccepted src tag)
  | some c =>
    if (s.acceptedJob src tag).isSome then s.serveWrites src tag c sig ws
    else if !c.landing.contains (src, srcCtx) then .reply (refuse .landingRefused) (s.refusal src)
    else
      ({ s with fab := { s.fab with accepted := s.fab.accepted ++ [(⟨src, tag, landing, sig, word⟩ : AcceptedJob)] } } : State).serveWrites src tag c sig ws

/-- The signal of an accepted job whose writes have entered (R150, R218). -/
def State.serveSignal (s : State) (src tag job : Nat) : Served :=
  match s.acceptedJob src job with
  | none => .reply .done s
  | some j =>
    match s.ctx? j.landing with
    | none => .reply .done (s.endAccepted src job)
    | some c =>
      match s.decrementSignal (.inbound src tag) c j.signal j.word with
      | .done s1 => .reply .done (s1.endAccepted src job)
      | .waits s1 => .waits s1
      | .migr ps => .waits (s.park j.landing (.inbound src tag) ps)

/-- What a peer's debugger asks about a gang of this module (R332, R360, R361, R448). -/
def State.serveDebug (s : State) (name : Int) (op : DebugOp) : Served :=
  match s.namedGang name with
  | none =>
    match op with
    | .read _ _ | .write _ _ => .reply (refuse .gangNotHalted) s
    | .detach n me => .reply .done (s.setWindow n 0 me)
    | _ => .reply (refuse .gangName) s
  | some (t, g) =>
    let window (off n : Nat) : List Loc := (List.range n).map fun i => .window name (off + i)
    match op with
    | .live => .reply .done s
    | .attach n me => .reply .done (s.setWindow n name me)
    | .detach n me => .reply .done (s.setWindow n 0 me)
    | .check => .reply (if s.mayRelease t g then .done else refuse .valueRange) s
    | .halt => if g.halt.isSome || s.atBoundary t.key g [] then .reply .done (s.halt (s.teamAgency t) t.key g.idx .haltg) else .held
    | .release => if s.mayRelease t g then .reply .done (s.release t g) else .reply (refuse .valueRange) s
    | .read off n =>
      if g.halt.isNone then .reply (refuse .gangNotHalted) s else .reply (.vals ((window off n).map fun l => s.readLoc false l)) s
    | .write off vs =>
      if g.halt.isNone then .reply (refuse .gangNotHalted) s else .reply .done (s.writeLocs false (window off vs.length) vs)

/-- A request of a peer served (R184, R190, R214, R334, R343, R360, R402). -/
def State.serve (s : State) (src srcCtx tag : Nat) (r : RemoteReq) : Served :=
  let row (p n : Nat) : List Nat := (List.range n).map fun i => p + i
  let absent : Served := .reply (refuse .entryMalformed) (s.refusal src)
  let who := s.ctxNumber src srcCtx
  let at_ (ps : List Nat) (needs locks : Bool) (go : List Loc → Served) : Served :=
    let ls : List Loc := ps.map fun q => .hbm q
    if !ps.all fun q => s.holdsFrames q 1 then absent
    else if locks && s.locked (.inbound src tag) ls then .held
    else if needs && ls.any fun l => s.badLoc l then .reply (refuse .uncorrectable) (s.noteBad ls)
    else go ls
  let load (bin : Bool) (ls : List Loc) : Served :=
    .reply (.vals (ls.map fun l => s.readLoc bin l)) (s.touchServed (if bin then .binLoad else .load) (hbmOf ls))
  let store (bin : Bool) (vs : List Int) (ls : List Loc) : Served :=
    .reply .done ((s.touchServed (if bin then .binStore else .store) (hbmOf ls)).writeLocs bin ls vs)
  let update (u : Update) (ls : List Loc) : Served :=
    let full : Bool := match u.op with | .bind port _ => decide (port ≠ 0) && s.bindFull (ls.headD (.hbm 0)) | _ => false
    if full then .reply (refuse .bindingTableFull) s
    else let q := (s.touchServed .rmw (hbmOf ls)).update who ls u; .reply (updateReply q.2.ret q.2.flags) q.1
  if s.heldFrom src then .held else
  match r with
  | .load p n bin => at_ (row p n) true true (load bin)
  | .loads ps bin => at_ ps true true (load bin)
  | .accept p n needs => at_ (row p n) needs false fun _ => .reply .done s
  | .accepts ps needs => at_ ps needs false fun _ => .reply .done s
  | .store p vs bin => at_ (row p vs.length) false true (store bin vs)
  | .stores ws bin => at_ (ws.map Prod.fst) false true (store bin (ws.map Prod.snd))
  | .patch ws =>
    at_ (ws.map Prod.fst) false true fun ls => store false (ws.map fun w => patchTrits (s.readLoc false (.hbm w.1)) w.2.1 w.2.2) ls
  | .update p u => at_ (row p (updateLen u)) true true (update u)
  | .updates ps u => at_ ps true true (update u)
  | .reserve n =>
    match s.reserve n with
    | .taken s1 => .reply .done s1
    | .full => .reply (refuse .portFull) s
    | .bad c => .reply (refuse c) s
    | .wait ctx ps => .waits (s.park ctx (.inbound src tag) ps)
  | .land n m =>
    match s.portAt n with | .wait ctx ps => .waits (s.park ctx (.inbound src tag) ps) | _ => .reply .done (s.landPost n m)
  | .release n => .reply .done (s.unreserve n)
  | .jobWrite landing ws sig word => s.serveJob src srcCtx tag landing ws sig word
  | .jobSignal job => s.serveSignal src tag job
  | .fired n m => .reply .done (s.firePost who n m)
  | .fault ctx e =>
    match s.ctx? ctx with
    | some c => .reply .done ((s.logDoubles ctx e).emitFault c.agency 0 0 2 (sub 21 6 (e.getD 1 0)))
    | none => .reply .done s
  | .debug n op => s.serveDebug n op
  | .acceptBind p =>
    if !s.holdsFrames p 6 then absent
    else if s.bindFull (.hbm p) then .reply (refuse .bindingTableFull) s
    else .reply .done (s.keepBinding who (.hbm p))
  | .unbind p =>
    .reply .done { s with eng := { s.eng with bindings := s.eng.bindings.filter fun b => !(decide (b.loc = .hbm p) && decide (b.port = 0)) } }
  | .zeroed p => .reply .done (s.fireBinding (.hbm p))

/-- The request is an update, which executes at its serialisation point (R190). -/
def isUpdate (r : RemoteReq) : Bool := match r with | .update _ _ | .updates _ _ => true | _ => false

/-- The first request received that satisfies p and can go on is served. -/
def State.serveFirst (s : State) (p : RemoteReq → Bool) : Option State :=
  s.fab.inbox.zipIdx.findSome? fun q =>
    match q.1.msg with
    | .request tag org ctx r =>
      if !p r || s.xlate.parked.any (fun w => decide (w.who = .inbound q.1.src tag)) then none
      else
        match s.serve (match r with | .fired _ _ => org | _ => q.1.src) ctx tag r with
        | .held => none
        | .waits s1 => if s1 = s then none else some s1
        | .reply a s1 => some ({ s1 with fab := { s1.fab with inbox := s1.fab.inbox.eraseIdx q.2 } }.answer q.1.src tag a)
    | _ => none

/-- REMOTE_REQUEST_SERVE (R402): the oldest request that is no atomic update. -/
def execRemoteRequestServe (s : State) : Answer :=
  match s.serveFirst fun r => !isUpdate r with
  | some s1 => .next s1
  | none => .fault (.notEnabled "REMOTE_REQUEST_SERVE")

/-- ATOMIC_SERVE (R190): the oldest update that a peer has sent executes at its serialisation point. -/
def execAtomicServe (s : State) : Answer :=
  match s.serveFirst isUpdate with
  | some s1 => .next s1
  | none => .fault (.notEnabled "ATOMIC_SERVE")

/-- Refusals of a module within the last second of fabric time (R460). -/
def State.recentRefusals (s : State) (m : Nat) : Nat :=
  (s.fab.refusals.filter fun r => decide (r.1 = m) && decide (s.clock.fabric - r.2 < 1000000000)).length

/-- PEER_FREEZE (R460): what the peer has asked here fails as against a fenced owner. -/
def execPeerFreeze (m : Nat) (s : State) : Answer :=
  if s.fab.frozen.contains m ∨ s.recentRefusals m < 27 then .fault (.notEnabled "PEER_FREEZE")
  else
    let mine := s.fab.inbox.filter fun q => decide (q.src = m)
    let s1 := ({ s with fab := { s.fab with frozen := m :: s.fab.frozen, accepted := s.fab.accepted.filter fun j => decide (j.src ≠ m), inbox := s.fab.inbox.filter fun q => decide (q.src ≠ m) } }).health
      7 7 m noSpare (s.recentRefusals m)
    .next (mine.foldl (fun s q => s.turnAway m q.msg) s1)

end Sys2Proof.Machine
end

