-- ==== Sys2Proof/Machine/Reduce.lean ====
section
/-!
DEFINITION. Deadline reductions (R350 to R354, R408 to R418): submitting a contribution, the stages of the switch tree, the root's
write, corrections, and what fencing a module does to them (R403, R404).
-/
namespace Sys2Proof.Machine

/-- The element type of a reduction card (R351): 0 i27, +1 f27, -1 i54. -/
def redTy (c : List Int) : Int := sub 51 3 (cardDbl c 0)
/-- The correction mode of a card: +1 add, -1 port, 0 discard. -/
def redMode (c : List Int) : Int := tritAt 50 (cardDbl c 0)
/-- The trytes of an element (R352). -/
def redLen (c : List Int) : Nat := if redTy c = -1 then 6 else 3
/-- The count of elements. -/
def redCount (c : List Int) : Nat := (cardDbl c 2).toNat
/-- The trytes from the destination to the status line (R352). -/
def redZ (c : List Int) : Nat := 81 * ((redLen c * redCount c + 80) / 81)
/-- The destination module of a card. -/
def redDest (c : List Int) : Nat := (cardDbl c 5).toNat
/-- The deadline of a card in fabric time. -/
def redDeadline (c : List Int) : Int := cardDbl c 8

/-- A header is well-formed (R351). -/
def redHeaderOk (h : Int) : Bool :=
  let ty := sub 51 3 h
  let r := sub 48 2 h
  let sat := tritAt 47 h
  (decide (ty = 0) || decide (ty = 1) || decide (ty = -1)) && decide (sub 0 47 h = 0) && decide (sat ≠ -1) &&
    (decide (ty = 0) || decide (sat = 0)) &&
    if ty = 1 then decide (r = 1) || decide (r = -1) || decide (r = 2) || decide (r = -2) else decide (r = 0)

/-- A list of module numbers rises strictly. -/
def rising : List Int → Bool
  | a :: b :: r => decide (a < b) && rising (b :: r)
  | _ => true

/-- A module of the domain that discovery has found, or this one (R350). -/
def State.knows (s : State) (m : Int) : Bool := decide (0 ≤ m) && s.inDomain m.toNat

/-- A card with its contributor list is well-formed (R350, R351). -/
def State.redCardOk (s : State) (c ms : List Int) : Bool :=
  let d (i : Nat) : Int := cardDbl c i
  let portMode := decide (redMode c = -1)
  redHeaderOk (d 0) && decide (1 ≤ d 2) && decide (d 2 ≤ 1594323) && decide (d 3 % 3 = 0) && decide (d 4 % 81 = 0) &&
    s.knows (d 5) && decide (1 ≤ d 7) && decide (d 7 ≤ 6561) && decide (d 10 % 81 = 0) &&
    (decide (d 10 ≠ 0) == portMode) && (decide (d 11 ≠ 0) == portMode) && decide (0 ≤ d 12) && decide (d 12 ≤ 728) && ((c.drop 13).all fun v => decide (v = 0)) &&
    rising ms && ms.contains (s.modul : Int) && ms.all s.knows

/-- The first key of the requests for the contributor list of slice k's card. -/
def listKey (k : Nat) : Nat := 65536 * (k + 2)

/-- The contributor list that a card names, where its length may be read. -/
def cardList (c : List Int) : Option (Int × Nat) :=
  let n := cardDbl c 7
  if n < 1 ∨ n > 6561 then none else some (cardDbl c 6, 3 * n.toNat)

/-- The card and list that a slice of REDSUB read: the contributors, or what stops the slice (R353). -/
def State.redsubSlice (s : State) (x : Iss) (k : Nat) (c : List Int) : Except Stop (List Int) :=
  match cardList c with
  | none => .error (sliceTrap k .reductionMalformed)
  | some l =>
    match s.bodyLoad x k (listKey k) l.1 l.2 3 with
    | .error e => .error e
    | .ok v =>
      let ms := digits 27 (l.2 / 3) v
      if s.redCardOk c ms then .ok ms else .error (sliceTrap k .reductionMalformed)

/-- A reduction submitted by a slice: the next number of its context (R353). The 243 most recent ones are kept, and those
whose end is open (R354). -/
def State.submitRed (s : State) (x : Iss) (k : Nat) (a : Int) (c ms : List Int) : State × Nat :=
  match s.ctx? x.ctx.num with
  | none => (s, 0)
  | some cx =>
    let n := cx.redSeq + 1
    let r : RedSub :=
      { num := n, team := x.issue.team, card := c, members := ms.map Int.toNat, vals := [], word := x.word, core := x.team.core,
        gang := x.issue.gang, slice := k, at_ := a, state := 0 }
    let keep (q : RedSub) : Bool := decide (q.num + 243 > n) || decide (q.state = 0) || decide (q.state = 1)
    (s.modCtx cx.num fun y => { y with redSeq := n, reds := y.reds.filter keep ++ [r] }, n)

/-- Reductions of a context that have not reached read-done (R354). -/
def Context.unread (c : Context) : Nat := (c.reds.filter fun r => decide (r.state = 0)).length

/-- The contributor lists that cards name, with their slices. -/
def listsOf (cs : List (Nat × List Int)) : List (Nat × Int × Nat) := cs.filterMap fun p => (cardList p.2).map fun l => (p.1, l)

/-- What becomes of the slices of a REDSUB: slice, card, contributors or what stops the slice. -/
def State.redsubPlan (s : State) (x : Iss) (cs : List (Nat × List Int)) : List (Nat × List Int × Except Stop (List Int)) :=
  cs.map fun p => (p.1, p.2, s.redsubSlice x p.1 p.2)

/-- What stops slices of a REDSUB. -/
def redsubStops (plan : List (Nat × List Int × Except Stop (List Int))) : List Stop :=
  plan.filterMap fun p => match p.2.2 with | .error e => some e | .ok _ => none

/-- REDSUB (R353). -/
def execRedsub (rx ry : SReg) (s : State) : Answer :=
  issue (fun x =>
      { Uses.none with
        dests := x.sDests ry, accs := x.cardAccs rx 27 81,
        asks := fun s seen => (listsOf (x.cardsRead seen)).flatMap fun p => s.bodyReqs x p.1 (listKey p.1) p.2.1 p.2.2 3,
        more := fun s seen => stopLanes (redsubStops (s.redsubPlan x (x.cardsRead seen))) })
    (fun x got s =>
      let cs := x.cardsRead (got.seen s)
      let plan := s.redsubPlan x cs
      match joinStops (redsubStops plan) with
      | some e => .error e
      | none =>
        if x.ctx.unread + plan.length > 243 then .error (.stall .copyLimit s)
        else
          match s.bodyDone x ((listsOf cs).map fun p => bodyAcc p.1 p.2.1 p.2.2 3) with
          | .error e => .error e
          | .ok s1 =>
            .ok (plan.foldl (fun s p =>
              let r := s.submitRed x p.1 (x.s p.1 rx) p.2.1 (match p.2.2 with | .ok ms => ms | .error _ => [])
              x.setS ry [(p.1, (r.2 : Int))] r.1) s1)) s

/-- REDQRY (R354). -/
def execRedqry (rx ry : SReg) (s : State) : Answer :=
  issue (fun x => { Uses.none with dests := x.sDests ry })
    (fun x _ s =>
      let v (n : Int) : Int :=
        if 1 ≤ n ∧ n ≤ (x.ctx.redSeq : Int) ∧ n > (x.ctx.redSeq : Int) - 243 then
          match x.ctx.reds.find? fun r => decide ((r.num : Int) = n) with | some r => r.state | none => -2
        else -2
      .ok (x.setS ry (x.slices.map fun k => (k, v (x.s k rx))) s)) s

/-- A reduction of a context changed. -/
def State.modRed (s : State) (ctx n : Nat) (f : RedSub → RedSub) : State :=
  s.modCtx ctx fun c => { c with reds := mapIf (fun r => decide (r.num = n)) f c.reds }

/-- The trace source of the link engine that takes a reduction: which one no rule says (log 26). -/
def linkSource (n : Nat) : Nat := 3216 + n % 18

/-- CONTRIBUTION_SOURCE_READ (R353): the source is read and the contribution enters the tree at this module's own stage, or a
fault refuses it. -/
def execContributionSourceRead (ctx n : Nat) (s : State) : Answer :=
  match s.ctx? ctx with
  | none => .fault (.notEnabled "CONTRIBUTION_SOURCE_READ")
  | some c =>
    match c.reds.find? fun r => decide (r.num = n) with
    | none => .fault (.notEnabled "CONTRIBUTION_SOURCE_READ")
    | some r =>
      let p : Parker := .source ctx n
      if r.state ≠ 0 ∨ !s.mayStart ctx r.team r.gang ∨ (s.xlate.parked.any fun q => decide (q.who = p)) then
        .fault (.notEnabled "CONTRIBUTION_SOURCE_READ")
      else
        let w : Who := { ctx := c, team := s.team? r.team, gang := r.gang, lane := none, core := some r.core }
        let len := redLen r.card * redCount r.card
        let a := cardDbl r.card 3
        let src := linkSource n
        match s.engineRead w p .load a len [] with
        | .wait s1 => if s1 = s then .fault (.notEnabled "CONTRIBUTION_SOURCE_READ") else .next s1
        | .migr ps => .next (s.park ctx p ps)
        | .bad e s0 =>
          let first := (List.range (len / 3)).find? fun (i : Nat) =>
            match s.locate w .load (a + 3 * (i : Int)) 3 with | .ok ls => ls.any fun l => s.badLoc l | _ => true
          let s1 := (s0.dropWaits p).modRed ctx n fun q => { q with state := -1 }
          let en : LogEntry := ⟨a + 3 * ((first.getD 0 : Nat) : Int), r.word, e, r.core, r.gang % 27, r.slice, 3 * r.slice, r.at_⟩
          .next ((s1.engineEvent src ctx r.team r.gang 5 (-1) n).logEvent ctx en (s.nameOf r.team (r.gang % 27)))
        | .ok vs ls s1 =>
          let words := digits (9 * redLen r.card) (redCount r.card) (ofTrytes vs)
          let h := s1.engineWatch src ctx r.team r.gang false a len ls
          let s2 := ((h.1.modRed ctx n fun q => { q with state := 1, vals := words }).engineEvent src ctx r.team r.gang 5 1 n).engineEvent
            src ctx r.team r.gang 5 2 n
          let s3 := if h.2 then s2.engineEvent src ctx r.team r.gang 5 6 n else s2
          let m : Contribution := ⟨r.card, r.members, [⟨s.modul, ctx, c.agency, n, words⟩], false⟩
          .next { s3 with fab := { s3.fab with inbox := s3.fab.inbox ++ [⟨s.modul, .contribution m⟩] } }

/-- The modules on the dimension-order route from one module to another, the second last (R401, R408). -/
def routeOf (m dest : Nat) : List Nat :=
  let base := 729 * (dest / 729)
  let x := dest / 81 % 9
  let y := dest / 9 % 9
  let p1 := base + 81 * x + 9 * (m / 9 % 9) + m % 9
  let p2 := base + 81 * x + 9 * y + m % 9
  let step (a b : Nat) : List Nat := if a = b then [] else [b]
  step m p1 ++ step p1 p2 ++ step p2 dest

/-- The modules from which a contributor of module m comes to the root in one hop: by its route in dimension order first, then by other
orders (R401, R408). -/
def lastHops (m dest : Nat) : List Nat :=
  let x := 81 * (m / 81 % 9)
  let y := 9 * (m / 9 % 9)
  let step (a b : Nat) : List Nat := if a = b then [] else [dest - b + a]
  step (m % 9) (dest % 9) ++ step y (9 * (dest / 9 % 9)) ++ step x (81 * (dest / 81 % 9))

/-- The fabric port that joins this module to a neighbour, while it carries flits. -/
def State.livePort (s : State) (m : Nat) : Option Nat :=
  (s.fab.near.find? fun q => decide (q.2 = m) && s.portLive q.1).map Prod.fst

/-- The child of this root, a fabric port, over which a contributor of module m reaches it, as far as this module's own links tell of the
route (R408, log 49). -/
def State.childOf (s : State) (m : Nat) : Option Nat := (lastHops m s.modul).findSome? s.livePort

/-- The module to which a stage forwards (R401, R408). -/
def State.parentStage (s : State) (dest : Nat) : Nat :=
  match s.portTo dest with
  | some p => match s.fab.near.find? fun q => decide (q.1 = p) with | some q => q.2 | none => dest
  | none => dest

/-- This module is the root of an open reduction, and not a stage of it. -/
def State.isRoot (s : State) (r : RedOpen) : Bool := decide (redDest r.card = s.modul)

/-- An open reduction of a key, with this module as its root, or as a stage on the way to another. -/
def State.isRed (s : State) (root : Bool) (key : Int) (r : RedOpen) : Bool :=
  decide (r.key = key) && r.closed.isNone && (s.isRoot r == root)

/-- The open reduction of a key. -/
def State.red? (s : State) (root : Bool) (key : Int) : Option RedOpen := s.reds.find? fun r => s.isRed root key r
/-- The open reduction of a key changed. -/
def State.modOpen (s : State) (root : Bool) (key : Int) (f : RedOpen → RedOpen) : State :=
  { s with reds := mapIf (fun r => s.isRed root key r) f s.reds }
/-- The stage of a reduction removed. -/
def State.dropStage (s : State) (key : Int) : State := { s with reds := s.reds.filter fun r => !s.isRed false key r }

/-- Map trits of a value. -/
def countMap (r : RedOpen) (v : Int) : Nat := (r.map.filter fun t => decide (t = v)).length

/-- A reduction stage record (R432, R436): of the agency whose card opened the reduction here. -/
def State.emitRed (s : State) (r : RedOpen) (code : Int) : State :=
  let die := match s.portTo (redDest r.card) with | some p => portDie p | none => 0
  let held := if s.isRoot r then countMap r 1 else r.parts.length
  s.emit r.agency (3234 + die) 4 (record 9 0 code (toTrytes 6 r.key ++ [(held : Int), (countMap r (-1) : Int)]))

/-- Cards of one key agree (R350). -/
def cardsAgree (a b : List Int) : Bool := [0, 1, 2, 4, 5, 7, 8, 9, 10, 11, 12].all fun i => decide (cardDbl a i = cardDbl b i)

/-- A contributor told what became of its contribution (R354, R414), and an event of the engine that delivered it. -/
def State.tell (s : State) (key : Int) (p : RedPart) (st : Int) : State :=
  if p.modul = s.modul then
    let s1 := s.verdict key p.ctx p.num st
    match (s.ctx? p.ctx).bind fun c => c.reds.find? fun r => decide (r.num = p.num) with
    | some r => if r.state = 1 then s1.engineEvent (linkSource p.num) p.ctx r.team r.gang 5 (if st < 0 then -1 else 3) p.num else s1
    | none => s1
  else s.transmit p.modul (.verdict key p.ctx p.num st)

/-- What a stage holds forwarded towards the root, once, with the list of its contributors (R410). -/
def State.forward (s : State) (r : RedOpen) : State :=
  if r.parts = [] then s.dropStage r.key
  else (s.dropStage r.key).transmit (s.parentStage (redDest r.card)) (.contribution ⟨r.card, r.members, r.parts, false⟩)

/-- A contributor's route passes through this module, by a link to it that is live, or begins here (R408, log 49). -/
def State.passesHere (s : State) (m dest : Nat) : Bool :=
  let hops := m :: routeOf m dest
  decide (m = s.modul) || ((hops.zip (hops.drop 1)).any fun h => decide (h.2 = s.modul) && (s.livePort h.1).isSome)

/-- Every contributor of this stage's subtree is held or fenced (R410). -/
def State.subtreeDone (s : State) (r : RedOpen) : Bool :=
  r.members.all fun m => !s.passesHere m (redDest r.card) || s.fab.fenced.contains m || r.parts.any fun p => decide (p.modul = m)

/-- A stage that need not wait any more forwards early (R410). -/
def State.forwardEarly (s : State) (key : Int) : State :=
  match s.red? false key with
  | some r => if s.subtreeDone r then (s.emitRed r 2).forward r else s
  | none => s

/-- A new reduction at this module, opened by a card (R412). -/
def State.newOpen (s : State) (c : Contribution) (p : RedPart) (late : Bool) : RedOpen :=
  { key := cardDbl c.card 1, card := c.card, members := c.members,
    agency := p.agency, parts := [], kids := [], fell := late, lateOpen := late, written := false,
    map := c.members.map fun m => if s.fab.fenced.contains m then -1 else 0,
    took := [], late := [], due := [], doing := .nothing, plan := [], closed := none }

/-- A contribution reaches a stage that is not its root (R409, R410): in time it is held for the sum, and else goes on alone. -/
def State.stageTakes (s : State) (src : Nat) (c : Contribution) : State :=
  let dest := redDest c.card
  let key := cardDbl c.card 1
  let fallen := decide (redDeadline c.card ≤ s.clock.fabric)
  if c.late ∨ (src = s.modul ∧ fallen) then s.transmit dest (.contribution { c with late := true })
  else if fallen then s.transmit (s.parentStage dest) (.contribution c)
  else
    match s.red? false key with
    | some r =>
      if cardsAgree r.card c.card ∧ r.members = c.members ∧ redDest r.card = dest then
        (s.modOpen false key fun q => { q with parts := q.parts ++ c.parts }).forwardEarly key
      else s.transmit (s.parentStage dest) (.contribution c)
    | none =>
      match c.parts with
      | [] => s
      | p :: _ =>
        let r := { s.newOpen c p false with parts := c.parts }
        ({ s with reds := s.reds ++ [r] } : State).forwardEarly key

/-- The destination context accepts contributions of a module and context (R353). -/
def State.redAccepts (s : State) (c : List Int) (p : RedPart) : Bool :=
  match s.ctx? (cardDbl c 12).toNat with
  | none => false
  | some x => (decide (p.modul = s.modul) && decide (p.ctx = x.num)) || x.landing.contains (p.modul, p.ctx)

/-- A contribution refused at the root. -/
def State.redRefuse (s : State) (key : Int) (p : RedPart) : State :=
  let s1 := match s.red? true key with | some r => s.emitRed r (-1) | none => s
  s1.tell key p (-1)

/-- 60 s in nanoseconds (R418). -/
def minute : Int := 60000000000

/-- The root keeps the map of a closed reduction of the key, and the contributor is listed there with trit 0 (R418). -/
def State.lateOfClosed (s : State) (key : Int) (m : Nat) : Bool :=
  s.reds.any fun r => decide (r.key = key) && (match r.closed with | some t => decide (s.clock.fabric < t + minute) | none => false) && (r.members.zip r.map).any fun q => decide (q.1 = m) && decide (q.2 = 0)

/-- One contribution reaches the root (R353, R410, R412 to R414, R417, R418), of a fenced module too where a stage has forwarded it
before the root's write (R413). -/
def State.rootTakes1 (s : State) (c : Contribution) (late passed : Bool) (p : RedPart) : State :=
  let key := cardDbl c.card 1
  if !s.redAccepts c.card p then
    let s1 := s.redRefuse key p
    if p.modul = s.modul then s1 else s1.refusal p.modul
  else if s.lateOfClosed key p.modul then s.redRefuse key p
  else
    match s.red? true key with
    | none =>
      if (s.reds.filter fun r => r.closed.isNone && s.isRoot r).length ≥ 243 ∨ !c.members.contains p.modul then s.redRefuse key p
      else
        let fallen := decide (redDeadline c.card ≤ s.clock.fabric)
        let r := s.newOpen c p fallen
        let i := c.members.idxOf p.modul
        if r.map.getD i 0 = -1 ∧ (fallen ∨ late ∨ !passed) then s.redRefuse key p
        else
          let took := [(p.modul, p.ctx, p.num)]
          let r1 := if fallen || late then { r with late := [p], took := took } else { r with parts := [p], took := took, map := r.map.set i 1 }
          { s with reds := s.reds ++ [r1] }
    | some r =>
      let i := r.members.idxOf p.modul
      let after := late || r.written || r.lateOpen
      if r.took.contains (p.modul, p.ctx, p.num) then s
      else if !cardsAgree r.card c.card ∨ r.members ≠ c.members ∨ !r.members.contains p.modul ∨ (r.map.getD i 0 = -1 ∧ (after ∨ !passed)) ∨
          r.took.any (fun q => decide (q.1 = p.modul)) then s.redRefuse key p
      else
        s.modOpen true key fun q =>
          let t := { q with took := q.took ++ [(p.modul, p.ctx, p.num)] }
          if after then { t with late := t.late ++ [p] } else { t with parts := t.parts ++ [p], map := t.map.set i 1 }

/-- Contributions reach the root over a child. -/
def State.rootTakes (s : State) (src : Nat) (c : Contribution) : State :=
  let late := c.late || (decide (src = s.modul) && decide (redDeadline c.card ≤ s.clock.fabric))
  let s1 := c.parts.foldl (fun s p => s.rootTakes1 c late (decide (src ≠ p.modul)) p) s
  if late then s1 else s1.modOpen true (cardDbl c.card 1) fun r => { r with kids := (s.livePort src).toList ++ r.kids }

/-- The message is a contribution. -/
def isContribution (m : FlitMsg) : Option Contribution := match m with | .contribution c => some c | _ => none

/-- The open reduction of a key has written and nothing more can come, or its time is over (R418). -/
def State.closing (s : State) (r : RedOpen) : Bool :=
  r.written && (r.map.all (fun t => decide (t ≠ 0)) || decide (redDeadline r.card + minute ≤ s.clock.fabric))

/-- REDUCTION_CONTRIBUTION_ARRIVE (R409): the oldest contribution or partial sum received; one for a reduction that is about to close comes
after that. -/
def execReductionContributionArrive (s : State) : Answer :=
  let comes (c : Contribution) : Bool := !((s.red? true (cardDbl c.card 1)).any s.closing && decide (redDest c.card = s.modul))
  match s.fab.inbox.zipIdx.findSome? fun q => ((isContribution q.1.msg).filter comes).map fun c => (q.2, q.1.src, c) with
  | none => .fault (.notEnabled "REDUCTION_CONTRIBUTION_ARRIVE")
  | some (i, src, c) =>
    let s1 : State := { s with fab := { s.fab with inbox := s.fab.inbox.eraseIdx i } }
    .next (if redDest c.card = s.modul then s1.rootTakes src c else s1.stageTakes src c)

/-- The flag of an open reduction is to fall (R410). -/
def State.flagDue (s : State) (r : RedOpen) : Bool := !r.fell && decide (redDeadline r.card ≤ s.clock.fabric)

/-- FLAG_FALL (R410). -/
def execFlagFall (key : Int) (s : State) : Answer :=
  match [true, false].findSome? fun b => (s.red? b key).filter s.flagDue with
  | none => .fault (.notEnabled "FLAG_FALL")
  | some r =>
    let s1 := s.emitRed r 1
    .next (if s.isRoot r then s1.modOpen true key fun q => { q with fell := true } else s1.forward r)

/-- The sum of an element's contributions, fitted once (R353, R409). -/
def redFit (c : List Int) (vs : List Int) : Int :=
  let h := cardDbl c 0
  if redTy c = 1 then (f27.dot (rndOfCode (sub 48 2 h)) 0 (.fin ⟨0, 0⟩) (vs.map fun v => (f27.value v, .fin ⟨1, 0⟩))).val
  else if redTy c = -1 then wrap 54 vs.sum
  else (fitInt 27 (decide (tritAt 47 h = 1)) vs.sum).val

/-- The result elements of the contributions held. -/
def redResult (r : RedOpen) : List Int := (List.range (redCount r.card)).map fun e => redFit r.card (r.parts.map fun p => p.vals.getD e 0)

/-- The trytes of elements. -/
def redTrytes (c : List Int) (vs : List Int) : List Int := vs.flatMap (toTrytes (redLen c))

/-- The words of a contributor map (R352). -/
def mapWords (m : List Int) : List Int := (List.range ((m.length + 26) / 27)).map fun v => ofTrits ((m.drop (27 * v)).take 27)

/-- Who the writes of a reduction at its root are made for (R353). -/
def redWho (c : Context) : Who := { ctx := c, team := none, gang := 0, lane := none, core := none }

/-- A range cut at the bounds of small pages (R171): addresses and lengths (log 52). -/
def pageParts (a : Int) (n : Nat) : List (Int × Nat) :=
  let b := a / 19683
  (List.range (n / 19683 + 2)).filterMap fun (i : Nat) =>
    let lo := Max.max a (19683 * (b + (i : Int)))
    let hi := Min.min (a + (n : Int)) (19683 * (b + (i : Int) + 1))
    if lo < hi then some (lo, (hi - lo).toNat) else none

/-- Parts of ranges located for a reduction, one that cannot be corrected with its cause (R249, R353). -/
def State.redLocate (s : State) (c : Context) (op : AccOp) (rs : List (Int × Nat)) : List (Int × Nat × Xs) :=
  rs.flatMap fun r => (pageParts r.1 r.2).map fun p =>
    let bad (ls : List Loc) : Bool :=
      if op.rd then ls.any fun l => s.badLoc l else (s.badCell (cellsAt p.1 ls (ls.map fun _ => 0))).isSome
    (p.1, p.2, match s.locate (redWho c) op p.1 p.2 with | .ok ls => if bad ls then .bad .uncorrectable else .ok ls | x => x)

/-- The migrating pages among parts located. -/
def redPages (ps : List (Int × Nat × Xs)) : List (Int × Int) := ps.flatMap fun p => match p.2.2 with | .migr q => q | _ => []

/-- Requests to peers about parts located, each with a number of its own: f makes the request of a run. -/
def redAsks (ps : List (Int × Nat × Xs)) (f : List Loc → RemoteReq) : List (RemReq × Int) :=
  let runs := ps.flatMap fun p => match p.2.2 with | .ok ls => (farRuns ls).map fun r => (p.1, p.2.1, r) | _ => []
  runs.zipIdx.map fun q =>
    ({ key := q.2, modul := runModule q.1.2.2.2, lanes := [], addr := q.1.1, len := q.1.2.1, req := f q.1.2.2.2 }, q.1.1 + (q.1.2.2.1 : Int))

/-- Parts that fail, with their causes: as located, or refused by their owners. -/
def redFails (ps : List (Int × Nat × Xs)) (fs : List (RemReq × Cause)) : List (Int × Nat × Cause) :=
  ps.filterMap fun p =>
    match p.2.2 with
    | .bad e => some (p.1, p.2.1, e)
    | _ => (fs.find? fun f => decide (f.1.addr = p.1)).map fun f => (p.1, p.2.1, f.2)

/-- The unit of a range that covers an address touches no part that fails. -/
def wholeUnit (fails : List (Int × Nat × Cause)) (a : Int) (u : Nat) (x : Int) : Bool :=
  let lo := a + (u : Int) * ((x - a) / (u : Int))
  fails.all fun f => decide (f.1 + (f.2.1 : Int) ≤ lo) || decide (lo + (u : Int) ≤ f.1)

/-- Parts that failed logged in the destination context (R192, R353). -/
def State.redLog (s : State) (c : Context) (fails : List (Int × Nat × Cause)) : State :=
  fails.foldl (fun s f => s.logEvent c.num ⟨f.1, 0, f.2.2, 0, 0, 0, 0, 0⟩ 0) s

/-- Writes of a reduction enter together, unit by unit: a unit that fails translation or permission, or that its owner refuses, is
logged and left out (R353). -/
def State.redEnter (s : State) (c : Context) (key : Int) (ws : List (Int × Nat × List Int)) : DevStep :=
  let p : Parker := .red key
  let ps := s.redLocate c .store (ws.map fun w => (w.1, w.2.2.length))
  match redPages ps with
  | q :: qs => .migr (q :: qs)
  | [] =>
    let go (fs : List (RemReq × Cause)) : DevStep :=
      let fails := redFails ps fs
      let cells : Cells := ps.flatMap fun q => match q.2.2 with | .ok ls => cellsAt q.1 ls (ls.map fun _ => 0) | _ => []
      let cs : Cells := ws.flatMap fun w =>
        (cells.filter fun d => decide (w.1 ≤ d.1) && decide (d.1 < w.1 + (w.2.2.length : Int)) && wholeUnit fails w.1 w.2.1 d.1).map fun d =>
          (d.1, d.2.1, w.2.2.getD (d.1 - w.1).toNat 0)
      match s.enterAll p (redWho c) false cs with
      | .error s1 => .waits s1
      | .ok s1 => .done (s1.redLog c fails)
    match s.answers p ((redAsks ps fun ls => runAccept true ls).map Prod.fst) with
    | .pending missing => .waits (s.askFor p c.agency c.num missing)
    | .bad fs => go fs
    | .all _ => go []

/-- The root may write (R411): all there, all there or fenced before the deadline, or every child that could still bring a
missing contributor has forwarded after the flag fell; a reduction that opened late is written at once (R412). -/
def State.rootReady (s : State) (r : RedOpen) : Bool :=
  let all := r.map.all fun t => decide (t ≠ 0)
  let missing := ((r.members.zip r.map).filter fun q => decide (q.2 = 0)).map Prod.fst |>.filter fun m => !r.took.any fun q => decide (q.1 = m)
  !r.written && s.isRoot r &&
    (r.lateOpen || (all && (decide (countMap r (-1) = 0) || decide (s.clock.fabric < redDeadline r.card))) ||
      (r.fell && missing.all fun m => (s.childOf m).any r.kids.contains))

/-- The state field of the status line (R352, R411). -/
def redState (r : RedOpen) : Int := if r.parts = [] then -1 else if r.map.all fun t => decide (t = 1) then 1 else 0

/-- The writes of the root: the result, then the map, then the status line (R352, R353, R416). -/
def State.rootPlan (s : State) (r : RedOpen) : List (Int × Nat × List Int) :=
  let d := cardDbl r.card 4
  let z : Int := redZ r.card
  let status := [(countMap r 1 : Int), (countMap r (-1) : Int), redState r, s.clock.fabric, r.key, 0]
  [(d, redLen r.card, redTrytes r.card (redResult r)), (d + z + 81, 3, (mapWords r.map).flatMap (toTrytes 3)),
   (d + z, 81, status.flatMap (toTrytes 6) ++ List.replicate 45 0)]

/-- The destination context of a card (R353). -/
def State.redCtx (s : State) (c : List Int) : Option Context := s.ctx? (cardDbl c 12).toNat

/-- The root's writes wait for a page. -/
def State.redParked (s : State) (key : Int) : Bool := s.xlate.parked.any fun p => decide (p.who = .red key)

/-- The root goes on after a step of what it has in hand: made, with what follows, or waiting. -/
def State.redOn (s : State) (c : Context) (key : Int) (d : DevStep) (made : State → State) : State :=
  match d with
  | .done s1 => made s1
  | .waits s1 => s1
  | .migr ps => s.park c.num (.red key) ps

/-- The signal of a reduction decremented after its writes (R353, R416). -/
def State.rootSignal (s : State) (r : RedOpen) : State :=
  let done (s : State) : State := s.modOpen true r.key fun q => { q with doing := .nothing }
  let sig := cardDbl r.card 9
  match s.redCtx r.card with
  | none => done s
  | some c => if sig = 0 then done s else s.redOn c r.key (s.decrementSignal (.red r.key) c sig 0) done

/-- The root's writes enter, its contributors are told, and its signal follows (R352 to R354, R416). -/
def State.rootEnter (s : State) (r : RedOpen) : State :=
  let made (s : State) : State :=
    let s1 := s.modOpen true r.key fun q => { q with parts := [], plan := [], doing := .signal }
    ((r.parts.foldl (fun s p => s.tell r.key p 3) s1).emitRed r 3).rootSignal r
  match s.redCtx r.card with
  | none => made s
  | some c => s.redOn c r.key (s.redEnter c r.key r.plan) made

/-- The root fixes the result and begins to write it (R411). -/
def State.rootWrite (s : State) (r : RedOpen) : State :=
  let r1 := { r with written := true, doing := .result, plan := s.rootPlan r }
  (s.modOpen true r.key fun _ => r1).rootEnter r1

/-- An event answers with the state that it leads to, when that is another one. -/
def onward (name : String) (s t : State) : Answer := if t = s then .fault (.notEnabled name) else .next t

/-- ROOT_WRITE (R411): the root begins to write, or goes on with its writes and its signal. -/
def execRootWrite (key : Int) (s : State) : Answer :=
  match s.red? true key with
  | none => .fault (.notEnabled "ROOT_WRITE")
  | some r =>
    if s.redParked key then .fault (.notEnabled "ROOT_WRITE")
    else
      match r.doing with
      | .result => onward "ROOT_WRITE" s (s.rootEnter r)
      | .signal => onward "ROOT_WRITE" s (s.rootSignal r)
      | _ => if s.rootReady r then .next (s.rootWrite r) else .fault (.notEnabled "ROOT_WRITE")

/-- ROOT_WRITE_TIMEOUT (R411): 20,000 ns after the deadline. -/
def execRootWriteTimeout (key : Int) (s : State) : Answer :=
  match s.red? true key with
  | none => .fault (.notEnabled "ROOT_WRITE_TIMEOUT")
  | some r =>
    if r.written ∨ s.clock.fabric < redDeadline r.card + 20000 ∨ s.redParked key then .fault (.notEnabled "ROOT_WRITE_TIMEOUT")
    else .next (s.rootWrite r)

/-- A double of trytes raised by one. -/
def bump (ts : List Int) : List Int := toTrytes 6 (wrap 54 (ofTrytes ts + 1))

/-- The word of the map that holds contributor i. -/
def mapAddr (c : List Int) (i : Nat) : Int := cardDbl c 4 + (redZ c : Int) + 81 + 3 * ((i / 27 : Nat) : Int)

/-- The trit of contributor i set in the trytes of its map word. -/
def markMap (i : Nat) (t : Int) (ts : List Int) : List Int := toTrytes 3 (setTrit (i % 27) t (ofTrytes ts))

/-- What a correction changes at the destination (R415, R417): ranges in the order of the update, each with the length of a unit and
with what becomes of its trytes. -/
abbrev RedChange := List (Int × Nat × Nat × (List Int → List Int))

/-- The fencing of contributor i written into map and status (R415). -/
def fenceChange (c : List Int) (i : Nat) : RedChange :=
  [(mapAddr c i, 3, 3, markMap i (-1)), (cardDbl c 4 + (redZ c : Int) + 6, 6, 6, bump)]

/-- A late contribution added element by element, with map and status (R417). -/
def addChange (c : List Int) (i : Nat) (p : RedPart) : RedChange :=
  let st := cardDbl c 4 + (redZ c : Int)
  let n := redLen c
  let count := redCount c
  [(cardDbl c 4, n, n * count, fun ts => redTrytes c ((List.zip (digits (9 * n) count (ofTrytes ts)) p.vals).map fun q => redFit c [q.1, q.2])),
   (mapAddr c i, 3, 3, markMap i 1), (st, 6, 6, bump), (st + 30, 6, 6, bump)]

/-- The trytes that answers of peers give, by address. -/
def redTold (asks : List (RemReq × Int)) (rem : List (Nat × RemoteReply)) : List (Int × Int) :=
  asks.flatMap fun q =>
    match rem.find? fun r => decide (r.1 = q.1.key) with
    | some (_, .vals vs) => vs.zipIdx.map fun v => (q.2 + (v.2 : Int), v.1)
    | _ => []

/-- The writes by which a correction is made: its ranges read as they stand, units that fail left out and logged (R353, R417). -/
def State.redChange (s : State) (c : Context) (key : Int) (ch : RedChange) : Except DevStep (State × List (Int × Nat × List Int)) :=
  let p : Parker := .red key
  let ps := s.redLocate c .rmw (ch.map fun r => (r.1, r.2.2.1))
  match redPages ps with
  | q :: qs => .error (.migr (q :: qs))
  | [] =>
    let asks := redAsks ps (runLoad false)
    let go (fs : List (RemReq × Cause)) (rem : List (Nat × RemoteReply)) : State × List (Int × Nat × List Int) :=
      let fails := redFails ps fs
      let told := redTold asks rem
      let cells : Cells := ps.flatMap fun q => match q.2.2 with | .ok ls => cellsAt q.1 ls (ls.map fun _ => 0) | _ => []
      let val (x : Int) : Int :=
        match cells.find? fun d => decide (d.1 = x) with
        | some d => if d.2.1.isPeer then ((told.find? fun t => decide (t.1 = x)).map Prod.snd).getD 0 else s.readLoc false d.2.1
        | none => 0
      let new := ch.flatMap fun r =>
        let n := r.2.2.1
        let vs := r.2.2.2 ((List.range n).map fun (i : Nat) => val (r.1 + (i : Int)))
        if fails = [] then [(r.1, r.2.1, vs)]
        else (List.range (n / r.2.1)).filterMap fun (i : Nat) =>
          let x := r.1 + ((r.2.1 * i : Nat) : Int)
          if wholeUnit fails r.1 r.2.1 x then some (x, r.2.1, (vs.drop (r.2.1 * i)).take r.2.1) else none
      ((s.dropWaits p).redLog c fails, new)
    match s.answers p (asks.map Prod.fst) with
    | .pending missing => .error (.waits (s.askFor p c.agency c.num missing))
    | .bad fs => .ok (go fs ((s.waitsOf p).filterMap fun w => w.reply.map fun r => (w.key, r)))
    | .all rem => .ok (go [] rem)

/-- A correction made: read, unless its writes are already fixed, and written as one update (R417). -/
def State.redCorrect (s : State) (c : Context) (r : RedOpen) (ch : RedChange) (made : State → State) : State :=
  let enter (s : State) (ws : List (Int × Nat × List Int)) : State := s.redOn c r.key (s.redEnter c r.key ws) made
  if r.plan ≠ [] then enter s r.plan
  else
    match s.redChange c r.key ch with
    | .error d => s.redOn c r.key d made
    | .ok (s1, ws) => enter (s1.modOpen true r.key fun q => { q with plan := ws }) ws

/-- The root has nothing in hand any more. -/
def State.redRest (s : State) (key : Int) (f : RedOpen → RedOpen) : State :=
  s.modOpen true key fun q => { f q with doing := .nothing, plan := [] }

/-- The fencing of a contributor written into the destination (R415). -/
def State.fenceStep (s : State) (r : RedOpen) : State :=
  let made (s : State) : State := s.redRest r.key fun q => { q with due := q.due.drop 1 }
  match r.due, s.redCtx r.card with
  | i :: _, some c => s.redCorrect c r (fenceChange r.card i) made
  | _, _ => made s

/-- The oldest late contribution done with at the root. -/
def State.lateDone (s : State) (r : RedOpen) (p : RedPart) (st : Int) : State :=
  let s1 := (s.redRest r.key fun q => { q with late := q.late.drop 1 }).tell r.key p st
  s1.emitRed ((s1.red? true r.key).getD r) (if st < 0 then -1 else 4)

/-- The oldest late contribution added, posted to a port or discarded (R417). -/
def State.lateStep (s : State) (r : RedOpen) : State :=
  match r.late with
  | [] => s
  | p :: _ =>
    let i := r.members.idxOf p.modul
    match (if redMode r.card = 0 then none else s.redCtx r.card) with
    | none => s.lateDone r p (-1)
    | some c =>
      if redMode r.card = 1 then
        s.redCorrect c r (addChange r.card i p) fun s1 => (s1.modOpen true r.key fun q => { q with map := q.map.set i 1 }).lateDone r p 2
      else
        let a := cardDbl r.card 10 + ((i * redZ r.card : Nat) : Int)
        s.redOn c r.key (s.redEnter c r.key [(a, redLen r.card, redTrytes r.card p.vals)]) fun s1 =>
          (s1.postAtRoot (s1.ctxNumber p.modul p.ctx) (cardDbl r.card 11) (i : Int)).lateDone r p 2

/-- CORRECTION_APPLY (R415, R417): the next update of a destination already written: a contributor's fencing, or the oldest
late contribution. -/
def execCorrectionApply (key : Int) (s : State) : Answer :=
  match s.red? true key with
  | none => .fault (.notEnabled "CORRECTION_APPLY")
  | some r =>
    if !r.written ∨ s.redParked key then .fault (.notEnabled "CORRECTION_APPLY")
    else
      match r.doing, r.due, r.late with
      | .fencing, _, _ => onward "CORRECTION_APPLY" s (s.fenceStep r)
      | .correction, _, _ => onward "CORRECTION_APPLY" s (s.lateStep r)
      | .nothing, _ :: _, _ =>
        let r1 := { r with doing := .fencing }
        .next ((s.modOpen true key fun _ => r1).fenceStep r1)
      | .nothing, [], _ :: _ =>
        let r1 := { r with doing := .correction }
        .next ((s.modOpen true key fun _ => r1).lateStep r1)
      | _, _, _ => .fault (.notEnabled "CORRECTION_APPLY")

/-- REDUCTION_CLOSE (R418). -/
def execReductionClose (key : Int) (s : State) : Answer :=
  match s.red? true key with
  | none => .fault (.notEnabled "REDUCTION_CLOSE")
  | some r =>
    if !s.closing r ∨ r.doing ≠ .nothing ∨ r.due ≠ [] ∨ r.late ≠ [] then
      .fault (.notEnabled "REDUCTION_CLOSE")
    else .next (s.modOpen true key fun q => { q with closed := some s.clock.fabric })

/-- REDUCTION_MAP_EXPIRY (R418). -/
def execReductionMapExpiry (key : Int) (s : State) : Answer :=
  let old (r : RedOpen) : Bool :=
    decide (r.key = key) && (match r.closed with | some t => decide (t + minute ≤ s.clock.fabric) | none => false)
  if s.reds.any old then .next { s with reds := s.reds.filter fun r => !old r } else .fault (.notEnabled "REDUCTION_MAP_EXPIRY")

/-- The fence of a module as the reductions rooted here see it (R413 to R415): its contribution, also a late one that is not yet being
applied, does not enter any more. -/
def RedOpen.fence (r : RedOpen) (m : Nat) : RedOpen :=
  let i := r.members.idxOf m
  let busy := if r.doing = .correction then 1 else 0
  let rest := r.late.drop busy
  if r.closed.isNone && r.members.contains m && decide (r.map.getD i 0 = 0) &&
      (rest.any (fun p => decide (p.modul = m)) || !r.took.any fun q => decide (q.1 = m)) then
    { r with
      map := r.map.set i (-1), due := if r.written then r.due ++ [i] else r.due,
      late := r.late.take busy ++ rest.filter fun p => decide (p.modul ≠ m) }
  else r

/-- The fence of a module as the contributions of this module's contexts see it (R414): those for the fenced module are
refused, those that it held as a stage are sent again, straight to their root. -/
def State.fenceSubs (s : State) (m : Nat) : State :=
  s.ctxs.foldl (fun s c => c.reds.foldl (fun s r =>
    let dest := redDest r.card
    let through := decide (dest ≠ s.modul) && decide (m ≠ s.modul) &&
      ((routeOf s.modul dest).contains m || decide (s.parentStage dest = m))
    if r.state ≠ 0 ∧ r.state ≠ 1 then s
    else if dest = m then s.modRed c.num r.num fun q => { q with state := -1 }
    else if r.state = 1 ∧ through ∧ Config.stageHeld m (cardDbl r.card 1) r.num then
      s.transmit dest (.contribution ⟨r.card, r.members, [⟨s.modul, c.num, c.agency, r.num, r.vals⟩], true⟩)
    else s) s) s

/-- The reductions rooted at a fenced module end, here and where they are stages (R414). -/
def State.fenceRoots (s : State) (m : Nat) : State :=
  let gone := (s.reds.filter fun r => decide (redDest r.card = m) && r.closed.isNone)
  let mine (w : Parker) : Bool := decide (m = s.modul) && gone.any fun r => decide (w = .red r.key)
  { s with
    reds := s.reds.filter fun r => decide (redDest r.card ≠ m) || r.closed.isSome
    xlate := { s.xlate with parked := s.xlate.parked.filter fun p => !mine p.who }
    fab := { s.fab with waits := s.fab.waits.filter fun w => !mine w.who } }

/-- The stages of a module that is fenced itself lose what they hold (R414). -/
def State.dropStages (s : State) : State :=
  let lost (q : Inbound) : Bool := match q.msg with | .contribution c => decide (redDest c.card ≠ s.modul) | _ => false
  { s with reds := s.reds.filter s.isRoot, fab := { s.fab with inbox := s.fab.inbox.filter fun q => !lost q } }

/-- A module is fenced, as this one sees it (R403, R404, R414): the places kept for its bindings are given up (log 41), and nothing waits to
leave for it. -/
def State.fence (s : State) (m : Nat) : State :=
  if s.fab.fenced.contains m then s
  else
    let s1 : State :=
      { s with
        fab := { s.fab with fenced := m :: s.fab.fenced, queue := s.fab.queue.filter fun q => decide (q.dst ≠ m),
                              accepted := s.fab.accepted.filter fun j => decide (j.src ≠ m) }
        eng := { s.eng with bindings := s.eng.bindings.filter fun b => !(decide (b.port = 0) && decide ((s.originOf b.ctx).1 = m)) } }
    let s2 := (s1.fenceSubs m).fenceRoots m
    let s3 : State := if m = s.modul then s2.dropStages else { s2 with reds := s2.reds.map fun r => if s2.isRoot r then r.fence m else r }
    (s3.reds.map RedOpen.key).foldl (fun s k => s.forwardEarly k) s3

/-- A module may be fenced from here (R403, R464): no route to it, of this module's or, as they tell, of the domain's other modules, has been
live for 100 µs of fabric time; or it is this one, and a prism die has reported a fatal machine error (log 49). -/
def State.mayFence (s : State) (m : Nat) : Bool :=
  (decide (m = s.modul) && s.fab.fatal) ||
    (s.inDomain m && s.fab.lost.any fun l => decide (l.1 = m) && decide (l.2 + routeTimeout ≤ s.clock.fabric))

/-- The neighbours of the domain and of others to which a fence is announced (R403, R464). -/
def State.announce (s : State) (m : Nat) (ms : List Nat) : State :=
  (ms.filter fun p => decide (p ≠ m)).foldl (fun s p => s.transmit p (.fence m)) s

/-- MODULE_FENCE (R403, R464): the fence is announced to every module of the domain, and to those of others that this module joins. -/
def execModuleFence (m : Nat) (s : State) : Answer :=
  if s.fab.fenced.contains m ∨ !s.mayFence m then .fault (.notEnabled "MODULE_FENCE")
  else .next ((s.fence m).announce m s.fab.found)

/-- The modules to which an announcement goes on from here (R464): it crosses into the domains that this module joins, and one that has
crossed goes to every module of this domain. -/
def State.passFence (s : State) (src : Nat) : List Nat :=
  s.fab.found.filter fun p => decide (p / 729 ≠ s.fab.place.domain) && decide (p / 729 ≠ src / 729) ||
    decide (p / 729 = s.fab.place.domain) && decide (src / 729 ≠ s.fab.place.domain)

/-- FENCE_ANNOUNCEMENT (R404, R464): the announcement that a module is fenced arrives, and goes on into other domains. -/
def execFenceAnnouncement (m : Nat) (s : State) : Answer :=
  let mine (q : Inbound) : Bool := decide (q.msg = .fence m)
  if s.fab.inbox.any mine then
    let i := s.fab.inbox.findIdx mine
    let s1 : State := { s with fab := { s.fab with inbox := s.fab.inbox.eraseIdx i } }
    if s.fab.fenced.contains m then .next s1
    else .next ((s1.fence m).announce m (s.passFence ((s.fab.inbox[i]?.map Inbound.src).getD s.modul)))
  else .fault (.notEnabled "FENCE_ANNOUNCEMENT")

/-- The state that an event of the device leads to, where it can take place. -/
def State.after (s : State) (r : Answer) : State := match r with | .next t => t | _ => s

/-- What the deadlines of reductions that have passed bring about, for every open reduction (R410, R411, R418, R429). -/
def State.deadlines (s : State) : State :=
  (s.reds.map RedOpen.key).eraseDups.foldl (fun s k =>
    let s1 := s.after (execFlagFall k s)
    let s2 := s1.after (execFlagFall k s1)
    let s3 := s2.after (execRootWriteTimeout k s2)
    let s4 := s3.after (execReductionClose k s3)
    s4.after (execReductionMapExpiry k s4)) s

/-- The times at which the deadlines of an open reduction pass that have not yet. -/
def State.redTimes (s : State) (r : RedOpen) : List Int :=
  let d := redDeadline r.card
  ([d, d + 20000, d + minute] ++ r.closed.toList.map fun t => t + minute).filter fun t => decide (s.clock.fabric < t)

end Sys2Proof.Machine
end

