-- ==== Sys2Proof/Machine/Phases.lean ====
section
/-!
DEFINITION. Phase boundaries (R125, R145, R146, R269, R378) and saves in the middle of a phase (R271, R277, R379).
-/
namespace Sys2Proof.Machine

/-- The blocks that trits 8-0 of a value name (R125). -/
def carriedBlocks (v : Int) : Int := tritSet (plusTrits 9 v)

/-- The PHASE arrivals of a gang. -/
def Team.arrivalsOf (t : Team) (g : Nat) : List Arrival := t.arrivals.filter fun a => decide (a.gang = g)

/-- The slices of some gangs of a team trap where they wait at the boundary, whose arrivals are cleared (R125). -/
def Team.clearBoundary (t : Team) (mine : Nat → Bool) : Team :=
  let gone := t.arrivals.filter fun a => mine a.gang
  { t with
    arrivals := t.arrivals.filter fun a => !mine a.gang,
    gangs := t.gangs.map fun g => g.owe ((gone.filter fun a => decide (a.gang = g.idx)).map Arrival.slice) .setsDisagree }

/-- The gangs of a team have all arrived, and what R125 asks before their arrival has happened. -/
def State.teamAtBoundary (s : State) (t : Team) : Bool :=
  decide (t.place = .resident) && t.live.all fun g =>
    (g.liveSlices.all fun k => t.arrivals.any fun a => decide (a.gang = g.idx) && decide (a.slice = k)) &&
    g.ops.isEmpty && !(s.eng.copies.any fun c => decide (c.team = t.key) && decide (c.gang = g.idx)) &&
    s.ctxs.all fun c => c.jobs.all fun j =>
      decide (j.team ≠ t.key) || decide (j.gang ≠ g.idx) || j.state.isVisible

/-- The teams of a group that have not ended: one whose gangs all have, while a pattern of it still holds, is among them (R146,
R149). -/
def State.liveGroup (s : State) (t : Team) : List Team := (s.groupOf t).filter fun u => !u.ended

/-- Every team of a team's group has arrived at the boundary, and where the group is to be switched out its other work is done (R125,
R146, R271). -/
def State.groupArrived (s : State) (t : Team) : Bool :=
  let us := s.liveGroup t
  us.all (fun u => s.teamAtBoundary u) && us.any (fun u => !u.arrivals.isEmpty) && (!s.wantsCore us || us.all fun u => s.drained u)

/-- The boundary of a team's group can be passed (R125, R146); where the group is to be switched out, only once its records can be
written (R271, R277). -/
def State.boundaryReady (s : State) (t : Team) : Bool :=
  let us := s.liveGroup t
  s.groupArrived t && (!s.wantsCore us || us.all fun u => s.recordThere u)

/-- The boundary that a slice waits for: passed, or the device waits for the pages of records that it is to write (R175); none while
nothing changes. -/
def State.boundaryTurn (s : State) (t : Team) (pass : State → State) : Option State :=
  if s.boundaryReady t then some (pass s)
  else if s.groupArrived t then
    let s1 := s.parkRecords (s.liveGroup t)
    if s1.xlate.parked = s.xlate.parked then none else some s1
  else none

/-- Gangs that meet at a boundary in token mode differ in form (R125). -/
def Team.formsDiffer (t : Team) : Bool :=
  t.gangs.any Gang.token && t.arrivals.any Arrival.tiles && t.arrivals.any fun a => !a.tiles

/-- A gang past the boundary: what its arrivals do not carry is released, zeroed or returned (R125). -/
def Team.passGang (t : Team) (g : Gang) : Gang :=
  match t.arrivalsOf g.idx with
  | [] => g
  | a :: as =>
    let scalars (k : Nat) : Int := (((a :: as).find? fun b => decide (b.slice = k)).getD a).scalars
    let g1 := g.release ((List.range 9).filter fun b => decide (tritAt b a.blocks ≠ 1))
    let g2 := if a.tiles || g1.token then g1 else { g1 with tiles := [], tileSet := [] }
    let ks := (a :: as).map Arrival.slice
    (g2.modSlices ks fun k x => { x with s := x.s.filter fun c => decide (tritAt c.1 (scalars k) = 1) }).leave ks

/-- A team past its boundary; the arrivals stay until a save has used them. -/
def Team.pass (t : Team) : Team :=
  let back := t.gangs.any Gang.token && !t.arrivals.any Arrival.tiles
  let t1 : Team := { t with gangs := t.gangs.map t.passGang }
  if back then { t1 with tiles := [], tokens := [], passing := [] } else t1

/-- The visible jobs that the slices of a team at the boundary submitted give their flags: the boundary observes their completion
(R31, R125, R218). -/
def State.mergeBoundary (s : State) (t : Team) : State :=
  let mine (j : Job) : Bool := decide (j.state = .visible) && !j.merged && decide (j.team = t.key) && !(t.arrivalsOf j.gang).isEmpty
  ((s.ctxs.flatMap Context.jobs).filter mine).foldl State.mergeJob s

/-- The boundary of a team's group passed (R125, R146), and the group switched out where other work asks for its place
(R378). -/
def State.passBoundary (s : State) (t : Team) : State :=
  let us := s.liveGroup t
  let bad := us.filter Team.formsDiffer
  if bad ≠ [] then bad.foldl (fun s u => s.modTeam u.key fun v => v.clearBoundary fun _ => true) s
  else
    let s1 := us.foldl (fun s u => (s.mergeBoundary u).modTeam u.key Team.pass) s
    let s2 := us.foldl (fun s u => s.blocksReturned u.core) s1
    let vs := us.filterMap fun u => s2.team? u.key
    if s2.wantsCore vs then s2.switchOut vs
    else vs.foldl (fun s u => s.modTeam u.key fun v => { v with arrivals := [] }) s2

/-- The block sets or forms of an issue set's PHASE differ from one another or from what its gang has arrived with (R125). -/
def Iss.phaseDiffers (x : Iss) (tiles : Bool) (rx : SReg) : Bool :=
  let set (k : Nat) : Int := carriedBlocks (x.s k rx)
  x.slices.any (fun k => decide (set k ≠ set x.low)) ||
    (x.team.arrivalsOf x.issue.gang).any fun a => decide (a.blocks ≠ set x.low) || decide (a.tiles ≠ tiles)

/-- PHASE in either form (R125, R144). Where BAR has opened the phase of the team phaser, the arrival counts for that phase too, with the
set of every gang (log 85). -/
def phaseArrive (tiles : Bool) (rx ry : SReg) (s : State) : Answer :=
  syncIssue (fun _ => Uses.none)
    (fun x s =>
      let clash := if x.team.bar.parts = [] then none else x.team.barClash x.issue.gang x.team.phaseSet
      if x.phaseDiffers tiles rx then
        .error (.trapWith (.of x.lanes .setsDisagree)
          (s.modTeam x.issue.team fun t => t.clearBoundary fun g => decide (g = x.issue.gang)))
      else
        match clash with
        | some c => .error (.trapWith (.of x.lanes c) (s.barClashed x.issue.team c))
        | none =>
          let new := x.slices.map fun k => Arrival.mk x.issue.gang k (carriedBlocks (x.s x.low rx)) (x.s k ry) tiles
          let bar (t : Team) : Team := if t.bar.parts = [] then t else t.barArrive x.issue.gang x.slices t.phaseSet
          let s1 := s.modTeam x.issue.team fun t => { bar t with arrivals := t.arrivals ++ new }
          let s2 := x.modSlices (fun _ y => { y with wait := some .boundary, fate := .waits }) s1
          match s2.team? x.issue.team with
          | some t => .ok ((s2.boundaryTurn t fun s => s.passBoundary t).getD s2)
          | none => .ok s2) s

/-- PHASE (R125). -/
def execPhase (x y : SReg) (s : State) : Answer := phaseArrive false x y s
/-- PHASE.t (R125). -/
def execPhaseT (x y : SReg) (s : State) : Answer := phaseArrive true x y s

/-- The teams on a core whose priority lies below an item's, with the groups that they belong to (R379). -/
def State.victims (s : State) (core : Nat) (prio : Int) : List Team :=
  let low := (s.teamsOn core).filter fun t => !t.ended && (match s.grid? t.grid with | some g => decide (g.prio < prio) | none => false)
  low.foldl (fun l t => l ++ (s.groupOf t).filter fun u => !u.ended && !l.any fun v => decide (v.key = u.key)) []

/-- The launch priority of a team. -/
def State.prioOf (s : State) (t : Team) : Int := match s.grid? t.grid with | some g => g.prio | none => 0

/-- One choice of core is better than another (R379): priority of the teams saved, when the newest was placed, number. -/
def betterCore (a b : Int × Nat × Nat) : Bool :=
  if a.1 ≠ b.1 then decide (a.1 < b.1) else if a.2.1 ≠ b.2.1 then decide (a.2.1 > b.2.1) else decide (a.2.2 < b.2.2)

/-- The core whose teams are saved for an item (R379): their highest priority, when the newest was placed, its number. -/
def State.saveCore (s : State) (p : Pend) : Option (Int × Nat × Nat) :=
  let cand (core : Nat) : Option (Int × Nat × Nat) :=
    match s.victims core p.prio with
    | [] => none
    | v :: vs =>
      let gone := (v :: vs).foldl (fun (s : State) u => s.modTeam u.key fun x => { x with place := .broken }) s
      if gone.wouldFit p core then
        some (vs.foldl (fun m u => Max.max m (s.prioOf u)) (s.prioOf v), vs.foldl (fun m u => Max.max m u.since) v.since, core)
      else none
  (List.range 1024).foldl (fun (b : Option (Int × Nat × Nat)) (c : Nat) =>
    match cand c, b with
    | some a, some d => if betterCore a d then some a else some d
    | some a, none => some a
    | none, _ => b) none

/-- The items of high priority that have waited too long and fit nowhere (R379). -/
def State.starved (s : State) : List Pend :=
  s.pending.filter fun p =>
    decide (p.prio = 1) && decide (s.clock.cycle - p.since ≥ 177147) && ((s.itemOut p).all fun u => s.recordThere u) && (s.placeItem p).isNone

/-- A mid-phase save of teams begins (R271). -/
def State.beginSave (s : State) (ts : List Team) : State :=
  ts.foldl (fun s u => s.modTeam u.key fun v => if v.place = .resident then { v with place := .saving } else v) s

/-- HIGH_PRIORITY_WAIT_EXPIRY (R379). -/
def execHighPriorityWaitExpiry (s : State) : Answer :=
  if s.teams.any fun t => decide (t.place = .saving) then .fault (.notEnabled "HIGH_PRIORITY_WAIT_EXPIRY")
  else
    match s.starved.findSome? fun p => (s.saveCore p).map fun c => s.victims c.2.2 p.prio with
    | none => .fault (.notEnabled "HIGH_PRIORITY_WAIT_EXPIRY")
    | some ts => .next (s.beginSave ts)

/-- A saving team's group has done what a save waits for (R271). -/
def State.saveDrained (s : State) (t : Team) : Bool :=
  decide (t.place = .saving) && (s.liveGroup t).all fun u => decide (u.place = .saving) && s.drained u

/-- A saving team's group can be written (R175, R271). -/
def State.saveReady (s : State) (t : Team) : Bool := s.saveDrained t && (s.liveGroup t).all fun u => s.recordThere u

/-- The records of teams saved in mid-phase written, their gangs' stalls over (R440), and what they held freed (R271). -/
def State.saveOut (s : State) (ts : List Team) : State :=
  let s0 := ts.foldl (fun s t => t.gangs.foldl (fun s g => s.endStalls ((s.ctxOf t).elim 0 Context.agency) t g) s) s
  let s1 := ts.foldl (fun s t =>
    match s.team? t.key with
    | some u => ((s.writeRecord u false).modTeam t.key fun v => { v with place := .out false s.clock.cycle }).emitDist u 3
    | none => s) s0
  ts.foldl (fun s t => s.blocksReturned t.core) s1

/-- MID_PHASE_SAVE_WRITE (R271). -/
def execMidPhaseSaveWrite (team : Nat) (s : State) : Answer :=
  match s.team? team with
  | none => .fault (.notEnabled "MID_PHASE_SAVE_WRITE")
  | some t =>
    if s.saveReady t then .next (s.saveOut (s.liveGroup t))
    else
      let s1 := if s.saveDrained t then s.parkRecords (s.liveGroup t) else s
      if s1 = s then .fault (.notEnabled "MID_PHASE_SAVE_WRITE") else .next s1

end Sys2Proof.Machine
end

