-- ==== Sys2Proof/Machine/Release.lean ====
section
/-!
DEFINITION. The ends of waits (R121, R126, R141, R143) and the landing of lookahead results (R50): the steps of the device
that let an issue set go on.
-/
namespace Sys2Proof.Machine

/-- Every matrix batch of a gang up to number n has retired (R297). -/
def Gang.batchesDone (g : Gang) (n : Int) : Bool := g.ops.all fun o => match o with | .mx m => decide (m.batch > n) | .move _ => true

/-- What becomes of a waiting slice when its condition is tested. -/
inductive Tested where
  | holds
  | passes
  | malformed
  deriving DecidableEq, Repr

/-- What the accesses to its phaser have made of a wait (R117, R126, R143). -/
def Fate.tested (f : Fate) : Tested := match f with | .waits => .holds | .passes => .passes | .malformed => .malformed

/-- The condition of a wait tested (R143); a boundary and a block request are tested with those of others. -/
def testWait (t : Team) (g : Gang) (k : Nat) (w : Wait) : Tested :=
  let go (b : Bool) : Tested := if b then .passes else .holds
  match w with
  | .phaser _ _ | .yield _ _ _ => Fate.tested (g.slice k).fate
  | .bar p => go (passed t.bar.phase p)
  | .syncs p => go (passed g.phaser.phase p)
  | .batchRd n => go ((g.slice k).needed false n).isEmpty
  | .batchVis n => go ((g.slice k).needed true n).isEmpty
  | .moves n => if (g.slice k).fate = .passes then .passes else go (decide ((g.moveCount : Int) ≤ n))
  | .matrix n => go (g.batchesDone n)
  | .regang _ | .boundary | .racq _ | .rett => .holds

/-- The explicit phasers on which slices of a gang wait, each once. -/
def State.awaited (s : State) (t : Team) (g : Gang) (ks : List Nat) : List (Nat × Nat) :=
  (ks.filterMap fun k =>
    match (g.slice k).wait with
    | some (.phaser a _) | some (.yield a _ _) => (match s.phaserAt t a with | .ok p => some p | .error _ => none)
    | _ => none).eraseDups

/-- A slice stands in YIELD. -/
def Slice.yields (x : Slice) : Bool := match x.wait with | some (.yield _ _ _) => true | _ => false

/-- Of the slices of a sub-gang, those in a wait of R126 whose test has an outcome. -/
def Team.tested (t : Team) (g : Gang) (ks : List Nat) (r : Tested) : List Nat :=
  ks.filter fun k =>
    match (g.slice k).wait with
    | some w => !(g.slice k).yields && decide (testWait t g k w = r)
    | none => false

/-- Slices whose phaser is malformed leave their wait with a trap owed, parted from those that wait on (R117, R126). -/
def Gang.malform (g : Gang) (ks : List Nat) : Gang := if ks = [] then g else (g.part ks).owe ks .phaserMalformed

/-- The waits of a sub-gang that pass or fail do so; none when nothing changes. -/
def State.releaseWaits (s : State) (i : IssueRef) : Option State :=
  match s.team? i.team with
  | none => none
  | some t =>
    match t.gang? i.gang with
    | none => none
    | some g =>
      let ks := g.subgang i.slice
      if !t.mayLeave g ks then none
      else
        let out := t.tested g ks .passes
        let bad := t.tested g ks .malformed
        if out ≠ [] ∨ bad ≠ [] then
          let ctx := match s.ctxOf t with | some c => c.num | none => 0
          let s0 := (s.awaited t g out).foldl State.observeAt s
          let s1 := out.foldl (fun s k =>
            match (g.slice k).wait with
            | some (.batchVis _) => s.mergeJobs ctx i.team i.gang k true
            | some (.batchRd _) => s.mergeJobs ctx i.team i.gang k false
            | _ => s) s0
          some (s1.modGang i.team i.gang fun h => (if out = [] then h else h.leave out).malform bad)
        else if ks.any fun k => decide ((g.slice k).wait = some .boundary) then
          s.boundaryTurn t fun s => s.passBoundary t
        else if ks.any fun k => (match (g.slice k).wait with | some (.racq _) => true | _ => false) then
          let s1 := s.blocksReturned t.core
          if s1.eng.racq = s.eng.racq then none else some s1
        else none

/-- WAIT_RELEASE (R143): the slices of a sub-gang whose conditions hold leave their waits. -/
def execWaitRelease (i : IssueRef) (s : State) : Answer :=
  match s.releaseWaits i with
  | some s' => .next s'
  | none => .fault (.notEnabled "WAIT_RELEASE")

/-- An issue set out of issue after YIELD comes back (R121, R126); none while its phase is not complete. -/
def State.resumeYield (s : State) (i : IssueRef) : Option State :=
  match s.team? i.team with
  | none => none
  | some t =>
    match t.gang? i.gang with
    | none => none
    | some g =>
      let ks := g.subgang i.slice
      let test (k : Nat) : Tested := match (g.slice k).wait with | some w => testWait t g k w | none => .holds
      if !t.mayLeave g ks || ks.any fun k => !(g.slice k).yields then none
      else if ks.any fun k => decide (test k = .malformed) then some (s.modGang i.team i.gang fun h => h.owe ks .phaserMalformed)
      else if ks.all fun k => decide (test k = .passes) then
        let agency := match s.ctxOf t with | some c => c.agency | none => 0
        let dest (k : Nat) : Int := match (g.slice k).wait with | some (.yield _ _ c) => c | _ => 0
        let s1 := (s.awaited t g ks).foldl State.observeAt s
        some ((s1.emitSched agency t g (-4) 0).resumeAt agency i.team i.gang (ks.map fun k => (k, dest k)))
      else none

/-- YIELD_RESUME (R121). -/
def execYieldResume (i : IssueRef) (s : State) : Answer :=
  match s.resumeYield i with
  | some s' => .next s'
  | none => .fault (.notEnabled "YIELD_RESUME")

/-- The oldest pending result of a gang whose window is used up, and whose slices stand in no sweep, which is one instruction (R50,
R59). -/
def Gang.ripe (g : Gang) : Option Pending :=
  g.pending.find? fun p => decide (p.remaining = 0) && p.slices.all fun k => (g.slice k).sweep.isNone

/-- LOOKAHEAD_RESULT_LANDS (R50): the oldest result whose window is used up lands. -/
def execLookaheadResultLands (team gang : Nat) (s : State) : Answer :=
  match s.team? team with
  | none => .fault (.notEnabled "LOOKAHEAD_RESULT_LANDS")
  | some t =>
    match t.gang? gang with
    | none => .fault (.notEnabled "LOOKAHEAD_RESULT_LANDS")
    | some g =>
      match g.ripe with
      | some p =>
        if t.onCore then .next (s.modGang team gang fun h => h.landWhere fun q => decide (q = p))
        else .fault (.notEnabled "LOOKAHEAD_RESULT_LANDS")
      | none => .fault (.notEnabled "LOOKAHEAD_RESULT_LANDS")

end Sys2Proof.Machine
end

