-- ==== Sys2Proof/Machine/Sha3.lean ====
section
/-!
DEFINITION. SHA3-256 (R454): the sponge of capacity 512 over the permutation of 1,600 bits that FIPS 202 names (log 30). The state
is kept as five sheets of five 64-bit numbers; the shifts of the lanes and the constants of the rounds are worked out by the walk
and by the shift register that define them.
-/
namespace Sys2Proof.Machine

/-- The state of the hash: lane (x, y) is number y of sheet x. -/
abbrev HashState := List (List Nat)

/-- Lane (x, y). -/
def HashState.lane (h : HashState) (x y : Nat) : Nat := (h.getD x []).getD y 0

/-- A state whose lane (x, y) is f x y. -/
def hashOf (f : Nat → Nat → Nat) : HashState := [0, 1, 2, 3, 4].map fun x => [0, 1, 2, 3, 4].map (f x)

/-- A number of 64 bits turned left by k. -/
def turnLeft (k v : Nat) : Nat := let w := v * 2 ^ (k % 64); w % 2 ^ 64 + w / 2 ^ 64

/-- The walk over the lanes other than (0, 0), with the shift of each: the t-th step, t from 1, turns by t (t + 1) / 2. -/
def laneWalk : Nat → Nat → Nat → Nat → List (Nat × Nat × Nat)
  | 0, _, _, _ => []
  | n + 1, t, x, y => (x, y, t * (t + 1) / 2) :: laneWalk n (t + 1) y ((2 * x + 3 * y) % 5)

/-- The shift of lane (x, y). -/
def laneShift (x y : Nat) : Nat :=
  match (laneWalk 24 1 1 0).find? fun w => decide (w.1 = x) && decide (w.2.1 = y) with
  | some w => w.2.2
  | none => 0

/-- The shift register of eight bits that feeds the round constants, a step further. -/
def registerNext (r : Nat) : Nat := if r < 128 then 2 * r else (2 * r) ^^^ 0x171

/-- The constant of the round that begins with a register, and the register after it: bit 2^j - 1 is the j-th bit put out. -/
def roundConstant (r : Nat) : Nat × Nat :=
  [0, 1, 2, 3, 4, 5, 6].foldl (fun c j => (c.1 + c.2 % 2 * 2 ^ (2 ^ j - 1), registerNext c.2)) (0, r)

/-- The parity of a sheet. -/
def sheetParity (h : HashState) (x : Nat) : Nat := (h.getD (x % 5) []).foldl (fun a b => a ^^^ b) 0

/-- One round with its constant: the parities of two sheets added, lanes turned and moved, each lane changed by its next two in x. -/
def hashRound (h : HashState) (c : Nat) : HashState :=
  let mixed := hashOf fun x y => h.lane x y ^^^ sheetParity h (x + 4) ^^^ turnLeft 1 (sheetParity h (x + 1))
  let moved := hashOf fun x y => let u := (x + 3 * y) % 5; turnLeft (laneShift u x) (mixed.lane u x)
  hashOf fun x y =>
    moved.lane x y ^^^ ((2 ^ 64 - 1 - moved.lane ((x + 1) % 5) y) &&& moved.lane ((x + 2) % 5) y) ^^^ (if x + y = 0 then c else 0)

/-- So many rounds from a register. -/
def hashRounds : Nat → Nat → HashState → HashState
  | 0, _, h => h
  | n + 1, r, h => let c := roundConstant r; hashRounds n c.2 (hashRound h c.1)

/-- The number that eight bytes of a block carry for a lane, least significant first. -/
def blockLane (bs : List Byte) (i : Nat) : Nat := (((bs.drop (8 * i)).take 8).map fun b => b.toNat).foldr (fun b n => b + 256 * n) 0

/-- The bytes of a message up to whole blocks of 136: the suffix 01 and the padding 10*1. -/
def hashPadded (m : List Byte) : List Byte :=
  let gap := 136 - m.length % 136
  m ++ (List.range gap).map fun i => (if i = 0 then 0x06 else 0x00) ||| (if i + 1 = gap then 0x80 else 0x00)

/-- Blocks taken in one after another, n of them. -/
def hashBlocks : Nat → List Byte → HashState → HashState
  | 0, _, h => h
  | n + 1, m, h => hashBlocks n (m.drop 136) (hashRounds 24 1 (hashOf fun x y => h.lane x y ^^^ if x + 5 * y < 17 then blockLane m (x + 5 * y) else 0))

/-- SHA3-256 of a message: 32 bytes. -/
def sha3 (m : List Byte) : List Byte :=
  let p := hashPadded m
  let h := hashBlocks (p.length / 136) p (hashOf fun _ _ => 0)
  [0, 1, 2, 3].flatMap fun x => [0, 1, 2, 3, 4, 5, 6, 7].map fun i => BitVec.ofNat 8 (h.lane x 0 / 256 ^ i)

end Sys2Proof.Machine
end

