-- ==== Sys2Proof/Machine/Trust.lean ====
section
/-!
DEFINITION. Module reset and measured boot (R454 to R456), attestation (R457), the management port (R458), readiness (R459),
self-test and repair (R461, R462), heat (R469), fabric time (R427 to R429), and the hub's periodic counting (R465 to R467).
-/
namespace Sys2Proof.Machine

/-- The boot ends with a failure (R456). -/
def State.bootFail (s : State) : State := { s with trust := { s.trust with boot := 3 } }.setReady 0xC1 3

/-- A measurement of a digest into register i, on both prism dies, which then compare their registers; a mismatch fails the boot
(R454, R456). -/
def State.measure (s : State) (i : Nat) (d : List Byte) : State :=
  let ext (m : List (List Byte)) : List (List Byte) := m.set i (sha3 (m.getD i [] ++ d))
  let s1 : State := { s with trust := { s.trust with meas0 := ext s.trust.meas0, meas1 := ext s.trust.meas1 } }
  if s1.trust.meas0 = s1.trust.meas1 then s1 else s1.bootFail

/-- Measurement register i as attestation reports it (R454). -/
def State.meas (s : State) (i : Nat) : List Byte := s.trust.meas0.getD i []

/-- MODULE_RESET (R451, R454, R456, R463): the state after reset, in which the flash, whose images the boot loads, the fused minima, the
health log, the spares used and what is out of service for want of one remain; fabric time does not go back (R362). -/
def execModuleReset (s : State) : Answer :=
  let r := State.reset
  let t := s.trust
  .next
    { r with
      clock := { r.clock with fabric := s.clock.fabric }
      hub := { r.hub with lastSnap := s.hub.lastSnap }
      trust := { r.trust with
        fused := t.fused, flash := t.flash, images := t.flash, health := t.health, written := t.written, spares := t.spares,
        temps := t.temps, downArrays := t.downArrays, downSlices := t.downSlices }
      agenda := s.agenda, turn := s.turn, agents := s.agents, draws := s.draws }

/-- The place of an image in the loading order (R455). -/
def imageIndex (k : ImageKind) : Nat := match k with | .stage1 => 0 | .runtime => 1 | .facet => 2 | .training => 3

/-- What is measured once the last image is loaded, and the end of the boot (R454, R459). -/
def State.bootEnd (s : State) : State :=
  let p := s.fab.place
  let rec5 : List Int := [p.domain, p.x, p.y, p.z, p.xs, p.ys, p.zs, Config.clockDomain]
  let versions : List Int := s.trust.images.map fun i => match i with | some m => (Config.imageVersion m.content : Int) | none => 0
  let s1 := (s.measure 5 (sha3 (Config.measured 5 rec5))).measure 6 (sha3 (Config.measured 6 versions))
  if s1.trust.boot = 3 then s1
  else
    let s2 : State := { s1 with trust := { s1.trust with boot := 1 } }
    let s3 := s2.setReady 0xC1 1
    s3.measure 7 (sha3 (Config.measured 7 (rangeZ 0 0xC2 s3.trust.ready)))

/-- An image passes the checks of its signature, under the key whose digest the ROM holds, and of its version (R455). -/
def State.imageOk (s : State) (n : Nat) (m : Image) : Bool :=
  decide (sha3 m.key = Config.keyDigest) && Config.signatureOk m.key m.content m.sig &&
    decide (s.trust.fused.getD n 0 ≤ Config.imageVersion m.content)

/-- BOOT_IMAGE_LOAD (R454 to R456): the next image in order is verified, checked against the fused minimum of its kind, which it
raises, and measured; the ROM measures itself before the first. -/
def execBootImageLoad (k : ImageKind) (s : State) : Answer :=
  let n := imageIndex k
  if s.trust.boot ≠ 0 ∨ s.trust.loaded ≠ n then .fault (.notEnabled "BOOT_IMAGE_LOAD")
  else
    let s0 := if n = 0 then s.measure 0 (sha3 Config.rom) else s
    if s0.trust.boot = 3 then .next s0
    else
      match s.trust.images.getD n none with
      | none => .next s0.bootFail
      | some m =>
        if !s.imageOk n m then .next s0.bootFail
        else
          let s1 : State := { s0 with trust := { s0.trust with fused := s0.trust.fused.set n (Config.imageVersion m.content) } }
          let s2 := s1.measure (n + 1) (sha3 m.content)
          if s2.trust.boot = 3 then .next s2
          else
            let s3 : State := { s2 with trust := { s2.trust with loaded := n + 1 } }
            .next (if n = 3 then s3.bootEnd else s3)

/-- The offset of a function in the readiness table, and the images that it needs to start (R455, R459). -/
def functionPlace (f : Function) : Nat × Nat :=
  match f with
  | .cluster c => (c.val, 3)
  | .stack k => (0x80 + k.val, 4)
  | .hostPort p => (0x90 + p.val, 2)
  | .fabricPort p => (0xA0 + p.val, 5)

/-- FUNCTION_READY (R459): a function not yet ready becomes so. A fabric port becomes ready by its discovery alone (R399). -/
def execFunctionReady (f : Function) (s : State) : Answer :=
  let p := functionPlace f
  if s.trust.boot ≠ 3 ∧ p.2 ≤ s.trust.loaded ∧ s.readyByte p.1 = 0 then .next (s.setReady p.1 1)
  else .fault (.notEnabled "FUNCTION_READY")

/-- The bytes of an entry of the health log (R463). -/
def HealthEntry.bytes (e : HealthEntry) : List Byte :=
  bytesOfInt 8 e.time ++ leBytes 1 e.event ++ leBytes 1 e.kind ++ leBytes 2 e.index ++ leBytes 4 e.spare ++ leBytes 8 e.detail ++ leBytes 8 e.rep

/-- The entry of the health log that stands at a place of its ring (R463). -/
def State.healthAt (s : State) (i : Nat) : Option HealthEntry :=
  let first := s.trust.written - s.trust.health.length
  (s.trust.health.zipIdx.find? fun e => decide ((first + e.2) % 729 = i)).map Prod.fst

/-- Byte off of BAR0 of a port, as a host reads it (R250, R369, R459, R463): the readiness table, the count of health log entries, the
health log; else a register. -/
def State.bar0Byte (s : State) (p : Fin 2) (off : Nat) : Byte :=
  if 0x3000 ≤ off ∧ off < 0x30C2 then BitVec.ofInt 8 (s.readyByte (off - 0x3000))
  else if 0x3100 ≤ off ∧ off < 0x3108 then (leBytes 8 s.trust.written).getD (off - 0x3100) 0
  else if 0xA000 ≤ off ∧ off < 0xA000 + 32 * 729 then
    match s.healthAt ((off - 0xA000) / 32) with | some e => e.bytes.getD ((off - 0xA000) % 32) 0 | none => 0
  else BitVec.ofNat 8 ((s.port p).nat off 1)

/-- A host's read of n bytes of BAR0 registers; a port that is not ready gives no answer (R391). -/
def State.registerRead (s : State) (p : Fin 2) (off n : Nat) : State :=
  if s.portReady p then s.modPort p fun h => { h with comps := h.comps ++ [⟨0, (List.range n).map fun i => s.bar0Byte p (off + i)⟩] } else s

/-- The number of an endpoint: the DOE mailboxes of the host ports, the management port. -/
def endpointNo (e : Endpoint) : Nat := match e with | .doe p => p.val | .management _ => 2

/-- An answer given at an endpoint. -/
def State.reply (s : State) (e : Nat) (bs : List Byte) : State := { s with trust := { s.trust with answers := s.trust.answers ++ [(e, bs)] } }

/-- A management frame of a kind and sequence (R458). -/
def frame (kind seq : Nat) (payload : List Byte) : List Byte :=
  leBytes 1 kind ++ leBytes 1 0 ++ leBytes 2 seq ++ leBytes 4 payload.length ++ payload

/-- A management request answered with a frame of its kind and sequence (R458). -/
def State.answerFrame (s : State) (kind seq : Nat) (payload : List Byte) : State := s.reply 2 (frame kind seq payload)

/-- The messages that the next signature at an endpoint covers (R457). -/
def State.transcript (s : State) (e : Nat) : List Byte := ((s.trust.said.find? fun q => decide (q.1 = e)).map Prod.snd).getD []

/-- The messages that the next signature at an endpoint covers, replaced. -/
def State.setTranscript (s : State) (e : Nat) (bs : List Byte) : State :=
  { s with trust := { s.trust with said := (e, bs) :: s.trust.said.filter fun q => decide (q.1 ≠ e) } }

/-- An SPDM response to a request given at an endpoint, in a frame of kind 1 at the management port; the messages are kept for the next
signature, those before it forgotten when it begins an exchange, all of them once they are signed (R457, R458); the mailbox of a
port that is not ready answers nothing (R391). -/
def respond (e : Endpoint) (first fresh : Bool) (asked : Nat × List (List Byte)) (code : Nat) (parts : List (List Byte)) (s : State) : Answer :=
  let n := endpointNo e
  let bs := Config.spdm code parts
  let s1 := s.setTranscript n (if fresh then [] else (if first then [] else s.transcript n) ++ Config.spdm asked.1 asked.2 ++ bs)
  match e with
  | .doe p => if s.portReady p then .next (s1.reply n bs) else .next s
  | .management seq => .next (s1.answerFrame 1 seq bs)

/-- The response code of an ERROR, and the codes UnsupportedRequest and InvalidRequest that it carries (R457, log 28). -/
def spdmError : Nat := 0x7F
/-- UnsupportedRequest. -/
def spdmUnsupported : List Byte := [0x07]
/-- InvalidRequest. -/
def spdmInvalid : List Byte := [0x01]

/-- The measurements that the alias key follows (R457). -/
def State.aliasInputs (s : State) : List (List Byte) := s.trust.meas0.take 4

/-- The certificate chain of a slot (R457). -/
def State.chain (s : State) (slot : Nat) : List Byte := Config.certificate slot (if slot = 1 then s.aliasInputs else [])

/-- A signature of 2,420 bytes under the key of a slot (R457, R467). -/
def State.sign (s : State) (slot : Nat) (m : List Byte) : List Byte :=
  (List.range 2420).map (Config.signatureByte slot (if slot = 1 then s.aliasInputs else []) m)

/-- GET_VERSION (R457): version 1.4; it begins an exchange. -/
def execGetVersion (e : Endpoint) (s : State) : Answer :=
  respond e true false (0x84, []) 0x04 [[0x00, 0x14]] s
/-- GET_CAPABILITIES (R457): certificates, challenges and signed measurements; no sessions (log 28). -/
def execGetCapabilities (e : Endpoint) (s : State) : Answer := respond e false false (0xE1, []) 0x61 [leBytes 4 0x16] s
/-- NEGOTIATE_ALGORITHMS (R457): ML-DSA-44 and SHA3-256, as far as the requester offers them. -/
def execNegotiateAlgorithms (e : Endpoint) (mldsa44 sha : Bool) (s : State) : Answer :=
  let offer : List (List Byte) := [[if mldsa44 then 1 else 0], [if sha then 1 else 0]]
  if !mldsa44 && !sha then respond e false false (0xE3, offer) spdmError [spdmUnsupported] s else respond e false false (0xE3, offer) 0x63 offer s
/-- GET_DIGESTS (R457): the digests of the chains of slots 0 and 1. -/
def execGetDigests (e : Endpoint) (s : State) : Answer :=
  respond e false false (0x81, []) 0x01 [sha3 (s.chain 0), sha3 (s.chain 1)] s
/-- GET_CERTIFICATE (R457). -/
def execGetCertificate (e : Endpoint) (slot : Nat) (s : State) : Answer :=
  let asked := (0x82, [leBytes 1 slot])
  if slot ≤ 1 then respond e false false asked 0x02 [s.chain slot] s else respond e false false asked spdmError [spdmInvalid] s
/-- CHALLENGE (R457): the signature covers the messages of the exchange up to it, the nonce in the request among them. -/
def execChallenge (e : Endpoint) (slot : Nat) (nonce : List Byte) (s : State) : Answer :=
  let asked : Nat × List (List Byte) := (0x83, [leBytes 1 slot, nonce])
  let head : List (List Byte) := [leBytes 1 slot, sha3 (s.chain slot), nonce]
  if slot ≤ 1 then
    let m := s.transcript (endpointNo e) ++ Config.spdm asked.1 asked.2 ++ Config.spdm 0x03 head
    respond e false true asked 0x03 (head ++ [s.sign slot m]) s
  else respond e false false asked spdmError [spdmInvalid] s
/-- The measurement block of index i + 1, which holds register i in DMTF digest form (R457, log 28): index, measurement specification, size,
type, size of the digest, digest. -/
def State.measBlock (s : State) (i : Nat) : List Byte :=
  leBytes 1 (i + 1) ++ leBytes 1 1 ++ leBytes 2 35 ++ [Config.measurementType i] ++ leBytes 2 32 ++ s.meas i
/-- GET_MEASUREMENTS (R457): the count of blocks, all blocks, or block i + 1, which holds register i. -/
def execGetMeasurements (e : Endpoint) (idx : Nat) (s : State) : Answer :=
  let asked := (0xE0, [leBytes 1 idx])
  if idx = 0 then respond e false false asked 0x60 [leBytes 1 9] s
  else if idx ≤ 9 then respond e false false asked 0x60 [leBytes 1 1, s.measBlock (idx - 1)] s
  else if idx = 255 then respond e false false asked 0x60 (leBytes 1 9 :: (List.range 9).map s.measBlock) s
  else respond e false false asked spdmError [spdmInvalid] s

/-- PLACEMENT_RECORD_WRITE (R397, R454, R460): the record takes effect and is measured into M8, and frozen peers are released;
a record outside the bounds of R397 changes nothing. -/
def execPlacementRecordWrite (p : Placement) (bytes : Framed (List Byte)) (s : State) : Answer :=
  if placementOk p then
    .next ((({ s with fab := { s.fab with place := p, frozen := [], refusals := [] } } : State).measure 8 (sha3 bytes.body)).answerFrame 2 bytes.seq [])
  else .next (s.answerFrame 2 bytes.seq [])

/-- A number as bytes, least significant first. -/
def signedBytes (n : Nat) (x : Int) : List Byte := bytesOfInt n x

/-- Fifty-four trits as eleven bytes (R245, R467). -/
def packCounter (x : Int) : List Byte :=
  (List.range 11).map fun i => BitVec.ofInt 8 (if i = 10 then sub 50 4 x + 40 else sub (5 * i) 5 x + 121)

/-- The message of a signed snapshot (R467). -/
def State.snapshotMessage (s : State) (agency : Nat) (nonce : List Byte) : List Byte :=
  signedBytes 2 s.modul ++ signedBytes 1 agency ++ [0] ++ nonce ++ signedBytes 8 s.hub.lastSnap ++
    ((rangeZ (10 * agency) 10 s.hub.snaps).flatMap packCounter) ++ s.meas 2

/-- SIGNED_SNAPSHOT (R467). -/
def execSignedSnapshot (agency : Nat) (nonce : Framed (List Byte)) (s : State) : Answer :=
  if nonce.body.length ≠ 32 ∨ 255 < agency then .fault (.notEnabled "SIGNED_SNAPSHOT")
  else if 242 < agency then .next (s.answerFrame 3 nonce.seq [])
  else
    let s1 := s.snapshot agency
    let m := s1.snapshotMessage agency nonce.body
    .next (s1.answerFrame 3 nonce.seq (m ++ s1.sign 1 m))

/-- FLASH_WRITE (R456): for the next module reset. -/
def execFlashWrite (k : ImageKind) (img : Framed Image) (s : State) : Answer :=
  .next ({ s with trust := { s.trust with flash := s.trust.flash.set (imageIndex k) (some img.body) } }.answerFrame 4 img.seq [])

/-- MALFORMED_MANAGEMENT_FRAME (R458): dropped and counted in the health log. -/
def execMalformedManagementFrame (kind len datagram : Nat) (s : State) : Answer :=
  if (1 ≤ kind ∧ kind ≤ 4) ∧ len + 8 = datagram then .fault (.notEnabled "MALFORMED_MANAGEMENT_FRAME")
  else .next (s.health 10 0 0 noSpare kind)

/-- The pool of spares that repairs a unit, as a key, and how many it holds (R461). -/
def sparePool (u : TestUnit) : Nat × Nat :=
  match u with
  | .core n => (n / 8, 1)
  | .arrayColumn c _ => (1024 + c, 3)
  | .cacheRow h _ => (4096 + h, 81)
  | .hbmRow k _ => (8192 + k, Config.spareRows)
  | .ucieLane _ => (9000, Config.spareLanes)

/-- A unit exists. -/
def unitOk (u : TestUnit) : Bool :=
  match u with
  | .core n => decide (n < 1024)
  | .arrayColumn c _ => decide (c < 1024)
  | .cacheRow h _ => decide (h < 432)
  | .hbmRow k _ => decide (k < 16)
  | .ucieLane _ => true

/-- The spare core takes the exposed number: a team that last ran on that number will have moved when it resumes there (R273,
R274). -/
def State.replaceCore (s : State) (n : Nat) : State :=
  { s with teams := mapIf (fun t => decide (t.lastCore = n)) (fun t => { t with swapped := true }) s.teams }

/-- The teams of a cluster saved, to be resumed on others (R462). -/
def State.emptyCluster (s : State) (c : Nat) : State :=
  let gone (t : Team) : Bool := match t.home with | some n => decide (n / 8 = c) | none => false
  let s1 : State := { s with teams := mapIf gone (fun t => { t with home := none }) s.teams }
  s1.beginSave (s1.teams.filter fun t => decide (t.core / 8 = c) && !t.ended)

/-- A repair that finds no spare (R462). -/
def State.outOfService (s : State) (u : TestUnit) : State :=
  let s1 := s.logUnit 6 u noSpare
  match u with
  | .core n => (s1.setReady (n / 8) 3).emptyCluster (n / 8)
  | .arrayColumn c _ => { s1 with trust := { s1.trust with downArrays := c / 2 * 2 :: s1.trust.downArrays } }
  | .cacheRow h _ =>
    let ls := (s1.mem.cache.filter fun x => decide (homeSlice x.line = h)).map CacheLine.line
    let s2 := ls.foldl State.evict s1
    { s2 with trust := { s2.trust with downSlices := h :: s2.trust.downSlices } }
  | .hbmRow k _ => s1.setReady (0x80 + k) 3
  | .ucieLane _ => s1

/-- The end of a self-test (R461, R462): its outcome and, for a lasting fault, the repair. -/
def State.testEnd (s : State) (u : TestUnit) (lasting : Bool) : State :=
  if !lasting then s.logUnit 3 u noSpare
  else
    let s1 := s.logUnit 4 u noSpare
    let p := sparePool u
    let used := (getZ p.1 s1.trust.spares).toNat
    if used < p.2 then
      let s2 : State := { s1 with trust := { s1.trust with spares := setZ p.1 ((used + 1 : Nat) : Int) s1.trust.spares } }
      let s3 := s2.logUnit (match u with | .ucieLane _ => 9 | _ => 5) u used
      match u with | .core n => s3.replaceCore n | _ => s3
    else s1.outOfService u

/-- The teams of a core moved aside before its self-test, with their groups, each to come back to the core number that it has (R274,
R461). -/
def State.moveAside (s : State) (core : Nat) : State :=
  let ts := (((s.teamsOn core).filter fun t => !t.ended).flatMap fun t => s.groupOf t).filter fun t => t.onCore && !t.ended
  ts.foldl (fun s t => s.modTeam t.key fun u => { u with home := some u.core }) (s.beginSave ts)

/-- The work of a unit moved aside as its test begins (R461): a core's teams are saved, the slice of a cache row writes its dirty lines back
and bypasses the row; the operations of a pair wait while a column of its arrays is tested. -/
def State.beginTest (s : State) (u : TestUnit) : State :=
  match u with
  | .core n => s.moveAside n
  | .cacheRow h r =>
    ((s.mem.cache.filter fun x => decide (homeSlice x.line = h) && (x.dirty || decide (Config.cacheRow x.line = r))).map CacheLine.line).foldl
      State.evict s
  | _ => s

/-- A self-test triggered by an error of a unit (R461): it begins at once, or after those of its cluster whose errors came before. -/
def State.triggerTest (s : State) (u : TestUnit) : State :=
  if s.trust.testing.contains u then s
  else
    let s1 := s.setTesting (s.trust.testing ++ [u])
    if s1.underTest u then s1.beginTest u else s1

/-- An error of a unit, corrected or uncorrectable: it is logged and triggers the unit's self-test (R461, R463). -/
def State.unitError (s : State) (u : TestUnit) (corrected : Bool) : State :=
  if unitOk u then (s.logUnit (if corrected then 1 else 2) u noSpare).triggerTest u else s

/-- The self-test of a unit whose turn has come in a cluster begins. -/
def State.nextTest (s : State) (u : TestUnit) : State :=
  match unitCluster u with
  | some c => (match s.testedIn c with | some v => s.beginTest v | none => s)
  | none => s

/-- SELF_TEST_COMPLETE (R461, R462): the test of a unit that an error has triggered ends; a core's once its teams are saved. -/
def execSelfTestComplete (u : TestUnit) (lasting : Bool) (s : State) : Answer :=
  let saved : Bool := match u with | .core n => decide (s.teamsOn n = []) | _ => true
  if !unitOk u || !s.underTest u || !saved then .fault (.notEnabled "SELF_TEST_COMPLETE")
  else .next (((s.setTesting (s.trust.testing.filter fun v => decide (v ≠ u))).testEnd u lasting).nextTest u)

/-- A die's temperature recorded. -/
def State.setTemp (s : State) (die temp : Nat) : State := { s with trust := { s.trust with temps := setZ die temp s.trust.temps } }

/-- THERMAL_THROTTLE (R469): a sensor's temperature up to 95 °C; the health log records the onset above 75 °C. What is withheld
changes no result. -/
def execThermalThrottle (die temp : Nat) (s : State) : Answer :=
  if 18 ≤ die ∨ 95 < temp then .fault (.notEnabled "THERMAL_THROTTLE")
  else
    let s1 := s.setTemp die temp
    .next (if 75 < temp ∧ getZ die s.trust.temps ≤ 75 then s1.health 0 0 die noSpare temp else s1)

/-- THERMAL_SHUTDOWN (R469): above 95 °C every cluster is forced to gate and work is frozen. -/
def execThermalShutdown (die temp : Nat) (s : State) : Answer :=
  if 18 ≤ die ∨ temp ≤ 95 then .fault (.notEnabled "THERMAL_SHUTDOWN")
  else .next ((List.range 128).foldl (fun s c => if s.scope.gated.contains c then s else s.gate c true) (s.setTemp die temp))

/-- The fabric time byte of the readiness table (R428, R459). -/
def State.markTime (s : State) : State :=
  s.setReady 0xC0 (if s.clock.bounds.all fun b => decide (0 ≤ b) then 1 else 0)

/-- Synchronisation records of every source that holds work of an agency that is traced, or has written for it (R429). -/
def State.syncAll (s : State) : State :=
  s.scope.cfgs.foldl (fun s c => ((List.range 3255).filter fun n => c.wrote.contains n || s.worksFor c.agency n).foldl (fun s src => s.traceStream c.agency src s.clock.cycle true []) s) s

/-- Fabric time corrected (R429): forward by more than 1 ms in a step, after which every source that holds a trace configuration writes
a synchronisation record and the deadlines passed fall; else slewed as time passes. -/
def State.correctTime (s : State) (d : Int) : State :=
  if d > 1000000 then ({ s with clock := { s.clock with fabric := s.clock.fabric + d, slew := 0, slewed := 0 } } : State).syncAll.deadlines
  else { s with clock := { s.clock with slew := d, slewed := 0 } }

/-- A message of the exchange that measures the offset from the time transmitter (R427): its time of leaving, in the message itself or in
a follow-up; then the delay request is sent; its answer tells when it came, and corrects fabric time. -/
def State.ptpStep (s : State) (m : PtpMsg) : State :=
  let now := s.clock.fabric
  let put (p : PtpState) : State := { s with clock := { s.clock with ptp := p } }
  let q := s.clock.ptp
  match m with
  | .sync n t => put { seq := n, left := t, came := now, asked := t.map fun _ => now }
  | .followUp n t => if n = q.seq ∧ q.left = none then put { q with left := some t, asked := some now } else s
  | .delayResp n t =>
    match q.left, q.asked with
    | some t1, some t3 =>
      if n = q.seq then (put { q with left := none, asked := none }).correctTime (-((q.came - t1 - (t - t3)) / 2)) else s
    | _, _ => s

/-- PTP_MESSAGE (R427 to R429): a message of the clock's domain, and the skew bounds that it leaves the dies with; one of another
domain does nothing. -/
def execPtpMessage (p : PtpUpdate) (s : State) : Answer :=
  let b (i : Nat) : Int := let v := p.bounds.getD i (-1); if 0 ≤ v ∧ v ≤ 13 then v else -1
  if p.domain ≠ Config.clockDomain then .next s
  else .next ((({ s with clock := { s.clock with bounds := (List.range 18).map b } } : State).markTime).ptpStep p.msg)

/-- FABRIC_TIME_HOLDOVER (R428): a locked die whose messages stop; its bound is its estimated error, up to 13 ns. -/
def execFabricTimeHoldover (die : Nat) (err : Nat) (s : State) : Answer :=
  let old := s.clock.bounds.getD die (-1)
  if 18 ≤ die ∨ old < 0 then .fault (.notEnabled "FABRIC_TIME_HOLDOVER")
  else
    let v : Int := if 13 < err then -1 else Max.max old err
    .next ({ s with clock := { s.clock with bounds := s.clock.bounds.set die v } } : State).markTime

/-- Core cycles between two updates of the energy counters (R465). -/
def energyPeriod : Nat := 19683

/-- ENERGY_ESTIMATE_UPDATE (R465). -/
def execEnergyEstimateUpdate (s : State) : Answer :=
  if s.clock.cycle / energyPeriod ≤ s.hub.energyAt / energyPeriod then .fault (.notEnabled "ENERGY_ESTIMATE_UPDATE")
  else
    let work (a : Nat) : List Int := rangeZ (10 * a) 8 s.hub.counters ++ rangeZ (2 * a) 2 s.hub.accesses
    let est (a : Nat) : Int := if (work a).all fun v => decide (v = 0) then 0 else wrap 54 (Config.energy (s.meas 2) (work a))
    let cs := (List.range 243).foldl (fun m a => setZ (10 * a + 8) (est a) m) s.hub.counters
    .next { s with hub := { s.hub with counters := cs, energyAt := s.clock.cycle } }

/-- The cycles since the last count, for every gang slot occupied (R465). -/
def State.countResidency (s : State) : State :=
  let n := s.clock.cycle - s.hub.resAt
  let agencies := ((s.ctxs.map Context.agency).foldl (fun l a => insertNat a l) []).filter fun a => decide (0 < s.slotsOf a)
  let s1 := agencies.foldl (fun s a => s.count a 7 ((n * s.slotsOf a : Nat) : Int)) s
  { s1 with hub := { s1.hub with resAt := s.clock.cycle } }

/-- RESIDENCY_CYCLE_COUNT (R465): the counting that goes with the passing of time. -/
def execResidencyCycleCount (s : State) : Answer :=
  if s.clock.cycle ≤ s.hub.resAt then .fault (.notEnabled "RESIDENCY_CYCLE_COUNT") else .next s.countResidency

end Sys2Proof.Machine
end

