-- ==== Sys2Proof/Machine/Pass.lean ====
section
/-!
DEFINITION. How time passes between two actions of the machine: the clocks, and what takes place at its own instants meanwhile: join
units (R383), synchronisation records and samples (R434, R443), ends of stalls (R440), deadlines (R410, R411, R418), residency (R465).
-/
namespace Sys2Proof.Machine

/-- The clocks when the cycle count stands at m (R429, R430): 19 cycles take 10 ns, and a correction is slewed at no more than 100 ppm,
one nanosecond in 19,000 cycles; fabric time does not go back. -/
def Clock.to (c : Clock) (m : Nat) : Clock :=
  let n := m - c.cycle
  let q := 10 * n + c.part
  let k := Nat.min c.slew.natAbs (Nat.min ((c.slewed + n) / 19000) (q / 19))
  let d : Int := if c.slew < 0 then -(k : Int) else k
  { c with
    cycle := m, fabric := c.fabric + ((q / 19 : Nat) : Int) + d, part := q % 19, slew := c.slew - d,
    slewed := if c.slew = 0 then 0 else c.slewed + n - 19000 * k }

/-- The cores that have teams. -/
def State.coresUsed (s : State) : List Nat := (s.teams.map Team.core).eraseDups

/-- The join unit of a core in n cycles: at most one pattern fires in each (R383); the first number bounds the work, since each handler
takes a gang slot. -/
def State.joinsAt (core : Nat) : Nat → Nat → State → State
  | 0, _, s => s
  | f + 1, n, s =>
    if s.gated core then s
    else
      match s.nextPattern core with
      | none => s
      | some (t, i) => if n = 0 then s else State.joinsAt core f (n - 1) (s.firePattern t i)

/-- The stalls that the trace imposes on gangs whose agencies hold no record any more are over (R440). -/
def State.endPressure (s : State) : State :=
  s.teams.foldl (fun s t =>
    if s.heldRecords (s.teamAgency t) ≠ 0 then s
    else t.gangs.foldl (fun s g =>
      let ks := g.liveSlices.filter fun k => decide ((g.slice k).sub = k) && decide ((g.slice k).stall = some .trace)
      if ks = [] then s
      else (ks.foldl (fun s k => s.stallOver (s.teamAgency t) t g k s.clock.cycle) s).modGang t.key g.idx fun y =>
        y.modSlices y.liveSlices fun _ z => if z.stall = some .trace then { z with stall := none } else z) s) s

/-- A gang stands in a stall of the trace that may end. -/
def State.pressed (s : State) : Bool :=
  s.teams.any fun t => (t.gangs.any fun g => g.liveSlices.any fun k => decide ((g.slice k).stall = some .trace)) &&
    decide (s.heldRecords (s.teamAgency t) = 0)

/-- The periodic synchronisation records of this cycle (R434). -/
def State.syncsNow (s : State) : State :=
  s.scope.cfgs.foldl (fun s c =>
    if s.clock.cycle % 3 ^ (c.dbl 5).toNat ≠ 0 then s
    else (List.range 3255).foldl (fun s n => s.after (execSyncRecordPeriodic c.agency n s.clock.cycle s)) s) s

/-- The samples of this cycle (R443). -/
def State.samplesNow (s : State) : State :=
  if s.scope.sampling = [] then s
  else s.schedulers.foldl (fun s k => s.after (execSampleTick (k / 3) (k % 3) s.clock.cycle s)) s

/-- The later cycles at which something takes place by itself. -/
def State.instants (s : State) : List Nat :=
  let c := s.clock.cycle
  let next (k : Nat) : Nat := (c / 3 ^ k + 1) * 3 ^ k
  (if s.pressed || s.coresUsed.any fun n => !s.gated n && (s.nextPattern n).isSome then [c + 1] else []) ++
    (s.scope.cfgs.map fun f => next (f.dbl 5).toNat) ++ (s.scope.sampling.map fun p => next p.2) ++
    s.reds.flatMap fun r => (s.redTimes r).map s.clock.cycleAt

/-- Cycle m comes: what takes place by itself up to its beginning, with its synchronisation records first (R422); the join unit of a core
that is named leaves this cycle to its own step. -/
def State.comes (s : State) (own : Option Nat) (m : Nat) : State :=
  let n := m - s.clock.cycle
  let s1 := ({ s with clock := s.clock.to m, issued := [] } : State).countResidency
  let s2 := s1.syncsNow.endPressure
  (s2.coresUsed.foldl (fun s c => State.joinsAt c 27 (if own = some c then n - 1 else n) s) s2).deadlines

/-- Cycles up to a target come, one instant after another; the samples of a cycle are taken as it ends. -/
def State.passTo (own : Option Nat) (target : Nat) : Nat → State → State
  | 0, s => s
  | f + 1, s =>
    if target ≤ s.clock.cycle then s
    else
      let s1 := s.samplesNow
      let m := s1.instants.foldl Nat.min target
      State.passTo own target f (s1.comes (if m = target then own else none) m)

/-- Time passes: every step takes at least one cycle, and no rule says how many (log 20); one that has taken snapshots lasts until the last
of them (R451). -/
def State.pass (s : State) (own : Option Nat) : State :=
  let snap := if s.clock.fabric < s.hub.lastSnap then s.clock.cycleAt s.hub.lastSnap - s.clock.cycle else 0
  let n := Nat.max (1 + (Config.free (s.draws + 1)).natAbs) snap
  let s1 := { s with draws := s.draws + 3 }
  if s1.instants = [] then ({ s1 with clock := s1.clock.to (s1.clock.cycle + n), issued := [] } : State).countResidency
  else State.passTo own (s1.clock.cycle + n) n s1

/-- The words are of an instruction that neither makes a slice see anything in S nor lets others see it: one on registers, a branch, NOP, or a
load, which sees to its own place in S. -/
def quietWords (ws : List Int) : Bool :=
  let p := prefixes ws
  let w := p.2.headD 0
  let m := majorOf w
  p.1.sweep.isNone &&
    (([1, 2, 3, 4, 5, 6, 14, 15, 16, 17, 18, 29] : List Int).contains m || (decide (m = 7) && decide (sub 20 3 w = 0)) ||
      ((decide (m = 9) || decide (m = 19)) && decide (0 < sub 20 3 w)))

/-- The slices of a core stand behind everything in S after what was done last: an instruction of the core that is not quiet, a step
of an agent, or a gang begun or changed as time passed, the state having been s before (log 39). -/
def State.abreast (s t : State) (core : Nat) : Bool :=
  (match s.cur with
    | some i => !quietWords i.words && (match s.team? i.team with | some u => decide (u.core = core) | none => true)
    | none => true) || decide (t.teams ≠ s.teams)

/-- Time passes before a step, unless the turn that follows takes place in the same cycle. -/
def State.elapse (s : State) : State :=
  match s.agenda with
  | .still :: rest => { s with agenda := rest, draws := s.draws + 3 }
  | .event (.joinUnitCycle core) :: _ => s.pass (some core)
  | _ => s.pass none

/-- The beginning of a step: time passes, and leases that what was done last has outdated end. -/
def State.begin (s : State) : State := s.elapse.catchUp (s.abreast s.elapse)

end Sys2Proof.Machine
end

