-- ==== Sys2Proof/Machine/Agents.lean ====
section
/-!
DEFINITION. What the device's own agents may do next when the agenda names nothing: steps of the device that their state
suggests, in the order in which the model tries them (log 1). Steps that the outside world takes (hosts, peers, the
management port, heat, errors), the boot and speculative walks stand in the agenda alone.
-/
namespace Sys2Proof.Machine

/-- The issue sets of gangs on their cores, one for each slice. -/
def State.issueRefs (s : State) : List IssueRef :=
  (s.teams.filter Team.onCore).flatMap fun t => t.gangs.flatMap fun g => g.liveSlices.map fun k => ⟨t.key, g.idx, k⟩

/-- Steps that end what gangs wait for (R50, R121, R143). -/
def State.dueReleases (s : State) : List Instr :=
  (s.issueRefs.flatMap fun i => [.waitRelease i, .yieldResume i]) ++
  s.teams.flatMap fun t => t.gangs.flatMap fun g => [.lookaheadResultLands t.key g.idx, .engineWatchStop t.key g.idx]

/-- Steps of the copy and job engines (R205, R217, R241). -/
def State.dueEngines (s : State) : List Instr :=
  (s.eng.copies.flatMap fun c => [.laneCopyReadDone c.id, .laneCopyVisible c.id, .faultedCopyFinish c.id]) ++
  s.ctxs.flatMap fun c =>
    (c.jobs.flatMap fun j =>
      [.jobStart c.num j.num, .jobAccess c.num j.num, .jobReadDone c.num j.num, .jobVisibleCompletion c.num j.num,
       .m2mJobAck c.num j.num, .faultedJobFinish c.num j.num]) ++
    c.reds.map fun r => .contributionSourceRead c.num r.num

/-- Steps of the memory side: updates, translations, held posts (R191, R231, R343). -/
def State.dueMemory (s : State) : List Instr :=
  s.eng.redms.map (fun r => .redmUpdate r.id) ++ s.xlate.invs.map (fun v => .tlbinvComplete v.id) ++
    s.eng.posts.map fun p => .heldSignalPostLand p.id

/-- Steps of the matrix pairs (R295, R300, R324). -/
def State.dueMatrix (s : State) : List Instr :=
  s.teams.flatMap fun t =>
    [.matrixOpEnterArray t.core, .matrixOpRetire t.core] ++ t.gangs.map (fun g => .tileMoveLand t.key g.idx) ++
      t.passing.map fun p => .tokenPass t.key (Fin.ofNat 27 p.1)

/-- Steps of the distributor and the queue processors (R149, R271, R370, R375, R379); the join units act as time passes. -/
def State.dueScheduling (s : State) : List Instr :=
  (s.teams.flatMap fun t => [.teamEnd t.key, .midPhaseSaveWrite t.key]) ++
  s.grids.map (fun g => .gridCompletion g.num) ++ [.distributorPlace, .highPriorityWaitExpiry] ++
  ([0, 1] : List (Fin 2)).flatMap fun p =>
    let h := s.port p
    ((match h.serving with | some v => some v.queue | none => h.nextQueue).map fun q => Instr.queueEntryProcess p (Fin.ofNat 27 q)).toList

/-- Steps of the fabric and of reductions (R402 to R404, R408 to R418, R460). -/
def State.dueFabric (s : State) : List Instr :=
  [.remoteRequestServe, .atomicServe, .reductionContributionArrive] ++
  (s.fab.inbox.filterMap fun q => match q.msg with | .fence m => some (.fenceAnnouncement m) | _ => none) ++
  (s.reds.flatMap fun r =>
    [.flagFall r.key, .rootWrite r.key, .rootWriteTimeout r.key, .correctionApply r.key, .reductionClose r.key, .reductionMapExpiry r.key]) ++
  (List.finRange 27).filterMap (fun p => if s.portLive p.val then some (.linkDownTimeout p) else none) ++
  (s.modul :: s.fab.lost.map Prod.fst).map fun m => .moduleFence m

/-- Steps of Periscope (R440); synchronisation records and samples are made as time passes. -/
def State.dueTrace (s : State) : List Instr :=
  s.scope.cfgs.flatMap fun c => (sortNats (c.holds.map Held.src)).map fun src => Instr.traceHoldDrain c.agency src

/-- Steps of the hub's counting (R465). -/
def State.dueHub : List Instr := [.energyEstimateUpdate]

/-- The steps that the device's agents may take, in the order in which they are tried. -/
def State.due (s : State) : List Instr :=
  s.dueReleases ++ s.dueEngines ++ s.dueMemory ++ s.dueMatrix ++ s.dueFabric ++ s.dueScheduling ++ s.dueTrace ++ State.dueHub

/-- The first of the steps that changes the state. -/
def firstStep {α : Type} (ex : α → State → Answer) (s : State) : List α → Option Answer
  | [] => none
  | i :: is =>
    match ex i s with
    | .next t => if t = s then firstStep ex s is else some (.next t)
    | _ => firstStep ex s is

/-- Another state, if it is one. -/
def State.onto (s t : State) : Option State := if t = s then none else some t

/-- The oldest fault kept for a log that the device reaches only by waiting, stored there a step further (R175, R192, R402). -/
def State.logChore (s : State) (c : Nat) : Option State :=
  let p : Parker := .log c
  let off (s : State) : State :=
    let fs := s.eng.faults
    { s.dropWaits p with eng := { s.eng with faults := fs.eraseIdx (fs.findIdx fun f => decide (f.ctx = c)) } }
  match s.ctx? c, s.eng.faults.find? fun f => decide (f.ctx = c) with
  | some x, some f =>
    let w := Who.device x
    if s.xlate.parked.any fun q => decide (q.who = p) then none
    else
      match s.engineRead w p .load x.faultLog 18 [] with
      | .migr ps => some (s.park c p ps)
      | .wait s1 => s.onto s1
      | .bad _ _ => some (off s)
      | .ok vs _ _ =>
        let d (i : Nat) : Int := ofTrytes ((vs.drop (6 * i)).take 6)
        let ws := (logStores x.faultLog (d 0) (d 1) (d 2) f.entry).map fun q => (q.1, q.2.flatMap (toTrytes 6))
        let xs := ws.map fun q => (q.1, q.2, s.locate w .store q.1 q.2.length)
        match xs.flatMap fun q => match q.2.2 with | .migr ps => ps | _ => [] with
        | m :: ms => some (s.park c p (m :: ms))
        | [] =>
          let cs : Cells := xs.flatMap fun q => match q.2.2 with | .ok ls => cellsAt q.1 ls q.2.1 | _ => []
          match s.enterAll p w false cs with
          | .error s1 => s.onto s1
          | .ok s1 => some ((off s1).modCtx c fun y => { y with halted := true })
  | none, some _ => some (off s)
  | _, none => none

/-- The header of a log out of reach, whose context has halted, read again a step further (R193, R402). -/
def State.haltChore (s : State) (x : Context) : Option State :=
  let p : Parker := .log x.num
  if !x.halted || s.logWaits x.num || !s.logFar x || s.xlate.parked.any (fun q => decide (q.who = p)) then none
  else
    match s.engineRead (Who.device x) p .load x.faultLog 18 [] with
    | .migr ps => some (s.park x.num p ps)
    | .wait s1 => s.onto s1
    | .bad _ s1 => s.onto ((s1.dropWaits p).modCtx x.num fun y => { y with halted := false })
    | .ok vs _ s1 =>
      let d (i : Nat) : Int := ofTrytes ((vs.drop (6 * i)).take 6)
      some (s1.modCtx x.num fun y => { y with halted := decide (d 0 > d 1) || decide (d 2 ≠ 0) })

/-- The leases that have lasted their 6,561 cycles end (R186). -/
def State.leaseChore (s : State) : Option State :=
  let old (l : Lease) : Bool := decide (s.clock.cycle ≥ l.since + 6561)
  if s.mem.leases.any old then some { s with mem := { s.mem with leases := s.mem.leases.filter fun l => !old l } } else none

/-- What the device has begun and goes on with: stores of instructions that are entering S (R182), faults kept for their logs (R192),
messages that wait to leave (R396), requests and commands that the host ports hold (R252, R393), leases that end (R186). -/
def State.chore (s : State) : Option State :=
  (s.eng.stores.findSome? fun q => s.onto (s.drainStore q)).orElse fun _ =>
    s.launchNext.orElse fun _ =>
    ((s.eng.faults.map HeldFault.ctx).findSome? s.logChore).orElse fun _ =>
      (([0, 1] : List (Fin 2)).findSome? fun p => (s.retryHeld p).orElse fun _ => s.retryCommand p).orElse fun _ => s.leaseChore

/-- The first step that an agent may take: what the device has begun, one of the steps due, the freeze of a peer that was refused too
often (R460, the event PEER_FREEZE), else a look at the logs of halted contexts, which by turns comes before all of them (log 1). -/
def firstAgent (ex : Instr → State → Answer) (s : State) : Option Answer :=
  let look (_ : Unit) : Option Answer := (s.ctxs.findSome? s.haltChore).map fun t => .next t
  let rest (_ : Unit) : Option Answer :=
    (s.chore.map fun t => .next t).orElse fun _ =>
      (firstStep ex s s.due).orElse fun _ => firstStep execPeerFreeze s (s.fab.refusals.map Prod.fst)
  if s.draws / 6 % 2 = 0 then (look ()).orElse rest else (rest ()).orElse look

end Sys2Proof.Machine
end

