-- ==== Sys2Proof/Machine/VecMem.lean ====
section
/-!
DEFINITION. Vector memory: the major VMEM (R113 to R115).
-/
namespace Sys2Proof.Machine

/-- The line that the slice of lane i names (R54, R113). -/
def Iss.vmemLine (x : Iss) (f : VmemF) (i : Nat) : Int := x.s (i / 3) f.base + 81 * f.off

/-- The access of lane i of VLD or VST. -/
def Iss.vmemAcc (x : Iss) (f : VmemF) (op : AccOp) (i : Nat) : Acc :=
  let l := x.vmemLine f i
  { lanes := [i], lane := none, addr := l + 3 * (i : Int), len := 3, op := op, aligned := decide (l % 81 = 0) }

/-- The access of lane i of VGTH or VSCT, which may reach the lane's own slice (R157). -/
def Iss.vgthAcc (x : Iss) (f : VgthF) (op : AccOp) (i : Nat) : Acc :=
  let a := x.s (i / 3) f.base + x.v f.idx i
  { lanes := [i], lane := some i, addr := a, len := 3, op := op, aligned := decide (a % 3 = 0) }

/-- A vector load: the accesses of active lanes, one word each (R114). -/
def vecLoad (attr : Option Attr) (d : VReg) (named : List VReg) (la : Fin 27) (acc : Iss → Nat → Acc) (s : State) : Answer :=
  issue (fun x =>
      { Uses.none with dests := [.vec d], vregs := d :: named, accs := (x.active attr 0).map (acc x),
                       opens := if la.val = 0 ∨ x.lanes = [] then 0 else 1, leases := true })
    (fun x got s =>
      let ws := ((x.active attr 0).zipIdx.map fun p => (p.1, got.read s p.2)) ++ (x.zeroed attr 0).map fun i => (i, 0)
      .ok (x.putV la d ws 0 s)) s

/-- The lanes that a vector store writes, in ascending order: active ones and those zeroed (R114). -/
def Iss.stores (x : Iss) (attr : Option Attr) : List Nat :=
  x.lanes.filter fun i => (x.active attr 0).contains i || (x.zeroed attr 0).contains i

/-- A vector store (R114): a zeroed lane writes the zero word. -/
def vecStore (attr : Option Attr) (v : VReg) (named : List VReg) (acc : Iss → Nat → Acc) (s : State) : Answer :=
  issue (fun x => { Uses.none with vregs := v :: named, accs := (x.stores attr).map (acc x) })
    (fun x got s =>
      .ok ((x.stores attr).zipIdx.foldl (fun s p =>
        let w := if (x.active attr 0).contains p.1 then x.v v p.1 else 0
        got.write x p.2 (toTrytes 3 w) s) s)) s

/-- VLD (R114). -/
def execVld (f : VmemF) (s : State) : Answer := vecLoad f.attr f.d [] f.la (fun x i => x.vmemAcc f .load i) s
/-- VST (R114). -/
def execVst (f : VmemF) (s : State) : Answer := vecStore f.attr f.d [] (fun x i => x.vmemAcc f .store i) s
/-- VGTH (R114). -/
def execVgth (f : VgthF) (s : State) : Answer := vecLoad f.attr f.d [f.idx] f.la (fun x i => x.vgthAcc f .load i) s
/-- VSCT (R114). -/
def execVsct (f : VgthF) (s : State) : Answer := vecStore f.attr f.d [f.idx] (fun x i => x.vgthAcc f .store i) s

/-- VPF (R113, R114): no trap, no place in the order. -/
def execVpf (f : VmemF) (s : State) : Answer :=
  issue (fun _ => Uses.none)
    (fun x _ s =>
      .ok (x.slices.foldl (fun s k =>
        let a := x.vmemLine f (3 * k)
        match s.locate (x.who none) .load a 1 with
        | .ok ls => s.touch (x.who none) .load a ls
        | _ => s) s)) s

end Sys2Proof.Machine
end

