-- ==== Sys2Proof/Machine/Bmem.lean ====
section
/-!
DEFINITION. Binary loads and stores: the major BMEM (R222 to R224).
-/
namespace Sys2Proof.Machine

/-- The value of bytes, least significant first (R223). -/
def ofBytes : List Int → Int
  | [] => 0
  | b :: r => b + 256 * ofBytes r

/-- The w bytes of a value modulo 256^w, least significant first. -/
def toBytes : Nat → Int → List Int
  | 0, _ => []
  | n + 1, x => x % 256 :: toBytes n (x / 256)

/-- A form of BMEM (R222): width in bytes, two's complement or unsigned. -/
structure BinForm where
  w      : Nat
  signed : Bool
  deriving DecidableEq, Repr

/-- The largest value of a form. -/
def BinForm.top (b : BinForm) : Int := if b.signed then 2 ^ (8 * b.w - 1) - 1 else 2 ^ (8 * b.w) - 1
/-- The least value of a form. -/
def BinForm.bottom (b : BinForm) : Int := if b.signed then -(2 ^ (8 * b.w - 1)) else 0
/-- The value of the bytes of an element (R223). -/
def BinForm.value (b : BinForm) (bs : List Int) : Int := let x := ofBytes bs; if x > b.top then x - 2 ^ (8 * b.w) else x
/-- A value that does not fit a form. -/
def BinForm.outside (b : BinForm) (x : Int) : Bool := decide (x > b.top) || decide (x < b.bottom)
/-- The nearest value of a form. -/
def BinForm.clamp (b : BinForm) (x : Int) : Int := if x > b.top then b.top else if x < b.bottom then b.bottom else x

/-- The address of the element of lane i (R223). -/
def Iss.bmemAddr (x : Iss) (f : BmemF) (w : Nat) (i : Nat) : Int := x.s (i / 3) f.base + f.off * (w : Int) + (i : Int) * (w : Int)

/-- The access of lane i (R224). -/
def Iss.bmemAcc (x : Iss) (f : BmemF) (w : Nat) (op : AccOp) (i : Nat) : Acc :=
  let a := x.bmemAddr f w i
  { lanes := [i], lane := none, addr := a, len := w, op := op, aligned := decide (a % (w : Int) = 0) }

/-- The lanes whose bytes, as far as they can be read, hold a value outside the range of a word (R224). -/
def Iss.ldbFaults (x : Iss) (b : BinForm) (f : BmemF) (seen : Nat → Option (List Int)) : List (Nat × Cause × Int) :=
  (x.active f.attr 0).zipIdx.filterMap fun p =>
    match seen p.2 with
    | some bs => if outside 27 (b.value bs) then some (p.1, .conversionRange, x.bmemAddr f b.w p.1) else none
    | none => none

/-- LDB (R223, R224): a value outside the range of a word saturates or makes its lane fault. -/
def ldb (b : BinForm) (f : BmemF) (s : State) : Answer :=
  issue (fun x => { Uses.none with
      dests := [.vec f.d], vregs := [f.d], accs := (x.active f.attr 0).map (x.bmemAcc f b.w .binLoad),
      more := fun _ seen => if satOf f.attr then [] else x.ldbFaults b f seen })
    (fun x got s =>
      let vs := (x.active f.attr 0).zipIdx.map fun p => (p.1, b.value (got.readBytes s p.2))
      let ws := (vs.map fun v => (v.1, clamp 27 v.2)) ++ (x.zeroed f.attr 0).map fun i => (i, 0)
      .ok (x.putV 0 f.d ws (flagIf (vs.any fun v => outside 27 v.2) fNarrow) s)) s

/-- STB (R223): a value outside the binary range is stored as its limit. -/
def stb (b : BinForm) (f : BmemF) (s : State) : Answer :=
  issue (fun x => { Uses.none with vregs := [f.d], accs := (x.stores f.attr).map (x.bmemAcc f b.w .binStore) })
    (fun x got s =>
      let value (i : Nat) : Int := if (x.active f.attr 0).contains i then x.v f.d i else 0
      let s1 := (x.stores f.attr).zipIdx.foldl (fun s p => got.write x p.2 (toBytes b.w (b.clamp (value p.1))) s) s
      .ok (x.raise (joinAll ((x.stores f.attr).map fun i => flagIf (b.outside (value i)) fNarrow)) s1)) s

/-- LDB.s8 (R223). -/
def execLdbS8 (f : BmemF) (s : State) : Answer := ldb ⟨1, true⟩ f s
/-- LDB.s16 (R223). -/
def execLdbS16 (f : BmemF) (s : State) : Answer := ldb ⟨2, true⟩ f s
/-- LDB.s32 (R223). -/
def execLdbS32 (f : BmemF) (s : State) : Answer := ldb ⟨4, true⟩ f s
/-- LDB.s64 (R223). -/
def execLdbS64 (f : BmemF) (s : State) : Answer := ldb ⟨8, true⟩ f s
/-- LDB.z8 (R223). -/
def execLdbZ8 (f : BmemF) (s : State) : Answer := ldb ⟨1, false⟩ f s
/-- LDB.z16 (R223). -/
def execLdbZ16 (f : BmemF) (s : State) : Answer := ldb ⟨2, false⟩ f s
/-- LDB.z32 (R223). -/
def execLdbZ32 (f : BmemF) (s : State) : Answer := ldb ⟨4, false⟩ f s
/-- STB.s8 (R223). -/
def execStbS8 (f : BmemF) (s : State) : Answer := stb ⟨1, true⟩ f s
/-- STB.s16 (R223). -/
def execStbS16 (f : BmemF) (s : State) : Answer := stb ⟨2, true⟩ f s
/-- STB.s32 (R223). -/
def execStbS32 (f : BmemF) (s : State) : Answer := stb ⟨4, true⟩ f s
/-- STB.s64 (R223). -/
def execStbS64 (f : BmemF) (s : State) : Answer := stb ⟨8, true⟩ f s
/-- STB.z8 (R223). -/
def execStbZ8 (f : BmemF) (s : State) : Answer := stb ⟨1, false⟩ f s
/-- STB.z16 (R223). -/
def execStbZ16 (f : BmemF) (s : State) : Answer := stb ⟨2, false⟩ f s
/-- STB.z32 (R223). -/
def execStbZ32 (f : BmemF) (s : State) : Answer := stb ⟨4, false⟩ f s

end Sys2Proof.Machine
end

