-- ==== Sys2Proof/Machine/Mask.lean ====
section
/-!
DEFINITION. Mask instructions: the major VMASK (R111). m0 as a destination discards the result (R76).
-/
namespace Sys2Proof.Machine

/-- A mask instruction that writes a mask register: f gives the trit of lane i. -/
def vmask (d : MReg) (f : Iss → Nat → Trit) (s : State) : Answer :=
  issue (fun _ => { Uses.none with dests := if d.val = 0 then [] else [.msk d] })
    (fun x _ s => .ok (x.putMask d (x.lanes.map fun i => (i, f x i)) s)) s

/-- Trit i of mask register r. -/
def Iss.m (x : Iss) (r : MReg) (i : Nat) : Trit := tritAt i (x.gang.mask r)

/-- MMIN (R111). -/
def execMmin (d a b : MReg) (s : State) : Answer := vmask d (fun x i => Min.min (x.m a i) (x.m b i)) s
/-- MMAX (R111). -/
def execMmax (d a b : MReg) (s : State) : Answer := vmask d (fun x i => Max.max (x.m a i) (x.m b i)) s
/-- MINV (R111). -/
def execMinv (d a : MReg) (s : State) : Answer := vmask d (fun x i => -(x.m a i)) s
/-- MCON (R111). -/
def execMcon (d a b : MReg) (s : State) : Answer := vmask d (fun x i => consensus (x.m a i) (x.m b i)) s
/-- MSET (R75, R111). -/
def execMset (d : MReg) (a : SReg) (s : State) : Answer := vmask d (fun x i => tritAt i (x.uniform a)) s

/-- MGET (R111). -/
def execMget (d : SReg) (a : MReg) (s : State) : Answer :=
  issue (fun x => { Uses.none with dests := x.sDests d })
    (fun x _ s =>
      let v := (x.lanes.map fun i => x.m a i * pow3 i).sum
      .ok (x.setS d (x.slices.map fun k => (k, v)) s)) s

/-- MCNT (R111). -/
def execMcnt (d : SReg) (a : MReg) (c : Trit) (s : State) : Answer :=
  issue (fun x => { Uses.none with dests := x.sDests d })
    (fun x _ s =>
      let n := (x.lanes.filter fun i => decide (x.m a i = c)).length
      .ok (x.setS d (x.slices.map fun k => (k, (n : Int))) s)) s

end Sys2Proof.Machine
end

