-- ==== Sys2Proof/Machine/Sfu.lean ====
section
/-!
DEFINITION. The special functions of VSFU (R103), correctly rounded: the exact value is enclosed between two fractions
whose distance shrinks until both round to the same result. Enclosures are integers over 2^p.
-/
namespace Sys2Proof.Machine

/-- The special functions. -/
inductive SfuOp where
  | rcp | rsq | sqrt | exp3 | log3 | exp | log | sin | cos | tanh
  deriving DecidableEq, Repr

/-- An enclosure: lo ≤ value · 2^p ≤ hi. -/
structure Encl where
  lo : Int
  hi : Int
  deriving DecidableEq, Repr

/-- Widened by k units on both sides. -/
def Encl.widen (e : Encl) (k : Int) : Encl := ⟨e.lo - k, e.hi + k⟩
/-- The sum. -/
def Encl.add (x y : Encl) : Encl := ⟨x.lo + y.lo, x.hi + y.hi⟩
/-- The negation. -/
def Encl.neg (x : Encl) : Encl := ⟨-x.hi, -x.lo⟩
/-- The product by an integer. -/
def Encl.scale (k : Int) (x : Encl) : Encl := if k ≥ 0 then ⟨k * x.lo, k * x.hi⟩ else ⟨k * x.hi, k * x.lo⟩
/-- The square of an enclosure of a number not below 0. -/
def Encl.square (p : Nat) (x : Encl) : Encl := ⟨x.lo * x.lo / 2 ^ p, x.hi * x.hi / 2 ^ p + 1⟩

/-- A fraction as an enclosure. -/
def enclFrac (p : Nat) (x : Frac) : Encl :=
  let q := x.num * 2 ^ p / (x.den : Int)
  ⟨q, q + 1⟩

/-- Sum of a series: term t, k-th step gives the next term by next k t; n terms. -/
def series (next : Nat → Int → Int) : Nat → Nat → Int → Int → Int
  | 0, _, _, acc => acc
  | n + 1, k, t, acc => series next n (k + 1) (next k t) (acc + t)

/-- e^(r / 2^p) for |r| ≤ 2^p / 2, by its Taylor series. -/
def expSmall (p : Nat) (r : Int) : Encl :=
  let n := p + 8
  let s := series (fun k t => t * r / (2 ^ p * ((k : Int) + 1))) n 0 (2 ^ p) 0
  Encl.widen ⟨s, s⟩ (2 * n + 4)

/-- An enclosure squared n times. -/
def squareN (p : Nat) : Nat → Encl → Encl
  | 0, x => x
  | n + 1, x => squareN p n (x.square p)

/-- e^x over an enclosure of x in [0, 2048 / 2]. -/
def expEncl (p : Nat) (x : Encl) : Encl :=
  let a := squareN p 11 (expSmall p (x.lo / 2048))
  let b := squareN p 11 (expSmall p (x.hi / 2048 + 1))
  ⟨a.lo, b.hi⟩

/-- atanh(r / 2^p) for 0 ≤ r ≤ 2^p / 2. -/
def atanhPt (p : Nat) (r : Int) : Encl :=
  let n := p + 8
  let go := (List.range n).foldl
    (fun (a : Int × Int) k => (a.1 * r / 2 ^ p * r / 2 ^ p, a.2 + a.1 / (2 * (k : Int) + 1))) (r, 0)
  Encl.widen ⟨go.2, go.2⟩ (4 * n + 4)

/-- ln 2. -/
def ln2 (p : Nat) : Encl := Encl.scale 2 (Encl.widen (atanhPt p (2 ^ p / 3)) 4)

/-- ln of a positive fraction. -/
def lnEncl (p : Nat) (x : Frac) : Encl :=
  let n := x.num.toNat
  let d := x.den
  let k : Int := (Nat.log2 n : Int) - (Nat.log2 d : Int)
  let n' := if k ≥ 0 then n else n * 2 ^ (-k).toNat
  let d' := if k ≥ 0 then d * 2 ^ k.toNat else d
  let up := n' ≥ d'
  let n2 := if up then n' else 2 * n'
  let k2 := if up then k else k - 1
  let z := ((n2 : Int) - d') * 2 ^ p / ((n2 : Int) + d')
  Encl.add (Encl.scale k2 (ln2 p)) (Encl.scale 2 (Encl.widen (atanhPt p z) 4))

/-- arctan(1 / k). -/
def atanInv (p k : Nat) : Encl :=
  let n := p + 8
  let t0 : Int := 2 ^ p / (k : Int)
  let go := (List.range n).foldl
    (fun (a : Int × Int) i => (-(a.1 / ((k * k : Nat) : Int)), a.2 + a.1 / (2 * (i : Int) + 1))) (t0, 0)
  Encl.widen ⟨go.2, go.2⟩ (4 * n + 4)

/-- π / 2, by Machin's formula. -/
def halfPi (p : Nat) : Encl := Encl.add (Encl.scale 8 (atanInv p 5)) (Encl.neg (Encl.scale 2 (atanInv p 239)))

/-- sin or cos of r / 2^p for |r| ≤ 2^p. -/
def sinPt (p : Nat) (cosine : Bool) (r : Int) : Encl :=
  let n := p / 2 + 8
  let q := r * r / 2 ^ p
  let t0 : Int := if cosine then 2 ^ p else r
  let o : Int := if cosine then 1 else 2
  let s := series (fun k t => -(t * q / 2 ^ p / ((2 * (k : Int) + o) * (2 * (k : Int) + o + 1)))) n 0 t0 0
  Encl.widen ⟨s, s⟩ (4 * n + 8)

/-- The hull of two enclosures. -/
def Encl.hull (x y : Encl) : Encl := ⟨Min.min x.lo y.lo, Max.max x.hi y.hi⟩

/-- sin x, or cos x, at precision p. -/
def trigEncl (p : Nat) (cosine : Bool) (x : Frac) : Encl :=
  let hp := halfPi (p + 640)
  let m := hp.lo
  let s := x.num * 2 ^ (p + 640) / (x.den : Int)
  let q := (2 * s + m) / (2 * m)
  let r := Encl.add ⟨s, s + 1⟩ (Encl.neg (Encl.scale q hp))
  let lo := r.lo / 2 ^ 640
  let hi := r.hi / 2 ^ 640 + 1
  let j := (if cosine then q + 1 else q) % 4
  let v (c : Bool) : Encl :=
    let h := Encl.hull (sinPt p c lo) (sinPt p c hi)
    if c && decide (lo ≤ 0) && decide (0 ≤ hi) then ⟨h.lo, Max.max h.hi (2 ^ p)⟩ else h
  if j = 0 then v false else if j = 1 then v true else if j = 2 then (v false).neg else (v true).neg

/-- e^x for a fraction x of magnitude at most 500. -/
def expFrac (p : Nat) (x : Frac) : Frac × Frac :=
  if x.num ≥ 0 then
    let e := expEncl p (enclFrac p x)
    (⟨e.lo, 2 ^ p⟩, ⟨e.hi, 2 ^ p⟩)
  else
    let e := expEncl p (enclFrac p x.neg)
    (⟨2 ^ p, e.hi.toNat⟩, ⟨2 ^ p, e.lo.toNat⟩)

/-- 3^k as a fraction. -/
def pow3Frac (k : Int) : Frac := Scaled.frac ⟨1, k⟩

/-- 3^-2000, which every rounding treats as any other value that small. -/
def tiny : Frac := pow3Frac (-2000)

/-- An enclosure as two fractions. -/
def Encl.fracs (p : Nat) (e : Encl) : Frac × Frac := (⟨e.lo, 2 ^ p⟩, ⟨e.hi, 2 ^ p⟩)

/-- Two fractions around the value of a transcendental function at x, at precision p. -/
def sfuBounds (op : SfuOp) (p : Nat) (x : Frac) : Frac × Frac :=
  match op with
  | .exp =>
    if x.num > 500 * (x.den : Int) then (pow3Frac 2000, pow3Frac 2000)
    else if x.num < -500 * (x.den : Int) then (tiny, tiny)
    else expFrac p x
  | .exp3 =>
    if x.num > 500 * (x.den : Int) then (pow3Frac 2000, pow3Frac 2000)
    else if x.num < -500 * (x.den : Int) then (tiny, tiny)
    else
      let k := x.num / (x.den : Int)
      let f : Frac := ⟨x.num % (x.den : Int), x.den⟩
      let l := lnEncl p ⟨3, 1⟩
      let e := expEncl p ⟨l.lo * f.num / (f.den : Int), l.hi * f.num / (f.den : Int) + 1⟩
      (Frac.mul ⟨e.lo, 2 ^ p⟩ (pow3Frac k), Frac.mul ⟨e.hi, 2 ^ p⟩ (pow3Frac k))
  | .log => (lnEncl p x).fracs p
  | .log3 =>
    let a := lnEncl p x
    let l := lnEncl p ⟨3, 1⟩
    let lo : Frac := if a.lo ≥ 0 then ⟨a.lo, l.hi.toNat⟩ else ⟨a.lo, l.lo.toNat⟩
    let hi : Frac := if a.hi ≥ 0 then ⟨a.hi, l.lo.toNat⟩ else ⟨a.hi, l.hi.toNat⟩
    (lo, hi)
  | .sin => (trigEncl p false x).fracs p
  | .cos => (trigEncl p true x).fracs p
  | .tanh =>
    let a : Frac := ⟨x.num.natAbs, x.den⟩
    let one : Frac := ⟨1, 1⟩
    let r :=
      if a.num > 100 * (a.den : Int) then let y := Frac.add one tiny.neg; (y, y)
      else
        let e := expEncl p (enclFrac p ⟨2 * a.num, a.den⟩)
        (⟨e.lo - 2 ^ p, (e.lo + 2 ^ p).toNat⟩, ⟨e.hi - 2 ^ p, (e.hi + 2 ^ p).toNat⟩)
    if x.num < 0 then (r.2.neg, r.1.neg) else r
  | _ => (x, x)

/-- The number of the function, for the value left open. -/
def SfuOp.num (op : SfuOp) : Nat :=
  match op with
  | .rcp => 0 | .rsq => 1 | .sqrt => 2 | .exp3 => 3 | .log3 => 4 | .exp => 5 | .log => 6 | .sin => 7 | .cos => 8
  | .tanh => 9

/-- The result decided at the first precision of the list at which both bounds round alike. A transcendental function of a
nonzero fraction is never a fraction, so some precision decides; no operand of a format needs more than 2,560 bits by the bounds
known, and the list goes on far beyond (log 12). -/
def sfuRound (f : Fmt) (op : SfuOp) (rnd : Rnd) (draw : Int) (w : Int) (x : Frac) : List Nat → Res
  | [] => let r := Config.sfuOpen op.num f.p rnd draw w; ⟨r.1, r.2⟩
  | p :: ps =>
    let b := sfuBounds op p x
    let r1 := f.round false rnd draw b.1
    let r2 := f.round false rnd draw b.2
    if r1 = r2 then r1 else sfuRound f op rnd draw w x ps

/-- The precisions tried, in bits. -/
def sfuPrecisions : List Nat := (List.range 32).map fun i => 160 * 2 ^ i

/-- The largest r below 2^k, counted from r, with r * r * d ≤ n. -/
def rootFloor (n d : Nat) : Nat → Nat → Nat
  | 0, r => r
  | k + 1, r => rootFloor n d k (if (r + 2 ^ k) * (r + 2 ^ k) * d ≤ n then r + 2 ^ k else r)

/-- The root of a positive value, or one over it, correctly rounded. In half units of 3^-100 of its scale every value at which
a rounding turns is whole, so a root between t and t + 1 rounds as the middle of the two does. -/
def sfuRoot (f : Fmt) (op : SfuOp) (rnd : Rnd) (draw : Int) (x : Scaled) : Res :=
  let odd := decide (x.e % 2 ≠ 0)
  let m := (if odd then 3 * x.m else x.m).toNat
  let e := (if odd then x.e - 1 else x.e) / 2
  let n := if op = .rsq then 4 * 9 ^ 100 else 4 * 9 ^ 100 * m
  let d := if op = .rsq then m else 1
  let t := rootFloor n d (Nat.log2 n / 2 + 1) 0
  let unit := pow3Frac ((if op = .rsq then -e else e) - 100)
  f.round false rnd draw (Frac.mul (if t * t * d = n then ⟨t, 2⟩ else ⟨2 * t + 1, 4⟩) unit)

/-- m is a power of 3. -/
def isPow3 : Nat → Nat → Bool
  | 0, m => decide (m = 1)
  | k + 1, m => decide (m = 1) || (decide (m % 3 = 0) && isPow3 k (m / 3))

/-- A special function at a finite nonzero value. -/
def sfuFin (f : Fmt) (op : SfuOp) (rnd : Rnd) (draw : Int) (w : Int) (x : Scaled) : Res :=
  let neg := decide (x.m < 0)
  let q := x.frac
  let go := sfuRound f op rnd draw w q sfuPrecisions
  match op with
  | .rcp => f.round false rnd draw (Frac.div ⟨1, 1⟩ q)
  | .rsq | .sqrt => if neg then ⟨f.nan, fInvalid⟩ else sfuRoot f op rnd draw x
  | .exp3 =>
    if q.num % (q.den : Int) = 0 && decide ((q.num / (q.den : Int)).natAbs ≤ 500) then
      f.round false rnd draw (pow3Frac (q.num / (q.den : Int)))
    else go
  | .log3 =>
    if neg then ⟨f.nan, fInvalid⟩
    else if isPow3 40 x.m.toNat then
      f.round false rnd draw (Frac.ofInt (((List.range 40).filter fun k => 3 ^ (k + 1) ≤ x.m.toNat).length + x.e))
    else go
  | .log => if neg then ⟨f.nan, fInvalid⟩ else if q.num = (q.den : Int) then ⟨0, 0⟩ else go
  | .exp | .sin | .cos | .tanh => go

/-- One element result of a special function (R103). -/
def sfu (f : Fmt) (op : SfuOp) (rnd : Rnd) (draw : Int) (w : Int) : Res :=
  let one := f.round false .near 0 ⟨1, 1⟩
  match f.value w with
  | .nan => ⟨f.nan, 0⟩
  | .inf neg =>
    match op with
    | .rcp => ⟨0, 0⟩
    | .rsq => if neg then ⟨f.nan, fInvalid⟩ else ⟨0, 0⟩
    | .sqrt | .log3 | .log => if neg then ⟨f.nan, fInvalid⟩ else ⟨f.inf, 0⟩
    | .exp3 | .exp => if neg then ⟨0, 0⟩ else ⟨f.inf, 0⟩
    | .sin | .cos => ⟨f.nan, fInvalid⟩
    | .tanh => ⟨if neg then -one.val else one.val, 0⟩
  | .fin x =>
    if x.m = 0 then
      match op with
      | .rcp | .rsq => ⟨f.inf, fDivZero⟩
      | .sqrt | .sin | .tanh => ⟨0, 0⟩
      | .log3 | .log => ⟨-f.inf, fDivZero⟩
      | .exp3 | .exp | .cos => ⟨one.val, 0⟩
    else sfuFin f op rnd draw w x

end Sys2Proof.Machine
end

