-- ==== Sys2Proof/Machine/Vector.lean ====
section
/-!
DEFINITION. Lane-wise vector instructions: the majors VALU (R97 to R101), VSFU (R102, R103) and VIMM (R112), on registers
or, under the sweep prefix, on lines of the team's scratchpad (R58, R59).
-/
namespace Sys2Proof.Machine

/-- A lane-wise instruction: its prefix, mask field, window and type, the source operands that it has, whether it rounds by
the mode (R27), whether it writes every lane (R100), and a lane's result from saturation, mode, draws, mask trit and
operand words. -/
structure LaneOp where
  attr   : Option Attr
  mask   : MReg
  la     : Fin 27
  ty     : Ty
  hasA   : Bool
  hasB   : Bool
  fourth : Bool
  draws  : Bool
  all    : Bool
  f      : Bool → Rnd → (Nat → Int) → Trit → Int → Int → Int → Res

/-- The fourth operand of a prefix (R55). -/
def fourthReg (a : Option Attr) : VReg := match a.bind Attr.fourth with | some r => r | none => 0

/-- The lanes that compute. -/
def LaneOp.runs (o : LaneOp) (x : Iss) : List Nat := if o.all then x.lanes else x.active o.attr o.mask
/-- The lanes that are zeroed. -/
def LaneOp.zeros (o : LaneOp) (x : Iss) : List Nat := if o.all then [] else x.zeroed o.attr o.mask

/-- The draws that the instruction's lanes spend. -/
def LaneOp.spends (o : LaneOp) (ls : List Nat) : List (Nat × Nat) := if o.draws then ls.map fun i => (i, elems o.ty) else []

/-- A lane-wise instruction on registers (R77, R98). -/
def laneRegs (o : LaneOp) (d a b : VReg) (s : State) : Answer :=
  let c := fourthReg o.attr
  issue (fun x =>
      { Uses.none with
        dests := [.vec d],
        vregs := d :: ((if o.hasA then [a] else []) ++ (if o.hasB then [b] else []) ++ (if o.fourth then [c] else [])),
        opens := if o.la.val = 0 ∨ (x.lanes = []) then 0 else 1 })
    (fun x _ s =>
      let rnd := x.rnd o.attr
      let ls := o.runs x
      let r (i : Nat) : Res :=
        o.f (satOf o.attr) rnd (x.gang.draw i) (tritAt i (x.gang.mask (maskReg o.attr o.mask))) (x.v a i) (x.v b i) (x.v c i)
      let ws := (ls.map fun i => (i, (r i).val)) ++ (o.zeros x).map fun i => (i, 0)
      let s1 := x.spend rnd (o.spends ls) s
      .ok (x.countElems (ls.length * elems o.ty) (x.putV o.la d ws (joinAll (ls.map fun i => (r i).flags)) s1))) s

/-- What a sweep holds fixed for all its segments, as its first segment finds it: the bases of its operands among it, which
are read again where a sweep goes on after a handler or a resumption (R59, R260, log 75). -/
def LaneOp.hold (o : LaneOp) (x : Iss) (rs : List SReg) : SweepHold :=
  match (x.gang.slice x.low).sweep with
  | some h => if h.bases = [] then { h with bases := rs.map fun r => (r.val, x.uniform r) } else h
  | none =>
    { at_ := (x.gang.slice x.low).pc, words := x.issue.words, done := 0, rnd := x.rnd o.attr,
      mask := x.gang.mask (maskReg o.attr o.mask),
      fourth := if o.fourth then (List.range 27).map fun i => x.v (fourthReg o.attr) i else [], bases := rs.map fun r => (r.val, x.uniform r),
      paused := false }

/-- The lanes that compute under the mask held. -/
def LaneOp.heldRuns (o : LaneOp) (x : Iss) (h : SweepHold) : List Nat :=
  x.lanes.filter fun i => o.all || decide (roleOf (polOf o.attr) (tritAt i h.mask) = .run)
/-- The lanes that are zeroed under the mask held. -/
def LaneOp.heldZeros (o : LaneOp) (x : Iss) (h : SweepHold) : List Nat :=
  x.lanes.filter fun i => !o.all && decide (roleOf (polOf o.attr) (tritAt i h.mask) = .zero)

/-- The address of an operand of the present segment (R59, R75). -/
def sweepAddr (h : SweepHold) (r : SReg) (step : Int) : Int :=
  ((h.bases.find? fun b => decide (b.1 = r.val)).map Prod.snd).getD 0 + (h.done : Int) * step

/-- The fault of a segment's operand address (R59). -/
def sweepFault (x : Iss) (a : Int) : Option Cause :=
  if a % 3 ≠ 0 then some .misaligned
  else if localBase ≤ a ∧ a + 81 ≤ localBase + (x.team.alloc : Int) then none else some .outsideAllocation

/-- The operands of the present segment: their addresses. -/
def LaneOp.sweepAddrs (o : LaneOp) (h : SweepHold) (sw : Sweep) (d a b : SReg) : List Int :=
  sweepAddr h d sw.dstep ::
    ((if o.hasA then [sweepAddr h a sw.astep] else []) ++ (if o.hasB then [sweepAddr h b sw.bstep] else []))

/-- One word of a lane in a segment. -/
def sweepAcc (op : AccOp) (base : Int) (i : Nat) : Acc :=
  { lanes := [i], lane := none, addr := base + 3 * (i : Int), len := 3, op := op, aligned := true }

/-- The accesses of a segment whose operands stand in the scratchpad: the loads of a, those of b, the stores. -/
def LaneOp.sweepAccs (o : LaneOp) (x : Iss) (h : SweepHold) (sw : Sweep) (d a b : SReg) : List Acc :=
  if (o.sweepAddrs h sw d a b).any fun p => (sweepFault x p).isSome then []
  else
    let ls := o.heldRuns x h
    (if o.hasA then ls.map (sweepAcc .load (sweepAddr h a sw.astep)) else []) ++
    (if o.hasB then ls.map (sweepAcc .load (sweepAddr h b sw.bstep)) else []) ++
    (x.lanes.filter fun i => ls.contains i || (o.heldZeros x h).contains i).map (sweepAcc .store (sweepAddr h d sw.dstep))

/-- The faults of the present segment: every lane of the issue set, with the address of an operand that fails (R59, log 75). -/
def LaneOp.sweepFaults (o : LaneOp) (x : Iss) (h : SweepHold) (sw : Sweep) (d a b : SReg) : List (Nat × Cause × Int) :=
  (o.sweepAddrs h sw d a b).flatMap fun p => match sweepFault x p with | some c => x.lanes.map fun l => (l, c, p) | none => []

/-- A handler of another sub-gang is to begin, which the present sweep may not do (R137). -/
def Iss.mustRest (x : Iss) : Bool := x.gang.bank.any fun k => !k.slices.contains x.low

/-- One segment of a sweep (R59): the last one moves the program counters on. -/
def laneSweep (o : LaneOp) (sw : Sweep) (d a b : SReg) (s : State) : Answer :=
  issueWith false false false
    (fun x =>
      let h := o.hold x [d, a, b]
      { Uses.none with
        vregs := (if o.fourth && x.segments = 0 then [fourthReg o.attr] else []), accs := o.sweepAccs x h sw d a b,
        faults := if x.mustRest then [] else o.sweepFaults x h sw d a b })
    (fun x got s =>
      let h := o.hold x [d, a, b]
      if o.sweepFaults x h sw d a b ≠ [] then
        .ok (x.modSlices (fun _ y => { y with sweep := some { h with paused := true } }) s)
      else
        let ls := o.heldRuns x h
        let n := ls.length
        let r (p : Nat × Nat) : Res :=
          let i := p.1
          o.f (satOf o.attr) h.rnd (x.gang.draw i) (tritAt i h.mask) (if o.hasA then got.read s p.2 else 0)
            (if o.hasB then got.read s ((if o.hasA then n else 0) + p.2) else 0) (h.fourth.getD i 0)
        let rs := ls.zipIdx.map fun p => (p.1, r p)
        let outs := x.lanes.filter fun i => ls.contains i || (o.heldZeros x h).contains i
        let base := (if o.hasA then n else 0) + (if o.hasB then n else 0)
        let val (i : Nat) : Int := match rs.find? fun q => decide (q.1 = i) with | some q => q.2.val | none => 0
        let s1 := outs.zipIdx.foldl (fun s p => got.write x (base + p.2) (toTrytes 3 (val p.1)) s) s
        let s2 := x.spend h.rnd (o.spends ls) s1
        let s3 := x.countElems (n * elems o.ty) (x.raise (joinAll (rs.map fun q => q.2.flags)) s2)
        if h.done + 1 < sw.count then
          .ok (x.modSlices (fun _ y => { y with sweep := some { h with done := h.done + 1, paused := false } }) s3)
        else .ok (x.advance (x.modSlices (fun _ y => { y with sweep := none }) s3))) s

/-- A lane-wise instruction with three register fields. -/
def laneOp3 (o : LaneOp) (ops : VOps3) (s : State) : Answer :=
  match ops with
  | .regs d a b => laneRegs o d a b s
  | .swept sw d a b => laneSweep o sw d a b s

/-- A lane-wise instruction with two register fields. -/
def laneOp2 (o : LaneOp) (ops : VOps2) (s : State) : Answer :=
  match ops with
  | .regs d a => laneRegs o d a 0 s
  | .swept sw d a => laneSweep o sw d a 0 s

/-- Element by element (R77). -/
def byElem (t : Ty) (g : Bool → Rnd → Int → Int → Int → Int → Res) :
    Bool → Rnd → (Nat → Int) → Trit → Int → Int → Int → Res :=
  fun sat rnd draw _ a b c => laneRes t fun e => g sat rnd (draw e) (elemOf t e a) (elemOf t e b) (elemOf t e c)

/-- A VALU form from its integer and its float element function. -/
def valu (v : ValuF) (hasB fourth drawsI drawsF : Bool) (gi : Nat → Bool → Rnd → Int → Int → Int → Int → Res)
    (gf : Fmt → Rnd → Int → Int → Int → Int → Res) : LaneOp :=
  { attr := v.attr, mask := v.mask, la := v.la, ty := v.ty, hasA := true, hasB := hasB, fourth := fourth,
    draws := if isFloat v.ty then drawsF else drawsI, all := false,
    f := byElem v.ty fun sat rnd dr a b c =>
      if isFloat v.ty then gf (fmtOf v.ty) rnd dr a b c else gi (widthOf v.ty) sat rnd dr a b c }

/-- A trit-wise form on whole lanes (R97). -/
def tritForm (v : ValuF) (hasB : Bool) (g : Int → Int → Int) : LaneOp :=
  valu v hasB false false false (fun _ _ _ _ a b _ => ⟨g a b, 0⟩) (fun _ _ _ a b _ => ⟨g a b, 0⟩)

/-- VADD (R98). -/
def opVadd (v : ValuF) : LaneOp :=
  valu v true false false true (fun n sat _ _ a b _ => fitInt n sat (a + b)) (fun f r d a b _ => f.add r d a b)
/-- VSUB (R98). -/
def opVsub (v : ValuF) : LaneOp :=
  valu v true false false true (fun n sat _ _ a b _ => fitInt n sat (a - b)) (fun f r d a b _ => f.sub r d a b)
/-- VMUL (R98). -/
def opVmul (v : ValuF) : LaneOp :=
  valu v true false false true (fun n sat _ _ a b _ => fitInt n sat (a * b)) (fun f r d a b _ => f.mul r d a b)
/-- VDIV (R98). -/
def opVdiv (v : ValuF) : LaneOp :=
  valu v true false true true (fun n _ r d a b _ => divInt n r d a b) (fun f r d a b _ => f.div r d a b)
/-- VMIN (R98). -/
def opVmin (v : ValuF) : LaneOp :=
  valu v true false false false (fun _ _ _ _ a b _ => ⟨Min.min a b, 0⟩) (fun f _ _ a b _ => ⟨f.min a b, 0⟩)
/-- VMAX (R98). -/
def opVmax (v : ValuF) : LaneOp :=
  valu v true false false false (fun _ _ _ _ a b _ => ⟨Max.max a b, 0⟩) (fun f _ _ a b _ => ⟨f.max a b, 0⟩)
/-- VFMA (R29, R98). -/
def opVfma (v : ValuF) : LaneOp :=
  valu v true true false true (fun n sat _ _ a b c => fitInt n sat (a * b + c))
    (fun f r d a b c => f.dot r d (f.value c) [(f.value a, f.value b)])
/-- VFMS (R29, R98). -/
def opVfms (v : ValuF) : LaneOp :=
  valu v true true false true (fun n sat _ _ a b c => fitInt n sat (a * b - c))
    (fun f r d a b c => f.dot r d (FVal.neg (f.value c)) [(f.value a, f.value b)])
/-- VABS (R98): the integer absolute value of the element word. -/
def opVabs (v : ValuF) : LaneOp :=
  valu v false false false false (fun _ _ _ _ a _ _ => ⟨(a.natAbs : Int), 0⟩) (fun _ _ _ a _ _ => ⟨(a.natAbs : Int), 0⟩)
/-- VSEL3 (R100). -/
def opVsel3 (v : ValuF) : LaneOp :=
  { attr := v.attr, mask := v.mask, la := v.la, ty := v.ty, hasA := true, hasB := true, fourth := true, draws := false,
    all := true, f := fun _ _ _ t a b c => ⟨if t = 1 then a else if t = 0 then b else c, 0⟩ }
/-- VTINV (R97). -/
def opVtinv (v : ValuF) : LaneOp := tritForm v false fun a _ => -a
/-- VTMIN (R97). -/
def opVtmin (v : ValuF) : LaneOp := tritForm v true fun a b => tritwise min 27 a b
/-- VTMAX (R97). -/
def opVtmax (v : ValuF) : LaneOp := tritForm v true fun a b => tritwise max 27 a b
/-- VTSUM (R97). -/
def opVtsum (v : ValuF) : LaneOp := tritForm v true fun a b => tritwise tritSum 27 a b
/-- VTCON (R97). -/
def opVtcon (v : ValuF) : LaneOp := tritForm v true fun a b => tritwise consensus 27 a b
/-- VSHL (R82, R97). -/
def opVshl (v : ValuF) : LaneOp :=
  valu v true false true true (fun n sat r d a b _ => shiftInt n sat r d a b) (fun _ _ _ a _ _ => ⟨a, 0⟩)
/-- VSHR (R82, R97). -/
def opVshr (v : ValuF) : LaneOp :=
  valu v true false true true (fun n sat r d a b _ => shiftInt n sat r d a (-b)) (fun _ _ _ a _ _ => ⟨a, 0⟩)
/-- VMOV (R97). -/
def opVmov (v : ValuF) : LaneOp := tritForm v false fun a _ => a

/-- A special function (R102, R103). -/
def opSfu (v : ValuF) (op : SfuOp) : LaneOp :=
  valu v false false true true (fun _ _ _ _ a _ _ => ⟨a, 0⟩) (fun f r d a _ _ => sfu f op r d a)

/-- A vector immediate form on i27 lanes (R112). -/
def vimm (v : VimmF) (hasA draws : Bool) (g : Bool → Rnd → Int → Int → Res) : LaneOp :=
  { attr := v.attr, mask := 0, la := 0, ty := .i27, hasA := hasA, hasB := false, fourth := false, draws := draws, all := false,
    f := fun sat rnd draw _ a _ _ => g sat rnd (draw 0) a }

/-- VADDI (R112). -/
def opVaddi (v : VimmF) : LaneOp := vimm v true false fun sat _ _ a => fitInt 27 sat (a + v.imm)
/-- VMULI (R112). -/
def opVmuli (v : VimmF) : LaneOp := vimm v true false fun sat _ _ a => fitInt 27 sat (a * v.imm)
/-- VSHLI (R112). -/
def opVshli (v : VimmF) : LaneOp := vimm v true true fun sat r d a => shiftInt 27 sat r d a v.imm
/-- VSHRI (R112). -/
def opVshri (v : VimmF) : LaneOp := vimm v true true fun sat r d a => shiftInt 27 sat r d a (-v.imm)
/-- VLDI (R112). -/
def opVldi (v : VimmF) : LaneOp := vimm v false false fun _ _ _ _ => ⟨v.imm, 0⟩

/-- VADD (R97, R98). -/
def execVadd (f : ValuF) (s : State) : Answer := laneOp3 (opVadd f) f.ops s
/-- VSUB (R97, R98). -/
def execVsub (f : ValuF) (s : State) : Answer := laneOp3 (opVsub f) f.ops s
/-- VMUL (R97, R98). -/
def execVmul (f : ValuF) (s : State) : Answer := laneOp3 (opVmul f) f.ops s
/-- VDIV (R97, R98). -/
def execVdiv (f : ValuF) (s : State) : Answer := laneOp3 (opVdiv f) f.ops s
/-- VMIN (R97, R98). -/
def execVmin (f : ValuF) (s : State) : Answer := laneOp3 (opVmin f) f.ops s
/-- VMAX (R97, R98). -/
def execVmax (f : ValuF) (s : State) : Answer := laneOp3 (opVmax f) f.ops s
/-- VFMA (R97, R98). -/
def execVfma (f : ValuF) (s : State) : Answer := laneOp3 (opVfma f) f.ops s
/-- VFMS (R97, R98). -/
def execVfms (f : ValuF) (s : State) : Answer := laneOp3 (opVfms f) f.ops s
/-- VABS (R97, R98). -/
def execVabs (f : ValuF) (s : State) : Answer := laneOp3 (opVabs f) f.ops s
/-- VSEL3 (R97, R98). -/
def execVsel3 (f : ValuF) (s : State) : Answer := laneOp3 (opVsel3 f) f.ops s
/-- VTINV (R97, R98). -/
def execVtinv (f : ValuF) (s : State) : Answer := laneOp3 (opVtinv f) f.ops s
/-- VTMIN (R97, R98). -/
def execVtmin (f : ValuF) (s : State) : Answer := laneOp3 (opVtmin f) f.ops s
/-- VTMAX (R97, R98). -/
def execVtmax (f : ValuF) (s : State) : Answer := laneOp3 (opVtmax f) f.ops s
/-- VTSUM (R97, R98). -/
def execVtsum (f : ValuF) (s : State) : Answer := laneOp3 (opVtsum f) f.ops s
/-- VTCON (R97, R98). -/
def execVtcon (f : ValuF) (s : State) : Answer := laneOp3 (opVtcon f) f.ops s
/-- VSHL (R97, R98). -/
def execVshl (f : ValuF) (s : State) : Answer := laneOp3 (opVshl f) f.ops s
/-- VSHR (R97, R98). -/
def execVshr (f : ValuF) (s : State) : Answer := laneOp3 (opVshr f) f.ops s
/-- VMOV (R97, R98). -/
def execVmov (f : ValuF) (s : State) : Answer := laneOp3 (opVmov f) f.ops s
/-- VRCP (R103). -/
def execVrcp (f : ValuF) (s : State) : Answer := laneOp3 (opSfu f .rcp) f.ops s
/-- VRSQ (R103). -/
def execVrsq (f : ValuF) (s : State) : Answer := laneOp3 (opSfu f .rsq) f.ops s
/-- VSQRT (R103). -/
def execVsqrt (f : ValuF) (s : State) : Answer := laneOp3 (opSfu f .sqrt) f.ops s
/-- VEXP3 (R103). -/
def execVexp3 (f : ValuF) (s : State) : Answer := laneOp3 (opSfu f .exp3) f.ops s
/-- VLOG3 (R103). -/
def execVlog3 (f : ValuF) (s : State) : Answer := laneOp3 (opSfu f .log3) f.ops s
/-- VEXP (R103). -/
def execVexp (f : ValuF) (s : State) : Answer := laneOp3 (opSfu f .exp) f.ops s
/-- VLOG (R103). -/
def execVlog (f : ValuF) (s : State) : Answer := laneOp3 (opSfu f .log) f.ops s
/-- VSIN (R103). -/
def execVsin (f : ValuF) (s : State) : Answer := laneOp3 (opSfu f .sin) f.ops s
/-- VCOS (R103). -/
def execVcos (f : ValuF) (s : State) : Answer := laneOp3 (opSfu f .cos) f.ops s
/-- VTANH (R103). -/
def execVtanh (f : ValuF) (s : State) : Answer := laneOp3 (opSfu f .tanh) f.ops s
/-- VADDI (R112). -/
def execVaddi (f : VimmF) (s : State) : Answer := laneOp2 (opVaddi f) f.ops s
/-- VMULI (R112). -/
def execVmuli (f : VimmF) (s : State) : Answer := laneOp2 (opVmuli f) f.ops s
/-- VSHLI (R112). -/
def execVshli (f : VimmF) (s : State) : Answer := laneOp2 (opVshli f) f.ops s
/-- VSHRI (R112). -/
def execVshri (f : VimmF) (s : State) : Answer := laneOp2 (opVshri f) f.ops s
/-- VLDI (R112). -/
def execVldi (f : VimmF) (s : State) : Answer := laneOp2 (opVldi f) f.ops s

/-- A comparison into a mask register (R99, R112). -/
def compareMask (attr : Option Attr) (mask : MReg) (ty : Ty) (d : MReg) (vregs : List VReg) (a b : Iss → Nat → Int)
    (s : State) : Answer :=
  issue (fun _ => { Uses.none with dests := if d.val = 0 then [] else [.msk d], vregs := vregs })
    (fun x _ s =>
      let ls := x.active attr mask
      let r (i : Nat) : Res := if ty = .f27 then f27.cmp (a x i) (b x i) else ⟨cmpTrit (a x i) (b x i), 0⟩
      let ws := (ls.map fun i => (i, (r i).val)) ++ (x.zeroed attr mask).map fun i => (i, 0)
      .ok (x.countElems ls.length (x.raise (joinAll (ls.map fun i => (r i).flags)) (x.putMask d ws s)))) s

/-- VCMP (R99). -/
def execVcmp (f : VcmpF) (s : State) : Answer :=
  compareMask f.attr f.mask f.ty f.d [f.a, f.b] (fun x i => x.v f.a i) (fun x i => x.v f.b i) s
/-- VCMPI (R112). -/
def execVcmpi (f : VcmpiF) (s : State) : Answer :=
  compareMask f.attr 0 .i27 f.d [f.a] (fun x i => x.v f.a i) (fun _ _ => f.imm) s

/-- The sweep that an instruction describes: what it computes and its operands. -/
def sweepOf (i : Instr) : Option (LaneOp × Sweep × SReg × SReg × SReg) :=
  let three (o : LaneOp) (ops : VOps3) : Option (LaneOp × Sweep × SReg × SReg × SReg) :=
    match ops with | .swept sw d a b => some (o, sw, d, a, b) | .regs _ _ _ => none
  let two (o : LaneOp) (ops : VOps2) : Option (LaneOp × Sweep × SReg × SReg × SReg) :=
    match ops with | .swept sw d a => some (o, sw, d, a, 0) | .regs _ _ => none
  match i with
  | .vadd f => three (opVadd f) f.ops
  | .vsub f => three (opVsub f) f.ops
  | .vmul f => three (opVmul f) f.ops
  | .vdiv f => three (opVdiv f) f.ops
  | .vmin f => three (opVmin f) f.ops
  | .vmax f => three (opVmax f) f.ops
  | .vfma f => three (opVfma f) f.ops
  | .vfms f => three (opVfms f) f.ops
  | .vabs f => three (opVabs f) f.ops
  | .vsel3 f => three (opVsel3 f) f.ops
  | .vtinv f => three (opVtinv f) f.ops
  | .vtmin f => three (opVtmin f) f.ops
  | .vtmax f => three (opVtmax f) f.ops
  | .vtsum f => three (opVtsum f) f.ops
  | .vtcon f => three (opVtcon f) f.ops
  | .vshl f => three (opVshl f) f.ops
  | .vshr f => three (opVshr f) f.ops
  | .vmov f => three (opVmov f) f.ops
  | .vrcp f => three (opSfu f .rcp) f.ops
  | .vrsq f => three (opSfu f .rsq) f.ops
  | .vsqrt f => three (opSfu f .sqrt) f.ops
  | .vexp3 f => three (opSfu f .exp3) f.ops
  | .vlog3 f => three (opSfu f .log3) f.ops
  | .vexp f => three (opSfu f .exp) f.ops
  | .vlog f => three (opSfu f .log) f.ops
  | .vsin f => three (opSfu f .sin) f.ops
  | .vcos f => three (opSfu f .cos) f.ops
  | .vtanh f => three (opSfu f .tanh) f.ops
  | .vaddi f => two (opVaddi f) f.ops
  | .vmuli f => two (opVmuli f) f.ops
  | .vshli f => two (opVshli f) f.ops
  | .vshri f => two (opVshri f) f.ops
  | .vldi f => two (opVldi f) f.ops
  | _ => none

/-- SWEEP_SEGMENT (R59, R380): the next segment of the sweep of the issue set. -/
def execSweepSegment (i : IssueRef) (s : State) : Answer :=
  match s.iss? with
  | none => .fault (.notEnabled "SWEEP_SEGMENT")
  | some x =>
    match (x.gang.slice x.low).sweep with
    | none => .fault (.notEnabled "SWEEP_SEGMENT")
    | some h =>
      if i = ⟨x.issue.team, x.issue.gang, x.low⟩ then
        match decode h.words with
        | .ok (j, _) =>
          match sweepOf j with
          | some (o, sw, d, a, b) => laneSweep o sw d a b s
          | none => .fault (.notEnabled "SWEEP_SEGMENT")
        | .error _ => .fault (.notEnabled "SWEEP_SEGMENT")
      else .fault (.notEnabled "SWEEP_SEGMENT")

end Sys2Proof.Machine
end

