-- ==== Sys2Proof/Machine/Perm.lean ====
section
/-!
DEFINITION. Conversion and lane movement: the major VPERM (R104 to R110).
-/
namespace Sys2Proof.Machine

/-- The number of elements of a register of a type: E of R107. -/
def elemCount (t : Ty) : Nat := 27 * elems t
/-- Element j of a vector register of a type, zero outside the issue set (R78, R107). -/
def Iss.elemIn (x : Iss) (t : Ty) (r : VReg) (j : Int) : Int :=
  if 0 ≤ j ∧ j < (elemCount t : Int) then elemOf t (j.toNat % elems t) (x.vIn r (j.toNat / elems t)) else 0

/-- What a VPERM form writes: lanes with results, lanes zeroed, elements counted (R465), draws spent. -/
structure PermOut where
  lanes  : List (Nat × Res)
  zeroed : List Nat
  count  : Nat
  spent  : List (Nat × Nat)

/-- A VPERM form with a vector destination: its faults and what it writes. -/
def permWith (faults : Iss → List (Nat × Cause × Int)) (attr : Option Attr) (la : Fin 27) (d : VReg) (srcs : List VReg) (f : Iss → PermOut)
    (s : State) : Answer :=
  issue (fun x => { Uses.none with
      dests := [.vec d], vregs := d :: srcs, opens := (if la.val = 0 ∨ x.lanes = [] then 0 else 1), faults := faults x })
    (fun x _ s =>
      let o := f x
      let ws := (o.lanes.map fun p => (p.1, p.2.val)) ++ o.zeroed.map fun i => (i, 0)
      let s1 := x.spend (x.rnd attr) o.spent s
      .ok (x.countElems o.count (x.putV la d ws (joinAll (o.lanes.map fun p => p.2.flags)) s1))) s

/-- A VPERM form with a vector destination that never traps by itself. -/
def perm (attr : Option Attr) (la : Fin 27) (d : VReg) (srcs : List VReg) (f : Iss → PermOut) (s : State) : Answer :=
  permWith (fun _ => []) attr la d srcs f s

/-- A form that computes each active lane by itself; draws gives the draws of a lane. -/
def permLanes (attr : Option Attr) (mask : MReg) (la : Fin 27) (d : VReg) (srcs : List VReg) (counted draws : Nat)
    (f : Iss → Nat → Res) (s : State) : Answer :=
  perm attr la d srcs (fun x =>
    let ls := x.active attr mask
    ⟨ls.map fun i => (i, f x i), x.zeroed attr mask, ls.length * counted, ls.map fun i => (i, draws)⟩) s

/-- An element read as a CVT source (R105): an f18 value stands in the low 18 trits. -/
def cvtSource (t : Ty) (x : Int) : Int := if t = .f18 then wrap 18 x else x

/-- CVT (R105). -/
def execCvt (f : CvtF) (s : State) : Answer :=
  permLanes f.attr f.mask 0 f.d [f.a] (elems f.dst) (elems f.src)
    (fun x i => laneRes f.src fun e =>
      cvtElem f.src f.dst (x.rnd f.attr) (x.gang.draw i e) (cvtSource f.src (elemOf f.src e (x.v f.a i)))) s

/-- VPACK (R106). -/
def execVpack (f : VpermF) (s : State) : Answer :=
  let srcs := [f.a, f.b, fourthReg f.attr]
  permLanes f.attr f.mask 0 f.d srcs 3 (if f.ty = .f27 then 3 else 0)
    (fun x i =>
      let one (k : Nat) : Res :=
        let w := x.v (srcs.getD k 0) i
        if f.ty = .f27 then cvtElem .f27 .f9 (x.rnd f.attr) (x.gang.draw i k) w else narrowInt 9 w
      let rs := (List.range 3).map one
      ⟨ofSubLanes (one 0).val (one 1).val (one 2).val, joinAll (rs.map Res.flags)⟩) s

/-- VUNPK (R106). -/
def execVunpk (f : VunpkF) (s : State) : Answer :=
  permLanes f.attr f.mask 0 f.d [f.a] 1 0
    (fun x i =>
      let w := subLane f.k.val (x.v f.a i)
      if f.ty = .f9x3 then floatToFloat f9 f27 (x.rnd f.attr) 0 w else ⟨w, 0⟩) s

/-- A lane made of elements, for movements that raise no flag. -/
def moved (t : Ty) (g : Nat → Int) : Res := laneRes t fun e => ⟨g e, 0⟩

/-- VSHFL (R107). -/
def execVshfl (f : VpermF) (s : State) : Answer :=
  permLanes f.attr f.mask f.la f.d [f.a, f.b] (elems f.ty) 0
    (fun x i => moved f.ty fun e => x.elemIn f.ty f.a (elemOf f.ty e (x.v f.b i))) s

/-- VROTL (R107). -/
def execVrotl (f : VpermSF) (s : State) : Answer :=
  permLanes f.attr f.mask 0 f.d [f.a] (elems f.ty) 0
    (fun x i => moved f.ty fun e =>
      x.elemIn f.ty f.a ((((elems f.ty * i + e : Nat) : Int) - x.uniform f.sb) % (elemCount f.ty : Int))) s

/-- VBCAST (R107). A bad index, which is uniform, is a fault of every lane of the issue set, whatever the mask (log 77). -/
def execVbcast (f : VpermSF) (s : State) : Answer :=
  permWith
    (fun x =>
      let k := x.uniform f.sb
      if k < 0 ∨ k ≥ (elemCount f.ty : Int) then x.lanes.map fun l => (l, .valueRange, 0) else [])
    f.attr 0 f.d [f.a] (fun x =>
      let ls := x.active f.attr f.mask
      ⟨ls.map fun i => (i, moved f.ty fun _ => x.elemIn f.ty f.a (x.uniform f.sb)), x.zeroed f.attr f.mask, ls.length * elems f.ty, []⟩) s

/-- The combination of elements by VRED and VSCAN (R108). -/
def combine (t : Ty) (op : RedOp) (sat : Bool) (rnd : Rnd) (draw : Int) (es : List Int) : Res :=
  match op with
  | .add =>
    if isFloat t then (fmtOf t).dot rnd draw (.fin ⟨0, 0⟩) (es.map fun e => ((fmtOf t).value e, .fin ⟨1, 0⟩))
    else fitInt (widthOf t) sat es.sum
  | .max =>
    match es with
    | [] => ⟨0, 0⟩
    | e :: r => if isFloat t then ⟨r.foldl (fmtOf t).max ((fmtOf t).max e e), 0⟩ else ⟨r.foldl Max.max e, 0⟩
  | .min =>
    match es with
    | [] => ⟨0, 0⟩
    | e :: r => if isFloat t then ⟨r.foldl (fmtOf t).min ((fmtOf t).min e e), 0⟩ else ⟨r.foldl Min.min e, 0⟩

/-- A combination draws for its sums of floats (R27). -/
def combineDraws (t : Ty) (op : RedOp) : Bool := isFloat t && decide (op = .add)

/-- The elements of active lanes up to element j, in order. -/
def Iss.elemsTo (x : Iss) (t : Ty) (r : VReg) (ls : List Nat) (j : Nat) : List Int :=
  ls.flatMap fun i => (List.range (elems t)).filterMap fun e =>
    if elems t * i + e ≤ j then some (elemOf t e (x.v r i)) else none

/-- VRED (R108). -/
def execVred (f : VredF) (s : State) : Answer :=
  perm f.attr f.la f.d [f.a] (fun x =>
    let ls := x.active f.attr f.mask
    match ls with
    | [] => ⟨[], [], 0, []⟩
    | low :: _ =>
      let r := combine f.ty f.op (satOf f.attr) (x.rnd f.attr) (x.gang.draw low 0) (x.elemsTo f.ty f.a ls 81)
      ⟨ls.map fun i => (i, ⟨(moved f.ty fun _ => r.val).val, r.flags⟩), x.zeroed f.attr f.mask, ls.length * elems f.ty,
        if combineDraws f.ty f.op then [(low, 1)] else []⟩) s

/-- VSCAN (R108). -/
def execVscan (f : VredF) (s : State) : Answer :=
  perm f.attr f.la f.d [f.a] (fun x =>
    let ls := x.active f.attr f.mask
    if ls = [] then ⟨[], [], 0, []⟩
    else
      let one (i : Nat) : Res := laneRes f.ty fun e =>
        combine f.ty f.op (satOf f.attr) (x.rnd f.attr) (x.gang.draw i e) (x.elemsTo f.ty f.a ls (elems f.ty * i + e))
      ⟨ls.map fun i => (i, one i), x.zeroed f.attr f.mask, ls.length * elems f.ty,
        if combineDraws f.ty f.op then ls.map fun i => (i, elems f.ty) else []⟩) s

/-- VCOMPR (R109). -/
def execVcompr (f : VcomprF) (s : State) : Answer :=
  perm f.attr f.la f.d [f.a] (fun x =>
    let qs := x.active f.attr f.mask
    ⟨x.lanes.zipIdx.map fun p => (p.1, ⟨match qs[p.2]? with | some q => x.v f.a q | none => 0, 0⟩), [], qs.length, []⟩) s

/-- VEXPD (R109). -/
def execVexpd (f : VcomprF) (s : State) : Answer :=
  perm f.attr f.la f.d [f.a] (fun x =>
    let qs := x.active f.attr f.mask
    ⟨qs.zipIdx.map fun p => (p.1, ⟨match x.lanes[p.2]? with | some i => x.v f.a i | none => 0, 0⟩),
      x.zeroed f.attr f.mask, qs.length, []⟩) s

/-- VIDX (R109). -/
def execVidx (f : VidxF) (s : State) : Answer :=
  permLanes f.attr f.mask 0 f.d [] (elems f.ty) 0 (fun _ i => moved f.ty fun e => ((elems f.ty * i + e : Nat) : Int)) s

/-- VINS (R110). -/
def execVins (f : VinsF) (s : State) : Answer :=
  permLanes f.attr f.mask 0 f.d [] 1 0 (fun x i => narrowInt 27 (x.s (i / 3) f.sa)) s

/-- VEXT (R110). -/
def execVext (f : VextF) (s : State) : Answer :=
  issue (fun x => { Uses.none with
      dests := x.sDests f.d, vregs := [f.a],
      faults := (lanesOf (x.slices.filter fun k => decide (x.s k f.sb < 0) || decide (x.s k f.sb > 26))).map fun l => (l, .valueRange, 0) })
    (fun x _ s =>
      .ok (x.countElems x.slices.length (x.setS f.d (x.slices.map fun k => (k, x.vIn f.a (x.s k f.sb).toNat)) s))) s

end Sys2Proof.Machine
end

