-- ==== Sys2Proof/Machine/Quant.lean ====
section
/-!
DEFINITION. Quantisation and packed products, the major MXQ (R303 to R311).
-/
namespace Sys2Proof.Machine

/-- The registers of a float run (R304). -/
def runLen (t : Ty) : Nat := if isSub t then 3 else 9

/-- The registers of a float run from r on, as far as they exist. -/
def floatRun (t : Ty) (r : VReg) : List VReg := vrun r.val (runLen t)

/-- The run goes beyond v80 (R304). -/
def runOut (t : Ty) (r : VReg) : Bool := decide (r.val + runLen t > 81)

/-- The format of the values of a float run. -/
def runFmt (t : Ty) : Fmt := if isSub t then f9 else f27

/-- The word of value p of lane i in the float run at register r (R304). -/
def Iss.runWord (x : Iss) (t : Ty) (r : VReg) (i p : Nat) : Int :=
  if isSub t then subLane (p % 3) (getZ (vKey (r.val + p / 3) i) x.gang.v) else getZ (vKey (r.val + p) i) x.gang.v

/-- The lanes among ls whose descriptor in register r fails (R34, R311). -/
def Iss.badDescs (x : Iss) (r : VReg) (ls : List Nat) : List (Nat × Cause × Int) :=
  (ls.filter fun i => (readDesc (x.v r i)).isNone).map fun i => (i, Cause.descriptorInvalid, (0 : Int))

/-- The descriptor of a lane; where it is invalid the instruction has trapped. -/
def Iss.desc (x : Iss) (r : VReg) (i : Nat) : Desc := (readDesc (x.v r i)).getD ⟨⟨0, 0⟩, 0, 0⟩

/-- A quantising instruction: what it names, and for each active lane what it writes, nine draws a lane where its elements
round (R27, R304). run is the number of registers of its destination. -/
def quantise (f : MxqF) (run : Nat) (srcs : List VReg) (faults : Iss → List Nat → List (Nat × Cause × Int)) (draws : Bool)
    (counted : Nat) (r : Iss → Nat → List Int × FlagSet) (s : State) : Answer :=
  issue (fun x =>
      { Uses.none with
        dests := (vrun f.d.val run).map .vec,
        vregs := vrun f.d.val run ++ srcs, faults := faults x (x.active f.attr f.mask) })
    (fun x _ s =>
      let ls := x.active f.attr f.mask
      let rs := ls.map fun i => (i, r x i)
      let s1 := (vrun f.d.val run).zipIdx.foldl (fun s q =>
        x.modGang (fun g => g.setLanes q.1 ((rs.map fun p => (p.1, p.2.1.getD q.2 0)) ++ (x.zeroed f.attr f.mask).map fun i => (i, 0))) s) s
      let s2 := if draws then x.spend (x.rnd f.attr) (ls.map fun i => (i, 9)) s1 else s1
      .ok (x.countElems (counted * ls.length) (x.raise (joinAll (rs.map fun p => p.2.2)) s2))) s

/-- Nine codes with the flags of forming them. -/
def codeWord (rs : List Res) : List Int × FlagSet := ([wordOfCodes (rs.map Res.val)], joinAll (rs.map Res.flags))

/-- QNT (R305). -/
def execQnt (f : MxqF) (s : State) : Answer :=
  quantise f 1 (floatRun f.ty f.a ++ [f.b]) (fun x ls => x.when (runOut f.ty f.a) .valueRange ++ x.badDescs f.b ls) true 9
    (fun x i => codeWord ((List.range 9).map fun p =>
      (x.desc f.b i).quantiseFloat (runFmt f.ty) (x.rnd f.attr) (x.gang.draw i p) (x.runWord f.ty f.a i p))) s

/-- The register words of nine values of a lane (R304). -/
def runWords (t : Ty) (vs : List Int) : List Int :=
  if isSub t then (List.range 3).map fun k => ofSubLanes (vs.getD (3 * k) 0) (vs.getD (3 * k + 1) 0) (vs.getD (3 * k + 2) 0) else vs

/-- DQNT (R306). -/
def execDqnt (f : MxqF) (s : State) : Answer :=
  quantise f (runLen f.ty) [f.a, f.b] (fun x ls => x.when (runOut f.ty f.d) .valueRange ++ x.badDescs f.b ls) true 9
    (fun x i =>
      let d := x.desc f.b i
      let rs := (codesOf (x.v f.a i)).zipIdx.map fun p =>
        (runFmt f.ty).round false (x.rnd f.attr) (x.gang.draw i p.2) (d.element p.1).frac
      (runWords f.ty (rs.map Res.val), joinAll (rs.map Res.flags))) s

/-- RQZ (R307). -/
def execRqz (f : MxqF) (s : State) : Answer :=
  let c := fourthReg f.attr
  quantise f 1 [f.a, f.b, c] (fun x ls => x.badDescs f.b ls ++ x.badDescs c ls) true 9
    (fun x i => codeWord ((codesOf (x.v f.a i)).zipIdx.map fun p =>
      (x.desc c i).quantise (x.rnd f.attr) (x.gang.draw i p.2) ((x.desc f.b i).element p.1).frac)) s

/-- The greatest magnitude among finite values. -/
def maxMag (vs : List FVal) : Frac :=
  vs.foldl (fun m v =>
    match v with
    | .fin x => let y : Frac := ⟨(x.frac.num.natAbs : Int), x.frac.den⟩; if m.lt y then y else m
    | _ => m) ⟨0, 1⟩

/-- The scale that BSCL gives a block of 27 values under a type and a zero point (R308). -/
def blockScale (vs : List FVal) (ty z : Int) : Res :=
  if vs.any fun v => decide (v = .nan) then ⟨f18.nan, fInvalid⟩
  else if vs.any fun v => match v with | .inf _ => true | _ => false then ⟨f18.inf, 0⟩
  else
    let t := codeValue ty 13 - ((codeValue ty z).natAbs : Int)
    f18.round false .up 0 (Frac.div (Frac.mul (maxMag vs) (Frac.ofInt 729)) (Frac.ofInt t))

/-- The causes that a descriptor of BSCL raises (R308, R311): type and reserved trits, and a zero point that makes its divisor 0. -/
def scaleFaults (w : Int) : List Cause :=
  (if (readDesc (setSub 9 18 0 w)).isNone then [.descriptorInvalid] else []) ++
    if (sub 4 3 w).natAbs = 13 then [.valueRange] else []

/-- BSCL (R308). -/
def execBscl (f : MxqF) (s : State) : Answer :=
  quantise f 1 (floatRun f.ty f.a ++ [f.b])
    (fun x ls => x.when (runOut f.ty f.a) .valueRange ++
      ls.flatMap fun i => (scaleFaults (x.v f.b i)).map fun c => (i, c, (0 : Int)))
    false 1
    (fun x i =>
      let vs := (List.range 27).map fun q => (runFmt f.ty).value (x.runWord f.ty f.a (3 * (i / 3) + q / 9) (q % 9))
      let w := x.v f.b i
      let r := blockScale vs (sub 7 2 w) (sub 4 3 w)
      ([setSub 9 18 r.val w], r.flags)) s

/-- The bases of ZPK and ZUPK are multiples of 9 (R309, R311). -/
def Iss.baseFaults (x : Iss) (f : ZpkF) : List (Nat × Cause × Int) :=
  x.when (decide (f.d.val % 9 ≠ 0) || decide (f.a.val % 9 ≠ 0)) .valueRange

/-- ZPK (R309). -/
def execZpk (f : ZpkF) (s : State) : Answer :=
  issue (fun x =>
      { Uses.none with
        dests := (vrun f.d.val 9).map .vec ++ x.sDests f.sb,
        vregs := vrun f.d.val 9 ++ vrun f.a.val 9, faults := x.baseFaults f })
    (fun x _ s =>
      let st := packStream 3 81 (x.gang.words f.a.val 9)
      let n := st.length
      let fits := decide (n ≤ 243)
      let s1 := if fits then x.modGang (fun g => { g with v := setRangeZ (27 * f.d.val) (st ++ List.replicate (243 - n) 0) g.v }) s else s
      .ok (x.countElems 243 (x.setS f.sb (x.slices.map fun k => (k, if fits then (n : Int) else 0)) s1))) s

/-- ZUPK (R309): it reads the stream as far as its length, as the two streams of MXM are read. -/
def execZupk (f : ZpkF) (s : State) : Answer :=
  issue (fun x =>
      { Uses.none with
        dests := (vrun f.d.val 9).map .vec,
        vregs := vrun f.d.val 9 ++ vrun f.a.val 9,
        faults := x.baseFaults f ++ x.when (x.gang.fragment f.a.val).isNone .streamMalformed })
    (fun x _ s =>
      let ws := (x.gang.fragment f.a.val).getD []
      .ok (x.countElems 243 (x.modGang (fun g => { g with v := setRangeZ (27 * f.d.val) ws g.v }) s))) s

/-- A packed product as a lane-wise instruction (R310): one element a lane, with the accumulator in the fourth operand. -/
def packed (f : MxqF) (draws : Bool) (r : Bool → Rnd → Int → Int → Int → Int → Res) : LaneOp :=
  { attr := f.attr, mask := f.mask, la := f.la, ty := .i27, hasA := true, hasB := true, fourth := true, draws := draws,
    all := false, f := fun sat rnd d _ a b c => r sat rnd (d 0) a b c }

/-- The products of the sub-lanes of two words, as float values (R310). -/
def subProducts (a b : Int) : List (FVal × FVal) := (List.range 3).map fun k => (f9.value (subLane k a), f9.value (subLane k b))

/-- VDOT (R310). -/
def execVdot (f : MxqF) (s : State) : Answer :=
  let o :=
    if isFloat f.ty then packed f true (fun _ rnd d a b c => f27.dot rnd d (f27.value c) (subProducts a b))
    else packed f false (fun sat _ _ a b c => fitInt 27 sat (c + ((List.range 3).map fun k => subLane k a * subLane k b).sum))
  laneRegs o f.d f.a f.b s

/-- VDOTN (R310). -/
def execVdotn (f : MxqF) (s : State) : Answer :=
  laneRegs (packed f false fun sat _ _ a b c => fitInt 27 sat (c + (List.zipWith (fun p q => p * q) (codesOf a) (codesOf b)).sum))
    f.d f.a f.b s

end Sys2Proof.Machine
end

