-- ==== Sys2Proof/Machine/Scalar.lean ====
section
/-!
DEFINITION. Scalar arithmetic and trit logic: the majors SALU (R80 to R83) and SIMM (R84).
-/
namespace Sys2Proof.Machine

/-- One SALU instruction: f gives the result of width n from saturation, mode, draw and the two operands; draws says that
the instruction rounds by the mode (R27, R81). -/
def salu (c : SaluF) (draws : Bool) (f : Nat → Bool → Rnd → Int → Int → Int → Res) (s : State) : Answer :=
  issue (fun x => { Uses.none with dests := x.sDests c.d, opens := x.sOpens c.la })
    (fun x _ s =>
      let n := widthOf c.ty
      let rnd := x.rnd c.attr
      let r (k : Nat) : Res := f n (satOf c.attr) rnd (x.gang.draw (3 * k) 0) (wrap n (x.s k c.a)) (wrap n (x.s k c.b))
      let s1 := if draws then x.spend rnd (x.slices.map fun k => (3 * k, 1)) s else s
      .ok (x.putS c.la c.d (x.slices.map fun k => (k, r k)) s1)) s

/-- ADD (R81). -/
def execAdd (f : SaluF) (s : State) : Answer := salu f false (fun n sat _ _ x y => fitInt n sat (x + y)) s
/-- SUB (R81). -/
def execSub (f : SaluF) (s : State) : Answer := salu f false (fun n sat _ _ x y => fitInt n sat (x - y)) s
/-- MUL (R81). -/
def execMul (f : SaluF) (s : State) : Answer := salu f false (fun n sat _ _ x y => fitInt n sat (x * y)) s
/-- MULH (R81): the high n trits of the exact product. -/
def execMulh (f : SaluF) (s : State) : Answer :=
  salu f false (fun n _ _ _ x y => ⟨(x * y - wrap n (x * y)) / pow3 n, 0⟩) s
/-- DIV (R81, R83). -/
def execDiv (f : SaluF) (s : State) : Answer := salu f true (fun n _ rnd d x y => divInt n rnd d x y) s
/-- REM (R81, R83). -/
def execRem (f : SaluF) (s : State) : Answer :=
  salu f true (fun n _ rnd d x y => let q := divInt n rnd d x y; ⟨x - y * q.val, q.flags⟩) s
/-- CMP (R81). -/
def execCmp (f : SaluF) (s : State) : Answer := salu f false (fun _ _ _ _ x y => ⟨cmpTrit x y, 0⟩) s
/-- MIN (R81). -/
def execMin (f : SaluF) (s : State) : Answer := salu f false (fun _ _ _ _ x y => ⟨min x y, 0⟩) s
/-- MAX (R81). -/
def execMax (f : SaluF) (s : State) : Answer := salu f false (fun _ _ _ _ x y => ⟨max x y, 0⟩) s
/-- TINV (R81). -/
def execTinv (f : SaluF) (s : State) : Answer := salu f false (fun _ _ _ _ x _ => ⟨-x, 0⟩) s
/-- TMIN (R81). -/
def execTmin (f : SaluF) (s : State) : Answer := salu f false (fun n _ _ _ x y => ⟨tritwise min n x y, 0⟩) s
/-- TMAX (R81). -/
def execTmax (f : SaluF) (s : State) : Answer := salu f false (fun n _ _ _ x y => ⟨tritwise max n x y, 0⟩) s
/-- TSUM (R81). -/
def execTsum (f : SaluF) (s : State) : Answer := salu f false (fun n _ _ _ x y => ⟨tritwise tritSum n x y, 0⟩) s
/-- TCON (R81). -/
def execTcon (f : SaluF) (s : State) : Answer := salu f false (fun n _ _ _ x y => ⟨tritwise consensus n x y, 0⟩) s
/-- SHL (R82): the count is y. -/
def execShl (f : SaluF) (s : State) : Answer := salu f true (fun n sat rnd d x y => shiftInt n sat rnd d x y) s
/-- SHR (R82): the count is -y. -/
def execShr (f : SaluF) (s : State) : Answer := salu f true (fun n sat rnd d x y => shiftInt n sat rnd d x (-y)) s

/-- One SIMM instruction on i54 (R84). -/
def simm (c : SimmF) (draws : Bool) (f : Bool → Rnd → Int → Int → Res) (s : State) : Answer :=
  issue (fun x => { Uses.none with dests := x.sDests c.d })
    (fun x _ s =>
      let rnd := x.rnd c.attr
      let r (k : Nat) : Res := f (satOf c.attr) rnd (x.gang.draw (3 * k) 0) (x.s k c.a)
      let s1 := if draws then x.spend rnd (x.slices.map fun k => (3 * k, 1)) s else s
      .ok (x.putS 0 c.d (x.slices.map fun k => (k, r k)) s1)) s

/-- ADDI (R84). -/
def execAddi (f : SimmF) (s : State) : Answer := simm f false (fun sat _ _ a => fitInt 54 sat (a + f.imm)) s
/-- MULI (R84). -/
def execMuli (f : SimmF) (s : State) : Answer := simm f false (fun sat _ _ a => fitInt 54 sat (a * f.imm)) s
/-- CMPI (R84). -/
def execCmpi (f : SimmF) (s : State) : Answer := simm f false (fun _ _ _ a => ⟨cmpTrit a f.imm, 0⟩) s
/-- SHLI (R84). -/
def execShli (f : SimmF) (s : State) : Answer := simm f true (fun sat rnd d a => shiftInt 54 sat rnd d a f.imm) s
/-- SHRI (R84). -/
def execShri (f : SimmF) (s : State) : Answer := simm f true (fun sat rnd d a => shiftInt 54 sat rnd d a (-f.imm)) s
/-- TMINI (R84). -/
def execTmini (f : SimmF) (s : State) : Answer := simm f false (fun _ _ _ a => ⟨tritwise min 54 a f.imm, 0⟩) s
/-- TMAXI (R84). -/
def execTmaxi (f : SimmF) (s : State) : Answer := simm f false (fun _ _ _ a => ⟨tritwise max 54 a f.imm, 0⟩) s
/-- TSUMI (R84). -/
def execTsumi (f : SimmF) (s : State) : Answer := simm f false (fun _ _ _ a => ⟨tritwise tritSum 54 a f.imm, 0⟩) s
/-- LDI (R84). -/
def execLdi (f : SimmF) (s : State) : Answer := simm f false (fun _ _ _ _ => ⟨f.imm, 0⟩) s
/-- LDHI (R84). -/
def execLdhi (f : SimmF) (s : State) : Answer := simm f false (fun sat _ _ a => fitInt 54 sat (a * 531441 + f.imm)) s

end Sys2Proof.Machine
end

