-- ==== Sys2Proof/Machine/ScalarMem.lean ====
section
/-!
DEFINITION. Scalar loads and stores, LEA and PF: the major SMEM (R94 to R96).
-/
namespace Sys2Proof.Machine

/-- The lanes of slice k. -/
def sliceLanes (k : Nat) : List Nat := [3 * k, 3 * k + 1, 3 * k + 2]

/-- The effective address of slice k (R54, R95). -/
def Iss.smemAddr (x : Iss) (c : SmemF) (unit : Int) (k : Nat) : Int := x.s k c.b + c.off * unit

/-- The accesses of a scalar form of n trytes (R95, R157). -/
def Iss.smemAccs (x : Iss) (c : SmemF) (n : Nat) (op : AccOp) : List Acc :=
  x.slices.map fun k =>
    let a := x.smemAddr c n k
    { lanes := sliceLanes k, lane := some (3 * k), addr := a, len := n, op := op, aligned := decide (n = 1) || decide (a % 3 = 0) }

/-- LD of n trytes (R95). -/
def smemLoad (n : Nat) (c : SmemF) (s : State) : Answer :=
  issue (fun x => { Uses.none with dests := x.sDests c.d, accs := x.smemAccs c n .load, opens := x.sOpens c.la, leases := true })
    (fun x got s => .ok (x.putS c.la c.d (x.slices.zipIdx.map fun p => (p.1, ⟨got.read s p.2, 0⟩)) s)) s

/-- ST of n trytes (R95): a value that does not fit saturates. -/
def smemStore (n : Nat) (c : SmemF) (s : State) : Answer :=
  issue (fun x => { Uses.none with accs := x.smemAccs c n .store })
    (fun x got s =>
      let f := joinAll (x.slices.map fun k => flagIf (outside (9 * n) (x.s k c.d)) fNarrow)
      .ok (x.raise f (x.slices.zipIdx.foldl (fun s p => got.write x p.2 (toTrytes n (clamp (9 * n) (x.s p.1 c.d))) s) s))) s

/-- LD.i9 (R95). -/
def execLdI9 (f : SmemF) (s : State) : Answer := smemLoad 1 f s
/-- LD.i27 (R95). -/
def execLdI27 (f : SmemF) (s : State) : Answer := smemLoad 3 f s
/-- LD.i54 (R95). -/
def execLdI54 (f : SmemF) (s : State) : Answer := smemLoad 6 f s
/-- ST.i9 (R95). -/
def execStI9 (f : SmemF) (s : State) : Answer := smemStore 1 f s
/-- ST.i27 (R95). -/
def execStI27 (f : SmemF) (s : State) : Answer := smemStore 3 f s
/-- ST.i54 (R95). -/
def execStI54 (f : SmemF) (s : State) : Answer := smemStore 6 f s

/-- LEA (R95): no access, no check. -/
def execLea (f : SmemF) (s : State) : Answer :=
  issue (fun x => { Uses.none with dests := x.sDests f.d })
    (fun x _ s => .ok (x.setS f.d (x.slices.map fun k => (k, wrap 54 (x.smemAddr f 1 k))) s)) s

/-- PF (R95): lines that translate move toward the slice; nothing else. -/
def execPf (f : SmemF) (s : State) : Answer :=
  issue (fun _ => Uses.none)
    (fun x _ s =>
      .ok (x.slices.foldl (fun s k =>
        let a := x.smemAddr f 81 k
        match s.locate (x.who (some (3 * k))) .load a 1 with
        | .ok ls => s.touch (x.who (some (3 * k))) .load a ls
        | _ => s) s)) s

end Sys2Proof.Machine
end

