-- ==== Sys2Proof/Machine/Dispatch.lean ====
section
/-!
DEFINITION. The meaning of every instruction: one arm per row of the opcode table.
-/
namespace Sys2Proof.Machine

/-- The meaning of instruction i in state s. -/
def exec (i : Instr) (s : State) : Host.Outcome State Fault Refusal :=
  match i with
  | .add f => Sys2Proof.Machine.execAdd f s
  | .sub f => Sys2Proof.Machine.execSub f s
  | .mul f => Sys2Proof.Machine.execMul f s
  | .mulh f => Sys2Proof.Machine.execMulh f s
  | .div f => Sys2Proof.Machine.execDiv f s
  | .rem f => Sys2Proof.Machine.execRem f s
  | .cmp f => Sys2Proof.Machine.execCmp f s
  | .min f => Sys2Proof.Machine.execMin f s
  | .max f => Sys2Proof.Machine.execMax f s
  | .tinv f => Sys2Proof.Machine.execTinv f s
  | .tmin f => Sys2Proof.Machine.execTmin f s
  | .tmax f => Sys2Proof.Machine.execTmax f s
  | .tsum f => Sys2Proof.Machine.execTsum f s
  | .tcon f => Sys2Proof.Machine.execTcon f s
  | .shl f => Sys2Proof.Machine.execShl f s
  | .shr f => Sys2Proof.Machine.execShr f s
  | .addi f => Sys2Proof.Machine.execAddi f s
  | .muli f => Sys2Proof.Machine.execMuli f s
  | .cmpi f => Sys2Proof.Machine.execCmpi f s
  | .shli f => Sys2Proof.Machine.execShli f s
  | .shri f => Sys2Proof.Machine.execShri f s
  | .tmini f => Sys2Proof.Machine.execTmini f s
  | .tmaxi f => Sys2Proof.Machine.execTmaxi f s
  | .tsumi f => Sys2Proof.Machine.execTsumi f s
  | .ldi f => Sys2Proof.Machine.execLdi f s
  | .ldhi f => Sys2Proof.Machine.execLdhi f s
  | .b c r disp => Sys2Proof.Machine.execB c r disp s
  | .b3 r neg pos => Sys2Proof.Machine.execB3 r neg pos s
  | .call link disp => Sys2Proof.Machine.execCall link disp s
  | .jr r => Sys2Proof.Machine.execJr r s
  | .jalr link r => Sys2Proof.Machine.execJalr link r s
  | .ret r => Sys2Proof.Machine.execRet r s
  | .nop => Sys2Proof.Machine.execNop s
  | .trap r code => Sys2Proof.Machine.execTrap r code s
  | .rett => Sys2Proof.Machine.execRett s
  | .brk code => Sys2Proof.Machine.execBrk code s
  | .exit => Sys2Proof.Machine.execExit s
  | .rdsr r sr => Sys2Proof.Machine.execRdsr r sr s
  | .wrsr r sr => Sys2Proof.Machine.execWrsr r sr s
  | .regang set => Sys2Proof.Machine.execRegang set s
  | .ldI9 f => Sys2Proof.Machine.execLdI9 f s
  | .ldI27 f => Sys2Proof.Machine.execLdI27 f s
  | .ldI54 f => Sys2Proof.Machine.execLdI54 f s
  | .stI9 f => Sys2Proof.Machine.execStI9 f s
  | .stI27 f => Sys2Proof.Machine.execStI27 f s
  | .stI54 f => Sys2Proof.Machine.execStI54 f s
  | .lea f => Sys2Proof.Machine.execLea f s
  | .pf f => Sys2Proof.Machine.execPf f s
  | .vadd f => Sys2Proof.Machine.execVadd f s
  | .vsub f => Sys2Proof.Machine.execVsub f s
  | .vmul f => Sys2Proof.Machine.execVmul f s
  | .vdiv f => Sys2Proof.Machine.execVdiv f s
  | .vmin f => Sys2Proof.Machine.execVmin f s
  | .vmax f => Sys2Proof.Machine.execVmax f s
  | .vfma f => Sys2Proof.Machine.execVfma f s
  | .vfms f => Sys2Proof.Machine.execVfms f s
  | .vabs f => Sys2Proof.Machine.execVabs f s
  | .vcmp f => Sys2Proof.Machine.execVcmp f s
  | .vsel3 f => Sys2Proof.Machine.execVsel3 f s
  | .vtinv f => Sys2Proof.Machine.execVtinv f s
  | .vtmin f => Sys2Proof.Machine.execVtmin f s
  | .vtmax f => Sys2Proof.Machine.execVtmax f s
  | .vtsum f => Sys2Proof.Machine.execVtsum f s
  | .vtcon f => Sys2Proof.Machine.execVtcon f s
  | .vshl f => Sys2Proof.Machine.execVshl f s
  | .vshr f => Sys2Proof.Machine.execVshr f s
  | .vmov f => Sys2Proof.Machine.execVmov f s
  | .vrcp f => Sys2Proof.Machine.execVrcp f s
  | .vrsq f => Sys2Proof.Machine.execVrsq f s
  | .vsqrt f => Sys2Proof.Machine.execVsqrt f s
  | .vexp3 f => Sys2Proof.Machine.execVexp3 f s
  | .vlog3 f => Sys2Proof.Machine.execVlog3 f s
  | .vexp f => Sys2Proof.Machine.execVexp f s
  | .vlog f => Sys2Proof.Machine.execVlog f s
  | .vsin f => Sys2Proof.Machine.execVsin f s
  | .vcos f => Sys2Proof.Machine.execVcos f s
  | .vtanh f => Sys2Proof.Machine.execVtanh f s
  | .cvt f => Sys2Proof.Machine.execCvt f s
  | .vpack f => Sys2Proof.Machine.execVpack f s
  | .vunpk f => Sys2Proof.Machine.execVunpk f s
  | .vshfl f => Sys2Proof.Machine.execVshfl f s
  | .vrotl f => Sys2Proof.Machine.execVrotl f s
  | .vbcast f => Sys2Proof.Machine.execVbcast f s
  | .vred f => Sys2Proof.Machine.execVred f s
  | .vscan f => Sys2Proof.Machine.execVscan f s
  | .vcompr f => Sys2Proof.Machine.execVcompr f s
  | .vexpd f => Sys2Proof.Machine.execVexpd f s
  | .vidx f => Sys2Proof.Machine.execVidx f s
  | .vins f => Sys2Proof.Machine.execVins f s
  | .vext f => Sys2Proof.Machine.execVext f s
  | .mmin d a b => Sys2Proof.Machine.execMmin d a b s
  | .mmax d a b => Sys2Proof.Machine.execMmax d a b s
  | .minv d a => Sys2Proof.Machine.execMinv d a s
  | .mcon d a b => Sys2Proof.Machine.execMcon d a b s
  | .mset d a => Sys2Proof.Machine.execMset d a s
  | .mget d a => Sys2Proof.Machine.execMget d a s
  | .mcnt d a c => Sys2Proof.Machine.execMcnt d a c s
  | .vaddi f => Sys2Proof.Machine.execVaddi f s
  | .vmuli f => Sys2Proof.Machine.execVmuli f s
  | .vcmpi f => Sys2Proof.Machine.execVcmpi f s
  | .vshli f => Sys2Proof.Machine.execVshli f s
  | .vshri f => Sys2Proof.Machine.execVshri f s
  | .vldi f => Sys2Proof.Machine.execVldi f s
  | .vld f => Sys2Proof.Machine.execVld f s
  | .vst f => Sys2Proof.Machine.execVst f s
  | .vgth f => Sys2Proof.Machine.execVgth f s
  | .vsct f => Sys2Proof.Machine.execVsct f s
  | .vpf f => Sys2Proof.Machine.execVpf f s
  | .sweepSegment j => Sys2Proof.Machine.execSweepSegment j s
  | .lookaheadResultLands team gang => Sys2Proof.Machine.execLookaheadResultLands team gang s
  | .phinit x y => Sys2Proof.Machine.execPhinit x y s
  | .pharr x y z => Sys2Proof.Machine.execPharr x y z s
  | .pharrW x y z => Sys2Proof.Machine.execPharrW x y z s
  | .phexp x y => Sys2Proof.Machine.execPhexp x y s
  | .phwait x y => Sys2Proof.Machine.execPhwait x y s
  | .bar m => Sys2Proof.Machine.execBar m s
  | .syncs x => Sys2Proof.Machine.execSyncs x s
  | .yield x y z => Sys2Proof.Machine.execYield x y z s
  | .racq x m => Sys2Proof.Machine.execRacq x m s
  | .racqW x => Sys2Proof.Machine.execRacqW x s
  | .rrel x => Sys2Proof.Machine.execRrel x s
  | .phase x y => Sys2Proof.Machine.execPhase x y s
  | .phaseT x y => Sys2Proof.Machine.execPhaseT x y s
  | .waitRelease j => Sys2Proof.Machine.execWaitRelease j s
  | .yieldResume j => Sys2Proof.Machine.execYieldResume j s
  | .cpyG f => Sys2Proof.Machine.execCpyG f s
  | .cpyS f => Sys2Proof.Machine.execCpyS f s
  | .cpseal x y => Sys2Proof.Machine.execCpseal x y s
  | .cpwaitRd x => Sys2Proof.Machine.execCpwaitRd x s
  | .cpwaitVis x => Sys2Proof.Machine.execCpwaitVis x s
  | .laneCopyReadDone id => Sys2Proof.Machine.execLaneCopyReadDone id s
  | .laneCopyVisible id => Sys2Proof.Machine.execLaneCopyVisible id s
  | .faultedCopyFinish id => Sys2Proof.Machine.execFaultedCopyFinish id s
  | .jobsub x y => Sys2Proof.Machine.execJobsub x y s
  | .jobqry x y => Sys2Proof.Machine.execJobqry x y s
  | .advstg x y => Sys2Proof.Machine.execAdvstg x y s
  | .jobStart ctx job => Sys2Proof.Machine.execJobStart ctx job s
  | .jobAccess ctx job => Sys2Proof.Machine.execJobAccess ctx job s
  | .jobReadDone ctx job => Sys2Proof.Machine.execJobReadDone ctx job s
  | .jobVisibleCompletion ctx job => Sys2Proof.Machine.execJobVisibleCompletion ctx job s
  | .m2mJobAck ctx job => Sys2Proof.Machine.execM2mJobAck ctx job s
  | .faultedJobFinish ctx job => Sys2Proof.Machine.execFaultedJobFinish ctx job s
  | .ldbS8 f => Sys2Proof.Machine.execLdbS8 f s
  | .ldbS16 f => Sys2Proof.Machine.execLdbS16 f s
  | .ldbS32 f => Sys2Proof.Machine.execLdbS32 f s
  | .ldbS64 f => Sys2Proof.Machine.execLdbS64 f s
  | .ldbZ8 f => Sys2Proof.Machine.execLdbZ8 f s
  | .ldbZ16 f => Sys2Proof.Machine.execLdbZ16 f s
  | .ldbZ32 f => Sys2Proof.Machine.execLdbZ32 f s
  | .stbS8 f => Sys2Proof.Machine.execStbS8 f s
  | .stbS16 f => Sys2Proof.Machine.execStbS16 f s
  | .stbS32 f => Sys2Proof.Machine.execStbS32 f s
  | .stbS64 f => Sys2Proof.Machine.execStbS64 f s
  | .stbZ8 f => Sys2Proof.Machine.execStbZ8 f s
  | .stbZ16 f => Sys2Proof.Machine.execStbZ16 f s
  | .stbZ32 f => Sys2Proof.Machine.execStbZ32 f s
  | .aadd f => Sys2Proof.Machine.execAadd f s
  | .amin f => Sys2Proof.Machine.execAmin f s
  | .amax f => Sys2Proof.Machine.execAmax f s
  | .aswp f => Sys2Proof.Machine.execAswp f s
  | .acas f => Sys2Proof.Machine.execAcas f s
  | .atomicServe => Sys2Proof.Machine.execAtomicServe s
  | .redm x y op ty => Sys2Proof.Machine.execRedm x y op ty s
  | .redmUpdate id => Sys2Proof.Machine.execRedmUpdate id s
  | .fence sc => Sys2Proof.Machine.execFence sc s
  | .tlbinv x y z sc => Sys2Proof.Machine.execTlbinv x y z sc s
  | .tlbinvComplete id => Sys2Proof.Machine.execTlbinvComplete id s
  | .translationWalk core ctx a => Sys2Proof.Machine.execTranslationWalk core ctx a s
  | .cwb x y => Sys2Proof.Machine.execCwb x y s
  | .cinv x y => Sys2Proof.Machine.execCinv x y s
  | .cwbi x y => Sys2Proof.Machine.execCwbi x y s
  | .mxmN3 f desc => Sys2Proof.Machine.execMxmN3 f desc s
  | .mxmN3Z f desc => Sys2Proof.Machine.execMxmN3Z f desc s
  | .mxmI9 f sat => Sys2Proof.Machine.execMxmI9 f sat s
  | .mxmF9 f rnd => Sys2Proof.Machine.execMxmF9 f rnd s
  | .mxmI27 f sat => Sys2Proof.Machine.execMxmI27 f sat s
  | .mxmF27 f rnd => Sys2Proof.Machine.execMxmF27 f rnd s
  | .matrixOpEnterArray core => Sys2Proof.Machine.execMatrixOpEnterArray core s
  | .matrixOpRetire core => Sys2Proof.Machine.execMatrixOpRetire core s
  | .mxz x => Sys2Proof.Machine.execMxz x s
  | .tld x y z => Sys2Proof.Machine.execTld x y z s
  | .tldC x y z => Sys2Proof.Machine.execTldC x y z s
  | .tst x y z => Sys2Proof.Machine.execTst x y z s
  | .tstC x y z => Sys2Proof.Machine.execTstC x y z s
  | .tileMoveLand team gang => Sys2Proof.Machine.execTileMoveLand team gang s
  | .twait x => Sys2Proof.Machine.execTwait x s
  | .mxseal x => Sys2Proof.Machine.execMxseal x s
  | .mxwait x => Sys2Proof.Machine.execMxwait x s
  | .tkgive x y => Sys2Proof.Machine.execTkgive x y s
  | .tokenPass team tile => Sys2Proof.Machine.execTokenPass team tile s
  | .tktake x y => Sys2Proof.Machine.execTktake x y s
  | .qnt f => Sys2Proof.Machine.execQnt f s
  | .dqnt f => Sys2Proof.Machine.execDqnt f s
  | .rqz f => Sys2Proof.Machine.execRqz f s
  | .bscl f => Sys2Proof.Machine.execBscl f s
  | .zpk f => Sys2Proof.Machine.execZpk f s
  | .zupk f => Sys2Proof.Machine.execZupk f s
  | .vdot f => Sys2Proof.Machine.execVdot f s
  | .vdotn f => Sys2Proof.Machine.execVdotn f s
  | .portcfg x y z => Sys2Proof.Machine.execPortcfg x y z s
  | .post x y => Sys2Proof.Machine.execPost x y s
  | .postNf x y m => Sys2Proof.Machine.execPostNf x y m s
  | .patset x y z prio => Sys2Proof.Machine.execPatset x y z prio s
  | .paten x => Sys2Proof.Machine.execPaten x s
  | .patdis x => Sys2Proof.Machine.execPatdis x s
  | .portqry x y => Sys2Proof.Machine.execPortqry x y s
  | .sigdec x y z => Sys2Proof.Machine.execSigdec x y z s
  | .sigadd x y z => Sys2Proof.Machine.execSigadd x y z s
  | .sigbind x y z => Sys2Proof.Machine.execSigbind x y z s
  | .heldSignalPostLand n => Sys2Proof.Machine.execHeldSignalPostLand n s
  | .joinUnitCycle core => Sys2Proof.Machine.execJoinUnitCycle core s
  | .launch x => Sys2Proof.Machine.execLaunch x s
  | .redsub x y => Sys2Proof.Machine.execRedsub x y s
  | .redqry x y => Sys2Proof.Machine.execRedqry x y s
  | .trcev x code => Sys2Proof.Machine.execTrcev x code s
  | .trcctlStart x => Sys2Proof.Machine.execTrcctlStart x s
  | .trcctlStop x => Sys2Proof.Machine.execTrcctlStop x s
  | .trcctlFlush x => Sys2Proof.Machine.execTrcctlFlush x s
  | .prfctl x k => Sys2Proof.Machine.execPrfctl x k s
  | .watch x n => Sys2Proof.Machine.execWatch x n s
  | .unwatch n => Sys2Proof.Machine.execUnwatch n s
  | .dbgwin x n => Sys2Proof.Machine.execDbgwin x n s
  | .haltg x => Sys2Proof.Machine.execHaltg x s
  | .resmg x => Sys2Proof.Machine.execResmg x s
  | .timerd d sel => Sys2Proof.Machine.execTimerd d sel s
  | .accrd d agency c => Sys2Proof.Machine.execAccrd d agency c s
  | .accrdSnapshot d agency => Sys2Proof.Machine.execAccrdSnapshot d agency s
  | .engineWatchStop team gang => Sys2Proof.Machine.execEngineWatchStop team gang s
  | .gridCompletion grid => Sys2Proof.Machine.execGridCompletion grid s
  | .teamEnd team => Sys2Proof.Machine.execTeamEnd team s
  | .distributorPlace => Sys2Proof.Machine.execDistributorPlace s
  | .highPriorityWaitExpiry => Sys2Proof.Machine.execHighPriorityWaitExpiry s
  | .midPhaseSaveWrite team => Sys2Proof.Machine.execMidPhaseSaveWrite team s
  | .queueEntryProcess port q => Sys2Proof.Machine.execQueueEntryProcess port q s
  | .queueTailWrite port q tail => Sys2Proof.Machine.execQueueTailWrite port q tail s
  | .queueStateWrite port q st => Sys2Proof.Machine.execQueueStateWrite port q st s
  | .contextCreate port c => Sys2Proof.Machine.execContextCreate port c s
  | .contextDestroy port ctx => Sys2Proof.Machine.execContextDestroy port ctx s
  | .openLanding port ctx peer peerCtx => Sys2Proof.Machine.execOpenLanding port ctx peer peerCtx s
  | .closeLanding port ctx peer peerCtx => Sys2Proof.Machine.execCloseLanding port ctx peer peerCtx s
  | .registerWrite port off bytes => Sys2Proof.Machine.execRegisterWrite port off bytes s
  | .rawWindowWrite w => Sys2Proof.Machine.execRawWindowWrite w s
  | .rawWindowRead r => Sys2Proof.Machine.execRawWindowRead r s
  | .integerWindowWrite w => Sys2Proof.Machine.execIntegerWindowWrite w s
  | .integerWindowRead r => Sys2Proof.Machine.execIntegerWindowRead r s
  | .floatWindowWrite w => Sys2Proof.Machine.execFloatWindowWrite w s
  | .floatWindowRead r => Sys2Proof.Machine.execFloatWindowRead r s
  | .physicalWindowWrite w => Sys2Proof.Machine.execPhysicalWindowWrite w s
  | .physicalWindowRead r => Sys2Proof.Machine.execPhysicalWindowRead r s
  | .flitReceive port f => Sys2Proof.Machine.execFlitReceive port f s
  | .remoteRequestServe => Sys2Proof.Machine.execRemoteRequestServe s
  | .portDiscovery port n => Sys2Proof.Machine.execPortDiscovery port n s
  | .linkDownTimeout port => Sys2Proof.Machine.execLinkDownTimeout port s
  | .moduleFence m => Sys2Proof.Machine.execModuleFence m s
  | .fenceAnnouncement m => Sys2Proof.Machine.execFenceAnnouncement m s
  | .peerFreeze m => Sys2Proof.Machine.execPeerFreeze m s
  | .reductionContributionArrive => Sys2Proof.Machine.execReductionContributionArrive s
  | .flagFall key => Sys2Proof.Machine.execFlagFall key s
  | .rootWrite key => Sys2Proof.Machine.execRootWrite key s
  | .rootWriteTimeout key => Sys2Proof.Machine.execRootWriteTimeout key s
  | .correctionApply key => Sys2Proof.Machine.execCorrectionApply key s
  | .reductionClose key => Sys2Proof.Machine.execReductionClose key s
  | .reductionMapExpiry key => Sys2Proof.Machine.execReductionMapExpiry key s
  | .syncRecordPeriodic agency source cycle => Sys2Proof.Machine.execSyncRecordPeriodic agency source cycle s
  | .sampleTick core sched cycle => Sys2Proof.Machine.execSampleTick core sched cycle s
  | .traceHoldDrain agency source => Sys2Proof.Machine.execTraceHoldDrain agency source s
  | .clusterPowerGate cluster forced => Sys2Proof.Machine.execClusterPowerGate cluster forced s
  | .ptpMessage p => Sys2Proof.Machine.execPtpMessage p s
  | .moduleReset => Sys2Proof.Machine.execModuleReset s
  | .bootImageLoad k => Sys2Proof.Machine.execBootImageLoad k s
  | .functionReady f => Sys2Proof.Machine.execFunctionReady f s
  | .getVersion e => Sys2Proof.Machine.execGetVersion e s
  | .getCapabilities e => Sys2Proof.Machine.execGetCapabilities e s
  | .negotiateAlgorithms e mldsa44 sha3 => Sys2Proof.Machine.execNegotiateAlgorithms e mldsa44 sha3 s
  | .getDigests e => Sys2Proof.Machine.execGetDigests e s
  | .getCertificate e slot => Sys2Proof.Machine.execGetCertificate e slot s
  | .challenge e slot nonce => Sys2Proof.Machine.execChallenge e slot nonce s
  | .getMeasurements e idx => Sys2Proof.Machine.execGetMeasurements e idx s
  | .placementRecordWrite p bytes => Sys2Proof.Machine.execPlacementRecordWrite p bytes s
  | .signedSnapshot agency nonce => Sys2Proof.Machine.execSignedSnapshot agency nonce s
  | .flashWrite k img => Sys2Proof.Machine.execFlashWrite k img s
  | .selfTestComplete u lasting => Sys2Proof.Machine.execSelfTestComplete u lasting s
  | .thermalThrottle die temp => Sys2Proof.Machine.execThermalThrottle die temp s
  | .thermalShutdown die temp => Sys2Proof.Machine.execThermalShutdown die temp s
  | .contributionSourceRead ctx red => Sys2Proof.Machine.execContributionSourceRead ctx red s
  | .leaseExpiry core line => Sys2Proof.Machine.execLeaseExpiry core line s
  | .fabricTimeHoldover die err => Sys2Proof.Machine.execFabricTimeHoldover die err s
  | .malformedManagementFrame kind len datagram => Sys2Proof.Machine.execMalformedManagementFrame kind len datagram s
  | .energyEstimateUpdate => Sys2Proof.Machine.execEnergyEstimateUpdate s
  | .residencyCycleCount => Sys2Proof.Machine.execResidencyCycleCount s
  | .gatedClusterRestart cluster => Sys2Proof.Machine.execGatedClusterRestart cluster s

end Sys2Proof.Machine
end

