-- ==== Sys2Proof/Machine/Place.lean ====
section
/-!
DEFINITION. Placing an instruction where the machine fetches its next one: in a machine that has a ready issue set, at
its program counter; in one that has none, with a context, a grid, a team and a gang set up as a host and the
distributor would (log 22).
-/
namespace Sys2Proof.Machine

/-- Words stored from physical tryte p on. -/
def Mem.placeWords (m : Mem) (p : Nat) (ws : List Int) : Mem :=
  let off (l : Nat) : Bool := !(decide (p / 81 ≤ l) && decide (l ≤ (p + 8) / 81))
  { m with
    hbm := setRangeZ p (ws.flatMap fun w => toTrytes 3 w) m.hbm, binLines := m.binLines.filter off, comp := m.comp.filter off,
    badLines := m.badLines.filter off, upsets := m.upsets.filter fun u => off u.1 }

/-- The launch record of a grid of one team of one gang of nine slices with eight register blocks, whose entry is the
second page. -/
def demoLaunch : List Int := [pow3 51, 19683, 1, pow3 50 + 9 * pow3 47 + 8 * pow3 44 + pow3 33, 0] ++ List.replicate 22 0

/-- The grid of demoLaunch. -/
def demoGrid : Grid :=
  { num := 0, ctx := 0, depth := 0, parent := none, launch := demoLaunch, pats := [], accepted := 0, next := 1,
    endedTeams := 0, complete := false, hasChip := false, chip := [] }

/-- The context of demoGrid, privileged, with its tables in stack 0. -/
def demoCtx : Context :=
  { num := 0, agency := 0, priv := true, userRoot := 0, privRoot := 6, faultLog := 0, phaseBase := 0, phaseLen := 0,
    landing := [], records := [], halted := false, jobSeq := 0, redSeq := 0, jobs := [], reds := [] }

/-- The page tables of demoCtx: the second small page maps frame 24, which may be read, written and executed. -/
def demoTables (self : Nat) (m : ZMap) : ZMap :=
  let own : Int := (self : Int) * pow3 29
  let leaf := 24 * pow3 38 + own + pow3 28 + pow3 23 + pow3 22 + pow3 21
  setRangeZ (19683 * 18 + 6) (toTrytes 6 leaf)
    (setRangeZ (19683 * 12) (toTrytes 6 (18 * pow3 38 + own)) (setRangeZ 0 (toTrytes 6 (12 * pow3 38 + own)) m))

/-- A machine with demoGrid's gang on core 0 in place of whatever teams it had. -/
def State.demo (s : State) : State :=
  let s1 : State :=
    { s with
      ctxs := demoCtx :: s.ctxs.filter fun c => decide (c.num ≠ 0),
      grids := demoGrid :: s.grids.filter fun g => decide (g.num ≠ 0),
      xlate := { s.xlate with tlb := [] },
      trust := { s.trust with ready := setZ 128 1 s.trust.ready },
      mem := { s.mem with hbm := demoTables s.modul s.mem.hbm, binLines := [], comp := [], badLines := [], upsets := [] },
      eng := { s.eng with stores := [] } }
  { s1 with teams := [Team.fresh s1 demoGrid 1 0 0 0 0 [0]] }

/-- The place of the next instruction: the issue set considered first and the first physical tryte of its code. -/
def State.nextPlace (s : State) : Option (Cand × Nat) :=
  match s.allCandidates.head? with
  | none => none
  | some c =>
    match (s.choose c false).iss? with
    | none => none
    | some x =>
      match s.fetchPlace x (x.gang.slice x.low).pc, s.fetchPlace x ((x.gang.slice x.low).pc + 6) with
      | .at_ (.hbm p :: _), .at_ (.hbm q :: _) => if q = p + 6 then some (c, p) else none
      | _, _ => none

/-- Words laid where issue set c fetches them, at physical tryte p. -/
def State.placeAt (s : State) (c : Cand) (p : Nat) (ws : List Int) : State :=
  let s1 := s.modGang c.team c.gang fun g =>
    g.modSlices c.slices fun _ x => { x with fenced := s.mem.wlog.length, sweep := none, owed := none, moved := false }
  { s1 with mem := s1.mem.placeWords p ws }

/-- The state in which the next step runs the instruction that the words begin with. -/
def State.placeNext (s : State) (ws : List Int) : State :=
  let s0 := { s with agenda := [], agents := false }
  match s0.nextPlace with
  | some (c, p) => s0.placeAt c p ws
  | none =>
    let s1 := s0.demo
    match s1.nextPlace with
    | some (c, p) => s1.placeAt c p ws
    | none => s1

end Sys2Proof.Machine
end

