-- ==== Sys2Proof/Machine/Step.lean ====
section
/-!
DEFINITION. One step of the machine: the turn that the agenda names, or, when it names none, the device's own agents and
the issue schedulers by turns. Time passes with every step.
-/
namespace Sys2Proof.Machine

/-- One step of the agents of the device, or an idle cycle. -/
def agentStep (s : State) : Host.Outcome State Fault Refusal := (firstAgent exec { s with cur := none }).getD (.next s)

/-- One step of the issue schedulers; when no issue set can issue, one of the agents. -/
def issueStep (s : State) : Host.Outcome State Fault Refusal :=
  match tryIssue exec false s.allCandidates s with
  | (some r, _) => r
  | (none, s') => agentStep s'

/-- One step of one issue scheduler; apart lets other agents' accesses stand between those of its instruction (R182). -/
def schedulerStep (apart : Bool) (core sched : Nat) (s : State) : Host.Outcome State Fault Refusal :=
  match tryIssue exec apart (s.candidates core sched) s with
  | (some r, _) => r
  | (none, s') => .next s'

/-- One step. -/
def step (s : State) : Host.Outcome State Fault Refusal :=
  let t := s.begin
  match t.agenda with
  | .event i :: rest => exec i { t with agenda := rest, cur := none }
  | .idle :: rest | .still :: rest => .next { t with agenda := rest }
  | .issue core sched :: rest => schedulerStep false core sched { t with agenda := rest }
  | .apart core sched :: rest => schedulerStep true core sched { t with agenda := rest }
  | .upset line bytes :: rest => .next (State.upset { t with agenda := rest } line bytes)
  | .resend port :: rest => .next (State.resend { t with agenda := rest } port)
  | .routes m live :: rest => .next (State.routesTold { t with agenda := rest } m live)
  | .fatal :: rest => .next { t with agenda := rest, fab := { t.fab with fatal := true } }
  | .unitError u corrected :: rest => .next (State.unitError { t with agenda := rest } u corrected)
  | .registerRead p off n :: rest => .next (State.registerRead { t with agenda := rest } p off n)
  | .linkRetry link :: rest => .next (State.health { t with agenda := rest } 9 5 link noSpare 0)
  | [] =>
    let u := { t with agents := !t.agents }
    if t.agents then (firstAgent exec { u with cur := none }).getD (issueStep u) else issueStep u

/-- The state in which the very next step fetches and runs the instruction whose bits are w (numbered as the opcode
table numbers them; the bits above nbits are zero). -/
def State.withFetchWord (s : State) (nbits w : Nat) : State :=
  match bitWords nbits w with
  | some ws => s.placeNext ws
  | none => s

end Sys2Proof.Machine
end

