-- ==== Sys2Proof/Laws/Trits.lean ====
section
/-!
SUPPORT. Laws of balanced-ternary fields: values in range wrap to themselves, packed words unpack to their fields.
-/
namespace Sys2Proof.Laws

open Sys2Proof.Machine (wrap sub dropLow)

theorem two_maxTrits (n : Nat) : 2 * maxTrits n + 1 = pow3 n := by
  have h : (3 ^ n) % 2 = 1 := by simp [Nat.pow_mod]
  unfold maxTrits pow3
  simp only [Int.ofNat_eq_natCast]
  generalize 3 ^ n = m at h ⊢
  omega

theorem pow3_pos (n : Nat) : 0 < pow3 n := by
  unfold pow3
  simp only [Int.ofNat_eq_natCast]
  positivity

theorem maxTrits_nonneg (n : Nat) : 0 ≤ maxTrits n := by
  have := two_maxTrits n
  have := pow3_pos n
  omega

theorem pow3_add (m n : Nat) : pow3 (m + n) = pow3 m * pow3 n := by simp [pow3, pow_add]

/-- A value of n trits wraps to itself (R18). -/
theorem wrap_of_fits {n : Nat} {x : Int} (h : Fits n x) : wrap n x = x := by
  have h2 := two_maxTrits n
  unfold wrap
  rw [Int.emod_eq_of_lt (by have := h.1; omega) (by have := h.2; omega)]
  omega

/-- Wrapping answers a value of n trits. -/
theorem wrap_fits (n : Nat) (x : Int) : Fits n (wrap n x) := by
  have h2 := two_maxTrits n
  have hp := pow3_pos n
  have h3 := Int.emod_nonneg (x + maxTrits n) (ne_of_gt hp)
  have h4 := Int.emod_lt_of_pos (x + maxTrits n) hp
  unfold wrap Fits
  constructor <;> omega

theorem wrap_field (n : Nat) (x r : Int) : wrap n (x + pow3 n * r) = wrap n x := by
  unfold wrap
  rw [show x + pow3 n * r + maxTrits n = x + maxTrits n + pow3 n * r by ring, Int.add_mul_emod_self_left]

theorem dropLow_field {n : Nat} {x : Int} (h : Fits n x) (r : Int) : dropLow n (x + pow3 n * r) = r := by
  have h2 := two_maxTrits n
  have hp := pow3_pos n
  unfold dropLow
  rw [show x + pow3 n * r + maxTrits n = x + maxTrits n + pow3 n * r by ring, Int.add_mul_ediv_left _ _ (ne_of_gt hp),
    Int.ediv_eq_zero_of_lt (by have := h.1; omega) (by have := h.2; omega)]
  omega

theorem dropLow_add (m n : Nat) (x : Int) : dropLow (m + n) x = dropLow n (dropLow m x) := by
  have hm := two_maxTrits m
  have hn := two_maxTrits n
  have hmn := two_maxTrits (m + n)
  have hp := pow3_pos m
  rw [pow3_add] at hmn
  unfold dropLow
  have e : maxTrits (m + n) = maxTrits m + pow3 m * maxTrits n := by nlinarith
  rw [pow3_add, e, show x + (maxTrits m + pow3 m * maxTrits n) = x + maxTrits m + pow3 m * maxTrits n by ring,
    ← Int.ediv_ediv_of_nonneg hp.le, Int.add_mul_ediv_left _ _ (ne_of_gt hp)]

/-- Every field lies in the range of its width. -/
def FieldsFit : List Nat → List Int → Prop
  | [], [] => True
  | n :: ns, f :: fs => Fits n f ∧ FieldsFit ns fs
  | _, _ => False

/-- A packed word unpacks to its fields (R44). -/
theorem unpack_pack : ∀ {ns : List Nat} {fs : List Int}, FieldsFit ns fs → unpack ns (pack ns fs) = fs
  | [], [], _ => rfl
  | n :: ns, f :: fs, h => by
    simp only [unpack, pack]
    rw [wrap_field, wrap_of_fits h.1, dropLow_field h.1, unpack_pack h.2]
  | [], _ :: _, h => h.elim
  | _ :: _, [], h => h.elim

/-- The lengths of the fields before the last sum to the place of the last. -/
theorem dropLow_pack : ∀ {ns : List Nat} {fs : List Int} {n : Nat} {f : Int}, FieldsFit ns fs →
    dropLow ns.sum (pack (ns ++ [n]) (fs ++ [f])) = f + pow3 n * 0
  | [], [], n, f, _ => by simp [pack, dropLow, maxTrits, pow3]
  | m :: ns, g :: fs, n, f, h => by
    simp only [List.cons_append, pack, List.sum_cons]
    rw [dropLow_add, dropLow_field h.1, dropLow_pack h.2]
  | [], _ :: _, _, _, h => h.elim
  | _ :: _, [], _, _, h => h.elim

end Sys2Proof.Laws
end

