-- ==== Sys2Proof/Laws/Decode.lean ====
section
/-!
SUPPORT. Laws of the decoder and the encoder: fields of operands, the words of each format, prefixes.
-/
namespace Sys2Proof.Laws

open Sys2Proof.Machine (wrap sub dropLow)

theorem fits_of {n : Nat} {x : Int} (m : Int) (hm : maxTrits n = m) (h : -m ≤ x ∧ x ≤ m) : Fits n x := by
  rw [Fits, hm]; exact h

theorem max1 : maxTrits 1 = 1 := by decide
theorem max2 : maxTrits 2 = 4 := by decide
theorem max3 : maxTrits 3 = 13 := by decide
theorem max4 : maxTrits 4 = 40 := by decide
theorem max5 : maxTrits 5 = 121 := by decide
theorem max8 : maxTrits 8 = 3280 := by decide
theorem max9 : maxTrits 9 = 9841 := by decide
theorem max11 : maxTrits 11 = 88573 := by decide
theorem max12 : maxTrits 12 = 265720 := by decide
theorem max16 : maxTrits 16 = 21523360 := by decide

theorem r27_bounds (r : Fin 27) : -13 ≤ regField 27 r ∧ regField 27 r ≤ 13 := by
  have := r.isLt; unfold regField; split <;> omega
theorem r81_bounds (r : Fin 81) : -40 ≤ regField 81 r ∧ regField 81 r ≤ 40 := by
  have := r.isLt; unfold regField; split <;> omega
theorem r9_bounds (r : Fin 9) : -4 ≤ regField 9 r ∧ regField 9 r ≤ 4 := by
  have := r.isLt; unfold regField; split <;> omega

@[simp] theorem regOf_r27 (r : Fin 27) : regOf 27 (regField 27 r) = r := by revert r; decide
@[simp] theorem regOf_r81 (r : Fin 81) : regOf 81 (regField 81 r) = r := by revert r; decide
@[simp] theorem regOf_r9 (r : Fin 9) : regOf 9 (regField 9 r) = r := by revert r; decide
@[simp] theorem regOf_val27 (r : Fin 27) : regOf 27 (r.val : Int) = r := by revert r; decide
@[simp] theorem regOf_val9 (r : Fin 9) : regOf 9 (r.val : Int) = r := by revert r; decide
@[simp] theorem regOf_val3 (r : Fin 3) : regOf 3 (r.val : Int) = r := by revert r; decide
@[simp] theorem laOf_laField (r : Fin 27) : laOf (laField r) = r := regOf_r27 r
@[simp] theorem regOf_zero27 : regOf 27 0 = 0 := by decide
@[simp] theorem regOf_zero81 : regOf 81 0 = 0 := by decide
@[simp] theorem regOf_zero9 : regOf 9 0 = 0 := by decide
@[simp] theorem laOf_zero : laOf 0 = 0 := by decide
@[simp] theorem tyOf_tyField (t : Ty) : tyOf (tyField t) = some t := by cases t <;> decide
@[simp] theorem condOf_condField (c : Cond) : condOf (condField c) = some c := by cases c <;> decide
@[simp] theorem policyOf_policyField (c : Policy) : policyOf (policyField c) = some c := by cases c <;> decide
@[simp] theorem rndOf_rndField (c : Option Rnd) : rndOf (rndField c) = c := by
  cases c with | none => decide | some r => cases r <;> decide
@[simp] theorem rndOk_rndField (c : Option Rnd) : rndOk (rndField c) = true := by
  cases c with | none => decide | some r => cases r <;> decide
@[simp] theorem srOf_srField (c : SpecialReg) : srOf (srField c) = some c := by cases c <;> decide
@[simp] theorem scopeOf_scopeField (c : Scope) : scopeOf (scopeField c) = some c := by cases c <;> decide
@[simp] theorem redOpOf_redOpField (c : RedOp) : redOpOf (redOpField c) = some c := by cases c <;> decide
@[simp] theorem flagF_eq_one (b : Bool) : (flagF b = 1) = (b = true) := by cases b <;> decide
@[simp] theorem flagF_eq_zero (b : Bool) : (flagF b = 0) = (b = false) := by cases b <;> decide
@[simp] theorem regField_zero9 (r : Fin 9) : (regField 9 r = 0) = (r = 0) := by revert r; decide
@[simp] theorem regField_zero27 (r : Fin 27) : (regField 27 r = 0) = (r = 0) := by revert r; decide
@[simp] theorem regField_zero81 (r : Fin 81) : (regField 81 r = 0) = (r = 0) := by revert r; decide
@[simp] theorem laField_zero (r : Fin 27) : (laField r = 0) = (r = 0) := regField_zero27 r

theorem ty_bounds (t : Ty) : -4 ≤ tyField t ∧ tyField t ≤ 4 := by cases t <;> decide
theorem cond_bounds (t : Cond) : -5 ≤ condField t ∧ condField t ≤ 5 := by cases t <;> decide
theorem policy_bounds (t : Policy) : -2 ≤ policyField t ∧ policyField t ≤ 2 := by cases t <;> decide
theorem rnd_bounds (t : Option Rnd) : -3 ≤ rndField t ∧ rndField t ≤ 3 := by
  cases t with | none => decide | some r => cases r <;> decide
theorem sr_bounds (t : SpecialReg) : 0 ≤ srField t ∧ srField t ≤ 13 := by cases t <;> decide
theorem scope_bounds (t : Scope) : -3 ≤ scopeField t ∧ scopeField t ≤ 3 := by cases t <;> decide
theorem redOp_bounds (t : RedOp) : -1 ≤ redOpField t ∧ redOpField t ≤ 1 := by cases t <;> decide
theorem flag_bounds (b : Bool) : 0 ≤ flagF b ∧ flagF b ≤ 1 := by cases b <;> decide

@[simp] theorem reg27F_r27 (r : Fin 27) : reg27F (regField 27 r) = [] := by
  simp [reg27F, need, inRange, r27_bounds]
@[simp] theorem reg9F_r9 (r : Fin 9) : reg9F (regField 9 r) = [] := by simp [reg9F, need, inRange, r9_bounds]
@[simp] theorem zeroF_zero : zeroF 0 = [] := by decide
@[simp] theorem laF_zero (b : Bool) : laF b 0 = [] := by cases b <;> decide
@[simp] theorem reg27F_zero : reg27F 0 = [] := by decide
@[simp] theorem reg9F_zero : reg9F 0 = [] := by decide
theorem need_of {c : Bool} {e : Cause} (h : c = true) : need c e = [] := by simp [need, h]

theorem r27_b40 (r : Fin 27) : -40 ≤ regField 27 r ∧ regField 27 r ≤ 40 := by have := r27_bounds r; omega
theorem r9_b40 (r : Fin 9) : -40 ≤ regField 9 r ∧ regField 9 r ≤ 40 := by have := r9_bounds r; omega
theorem ty_b13 (t : Ty) : -13 ≤ tyField t ∧ tyField t ≤ 13 := by have := ty_bounds t; omega
theorem ty_b40 (t : Ty) : -40 ≤ tyField t ∧ tyField t ≤ 40 := by have := ty_bounds t; omega
theorem redOp_b40 (t : RedOp) : -40 ≤ redOpField t ∧ redOpField t ≤ 40 := by have := redOp_bounds t; omega
theorem scope_b4 (t : Scope) : -4 ≤ scopeField t ∧ scopeField t ≤ 4 := by have := scope_bounds t; omega
theorem flag_b13 (t : Bool) : -13 ≤ flagF t ∧ flagF t ≤ 13 := by have := flag_bounds t; omega
theorem rnd_b13 (t : Option Rnd) : -13 ≤ rndField t ∧ rndField t ≤ 13 := by have := rnd_bounds t; omega
theorem cond_b13 (t : Cond) : -13 ≤ condField t ∧ condField t ≤ 13 := by have := cond_bounds t; omega
theorem sr_b16 (t : SpecialReg) : -21523360 ≤ srField t ∧ srField t ≤ 21523360 := by have := sr_bounds t; omega
theorem val3_b40 (r : Fin 3) : -40 ≤ (r.val : Int) ∧ (r.val : Int) ≤ 40 := by have := r.isLt; omega
theorem val9_b13 (r : Fin 9) : -13 ≤ (r.val : Int) ∧ (r.val : Int) ≤ 13 := by have := r.isLt; omega

/-- A register or engine word unpacks to its fields. -/
theorem unpack_regWord {M m d a b k la ty : Int} (hM : -40 ≤ M ∧ M ≤ 40) (hm : -13 ≤ m ∧ m ≤ 13) (hd : -40 ≤ d ∧ d ≤ 40)
    (ha : -40 ≤ a ∧ a ≤ 40) (hb : -40 ≤ b ∧ b ≤ 40) (hk : -4 ≤ k ∧ k ≤ 4) (hl : -13 ≤ la ∧ la ≤ 13) (ht : -13 ≤ ty ∧ ty ≤ 13) :
    unpack regWidths (regWord M m d a b k la ty) = [ty, la, k, b, a, d, m, M] := by
  refine unpack_pack ?_
  simp only [regWidths, FieldsFit]
  exact ⟨fits_of 13 max3 ht, fits_of 13 max3 hl, fits_of 4 max2 hk, fits_of 40 max4 hb, fits_of 40 max4 ha,
    fits_of 40 max4 hd, fits_of 13 max3 hm, fits_of 40 max4 hM, trivial⟩

theorem unpack_immWord {M m d a i : Int} (hM : -40 ≤ M ∧ M ≤ 40) (hm : -13 ≤ m ∧ m ≤ 13) (hd : -40 ≤ d ∧ d ≤ 40)
    (ha : -40 ≤ a ∧ a ≤ 40) (hi : -265720 ≤ i ∧ i ≤ 265720) :
    unpack immWidths (immWord M m d a i) = [i, a, d, m, M] := by
  refine unpack_pack ?_
  simp only [immWidths, FieldsFit]
  exact ⟨fits_of _ max12 hi, fits_of _ max4 ha, fits_of _ max4 hd, fits_of _ max3 hm, fits_of _ max4 hM, trivial⟩

theorem unpack_memWord {M m d b o la : Int} (hM : -40 ≤ M ∧ M ≤ 40) (hm : -13 ≤ m ∧ m ≤ 13) (hd : -40 ≤ d ∧ d ≤ 40)
    (hb : -40 ≤ b ∧ b ≤ 40) (ho : -9841 ≤ o ∧ o ≤ 9841) (hl : -13 ≤ la ∧ la ≤ 13) :
    unpack memWidths (memWord M m d b o la) = [la, o, b, d, m, M] := by
  refine unpack_pack ?_
  simp only [memWidths, FieldsFit]
  exact ⟨fits_of _ max3 hl, fits_of _ max9 ho, fits_of _ max4 hb, fits_of _ max4 hd, fits_of _ max3 hm, fits_of _ max4 hM, trivial⟩

theorem unpack_braWord {M m r i : Int} (hM : -40 ≤ M ∧ M ≤ 40) (hm : -13 ≤ m ∧ m ≤ 13) (hr : -40 ≤ r ∧ r ≤ 40)
    (hi : -21523360 ≤ i ∧ i ≤ 21523360) : unpack braWidths (braWord M m r i) = [i, r, m, M] := by
  refine unpack_pack ?_
  simp only [braWidths, FieldsFit]
  exact ⟨fits_of _ max16 hi, fits_of _ max4 hr, fits_of _ max3 hm, fits_of _ max4 hM, trivial⟩

/-- The word of B3. -/
abbrev bra3Word (r n p : Int) : Int := pack bra3Widths [p, n, r, 0, 4]

theorem unpack_bra3Word {r n p : Int} (hr : -40 ≤ r ∧ r ≤ 40) (hn : -3280 ≤ n ∧ n ≤ 3280) (hp : -3280 ≤ p ∧ p ≤ 3280) :
    unpack bra3Widths (bra3Word r n p) = [p, n, r, 0, 4] := by
  refine unpack_pack ?_
  simp only [bra3Widths, FieldsFit]
  exact ⟨fits_of _ max8 hp, fits_of _ max8 hn, fits_of _ max4 hr, fits_of _ max3 (by decide), fits_of _ max4 (by decide), trivial⟩

/-- The word of VGTH and VSCT. -/
abbrev gthWord (m la i b d : Int) : Int := pack gthWidths [la, 0, i, b, d, m, 19]

theorem fits_gth {m la i b d : Int} (hm : -13 ≤ m ∧ m ≤ 13) (hd : -40 ≤ d ∧ d ≤ 40) (hb : -40 ≤ b ∧ b ≤ 40)
    (hi : -40 ≤ i ∧ i ≤ 40) (hl : -13 ≤ la ∧ la ≤ 13) : FieldsFit gthWidths [la, 0, i, b, d, m, 19] := by
  simp only [gthWidths, FieldsFit]
  exact ⟨fits_of _ max3 hl, fits_of _ max5 (by decide), fits_of _ max4 hi, fits_of _ max4 hb, fits_of _ max4 hd,
    fits_of _ max3 hm, fits_of _ max4 (by decide), trivial⟩

/-- The major opcode is the last field of a format (R44). -/
theorem majorOf_pack {ns : List Nat} {fs : List Int} {M : Int} (hs : ns.sum = 23) (h : FieldsFit ns fs)
    (hM : -40 ≤ M ∧ M ≤ 40) : majorOf (pack (ns ++ [4]) (fs ++ [M])) = M := by
  unfold majorOf Machine.sub
  rw [← hs, dropLow_pack h, wrap_field, wrap_of_fits (fits_of 40 max4 hM)]

theorem majorOf_regWord {M m d a b k la ty : Int} (hM : -40 ≤ M ∧ M ≤ 40) (hm : -13 ≤ m ∧ m ≤ 13) (hd : -40 ≤ d ∧ d ≤ 40)
    (ha : -40 ≤ a ∧ a ≤ 40) (hb : -40 ≤ b ∧ b ≤ 40) (hk : -4 ≤ k ∧ k ≤ 4) (hl : -13 ≤ la ∧ la ≤ 13) (ht : -13 ≤ ty ∧ ty ≤ 13) :
    majorOf (regWord M m d a b k la ty) = M :=
  majorOf_pack (ns := [3, 3, 2, 4, 4, 4, 3]) (fs := [ty, la, k, b, a, d, m]) rfl
    ⟨fits_of 13 max3 ht, fits_of 13 max3 hl, fits_of 4 max2 hk, fits_of 40 max4 hb, fits_of 40 max4 ha,
      fits_of 40 max4 hd, fits_of 13 max3 hm, trivial⟩ hM

theorem majorOf_immWord {M m d a i : Int} (hM : -40 ≤ M ∧ M ≤ 40) (hm : -13 ≤ m ∧ m ≤ 13) (hd : -40 ≤ d ∧ d ≤ 40)
    (ha : -40 ≤ a ∧ a ≤ 40) (hi : -265720 ≤ i ∧ i ≤ 265720) : majorOf (immWord M m d a i) = M :=
  majorOf_pack (ns := [12, 4, 4, 3]) (fs := [i, a, d, m]) rfl
    ⟨fits_of _ max12 hi, fits_of _ max4 ha, fits_of _ max4 hd, fits_of _ max3 hm, trivial⟩ hM

theorem majorOf_memWord {M m d b o la : Int} (hM : -40 ≤ M ∧ M ≤ 40) (hm : -13 ≤ m ∧ m ≤ 13) (hd : -40 ≤ d ∧ d ≤ 40)
    (hb : -40 ≤ b ∧ b ≤ 40) (ho : -9841 ≤ o ∧ o ≤ 9841) (hl : -13 ≤ la ∧ la ≤ 13) : majorOf (memWord M m d b o la) = M :=
  majorOf_pack (ns := [3, 9, 4, 4, 3]) (fs := [la, o, b, d, m]) rfl
    ⟨fits_of _ max3 hl, fits_of _ max9 ho, fits_of _ max4 hb, fits_of _ max4 hd, fits_of _ max3 hm, trivial⟩ hM

theorem majorOf_braWord {M m r i : Int} (hM : -40 ≤ M ∧ M ≤ 40) (hm : -13 ≤ m ∧ m ≤ 13) (hr : -40 ≤ r ∧ r ≤ 40)
    (hi : -21523360 ≤ i ∧ i ≤ 21523360) : majorOf (braWord M m r i) = M :=
  majorOf_pack (ns := [16, 4, 3]) (fs := [i, r, m]) rfl
    ⟨fits_of _ max16 hi, fits_of _ max4 hr, fits_of _ max3 hm, trivial⟩ hM

theorem majorOf_bra3Word {r n p : Int} (hr : -40 ≤ r ∧ r ≤ 40) (hn : -3280 ≤ n ∧ n ≤ 3280) (hp : -3280 ≤ p ∧ p ≤ 3280) :
    majorOf (bra3Word r n p) = 4 :=
  majorOf_pack (ns := [8, 8, 4, 3]) (fs := [p, n, r, 0]) rfl
    ⟨fits_of _ max8 hp, fits_of _ max8 hn, fits_of _ max4 hr, fits_of _ max3 (by decide), trivial⟩ (by decide)

theorem majorOf_gthWord {m la i b d : Int} (hm : -13 ≤ m ∧ m ≤ 13) (hd : -40 ≤ d ∧ d ≤ 40) (hb : -40 ≤ b ∧ b ≤ 40)
    (hi : -40 ≤ i ∧ i ≤ 40) (hl : -13 ≤ la ∧ la ≤ 13) : majorOf (gthWord m la i b d) = 19 :=
  majorOf_pack (ns := [3, 5, 4, 4, 4, 3]) (fs := [la, 0, i, b, d, m]) rfl
    ⟨fits_of _ max3 hl, fits_of _ max5 (by decide), fits_of _ max4 hi, fits_of _ max4 hb, fits_of _ max4 hd,
      fits_of _ max3 hm, trivial⟩ (by decide)

/-- The minor opcode of a word of the memory format (R44). -/
theorem memField_gth {m la i b d : Int} (hm : -13 ≤ m ∧ m ≤ 13) (hd : -40 ≤ d ∧ d ≤ 40) (hb : -40 ≤ b ∧ b ≤ 40)
    (hi : -40 ≤ i ∧ i ≤ 40) (hl : -13 ≤ la ∧ la ≤ 13) :
    unpack memWidths (gthWord m la i b d) = [la, pow3 5 * i, b, d, m, 19] := by
  have e : gthWord m la i b d = pack memWidths [la, pow3 5 * i, b, d, m, 19] := by
    simp only [gthWord, gthWidths, memWidths, pack]
    have h5 : pow3 5 = 243 := by decide
    have h9 : pow3 9 = 19683 := by decide
    have h4 : pow3 4 = 81 := by decide
    rw [h5, h9, h4]; ring
  rw [e]
  refine unpack_pack ?_
  have h5 : pow3 5 = 243 := by decide
  simp only [memWidths, FieldsFit]
  exact ⟨fits_of _ max3 hl, fits_of _ max9 (by rw [h5]; omega), fits_of _ max4 hb, fits_of _ max4 hd, fits_of _ max3 hm,
    fits_of _ max4 (by decide), trivial⟩

/-- The fields of an attribute prefix word below the major opcode. -/
def attrFields (a : Attr) : List Int :=
  [0, flagF a.sat, flagF a.fourth.isSome, (match a.fourth with | some v => regField 81 v | none => 0),
   rndField a.rounding, policyField a.policy, regField 9 a.mask]

theorem attrWord_eq (a : Attr) : attrWord a = pack attrWidths (attrFields a ++ [12]) := rfl

theorem fourth_fits (a : Attr) : Fits 4 (match a.fourth with | some v => regField 81 v | none => 0) := by
  cases a.fourth with
  | none => exact fits_of _ max4 (by decide)
  | some v => exact fits_of _ max4 (r81_bounds v)

theorem fieldsFit_attr (a : Attr) : FieldsFit [11, 1, 1, 4, 2, 2, 2] (attrFields a) := by
  have h1 := flag_bounds a.sat
  have h2 := flag_bounds a.fourth.isSome
  have h3 := rnd_bounds a.rounding
  have h4 := policy_bounds a.policy
  have h5 := r9_bounds a.mask
  exact ⟨fits_of 88573 max11 (by decide), fits_of 1 max1 (by omega), fits_of 1 max1 (by omega), fourth_fits a,
    fits_of 4 max2 (by omega), fits_of 4 max2 (by omega), fits_of 4 max2 h5, trivial⟩

theorem majorOf_attrWord (a : Attr) : majorOf (attrWord a) = 12 := by
  rw [attrWord_eq]
  exact majorOf_pack (ns := [11, 1, 1, 4, 2, 2, 2]) (fs := attrFields a) rfl (fieldsFit_attr a) (by decide)

theorem unpack_attrWord (a : Attr) : unpack attrWidths (attrWord a) = attrFields a ++ [12] := by
  rw [attrWord_eq]
  refine unpack_pack ?_
  have h := fieldsFit_attr a
  simp only [FieldsFit, attrFields] at h
  simp only [attrWidths, FieldsFit, attrFields, List.cons_append, List.nil_append]
  exact ⟨h.1, h.2.1, h.2.2.1, h.2.2.2.1, h.2.2.2.2.1, h.2.2.2.2.2.1, h.2.2.2.2.2.2.1, fits_of 40 max4 (by decide), trivial⟩

/-- An attribute prefix word reads as the prefix it was made of (R55, R57). -/
theorem attrOf_attrWord (a : Attr) : attrOf (attrWord a) = ([], a) := by
  obtain ⟨m, p, r, f, s⟩ := a
  unfold attrOf
  rw [unpack_attrWord]
  cases f <;> cases s <;> simp [attrFields, fieldOf, codeF, need, flagF]

theorem Sweep.bounds {s : Sweep} (h : s.ok = true) :
    FieldsFit [5, 5, 5, 8] [s.bstep, s.astep, s.dstep, (s.count : Int) - 3280] := by
  simp only [Sweep.ok, inRange, Bool.and_eq_true, decide_eq_true_eq] at h
  refine ⟨fits_of _ max5 (by omega), fits_of _ max5 (by omega), fits_of _ max5 (by omega), fits_of _ max8 (by omega), trivial⟩

theorem majorOf_sweepWord {s : Sweep} (h : s.ok = true) : majorOf (sweepWord s) = 13 :=
  majorOf_pack (ns := [5, 5, 5, 8]) (fs := [s.bstep, s.astep, s.dstep, (s.count : Int) - 3280]) rfl (Sweep.bounds h) (by decide)

theorem unpack_sweepWord {s : Sweep} (h : s.ok = true) :
    unpack sweepWidths (sweepWord s) = [s.bstep, s.astep, s.dstep, (s.count : Int) - 3280, 13] := by
  unfold sweepWord
  refine unpack_pack ?_
  have b := Sweep.bounds h
  simp only [FieldsFit] at b
  simp only [sweepWidths, FieldsFit]
  exact ⟨b.1, b.2.1, b.2.2.1, b.2.2.2.1, fits_of 40 max4 (by decide), trivial⟩

/-- A sweep prefix word reads as the prefix it was made of (R58). -/
theorem sweepOf_sweepWord {s : Sweep} (h : s.ok = true) : sweepOf (sweepWord s) = ([], s) := by
  have hf := unpack_sweepWord h
  simp only [Sweep.ok, inRange, Bool.and_eq_true, decide_eq_true_eq] at h
  obtain ⟨c, d, a, b⟩ := s
  unfold sweepOf
  rw [hf]
  simp only [fieldOf, List.getD_cons_zero, List.getD_cons_succ, need]
  simp only at h
  have e : ¬ ((c : Int) - 3280 = -3280) := by omega
  have e2 : ((c : Int) - 3280 + 3280).toNat = c := by omega
  simp [h, e, e2]

/-- The words of an optional sweep prefix. -/
def sweepWords : Option Sweep → List Int
  | none => []
  | some s => [sweepWord s]

/-- Decoding prefixes and a word is decoding the word behind those prefixes (R60). -/
theorem decode_words (a : Option Attr) (s : Option Sweep) (w : Int) (i : Instr) (hs : ∀ x ∈ s, Sweep.ok x = true)
    (h12 : majorOf w ≠ 12) (h13 : majorOf w ≠ 13) (hd : decWord ⟨[], a, s⟩ w = ⟨[], i⟩) :
    decode (attrWords a ++ (sweepWords s ++ [w])) = .ok (i, (attrWords a ++ (sweepWords s ++ [w])).length) := by
  cases a with
  | none =>
    cases s with
    | none =>
      simp only [attrWords, sweepWords, List.nil_append, decode, prefixes, h12, h13, if_false, Pfx.none, List.headD_cons, hd]
      simp [firstCause]
    | some s =>
      have hok := hs s rfl
      have hm := majorOf_sweepWord hok
      simp only [attrWords, sweepWords, List.nil_append, List.cons_append, decode, prefixes, hm]
      simp [sweepOf_sweepWord hok, hd, firstCause]
  | some a =>
    have hma := majorOf_attrWord a
    cases s with
    | none =>
      simp only [attrWords, sweepWords, List.nil_append, List.cons_append, decode, prefixes, hma, h13]
      simp [attrOf_attrWord, hd, firstCause]
    | some s =>
      have hok := hs s rfl
      have hm := majorOf_sweepWord hok
      simp only [attrWords, sweepWords, List.nil_append, List.cons_append, decode, prefixes, hma, hm]
      simp [attrOf_attrWord, sweepOf_sweepWord hok, hd, firstCause]

end Sys2Proof.Laws
end

