-- ==== Sys2Proof/Laws/PerInstr.lean ====
section
/-!
SUPPORT. For every instruction as syntax: the words that the encoder writes for a well-formed instruction decode to it,
every operand with the value it had (R44 to R62); the steps of the device have no words.
-/
namespace Sys2Proof.Laws.RoundTrip

open Sys2Proof

set_option Elab.async false
set_option linter.unusedSimpArgs false
set_option linter.all false

/-- Decoding what the encoder writes for a well-formed instruction with words gives the instruction and its length. -/
def Statement (i : Instr) : Prop :=
  i.wellFormed = true → encode i ≠ [] → decode (encode i) = .ok (i, (encode i).length)

theorem step_only {i : Instr} (h : encode i = []) : Statement i := fun _ hn => absurd h hn

theorem of_word {i : Instr} (a : Option Attr) (s : Option Sweep) (w M : Int) (he : encode i = attrWords a ++ (sweepWords s ++ [w]))
    (hs : ∀ x ∈ s, Sweep.ok x = true) (hM : majorOf w = M) (h12 : M ≠ 12 ∧ M ≠ 13)
    (hd : decWord ⟨[], a, s⟩ w = ⟨[], i⟩) : decode (encode i) = .ok (i, (encode i).length) := by
  rw [he]
  exact decode_words a s w i hs (hM ▸ h12.1) (hM ▸ h12.2) hd

theorem of_reg {i : Instr} (at_ : Option Attr) (s : Option Sweep) {M m d a b k la ty : Int}
    (he : encode i = attrWords at_ ++ (sweepWords s ++ [regWord M m d a b k la ty])) (hs : ∀ x ∈ s, Sweep.ok x = true)
    (hM : (-40 ≤ M ∧ M ≤ 40) ∧ M ≠ 12 ∧ M ≠ 13) (hm : -13 ≤ m ∧ m ≤ 13) (hd : -40 ≤ d ∧ d ≤ 40)
    (ha : -40 ≤ a ∧ a ≤ 40) (hb : -40 ≤ b ∧ b ≤ 40) (hk : -4 ≤ k ∧ k ≤ 4) (hl : -13 ≤ la ∧ la ≤ 13) (ht : -13 ≤ ty ∧ ty ≤ 13)
    (h : ∀ w : Int, majorOf w = M → unpack regWidths w = [ty, la, k, b, a, d, m, M] → decWord ⟨[], at_, s⟩ w = ⟨[], i⟩) :
    decode (encode i) = .ok (i, (encode i).length) :=
  of_word at_ s _ M he hs (majorOf_regWord hM.1 hm hd ha hb hk hl ht) hM.2
    (h _ (majorOf_regWord hM.1 hm hd ha hb hk hl ht) (unpack_regWord hM.1 hm hd ha hb hk hl ht))

theorem of_imm {i : Instr} (at_ : Option Attr) (s : Option Sweep) {M m d a n : Int}
    (he : encode i = attrWords at_ ++ (sweepWords s ++ [immWord M m d a n])) (hs : ∀ x ∈ s, Sweep.ok x = true)
    (hM : (-40 ≤ M ∧ M ≤ 40) ∧ M ≠ 12 ∧ M ≠ 13) (hm : -13 ≤ m ∧ m ≤ 13) (hd : -40 ≤ d ∧ d ≤ 40)
    (ha : -40 ≤ a ∧ a ≤ 40) (hn : -265720 ≤ n ∧ n ≤ 265720)
    (h : ∀ w : Int, majorOf w = M → unpack immWidths w = [n, a, d, m, M] → decWord ⟨[], at_, s⟩ w = ⟨[], i⟩) :
    decode (encode i) = .ok (i, (encode i).length) :=
  of_word at_ s _ M he hs (majorOf_immWord hM.1 hm hd ha hn) hM.2
    (h _ (majorOf_immWord hM.1 hm hd ha hn) (unpack_immWord hM.1 hm hd ha hn))

theorem of_mem {i : Instr} (at_ : Option Attr) (s : Option Sweep) {M m d a n la : Int}
    (he : encode i = attrWords at_ ++ (sweepWords s ++ [memWord M m d a n la])) (hs : ∀ x ∈ s, Sweep.ok x = true)
    (hM : (-40 ≤ M ∧ M ≤ 40) ∧ M ≠ 12 ∧ M ≠ 13) (hm : -13 ≤ m ∧ m ≤ 13) (hd : -40 ≤ d ∧ d ≤ 40)
    (ha : -40 ≤ a ∧ a ≤ 40) (hn : -9841 ≤ n ∧ n ≤ 9841) (hl : -13 ≤ la ∧ la ≤ 13)
    (h : ∀ w : Int, majorOf w = M → unpack memWidths w = [la, n, a, d, m, M] → decWord ⟨[], at_, s⟩ w = ⟨[], i⟩) :
    decode (encode i) = .ok (i, (encode i).length) :=
  of_word at_ s _ M he hs (majorOf_memWord hM.1 hm hd ha hn hl) hM.2
    (h _ (majorOf_memWord hM.1 hm hd ha hn hl) (unpack_memWord hM.1 hm hd ha hn hl))

theorem of_bra {i : Instr} {M m r n : Int} (he : encode i = [braWord M m r n])
    (hM : (-40 ≤ M ∧ M ≤ 40) ∧ M ≠ 12 ∧ M ≠ 13) (hm : -13 ≤ m ∧ m ≤ 13) (hr : -40 ≤ r ∧ r ≤ 40)
    (hn : -21523360 ≤ n ∧ n ≤ 21523360)
    (h : ∀ w : Int, majorOf w = M → unpack braWidths w = [n, r, m, M] → decWord ⟨[], none, none⟩ w = ⟨[], i⟩) :
    decode (encode i) = .ok (i, (encode i).length) :=
  of_word none none _ M he (by simp) (majorOf_braWord hM.1 hm hr hn) hM.2
    (h _ (majorOf_braWord hM.1 hm hr hn) (unpack_braWord hM.1 hm hr hn))

theorem of_b3 {i : Instr} {r : SReg} {n p : Int} (he : encode i = [bra3Word (regField 27 r) n p])
    (hn : -3280 ≤ n ∧ n ≤ 3280) (hp : -3280 ≤ p ∧ p ≤ 3280)
    (h : ∀ w : Int, majorOf w = 4 → unpack bra3Widths w = [p, n, regField 27 r, 0, 4] → decWord ⟨[], none, none⟩ w = ⟨[], i⟩) :
    decode (encode i) = .ok (i, (encode i).length) :=
  of_word none none _ 4 he (by simp) (majorOf_bra3Word (r27_b40 r) hn hp) (by decide)
    (h _ (majorOf_bra3Word (r27_b40 r) hn hp) (unpack_bra3Word (r27_b40 r) hn hp))

theorem of_gth {i : Instr} {m : Int} {f : VgthF} (at_ : Option Attr)
    (he : encode i = attrWords at_ ++ (sweepWords none ++ [gthWord m (laField f.la) (regField 81 f.idx) (regField 27 f.base) (regField 81 f.d)]))
    (hm : -13 ≤ m ∧ m ≤ 13)
    (h : ∀ w : Int, majorOf w = 19 →
      unpack memWidths w = [laField f.la, pow3 5 * regField 81 f.idx, regField 27 f.base, regField 81 f.d, m, 19] →
      unpack gthWidths w = [laField f.la, 0, regField 81 f.idx, regField 27 f.base, regField 81 f.d, m, 19] →
      decWord ⟨[], at_, none⟩ w = ⟨[], i⟩) : decode (encode i) = .ok (i, (encode i).length) :=
  have h1 := r81_bounds f.d
  have h2 := r27_b40 f.base
  have h3 := r81_bounds f.idx
  have h4 := r27_bounds f.la
  of_word at_ none _ 19 he (by simp) (majorOf_gthWord hm h1 h2 h3 h4) (by decide)
    (h _ (majorOf_gthWord hm h1 h2 h3 h4) (memField_gth hm h1 h2 h3 h4) (unpack_pack (fits_gth hm h1 h2 h3 h4)))

theorem attr4_false (a : Option Attr) : attr4 false a = attrNo4 a := by
  rcases a with _ | ⟨m, p, r, f, s⟩
  · rfl
  · cases f <;> rfl

theorem add (f : SaluF) : Statement (.add f) := by
  intro hw _
  simp [Instr.wellFormed, SaluF.ok, SimmF.ok, SmemF.ok, VmemF.ok, VgthF.ok, MxqF.ok, ZpkF.ok, CvtF.ok, VpermF.ok, VunpkF.ok, VredF.ok, VpermSF.ok, VcomprF.ok, VidxF.ok, VinsF.ok, VcmpF.ok, VcmpiF.ok, BmemF.ok, maskOnce, policyDflt, attr4_false, dispOk, offOk, disp8Ok, immOk, inRange] at hw
  refine of_reg f.attr none (M := 1) (m := 0) rfl (by simp) (by decide) (by decide) (r27_b40 f.d) (r27_b40 f.a) (r27_b40 f.b) (by decide) (r27_bounds f.la) (ty_b13 f.ty) fun w hm hu => ?_
  rw [decWord, hm]; change decSalu _ w = _; unfold decSalu; rw [hu]
  rcases f with ⟨_ | _, _⟩ <;> simp_all [fieldOf, need, policyDflt, zeroF, inRange, attr4_false, tyF, laF, pfxF, codeF, noAttr, noSweep, maskF, valuChk, vops3, vops2] <;> (first | tauto | omega | exact ⟨by tauto, by omega⟩)

theorem sub (f : SaluF) : Statement (.sub f) := by
  intro hw _
  simp [Instr.wellFormed, SaluF.ok, SimmF.ok, SmemF.ok, VmemF.ok, VgthF.ok, MxqF.ok, ZpkF.ok, CvtF.ok, VpermF.ok, VunpkF.ok, VredF.ok, VpermSF.ok, VcomprF.ok, VidxF.ok, VinsF.ok, VcmpF.ok, VcmpiF.ok, BmemF.ok, maskOnce, policyDflt, attr4_false, dispOk, offOk, disp8Ok, immOk, inRange] at hw
  refine of_reg f.attr none (M := 1) (m := 1) rfl (by simp) (by decide) (by decide) (r27_b40 f.d) (r27_b40 f.a) (r27_b40 f.b) (by decide) (r27_bounds f.la) (ty_b13 f.ty) fun w hm hu => ?_
  rw [decWord, hm]; change decSalu _ w = _; unfold decSalu; rw [hu]
  rcases f with ⟨_ | _, _⟩ <;> simp_all [fieldOf, need, policyDflt, zeroF, inRange, attr4_false, tyF, laF, pfxF, codeF, noAttr, noSweep, maskF, valuChk, vops3, vops2] <;> (first | tauto | omega | exact ⟨by tauto, by omega⟩)

theorem mul (f : SaluF) : Statement (.mul f) := by
  intro hw _
  simp [Instr.wellFormed, SaluF.ok, SimmF.ok, SmemF.ok, VmemF.ok, VgthF.ok, MxqF.ok, ZpkF.ok, CvtF.ok, VpermF.ok, VunpkF.ok, VredF.ok, VpermSF.ok, VcomprF.ok, VidxF.ok, VinsF.ok, VcmpF.ok, VcmpiF.ok, BmemF.ok, maskOnce, policyDflt, attr4_false, dispOk, offOk, disp8Ok, immOk, inRange] at hw
  refine of_reg f.attr none (M := 1) (m := 2) rfl (by simp) (by decide) (by decide) (r27_b40 f.d) (r27_b40 f.a) (r27_b40 f.b) (by decide) (r27_bounds f.la) (ty_b13 f.ty) fun w hm hu => ?_
  rw [decWord, hm]; change decSalu _ w = _; unfold decSalu; rw [hu]
  rcases f with ⟨_ | _, _⟩ <;> simp_all [fieldOf, need, policyDflt, zeroF, inRange, attr4_false, tyF, laF, pfxF, codeF, noAttr, noSweep, maskF, valuChk, vops3, vops2] <;> (first | tauto | omega | exact ⟨by tauto, by omega⟩)

theorem mulh (f : SaluF) : Statement (.mulh f) := by
  intro hw _
  simp [Instr.wellFormed, SaluF.ok, SimmF.ok, SmemF.ok, VmemF.ok, VgthF.ok, MxqF.ok, ZpkF.ok, CvtF.ok, VpermF.ok, VunpkF.ok, VredF.ok, VpermSF.ok, VcomprF.ok, VidxF.ok, VinsF.ok, VcmpF.ok, VcmpiF.ok, BmemF.ok, maskOnce, policyDflt, attr4_false, dispOk, offOk, disp8Ok, immOk, inRange] at hw
  refine of_reg f.attr none (M := 1) (m := 3) rfl (by simp) (by decide) (by decide) (r27_b40 f.d) (r27_b40 f.a) (r27_b40 f.b) (by decide) (r27_bounds f.la) (ty_b13 f.ty) fun w hm hu => ?_
  rw [decWord, hm]; change decSalu _ w = _; unfold decSalu; rw [hu]
  rcases f with ⟨_ | _, _⟩ <;> simp_all [fieldOf, need, policyDflt, zeroF, inRange, attr4_false, tyF, laF, pfxF, codeF, noAttr, noSweep, maskF, valuChk, vops3, vops2] <;> (first | tauto | omega | exact ⟨by tauto, by omega⟩)

theorem div (f : SaluF) : Statement (.div f) := by
  intro hw _
  simp [Instr.wellFormed, SaluF.ok, SimmF.ok, SmemF.ok, VmemF.ok, VgthF.ok, MxqF.ok, ZpkF.ok, CvtF.ok, VpermF.ok, VunpkF.ok, VredF.ok, VpermSF.ok, VcomprF.ok, VidxF.ok, VinsF.ok, VcmpF.ok, VcmpiF.ok, BmemF.ok, maskOnce, policyDflt, attr4_false, dispOk, offOk, disp8Ok, immOk, inRange] at hw
  refine of_reg f.attr none (M := 1) (m := 4) rfl (by simp) (by decide) (by decide) (r27_b40 f.d) (r27_b40 f.a) (r27_b40 f.b) (by decide) (r27_bounds f.la) (ty_b13 f.ty) fun w hm hu => ?_
  rw [decWord, hm]; change decSalu _ w = _; unfold decSalu; rw [hu]
  rcases f with ⟨_ | _, _⟩ <;> simp_all [fieldOf, need, policyDflt, zeroF, inRange, attr4_false, tyF, laF, pfxF, codeF, noAttr, noSweep, maskF, valuChk, vops3, vops2] <;> (first | tauto | omega | exact ⟨by tauto, by omega⟩)

theorem rem (f : SaluF) : Statement (.rem f) := by
  intro hw _
  simp [Instr.wellFormed, SaluF.ok, SimmF.ok, SmemF.ok, VmemF.ok, VgthF.ok, MxqF.ok, ZpkF.ok, CvtF.ok, VpermF.ok, VunpkF.ok, VredF.ok, VpermSF.ok, VcomprF.ok, VidxF.ok, VinsF.ok, VcmpF.ok, VcmpiF.ok, BmemF.ok, maskOnce, policyDflt, attr4_false, dispOk, offOk, disp8Ok, immOk, inRange] at hw
  refine of_reg f.attr none (M := 1) (m := 5) rfl (by simp) (by decide) (by decide) (r27_b40 f.d) (r27_b40 f.a) (r27_b40 f.b) (by decide) (r27_bounds f.la) (ty_b13 f.ty) fun w hm hu => ?_
  rw [decWord, hm]; change decSalu _ w = _; unfold decSalu; rw [hu]
  rcases f with ⟨_ | _, _⟩ <;> simp_all [fieldOf, need, policyDflt, zeroF, inRange, attr4_false, tyF, laF, pfxF, codeF, noAttr, noSweep, maskF, valuChk, vops3, vops2] <;> (first | tauto | omega | exact ⟨by tauto, by omega⟩)

theorem cmp (f : SaluF) : Statement (.cmp f) := by
  intro hw _
  simp [Instr.wellFormed, SaluF.ok, SimmF.ok, SmemF.ok, VmemF.ok, VgthF.ok, MxqF.ok, ZpkF.ok, CvtF.ok, VpermF.ok, VunpkF.ok, VredF.ok, VpermSF.ok, VcomprF.ok, VidxF.ok, VinsF.ok, VcmpF.ok, VcmpiF.ok, BmemF.ok, maskOnce, policyDflt, attr4_false, dispOk, offOk, disp8Ok, immOk, inRange] at hw
  refine of_reg f.attr none (M := 1) (m := 6) rfl (by simp) (by decide) (by decide) (r27_b40 f.d) (r27_b40 f.a) (r27_b40 f.b) (by decide) (r27_bounds f.la) (ty_b13 f.ty) fun w hm hu => ?_
  rw [decWord, hm]; change decSalu _ w = _; unfold decSalu; rw [hu]
  rcases f with ⟨_ | _, _⟩ <;> simp_all [fieldOf, need, policyDflt, zeroF, inRange, attr4_false, tyF, laF, pfxF, codeF, noAttr, noSweep, maskF, valuChk, vops3, vops2] <;> (first | tauto | omega | exact ⟨by tauto, by omega⟩)

theorem min (f : SaluF) : Statement (.min f) := by
  intro hw _
  simp [Instr.wellFormed, SaluF.ok, SimmF.ok, SmemF.ok, VmemF.ok, VgthF.ok, MxqF.ok, ZpkF.ok, CvtF.ok, VpermF.ok, VunpkF.ok, VredF.ok, VpermSF.ok, VcomprF.ok, VidxF.ok, VinsF.ok, VcmpF.ok, VcmpiF.ok, BmemF.ok, maskOnce, policyDflt, attr4_false, dispOk, offOk, disp8Ok, immOk, inRange] at hw
  refine of_reg f.attr none (M := 1) (m := 7) rfl (by simp) (by decide) (by decide) (r27_b40 f.d) (r27_b40 f.a) (r27_b40 f.b) (by decide) (r27_bounds f.la) (ty_b13 f.ty) fun w hm hu => ?_
  rw [decWord, hm]; change decSalu _ w = _; unfold decSalu; rw [hu]
  rcases f with ⟨_ | _, _⟩ <;> simp_all [fieldOf, need, policyDflt, zeroF, inRange, attr4_false, tyF, laF, pfxF, codeF, noAttr, noSweep, maskF, valuChk, vops3, vops2] <;> (first | tauto | omega | exact ⟨by tauto, by omega⟩)

theorem max (f : SaluF) : Statement (.max f) := by
  intro hw _
  simp [Instr.wellFormed, SaluF.ok, SimmF.ok, SmemF.ok, VmemF.ok, VgthF.ok, MxqF.ok, ZpkF.ok, CvtF.ok, VpermF.ok, VunpkF.ok, VredF.ok, VpermSF.ok, VcomprF.ok, VidxF.ok, VinsF.ok, VcmpF.ok, VcmpiF.ok, BmemF.ok, maskOnce, policyDflt, attr4_false, dispOk, offOk, disp8Ok, immOk, inRange] at hw
  refine of_reg f.attr none (M := 1) (m := 8) rfl (by simp) (by decide) (by decide) (r27_b40 f.d) (r27_b40 f.a) (r27_b40 f.b) (by decide) (r27_bounds f.la) (ty_b13 f.ty) fun w hm hu => ?_
  rw [decWord, hm]; change decSalu _ w = _; unfold decSalu; rw [hu]
  rcases f with ⟨_ | _, _⟩ <;> simp_all [fieldOf, need, policyDflt, zeroF, inRange, attr4_false, tyF, laF, pfxF, codeF, noAttr, noSweep, maskF, valuChk, vops3, vops2] <;> (first | tauto | omega | exact ⟨by tauto, by omega⟩)

theorem tinv (f : SaluF) : Statement (.tinv f) := by
  intro hw _
  simp [Instr.wellFormed, SaluF.ok, SimmF.ok, SmemF.ok, VmemF.ok, VgthF.ok, MxqF.ok, ZpkF.ok, CvtF.ok, VpermF.ok, VunpkF.ok, VredF.ok, VpermSF.ok, VcomprF.ok, VidxF.ok, VinsF.ok, VcmpF.ok, VcmpiF.ok, BmemF.ok, maskOnce, policyDflt, attr4_false, dispOk, offOk, disp8Ok, immOk, inRange] at hw
  refine of_reg f.attr none (M := 1) (m := (-1)) rfl (by simp) (by decide) (by decide) (r27_b40 f.d) (r27_b40 f.a) (r27_b40 f.b) (by decide) (r27_bounds f.la) (ty_b13 f.ty) fun w hm hu => ?_
  rw [decWord, hm]; change decSalu _ w = _; unfold decSalu; rw [hu]
  rcases f with ⟨_ | _, _⟩ <;> simp_all [fieldOf, need, policyDflt, zeroF, inRange, attr4_false, tyF, laF, pfxF, codeF, noAttr, noSweep, maskF, valuChk, vops3, vops2] <;> (first | tauto | omega | exact ⟨by tauto, by omega⟩)

theorem tmin (f : SaluF) : Statement (.tmin f) := by
  intro hw _
  simp [Instr.wellFormed, SaluF.ok, SimmF.ok, SmemF.ok, VmemF.ok, VgthF.ok, MxqF.ok, ZpkF.ok, CvtF.ok, VpermF.ok, VunpkF.ok, VredF.ok, VpermSF.ok, VcomprF.ok, VidxF.ok, VinsF.ok, VcmpF.ok, VcmpiF.ok, BmemF.ok, maskOnce, policyDflt, attr4_false, dispOk, offOk, disp8Ok, immOk, inRange] at hw
  refine of_reg f.attr none (M := 1) (m := (-2)) rfl (by simp) (by decide) (by decide) (r27_b40 f.d) (r27_b40 f.a) (r27_b40 f.b) (by decide) (r27_bounds f.la) (ty_b13 f.ty) fun w hm hu => ?_
  rw [decWord, hm]; change decSalu _ w = _; unfold decSalu; rw [hu]
  rcases f with ⟨_ | _, _⟩ <;> simp_all [fieldOf, need, policyDflt, zeroF, inRange, attr4_false, tyF, laF, pfxF, codeF, noAttr, noSweep, maskF, valuChk, vops3, vops2] <;> (first | tauto | omega | exact ⟨by tauto, by omega⟩)

theorem tmax (f : SaluF) : Statement (.tmax f) := by
  intro hw _
  simp [Instr.wellFormed, SaluF.ok, SimmF.ok, SmemF.ok, VmemF.ok, VgthF.ok, MxqF.ok, ZpkF.ok, CvtF.ok, VpermF.ok, VunpkF.ok, VredF.ok, VpermSF.ok, VcomprF.ok, VidxF.ok, VinsF.ok, VcmpF.ok, VcmpiF.ok, BmemF.ok, maskOnce, policyDflt, attr4_false, dispOk, offOk, disp8Ok, immOk, inRange] at hw
  refine of_reg f.attr none (M := 1) (m := (-3)) rfl (by simp) (by decide) (by decide) (r27_b40 f.d) (r27_b40 f.a) (r27_b40 f.b) (by decide) (r27_bounds f.la) (ty_b13 f.ty) fun w hm hu => ?_
  rw [decWord, hm]; change decSalu _ w = _; unfold decSalu; rw [hu]
  rcases f with ⟨_ | _, _⟩ <;> simp_all [fieldOf, need, policyDflt, zeroF, inRange, attr4_false, tyF, laF, pfxF, codeF, noAttr, noSweep, maskF, valuChk, vops3, vops2] <;> (first | tauto | omega | exact ⟨by tauto, by omega⟩)

theorem tsum (f : SaluF) : Statement (.tsum f) := by
  intro hw _
  simp [Instr.wellFormed, SaluF.ok, SimmF.ok, SmemF.ok, VmemF.ok, VgthF.ok, MxqF.ok, ZpkF.ok, CvtF.ok, VpermF.ok, VunpkF.ok, VredF.ok, VpermSF.ok, VcomprF.ok, VidxF.ok, VinsF.ok, VcmpF.ok, VcmpiF.ok, BmemF.ok, maskOnce, policyDflt, attr4_false, dispOk, offOk, disp8Ok, immOk, inRange] at hw
  refine of_reg f.attr none (M := 1) (m := (-4)) rfl (by simp) (by decide) (by decide) (r27_b40 f.d) (r27_b40 f.a) (r27_b40 f.b) (by decide) (r27_bounds f.la) (ty_b13 f.ty) fun w hm hu => ?_
  rw [decWord, hm]; change decSalu _ w = _; unfold decSalu; rw [hu]
  rcases f with ⟨_ | _, _⟩ <;> simp_all [fieldOf, need, policyDflt, zeroF, inRange, attr4_false, tyF, laF, pfxF, codeF, noAttr, noSweep, maskF, valuChk, vops3, vops2] <;> (first | tauto | omega | exact ⟨by tauto, by omega⟩)

theorem tcon (f : SaluF) : Statement (.tcon f) := by
  intro hw _
  simp [Instr.wellFormed, SaluF.ok, SimmF.ok, SmemF.ok, VmemF.ok, VgthF.ok, MxqF.ok, ZpkF.ok, CvtF.ok, VpermF.ok, VunpkF.ok, VredF.ok, VpermSF.ok, VcomprF.ok, VidxF.ok, VinsF.ok, VcmpF.ok, VcmpiF.ok, BmemF.ok, maskOnce, policyDflt, attr4_false, dispOk, offOk, disp8Ok, immOk, inRange] at hw
  refine of_reg f.attr none (M := 1) (m := (-5)) rfl (by simp) (by decide) (by decide) (r27_b40 f.d) (r27_b40 f.a) (r27_b40 f.b) (by decide) (r27_bounds f.la) (ty_b13 f.ty) fun w hm hu => ?_
  rw [decWord, hm]; change decSalu _ w = _; unfold decSalu; rw [hu]
  rcases f with ⟨_ | _, _⟩ <;> simp_all [fieldOf, need, policyDflt, zeroF, inRange, attr4_false, tyF, laF, pfxF, codeF, noAttr, noSweep, maskF, valuChk, vops3, vops2] <;> (first | tauto | omega | exact ⟨by tauto, by omega⟩)

theorem shl (f : SaluF) : Statement (.shl f) := by
  intro hw _
  simp [Instr.wellFormed, SaluF.ok, SimmF.ok, SmemF.ok, VmemF.ok, VgthF.ok, MxqF.ok, ZpkF.ok, CvtF.ok, VpermF.ok, VunpkF.ok, VredF.ok, VpermSF.ok, VcomprF.ok, VidxF.ok, VinsF.ok, VcmpF.ok, VcmpiF.ok, BmemF.ok, maskOnce, policyDflt, attr4_false, dispOk, offOk, disp8Ok, immOk, inRange] at hw
  refine of_reg f.attr none (M := 1) (m := (-6)) rfl (by simp) (by decide) (by decide) (r27_b40 f.d) (r27_b40 f.a) (r27_b40 f.b) (by decide) (r27_bounds f.la) (ty_b13 f.ty) fun w hm hu => ?_
  rw [decWord, hm]; change decSalu _ w = _; unfold decSalu; rw [hu]
  rcases f with ⟨_ | _, _⟩ <;> simp_all [fieldOf, need, policyDflt, zeroF, inRange, attr4_false, tyF, laF, pfxF, codeF, noAttr, noSweep, maskF, valuChk, vops3, vops2] <;> (first | tauto | omega | exact ⟨by tauto, by omega⟩)

theorem shr (f : SaluF) : Statement (.shr f) := by
  intro hw _
  simp [Instr.wellFormed, SaluF.ok, SimmF.ok, SmemF.ok, VmemF.ok, VgthF.ok, MxqF.ok, ZpkF.ok, CvtF.ok, VpermF.ok, VunpkF.ok, VredF.ok, VpermSF.ok, VcomprF.ok, VidxF.ok, VinsF.ok, VcmpF.ok, VcmpiF.ok, BmemF.ok, maskOnce, policyDflt, attr4_false, dispOk, offOk, disp8Ok, immOk, inRange] at hw
  refine of_reg f.attr none (M := 1) (m := (-7)) rfl (by simp) (by decide) (by decide) (r27_b40 f.d) (r27_b40 f.a) (r27_b40 f.b) (by decide) (r27_bounds f.la) (ty_b13 f.ty) fun w hm hu => ?_
  rw [decWord, hm]; change decSalu _ w = _; unfold decSalu; rw [hu]
  rcases f with ⟨_ | _, _⟩ <;> simp_all [fieldOf, need, policyDflt, zeroF, inRange, attr4_false, tyF, laF, pfxF, codeF, noAttr, noSweep, maskF, valuChk, vops3, vops2] <;> (first | tauto | omega | exact ⟨by tauto, by omega⟩)

theorem addi (f : SimmF) : Statement (.addi f) := by
  intro hw _
  simp [Instr.wellFormed, SaluF.ok, SimmF.ok, SmemF.ok, VmemF.ok, VgthF.ok, MxqF.ok, ZpkF.ok, CvtF.ok, VpermF.ok, VunpkF.ok, VredF.ok, VpermSF.ok, VcomprF.ok, VidxF.ok, VinsF.ok, VcmpF.ok, VcmpiF.ok, BmemF.ok, maskOnce, policyDflt, attr4_false, dispOk, offOk, disp8Ok, immOk, inRange] at hw
  refine of_imm f.attr none (M := 2) (m := 0) rfl (by simp) (by decide) (by decide) (r27_b40 f.d) (r27_b40 f.a) (by omega) fun w hm hu => ?_
  rw [decWord, hm]; change decSimm _ w = _; unfold decSimm; rw [hu]
  rcases f with ⟨_ | _, _⟩ <;> simp_all [fieldOf, need, policyDflt, zeroF, inRange, attr4_false, tyF, laF, pfxF, codeF, noAttr, noSweep, maskF, valuChk, vops3, vops2] <;> (first | tauto | omega | exact ⟨by tauto, by omega⟩)

theorem muli (f : SimmF) : Statement (.muli f) := by
  intro hw _
  simp [Instr.wellFormed, SaluF.ok, SimmF.ok, SmemF.ok, VmemF.ok, VgthF.ok, MxqF.ok, ZpkF.ok, CvtF.ok, VpermF.ok, VunpkF.ok, VredF.ok, VpermSF.ok, VcomprF.ok, VidxF.ok, VinsF.ok, VcmpF.ok, VcmpiF.ok, BmemF.ok, maskOnce, policyDflt, attr4_false, dispOk, offOk, disp8Ok, immOk, inRange] at hw
  refine of_imm f.attr none (M := 2) (m := 1) rfl (by simp) (by decide) (by decide) (r27_b40 f.d) (r27_b40 f.a) (by omega) fun w hm hu => ?_
  rw [decWord, hm]; change decSimm _ w = _; unfold decSimm; rw [hu]
  rcases f with ⟨_ | _, _⟩ <;> simp_all [fieldOf, need, policyDflt, zeroF, inRange, attr4_false, tyF, laF, pfxF, codeF, noAttr, noSweep, maskF, valuChk, vops3, vops2] <;> (first | tauto | omega | exact ⟨by tauto, by omega⟩)

theorem cmpi (f : SimmF) : Statement (.cmpi f) := by
  intro hw _
  simp [Instr.wellFormed, SaluF.ok, SimmF.ok, SmemF.ok, VmemF.ok, VgthF.ok, MxqF.ok, ZpkF.ok, CvtF.ok, VpermF.ok, VunpkF.ok, VredF.ok, VpermSF.ok, VcomprF.ok, VidxF.ok, VinsF.ok, VcmpF.ok, VcmpiF.ok, BmemF.ok, maskOnce, policyDflt, attr4_false, dispOk, offOk, disp8Ok, immOk, inRange] at hw
  refine of_imm f.attr none (M := 2) (m := 2) rfl (by simp) (by decide) (by decide) (r27_b40 f.d) (r27_b40 f.a) (by omega) fun w hm hu => ?_
  rw [decWord, hm]; change decSimm _ w = _; unfold decSimm; rw [hu]
  rcases f with ⟨_ | _, _⟩ <;> simp_all [fieldOf, need, policyDflt, zeroF, inRange, attr4_false, tyF, laF, pfxF, codeF, noAttr, noSweep, maskF, valuChk, vops3, vops2] <;> (first | tauto | omega | exact ⟨by tauto, by omega⟩)

theorem shli (f : SimmF) : Statement (.shli f) := by
  intro hw _
  simp [Instr.wellFormed, SaluF.ok, SimmF.ok, SmemF.ok, VmemF.ok, VgthF.ok, MxqF.ok, ZpkF.ok, CvtF.ok, VpermF.ok, VunpkF.ok, VredF.ok, VpermSF.ok, VcomprF.ok, VidxF.ok, VinsF.ok, VcmpF.ok, VcmpiF.ok, BmemF.ok, maskOnce, policyDflt, attr4_false, dispOk, offOk, disp8Ok, immOk, inRange] at hw
  refine of_imm f.attr none (M := 2) (m := 3) rfl (by simp) (by decide) (by decide) (r27_b40 f.d) (r27_b40 f.a) (by omega) fun w hm hu => ?_
  rw [decWord, hm]; change decSimm _ w = _; unfold decSimm; rw [hu]
  rcases f with ⟨_ | _, _⟩ <;> simp_all [fieldOf, need, policyDflt, zeroF, inRange, attr4_false, tyF, laF, pfxF, codeF, noAttr, noSweep, maskF, valuChk, vops3, vops2] <;> (first | tauto | omega | exact ⟨by tauto, by omega⟩)

theorem shri (f : SimmF) : Statement (.shri f) := by
  intro hw _
  simp [Instr.wellFormed, SaluF.ok, SimmF.ok, SmemF.ok, VmemF.ok, VgthF.ok, MxqF.ok, ZpkF.ok, CvtF.ok, VpermF.ok, VunpkF.ok, VredF.ok, VpermSF.ok, VcomprF.ok, VidxF.ok, VinsF.ok, VcmpF.ok, VcmpiF.ok, BmemF.ok, maskOnce, policyDflt, attr4_false, dispOk, offOk, disp8Ok, immOk, inRange] at hw
  refine of_imm f.attr none (M := 2) (m := 4) rfl (by simp) (by decide) (by decide) (r27_b40 f.d) (r27_b40 f.a) (by omega) fun w hm hu => ?_
  rw [decWord, hm]; change decSimm _ w = _; unfold decSimm; rw [hu]
  rcases f with ⟨_ | _, _⟩ <;> simp_all [fieldOf, need, policyDflt, zeroF, inRange, attr4_false, tyF, laF, pfxF, codeF, noAttr, noSweep, maskF, valuChk, vops3, vops2] <;> (first | tauto | omega | exact ⟨by tauto, by omega⟩)

theorem tmini (f : SimmF) : Statement (.tmini f) := by
  intro hw _
  simp [Instr.wellFormed, SaluF.ok, SimmF.ok, SmemF.ok, VmemF.ok, VgthF.ok, MxqF.ok, ZpkF.ok, CvtF.ok, VpermF.ok, VunpkF.ok, VredF.ok, VpermSF.ok, VcomprF.ok, VidxF.ok, VinsF.ok, VcmpF.ok, VcmpiF.ok, BmemF.ok, maskOnce, policyDflt, attr4_false, dispOk, offOk, disp8Ok, immOk, inRange] at hw
  refine of_imm f.attr none (M := 2) (m := 5) rfl (by simp) (by decide) (by decide) (r27_b40 f.d) (r27_b40 f.a) (by omega) fun w hm hu => ?_
  rw [decWord, hm]; change decSimm _ w = _; unfold decSimm; rw [hu]
  rcases f with ⟨_ | _, _⟩ <;> simp_all [fieldOf, need, policyDflt, zeroF, inRange, attr4_false, tyF, laF, pfxF, codeF, noAttr, noSweep, maskF, valuChk, vops3, vops2] <;> (first | tauto | omega | exact ⟨by tauto, by omega⟩)

theorem tmaxi (f : SimmF) : Statement (.tmaxi f) := by
  intro hw _
  simp [Instr.wellFormed, SaluF.ok, SimmF.ok, SmemF.ok, VmemF.ok, VgthF.ok, MxqF.ok, ZpkF.ok, CvtF.ok, VpermF.ok, VunpkF.ok, VredF.ok, VpermSF.ok, VcomprF.ok, VidxF.ok, VinsF.ok, VcmpF.ok, VcmpiF.ok, BmemF.ok, maskOnce, policyDflt, attr4_false, dispOk, offOk, disp8Ok, immOk, inRange] at hw
  refine of_imm f.attr none (M := 2) (m := 6) rfl (by simp) (by decide) (by decide) (r27_b40 f.d) (r27_b40 f.a) (by omega) fun w hm hu => ?_
  rw [decWord, hm]; change decSimm _ w = _; unfold decSimm; rw [hu]
  rcases f with ⟨_ | _, _⟩ <;> simp_all [fieldOf, need, policyDflt, zeroF, inRange, attr4_false, tyF, laF, pfxF, codeF, noAttr, noSweep, maskF, valuChk, vops3, vops2] <;> (first | tauto | omega | exact ⟨by tauto, by omega⟩)

theorem tsumi (f : SimmF) : Statement (.tsumi f) := by
  intro hw _
  simp [Instr.wellFormed, SaluF.ok, SimmF.ok, SmemF.ok, VmemF.ok, VgthF.ok, MxqF.ok, ZpkF.ok, CvtF.ok, VpermF.ok, VunpkF.ok, VredF.ok, VpermSF.ok, VcomprF.ok, VidxF.ok, VinsF.ok, VcmpF.ok, VcmpiF.ok, BmemF.ok, maskOnce, policyDflt, attr4_false, dispOk, offOk, disp8Ok, immOk, inRange] at hw
  refine of_imm f.attr none (M := 2) (m := 7) rfl (by simp) (by decide) (by decide) (r27_b40 f.d) (r27_b40 f.a) (by omega) fun w hm hu => ?_
  rw [decWord, hm]; change decSimm _ w = _; unfold decSimm; rw [hu]
  rcases f with ⟨_ | _, _⟩ <;> simp_all [fieldOf, need, policyDflt, zeroF, inRange, attr4_false, tyF, laF, pfxF, codeF, noAttr, noSweep, maskF, valuChk, vops3, vops2] <;> (first | tauto | omega | exact ⟨by tauto, by omega⟩)

theorem ldi (f : SimmF) : Statement (.ldi f) := by
  intro hw _
  simp [Instr.wellFormed, SaluF.ok, SimmF.ok, SmemF.ok, VmemF.ok, VgthF.ok, MxqF.ok, ZpkF.ok, CvtF.ok, VpermF.ok, VunpkF.ok, VredF.ok, VpermSF.ok, VcomprF.ok, VidxF.ok, VinsF.ok, VcmpF.ok, VcmpiF.ok, BmemF.ok, maskOnce, policyDflt, attr4_false, dispOk, offOk, disp8Ok, immOk, inRange] at hw
  refine of_imm f.attr none (M := 2) (m := (-1)) rfl (by simp) (by decide) (by decide) (r27_b40 f.d) (r27_b40 f.a) (by omega) fun w hm hu => ?_
  rw [decWord, hm]; change decSimm _ w = _; unfold decSimm; rw [hu]
  rcases f with ⟨_ | _, _⟩ <;> simp_all [fieldOf, need, policyDflt, zeroF, inRange, attr4_false, tyF, laF, pfxF, codeF, noAttr, noSweep, maskF, valuChk, vops3, vops2] <;> (first | tauto | omega | exact ⟨by tauto, by omega⟩)

theorem ldhi (f : SimmF) : Statement (.ldhi f) := by
  intro hw _
  simp [Instr.wellFormed, SaluF.ok, SimmF.ok, SmemF.ok, VmemF.ok, VgthF.ok, MxqF.ok, ZpkF.ok, CvtF.ok, VpermF.ok, VunpkF.ok, VredF.ok, VpermSF.ok, VcomprF.ok, VidxF.ok, VinsF.ok, VcmpF.ok, VcmpiF.ok, BmemF.ok, maskOnce, policyDflt, attr4_false, dispOk, offOk, disp8Ok, immOk, inRange] at hw
  refine of_imm f.attr none (M := 2) (m := (-2)) rfl (by simp) (by decide) (by decide) (r27_b40 f.d) (r27_b40 f.a) (by omega) fun w hm hu => ?_
  rw [decWord, hm]; change decSimm _ w = _; unfold decSimm; rw [hu]
  rcases f with ⟨_ | _, _⟩ <;> simp_all [fieldOf, need, policyDflt, zeroF, inRange, attr4_false, tyF, laF, pfxF, codeF, noAttr, noSweep, maskF, valuChk, vops3, vops2] <;> (first | tauto | omega | exact ⟨by tauto, by omega⟩)

theorem b (c : Cond) (r : SReg) (d : Int) : Statement (.b c r d) := by
  intro hw _
  refine of_bra (M := 3) (m := condField c) rfl (by decide) (cond_b13 c) (r27_b40 r) (by simp [Instr.wellFormed, dispOk, inRange] at hw; omega) fun w hm hu => ?_
  rw [decWord, hm]; change decB _ w = _; unfold decB; rw [hu]
  cases c <;> simp [Instr.wellFormed] at hw <;> simp_all [fieldOf, need, codeF, noAttr, noSweep, condField, condOf, zeroF]

theorem b3 (r : SReg) (n p : Int) : Statement (.b3 r n p) := by
  intro hw _
  simp [Instr.wellFormed, SaluF.ok, SimmF.ok, SmemF.ok, VmemF.ok, VgthF.ok, MxqF.ok, ZpkF.ok, CvtF.ok, VpermF.ok, VunpkF.ok, VredF.ok, VpermSF.ok, VcomprF.ok, VidxF.ok, VinsF.ok, VcmpF.ok, VcmpiF.ok, BmemF.ok, maskOnce, policyDflt, attr4_false, dispOk, offOk, disp8Ok, immOk, inRange] at hw
  exact of_b3 rfl (by omega) (by omega) fun w hm hu => by
    rw [decWord, hm]; change decB3 _ w = _; unfold decB3; rw [hu]; simp_all [fieldOf, need, policyDflt, zeroF, inRange, attr4_false, tyF, laF, pfxF, codeF, noAttr, noSweep, maskF, valuChk, vops3, vops2]

theorem call (l : SReg) (d : Int) : Statement (.call l d) := by
  intro hw _
  simp [Instr.wellFormed, SaluF.ok, SimmF.ok, SmemF.ok, VmemF.ok, VgthF.ok, MxqF.ok, ZpkF.ok, CvtF.ok, VpermF.ok, VunpkF.ok, VredF.ok, VpermSF.ok, VcomprF.ok, VidxF.ok, VinsF.ok, VcmpF.ok, VcmpiF.ok, BmemF.ok, maskOnce, policyDflt, attr4_false, dispOk, offOk, disp8Ok, immOk, inRange] at hw
  refine of_bra (M := 5) (m := 0) rfl (by decide) (by decide) (r27_b40 l) (by omega) fun w hm hu => ?_
  rw [decWord, hm]; change decCall _ w = _; unfold decCall; rw [hu]
  simp_all [fieldOf, need, policyDflt, zeroF, inRange, attr4_false, tyF, laF, pfxF, codeF, noAttr, noSweep, maskF, valuChk, vops3, vops2] <;> (first | tauto | omega | exact ⟨by tauto, by omega⟩)

theorem jr (r : SReg) : Statement (.jr r) := by
  intro hw _
  simp [Instr.wellFormed, SaluF.ok, SimmF.ok, SmemF.ok, VmemF.ok, VgthF.ok, MxqF.ok, ZpkF.ok, CvtF.ok, VpermF.ok, VunpkF.ok, VredF.ok, VpermSF.ok, VcomprF.ok, VidxF.ok, VinsF.ok, VcmpF.ok, VcmpiF.ok, BmemF.ok, maskOnce, policyDflt, attr4_false, dispOk, offOk, disp8Ok, immOk, inRange] at hw
  refine of_reg none none (M := 6) (m := 0) rfl (by simp) (by decide) (by decide) (by decide) (r27_b40 r) (by decide) (by decide) (by decide) (by decide) fun w hm hu => ?_
  rw [decWord, hm]; change decCtl _ w = _; unfold decCtl; rw [hu]
  simp_all [fieldOf, need, policyDflt, zeroF, inRange, attr4_false, tyF, laF, pfxF, codeF, noAttr, noSweep, maskF, valuChk, vops3, vops2] <;> (first | tauto | omega | exact ⟨by tauto, by omega⟩)

theorem jalr (l r : SReg) : Statement (.jalr l r) := by
  intro hw _
  simp [Instr.wellFormed, SaluF.ok, SimmF.ok, SmemF.ok, VmemF.ok, VgthF.ok, MxqF.ok, ZpkF.ok, CvtF.ok, VpermF.ok, VunpkF.ok, VredF.ok, VpermSF.ok, VcomprF.ok, VidxF.ok, VinsF.ok, VcmpF.ok, VcmpiF.ok, BmemF.ok, maskOnce, policyDflt, attr4_false, dispOk, offOk, disp8Ok, immOk, inRange] at hw
  refine of_reg none none (M := 6) (m := 1) rfl (by simp) (by decide) (by decide) (r27_b40 l) (r27_b40 r) (by decide) (by decide) (by decide) (by decide) fun w hm hu => ?_
  rw [decWord, hm]; change decCtl _ w = _; unfold decCtl; rw [hu]
  simp_all [fieldOf, need, policyDflt, zeroF, inRange, attr4_false, tyF, laF, pfxF, codeF, noAttr, noSweep, maskF, valuChk, vops3, vops2] <;> (first | tauto | omega | exact ⟨by tauto, by omega⟩)

theorem ret (r : SReg) : Statement (.ret r) := by
  intro hw _
  simp [Instr.wellFormed, SaluF.ok, SimmF.ok, SmemF.ok, VmemF.ok, VgthF.ok, MxqF.ok, ZpkF.ok, CvtF.ok, VpermF.ok, VunpkF.ok, VredF.ok, VpermSF.ok, VcomprF.ok, VidxF.ok, VinsF.ok, VcmpF.ok, VcmpiF.ok, BmemF.ok, maskOnce, policyDflt, attr4_false, dispOk, offOk, disp8Ok, immOk, inRange] at hw
  refine of_reg none none (M := 6) (m := (-1)) rfl (by simp) (by decide) (by decide) (by decide) (r27_b40 r) (by decide) (by decide) (by decide) (by decide) fun w hm hu => ?_
  rw [decWord, hm]; change decCtl _ w = _; unfold decCtl; rw [hu]
  simp_all [fieldOf, need, policyDflt, zeroF, inRange, attr4_false, tyF, laF, pfxF, codeF, noAttr, noSweep, maskF, valuChk, vops3, vops2] <;> (first | tauto | omega | exact ⟨by tauto, by omega⟩)

theorem nop : Statement (.nop) := by
  intro hw _
  simp [Instr.wellFormed, SaluF.ok, SimmF.ok, SmemF.ok, VmemF.ok, VgthF.ok, MxqF.ok, ZpkF.ok, CvtF.ok, VpermF.ok, VunpkF.ok, VredF.ok, VpermSF.ok, VcomprF.ok, VidxF.ok, VinsF.ok, VcmpF.ok, VcmpiF.ok, BmemF.ok, maskOnce, policyDflt, attr4_false, dispOk, offOk, disp8Ok, immOk, inRange] at hw
  refine of_bra (M := 7) (m := 0) rfl (by decide) (by decide) (by decide) (by decide) fun w hm hu => ?_
  rw [decWord, hm]; change decSys _ w = _; unfold decSys; rw [hu]
  simp_all [fieldOf, need, policyDflt, zeroF, inRange, attr4_false, tyF, laF, pfxF, codeF, noAttr, noSweep, maskF, valuChk, vops3, vops2] <;> (first | tauto | omega | exact ⟨by tauto, by omega⟩)

theorem trap (r : SReg) (c : Int) : Statement (.trap r c) := by
  intro hw _
  simp [Instr.wellFormed, SaluF.ok, SimmF.ok, SmemF.ok, VmemF.ok, VgthF.ok, MxqF.ok, ZpkF.ok, CvtF.ok, VpermF.ok, VunpkF.ok, VredF.ok, VpermSF.ok, VcomprF.ok, VidxF.ok, VinsF.ok, VcmpF.ok, VcmpiF.ok, BmemF.ok, maskOnce, policyDflt, attr4_false, dispOk, offOk, disp8Ok, immOk, inRange] at hw
  refine of_bra (M := 7) (m := 1) rfl (by decide) (by decide) (r27_b40 r) (by omega) fun w hm hu => ?_
  rw [decWord, hm]; change decSys _ w = _; unfold decSys; rw [hu]
  simp_all [fieldOf, need, policyDflt, zeroF, inRange, attr4_false, tyF, laF, pfxF, codeF, noAttr, noSweep, maskF, valuChk, vops3, vops2] <;> (first | tauto | omega | exact ⟨by tauto, by omega⟩)

theorem rett : Statement (.rett) := by
  intro hw _
  simp [Instr.wellFormed, SaluF.ok, SimmF.ok, SmemF.ok, VmemF.ok, VgthF.ok, MxqF.ok, ZpkF.ok, CvtF.ok, VpermF.ok, VunpkF.ok, VredF.ok, VpermSF.ok, VcomprF.ok, VidxF.ok, VinsF.ok, VcmpF.ok, VcmpiF.ok, BmemF.ok, maskOnce, policyDflt, attr4_false, dispOk, offOk, disp8Ok, immOk, inRange] at hw
  refine of_bra (M := 7) (m := (-1)) rfl (by decide) (by decide) (by decide) (by decide) fun w hm hu => ?_
  rw [decWord, hm]; change decSys _ w = _; unfold decSys; rw [hu]
  simp_all [fieldOf, need, policyDflt, zeroF, inRange, attr4_false, tyF, laF, pfxF, codeF, noAttr, noSweep, maskF, valuChk, vops3, vops2] <;> (first | tauto | omega | exact ⟨by tauto, by omega⟩)

theorem brk (c : Int) : Statement (.brk c) := by
  intro hw _
  simp [Instr.wellFormed, SaluF.ok, SimmF.ok, SmemF.ok, VmemF.ok, VgthF.ok, MxqF.ok, ZpkF.ok, CvtF.ok, VpermF.ok, VunpkF.ok, VredF.ok, VpermSF.ok, VcomprF.ok, VidxF.ok, VinsF.ok, VcmpF.ok, VcmpiF.ok, BmemF.ok, maskOnce, policyDflt, attr4_false, dispOk, offOk, disp8Ok, immOk, inRange] at hw
  refine of_bra (M := 7) (m := 2) rfl (by decide) (by decide) (by decide) (by omega) fun w hm hu => ?_
  rw [decWord, hm]; change decSys _ w = _; unfold decSys; rw [hu]
  simp_all [fieldOf, need, policyDflt, zeroF, inRange, attr4_false, tyF, laF, pfxF, codeF, noAttr, noSweep, maskF, valuChk, vops3, vops2] <;> (first | tauto | omega | exact ⟨by tauto, by omega⟩)

theorem exit : Statement (.exit) := by
  intro hw _
  simp [Instr.wellFormed, SaluF.ok, SimmF.ok, SmemF.ok, VmemF.ok, VgthF.ok, MxqF.ok, ZpkF.ok, CvtF.ok, VpermF.ok, VunpkF.ok, VredF.ok, VpermSF.ok, VcomprF.ok, VidxF.ok, VinsF.ok, VcmpF.ok, VcmpiF.ok, BmemF.ok, maskOnce, policyDflt, attr4_false, dispOk, offOk, disp8Ok, immOk, inRange] at hw
  refine of_bra (M := 7) (m := (-2)) rfl (by decide) (by decide) (by decide) (by decide) fun w hm hu => ?_
  rw [decWord, hm]; change decSys _ w = _; unfold decSys; rw [hu]
  simp_all [fieldOf, need, policyDflt, zeroF, inRange, attr4_false, tyF, laF, pfxF, codeF, noAttr, noSweep, maskF, valuChk, vops3, vops2] <;> (first | tauto | omega | exact ⟨by tauto, by omega⟩)

theorem rdsr (r : SReg) (n : SpecialReg) : Statement (.rdsr r n) := by
  intro hw _
  simp [Instr.wellFormed, SaluF.ok, SimmF.ok, SmemF.ok, VmemF.ok, VgthF.ok, MxqF.ok, ZpkF.ok, CvtF.ok, VpermF.ok, VunpkF.ok, VredF.ok, VpermSF.ok, VcomprF.ok, VidxF.ok, VinsF.ok, VcmpF.ok, VcmpiF.ok, BmemF.ok, maskOnce, policyDflt, attr4_false, dispOk, offOk, disp8Ok, immOk, inRange] at hw
  refine of_bra (M := 7) (m := 3) rfl (by decide) (by decide) (r27_b40 r) (sr_b16 n) fun w hm hu => ?_
  rw [decWord, hm]; change decSys _ w = _; unfold decSys; rw [hu]
  simp_all [fieldOf, need, policyDflt, zeroF, inRange, attr4_false, tyF, laF, pfxF, codeF, noAttr, noSweep, maskF, valuChk, vops3, vops2] <;> (first | tauto | omega | exact ⟨by tauto, by omega⟩)

theorem wrsr (r : SReg) (n : SpecialReg) : Statement (.wrsr r n) := by
  intro hw _
  simp [Instr.wellFormed, SaluF.ok, SimmF.ok, SmemF.ok, VmemF.ok, VgthF.ok, MxqF.ok, ZpkF.ok, CvtF.ok, VpermF.ok, VunpkF.ok, VredF.ok, VpermSF.ok, VcomprF.ok, VidxF.ok, VinsF.ok, VcmpF.ok, VcmpiF.ok, BmemF.ok, maskOnce, policyDflt, attr4_false, dispOk, offOk, disp8Ok, immOk, inRange] at hw
  refine of_bra (M := 7) (m := (-3)) rfl (by decide) (by decide) (r27_b40 r) (sr_b16 n) fun w hm hu => ?_
  rw [decWord, hm]; change decSys _ w = _; unfold decSys; rw [hu]
  simp_all [fieldOf, need, policyDflt, zeroF, inRange, attr4_false, tyF, laF, pfxF, codeF, noAttr, noSweep, maskF, valuChk, vops3, vops2] <;> (first | tauto | omega | exact ⟨by tauto, by omega⟩)

theorem regang (set : Int) : Statement (.regang set) := by
  intro hw _
  have h : Fits 9 set := by simp [Instr.wellFormed, offOk, inRange] at hw; exact fits_of 9841 max9 hw
  have h0 : Machine.dropLow 9 set = 0 := by have := dropLow_field h 0; simpa using this
  refine of_bra (M := 7) (m := 4) rfl (by decide) (by decide) (by decide) (by simp [Instr.wellFormed, offOk, inRange] at hw; omega) fun w hm hu => ?_
  rw [decWord, hm]; change decSys _ w = _; unfold decSys; rw [hu]
  simp_all [fieldOf, need, noAttr, noSweep, wrap_of_fits h]

theorem ldI9 (f : SmemF) : Statement (.ldI9 f) := by
  intro hw _
  simp [Instr.wellFormed, SaluF.ok, SimmF.ok, SmemF.ok, VmemF.ok, VgthF.ok, MxqF.ok, ZpkF.ok, CvtF.ok, VpermF.ok, VunpkF.ok, VredF.ok, VpermSF.ok, VcomprF.ok, VidxF.ok, VinsF.ok, VcmpF.ok, VcmpiF.ok, BmemF.ok, maskOnce, policyDflt, attr4_false, dispOk, offOk, disp8Ok, immOk, inRange] at hw
  refine of_mem none none (M := 9) (m := 1) rfl (by simp) (by decide) (by decide) (r27_b40 f.d) (r27_b40 f.b) (by omega) (r27_bounds f.la) fun w hm hu => ?_
  rw [decWord, hm]; change decSmem _ w = _; unfold decSmem; rw [hu]
  cases f; simp_all [fieldOf, need, policyDflt, zeroF, inRange, attr4_false, tyF, laF, pfxF, codeF, noAttr, noSweep, maskF, valuChk, vops3, vops2] <;> (first | tauto | omega | exact ⟨by tauto, by omega⟩)

theorem ldI27 (f : SmemF) : Statement (.ldI27 f) := by
  intro hw _
  simp [Instr.wellFormed, SaluF.ok, SimmF.ok, SmemF.ok, VmemF.ok, VgthF.ok, MxqF.ok, ZpkF.ok, CvtF.ok, VpermF.ok, VunpkF.ok, VredF.ok, VpermSF.ok, VcomprF.ok, VidxF.ok, VinsF.ok, VcmpF.ok, VcmpiF.ok, BmemF.ok, maskOnce, policyDflt, attr4_false, dispOk, offOk, disp8Ok, immOk, inRange] at hw
  refine of_mem none none (M := 9) (m := 2) rfl (by simp) (by decide) (by decide) (r27_b40 f.d) (r27_b40 f.b) (by omega) (r27_bounds f.la) fun w hm hu => ?_
  rw [decWord, hm]; change decSmem _ w = _; unfold decSmem; rw [hu]
  cases f; simp_all [fieldOf, need, policyDflt, zeroF, inRange, attr4_false, tyF, laF, pfxF, codeF, noAttr, noSweep, maskF, valuChk, vops3, vops2] <;> (first | tauto | omega | exact ⟨by tauto, by omega⟩)

theorem ldI54 (f : SmemF) : Statement (.ldI54 f) := by
  intro hw _
  simp [Instr.wellFormed, SaluF.ok, SimmF.ok, SmemF.ok, VmemF.ok, VgthF.ok, MxqF.ok, ZpkF.ok, CvtF.ok, VpermF.ok, VunpkF.ok, VredF.ok, VpermSF.ok, VcomprF.ok, VidxF.ok, VinsF.ok, VcmpF.ok, VcmpiF.ok, BmemF.ok, maskOnce, policyDflt, attr4_false, dispOk, offOk, disp8Ok, immOk, inRange] at hw
  refine of_mem none none (M := 9) (m := 3) rfl (by simp) (by decide) (by decide) (r27_b40 f.d) (r27_b40 f.b) (by omega) (r27_bounds f.la) fun w hm hu => ?_
  rw [decWord, hm]; change decSmem _ w = _; unfold decSmem; rw [hu]
  cases f; simp_all [fieldOf, need, policyDflt, zeroF, inRange, attr4_false, tyF, laF, pfxF, codeF, noAttr, noSweep, maskF, valuChk, vops3, vops2] <;> (first | tauto | omega | exact ⟨by tauto, by omega⟩)

theorem stI9 (f : SmemF) : Statement (.stI9 f) := by
  intro hw _
  simp [Instr.wellFormed, SaluF.ok, SimmF.ok, SmemF.ok, VmemF.ok, VgthF.ok, MxqF.ok, ZpkF.ok, CvtF.ok, VpermF.ok, VunpkF.ok, VredF.ok, VpermSF.ok, VcomprF.ok, VidxF.ok, VinsF.ok, VcmpF.ok, VcmpiF.ok, BmemF.ok, maskOnce, policyDflt, attr4_false, dispOk, offOk, disp8Ok, immOk, inRange] at hw
  refine of_mem none none (M := 9) (m := (-1)) rfl (by simp) (by decide) (by decide) (r27_b40 f.d) (r27_b40 f.b) (by omega) (r27_bounds f.la) fun w hm hu => ?_
  rw [decWord, hm]; change decSmem _ w = _; unfold decSmem; rw [hu]
  cases f; simp_all [fieldOf, need, policyDflt, zeroF, inRange, attr4_false, tyF, laF, pfxF, codeF, noAttr, noSweep, maskF, valuChk, vops3, vops2] <;> (first | tauto | omega | exact ⟨by tauto, by omega⟩)

theorem stI27 (f : SmemF) : Statement (.stI27 f) := by
  intro hw _
  simp [Instr.wellFormed, SaluF.ok, SimmF.ok, SmemF.ok, VmemF.ok, VgthF.ok, MxqF.ok, ZpkF.ok, CvtF.ok, VpermF.ok, VunpkF.ok, VredF.ok, VpermSF.ok, VcomprF.ok, VidxF.ok, VinsF.ok, VcmpF.ok, VcmpiF.ok, BmemF.ok, maskOnce, policyDflt, attr4_false, dispOk, offOk, disp8Ok, immOk, inRange] at hw
  refine of_mem none none (M := 9) (m := (-2)) rfl (by simp) (by decide) (by decide) (r27_b40 f.d) (r27_b40 f.b) (by omega) (r27_bounds f.la) fun w hm hu => ?_
  rw [decWord, hm]; change decSmem _ w = _; unfold decSmem; rw [hu]
  cases f; simp_all [fieldOf, need, policyDflt, zeroF, inRange, attr4_false, tyF, laF, pfxF, codeF, noAttr, noSweep, maskF, valuChk, vops3, vops2] <;> (first | tauto | omega | exact ⟨by tauto, by omega⟩)

theorem stI54 (f : SmemF) : Statement (.stI54 f) := by
  intro hw _
  simp [Instr.wellFormed, SaluF.ok, SimmF.ok, SmemF.ok, VmemF.ok, VgthF.ok, MxqF.ok, ZpkF.ok, CvtF.ok, VpermF.ok, VunpkF.ok, VredF.ok, VpermSF.ok, VcomprF.ok, VidxF.ok, VinsF.ok, VcmpF.ok, VcmpiF.ok, BmemF.ok, maskOnce, policyDflt, attr4_false, dispOk, offOk, disp8Ok, immOk, inRange] at hw
  refine of_mem none none (M := 9) (m := (-3)) rfl (by simp) (by decide) (by decide) (r27_b40 f.d) (r27_b40 f.b) (by omega) (r27_bounds f.la) fun w hm hu => ?_
  rw [decWord, hm]; change decSmem _ w = _; unfold decSmem; rw [hu]
  cases f; simp_all [fieldOf, need, policyDflt, zeroF, inRange, attr4_false, tyF, laF, pfxF, codeF, noAttr, noSweep, maskF, valuChk, vops3, vops2] <;> (first | tauto | omega | exact ⟨by tauto, by omega⟩)

theorem lea (f : SmemF) : Statement (.lea f) := by
  intro hw _
  simp [Instr.wellFormed, SaluF.ok, SimmF.ok, SmemF.ok, VmemF.ok, VgthF.ok, MxqF.ok, ZpkF.ok, CvtF.ok, VpermF.ok, VunpkF.ok, VredF.ok, VpermSF.ok, VcomprF.ok, VidxF.ok, VinsF.ok, VcmpF.ok, VcmpiF.ok, BmemF.ok, maskOnce, policyDflt, attr4_false, dispOk, offOk, disp8Ok, immOk, inRange] at hw
  refine of_mem none none (M := 9) (m := 4) rfl (by simp) (by decide) (by decide) (r27_b40 f.d) (r27_b40 f.b) (by omega) (r27_bounds f.la) fun w hm hu => ?_
  rw [decWord, hm]; change decSmem _ w = _; unfold decSmem; rw [hu]
  cases f; simp_all [fieldOf, need, policyDflt, zeroF, inRange, attr4_false, tyF, laF, pfxF, codeF, noAttr, noSweep, maskF, valuChk, vops3, vops2] <;> (first | tauto | omega | exact ⟨by tauto, by omega⟩)

theorem pf (f : SmemF) : Statement (.pf f) := by
  intro hw _
  simp [Instr.wellFormed, SaluF.ok, SimmF.ok, SmemF.ok, VmemF.ok, VgthF.ok, MxqF.ok, ZpkF.ok, CvtF.ok, VpermF.ok, VunpkF.ok, VredF.ok, VpermSF.ok, VcomprF.ok, VidxF.ok, VinsF.ok, VcmpF.ok, VcmpiF.ok, BmemF.ok, maskOnce, policyDflt, attr4_false, dispOk, offOk, disp8Ok, immOk, inRange] at hw
  refine of_mem none none (M := 9) (m := 5) rfl (by simp) (by decide) (by decide) (r27_b40 f.d) (r27_b40 f.b) (by omega) (r27_bounds f.la) fun w hm hu => ?_
  rw [decWord, hm]; change decSmem _ w = _; unfold decSmem; rw [hu]
  cases f; simp_all [fieldOf, need, policyDflt, zeroF, inRange, attr4_false, tyF, laF, pfxF, codeF, noAttr, noSweep, maskF, valuChk, vops3, vops2] <;> (first | tauto | omega | exact ⟨by tauto, by omega⟩)

theorem vadd (f : ValuF) : Statement (.vadd f) := by
  intro hw _
  obtain ⟨attr, ops, mask, la, ty⟩ := f
  simp [Instr.wellFormed, ValuF.ok, maskOnce, attr4_false, policyDflt] at hw
  cases ops with
  | regs dr ar br =>
    refine of_reg attr none (M := 14) (m := 0) rfl (by simp) (by decide) (by decide) (r81_bounds dr) (r81_bounds ar) (r81_bounds br) (r9_bounds mask) (r27_bounds la) (ty_b13 ty) fun w hm hu => ?_
    rw [decWord, hm]; change decValu _ w = _; unfold decValu; rw [hu]
    cases attr <;> simp_all [fieldOf, need, policyDflt, zeroF, inRange, attr4_false, tyF, laF, pfxF, codeF, noAttr, noSweep, maskF, valuChk, vops3, vops2] <;> (first | tauto | omega | exact ⟨by tauto, by omega⟩)
  | swept sw dr ar br =>
    refine of_reg attr (some sw) (M := 14) (m := 0) rfl (by simp_all) (by decide) (by decide) (r27_b40 dr) (r27_b40 ar) (r27_b40 br) (r9_bounds mask) (r27_bounds la) (ty_b13 ty) fun w hm hu => ?_
    rw [decWord, hm]; change decValu _ w = _; unfold decValu; rw [hu]
    cases attr <;> simp_all [fieldOf, need, policyDflt, zeroF, inRange, attr4_false, tyF, laF, pfxF, codeF, noAttr, noSweep, maskF, valuChk, vops3, vops2] <;> (first | tauto | omega | exact ⟨by tauto, by omega⟩)

theorem vsub (f : ValuF) : Statement (.vsub f) := by
  intro hw _
  obtain ⟨attr, ops, mask, la, ty⟩ := f
  simp [Instr.wellFormed, ValuF.ok, maskOnce, attr4_false, policyDflt] at hw
  cases ops with
  | regs dr ar br =>
    refine of_reg attr none (M := 14) (m := 1) rfl (by simp) (by decide) (by decide) (r81_bounds dr) (r81_bounds ar) (r81_bounds br) (r9_bounds mask) (r27_bounds la) (ty_b13 ty) fun w hm hu => ?_
    rw [decWord, hm]; change decValu _ w = _; unfold decValu; rw [hu]
    cases attr <;> simp_all [fieldOf, need, policyDflt, zeroF, inRange, attr4_false, tyF, laF, pfxF, codeF, noAttr, noSweep, maskF, valuChk, vops3, vops2] <;> (first | tauto | omega | exact ⟨by tauto, by omega⟩)
  | swept sw dr ar br =>
    refine of_reg attr (some sw) (M := 14) (m := 1) rfl (by simp_all) (by decide) (by decide) (r27_b40 dr) (r27_b40 ar) (r27_b40 br) (r9_bounds mask) (r27_bounds la) (ty_b13 ty) fun w hm hu => ?_
    rw [decWord, hm]; change decValu _ w = _; unfold decValu; rw [hu]
    cases attr <;> simp_all [fieldOf, need, policyDflt, zeroF, inRange, attr4_false, tyF, laF, pfxF, codeF, noAttr, noSweep, maskF, valuChk, vops3, vops2] <;> (first | tauto | omega | exact ⟨by tauto, by omega⟩)

theorem vmul (f : ValuF) : Statement (.vmul f) := by
  intro hw _
  obtain ⟨attr, ops, mask, la, ty⟩ := f
  simp [Instr.wellFormed, ValuF.ok, maskOnce, attr4_false, policyDflt] at hw
  cases ops with
  | regs dr ar br =>
    refine of_reg attr none (M := 14) (m := 2) rfl (by simp) (by decide) (by decide) (r81_bounds dr) (r81_bounds ar) (r81_bounds br) (r9_bounds mask) (r27_bounds la) (ty_b13 ty) fun w hm hu => ?_
    rw [decWord, hm]; change decValu _ w = _; unfold decValu; rw [hu]
    cases attr <;> simp_all [fieldOf, need, policyDflt, zeroF, inRange, attr4_false, tyF, laF, pfxF, codeF, noAttr, noSweep, maskF, valuChk, vops3, vops2] <;> (first | tauto | omega | exact ⟨by tauto, by omega⟩)
  | swept sw dr ar br =>
    refine of_reg attr (some sw) (M := 14) (m := 2) rfl (by simp_all) (by decide) (by decide) (r27_b40 dr) (r27_b40 ar) (r27_b40 br) (r9_bounds mask) (r27_bounds la) (ty_b13 ty) fun w hm hu => ?_
    rw [decWord, hm]; change decValu _ w = _; unfold decValu; rw [hu]
    cases attr <;> simp_all [fieldOf, need, policyDflt, zeroF, inRange, attr4_false, tyF, laF, pfxF, codeF, noAttr, noSweep, maskF, valuChk, vops3, vops2] <;> (first | tauto | omega | exact ⟨by tauto, by omega⟩)

theorem vdiv (f : ValuF) : Statement (.vdiv f) := by
  intro hw _
  obtain ⟨attr, ops, mask, la, ty⟩ := f
  simp [Instr.wellFormed, ValuF.ok, maskOnce, attr4_false, policyDflt] at hw
  cases ops with
  | regs dr ar br =>
    refine of_reg attr none (M := 14) (m := 3) rfl (by simp) (by decide) (by decide) (r81_bounds dr) (r81_bounds ar) (r81_bounds br) (r9_bounds mask) (r27_bounds la) (ty_b13 ty) fun w hm hu => ?_
    rw [decWord, hm]; change decValu _ w = _; unfold decValu; rw [hu]
    cases attr <;> simp_all [fieldOf, need, policyDflt, zeroF, inRange, attr4_false, tyF, laF, pfxF, codeF, noAttr, noSweep, maskF, valuChk, vops3, vops2] <;> (first | tauto | omega | exact ⟨by tauto, by omega⟩)
  | swept sw dr ar br =>
    refine of_reg attr (some sw) (M := 14) (m := 3) rfl (by simp_all) (by decide) (by decide) (r27_b40 dr) (r27_b40 ar) (r27_b40 br) (r9_bounds mask) (r27_bounds la) (ty_b13 ty) fun w hm hu => ?_
    rw [decWord, hm]; change decValu _ w = _; unfold decValu; rw [hu]
    cases attr <;> simp_all [fieldOf, need, policyDflt, zeroF, inRange, attr4_false, tyF, laF, pfxF, codeF, noAttr, noSweep, maskF, valuChk, vops3, vops2] <;> (first | tauto | omega | exact ⟨by tauto, by omega⟩)

theorem vmin (f : ValuF) : Statement (.vmin f) := by
  intro hw _
  obtain ⟨attr, ops, mask, la, ty⟩ := f
  simp [Instr.wellFormed, ValuF.ok, maskOnce, attr4_false, policyDflt] at hw
  cases ops with
  | regs dr ar br =>
    refine of_reg attr none (M := 14) (m := 4) rfl (by simp) (by decide) (by decide) (r81_bounds dr) (r81_bounds ar) (r81_bounds br) (r9_bounds mask) (r27_bounds la) (ty_b13 ty) fun w hm hu => ?_
    rw [decWord, hm]; change decValu _ w = _; unfold decValu; rw [hu]
    cases attr <;> simp_all [fieldOf, need, policyDflt, zeroF, inRange, attr4_false, tyF, laF, pfxF, codeF, noAttr, noSweep, maskF, valuChk, vops3, vops2] <;> (first | tauto | omega | exact ⟨by tauto, by omega⟩)
  | swept sw dr ar br =>
    refine of_reg attr (some sw) (M := 14) (m := 4) rfl (by simp_all) (by decide) (by decide) (r27_b40 dr) (r27_b40 ar) (r27_b40 br) (r9_bounds mask) (r27_bounds la) (ty_b13 ty) fun w hm hu => ?_
    rw [decWord, hm]; change decValu _ w = _; unfold decValu; rw [hu]
    cases attr <;> simp_all [fieldOf, need, policyDflt, zeroF, inRange, attr4_false, tyF, laF, pfxF, codeF, noAttr, noSweep, maskF, valuChk, vops3, vops2] <;> (first | tauto | omega | exact ⟨by tauto, by omega⟩)

theorem vmax (f : ValuF) : Statement (.vmax f) := by
  intro hw _
  obtain ⟨attr, ops, mask, la, ty⟩ := f
  simp [Instr.wellFormed, ValuF.ok, maskOnce, attr4_false, policyDflt] at hw
  cases ops with
  | regs dr ar br =>
    refine of_reg attr none (M := 14) (m := 5) rfl (by simp) (by decide) (by decide) (r81_bounds dr) (r81_bounds ar) (r81_bounds br) (r9_bounds mask) (r27_bounds la) (ty_b13 ty) fun w hm hu => ?_
    rw [decWord, hm]; change decValu _ w = _; unfold decValu; rw [hu]
    cases attr <;> simp_all [fieldOf, need, policyDflt, zeroF, inRange, attr4_false, tyF, laF, pfxF, codeF, noAttr, noSweep, maskF, valuChk, vops3, vops2] <;> (first | tauto | omega | exact ⟨by tauto, by omega⟩)
  | swept sw dr ar br =>
    refine of_reg attr (some sw) (M := 14) (m := 5) rfl (by simp_all) (by decide) (by decide) (r27_b40 dr) (r27_b40 ar) (r27_b40 br) (r9_bounds mask) (r27_bounds la) (ty_b13 ty) fun w hm hu => ?_
    rw [decWord, hm]; change decValu _ w = _; unfold decValu; rw [hu]
    cases attr <;> simp_all [fieldOf, need, policyDflt, zeroF, inRange, attr4_false, tyF, laF, pfxF, codeF, noAttr, noSweep, maskF, valuChk, vops3, vops2] <;> (first | tauto | omega | exact ⟨by tauto, by omega⟩)

theorem vfma (f : ValuF) : Statement (.vfma f) := by
  intro hw _
  obtain ⟨attr, ops, mask, la, ty⟩ := f
  simp [Instr.wellFormed, ValuF.ok, maskOnce, attr4_false, policyDflt] at hw
  cases ops with
  | regs dr ar br =>
    refine of_reg attr none (M := 14) (m := 6) rfl (by simp) (by decide) (by decide) (r81_bounds dr) (r81_bounds ar) (r81_bounds br) (r9_bounds mask) (r27_bounds la) (ty_b13 ty) fun w hm hu => ?_
    rw [decWord, hm]; change decValu _ w = _; unfold decValu; rw [hu]
    cases attr <;> simp_all [fieldOf, need, policyDflt, zeroF, inRange, attr4_false, tyF, laF, pfxF, codeF, noAttr, noSweep, maskF, valuChk, vops3, vops2] <;> (first | tauto | omega | exact ⟨by tauto, by omega⟩)
  | swept sw dr ar br =>
    refine of_reg attr (some sw) (M := 14) (m := 6) rfl (by simp_all) (by decide) (by decide) (r27_b40 dr) (r27_b40 ar) (r27_b40 br) (r9_bounds mask) (r27_bounds la) (ty_b13 ty) fun w hm hu => ?_
    rw [decWord, hm]; change decValu _ w = _; unfold decValu; rw [hu]
    cases attr <;> simp_all [fieldOf, need, policyDflt, zeroF, inRange, attr4_false, tyF, laF, pfxF, codeF, noAttr, noSweep, maskF, valuChk, vops3, vops2] <;> (first | tauto | omega | exact ⟨by tauto, by omega⟩)

theorem vfms (f : ValuF) : Statement (.vfms f) := by
  intro hw _
  obtain ⟨attr, ops, mask, la, ty⟩ := f
  simp [Instr.wellFormed, ValuF.ok, maskOnce, attr4_false, policyDflt] at hw
  cases ops with
  | regs dr ar br =>
    refine of_reg attr none (M := 14) (m := 7) rfl (by simp) (by decide) (by decide) (r81_bounds dr) (r81_bounds ar) (r81_bounds br) (r9_bounds mask) (r27_bounds la) (ty_b13 ty) fun w hm hu => ?_
    rw [decWord, hm]; change decValu _ w = _; unfold decValu; rw [hu]
    cases attr <;> simp_all [fieldOf, need, policyDflt, zeroF, inRange, attr4_false, tyF, laF, pfxF, codeF, noAttr, noSweep, maskF, valuChk, vops3, vops2] <;> (first | tauto | omega | exact ⟨by tauto, by omega⟩)
  | swept sw dr ar br =>
    refine of_reg attr (some sw) (M := 14) (m := 7) rfl (by simp_all) (by decide) (by decide) (r27_b40 dr) (r27_b40 ar) (r27_b40 br) (r9_bounds mask) (r27_bounds la) (ty_b13 ty) fun w hm hu => ?_
    rw [decWord, hm]; change decValu _ w = _; unfold decValu; rw [hu]
    cases attr <;> simp_all [fieldOf, need, policyDflt, zeroF, inRange, attr4_false, tyF, laF, pfxF, codeF, noAttr, noSweep, maskF, valuChk, vops3, vops2] <;> (first | tauto | omega | exact ⟨by tauto, by omega⟩)

theorem vabs (f : ValuF) : Statement (.vabs f) := by
  intro hw _
  obtain ⟨attr, ops, mask, la, ty⟩ := f
  simp [Instr.wellFormed, ValuF.ok, maskOnce, attr4_false, policyDflt] at hw
  cases ops with
  | regs dr ar br =>
    refine of_reg attr none (M := 14) (m := 8) rfl (by simp) (by decide) (by decide) (r81_bounds dr) (r81_bounds ar) (r81_bounds br) (r9_bounds mask) (r27_bounds la) (ty_b13 ty) fun w hm hu => ?_
    rw [decWord, hm]; change decValu _ w = _; unfold decValu; rw [hu]
    cases attr <;> simp_all [fieldOf, need, policyDflt, zeroF, inRange, attr4_false, tyF, laF, pfxF, codeF, noAttr, noSweep, maskF, valuChk, vops3, vops2] <;> (first | tauto | omega | exact ⟨by tauto, by omega⟩)
  | swept sw dr ar br =>
    refine of_reg attr (some sw) (M := 14) (m := 8) rfl (by simp_all) (by decide) (by decide) (r27_b40 dr) (r27_b40 ar) (r27_b40 br) (r9_bounds mask) (r27_bounds la) (ty_b13 ty) fun w hm hu => ?_
    rw [decWord, hm]; change decValu _ w = _; unfold decValu; rw [hu]
    cases attr <;> simp_all [fieldOf, need, policyDflt, zeroF, inRange, attr4_false, tyF, laF, pfxF, codeF, noAttr, noSweep, maskF, valuChk, vops3, vops2] <;> (first | tauto | omega | exact ⟨by tauto, by omega⟩)

theorem vcmp (f : VcmpF) : Statement (.vcmp f) := by
  intro hw _
  simp [Instr.wellFormed, SaluF.ok, SimmF.ok, SmemF.ok, VmemF.ok, VgthF.ok, MxqF.ok, ZpkF.ok, CvtF.ok, VpermF.ok, VunpkF.ok, VredF.ok, VpermSF.ok, VcomprF.ok, VidxF.ok, VinsF.ok, VcmpF.ok, VcmpiF.ok, BmemF.ok, maskOnce, policyDflt, attr4_false, dispOk, offOk, disp8Ok, immOk, inRange] at hw
  refine of_reg f.attr none (M := 14) (m := 9) rfl (by simp) (by decide) (by decide) (r9_b40 f.d) (r81_bounds f.a) (r81_bounds f.b) (r9_bounds f.mask) (by decide) (ty_b13 f.ty) fun w hm hu => ?_
  rw [decWord, hm]; change decValu _ w = _; unfold decValu; rw [hu]
  rcases f with ⟨_ | _, _⟩ <;> simp_all [fieldOf, need, policyDflt, zeroF, inRange, attr4_false, tyF, laF, pfxF, codeF, noAttr, noSweep, maskF, valuChk, vops3, vops2] <;> (first | tauto | omega | exact ⟨by tauto, by omega⟩)

theorem vsel3 (f : ValuF) : Statement (.vsel3 f) := by
  intro hw _
  obtain ⟨attr, ops, mask, la, ty⟩ := f
  simp [Instr.wellFormed, ValuF.ok, maskOnce, attr4_false, policyDflt] at hw
  cases ops with
  | regs dr ar br =>
    refine of_reg attr none (M := 14) (m := 10) rfl (by simp) (by decide) (by decide) (r81_bounds dr) (r81_bounds ar) (r81_bounds br) (r9_bounds mask) (r27_bounds la) (ty_b13 ty) fun w hm hu => ?_
    rw [decWord, hm]; change decValu _ w = _; unfold decValu; rw [hu]
    cases attr <;> simp_all [fieldOf, need, policyDflt, zeroF, inRange, attr4_false, tyF, laF, pfxF, codeF, noAttr, noSweep, maskF, valuChk, vops3, vops2] <;> (first | tauto | omega | exact ⟨by tauto, by omega⟩)
  | swept sw dr ar br =>
    refine of_reg attr (some sw) (M := 14) (m := 10) rfl (by simp_all) (by decide) (by decide) (r27_b40 dr) (r27_b40 ar) (r27_b40 br) (r9_bounds mask) (r27_bounds la) (ty_b13 ty) fun w hm hu => ?_
    rw [decWord, hm]; change decValu _ w = _; unfold decValu; rw [hu]
    cases attr <;> simp_all [fieldOf, need, policyDflt, zeroF, inRange, attr4_false, tyF, laF, pfxF, codeF, noAttr, noSweep, maskF, valuChk, vops3, vops2] <;> (first | tauto | omega | exact ⟨by tauto, by omega⟩)

theorem vtinv (f : ValuF) : Statement (.vtinv f) := by
  intro hw _
  obtain ⟨attr, ops, mask, la, ty⟩ := f
  simp [Instr.wellFormed, ValuF.ok, maskOnce, attr4_false, policyDflt] at hw
  cases ops with
  | regs dr ar br =>
    refine of_reg attr none (M := 14) (m := (-1)) rfl (by simp) (by decide) (by decide) (r81_bounds dr) (r81_bounds ar) (r81_bounds br) (r9_bounds mask) (r27_bounds la) (ty_b13 ty) fun w hm hu => ?_
    rw [decWord, hm]; change decValu _ w = _; unfold decValu; rw [hu]
    cases attr <;> simp_all [fieldOf, need, policyDflt, zeroF, inRange, attr4_false, tyF, laF, pfxF, codeF, noAttr, noSweep, maskF, valuChk, vops3, vops2] <;> (first | tauto | omega | exact ⟨by tauto, by omega⟩)
  | swept sw dr ar br =>
    refine of_reg attr (some sw) (M := 14) (m := (-1)) rfl (by simp_all) (by decide) (by decide) (r27_b40 dr) (r27_b40 ar) (r27_b40 br) (r9_bounds mask) (r27_bounds la) (ty_b13 ty) fun w hm hu => ?_
    rw [decWord, hm]; change decValu _ w = _; unfold decValu; rw [hu]
    cases attr <;> simp_all [fieldOf, need, policyDflt, zeroF, inRange, attr4_false, tyF, laF, pfxF, codeF, noAttr, noSweep, maskF, valuChk, vops3, vops2] <;> (first | tauto | omega | exact ⟨by tauto, by omega⟩)

theorem vtmin (f : ValuF) : Statement (.vtmin f) := by
  intro hw _
  obtain ⟨attr, ops, mask, la, ty⟩ := f
  simp [Instr.wellFormed, ValuF.ok, maskOnce, attr4_false, policyDflt] at hw
  cases ops with
  | regs dr ar br =>
    refine of_reg attr none (M := 14) (m := (-2)) rfl (by simp) (by decide) (by decide) (r81_bounds dr) (r81_bounds ar) (r81_bounds br) (r9_bounds mask) (r27_bounds la) (ty_b13 ty) fun w hm hu => ?_
    rw [decWord, hm]; change decValu _ w = _; unfold decValu; rw [hu]
    cases attr <;> simp_all [fieldOf, need, policyDflt, zeroF, inRange, attr4_false, tyF, laF, pfxF, codeF, noAttr, noSweep, maskF, valuChk, vops3, vops2] <;> (first | tauto | omega | exact ⟨by tauto, by omega⟩)
  | swept sw dr ar br =>
    refine of_reg attr (some sw) (M := 14) (m := (-2)) rfl (by simp_all) (by decide) (by decide) (r27_b40 dr) (r27_b40 ar) (r27_b40 br) (r9_bounds mask) (r27_bounds la) (ty_b13 ty) fun w hm hu => ?_
    rw [decWord, hm]; change decValu _ w = _; unfold decValu; rw [hu]
    cases attr <;> simp_all [fieldOf, need, policyDflt, zeroF, inRange, attr4_false, tyF, laF, pfxF, codeF, noAttr, noSweep, maskF, valuChk, vops3, vops2] <;> (first | tauto | omega | exact ⟨by tauto, by omega⟩)

theorem vtmax (f : ValuF) : Statement (.vtmax f) := by
  intro hw _
  obtain ⟨attr, ops, mask, la, ty⟩ := f
  simp [Instr.wellFormed, ValuF.ok, maskOnce, attr4_false, policyDflt] at hw
  cases ops with
  | regs dr ar br =>
    refine of_reg attr none (M := 14) (m := (-3)) rfl (by simp) (by decide) (by decide) (r81_bounds dr) (r81_bounds ar) (r81_bounds br) (r9_bounds mask) (r27_bounds la) (ty_b13 ty) fun w hm hu => ?_
    rw [decWord, hm]; change decValu _ w = _; unfold decValu; rw [hu]
    cases attr <;> simp_all [fieldOf, need, policyDflt, zeroF, inRange, attr4_false, tyF, laF, pfxF, codeF, noAttr, noSweep, maskF, valuChk, vops3, vops2] <;> (first | tauto | omega | exact ⟨by tauto, by omega⟩)
  | swept sw dr ar br =>
    refine of_reg attr (some sw) (M := 14) (m := (-3)) rfl (by simp_all) (by decide) (by decide) (r27_b40 dr) (r27_b40 ar) (r27_b40 br) (r9_bounds mask) (r27_bounds la) (ty_b13 ty) fun w hm hu => ?_
    rw [decWord, hm]; change decValu _ w = _; unfold decValu; rw [hu]
    cases attr <;> simp_all [fieldOf, need, policyDflt, zeroF, inRange, attr4_false, tyF, laF, pfxF, codeF, noAttr, noSweep, maskF, valuChk, vops3, vops2] <;> (first | tauto | omega | exact ⟨by tauto, by omega⟩)

theorem vtsum (f : ValuF) : Statement (.vtsum f) := by
  intro hw _
  obtain ⟨attr, ops, mask, la, ty⟩ := f
  simp [Instr.wellFormed, ValuF.ok, maskOnce, attr4_false, policyDflt] at hw
  cases ops with
  | regs dr ar br =>
    refine of_reg attr none (M := 14) (m := (-4)) rfl (by simp) (by decide) (by decide) (r81_bounds dr) (r81_bounds ar) (r81_bounds br) (r9_bounds mask) (r27_bounds la) (ty_b13 ty) fun w hm hu => ?_
    rw [decWord, hm]; change decValu _ w = _; unfold decValu; rw [hu]
    cases attr <;> simp_all [fieldOf, need, policyDflt, zeroF, inRange, attr4_false, tyF, laF, pfxF, codeF, noAttr, noSweep, maskF, valuChk, vops3, vops2] <;> (first | tauto | omega | exact ⟨by tauto, by omega⟩)
  | swept sw dr ar br =>
    refine of_reg attr (some sw) (M := 14) (m := (-4)) rfl (by simp_all) (by decide) (by decide) (r27_b40 dr) (r27_b40 ar) (r27_b40 br) (r9_bounds mask) (r27_bounds la) (ty_b13 ty) fun w hm hu => ?_
    rw [decWord, hm]; change decValu _ w = _; unfold decValu; rw [hu]
    cases attr <;> simp_all [fieldOf, need, policyDflt, zeroF, inRange, attr4_false, tyF, laF, pfxF, codeF, noAttr, noSweep, maskF, valuChk, vops3, vops2] <;> (first | tauto | omega | exact ⟨by tauto, by omega⟩)

theorem vtcon (f : ValuF) : Statement (.vtcon f) := by
  intro hw _
  obtain ⟨attr, ops, mask, la, ty⟩ := f
  simp [Instr.wellFormed, ValuF.ok, maskOnce, attr4_false, policyDflt] at hw
  cases ops with
  | regs dr ar br =>
    refine of_reg attr none (M := 14) (m := (-5)) rfl (by simp) (by decide) (by decide) (r81_bounds dr) (r81_bounds ar) (r81_bounds br) (r9_bounds mask) (r27_bounds la) (ty_b13 ty) fun w hm hu => ?_
    rw [decWord, hm]; change decValu _ w = _; unfold decValu; rw [hu]
    cases attr <;> simp_all [fieldOf, need, policyDflt, zeroF, inRange, attr4_false, tyF, laF, pfxF, codeF, noAttr, noSweep, maskF, valuChk, vops3, vops2] <;> (first | tauto | omega | exact ⟨by tauto, by omega⟩)
  | swept sw dr ar br =>
    refine of_reg attr (some sw) (M := 14) (m := (-5)) rfl (by simp_all) (by decide) (by decide) (r27_b40 dr) (r27_b40 ar) (r27_b40 br) (r9_bounds mask) (r27_bounds la) (ty_b13 ty) fun w hm hu => ?_
    rw [decWord, hm]; change decValu _ w = _; unfold decValu; rw [hu]
    cases attr <;> simp_all [fieldOf, need, policyDflt, zeroF, inRange, attr4_false, tyF, laF, pfxF, codeF, noAttr, noSweep, maskF, valuChk, vops3, vops2] <;> (first | tauto | omega | exact ⟨by tauto, by omega⟩)

theorem vshl (f : ValuF) : Statement (.vshl f) := by
  intro hw _
  obtain ⟨attr, ops, mask, la, ty⟩ := f
  simp [Instr.wellFormed, ValuF.ok, maskOnce, attr4_false, policyDflt] at hw
  cases ops with
  | regs dr ar br =>
    refine of_reg attr none (M := 14) (m := (-6)) rfl (by simp) (by decide) (by decide) (r81_bounds dr) (r81_bounds ar) (r81_bounds br) (r9_bounds mask) (r27_bounds la) (ty_b13 ty) fun w hm hu => ?_
    rw [decWord, hm]; change decValu _ w = _; unfold decValu; rw [hu]
    cases attr <;> simp_all [fieldOf, need, policyDflt, zeroF, inRange, attr4_false, tyF, laF, pfxF, codeF, noAttr, noSweep, maskF, valuChk, vops3, vops2] <;> (first | tauto | omega | exact ⟨by tauto, by omega⟩)
  | swept sw dr ar br =>
    refine of_reg attr (some sw) (M := 14) (m := (-6)) rfl (by simp_all) (by decide) (by decide) (r27_b40 dr) (r27_b40 ar) (r27_b40 br) (r9_bounds mask) (r27_bounds la) (ty_b13 ty) fun w hm hu => ?_
    rw [decWord, hm]; change decValu _ w = _; unfold decValu; rw [hu]
    cases attr <;> simp_all [fieldOf, need, policyDflt, zeroF, inRange, attr4_false, tyF, laF, pfxF, codeF, noAttr, noSweep, maskF, valuChk, vops3, vops2] <;> (first | tauto | omega | exact ⟨by tauto, by omega⟩)

theorem vshr (f : ValuF) : Statement (.vshr f) := by
  intro hw _
  obtain ⟨attr, ops, mask, la, ty⟩ := f
  simp [Instr.wellFormed, ValuF.ok, maskOnce, attr4_false, policyDflt] at hw
  cases ops with
  | regs dr ar br =>
    refine of_reg attr none (M := 14) (m := (-7)) rfl (by simp) (by decide) (by decide) (r81_bounds dr) (r81_bounds ar) (r81_bounds br) (r9_bounds mask) (r27_bounds la) (ty_b13 ty) fun w hm hu => ?_
    rw [decWord, hm]; change decValu _ w = _; unfold decValu; rw [hu]
    cases attr <;> simp_all [fieldOf, need, policyDflt, zeroF, inRange, attr4_false, tyF, laF, pfxF, codeF, noAttr, noSweep, maskF, valuChk, vops3, vops2] <;> (first | tauto | omega | exact ⟨by tauto, by omega⟩)
  | swept sw dr ar br =>
    refine of_reg attr (some sw) (M := 14) (m := (-7)) rfl (by simp_all) (by decide) (by decide) (r27_b40 dr) (r27_b40 ar) (r27_b40 br) (r9_bounds mask) (r27_bounds la) (ty_b13 ty) fun w hm hu => ?_
    rw [decWord, hm]; change decValu _ w = _; unfold decValu; rw [hu]
    cases attr <;> simp_all [fieldOf, need, policyDflt, zeroF, inRange, attr4_false, tyF, laF, pfxF, codeF, noAttr, noSweep, maskF, valuChk, vops3, vops2] <;> (first | tauto | omega | exact ⟨by tauto, by omega⟩)

theorem vmov (f : ValuF) : Statement (.vmov f) := by
  intro hw _
  obtain ⟨attr, ops, mask, la, ty⟩ := f
  simp [Instr.wellFormed, ValuF.ok, maskOnce, attr4_false, policyDflt] at hw
  cases ops with
  | regs dr ar br =>
    refine of_reg attr none (M := 14) (m := (-8)) rfl (by simp) (by decide) (by decide) (r81_bounds dr) (r81_bounds ar) (r81_bounds br) (r9_bounds mask) (r27_bounds la) (ty_b13 ty) fun w hm hu => ?_
    rw [decWord, hm]; change decValu _ w = _; unfold decValu; rw [hu]
    cases attr <;> simp_all [fieldOf, need, policyDflt, zeroF, inRange, attr4_false, tyF, laF, pfxF, codeF, noAttr, noSweep, maskF, valuChk, vops3, vops2] <;> (first | tauto | omega | exact ⟨by tauto, by omega⟩)
  | swept sw dr ar br =>
    refine of_reg attr (some sw) (M := 14) (m := (-8)) rfl (by simp_all) (by decide) (by decide) (r27_b40 dr) (r27_b40 ar) (r27_b40 br) (r9_bounds mask) (r27_bounds la) (ty_b13 ty) fun w hm hu => ?_
    rw [decWord, hm]; change decValu _ w = _; unfold decValu; rw [hu]
    cases attr <;> simp_all [fieldOf, need, policyDflt, zeroF, inRange, attr4_false, tyF, laF, pfxF, codeF, noAttr, noSweep, maskF, valuChk, vops3, vops2] <;> (first | tauto | omega | exact ⟨by tauto, by omega⟩)

theorem vrcp (f : ValuF) : Statement (.vrcp f) := by
  intro hw _
  obtain ⟨attr, ops, mask, la, ty⟩ := f
  simp [Instr.wellFormed, ValuF.ok, maskOnce, attr4_false, policyDflt] at hw
  cases ops with
  | regs dr ar br =>
    refine of_reg attr none (M := 15) (m := 0) rfl (by simp) (by decide) (by decide) (r81_bounds dr) (r81_bounds ar) (r81_bounds br) (r9_bounds mask) (r27_bounds la) (ty_b13 ty) fun w hm hu => ?_
    rw [decWord, hm]; change decVsfu _ w = _; unfold decVsfu; rw [hu]
    cases attr <;> simp_all [fieldOf, need, policyDflt, zeroF, inRange, attr4_false, tyF, laF, pfxF, codeF, noAttr, noSweep, maskF, valuChk, vops3, vops2] <;> (first | tauto | omega | exact ⟨by tauto, by omega⟩)
  | swept sw dr ar br =>
    refine of_reg attr (some sw) (M := 15) (m := 0) rfl (by simp_all) (by decide) (by decide) (r27_b40 dr) (r27_b40 ar) (r27_b40 br) (r9_bounds mask) (r27_bounds la) (ty_b13 ty) fun w hm hu => ?_
    rw [decWord, hm]; change decVsfu _ w = _; unfold decVsfu; rw [hu]
    cases attr <;> simp_all [fieldOf, need, policyDflt, zeroF, inRange, attr4_false, tyF, laF, pfxF, codeF, noAttr, noSweep, maskF, valuChk, vops3, vops2] <;> (first | tauto | omega | exact ⟨by tauto, by omega⟩)

theorem vrsq (f : ValuF) : Statement (.vrsq f) := by
  intro hw _
  obtain ⟨attr, ops, mask, la, ty⟩ := f
  simp [Instr.wellFormed, ValuF.ok, maskOnce, attr4_false, policyDflt] at hw
  cases ops with
  | regs dr ar br =>
    refine of_reg attr none (M := 15) (m := 1) rfl (by simp) (by decide) (by decide) (r81_bounds dr) (r81_bounds ar) (r81_bounds br) (r9_bounds mask) (r27_bounds la) (ty_b13 ty) fun w hm hu => ?_
    rw [decWord, hm]; change decVsfu _ w = _; unfold decVsfu; rw [hu]
    cases attr <;> simp_all [fieldOf, need, policyDflt, zeroF, inRange, attr4_false, tyF, laF, pfxF, codeF, noAttr, noSweep, maskF, valuChk, vops3, vops2] <;> (first | tauto | omega | exact ⟨by tauto, by omega⟩)
  | swept sw dr ar br =>
    refine of_reg attr (some sw) (M := 15) (m := 1) rfl (by simp_all) (by decide) (by decide) (r27_b40 dr) (r27_b40 ar) (r27_b40 br) (r9_bounds mask) (r27_bounds la) (ty_b13 ty) fun w hm hu => ?_
    rw [decWord, hm]; change decVsfu _ w = _; unfold decVsfu; rw [hu]
    cases attr <;> simp_all [fieldOf, need, policyDflt, zeroF, inRange, attr4_false, tyF, laF, pfxF, codeF, noAttr, noSweep, maskF, valuChk, vops3, vops2] <;> (first | tauto | omega | exact ⟨by tauto, by omega⟩)

theorem vsqrt (f : ValuF) : Statement (.vsqrt f) := by
  intro hw _
  obtain ⟨attr, ops, mask, la, ty⟩ := f
  simp [Instr.wellFormed, ValuF.ok, maskOnce, attr4_false, policyDflt] at hw
  cases ops with
  | regs dr ar br =>
    refine of_reg attr none (M := 15) (m := 2) rfl (by simp) (by decide) (by decide) (r81_bounds dr) (r81_bounds ar) (r81_bounds br) (r9_bounds mask) (r27_bounds la) (ty_b13 ty) fun w hm hu => ?_
    rw [decWord, hm]; change decVsfu _ w = _; unfold decVsfu; rw [hu]
    cases attr <;> simp_all [fieldOf, need, policyDflt, zeroF, inRange, attr4_false, tyF, laF, pfxF, codeF, noAttr, noSweep, maskF, valuChk, vops3, vops2] <;> (first | tauto | omega | exact ⟨by tauto, by omega⟩)
  | swept sw dr ar br =>
    refine of_reg attr (some sw) (M := 15) (m := 2) rfl (by simp_all) (by decide) (by decide) (r27_b40 dr) (r27_b40 ar) (r27_b40 br) (r9_bounds mask) (r27_bounds la) (ty_b13 ty) fun w hm hu => ?_
    rw [decWord, hm]; change decVsfu _ w = _; unfold decVsfu; rw [hu]
    cases attr <;> simp_all [fieldOf, need, policyDflt, zeroF, inRange, attr4_false, tyF, laF, pfxF, codeF, noAttr, noSweep, maskF, valuChk, vops3, vops2] <;> (first | tauto | omega | exact ⟨by tauto, by omega⟩)

theorem vexp3 (f : ValuF) : Statement (.vexp3 f) := by
  intro hw _
  obtain ⟨attr, ops, mask, la, ty⟩ := f
  simp [Instr.wellFormed, ValuF.ok, maskOnce, attr4_false, policyDflt] at hw
  cases ops with
  | regs dr ar br =>
    refine of_reg attr none (M := 15) (m := 3) rfl (by simp) (by decide) (by decide) (r81_bounds dr) (r81_bounds ar) (r81_bounds br) (r9_bounds mask) (r27_bounds la) (ty_b13 ty) fun w hm hu => ?_
    rw [decWord, hm]; change decVsfu _ w = _; unfold decVsfu; rw [hu]
    cases attr <;> simp_all [fieldOf, need, policyDflt, zeroF, inRange, attr4_false, tyF, laF, pfxF, codeF, noAttr, noSweep, maskF, valuChk, vops3, vops2] <;> (first | tauto | omega | exact ⟨by tauto, by omega⟩)
  | swept sw dr ar br =>
    refine of_reg attr (some sw) (M := 15) (m := 3) rfl (by simp_all) (by decide) (by decide) (r27_b40 dr) (r27_b40 ar) (r27_b40 br) (r9_bounds mask) (r27_bounds la) (ty_b13 ty) fun w hm hu => ?_
    rw [decWord, hm]; change decVsfu _ w = _; unfold decVsfu; rw [hu]
    cases attr <;> simp_all [fieldOf, need, policyDflt, zeroF, inRange, attr4_false, tyF, laF, pfxF, codeF, noAttr, noSweep, maskF, valuChk, vops3, vops2] <;> (first | tauto | omega | exact ⟨by tauto, by omega⟩)

theorem vlog3 (f : ValuF) : Statement (.vlog3 f) := by
  intro hw _
  obtain ⟨attr, ops, mask, la, ty⟩ := f
  simp [Instr.wellFormed, ValuF.ok, maskOnce, attr4_false, policyDflt] at hw
  cases ops with
  | regs dr ar br =>
    refine of_reg attr none (M := 15) (m := 4) rfl (by simp) (by decide) (by decide) (r81_bounds dr) (r81_bounds ar) (r81_bounds br) (r9_bounds mask) (r27_bounds la) (ty_b13 ty) fun w hm hu => ?_
    rw [decWord, hm]; change decVsfu _ w = _; unfold decVsfu; rw [hu]
    cases attr <;> simp_all [fieldOf, need, policyDflt, zeroF, inRange, attr4_false, tyF, laF, pfxF, codeF, noAttr, noSweep, maskF, valuChk, vops3, vops2] <;> (first | tauto | omega | exact ⟨by tauto, by omega⟩)
  | swept sw dr ar br =>
    refine of_reg attr (some sw) (M := 15) (m := 4) rfl (by simp_all) (by decide) (by decide) (r27_b40 dr) (r27_b40 ar) (r27_b40 br) (r9_bounds mask) (r27_bounds la) (ty_b13 ty) fun w hm hu => ?_
    rw [decWord, hm]; change decVsfu _ w = _; unfold decVsfu; rw [hu]
    cases attr <;> simp_all [fieldOf, need, policyDflt, zeroF, inRange, attr4_false, tyF, laF, pfxF, codeF, noAttr, noSweep, maskF, valuChk, vops3, vops2] <;> (first | tauto | omega | exact ⟨by tauto, by omega⟩)

theorem vexp (f : ValuF) : Statement (.vexp f) := by
  intro hw _
  obtain ⟨attr, ops, mask, la, ty⟩ := f
  simp [Instr.wellFormed, ValuF.ok, maskOnce, attr4_false, policyDflt] at hw
  cases ops with
  | regs dr ar br =>
    refine of_reg attr none (M := 15) (m := 5) rfl (by simp) (by decide) (by decide) (r81_bounds dr) (r81_bounds ar) (r81_bounds br) (r9_bounds mask) (r27_bounds la) (ty_b13 ty) fun w hm hu => ?_
    rw [decWord, hm]; change decVsfu _ w = _; unfold decVsfu; rw [hu]
    cases attr <;> simp_all [fieldOf, need, policyDflt, zeroF, inRange, attr4_false, tyF, laF, pfxF, codeF, noAttr, noSweep, maskF, valuChk, vops3, vops2] <;> (first | tauto | omega | exact ⟨by tauto, by omega⟩)
  | swept sw dr ar br =>
    refine of_reg attr (some sw) (M := 15) (m := 5) rfl (by simp_all) (by decide) (by decide) (r27_b40 dr) (r27_b40 ar) (r27_b40 br) (r9_bounds mask) (r27_bounds la) (ty_b13 ty) fun w hm hu => ?_
    rw [decWord, hm]; change decVsfu _ w = _; unfold decVsfu; rw [hu]
    cases attr <;> simp_all [fieldOf, need, policyDflt, zeroF, inRange, attr4_false, tyF, laF, pfxF, codeF, noAttr, noSweep, maskF, valuChk, vops3, vops2] <;> (first | tauto | omega | exact ⟨by tauto, by omega⟩)

theorem vlog (f : ValuF) : Statement (.vlog f) := by
  intro hw _
  obtain ⟨attr, ops, mask, la, ty⟩ := f
  simp [Instr.wellFormed, ValuF.ok, maskOnce, attr4_false, policyDflt] at hw
  cases ops with
  | regs dr ar br =>
    refine of_reg attr none (M := 15) (m := 6) rfl (by simp) (by decide) (by decide) (r81_bounds dr) (r81_bounds ar) (r81_bounds br) (r9_bounds mask) (r27_bounds la) (ty_b13 ty) fun w hm hu => ?_
    rw [decWord, hm]; change decVsfu _ w = _; unfold decVsfu; rw [hu]
    cases attr <;> simp_all [fieldOf, need, policyDflt, zeroF, inRange, attr4_false, tyF, laF, pfxF, codeF, noAttr, noSweep, maskF, valuChk, vops3, vops2] <;> (first | tauto | omega | exact ⟨by tauto, by omega⟩)
  | swept sw dr ar br =>
    refine of_reg attr (some sw) (M := 15) (m := 6) rfl (by simp_all) (by decide) (by decide) (r27_b40 dr) (r27_b40 ar) (r27_b40 br) (r9_bounds mask) (r27_bounds la) (ty_b13 ty) fun w hm hu => ?_
    rw [decWord, hm]; change decVsfu _ w = _; unfold decVsfu; rw [hu]
    cases attr <;> simp_all [fieldOf, need, policyDflt, zeroF, inRange, attr4_false, tyF, laF, pfxF, codeF, noAttr, noSweep, maskF, valuChk, vops3, vops2] <;> (first | tauto | omega | exact ⟨by tauto, by omega⟩)

theorem vsin (f : ValuF) : Statement (.vsin f) := by
  intro hw _
  obtain ⟨attr, ops, mask, la, ty⟩ := f
  simp [Instr.wellFormed, ValuF.ok, maskOnce, attr4_false, policyDflt] at hw
  cases ops with
  | regs dr ar br =>
    refine of_reg attr none (M := 15) (m := 7) rfl (by simp) (by decide) (by decide) (r81_bounds dr) (r81_bounds ar) (r81_bounds br) (r9_bounds mask) (r27_bounds la) (ty_b13 ty) fun w hm hu => ?_
    rw [decWord, hm]; change decVsfu _ w = _; unfold decVsfu; rw [hu]
    cases attr <;> simp_all [fieldOf, need, policyDflt, zeroF, inRange, attr4_false, tyF, laF, pfxF, codeF, noAttr, noSweep, maskF, valuChk, vops3, vops2] <;> (first | tauto | omega | exact ⟨by tauto, by omega⟩)
  | swept sw dr ar br =>
    refine of_reg attr (some sw) (M := 15) (m := 7) rfl (by simp_all) (by decide) (by decide) (r27_b40 dr) (r27_b40 ar) (r27_b40 br) (r9_bounds mask) (r27_bounds la) (ty_b13 ty) fun w hm hu => ?_
    rw [decWord, hm]; change decVsfu _ w = _; unfold decVsfu; rw [hu]
    cases attr <;> simp_all [fieldOf, need, policyDflt, zeroF, inRange, attr4_false, tyF, laF, pfxF, codeF, noAttr, noSweep, maskF, valuChk, vops3, vops2] <;> (first | tauto | omega | exact ⟨by tauto, by omega⟩)

theorem vcos (f : ValuF) : Statement (.vcos f) := by
  intro hw _
  obtain ⟨attr, ops, mask, la, ty⟩ := f
  simp [Instr.wellFormed, ValuF.ok, maskOnce, attr4_false, policyDflt] at hw
  cases ops with
  | regs dr ar br =>
    refine of_reg attr none (M := 15) (m := 8) rfl (by simp) (by decide) (by decide) (r81_bounds dr) (r81_bounds ar) (r81_bounds br) (r9_bounds mask) (r27_bounds la) (ty_b13 ty) fun w hm hu => ?_
    rw [decWord, hm]; change decVsfu _ w = _; unfold decVsfu; rw [hu]
    cases attr <;> simp_all [fieldOf, need, policyDflt, zeroF, inRange, attr4_false, tyF, laF, pfxF, codeF, noAttr, noSweep, maskF, valuChk, vops3, vops2] <;> (first | tauto | omega | exact ⟨by tauto, by omega⟩)
  | swept sw dr ar br =>
    refine of_reg attr (some sw) (M := 15) (m := 8) rfl (by simp_all) (by decide) (by decide) (r27_b40 dr) (r27_b40 ar) (r27_b40 br) (r9_bounds mask) (r27_bounds la) (ty_b13 ty) fun w hm hu => ?_
    rw [decWord, hm]; change decVsfu _ w = _; unfold decVsfu; rw [hu]
    cases attr <;> simp_all [fieldOf, need, policyDflt, zeroF, inRange, attr4_false, tyF, laF, pfxF, codeF, noAttr, noSweep, maskF, valuChk, vops3, vops2] <;> (first | tauto | omega | exact ⟨by tauto, by omega⟩)

theorem vtanh (f : ValuF) : Statement (.vtanh f) := by
  intro hw _
  obtain ⟨attr, ops, mask, la, ty⟩ := f
  simp [Instr.wellFormed, ValuF.ok, maskOnce, attr4_false, policyDflt] at hw
  cases ops with
  | regs dr ar br =>
    refine of_reg attr none (M := 15) (m := 9) rfl (by simp) (by decide) (by decide) (r81_bounds dr) (r81_bounds ar) (r81_bounds br) (r9_bounds mask) (r27_bounds la) (ty_b13 ty) fun w hm hu => ?_
    rw [decWord, hm]; change decVsfu _ w = _; unfold decVsfu; rw [hu]
    cases attr <;> simp_all [fieldOf, need, policyDflt, zeroF, inRange, attr4_false, tyF, laF, pfxF, codeF, noAttr, noSweep, maskF, valuChk, vops3, vops2] <;> (first | tauto | omega | exact ⟨by tauto, by omega⟩)
  | swept sw dr ar br =>
    refine of_reg attr (some sw) (M := 15) (m := 9) rfl (by simp_all) (by decide) (by decide) (r27_b40 dr) (r27_b40 ar) (r27_b40 br) (r9_bounds mask) (r27_bounds la) (ty_b13 ty) fun w hm hu => ?_
    rw [decWord, hm]; change decVsfu _ w = _; unfold decVsfu; rw [hu]
    cases attr <;> simp_all [fieldOf, need, policyDflt, zeroF, inRange, attr4_false, tyF, laF, pfxF, codeF, noAttr, noSweep, maskF, valuChk, vops3, vops2] <;> (first | tauto | omega | exact ⟨by tauto, by omega⟩)

theorem cvt (f : CvtF) : Statement (.cvt f) := by
  intro hw _
  simp [Instr.wellFormed, SaluF.ok, SimmF.ok, SmemF.ok, VmemF.ok, VgthF.ok, MxqF.ok, ZpkF.ok, CvtF.ok, VpermF.ok, VunpkF.ok, VredF.ok, VpermSF.ok, VcomprF.ok, VidxF.ok, VinsF.ok, VcmpF.ok, VcmpiF.ok, BmemF.ok, maskOnce, policyDflt, attr4_false, dispOk, offOk, disp8Ok, immOk, inRange] at hw
  refine of_reg f.attr none (M := 16) (m := 0) rfl (by simp) (by decide) (by decide) (r81_bounds f.d) (r81_bounds f.a) (ty_b40 f.dst) (r9_bounds f.mask) (by decide) (ty_b13 f.src) fun w hm hu => ?_
  rw [decWord, hm]; change decVperm _ w = _; unfold decVperm; rw [hu]
  rcases f with ⟨_ | _, _⟩ <;> simp_all [fieldOf, need, policyDflt, zeroF, inRange, attr4_false, tyF, laF, pfxF, codeF, noAttr, noSweep, maskF, valuChk, vops3, vops2] <;> (first | tauto | omega | exact ⟨by tauto, by omega⟩)

theorem vpack (f : VpermF) : Statement (.vpack f) := by
  intro hw _
  simp [Instr.wellFormed, SaluF.ok, SimmF.ok, SmemF.ok, VmemF.ok, VgthF.ok, MxqF.ok, ZpkF.ok, CvtF.ok, VpermF.ok, VunpkF.ok, VredF.ok, VpermSF.ok, VcomprF.ok, VidxF.ok, VinsF.ok, VcmpF.ok, VcmpiF.ok, BmemF.ok, maskOnce, policyDflt, attr4_false, dispOk, offOk, disp8Ok, immOk, inRange] at hw
  refine of_reg f.attr none (M := 16) (m := 1) rfl (by simp) (by decide) (by decide) (r81_bounds f.d) (r81_bounds f.a) (r81_bounds f.b) (r9_bounds f.mask) (r27_bounds f.la) (ty_b13 f.ty) fun w hm hu => ?_
  rw [decWord, hm]; change decVperm _ w = _; unfold decVperm; rw [hu]
  rcases f with ⟨_ | _, _⟩ <;> simp_all [fieldOf, need, policyDflt, zeroF, inRange, attr4_false, tyF, laF, pfxF, codeF, noAttr, noSweep, maskF, valuChk, vops3, vops2] <;> (first | tauto | omega | exact ⟨by tauto, by omega⟩)

theorem vunpk (f : VunpkF) : Statement (.vunpk f) := by
  intro hw _
  simp [Instr.wellFormed, SaluF.ok, SimmF.ok, SmemF.ok, VmemF.ok, VgthF.ok, MxqF.ok, ZpkF.ok, CvtF.ok, VpermF.ok, VunpkF.ok, VredF.ok, VpermSF.ok, VcomprF.ok, VidxF.ok, VinsF.ok, VcmpF.ok, VcmpiF.ok, BmemF.ok, maskOnce, policyDflt, attr4_false, dispOk, offOk, disp8Ok, immOk, inRange] at hw
  refine of_reg f.attr none (M := 16) (m := (-1)) rfl (by simp) (by decide) (by decide) (r81_bounds f.d) (r81_bounds f.a) (val3_b40 f.k) (r9_bounds f.mask) (by decide) (ty_b13 f.ty) fun w hm hu => ?_
  have hk := f.k.isLt
  rw [decWord, hm]; change decVperm _ w = _; unfold decVperm; rw [hu]
  rcases f with ⟨_ | _, _⟩ <;> simp_all [fieldOf, need, policyDflt, zeroF, inRange, attr4_false, tyF, laF, pfxF, codeF, noAttr, noSweep, maskF, valuChk, vops3, vops2] <;> (first | tauto | omega | exact ⟨by tauto, by omega⟩)

theorem vshfl (f : VpermF) : Statement (.vshfl f) := by
  intro hw _
  simp [Instr.wellFormed, SaluF.ok, SimmF.ok, SmemF.ok, VmemF.ok, VgthF.ok, MxqF.ok, ZpkF.ok, CvtF.ok, VpermF.ok, VunpkF.ok, VredF.ok, VpermSF.ok, VcomprF.ok, VidxF.ok, VinsF.ok, VcmpF.ok, VcmpiF.ok, BmemF.ok, maskOnce, policyDflt, attr4_false, dispOk, offOk, disp8Ok, immOk, inRange] at hw
  refine of_reg f.attr none (M := 16) (m := 2) rfl (by simp) (by decide) (by decide) (r81_bounds f.d) (r81_bounds f.a) (r81_bounds f.b) (r9_bounds f.mask) (r27_bounds f.la) (ty_b13 f.ty) fun w hm hu => ?_
  rw [decWord, hm]; change decVperm _ w = _; unfold decVperm; rw [hu]
  rcases f with ⟨_ | _, _⟩ <;> simp_all [fieldOf, need, policyDflt, zeroF, inRange, attr4_false, tyF, laF, pfxF, codeF, noAttr, noSweep, maskF, valuChk, vops3, vops2] <;> (first | tauto | omega | exact ⟨by tauto, by omega⟩)

theorem vrotl (f : VpermSF) : Statement (.vrotl f) := by
  intro hw _
  simp [Instr.wellFormed, SaluF.ok, SimmF.ok, SmemF.ok, VmemF.ok, VgthF.ok, MxqF.ok, ZpkF.ok, CvtF.ok, VpermF.ok, VunpkF.ok, VredF.ok, VpermSF.ok, VcomprF.ok, VidxF.ok, VinsF.ok, VcmpF.ok, VcmpiF.ok, BmemF.ok, maskOnce, policyDflt, attr4_false, dispOk, offOk, disp8Ok, immOk, inRange] at hw
  refine of_reg f.attr none (M := 16) (m := 3) rfl (by simp) (by decide) (by decide) (r81_bounds f.d) (r81_bounds f.a) (r27_b40 f.sb) (r9_bounds f.mask) (by decide) (ty_b13 f.ty) fun w hm hu => ?_
  rw [decWord, hm]; change decVperm _ w = _; unfold decVperm; rw [hu]
  rcases f with ⟨_ | _, _⟩ <;> simp_all [fieldOf, need, policyDflt, zeroF, inRange, attr4_false, tyF, laF, pfxF, codeF, noAttr, noSweep, maskF, valuChk, vops3, vops2] <;> (first | tauto | omega | exact ⟨by tauto, by omega⟩)

theorem vbcast (f : VpermSF) : Statement (.vbcast f) := by
  intro hw _
  simp [Instr.wellFormed, SaluF.ok, SimmF.ok, SmemF.ok, VmemF.ok, VgthF.ok, MxqF.ok, ZpkF.ok, CvtF.ok, VpermF.ok, VunpkF.ok, VredF.ok, VpermSF.ok, VcomprF.ok, VidxF.ok, VinsF.ok, VcmpF.ok, VcmpiF.ok, BmemF.ok, maskOnce, policyDflt, attr4_false, dispOk, offOk, disp8Ok, immOk, inRange] at hw
  refine of_reg f.attr none (M := 16) (m := 4) rfl (by simp) (by decide) (by decide) (r81_bounds f.d) (r81_bounds f.a) (r27_b40 f.sb) (r9_bounds f.mask) (by decide) (ty_b13 f.ty) fun w hm hu => ?_
  rw [decWord, hm]; change decVperm _ w = _; unfold decVperm; rw [hu]
  rcases f with ⟨_ | _, _⟩ <;> simp_all [fieldOf, need, policyDflt, zeroF, inRange, attr4_false, tyF, laF, pfxF, codeF, noAttr, noSweep, maskF, valuChk, vops3, vops2] <;> (first | tauto | omega | exact ⟨by tauto, by omega⟩)

theorem vred (f : VredF) : Statement (.vred f) := by
  intro hw _
  simp [Instr.wellFormed, SaluF.ok, SimmF.ok, SmemF.ok, VmemF.ok, VgthF.ok, MxqF.ok, ZpkF.ok, CvtF.ok, VpermF.ok, VunpkF.ok, VredF.ok, VpermSF.ok, VcomprF.ok, VidxF.ok, VinsF.ok, VcmpF.ok, VcmpiF.ok, BmemF.ok, maskOnce, policyDflt, attr4_false, dispOk, offOk, disp8Ok, immOk, inRange] at hw
  refine of_reg f.attr none (M := 16) (m := 5) rfl (by simp) (by decide) (by decide) (r81_bounds f.d) (r81_bounds f.a) (redOp_b40 f.op) (r9_bounds f.mask) (r27_bounds f.la) (ty_b13 f.ty) fun w hm hu => ?_
  rw [decWord, hm]; change decVperm _ w = _; unfold decVperm; rw [hu]
  rcases f with ⟨_ | _, _⟩ <;> simp_all [fieldOf, need, policyDflt, zeroF, inRange, attr4_false, tyF, laF, pfxF, codeF, noAttr, noSweep, maskF, valuChk, vops3, vops2] <;> (first | tauto | omega | exact ⟨by tauto, by omega⟩)

theorem vscan (f : VredF) : Statement (.vscan f) := by
  intro hw _
  simp [Instr.wellFormed, SaluF.ok, SimmF.ok, SmemF.ok, VmemF.ok, VgthF.ok, MxqF.ok, ZpkF.ok, CvtF.ok, VpermF.ok, VunpkF.ok, VredF.ok, VpermSF.ok, VcomprF.ok, VidxF.ok, VinsF.ok, VcmpF.ok, VcmpiF.ok, BmemF.ok, maskOnce, policyDflt, attr4_false, dispOk, offOk, disp8Ok, immOk, inRange] at hw
  refine of_reg f.attr none (M := 16) (m := 6) rfl (by simp) (by decide) (by decide) (r81_bounds f.d) (r81_bounds f.a) (redOp_b40 f.op) (r9_bounds f.mask) (r27_bounds f.la) (ty_b13 f.ty) fun w hm hu => ?_
  rw [decWord, hm]; change decVperm _ w = _; unfold decVperm; rw [hu]
  rcases f with ⟨_ | _, _⟩ <;> simp_all [fieldOf, need, policyDflt, zeroF, inRange, attr4_false, tyF, laF, pfxF, codeF, noAttr, noSweep, maskF, valuChk, vops3, vops2] <;> (first | tauto | omega | exact ⟨by tauto, by omega⟩)

theorem vcompr (f : VcomprF) : Statement (.vcompr f) := by
  intro hw _
  simp [Instr.wellFormed, SaluF.ok, SimmF.ok, SmemF.ok, VmemF.ok, VgthF.ok, MxqF.ok, ZpkF.ok, CvtF.ok, VpermF.ok, VunpkF.ok, VredF.ok, VpermSF.ok, VcomprF.ok, VidxF.ok, VinsF.ok, VcmpF.ok, VcmpiF.ok, BmemF.ok, maskOnce, policyDflt, attr4_false, dispOk, offOk, disp8Ok, immOk, inRange] at hw
  refine of_reg f.attr none (M := 16) (m := 7) rfl (by simp) (by decide) (by decide) (r81_bounds f.d) (r81_bounds f.a) (by decide) (r9_bounds f.mask) (r27_bounds f.la) (by decide) fun w hm hu => ?_
  rw [decWord, hm]; change decVperm _ w = _; unfold decVperm; rw [hu]
  rcases f with ⟨_ | _, _⟩ <;> simp_all [fieldOf, need, policyDflt, zeroF, inRange, attr4_false, tyF, laF, pfxF, codeF, noAttr, noSweep, maskF, valuChk, vops3, vops2] <;> (first | tauto | omega | exact ⟨by tauto, by omega⟩)

theorem vexpd (f : VcomprF) : Statement (.vexpd f) := by
  intro hw _
  simp [Instr.wellFormed, SaluF.ok, SimmF.ok, SmemF.ok, VmemF.ok, VgthF.ok, MxqF.ok, ZpkF.ok, CvtF.ok, VpermF.ok, VunpkF.ok, VredF.ok, VpermSF.ok, VcomprF.ok, VidxF.ok, VinsF.ok, VcmpF.ok, VcmpiF.ok, BmemF.ok, maskOnce, policyDflt, attr4_false, dispOk, offOk, disp8Ok, immOk, inRange] at hw
  refine of_reg f.attr none (M := 16) (m := 8) rfl (by simp) (by decide) (by decide) (r81_bounds f.d) (r81_bounds f.a) (by decide) (r9_bounds f.mask) (r27_bounds f.la) (by decide) fun w hm hu => ?_
  rw [decWord, hm]; change decVperm _ w = _; unfold decVperm; rw [hu]
  rcases f with ⟨_ | _, _⟩ <;> simp_all [fieldOf, need, policyDflt, zeroF, inRange, attr4_false, tyF, laF, pfxF, codeF, noAttr, noSweep, maskF, valuChk, vops3, vops2] <;> (first | tauto | omega | exact ⟨by tauto, by omega⟩)

theorem vidx (f : VidxF) : Statement (.vidx f) := by
  intro hw _
  simp [Instr.wellFormed, SaluF.ok, SimmF.ok, SmemF.ok, VmemF.ok, VgthF.ok, MxqF.ok, ZpkF.ok, CvtF.ok, VpermF.ok, VunpkF.ok, VredF.ok, VpermSF.ok, VcomprF.ok, VidxF.ok, VinsF.ok, VcmpF.ok, VcmpiF.ok, BmemF.ok, maskOnce, policyDflt, attr4_false, dispOk, offOk, disp8Ok, immOk, inRange] at hw
  refine of_reg f.attr none (M := 16) (m := 9) rfl (by simp) (by decide) (by decide) (r81_bounds f.d) (by decide) (by decide) (r9_bounds f.mask) (by decide) (ty_b13 f.ty) fun w hm hu => ?_
  rw [decWord, hm]; change decVperm _ w = _; unfold decVperm; rw [hu]
  rcases f with ⟨_ | _, _⟩ <;> simp_all [fieldOf, need, policyDflt, zeroF, inRange, attr4_false, tyF, laF, pfxF, codeF, noAttr, noSweep, maskF, valuChk, vops3, vops2] <;> (first | tauto | omega | exact ⟨by tauto, by omega⟩)

theorem vins (f : VinsF) : Statement (.vins f) := by
  intro hw _
  simp [Instr.wellFormed, SaluF.ok, SimmF.ok, SmemF.ok, VmemF.ok, VgthF.ok, MxqF.ok, ZpkF.ok, CvtF.ok, VpermF.ok, VunpkF.ok, VredF.ok, VpermSF.ok, VcomprF.ok, VidxF.ok, VinsF.ok, VcmpF.ok, VcmpiF.ok, BmemF.ok, maskOnce, policyDflt, attr4_false, dispOk, offOk, disp8Ok, immOk, inRange] at hw
  refine of_reg f.attr none (M := 16) (m := (-2)) rfl (by simp) (by decide) (by decide) (r81_bounds f.d) (r27_b40 f.sa) (by decide) (r9_bounds f.mask) (by decide) (by decide) fun w hm hu => ?_
  rw [decWord, hm]; change decVperm _ w = _; unfold decVperm; rw [hu]
  rcases f with ⟨_ | _, _⟩ <;> simp_all [fieldOf, need, policyDflt, zeroF, inRange, attr4_false, tyF, laF, pfxF, codeF, noAttr, noSweep, maskF, valuChk, vops3, vops2] <;> (first | tauto | omega | exact ⟨by tauto, by omega⟩)

theorem vext (f : VextF) : Statement (.vext f) := by
  intro hw _
  simp [Instr.wellFormed, SaluF.ok, SimmF.ok, SmemF.ok, VmemF.ok, VgthF.ok, MxqF.ok, ZpkF.ok, CvtF.ok, VpermF.ok, VunpkF.ok, VredF.ok, VpermSF.ok, VcomprF.ok, VidxF.ok, VinsF.ok, VcmpF.ok, VcmpiF.ok, BmemF.ok, maskOnce, policyDflt, attr4_false, dispOk, offOk, disp8Ok, immOk, inRange] at hw
  refine of_reg f.attr none (M := 16) (m := (-3)) rfl (by simp) (by decide) (by decide) (r27_b40 f.d) (r81_bounds f.a) (r27_b40 f.sb) (by decide) (by decide) (by decide) fun w hm hu => ?_
  rw [decWord, hm]; change decVperm _ w = _; unfold decVperm; rw [hu]
  rcases f with ⟨_ | _, _⟩ <;> simp_all [fieldOf, need, policyDflt, zeroF, inRange, attr4_false, tyF, laF, pfxF, codeF, noAttr, noSweep, maskF, valuChk, vops3, vops2] <;> (first | tauto | omega | exact ⟨by tauto, by omega⟩)

theorem mmin (d a b : MReg) : Statement (.mmin d a b) := by
  intro hw _
  simp [Instr.wellFormed, SaluF.ok, SimmF.ok, SmemF.ok, VmemF.ok, VgthF.ok, MxqF.ok, ZpkF.ok, CvtF.ok, VpermF.ok, VunpkF.ok, VredF.ok, VpermSF.ok, VcomprF.ok, VidxF.ok, VinsF.ok, VcmpF.ok, VcmpiF.ok, BmemF.ok, maskOnce, policyDflt, attr4_false, dispOk, offOk, disp8Ok, immOk, inRange] at hw
  refine of_reg none none (M := 17) (m := 0) rfl (by simp) (by decide) (by decide) (r9_b40 d) (r9_b40 a) (r9_b40 b) (by decide) (by decide) (by decide) fun w hm hu => ?_
  rw [decWord, hm]; change decVmask _ w = _; unfold decVmask; rw [hu]
  simp_all [fieldOf, need, policyDflt, zeroF, inRange, attr4_false, tyF, laF, pfxF, codeF, noAttr, noSweep, maskF, valuChk, vops3, vops2] <;> (first | tauto | omega | exact ⟨by tauto, by omega⟩)

theorem mmax (d a b : MReg) : Statement (.mmax d a b) := by
  intro hw _
  simp [Instr.wellFormed, SaluF.ok, SimmF.ok, SmemF.ok, VmemF.ok, VgthF.ok, MxqF.ok, ZpkF.ok, CvtF.ok, VpermF.ok, VunpkF.ok, VredF.ok, VpermSF.ok, VcomprF.ok, VidxF.ok, VinsF.ok, VcmpF.ok, VcmpiF.ok, BmemF.ok, maskOnce, policyDflt, attr4_false, dispOk, offOk, disp8Ok, immOk, inRange] at hw
  refine of_reg none none (M := 17) (m := 1) rfl (by simp) (by decide) (by decide) (r9_b40 d) (r9_b40 a) (r9_b40 b) (by decide) (by decide) (by decide) fun w hm hu => ?_
  rw [decWord, hm]; change decVmask _ w = _; unfold decVmask; rw [hu]
  simp_all [fieldOf, need, policyDflt, zeroF, inRange, attr4_false, tyF, laF, pfxF, codeF, noAttr, noSweep, maskF, valuChk, vops3, vops2] <;> (first | tauto | omega | exact ⟨by tauto, by omega⟩)

theorem minv (d a : MReg) : Statement (.minv d a) := by
  intro hw _
  simp [Instr.wellFormed, SaluF.ok, SimmF.ok, SmemF.ok, VmemF.ok, VgthF.ok, MxqF.ok, ZpkF.ok, CvtF.ok, VpermF.ok, VunpkF.ok, VredF.ok, VpermSF.ok, VcomprF.ok, VidxF.ok, VinsF.ok, VcmpF.ok, VcmpiF.ok, BmemF.ok, maskOnce, policyDflt, attr4_false, dispOk, offOk, disp8Ok, immOk, inRange] at hw
  refine of_reg none none (M := 17) (m := (-1)) rfl (by simp) (by decide) (by decide) (r9_b40 d) (r9_b40 a) (by decide) (by decide) (by decide) (by decide) fun w hm hu => ?_
  rw [decWord, hm]; change decVmask _ w = _; unfold decVmask; rw [hu]
  simp_all [fieldOf, need, policyDflt, zeroF, inRange, attr4_false, tyF, laF, pfxF, codeF, noAttr, noSweep, maskF, valuChk, vops3, vops2] <;> (first | tauto | omega | exact ⟨by tauto, by omega⟩)

theorem mcon (d a b : MReg) : Statement (.mcon d a b) := by
  intro hw _
  simp [Instr.wellFormed, SaluF.ok, SimmF.ok, SmemF.ok, VmemF.ok, VgthF.ok, MxqF.ok, ZpkF.ok, CvtF.ok, VpermF.ok, VunpkF.ok, VredF.ok, VpermSF.ok, VcomprF.ok, VidxF.ok, VinsF.ok, VcmpF.ok, VcmpiF.ok, BmemF.ok, maskOnce, policyDflt, attr4_false, dispOk, offOk, disp8Ok, immOk, inRange] at hw
  refine of_reg none none (M := 17) (m := 2) rfl (by simp) (by decide) (by decide) (r9_b40 d) (r9_b40 a) (r9_b40 b) (by decide) (by decide) (by decide) fun w hm hu => ?_
  rw [decWord, hm]; change decVmask _ w = _; unfold decVmask; rw [hu]
  simp_all [fieldOf, need, policyDflt, zeroF, inRange, attr4_false, tyF, laF, pfxF, codeF, noAttr, noSweep, maskF, valuChk, vops3, vops2] <;> (first | tauto | omega | exact ⟨by tauto, by omega⟩)

theorem mset (d : MReg) (a : SReg) : Statement (.mset d a) := by
  intro hw _
  simp [Instr.wellFormed, SaluF.ok, SimmF.ok, SmemF.ok, VmemF.ok, VgthF.ok, MxqF.ok, ZpkF.ok, CvtF.ok, VpermF.ok, VunpkF.ok, VredF.ok, VpermSF.ok, VcomprF.ok, VidxF.ok, VinsF.ok, VcmpF.ok, VcmpiF.ok, BmemF.ok, maskOnce, policyDflt, attr4_false, dispOk, offOk, disp8Ok, immOk, inRange] at hw
  refine of_reg none none (M := 17) (m := 3) rfl (by simp) (by decide) (by decide) (r9_b40 d) (r27_b40 a) (by decide) (by decide) (by decide) (by decide) fun w hm hu => ?_
  rw [decWord, hm]; change decVmask _ w = _; unfold decVmask; rw [hu]
  simp_all [fieldOf, need, policyDflt, zeroF, inRange, attr4_false, tyF, laF, pfxF, codeF, noAttr, noSweep, maskF, valuChk, vops3, vops2] <;> (first | tauto | omega | exact ⟨by tauto, by omega⟩)

theorem mget (d : SReg) (a : MReg) : Statement (.mget d a) := by
  intro hw _
  simp [Instr.wellFormed, SaluF.ok, SimmF.ok, SmemF.ok, VmemF.ok, VgthF.ok, MxqF.ok, ZpkF.ok, CvtF.ok, VpermF.ok, VunpkF.ok, VredF.ok, VpermSF.ok, VcomprF.ok, VidxF.ok, VinsF.ok, VcmpF.ok, VcmpiF.ok, BmemF.ok, maskOnce, policyDflt, attr4_false, dispOk, offOk, disp8Ok, immOk, inRange] at hw
  refine of_reg none none (M := 17) (m := (-3)) rfl (by simp) (by decide) (by decide) (r27_b40 d) (r9_b40 a) (by decide) (by decide) (by decide) (by decide) fun w hm hu => ?_
  rw [decWord, hm]; change decVmask _ w = _; unfold decVmask; rw [hu]
  simp_all [fieldOf, need, policyDflt, zeroF, inRange, attr4_false, tyF, laF, pfxF, codeF, noAttr, noSweep, maskF, valuChk, vops3, vops2] <;> (first | tauto | omega | exact ⟨by tauto, by omega⟩)

theorem mcnt (d : SReg) (a : MReg) (c : Trit) : Statement (.mcnt d a c) := by
  intro hw _
  simp [Instr.wellFormed, SaluF.ok, SimmF.ok, SmemF.ok, VmemF.ok, VgthF.ok, MxqF.ok, ZpkF.ok, CvtF.ok, VpermF.ok, VunpkF.ok, VredF.ok, VpermSF.ok, VcomprF.ok, VidxF.ok, VinsF.ok, VcmpF.ok, VcmpiF.ok, BmemF.ok, maskOnce, policyDflt, attr4_false, dispOk, offOk, disp8Ok, immOk, inRange] at hw
  refine of_reg none none (M := 17) (m := 4) rfl (by simp) (by decide) (by decide) (r27_b40 d) (r9_b40 a) (by omega) (by decide) (by decide) (by decide) fun w hm hu => ?_
  rw [decWord, hm]; change decVmask _ w = _; unfold decVmask; rw [hu]
  simp_all [fieldOf, need, policyDflt, zeroF, inRange, attr4_false, tyF, laF, pfxF, codeF, noAttr, noSweep, maskF, valuChk, vops3, vops2] <;> (first | tauto | omega | exact ⟨by tauto, by omega⟩)

theorem vaddi (f : VimmF) : Statement (.vaddi f) := by
  intro hw _
  obtain ⟨attr, ops, imm⟩ := f
  simp [Instr.wellFormed, VimmF.ok, immOk, inRange] at hw
  cases ops with
  | regs dr ar =>
    refine of_imm (n := imm) attr none (M := 18) (m := 0) rfl (by simp) (by decide) (by decide) (r81_bounds dr) (r81_bounds ar) (by omega) fun w hm hu => ?_
    rw [decWord, hm]; change decVimm _ w = _; unfold decVimm; rw [hu]
    simp_all [fieldOf, need, policyDflt, zeroF, inRange, attr4_false, tyF, laF, pfxF, codeF, noAttr, noSweep, maskF, valuChk, vops3, vops2]
  | swept sw dr ar =>
    refine of_imm (n := imm) attr (some sw) (M := 18) (m := 0) rfl (by simp_all) (by decide) (by decide) (r27_b40 dr) (r27_b40 ar) (by omega) fun w hm hu => ?_
    rw [decWord, hm]; change decVimm _ w = _; unfold decVimm; rw [hu]
    simp_all [fieldOf, need, policyDflt, zeroF, inRange, attr4_false, tyF, laF, pfxF, codeF, noAttr, noSweep, maskF, valuChk, vops3, vops2]

theorem vmuli (f : VimmF) : Statement (.vmuli f) := by
  intro hw _
  obtain ⟨attr, ops, imm⟩ := f
  simp [Instr.wellFormed, VimmF.ok, immOk, inRange] at hw
  cases ops with
  | regs dr ar =>
    refine of_imm (n := imm) attr none (M := 18) (m := 1) rfl (by simp) (by decide) (by decide) (r81_bounds dr) (r81_bounds ar) (by omega) fun w hm hu => ?_
    rw [decWord, hm]; change decVimm _ w = _; unfold decVimm; rw [hu]
    simp_all [fieldOf, need, policyDflt, zeroF, inRange, attr4_false, tyF, laF, pfxF, codeF, noAttr, noSweep, maskF, valuChk, vops3, vops2]
  | swept sw dr ar =>
    refine of_imm (n := imm) attr (some sw) (M := 18) (m := 1) rfl (by simp_all) (by decide) (by decide) (r27_b40 dr) (r27_b40 ar) (by omega) fun w hm hu => ?_
    rw [decWord, hm]; change decVimm _ w = _; unfold decVimm; rw [hu]
    simp_all [fieldOf, need, policyDflt, zeroF, inRange, attr4_false, tyF, laF, pfxF, codeF, noAttr, noSweep, maskF, valuChk, vops3, vops2]

theorem vcmpi (f : VcmpiF) : Statement (.vcmpi f) := by
  intro hw _
  simp [Instr.wellFormed, SaluF.ok, SimmF.ok, SmemF.ok, VmemF.ok, VgthF.ok, MxqF.ok, ZpkF.ok, CvtF.ok, VpermF.ok, VunpkF.ok, VredF.ok, VpermSF.ok, VcomprF.ok, VidxF.ok, VinsF.ok, VcmpF.ok, VcmpiF.ok, BmemF.ok, maskOnce, policyDflt, attr4_false, dispOk, offOk, disp8Ok, immOk, inRange] at hw
  refine of_imm f.attr none (M := 18) (m := 2) rfl (by simp) (by decide) (by decide) (r9_b40 f.d) (r81_bounds f.a) (by omega) fun w hm hu => ?_
  rw [decWord, hm]; change decVimm _ w = _; unfold decVimm; rw [hu]
  rcases f with ⟨_ | _, _⟩ <;> simp_all [fieldOf, need, policyDflt, zeroF, inRange, attr4_false, tyF, laF, pfxF, codeF, noAttr, noSweep, maskF, valuChk, vops3, vops2] <;> (first | tauto | omega | exact ⟨by tauto, by omega⟩)

theorem vshli (f : VimmF) : Statement (.vshli f) := by
  intro hw _
  obtain ⟨attr, ops, imm⟩ := f
  simp [Instr.wellFormed, VimmF.ok, immOk, inRange] at hw
  cases ops with
  | regs dr ar =>
    refine of_imm (n := imm) attr none (M := 18) (m := 3) rfl (by simp) (by decide) (by decide) (r81_bounds dr) (r81_bounds ar) (by omega) fun w hm hu => ?_
    rw [decWord, hm]; change decVimm _ w = _; unfold decVimm; rw [hu]
    simp_all [fieldOf, need, policyDflt, zeroF, inRange, attr4_false, tyF, laF, pfxF, codeF, noAttr, noSweep, maskF, valuChk, vops3, vops2]
  | swept sw dr ar =>
    refine of_imm (n := imm) attr (some sw) (M := 18) (m := 3) rfl (by simp_all) (by decide) (by decide) (r27_b40 dr) (r27_b40 ar) (by omega) fun w hm hu => ?_
    rw [decWord, hm]; change decVimm _ w = _; unfold decVimm; rw [hu]
    simp_all [fieldOf, need, policyDflt, zeroF, inRange, attr4_false, tyF, laF, pfxF, codeF, noAttr, noSweep, maskF, valuChk, vops3, vops2]

theorem vshri (f : VimmF) : Statement (.vshri f) := by
  intro hw _
  obtain ⟨attr, ops, imm⟩ := f
  simp [Instr.wellFormed, VimmF.ok, immOk, inRange] at hw
  cases ops with
  | regs dr ar =>
    refine of_imm (n := imm) attr none (M := 18) (m := 4) rfl (by simp) (by decide) (by decide) (r81_bounds dr) (r81_bounds ar) (by omega) fun w hm hu => ?_
    rw [decWord, hm]; change decVimm _ w = _; unfold decVimm; rw [hu]
    simp_all [fieldOf, need, policyDflt, zeroF, inRange, attr4_false, tyF, laF, pfxF, codeF, noAttr, noSweep, maskF, valuChk, vops3, vops2]
  | swept sw dr ar =>
    refine of_imm (n := imm) attr (some sw) (M := 18) (m := 4) rfl (by simp_all) (by decide) (by decide) (r27_b40 dr) (r27_b40 ar) (by omega) fun w hm hu => ?_
    rw [decWord, hm]; change decVimm _ w = _; unfold decVimm; rw [hu]
    simp_all [fieldOf, need, policyDflt, zeroF, inRange, attr4_false, tyF, laF, pfxF, codeF, noAttr, noSweep, maskF, valuChk, vops3, vops2]

theorem vldi (f : VimmF) : Statement (.vldi f) := by
  intro hw _
  obtain ⟨attr, ops, imm⟩ := f
  simp [Instr.wellFormed, VimmF.ok, immOk, inRange] at hw
  cases ops with
  | regs dr ar =>
    refine of_imm (n := imm) attr none (M := 18) (m := (-1)) rfl (by simp) (by decide) (by decide) (r81_bounds dr) (r81_bounds ar) (by omega) fun w hm hu => ?_
    rw [decWord, hm]; change decVimm _ w = _; unfold decVimm; rw [hu]
    simp_all [fieldOf, need, policyDflt, zeroF, inRange, attr4_false, tyF, laF, pfxF, codeF, noAttr, noSweep, maskF, valuChk, vops3, vops2]
  | swept sw dr ar =>
    refine of_imm (n := imm) attr (some sw) (M := 18) (m := (-1)) rfl (by simp_all) (by decide) (by decide) (r27_b40 dr) (r27_b40 ar) (by omega) fun w hm hu => ?_
    rw [decWord, hm]; change decVimm _ w = _; unfold decVimm; rw [hu]
    simp_all [fieldOf, need, policyDflt, zeroF, inRange, attr4_false, tyF, laF, pfxF, codeF, noAttr, noSweep, maskF, valuChk, vops3, vops2]

theorem vld (f : VmemF) : Statement (.vld f) := by
  intro hw _
  simp [Instr.wellFormed, SaluF.ok, SimmF.ok, SmemF.ok, VmemF.ok, VgthF.ok, MxqF.ok, ZpkF.ok, CvtF.ok, VpermF.ok, VunpkF.ok, VredF.ok, VpermSF.ok, VcomprF.ok, VidxF.ok, VinsF.ok, VcmpF.ok, VcmpiF.ok, BmemF.ok, maskOnce, policyDflt, attr4_false, dispOk, offOk, disp8Ok, immOk, inRange] at hw
  refine of_mem f.attr none (M := 19) (m := 1) rfl (by simp) (by decide) (by decide) (r81_bounds f.d) (r27_b40 f.base) (by omega) (r27_bounds f.la) fun w hm hu => ?_
  rw [decWord, hm]; change decVmem _ w = _; unfold decVmem; rw [hu]
  rcases f with ⟨_ | _, _⟩ <;> simp_all [fieldOf, need, policyDflt, zeroF, inRange, attr4_false, tyF, laF, pfxF, codeF, noAttr, noSweep, maskF, valuChk, vops3, vops2] <;> (first | tauto | omega | exact ⟨by tauto, by omega⟩)

theorem vst (f : VmemF) : Statement (.vst f) := by
  intro hw _
  simp [Instr.wellFormed, SaluF.ok, SimmF.ok, SmemF.ok, VmemF.ok, VgthF.ok, MxqF.ok, ZpkF.ok, CvtF.ok, VpermF.ok, VunpkF.ok, VredF.ok, VpermSF.ok, VcomprF.ok, VidxF.ok, VinsF.ok, VcmpF.ok, VcmpiF.ok, BmemF.ok, maskOnce, policyDflt, attr4_false, dispOk, offOk, disp8Ok, immOk, inRange] at hw
  refine of_mem f.attr none (M := 19) (m := (-1)) rfl (by simp) (by decide) (by decide) (r81_bounds f.d) (r27_b40 f.base) (by omega) (r27_bounds f.la) fun w hm hu => ?_
  rw [decWord, hm]; change decVmem _ w = _; unfold decVmem; rw [hu]
  rcases f with ⟨_ | _, _⟩ <;> simp_all [fieldOf, need, policyDflt, zeroF, inRange, attr4_false, tyF, laF, pfxF, codeF, noAttr, noSweep, maskF, valuChk, vops3, vops2] <;> (first | tauto | omega | exact ⟨by tauto, by omega⟩)

theorem vgth (f : VgthF) : Statement (.vgth f) := by
  intro hw _
  simp [Instr.wellFormed, SaluF.ok, SimmF.ok, SmemF.ok, VmemF.ok, VgthF.ok, MxqF.ok, ZpkF.ok, CvtF.ok, VpermF.ok, VunpkF.ok, VredF.ok, VpermSF.ok, VcomprF.ok, VidxF.ok, VinsF.ok, VcmpF.ok, VcmpiF.ok, BmemF.ok, maskOnce, policyDflt, attr4_false, dispOk, offOk, disp8Ok, immOk, inRange] at hw
  exact of_gth (m := 2) f.attr rfl (by decide) fun w hm hu hg => by
    rw [decWord, hm]; change decVmem _ w = _; unfold decVmem; rw [hu, hg]; rcases f with ⟨_ | _, _⟩ <;> simp_all [fieldOf, need, policyDflt, zeroF, inRange, attr4_false, tyF, laF, pfxF, codeF, noAttr, noSweep, maskF, valuChk, vops3, vops2]

theorem vsct (f : VgthF) : Statement (.vsct f) := by
  intro hw _
  simp [Instr.wellFormed, SaluF.ok, SimmF.ok, SmemF.ok, VmemF.ok, VgthF.ok, MxqF.ok, ZpkF.ok, CvtF.ok, VpermF.ok, VunpkF.ok, VredF.ok, VpermSF.ok, VcomprF.ok, VidxF.ok, VinsF.ok, VcmpF.ok, VcmpiF.ok, BmemF.ok, maskOnce, policyDflt, attr4_false, dispOk, offOk, disp8Ok, immOk, inRange] at hw
  exact of_gth (m := (-2)) f.attr rfl (by decide) fun w hm hu hg => by
    rw [decWord, hm]; change decVmem _ w = _; unfold decVmem; rw [hu, hg]; rcases f with ⟨_ | _, _⟩ <;> simp_all [fieldOf, need, policyDflt, zeroF, inRange, attr4_false, tyF, laF, pfxF, codeF, noAttr, noSweep, maskF, valuChk, vops3, vops2]

theorem vpf (f : VmemF) : Statement (.vpf f) := by
  intro hw _
  simp [Instr.wellFormed, SaluF.ok, SimmF.ok, SmemF.ok, VmemF.ok, VgthF.ok, MxqF.ok, ZpkF.ok, CvtF.ok, VpermF.ok, VunpkF.ok, VredF.ok, VpermSF.ok, VcomprF.ok, VidxF.ok, VinsF.ok, VcmpF.ok, VcmpiF.ok, BmemF.ok, maskOnce, policyDflt, attr4_false, dispOk, offOk, disp8Ok, immOk, inRange] at hw
  refine of_mem f.attr none (M := 19) (m := 3) rfl (by simp) (by decide) (by decide) (r81_bounds f.d) (r27_b40 f.base) (by omega) (r27_bounds f.la) fun w hm hu => ?_
  rw [decWord, hm]; change decVmem _ w = _; unfold decVmem; rw [hu]
  rcases f with ⟨_ | _, _⟩ <;> simp_all [fieldOf, need, policyDflt, zeroF, inRange, attr4_false, tyF, laF, pfxF, codeF, noAttr, noSweep, maskF, valuChk, vops3, vops2] <;> (first | tauto | omega | exact ⟨by tauto, by omega⟩)

theorem sweepSegment (i : IssueRef) : Statement (.sweepSegment i) := step_only rfl

theorem lookaheadResultLands (team gang : Nat) : Statement (.lookaheadResultLands team gang) := step_only rfl

theorem phinit (x y : SReg) : Statement (.phinit x y) := by
  intro hw _
  simp [Instr.wellFormed, SaluF.ok, SimmF.ok, SmemF.ok, VmemF.ok, VgthF.ok, MxqF.ok, ZpkF.ok, CvtF.ok, VpermF.ok, VunpkF.ok, VredF.ok, VpermSF.ok, VcomprF.ok, VidxF.ok, VinsF.ok, VcmpF.ok, VcmpiF.ok, BmemF.ok, maskOnce, policyDflt, attr4_false, dispOk, offOk, disp8Ok, immOk, inRange] at hw
  refine of_reg none none (M := -14) (m := 1) rfl (by simp) (by decide) (by decide) (r27_b40 x) (r27_b40 y) (by decide) (by decide) (by decide) (by decide) fun w hm hu => ?_
  rw [decWord, hm]; change decSync _ w = _; unfold decSync; rw [hu]
  simp_all [fieldOf, need, policyDflt, zeroF, inRange, attr4_false, tyF, laF, pfxF, codeF, noAttr, noSweep, maskF, valuChk, vops3, vops2] <;> (first | tauto | omega | exact ⟨by tauto, by omega⟩)

theorem pharr (x y z : SReg) : Statement (.pharr x y z) := by
  intro hw _
  simp [Instr.wellFormed, SaluF.ok, SimmF.ok, SmemF.ok, VmemF.ok, VgthF.ok, MxqF.ok, ZpkF.ok, CvtF.ok, VpermF.ok, VunpkF.ok, VredF.ok, VpermSF.ok, VcomprF.ok, VidxF.ok, VinsF.ok, VcmpF.ok, VcmpiF.ok, BmemF.ok, maskOnce, policyDflt, attr4_false, dispOk, offOk, disp8Ok, immOk, inRange] at hw
  refine of_reg none none (M := -14) (m := 2) rfl (by simp) (by decide) (by decide) (r27_b40 x) (r27_b40 y) (r27_b40 z) (by decide) (by decide) (by decide) fun w hm hu => ?_
  rw [decWord, hm]; change decSync _ w = _; unfold decSync; rw [hu]
  simp_all [fieldOf, need, policyDflt, zeroF, inRange, attr4_false, tyF, laF, pfxF, codeF, noAttr, noSweep, maskF, valuChk, vops3, vops2] <;> (first | tauto | omega | exact ⟨by tauto, by omega⟩)

theorem pharrW (x y z : SReg) : Statement (.pharrW x y z) := by
  intro hw _
  simp [Instr.wellFormed, SaluF.ok, SimmF.ok, SmemF.ok, VmemF.ok, VgthF.ok, MxqF.ok, ZpkF.ok, CvtF.ok, VpermF.ok, VunpkF.ok, VredF.ok, VpermSF.ok, VcomprF.ok, VidxF.ok, VinsF.ok, VcmpF.ok, VcmpiF.ok, BmemF.ok, maskOnce, policyDflt, attr4_false, dispOk, offOk, disp8Ok, immOk, inRange] at hw
  refine of_reg none none (M := -14) (m := 2) rfl (by simp) (by decide) (by decide) (r27_b40 x) (r27_b40 y) (r27_b40 z) (by decide) (by decide) (by decide) fun w hm hu => ?_
  rw [decWord, hm]; change decSync _ w = _; unfold decSync; rw [hu]
  simp_all [fieldOf, need, policyDflt, zeroF, inRange, attr4_false, tyF, laF, pfxF, codeF, noAttr, noSweep, maskF, valuChk, vops3, vops2] <;> (first | tauto | omega | exact ⟨by tauto, by omega⟩)

theorem phexp (x y : SReg) : Statement (.phexp x y) := by
  intro hw _
  simp [Instr.wellFormed, SaluF.ok, SimmF.ok, SmemF.ok, VmemF.ok, VgthF.ok, MxqF.ok, ZpkF.ok, CvtF.ok, VpermF.ok, VunpkF.ok, VredF.ok, VpermSF.ok, VcomprF.ok, VidxF.ok, VinsF.ok, VcmpF.ok, VcmpiF.ok, BmemF.ok, maskOnce, policyDflt, attr4_false, dispOk, offOk, disp8Ok, immOk, inRange] at hw
  refine of_reg none none (M := -14) (m := 3) rfl (by simp) (by decide) (by decide) (r27_b40 x) (r27_b40 y) (by decide) (by decide) (by decide) (by decide) fun w hm hu => ?_
  rw [decWord, hm]; change decSync _ w = _; unfold decSync; rw [hu]
  simp_all [fieldOf, need, policyDflt, zeroF, inRange, attr4_false, tyF, laF, pfxF, codeF, noAttr, noSweep, maskF, valuChk, vops3, vops2] <;> (first | tauto | omega | exact ⟨by tauto, by omega⟩)

theorem phwait (x y : SReg) : Statement (.phwait x y) := by
  intro hw _
  simp [Instr.wellFormed, SaluF.ok, SimmF.ok, SmemF.ok, VmemF.ok, VgthF.ok, MxqF.ok, ZpkF.ok, CvtF.ok, VpermF.ok, VunpkF.ok, VredF.ok, VpermSF.ok, VcomprF.ok, VidxF.ok, VinsF.ok, VcmpF.ok, VcmpiF.ok, BmemF.ok, maskOnce, policyDflt, attr4_false, dispOk, offOk, disp8Ok, immOk, inRange] at hw
  refine of_reg none none (M := -14) (m := 4) rfl (by simp) (by decide) (by decide) (r27_b40 x) (r27_b40 y) (by decide) (by decide) (by decide) (by decide) fun w hm hu => ?_
  rw [decWord, hm]; change decSync _ w = _; unfold decSync; rw [hu]
  simp_all [fieldOf, need, policyDflt, zeroF, inRange, attr4_false, tyF, laF, pfxF, codeF, noAttr, noSweep, maskF, valuChk, vops3, vops2] <;> (first | tauto | omega | exact ⟨by tauto, by omega⟩)

theorem bar (m : MReg) : Statement (.bar m) := by
  intro hw _
  simp [Instr.wellFormed, SaluF.ok, SimmF.ok, SmemF.ok, VmemF.ok, VgthF.ok, MxqF.ok, ZpkF.ok, CvtF.ok, VpermF.ok, VunpkF.ok, VredF.ok, VpermSF.ok, VcomprF.ok, VidxF.ok, VinsF.ok, VcmpF.ok, VcmpiF.ok, BmemF.ok, maskOnce, policyDflt, attr4_false, dispOk, offOk, disp8Ok, immOk, inRange] at hw
  refine of_reg none none (M := -14) (m := 5) rfl (by simp) (by decide) (by decide) (r9_b40 m) (by decide) (by decide) (by decide) (by decide) (by decide) fun w hm hu => ?_
  rw [decWord, hm]; change decSync _ w = _; unfold decSync; rw [hu]
  simp_all [fieldOf, need, policyDflt, zeroF, inRange, attr4_false, tyF, laF, pfxF, codeF, noAttr, noSweep, maskF, valuChk, vops3, vops2] <;> (first | tauto | omega | exact ⟨by tauto, by omega⟩)

theorem syncs (x : SReg) : Statement (.syncs x) := by
  intro hw _
  simp [Instr.wellFormed, SaluF.ok, SimmF.ok, SmemF.ok, VmemF.ok, VgthF.ok, MxqF.ok, ZpkF.ok, CvtF.ok, VpermF.ok, VunpkF.ok, VredF.ok, VpermSF.ok, VcomprF.ok, VidxF.ok, VinsF.ok, VcmpF.ok, VcmpiF.ok, BmemF.ok, maskOnce, policyDflt, attr4_false, dispOk, offOk, disp8Ok, immOk, inRange] at hw
  refine of_reg none none (M := -14) (m := 6) rfl (by simp) (by decide) (by decide) (r27_b40 x) (by decide) (by decide) (by decide) (by decide) (by decide) fun w hm hu => ?_
  rw [decWord, hm]; change decSync _ w = _; unfold decSync; rw [hu]
  simp_all [fieldOf, need, policyDflt, zeroF, inRange, attr4_false, tyF, laF, pfxF, codeF, noAttr, noSweep, maskF, valuChk, vops3, vops2] <;> (first | tauto | omega | exact ⟨by tauto, by omega⟩)

theorem yield (x y z : SReg) : Statement (.yield x y z) := by
  intro hw _
  simp [Instr.wellFormed, SaluF.ok, SimmF.ok, SmemF.ok, VmemF.ok, VgthF.ok, MxqF.ok, ZpkF.ok, CvtF.ok, VpermF.ok, VunpkF.ok, VredF.ok, VpermSF.ok, VcomprF.ok, VidxF.ok, VinsF.ok, VcmpF.ok, VcmpiF.ok, BmemF.ok, maskOnce, policyDflt, attr4_false, dispOk, offOk, disp8Ok, immOk, inRange] at hw
  refine of_reg none none (M := -14) (m := 7) rfl (by simp) (by decide) (by decide) (r27_b40 x) (r27_b40 y) (r27_b40 z) (by decide) (by decide) (by decide) fun w hm hu => ?_
  rw [decWord, hm]; change decSync _ w = _; unfold decSync; rw [hu]
  simp_all [fieldOf, need, policyDflt, zeroF, inRange, attr4_false, tyF, laF, pfxF, codeF, noAttr, noSweep, maskF, valuChk, vops3, vops2] <;> (first | tauto | omega | exact ⟨by tauto, by omega⟩)

theorem racq (x : SReg) (m : MReg) : Statement (.racq x m) := by
  intro hw _
  simp [Instr.wellFormed, SaluF.ok, SimmF.ok, SmemF.ok, VmemF.ok, VgthF.ok, MxqF.ok, ZpkF.ok, CvtF.ok, VpermF.ok, VunpkF.ok, VredF.ok, VpermSF.ok, VcomprF.ok, VidxF.ok, VinsF.ok, VcmpF.ok, VcmpiF.ok, BmemF.ok, maskOnce, policyDflt, attr4_false, dispOk, offOk, disp8Ok, immOk, inRange] at hw
  refine of_reg none none (M := -14) (m := 8) rfl (by simp) (by decide) (by decide) (r27_b40 x) (r9_b40 m) (by decide) (by decide) (by decide) (by decide) fun w hm hu => ?_
  rw [decWord, hm]; change decSync _ w = _; unfold decSync; rw [hu]
  simp_all [fieldOf, need, policyDflt, zeroF, inRange, attr4_false, tyF, laF, pfxF, codeF, noAttr, noSweep, maskF, valuChk, vops3, vops2] <;> (first | tauto | omega | exact ⟨by tauto, by omega⟩)

theorem racqW (x : SReg) : Statement (.racqW x) := by
  intro hw _
  simp [Instr.wellFormed, SaluF.ok, SimmF.ok, SmemF.ok, VmemF.ok, VgthF.ok, MxqF.ok, ZpkF.ok, CvtF.ok, VpermF.ok, VunpkF.ok, VredF.ok, VpermSF.ok, VcomprF.ok, VidxF.ok, VinsF.ok, VcmpF.ok, VcmpiF.ok, BmemF.ok, maskOnce, policyDflt, attr4_false, dispOk, offOk, disp8Ok, immOk, inRange] at hw
  refine of_reg none none (M := -14) (m := 8) rfl (by simp) (by decide) (by decide) (r27_b40 x) (by decide) (by decide) (by decide) (by decide) (by decide) fun w hm hu => ?_
  rw [decWord, hm]; change decSync _ w = _; unfold decSync; rw [hu]
  simp_all [fieldOf, need, policyDflt, zeroF, inRange, attr4_false, tyF, laF, pfxF, codeF, noAttr, noSweep, maskF, valuChk, vops3, vops2] <;> (first | tauto | omega | exact ⟨by tauto, by omega⟩)

theorem rrel (x : SReg) : Statement (.rrel x) := by
  intro hw _
  simp [Instr.wellFormed, SaluF.ok, SimmF.ok, SmemF.ok, VmemF.ok, VgthF.ok, MxqF.ok, ZpkF.ok, CvtF.ok, VpermF.ok, VunpkF.ok, VredF.ok, VpermSF.ok, VcomprF.ok, VidxF.ok, VinsF.ok, VcmpF.ok, VcmpiF.ok, BmemF.ok, maskOnce, policyDflt, attr4_false, dispOk, offOk, disp8Ok, immOk, inRange] at hw
  refine of_reg none none (M := -14) (m := (-8)) rfl (by simp) (by decide) (by decide) (r27_b40 x) (by decide) (by decide) (by decide) (by decide) (by decide) fun w hm hu => ?_
  rw [decWord, hm]; change decSync _ w = _; unfold decSync; rw [hu]
  simp_all [fieldOf, need, policyDflt, zeroF, inRange, attr4_false, tyF, laF, pfxF, codeF, noAttr, noSweep, maskF, valuChk, vops3, vops2] <;> (first | tauto | omega | exact ⟨by tauto, by omega⟩)

theorem phase (x y : SReg) : Statement (.phase x y) := by
  intro hw _
  simp [Instr.wellFormed, SaluF.ok, SimmF.ok, SmemF.ok, VmemF.ok, VgthF.ok, MxqF.ok, ZpkF.ok, CvtF.ok, VpermF.ok, VunpkF.ok, VredF.ok, VpermSF.ok, VcomprF.ok, VidxF.ok, VinsF.ok, VcmpF.ok, VcmpiF.ok, BmemF.ok, maskOnce, policyDflt, attr4_false, dispOk, offOk, disp8Ok, immOk, inRange] at hw
  refine of_reg none none (M := -14) (m := 9) rfl (by simp) (by decide) (by decide) (r27_b40 x) (r27_b40 y) (by decide) (by decide) (by decide) (by decide) fun w hm hu => ?_
  rw [decWord, hm]; change decSync _ w = _; unfold decSync; rw [hu]
  simp_all [fieldOf, need, policyDflt, zeroF, inRange, attr4_false, tyF, laF, pfxF, codeF, noAttr, noSweep, maskF, valuChk, vops3, vops2] <;> (first | tauto | omega | exact ⟨by tauto, by omega⟩)

theorem phaseT (x y : SReg) : Statement (.phaseT x y) := by
  intro hw _
  simp [Instr.wellFormed, SaluF.ok, SimmF.ok, SmemF.ok, VmemF.ok, VgthF.ok, MxqF.ok, ZpkF.ok, CvtF.ok, VpermF.ok, VunpkF.ok, VredF.ok, VpermSF.ok, VcomprF.ok, VidxF.ok, VinsF.ok, VcmpF.ok, VcmpiF.ok, BmemF.ok, maskOnce, policyDflt, attr4_false, dispOk, offOk, disp8Ok, immOk, inRange] at hw
  refine of_reg none none (M := -14) (m := 9) rfl (by simp) (by decide) (by decide) (r27_b40 x) (r27_b40 y) (by decide) (by decide) (by decide) (by decide) fun w hm hu => ?_
  rw [decWord, hm]; change decSync _ w = _; unfold decSync; rw [hu]
  simp_all [fieldOf, need, policyDflt, zeroF, inRange, attr4_false, tyF, laF, pfxF, codeF, noAttr, noSweep, maskF, valuChk, vops3, vops2] <;> (first | tauto | omega | exact ⟨by tauto, by omega⟩)

theorem waitRelease (i : IssueRef) : Statement (.waitRelease i) := step_only rfl

theorem yieldResume (i : IssueRef) : Statement (.yieldResume i) := step_only rfl

theorem cpyG (f : CpyF) : Statement (.cpyG f) := by
  intro hw _
  simp [Instr.wellFormed, SaluF.ok, SimmF.ok, SmemF.ok, VmemF.ok, VgthF.ok, MxqF.ok, ZpkF.ok, CvtF.ok, VpermF.ok, VunpkF.ok, VredF.ok, VpermSF.ok, VcomprF.ok, VidxF.ok, VinsF.ok, VcmpF.ok, VcmpiF.ok, BmemF.ok, maskOnce, policyDflt, attr4_false, dispOk, offOk, disp8Ok, immOk, inRange] at hw
  refine of_reg f.attr none (M := -15) (m := 1) rfl (by simp) (by decide) (by decide) (r81_bounds f.x) (r27_b40 f.y) (r27_b40 f.z) (scope_b4 f.scope) (by decide) (by decide) fun w hm hu => ?_
  rw [decWord, hm]; change decCopy _ w = _; unfold decCopy; rw [hu]
  rcases f with ⟨_ | _, _⟩ <;> simp_all [fieldOf, need, policyDflt, zeroF, inRange, attr4_false, tyF, laF, pfxF, codeF, noAttr, noSweep, maskF, valuChk, vops3, vops2] <;> (first | tauto | omega | exact ⟨by tauto, by omega⟩)

theorem cpyS (f : CpyF) : Statement (.cpyS f) := by
  intro hw _
  simp [Instr.wellFormed, SaluF.ok, SimmF.ok, SmemF.ok, VmemF.ok, VgthF.ok, MxqF.ok, ZpkF.ok, CvtF.ok, VpermF.ok, VunpkF.ok, VredF.ok, VpermSF.ok, VcomprF.ok, VidxF.ok, VinsF.ok, VcmpF.ok, VcmpiF.ok, BmemF.ok, maskOnce, policyDflt, attr4_false, dispOk, offOk, disp8Ok, immOk, inRange] at hw
  refine of_reg f.attr none (M := -15) (m := 1) rfl (by simp) (by decide) (by decide) (r81_bounds f.x) (r27_b40 f.y) (r27_b40 f.z) (scope_b4 f.scope) (by decide) (by decide) fun w hm hu => ?_
  rw [decWord, hm]; change decCopy _ w = _; unfold decCopy; rw [hu]
  rcases f with ⟨_ | _, _⟩ <;> simp_all [fieldOf, need, policyDflt, zeroF, inRange, attr4_false, tyF, laF, pfxF, codeF, noAttr, noSweep, maskF, valuChk, vops3, vops2] <;> (first | tauto | omega | exact ⟨by tauto, by omega⟩)

theorem cpseal (x y : SReg) : Statement (.cpseal x y) := by
  intro hw _
  simp [Instr.wellFormed, SaluF.ok, SimmF.ok, SmemF.ok, VmemF.ok, VgthF.ok, MxqF.ok, ZpkF.ok, CvtF.ok, VpermF.ok, VunpkF.ok, VredF.ok, VpermSF.ok, VcomprF.ok, VidxF.ok, VinsF.ok, VcmpF.ok, VcmpiF.ok, BmemF.ok, maskOnce, policyDflt, attr4_false, dispOk, offOk, disp8Ok, immOk, inRange] at hw
  refine of_reg none none (M := -15) (m := 2) rfl (by simp) (by decide) (by decide) (r27_b40 x) (r27_b40 y) (by decide) (by decide) (by decide) (by decide) fun w hm hu => ?_
  rw [decWord, hm]; change decCopy _ w = _; unfold decCopy; rw [hu]
  simp_all [fieldOf, need, policyDflt, zeroF, inRange, attr4_false, tyF, laF, pfxF, codeF, noAttr, noSweep, maskF, valuChk, vops3, vops2] <;> (first | tauto | omega | exact ⟨by tauto, by omega⟩)

theorem cpwaitRd (x : SReg) : Statement (.cpwaitRd x) := by
  intro hw _
  simp [Instr.wellFormed, SaluF.ok, SimmF.ok, SmemF.ok, VmemF.ok, VgthF.ok, MxqF.ok, ZpkF.ok, CvtF.ok, VpermF.ok, VunpkF.ok, VredF.ok, VpermSF.ok, VcomprF.ok, VidxF.ok, VinsF.ok, VcmpF.ok, VcmpiF.ok, BmemF.ok, maskOnce, policyDflt, attr4_false, dispOk, offOk, disp8Ok, immOk, inRange] at hw
  refine of_reg none none (M := -15) (m := 3) rfl (by simp) (by decide) (by decide) (r27_b40 x) (by decide) (by decide) (by decide) (by decide) (by decide) fun w hm hu => ?_
  rw [decWord, hm]; change decCopy _ w = _; unfold decCopy; rw [hu]
  simp_all [fieldOf, need, policyDflt, zeroF, inRange, attr4_false, tyF, laF, pfxF, codeF, noAttr, noSweep, maskF, valuChk, vops3, vops2] <;> (first | tauto | omega | exact ⟨by tauto, by omega⟩)

theorem cpwaitVis (x : SReg) : Statement (.cpwaitVis x) := by
  intro hw _
  simp [Instr.wellFormed, SaluF.ok, SimmF.ok, SmemF.ok, VmemF.ok, VgthF.ok, MxqF.ok, ZpkF.ok, CvtF.ok, VpermF.ok, VunpkF.ok, VredF.ok, VpermSF.ok, VcomprF.ok, VidxF.ok, VinsF.ok, VcmpF.ok, VcmpiF.ok, BmemF.ok, maskOnce, policyDflt, attr4_false, dispOk, offOk, disp8Ok, immOk, inRange] at hw
  refine of_reg none none (M := -15) (m := 4) rfl (by simp) (by decide) (by decide) (r27_b40 x) (by decide) (by decide) (by decide) (by decide) (by decide) fun w hm hu => ?_
  rw [decWord, hm]; change decCopy _ w = _; unfold decCopy; rw [hu]
  simp_all [fieldOf, need, policyDflt, zeroF, inRange, attr4_false, tyF, laF, pfxF, codeF, noAttr, noSweep, maskF, valuChk, vops3, vops2] <;> (first | tauto | omega | exact ⟨by tauto, by omega⟩)

theorem laneCopyReadDone (id : Nat) : Statement (.laneCopyReadDone id) := step_only rfl

theorem laneCopyVisible (id : Nat) : Statement (.laneCopyVisible id) := step_only rfl

theorem faultedCopyFinish (id : Nat) : Statement (.faultedCopyFinish id) := step_only rfl

theorem jobsub (x y : SReg) : Statement (.jobsub x y) := by
  intro hw _
  simp [Instr.wellFormed, SaluF.ok, SimmF.ok, SmemF.ok, VmemF.ok, VgthF.ok, MxqF.ok, ZpkF.ok, CvtF.ok, VpermF.ok, VunpkF.ok, VredF.ok, VpermSF.ok, VcomprF.ok, VidxF.ok, VinsF.ok, VcmpF.ok, VcmpiF.ok, BmemF.ok, maskOnce, policyDflt, attr4_false, dispOk, offOk, disp8Ok, immOk, inRange] at hw
  refine of_reg none none (M := -15) (m := 5) rfl (by simp) (by decide) (by decide) (r27_b40 x) (r27_b40 y) (by decide) (by decide) (by decide) (by decide) fun w hm hu => ?_
  rw [decWord, hm]; change decCopy _ w = _; unfold decCopy; rw [hu]
  simp_all [fieldOf, need, policyDflt, zeroF, inRange, attr4_false, tyF, laF, pfxF, codeF, noAttr, noSweep, maskF, valuChk, vops3, vops2] <;> (first | tauto | omega | exact ⟨by tauto, by omega⟩)

theorem jobqry (x y : SReg) : Statement (.jobqry x y) := by
  intro hw _
  simp [Instr.wellFormed, SaluF.ok, SimmF.ok, SmemF.ok, VmemF.ok, VgthF.ok, MxqF.ok, ZpkF.ok, CvtF.ok, VpermF.ok, VunpkF.ok, VredF.ok, VpermSF.ok, VcomprF.ok, VidxF.ok, VinsF.ok, VcmpF.ok, VcmpiF.ok, BmemF.ok, maskOnce, policyDflt, attr4_false, dispOk, offOk, disp8Ok, immOk, inRange] at hw
  refine of_reg none none (M := -15) (m := 6) rfl (by simp) (by decide) (by decide) (r27_b40 x) (r27_b40 y) (by decide) (by decide) (by decide) (by decide) fun w hm hu => ?_
  rw [decWord, hm]; change decCopy _ w = _; unfold decCopy; rw [hu]
  simp_all [fieldOf, need, policyDflt, zeroF, inRange, attr4_false, tyF, laF, pfxF, codeF, noAttr, noSweep, maskF, valuChk, vops3, vops2] <;> (first | tauto | omega | exact ⟨by tauto, by omega⟩)

theorem advstg (x y : SReg) : Statement (.advstg x y) := by
  intro hw _
  simp [Instr.wellFormed, SaluF.ok, SimmF.ok, SmemF.ok, VmemF.ok, VgthF.ok, MxqF.ok, ZpkF.ok, CvtF.ok, VpermF.ok, VunpkF.ok, VredF.ok, VpermSF.ok, VcomprF.ok, VidxF.ok, VinsF.ok, VcmpF.ok, VcmpiF.ok, BmemF.ok, maskOnce, policyDflt, attr4_false, dispOk, offOk, disp8Ok, immOk, inRange] at hw
  refine of_reg none none (M := -15) (m := 7) rfl (by simp) (by decide) (by decide) (r27_b40 x) (r27_b40 y) (by decide) (by decide) (by decide) (by decide) fun w hm hu => ?_
  rw [decWord, hm]; change decCopy _ w = _; unfold decCopy; rw [hu]
  simp_all [fieldOf, need, policyDflt, zeroF, inRange, attr4_false, tyF, laF, pfxF, codeF, noAttr, noSweep, maskF, valuChk, vops3, vops2] <;> (first | tauto | omega | exact ⟨by tauto, by omega⟩)

theorem jobStart (ctx job : Nat) : Statement (.jobStart ctx job) := step_only rfl

theorem jobAccess (ctx job : Nat) : Statement (.jobAccess ctx job) := step_only rfl

theorem jobReadDone (ctx job : Nat) : Statement (.jobReadDone ctx job) := step_only rfl

theorem jobVisibleCompletion (ctx job : Nat) : Statement (.jobVisibleCompletion ctx job) := step_only rfl

theorem m2mJobAck (ctx job : Nat) : Statement (.m2mJobAck ctx job) := step_only rfl

theorem faultedJobFinish (ctx job : Nat) : Statement (.faultedJobFinish ctx job) := step_only rfl

theorem ldbS8 (f : BmemF) : Statement (.ldbS8 f) := by
  intro hw _
  simp [Instr.wellFormed, SaluF.ok, SimmF.ok, SmemF.ok, VmemF.ok, VgthF.ok, MxqF.ok, ZpkF.ok, CvtF.ok, VpermF.ok, VunpkF.ok, VredF.ok, VpermSF.ok, VcomprF.ok, VidxF.ok, VinsF.ok, VcmpF.ok, VcmpiF.ok, BmemF.ok, maskOnce, policyDflt, attr4_false, dispOk, offOk, disp8Ok, immOk, inRange] at hw
  refine of_mem f.attr none (M := -16) (m := 1) rfl (by simp) (by decide) (by decide) (r81_bounds f.d) (r27_b40 f.base) (by omega) (by decide) fun w hm hu => ?_
  rw [decWord, hm]; change decBmem _ w = _; unfold decBmem; rw [hu]
  rcases f with ⟨_ | _, _⟩ <;> simp_all [fieldOf, need, policyDflt, zeroF, inRange, attr4_false, tyF, laF, pfxF, codeF, noAttr, noSweep, maskF, valuChk, vops3, vops2] <;> (first | tauto | omega | exact ⟨by tauto, by omega⟩)

theorem ldbS16 (f : BmemF) : Statement (.ldbS16 f) := by
  intro hw _
  simp [Instr.wellFormed, SaluF.ok, SimmF.ok, SmemF.ok, VmemF.ok, VgthF.ok, MxqF.ok, ZpkF.ok, CvtF.ok, VpermF.ok, VunpkF.ok, VredF.ok, VpermSF.ok, VcomprF.ok, VidxF.ok, VinsF.ok, VcmpF.ok, VcmpiF.ok, BmemF.ok, maskOnce, policyDflt, attr4_false, dispOk, offOk, disp8Ok, immOk, inRange] at hw
  refine of_mem f.attr none (M := -16) (m := 2) rfl (by simp) (by decide) (by decide) (r81_bounds f.d) (r27_b40 f.base) (by omega) (by decide) fun w hm hu => ?_
  rw [decWord, hm]; change decBmem _ w = _; unfold decBmem; rw [hu]
  rcases f with ⟨_ | _, _⟩ <;> simp_all [fieldOf, need, policyDflt, zeroF, inRange, attr4_false, tyF, laF, pfxF, codeF, noAttr, noSweep, maskF, valuChk, vops3, vops2] <;> (first | tauto | omega | exact ⟨by tauto, by omega⟩)

theorem ldbS32 (f : BmemF) : Statement (.ldbS32 f) := by
  intro hw _
  simp [Instr.wellFormed, SaluF.ok, SimmF.ok, SmemF.ok, VmemF.ok, VgthF.ok, MxqF.ok, ZpkF.ok, CvtF.ok, VpermF.ok, VunpkF.ok, VredF.ok, VpermSF.ok, VcomprF.ok, VidxF.ok, VinsF.ok, VcmpF.ok, VcmpiF.ok, BmemF.ok, maskOnce, policyDflt, attr4_false, dispOk, offOk, disp8Ok, immOk, inRange] at hw
  refine of_mem f.attr none (M := -16) (m := 3) rfl (by simp) (by decide) (by decide) (r81_bounds f.d) (r27_b40 f.base) (by omega) (by decide) fun w hm hu => ?_
  rw [decWord, hm]; change decBmem _ w = _; unfold decBmem; rw [hu]
  rcases f with ⟨_ | _, _⟩ <;> simp_all [fieldOf, need, policyDflt, zeroF, inRange, attr4_false, tyF, laF, pfxF, codeF, noAttr, noSweep, maskF, valuChk, vops3, vops2] <;> (first | tauto | omega | exact ⟨by tauto, by omega⟩)

theorem ldbS64 (f : BmemF) : Statement (.ldbS64 f) := by
  intro hw _
  simp [Instr.wellFormed, SaluF.ok, SimmF.ok, SmemF.ok, VmemF.ok, VgthF.ok, MxqF.ok, ZpkF.ok, CvtF.ok, VpermF.ok, VunpkF.ok, VredF.ok, VpermSF.ok, VcomprF.ok, VidxF.ok, VinsF.ok, VcmpF.ok, VcmpiF.ok, BmemF.ok, maskOnce, policyDflt, attr4_false, dispOk, offOk, disp8Ok, immOk, inRange] at hw
  refine of_mem f.attr none (M := -16) (m := 4) rfl (by simp) (by decide) (by decide) (r81_bounds f.d) (r27_b40 f.base) (by omega) (by decide) fun w hm hu => ?_
  rw [decWord, hm]; change decBmem _ w = _; unfold decBmem; rw [hu]
  rcases f with ⟨_ | _, _⟩ <;> simp_all [fieldOf, need, policyDflt, zeroF, inRange, attr4_false, tyF, laF, pfxF, codeF, noAttr, noSweep, maskF, valuChk, vops3, vops2] <;> (first | tauto | omega | exact ⟨by tauto, by omega⟩)

theorem ldbZ8 (f : BmemF) : Statement (.ldbZ8 f) := by
  intro hw _
  simp [Instr.wellFormed, SaluF.ok, SimmF.ok, SmemF.ok, VmemF.ok, VgthF.ok, MxqF.ok, ZpkF.ok, CvtF.ok, VpermF.ok, VunpkF.ok, VredF.ok, VpermSF.ok, VcomprF.ok, VidxF.ok, VinsF.ok, VcmpF.ok, VcmpiF.ok, BmemF.ok, maskOnce, policyDflt, attr4_false, dispOk, offOk, disp8Ok, immOk, inRange] at hw
  refine of_mem f.attr none (M := -16) (m := 5) rfl (by simp) (by decide) (by decide) (r81_bounds f.d) (r27_b40 f.base) (by omega) (by decide) fun w hm hu => ?_
  rw [decWord, hm]; change decBmem _ w = _; unfold decBmem; rw [hu]
  rcases f with ⟨_ | _, _⟩ <;> simp_all [fieldOf, need, policyDflt, zeroF, inRange, attr4_false, tyF, laF, pfxF, codeF, noAttr, noSweep, maskF, valuChk, vops3, vops2] <;> (first | tauto | omega | exact ⟨by tauto, by omega⟩)

theorem ldbZ16 (f : BmemF) : Statement (.ldbZ16 f) := by
  intro hw _
  simp [Instr.wellFormed, SaluF.ok, SimmF.ok, SmemF.ok, VmemF.ok, VgthF.ok, MxqF.ok, ZpkF.ok, CvtF.ok, VpermF.ok, VunpkF.ok, VredF.ok, VpermSF.ok, VcomprF.ok, VidxF.ok, VinsF.ok, VcmpF.ok, VcmpiF.ok, BmemF.ok, maskOnce, policyDflt, attr4_false, dispOk, offOk, disp8Ok, immOk, inRange] at hw
  refine of_mem f.attr none (M := -16) (m := 6) rfl (by simp) (by decide) (by decide) (r81_bounds f.d) (r27_b40 f.base) (by omega) (by decide) fun w hm hu => ?_
  rw [decWord, hm]; change decBmem _ w = _; unfold decBmem; rw [hu]
  rcases f with ⟨_ | _, _⟩ <;> simp_all [fieldOf, need, policyDflt, zeroF, inRange, attr4_false, tyF, laF, pfxF, codeF, noAttr, noSweep, maskF, valuChk, vops3, vops2] <;> (first | tauto | omega | exact ⟨by tauto, by omega⟩)

theorem ldbZ32 (f : BmemF) : Statement (.ldbZ32 f) := by
  intro hw _
  simp [Instr.wellFormed, SaluF.ok, SimmF.ok, SmemF.ok, VmemF.ok, VgthF.ok, MxqF.ok, ZpkF.ok, CvtF.ok, VpermF.ok, VunpkF.ok, VredF.ok, VpermSF.ok, VcomprF.ok, VidxF.ok, VinsF.ok, VcmpF.ok, VcmpiF.ok, BmemF.ok, maskOnce, policyDflt, attr4_false, dispOk, offOk, disp8Ok, immOk, inRange] at hw
  refine of_mem f.attr none (M := -16) (m := 7) rfl (by simp) (by decide) (by decide) (r81_bounds f.d) (r27_b40 f.base) (by omega) (by decide) fun w hm hu => ?_
  rw [decWord, hm]; change decBmem _ w = _; unfold decBmem; rw [hu]
  rcases f with ⟨_ | _, _⟩ <;> simp_all [fieldOf, need, policyDflt, zeroF, inRange, attr4_false, tyF, laF, pfxF, codeF, noAttr, noSweep, maskF, valuChk, vops3, vops2] <;> (first | tauto | omega | exact ⟨by tauto, by omega⟩)

theorem stbS8 (f : BmemF) : Statement (.stbS8 f) := by
  intro hw _
  simp [Instr.wellFormed, SaluF.ok, SimmF.ok, SmemF.ok, VmemF.ok, VgthF.ok, MxqF.ok, ZpkF.ok, CvtF.ok, VpermF.ok, VunpkF.ok, VredF.ok, VpermSF.ok, VcomprF.ok, VidxF.ok, VinsF.ok, VcmpF.ok, VcmpiF.ok, BmemF.ok, maskOnce, policyDflt, attr4_false, dispOk, offOk, disp8Ok, immOk, inRange] at hw
  refine of_mem f.attr none (M := -16) (m := (-1)) rfl (by simp) (by decide) (by decide) (r81_bounds f.d) (r27_b40 f.base) (by omega) (by decide) fun w hm hu => ?_
  rw [decWord, hm]; change decBmem _ w = _; unfold decBmem; rw [hu]
  rcases f with ⟨_ | _, _⟩ <;> simp_all [fieldOf, need, policyDflt, zeroF, inRange, attr4_false, tyF, laF, pfxF, codeF, noAttr, noSweep, maskF, valuChk, vops3, vops2] <;> (first | tauto | omega | exact ⟨by tauto, by omega⟩)

theorem stbS16 (f : BmemF) : Statement (.stbS16 f) := by
  intro hw _
  simp [Instr.wellFormed, SaluF.ok, SimmF.ok, SmemF.ok, VmemF.ok, VgthF.ok, MxqF.ok, ZpkF.ok, CvtF.ok, VpermF.ok, VunpkF.ok, VredF.ok, VpermSF.ok, VcomprF.ok, VidxF.ok, VinsF.ok, VcmpF.ok, VcmpiF.ok, BmemF.ok, maskOnce, policyDflt, attr4_false, dispOk, offOk, disp8Ok, immOk, inRange] at hw
  refine of_mem f.attr none (M := -16) (m := (-2)) rfl (by simp) (by decide) (by decide) (r81_bounds f.d) (r27_b40 f.base) (by omega) (by decide) fun w hm hu => ?_
  rw [decWord, hm]; change decBmem _ w = _; unfold decBmem; rw [hu]
  rcases f with ⟨_ | _, _⟩ <;> simp_all [fieldOf, need, policyDflt, zeroF, inRange, attr4_false, tyF, laF, pfxF, codeF, noAttr, noSweep, maskF, valuChk, vops3, vops2] <;> (first | tauto | omega | exact ⟨by tauto, by omega⟩)

theorem stbS32 (f : BmemF) : Statement (.stbS32 f) := by
  intro hw _
  simp [Instr.wellFormed, SaluF.ok, SimmF.ok, SmemF.ok, VmemF.ok, VgthF.ok, MxqF.ok, ZpkF.ok, CvtF.ok, VpermF.ok, VunpkF.ok, VredF.ok, VpermSF.ok, VcomprF.ok, VidxF.ok, VinsF.ok, VcmpF.ok, VcmpiF.ok, BmemF.ok, maskOnce, policyDflt, attr4_false, dispOk, offOk, disp8Ok, immOk, inRange] at hw
  refine of_mem f.attr none (M := -16) (m := (-3)) rfl (by simp) (by decide) (by decide) (r81_bounds f.d) (r27_b40 f.base) (by omega) (by decide) fun w hm hu => ?_
  rw [decWord, hm]; change decBmem _ w = _; unfold decBmem; rw [hu]
  rcases f with ⟨_ | _, _⟩ <;> simp_all [fieldOf, need, policyDflt, zeroF, inRange, attr4_false, tyF, laF, pfxF, codeF, noAttr, noSweep, maskF, valuChk, vops3, vops2] <;> (first | tauto | omega | exact ⟨by tauto, by omega⟩)

theorem stbS64 (f : BmemF) : Statement (.stbS64 f) := by
  intro hw _
  simp [Instr.wellFormed, SaluF.ok, SimmF.ok, SmemF.ok, VmemF.ok, VgthF.ok, MxqF.ok, ZpkF.ok, CvtF.ok, VpermF.ok, VunpkF.ok, VredF.ok, VpermSF.ok, VcomprF.ok, VidxF.ok, VinsF.ok, VcmpF.ok, VcmpiF.ok, BmemF.ok, maskOnce, policyDflt, attr4_false, dispOk, offOk, disp8Ok, immOk, inRange] at hw
  refine of_mem f.attr none (M := -16) (m := (-4)) rfl (by simp) (by decide) (by decide) (r81_bounds f.d) (r27_b40 f.base) (by omega) (by decide) fun w hm hu => ?_
  rw [decWord, hm]; change decBmem _ w = _; unfold decBmem; rw [hu]
  rcases f with ⟨_ | _, _⟩ <;> simp_all [fieldOf, need, policyDflt, zeroF, inRange, attr4_false, tyF, laF, pfxF, codeF, noAttr, noSweep, maskF, valuChk, vops3, vops2] <;> (first | tauto | omega | exact ⟨by tauto, by omega⟩)

theorem stbZ8 (f : BmemF) : Statement (.stbZ8 f) := by
  intro hw _
  simp [Instr.wellFormed, SaluF.ok, SimmF.ok, SmemF.ok, VmemF.ok, VgthF.ok, MxqF.ok, ZpkF.ok, CvtF.ok, VpermF.ok, VunpkF.ok, VredF.ok, VpermSF.ok, VcomprF.ok, VidxF.ok, VinsF.ok, VcmpF.ok, VcmpiF.ok, BmemF.ok, maskOnce, policyDflt, attr4_false, dispOk, offOk, disp8Ok, immOk, inRange] at hw
  refine of_mem f.attr none (M := -16) (m := (-5)) rfl (by simp) (by decide) (by decide) (r81_bounds f.d) (r27_b40 f.base) (by omega) (by decide) fun w hm hu => ?_
  rw [decWord, hm]; change decBmem _ w = _; unfold decBmem; rw [hu]
  rcases f with ⟨_ | _, _⟩ <;> simp_all [fieldOf, need, policyDflt, zeroF, inRange, attr4_false, tyF, laF, pfxF, codeF, noAttr, noSweep, maskF, valuChk, vops3, vops2] <;> (first | tauto | omega | exact ⟨by tauto, by omega⟩)

theorem stbZ16 (f : BmemF) : Statement (.stbZ16 f) := by
  intro hw _
  simp [Instr.wellFormed, SaluF.ok, SimmF.ok, SmemF.ok, VmemF.ok, VgthF.ok, MxqF.ok, ZpkF.ok, CvtF.ok, VpermF.ok, VunpkF.ok, VredF.ok, VpermSF.ok, VcomprF.ok, VidxF.ok, VinsF.ok, VcmpF.ok, VcmpiF.ok, BmemF.ok, maskOnce, policyDflt, attr4_false, dispOk, offOk, disp8Ok, immOk, inRange] at hw
  refine of_mem f.attr none (M := -16) (m := (-6)) rfl (by simp) (by decide) (by decide) (r81_bounds f.d) (r27_b40 f.base) (by omega) (by decide) fun w hm hu => ?_
  rw [decWord, hm]; change decBmem _ w = _; unfold decBmem; rw [hu]
  rcases f with ⟨_ | _, _⟩ <;> simp_all [fieldOf, need, policyDflt, zeroF, inRange, attr4_false, tyF, laF, pfxF, codeF, noAttr, noSweep, maskF, valuChk, vops3, vops2] <;> (first | tauto | omega | exact ⟨by tauto, by omega⟩)

theorem stbZ32 (f : BmemF) : Statement (.stbZ32 f) := by
  intro hw _
  simp [Instr.wellFormed, SaluF.ok, SimmF.ok, SmemF.ok, VmemF.ok, VgthF.ok, MxqF.ok, ZpkF.ok, CvtF.ok, VpermF.ok, VunpkF.ok, VredF.ok, VpermSF.ok, VcomprF.ok, VidxF.ok, VinsF.ok, VcmpF.ok, VcmpiF.ok, BmemF.ok, maskOnce, policyDflt, attr4_false, dispOk, offOk, disp8Ok, immOk, inRange] at hw
  refine of_mem f.attr none (M := -16) (m := (-7)) rfl (by simp) (by decide) (by decide) (r81_bounds f.d) (r27_b40 f.base) (by omega) (by decide) fun w hm hu => ?_
  rw [decWord, hm]; change decBmem _ w = _; unfold decBmem; rw [hu]
  rcases f with ⟨_ | _, _⟩ <;> simp_all [fieldOf, need, policyDflt, zeroF, inRange, attr4_false, tyF, laF, pfxF, codeF, noAttr, noSweep, maskF, valuChk, vops3, vops2] <;> (first | tauto | omega | exact ⟨by tauto, by omega⟩)

theorem aadd (f : AtomF) : Statement (.aadd f) := by
  intro hw _
  simp [Instr.wellFormed, SaluF.ok, SimmF.ok, SmemF.ok, VmemF.ok, VgthF.ok, MxqF.ok, ZpkF.ok, CvtF.ok, VpermF.ok, VunpkF.ok, VredF.ok, VpermSF.ok, VcomprF.ok, VidxF.ok, VinsF.ok, VcmpF.ok, VcmpiF.ok, BmemF.ok, maskOnce, policyDflt, attr4_false, dispOk, offOk, disp8Ok, immOk, inRange] at hw
  refine of_reg none none (M := -17) (m := 1) rfl (by simp) (by decide) (by decide) (r27_b40 f.x) (r27_b40 f.y) (r27_b40 f.z) (by decide) (r27_bounds f.la) (ty_b13 f.ty) fun w hm hu => ?_
  rw [decWord, hm]; change decAtom _ w = _; unfold decAtom; rw [hu]
  cases f; simp_all [fieldOf, need, policyDflt, zeroF, inRange, attr4_false, tyF, laF, pfxF, codeF, noAttr, noSweep, maskF, valuChk, vops3, vops2] <;> (first | tauto | omega | exact ⟨by tauto, by omega⟩)

theorem amin (f : AtomF) : Statement (.amin f) := by
  intro hw _
  simp [Instr.wellFormed, SaluF.ok, SimmF.ok, SmemF.ok, VmemF.ok, VgthF.ok, MxqF.ok, ZpkF.ok, CvtF.ok, VpermF.ok, VunpkF.ok, VredF.ok, VpermSF.ok, VcomprF.ok, VidxF.ok, VinsF.ok, VcmpF.ok, VcmpiF.ok, BmemF.ok, maskOnce, policyDflt, attr4_false, dispOk, offOk, disp8Ok, immOk, inRange] at hw
  refine of_reg none none (M := -17) (m := 2) rfl (by simp) (by decide) (by decide) (r27_b40 f.x) (r27_b40 f.y) (r27_b40 f.z) (by decide) (r27_bounds f.la) (ty_b13 f.ty) fun w hm hu => ?_
  rw [decWord, hm]; change decAtom _ w = _; unfold decAtom; rw [hu]
  cases f; simp_all [fieldOf, need, policyDflt, zeroF, inRange, attr4_false, tyF, laF, pfxF, codeF, noAttr, noSweep, maskF, valuChk, vops3, vops2] <;> (first | tauto | omega | exact ⟨by tauto, by omega⟩)

theorem amax (f : AtomF) : Statement (.amax f) := by
  intro hw _
  simp [Instr.wellFormed, SaluF.ok, SimmF.ok, SmemF.ok, VmemF.ok, VgthF.ok, MxqF.ok, ZpkF.ok, CvtF.ok, VpermF.ok, VunpkF.ok, VredF.ok, VpermSF.ok, VcomprF.ok, VidxF.ok, VinsF.ok, VcmpF.ok, VcmpiF.ok, BmemF.ok, maskOnce, policyDflt, attr4_false, dispOk, offOk, disp8Ok, immOk, inRange] at hw
  refine of_reg none none (M := -17) (m := 3) rfl (by simp) (by decide) (by decide) (r27_b40 f.x) (r27_b40 f.y) (r27_b40 f.z) (by decide) (r27_bounds f.la) (ty_b13 f.ty) fun w hm hu => ?_
  rw [decWord, hm]; change decAtom _ w = _; unfold decAtom; rw [hu]
  cases f; simp_all [fieldOf, need, policyDflt, zeroF, inRange, attr4_false, tyF, laF, pfxF, codeF, noAttr, noSweep, maskF, valuChk, vops3, vops2] <;> (first | tauto | omega | exact ⟨by tauto, by omega⟩)

theorem aswp (f : AtomF) : Statement (.aswp f) := by
  intro hw _
  simp [Instr.wellFormed, SaluF.ok, SimmF.ok, SmemF.ok, VmemF.ok, VgthF.ok, MxqF.ok, ZpkF.ok, CvtF.ok, VpermF.ok, VunpkF.ok, VredF.ok, VpermSF.ok, VcomprF.ok, VidxF.ok, VinsF.ok, VcmpF.ok, VcmpiF.ok, BmemF.ok, maskOnce, policyDflt, attr4_false, dispOk, offOk, disp8Ok, immOk, inRange] at hw
  refine of_reg none none (M := -17) (m := 4) rfl (by simp) (by decide) (by decide) (r27_b40 f.x) (r27_b40 f.y) (r27_b40 f.z) (by decide) (r27_bounds f.la) (ty_b13 f.ty) fun w hm hu => ?_
  rw [decWord, hm]; change decAtom _ w = _; unfold decAtom; rw [hu]
  cases f; simp_all [fieldOf, need, policyDflt, zeroF, inRange, attr4_false, tyF, laF, pfxF, codeF, noAttr, noSweep, maskF, valuChk, vops3, vops2] <;> (first | tauto | omega | exact ⟨by tauto, by omega⟩)

theorem acas (f : AtomF) : Statement (.acas f) := by
  intro hw _
  simp [Instr.wellFormed, SaluF.ok, SimmF.ok, SmemF.ok, VmemF.ok, VgthF.ok, MxqF.ok, ZpkF.ok, CvtF.ok, VpermF.ok, VunpkF.ok, VredF.ok, VpermSF.ok, VcomprF.ok, VidxF.ok, VinsF.ok, VcmpF.ok, VcmpiF.ok, BmemF.ok, maskOnce, policyDflt, attr4_false, dispOk, offOk, disp8Ok, immOk, inRange] at hw
  refine of_reg none none (M := -17) (m := 5) rfl (by simp) (by decide) (by decide) (r27_b40 f.x) (r27_b40 f.y) (r27_b40 f.z) (by decide) (r27_bounds f.la) (ty_b13 f.ty) fun w hm hu => ?_
  rw [decWord, hm]; change decAtom _ w = _; unfold decAtom; rw [hu]
  cases f; simp_all [fieldOf, need, policyDflt, zeroF, inRange, attr4_false, tyF, laF, pfxF, codeF, noAttr, noSweep, maskF, valuChk, vops3, vops2] <;> (first | tauto | omega | exact ⟨by tauto, by omega⟩)

theorem atomicServe : Statement (.atomicServe) := step_only rfl

theorem redm (x y : SReg) (op : RedOp) (ty : Ty) : Statement (.redm x y op ty) := by
  intro hw _
  simp [Instr.wellFormed, SaluF.ok, SimmF.ok, SmemF.ok, VmemF.ok, VgthF.ok, MxqF.ok, ZpkF.ok, CvtF.ok, VpermF.ok, VunpkF.ok, VredF.ok, VpermSF.ok, VcomprF.ok, VidxF.ok, VinsF.ok, VcmpF.ok, VcmpiF.ok, BmemF.ok, maskOnce, policyDflt, attr4_false, dispOk, offOk, disp8Ok, immOk, inRange] at hw
  refine of_reg none none (M := -17) (m := (-1)) rfl (by simp) (by decide) (by decide) (r27_b40 x) (r27_b40 y) (redOp_b40 op) (by decide) (by decide) (ty_b13 ty) fun w hm hu => ?_
  rw [decWord, hm]; change decAtom _ w = _; unfold decAtom; rw [hu]
  simp_all [fieldOf, need, policyDflt, zeroF, inRange, attr4_false, tyF, laF, pfxF, codeF, noAttr, noSweep, maskF, valuChk, vops3, vops2] <;> (first | tauto | omega | exact ⟨by tauto, by omega⟩)

theorem redmUpdate (id : Nat) : Statement (.redmUpdate id) := step_only rfl

theorem fence (sc : Scope) : Statement (.fence sc) := by
  intro hw _
  simp [Instr.wellFormed, SaluF.ok, SimmF.ok, SmemF.ok, VmemF.ok, VgthF.ok, MxqF.ok, ZpkF.ok, CvtF.ok, VpermF.ok, VunpkF.ok, VredF.ok, VpermSF.ok, VcomprF.ok, VidxF.ok, VinsF.ok, VcmpF.ok, VcmpiF.ok, BmemF.ok, maskOnce, policyDflt, attr4_false, dispOk, offOk, disp8Ok, immOk, inRange] at hw
  refine of_reg none none (M := -17) (m := (-2)) rfl (by simp) (by decide) (by decide) (by decide) (by decide) (by decide) (scope_b4 sc) (by decide) (by decide) fun w hm hu => ?_
  rw [decWord, hm]; change decAtom _ w = _; unfold decAtom; rw [hu]
  simp_all [fieldOf, need, policyDflt, zeroF, inRange, attr4_false, tyF, laF, pfxF, codeF, noAttr, noSweep, maskF, valuChk, vops3, vops2] <;> (first | tauto | omega | exact ⟨by tauto, by omega⟩)

theorem tlbinv (x y z : SReg) (sc : Scope) : Statement (.tlbinv x y z sc) := by
  intro hw _
  refine of_reg none none (M := (-17)) (m := (-3)) rfl (by simp) (by decide) (by decide) (r27_b40 x) (r27_b40 y) (r27_b40 z) (scope_b4 sc) (by decide) (by decide) fun w hm hu => ?_
  rw [decWord, hm]; change decAtom _ w = _; unfold decAtom; rw [hu]
  cases sc <;> simp [Instr.wellFormed] at hw <;> simp [fieldOf, need, codeF, noAttr, noSweep, scopeField, scopeOf, inRange]

theorem tlbinvComplete (id : Nat) : Statement (.tlbinvComplete id) := step_only rfl

theorem translationWalk (core ctx : Nat) (a : Addr) : Statement (.translationWalk core ctx a) := step_only rfl

theorem cwb (x y : SReg) : Statement (.cwb x y) := by
  intro hw _
  simp [Instr.wellFormed, SaluF.ok, SimmF.ok, SmemF.ok, VmemF.ok, VgthF.ok, MxqF.ok, ZpkF.ok, CvtF.ok, VpermF.ok, VunpkF.ok, VredF.ok, VpermSF.ok, VcomprF.ok, VidxF.ok, VinsF.ok, VcmpF.ok, VcmpiF.ok, BmemF.ok, maskOnce, policyDflt, attr4_false, dispOk, offOk, disp8Ok, immOk, inRange] at hw
  refine of_reg none none (M := -17) (m := (-4)) rfl (by simp) (by decide) (by decide) (r27_b40 x) (r27_b40 y) (by decide) (by decide) (by decide) (by decide) fun w hm hu => ?_
  rw [decWord, hm]; change decAtom _ w = _; unfold decAtom; rw [hu]
  simp_all [fieldOf, need, policyDflt, zeroF, inRange, attr4_false, tyF, laF, pfxF, codeF, noAttr, noSweep, maskF, valuChk, vops3, vops2] <;> (first | tauto | omega | exact ⟨by tauto, by omega⟩)

theorem cinv (x y : SReg) : Statement (.cinv x y) := by
  intro hw _
  simp [Instr.wellFormed, SaluF.ok, SimmF.ok, SmemF.ok, VmemF.ok, VgthF.ok, MxqF.ok, ZpkF.ok, CvtF.ok, VpermF.ok, VunpkF.ok, VredF.ok, VpermSF.ok, VcomprF.ok, VidxF.ok, VinsF.ok, VcmpF.ok, VcmpiF.ok, BmemF.ok, maskOnce, policyDflt, attr4_false, dispOk, offOk, disp8Ok, immOk, inRange] at hw
  refine of_reg none none (M := -17) (m := (-5)) rfl (by simp) (by decide) (by decide) (r27_b40 x) (r27_b40 y) (by decide) (by decide) (by decide) (by decide) fun w hm hu => ?_
  rw [decWord, hm]; change decAtom _ w = _; unfold decAtom; rw [hu]
  simp_all [fieldOf, need, policyDflt, zeroF, inRange, attr4_false, tyF, laF, pfxF, codeF, noAttr, noSweep, maskF, valuChk, vops3, vops2] <;> (first | tauto | omega | exact ⟨by tauto, by omega⟩)

theorem cwbi (x y : SReg) : Statement (.cwbi x y) := by
  intro hw _
  simp [Instr.wellFormed, SaluF.ok, SimmF.ok, SmemF.ok, VmemF.ok, VgthF.ok, MxqF.ok, ZpkF.ok, CvtF.ok, VpermF.ok, VunpkF.ok, VredF.ok, VpermSF.ok, VcomprF.ok, VidxF.ok, VinsF.ok, VcmpF.ok, VcmpiF.ok, BmemF.ok, maskOnce, policyDflt, attr4_false, dispOk, offOk, disp8Ok, immOk, inRange] at hw
  refine of_reg none none (M := -17) (m := (-6)) rfl (by simp) (by decide) (by decide) (r27_b40 x) (r27_b40 y) (by decide) (by decide) (by decide) (by decide) fun w hm hu => ?_
  rw [decWord, hm]; change decAtom _ w = _; unfold decAtom; rw [hu]
  simp_all [fieldOf, need, policyDflt, zeroF, inRange, attr4_false, tyF, laF, pfxF, codeF, noAttr, noSweep, maskF, valuChk, vops3, vops2] <;> (first | tauto | omega | exact ⟨by tauto, by omega⟩)

theorem mxmN3 (f : MxmF) (d : Fin 9) : Statement (.mxmN3 f d) := by
  intro hw _
  simp [Instr.wellFormed, SaluF.ok, SimmF.ok, SmemF.ok, VmemF.ok, VgthF.ok, MxqF.ok, ZpkF.ok, CvtF.ok, VpermF.ok, VunpkF.ok, VredF.ok, VpermSF.ok, VcomprF.ok, VidxF.ok, VinsF.ok, VcmpF.ok, VcmpiF.ok, BmemF.ok, maskOnce, policyDflt, attr4_false, dispOk, offOk, disp8Ok, immOk, inRange] at hw
  refine of_reg none none (M := 27) (m := 1) rfl (by simp) (by decide) (by decide) (r27_b40 f.x) (r81_bounds f.y) (r81_bounds f.z) (by decide) (by decide) (val9_b13 d) fun w hm hu => ?_
  rw [decWord, hm]; change decMxm _ w = _; unfold decMxm; rw [hu]
  cases f; simp_all [fieldOf, need, policyDflt, zeroF, inRange, attr4_false, tyF, laF, pfxF, codeF, noAttr, noSweep, maskF, valuChk, vops3, vops2] <;> (first | tauto | omega | exact ⟨by tauto, by omega⟩)

theorem mxmN3Z (f : MxmF) (d : Fin 9) : Statement (.mxmN3Z f d) := by
  intro hw _
  simp [Instr.wellFormed, SaluF.ok, SimmF.ok, SmemF.ok, VmemF.ok, VgthF.ok, MxqF.ok, ZpkF.ok, CvtF.ok, VpermF.ok, VunpkF.ok, VredF.ok, VpermSF.ok, VcomprF.ok, VidxF.ok, VinsF.ok, VcmpF.ok, VcmpiF.ok, BmemF.ok, maskOnce, policyDflt, attr4_false, dispOk, offOk, disp8Ok, immOk, inRange] at hw
  refine of_reg none none (M := 27) (m := (-1)) rfl (by simp) (by decide) (by decide) (r27_b40 f.x) (r81_bounds f.y) (r81_bounds f.z) (by decide) (by decide) (val9_b13 d) fun w hm hu => ?_
  rw [decWord, hm]; change decMxm _ w = _; unfold decMxm; rw [hu]
  cases f; simp_all [fieldOf, need, policyDflt, zeroF, inRange, attr4_false, tyF, laF, pfxF, codeF, noAttr, noSweep, maskF, valuChk, vops3, vops2] <;> (first | tauto | omega | exact ⟨by tauto, by omega⟩)

theorem mxmI9 (f : MxmF) (s : Bool) : Statement (.mxmI9 f s) := by
  intro hw _
  refine of_reg none none (M := 27) (m := 2) rfl (by simp) (by decide) (by decide) (r27_b40 f.x) (r81_bounds f.y) (r81_bounds f.z) (by decide) (by decide) (flag_b13 s) fun w hm hu => ?_
  rw [decWord, hm]; change decMxm _ w = _; unfold decMxm; rw [hu]
  cases s <;> simp [fieldOf, need, codeF, noAttr, noSweep, flagF, inRange]

theorem mxmF9 (f : MxmF) (r : Option Rnd) : Statement (.mxmF9 f r) := by
  intro hw _
  simp [Instr.wellFormed, SaluF.ok, SimmF.ok, SmemF.ok, VmemF.ok, VgthF.ok, MxqF.ok, ZpkF.ok, CvtF.ok, VpermF.ok, VunpkF.ok, VredF.ok, VpermSF.ok, VcomprF.ok, VidxF.ok, VinsF.ok, VcmpF.ok, VcmpiF.ok, BmemF.ok, maskOnce, policyDflt, attr4_false, dispOk, offOk, disp8Ok, immOk, inRange] at hw
  refine of_reg none none (M := 27) (m := 3) rfl (by simp) (by decide) (by decide) (r27_b40 f.x) (r81_bounds f.y) (r81_bounds f.z) (by decide) (by decide) (rnd_b13 r) fun w hm hu => ?_
  rw [decWord, hm]; change decMxm _ w = _; unfold decMxm; rw [hu]
  cases f; simp_all [fieldOf, need, policyDflt, zeroF, inRange, attr4_false, tyF, laF, pfxF, codeF, noAttr, noSweep, maskF, valuChk, vops3, vops2] <;> (first | tauto | omega | exact ⟨by tauto, by omega⟩)

theorem mxmI27 (f : MxmF) (s : Bool) : Statement (.mxmI27 f s) := by
  intro hw _
  refine of_reg none none (M := 27) (m := 4) rfl (by simp) (by decide) (by decide) (r27_b40 f.x) (r81_bounds f.y) (r81_bounds f.z) (by decide) (by decide) (flag_b13 s) fun w hm hu => ?_
  rw [decWord, hm]; change decMxm _ w = _; unfold decMxm; rw [hu]
  cases s <;> simp [fieldOf, need, codeF, noAttr, noSweep, flagF, inRange]

theorem mxmF27 (f : MxmF) (r : Option Rnd) : Statement (.mxmF27 f r) := by
  intro hw _
  simp [Instr.wellFormed, SaluF.ok, SimmF.ok, SmemF.ok, VmemF.ok, VgthF.ok, MxqF.ok, ZpkF.ok, CvtF.ok, VpermF.ok, VunpkF.ok, VredF.ok, VpermSF.ok, VcomprF.ok, VidxF.ok, VinsF.ok, VcmpF.ok, VcmpiF.ok, BmemF.ok, maskOnce, policyDflt, attr4_false, dispOk, offOk, disp8Ok, immOk, inRange] at hw
  refine of_reg none none (M := 27) (m := 5) rfl (by simp) (by decide) (by decide) (r27_b40 f.x) (r81_bounds f.y) (r81_bounds f.z) (by decide) (by decide) (rnd_b13 r) fun w hm hu => ?_
  rw [decWord, hm]; change decMxm _ w = _; unfold decMxm; rw [hu]
  cases f; simp_all [fieldOf, need, policyDflt, zeroF, inRange, attr4_false, tyF, laF, pfxF, codeF, noAttr, noSweep, maskF, valuChk, vops3, vops2] <;> (first | tauto | omega | exact ⟨by tauto, by omega⟩)

theorem matrixOpEnterArray (core : Nat) : Statement (.matrixOpEnterArray core) := step_only rfl

theorem matrixOpRetire (core : Nat) : Statement (.matrixOpRetire core) := step_only rfl

theorem mxz (x : TReg) : Statement (.mxz x) := by
  intro hw _
  simp [Instr.wellFormed, SaluF.ok, SimmF.ok, SmemF.ok, VmemF.ok, VgthF.ok, MxqF.ok, ZpkF.ok, CvtF.ok, VpermF.ok, VunpkF.ok, VredF.ok, VpermSF.ok, VcomprF.ok, VidxF.ok, VinsF.ok, VcmpF.ok, VcmpiF.ok, BmemF.ok, maskOnce, policyDflt, attr4_false, dispOk, offOk, disp8Ok, immOk, inRange] at hw
  refine of_reg none none (M := 28) (m := 0) rfl (by simp) (by decide) (by decide) (r27_b40 x) (by decide) (by decide) (by decide) (by decide) (by decide) fun w hm hu => ?_
  rw [decWord, hm]; change decMxt _ w = _; unfold decMxt; rw [hu]
  simp_all [fieldOf, need, policyDflt, zeroF, inRange, attr4_false, tyF, laF, pfxF, codeF, noAttr, noSweep, maskF, valuChk, vops3, vops2] <;> (first | tauto | omega | exact ⟨by tauto, by omega⟩)

theorem tld (x : VReg) (y : TReg) (z : SReg) : Statement (.tld x y z) := by
  intro hw _
  simp [Instr.wellFormed, SaluF.ok, SimmF.ok, SmemF.ok, VmemF.ok, VgthF.ok, MxqF.ok, ZpkF.ok, CvtF.ok, VpermF.ok, VunpkF.ok, VredF.ok, VpermSF.ok, VcomprF.ok, VidxF.ok, VinsF.ok, VcmpF.ok, VcmpiF.ok, BmemF.ok, maskOnce, policyDflt, attr4_false, dispOk, offOk, disp8Ok, immOk, inRange] at hw
  refine of_reg none none (M := 28) (m := 1) rfl (by simp) (by decide) (by decide) (r81_bounds x) (r27_b40 y) (r27_b40 z) (by decide) (by decide) (by decide) fun w hm hu => ?_
  rw [decWord, hm]; change decMxt _ w = _; unfold decMxt; rw [hu]
  simp_all [fieldOf, need, policyDflt, zeroF, inRange, attr4_false, tyF, laF, pfxF, codeF, noAttr, noSweep, maskF, valuChk, vops3, vops2] <;> (first | tauto | omega | exact ⟨by tauto, by omega⟩)

theorem tldC (x : VReg) (y : TReg) (z : SReg) : Statement (.tldC x y z) := by
  intro hw _
  simp [Instr.wellFormed, SaluF.ok, SimmF.ok, SmemF.ok, VmemF.ok, VgthF.ok, MxqF.ok, ZpkF.ok, CvtF.ok, VpermF.ok, VunpkF.ok, VredF.ok, VpermSF.ok, VcomprF.ok, VidxF.ok, VinsF.ok, VcmpF.ok, VcmpiF.ok, BmemF.ok, maskOnce, policyDflt, attr4_false, dispOk, offOk, disp8Ok, immOk, inRange] at hw
  refine of_reg none none (M := 28) (m := 1) rfl (by simp) (by decide) (by decide) (r81_bounds x) (r27_b40 y) (r27_b40 z) (by decide) (by decide) (by decide) fun w hm hu => ?_
  rw [decWord, hm]; change decMxt _ w = _; unfold decMxt; rw [hu]
  simp_all [fieldOf, need, policyDflt, zeroF, inRange, attr4_false, tyF, laF, pfxF, codeF, noAttr, noSweep, maskF, valuChk, vops3, vops2] <;> (first | tauto | omega | exact ⟨by tauto, by omega⟩)

theorem tst (x : VReg) (y : TReg) (z : SReg) : Statement (.tst x y z) := by
  intro hw _
  simp [Instr.wellFormed, SaluF.ok, SimmF.ok, SmemF.ok, VmemF.ok, VgthF.ok, MxqF.ok, ZpkF.ok, CvtF.ok, VpermF.ok, VunpkF.ok, VredF.ok, VpermSF.ok, VcomprF.ok, VidxF.ok, VinsF.ok, VcmpF.ok, VcmpiF.ok, BmemF.ok, maskOnce, policyDflt, attr4_false, dispOk, offOk, disp8Ok, immOk, inRange] at hw
  refine of_reg none none (M := 28) (m := (-1)) rfl (by simp) (by decide) (by decide) (r81_bounds x) (r27_b40 y) (r27_b40 z) (by decide) (by decide) (by decide) fun w hm hu => ?_
  rw [decWord, hm]; change decMxt _ w = _; unfold decMxt; rw [hu]
  simp_all [fieldOf, need, policyDflt, zeroF, inRange, attr4_false, tyF, laF, pfxF, codeF, noAttr, noSweep, maskF, valuChk, vops3, vops2] <;> (first | tauto | omega | exact ⟨by tauto, by omega⟩)

theorem tstC (x : VReg) (y : TReg) (z : SReg) : Statement (.tstC x y z) := by
  intro hw _
  simp [Instr.wellFormed, SaluF.ok, SimmF.ok, SmemF.ok, VmemF.ok, VgthF.ok, MxqF.ok, ZpkF.ok, CvtF.ok, VpermF.ok, VunpkF.ok, VredF.ok, VpermSF.ok, VcomprF.ok, VidxF.ok, VinsF.ok, VcmpF.ok, VcmpiF.ok, BmemF.ok, maskOnce, policyDflt, attr4_false, dispOk, offOk, disp8Ok, immOk, inRange] at hw
  refine of_reg none none (M := 28) (m := (-1)) rfl (by simp) (by decide) (by decide) (r81_bounds x) (r27_b40 y) (r27_b40 z) (by decide) (by decide) (by decide) fun w hm hu => ?_
  rw [decWord, hm]; change decMxt _ w = _; unfold decMxt; rw [hu]
  simp_all [fieldOf, need, policyDflt, zeroF, inRange, attr4_false, tyF, laF, pfxF, codeF, noAttr, noSweep, maskF, valuChk, vops3, vops2] <;> (first | tauto | omega | exact ⟨by tauto, by omega⟩)

theorem tileMoveLand (team gang : Nat) : Statement (.tileMoveLand team gang) := step_only rfl

theorem twait (x : SReg) : Statement (.twait x) := by
  intro hw _
  simp [Instr.wellFormed, SaluF.ok, SimmF.ok, SmemF.ok, VmemF.ok, VgthF.ok, MxqF.ok, ZpkF.ok, CvtF.ok, VpermF.ok, VunpkF.ok, VredF.ok, VpermSF.ok, VcomprF.ok, VidxF.ok, VinsF.ok, VcmpF.ok, VcmpiF.ok, BmemF.ok, maskOnce, policyDflt, attr4_false, dispOk, offOk, disp8Ok, immOk, inRange] at hw
  refine of_reg none none (M := 28) (m := 2) rfl (by simp) (by decide) (by decide) (r27_b40 x) (by decide) (by decide) (by decide) (by decide) (by decide) fun w hm hu => ?_
  rw [decWord, hm]; change decMxt _ w = _; unfold decMxt; rw [hu]
  simp_all [fieldOf, need, policyDflt, zeroF, inRange, attr4_false, tyF, laF, pfxF, codeF, noAttr, noSweep, maskF, valuChk, vops3, vops2] <;> (first | tauto | omega | exact ⟨by tauto, by omega⟩)

theorem mxseal (x : SReg) : Statement (.mxseal x) := by
  intro hw _
  simp [Instr.wellFormed, SaluF.ok, SimmF.ok, SmemF.ok, VmemF.ok, VgthF.ok, MxqF.ok, ZpkF.ok, CvtF.ok, VpermF.ok, VunpkF.ok, VredF.ok, VpermSF.ok, VcomprF.ok, VidxF.ok, VinsF.ok, VcmpF.ok, VcmpiF.ok, BmemF.ok, maskOnce, policyDflt, attr4_false, dispOk, offOk, disp8Ok, immOk, inRange] at hw
  refine of_reg none none (M := 28) (m := 3) rfl (by simp) (by decide) (by decide) (r27_b40 x) (by decide) (by decide) (by decide) (by decide) (by decide) fun w hm hu => ?_
  rw [decWord, hm]; change decMxt _ w = _; unfold decMxt; rw [hu]
  simp_all [fieldOf, need, policyDflt, zeroF, inRange, attr4_false, tyF, laF, pfxF, codeF, noAttr, noSweep, maskF, valuChk, vops3, vops2] <;> (first | tauto | omega | exact ⟨by tauto, by omega⟩)

theorem mxwait (x : SReg) : Statement (.mxwait x) := by
  intro hw _
  simp [Instr.wellFormed, SaluF.ok, SimmF.ok, SmemF.ok, VmemF.ok, VgthF.ok, MxqF.ok, ZpkF.ok, CvtF.ok, VpermF.ok, VunpkF.ok, VredF.ok, VpermSF.ok, VcomprF.ok, VidxF.ok, VinsF.ok, VcmpF.ok, VcmpiF.ok, BmemF.ok, maskOnce, policyDflt, attr4_false, dispOk, offOk, disp8Ok, immOk, inRange] at hw
  refine of_reg none none (M := 28) (m := (-3)) rfl (by simp) (by decide) (by decide) (r27_b40 x) (by decide) (by decide) (by decide) (by decide) (by decide) fun w hm hu => ?_
  rw [decWord, hm]; change decMxt _ w = _; unfold decMxt; rw [hu]
  simp_all [fieldOf, need, policyDflt, zeroF, inRange, attr4_false, tyF, laF, pfxF, codeF, noAttr, noSweep, maskF, valuChk, vops3, vops2] <;> (first | tauto | omega | exact ⟨by tauto, by omega⟩)

theorem tkgive (x : TReg) (y : SReg) : Statement (.tkgive x y) := by
  intro hw _
  simp [Instr.wellFormed, SaluF.ok, SimmF.ok, SmemF.ok, VmemF.ok, VgthF.ok, MxqF.ok, ZpkF.ok, CvtF.ok, VpermF.ok, VunpkF.ok, VredF.ok, VpermSF.ok, VcomprF.ok, VidxF.ok, VinsF.ok, VcmpF.ok, VcmpiF.ok, BmemF.ok, maskOnce, policyDflt, attr4_false, dispOk, offOk, disp8Ok, immOk, inRange] at hw
  refine of_reg none none (M := 28) (m := 4) rfl (by simp) (by decide) (by decide) (r27_b40 x) (r27_b40 y) (by decide) (by decide) (by decide) (by decide) fun w hm hu => ?_
  rw [decWord, hm]; change decMxt _ w = _; unfold decMxt; rw [hu]
  simp_all [fieldOf, need, policyDflt, zeroF, inRange, attr4_false, tyF, laF, pfxF, codeF, noAttr, noSweep, maskF, valuChk, vops3, vops2] <;> (first | tauto | omega | exact ⟨by tauto, by omega⟩)

theorem tokenPass (team : Nat) (tile : TReg) : Statement (.tokenPass team tile) := step_only rfl

theorem tktake (x : TReg) (y : MReg) : Statement (.tktake x y) := by
  intro hw _
  simp [Instr.wellFormed, SaluF.ok, SimmF.ok, SmemF.ok, VmemF.ok, VgthF.ok, MxqF.ok, ZpkF.ok, CvtF.ok, VpermF.ok, VunpkF.ok, VredF.ok, VpermSF.ok, VcomprF.ok, VidxF.ok, VinsF.ok, VcmpF.ok, VcmpiF.ok, BmemF.ok, maskOnce, policyDflt, attr4_false, dispOk, offOk, disp8Ok, immOk, inRange] at hw
  refine of_reg none none (M := 28) (m := (-4)) rfl (by simp) (by decide) (by decide) (r27_b40 x) (r9_b40 y) (by decide) (by decide) (by decide) (by decide) fun w hm hu => ?_
  rw [decWord, hm]; change decMxt _ w = _; unfold decMxt; rw [hu]
  simp_all [fieldOf, need, policyDflt, zeroF, inRange, attr4_false, tyF, laF, pfxF, codeF, noAttr, noSweep, maskF, valuChk, vops3, vops2] <;> (first | tauto | omega | exact ⟨by tauto, by omega⟩)

theorem qnt (f : MxqF) : Statement (.qnt f) := by
  intro hw _
  simp [Instr.wellFormed, SaluF.ok, SimmF.ok, SmemF.ok, VmemF.ok, VgthF.ok, MxqF.ok, ZpkF.ok, CvtF.ok, VpermF.ok, VunpkF.ok, VredF.ok, VpermSF.ok, VcomprF.ok, VidxF.ok, VinsF.ok, VcmpF.ok, VcmpiF.ok, BmemF.ok, maskOnce, policyDflt, attr4_false, dispOk, offOk, disp8Ok, immOk, inRange] at hw
  refine of_reg f.attr none (M := 29) (m := 0) rfl (by simp) (by decide) (by decide) (r81_bounds f.d) (r81_bounds f.a) (r81_bounds f.b) (r9_bounds f.mask) (r27_bounds f.la) (ty_b13 f.ty) fun w hm hu => ?_
  rw [decWord, hm]; change decMxq _ w = _; unfold decMxq; rw [hu]
  rcases f with ⟨_ | _, _⟩ <;> simp_all [fieldOf, need, policyDflt, zeroF, inRange, attr4_false, tyF, laF, pfxF, codeF, noAttr, noSweep, maskF, valuChk, vops3, vops2] <;> (first | tauto | omega | exact ⟨by tauto, by omega⟩)

theorem dqnt (f : MxqF) : Statement (.dqnt f) := by
  intro hw _
  simp [Instr.wellFormed, SaluF.ok, SimmF.ok, SmemF.ok, VmemF.ok, VgthF.ok, MxqF.ok, ZpkF.ok, CvtF.ok, VpermF.ok, VunpkF.ok, VredF.ok, VpermSF.ok, VcomprF.ok, VidxF.ok, VinsF.ok, VcmpF.ok, VcmpiF.ok, BmemF.ok, maskOnce, policyDflt, attr4_false, dispOk, offOk, disp8Ok, immOk, inRange] at hw
  refine of_reg f.attr none (M := 29) (m := 1) rfl (by simp) (by decide) (by decide) (r81_bounds f.d) (r81_bounds f.a) (r81_bounds f.b) (r9_bounds f.mask) (r27_bounds f.la) (ty_b13 f.ty) fun w hm hu => ?_
  rw [decWord, hm]; change decMxq _ w = _; unfold decMxq; rw [hu]
  rcases f with ⟨_ | _, _⟩ <;> simp_all [fieldOf, need, policyDflt, zeroF, inRange, attr4_false, tyF, laF, pfxF, codeF, noAttr, noSweep, maskF, valuChk, vops3, vops2] <;> (first | tauto | omega | exact ⟨by tauto, by omega⟩)

theorem rqz (f : MxqF) : Statement (.rqz f) := by
  intro hw _
  simp [Instr.wellFormed, SaluF.ok, SimmF.ok, SmemF.ok, VmemF.ok, VgthF.ok, MxqF.ok, ZpkF.ok, CvtF.ok, VpermF.ok, VunpkF.ok, VredF.ok, VpermSF.ok, VcomprF.ok, VidxF.ok, VinsF.ok, VcmpF.ok, VcmpiF.ok, BmemF.ok, maskOnce, policyDflt, attr4_false, dispOk, offOk, disp8Ok, immOk, inRange] at hw
  refine of_reg f.attr none (M := 29) (m := 2) rfl (by simp) (by decide) (by decide) (r81_bounds f.d) (r81_bounds f.a) (r81_bounds f.b) (r9_bounds f.mask) (r27_bounds f.la) (ty_b13 f.ty) fun w hm hu => ?_
  rw [decWord, hm]; change decMxq _ w = _; unfold decMxq; rw [hu]
  rcases f with ⟨_ | _, _⟩ <;> simp_all [fieldOf, need, policyDflt, zeroF, inRange, attr4_false, tyF, laF, pfxF, codeF, noAttr, noSweep, maskF, valuChk, vops3, vops2] <;> (first | tauto | omega | exact ⟨by tauto, by omega⟩)

theorem bscl (f : MxqF) : Statement (.bscl f) := by
  intro hw _
  simp [Instr.wellFormed, SaluF.ok, SimmF.ok, SmemF.ok, VmemF.ok, VgthF.ok, MxqF.ok, ZpkF.ok, CvtF.ok, VpermF.ok, VunpkF.ok, VredF.ok, VpermSF.ok, VcomprF.ok, VidxF.ok, VinsF.ok, VcmpF.ok, VcmpiF.ok, BmemF.ok, maskOnce, policyDflt, attr4_false, dispOk, offOk, disp8Ok, immOk, inRange] at hw
  refine of_reg f.attr none (M := 29) (m := 3) rfl (by simp) (by decide) (by decide) (r81_bounds f.d) (r81_bounds f.a) (r81_bounds f.b) (r9_bounds f.mask) (r27_bounds f.la) (ty_b13 f.ty) fun w hm hu => ?_
  rw [decWord, hm]; change decMxq _ w = _; unfold decMxq; rw [hu]
  rcases f with ⟨_ | _, _⟩ <;> simp_all [fieldOf, need, policyDflt, zeroF, inRange, attr4_false, tyF, laF, pfxF, codeF, noAttr, noSweep, maskF, valuChk, vops3, vops2] <;> (first | tauto | omega | exact ⟨by tauto, by omega⟩)

theorem zpk (f : ZpkF) : Statement (.zpk f) := by
  intro hw _
  simp [Instr.wellFormed, SaluF.ok, SimmF.ok, SmemF.ok, VmemF.ok, VgthF.ok, MxqF.ok, ZpkF.ok, CvtF.ok, VpermF.ok, VunpkF.ok, VredF.ok, VpermSF.ok, VcomprF.ok, VidxF.ok, VinsF.ok, VcmpF.ok, VcmpiF.ok, BmemF.ok, maskOnce, policyDflt, attr4_false, dispOk, offOk, disp8Ok, immOk, inRange] at hw
  refine of_reg f.attr none (M := 29) (m := 4) rfl (by simp) (by decide) (by decide) (r81_bounds f.d) (r81_bounds f.a) (r27_b40 f.sb) (by decide) (by decide) (by decide) fun w hm hu => ?_
  rw [decWord, hm]; change decMxq _ w = _; unfold decMxq; rw [hu]
  rcases f with ⟨_ | _, _⟩ <;> simp_all [fieldOf, need, policyDflt, zeroF, inRange, attr4_false, tyF, laF, pfxF, codeF, noAttr, noSweep, maskF, valuChk, vops3, vops2] <;> (first | tauto | omega | exact ⟨by tauto, by omega⟩)

theorem zupk (f : ZpkF) : Statement (.zupk f) := by
  intro hw _
  simp [Instr.wellFormed, SaluF.ok, SimmF.ok, SmemF.ok, VmemF.ok, VgthF.ok, MxqF.ok, ZpkF.ok, CvtF.ok, VpermF.ok, VunpkF.ok, VredF.ok, VpermSF.ok, VcomprF.ok, VidxF.ok, VinsF.ok, VcmpF.ok, VcmpiF.ok, BmemF.ok, maskOnce, policyDflt, attr4_false, dispOk, offOk, disp8Ok, immOk, inRange] at hw
  refine of_reg f.attr none (M := 29) (m := (-4)) rfl (by simp) (by decide) (by decide) (r81_bounds f.d) (r81_bounds f.a) (r27_b40 f.sb) (by decide) (by decide) (by decide) fun w hm hu => ?_
  rw [decWord, hm]; change decMxq _ w = _; unfold decMxq; rw [hu]
  rcases f with ⟨_ | _, _⟩ <;> simp_all [fieldOf, need, policyDflt, zeroF, inRange, attr4_false, tyF, laF, pfxF, codeF, noAttr, noSweep, maskF, valuChk, vops3, vops2] <;> (first | tauto | omega | exact ⟨by tauto, by omega⟩)

theorem vdot (f : MxqF) : Statement (.vdot f) := by
  intro hw _
  simp [Instr.wellFormed, SaluF.ok, SimmF.ok, SmemF.ok, VmemF.ok, VgthF.ok, MxqF.ok, ZpkF.ok, CvtF.ok, VpermF.ok, VunpkF.ok, VredF.ok, VpermSF.ok, VcomprF.ok, VidxF.ok, VinsF.ok, VcmpF.ok, VcmpiF.ok, BmemF.ok, maskOnce, policyDflt, attr4_false, dispOk, offOk, disp8Ok, immOk, inRange] at hw
  refine of_reg f.attr none (M := 29) (m := 5) rfl (by simp) (by decide) (by decide) (r81_bounds f.d) (r81_bounds f.a) (r81_bounds f.b) (r9_bounds f.mask) (r27_bounds f.la) (ty_b13 f.ty) fun w hm hu => ?_
  rw [decWord, hm]; change decMxq _ w = _; unfold decMxq; rw [hu]
  rcases f with ⟨_ | _, _⟩ <;> simp_all [fieldOf, need, policyDflt, zeroF, inRange, attr4_false, tyF, laF, pfxF, codeF, noAttr, noSweep, maskF, valuChk, vops3, vops2] <;> (first | tauto | omega | exact ⟨by tauto, by omega⟩)

theorem vdotn (f : MxqF) : Statement (.vdotn f) := by
  intro hw _
  simp [Instr.wellFormed, SaluF.ok, SimmF.ok, SmemF.ok, VmemF.ok, VgthF.ok, MxqF.ok, ZpkF.ok, CvtF.ok, VpermF.ok, VunpkF.ok, VredF.ok, VpermSF.ok, VcomprF.ok, VidxF.ok, VinsF.ok, VcmpF.ok, VcmpiF.ok, BmemF.ok, maskOnce, policyDflt, attr4_false, dispOk, offOk, disp8Ok, immOk, inRange] at hw
  refine of_reg f.attr none (M := 29) (m := 6) rfl (by simp) (by decide) (by decide) (r81_bounds f.d) (r81_bounds f.a) (r81_bounds f.b) (r9_bounds f.mask) (r27_bounds f.la) (ty_b13 f.ty) fun w hm hu => ?_
  rw [decWord, hm]; change decMxq _ w = _; unfold decMxq; rw [hu]
  rcases f with ⟨_ | _, _⟩ <;> simp_all [fieldOf, need, policyDflt, zeroF, inRange, attr4_false, tyF, laF, pfxF, codeF, noAttr, noSweep, maskF, valuChk, vops3, vops2] <;> (first | tauto | omega | exact ⟨by tauto, by omega⟩)

theorem portcfg (x y z : SReg) : Statement (.portcfg x y z) := by
  intro hw _
  simp [Instr.wellFormed, SaluF.ok, SimmF.ok, SmemF.ok, VmemF.ok, VgthF.ok, MxqF.ok, ZpkF.ok, CvtF.ok, VpermF.ok, VunpkF.ok, VredF.ok, VpermSF.ok, VcomprF.ok, VidxF.ok, VinsF.ok, VcmpF.ok, VcmpiF.ok, BmemF.ok, maskOnce, policyDflt, attr4_false, dispOk, offOk, disp8Ok, immOk, inRange] at hw
  refine of_reg none none (M := -27) (m := 1) rfl (by simp) (by decide) (by decide) (r27_b40 x) (r27_b40 y) (r27_b40 z) (by decide) (by decide) (by decide) fun w hm hu => ?_
  rw [decWord, hm]; change decPort _ w = _; unfold decPort; rw [hu]
  simp_all [fieldOf, need, policyDflt, zeroF, inRange, attr4_false, tyF, laF, pfxF, codeF, noAttr, noSweep, maskF, valuChk, vops3, vops2] <;> (first | tauto | omega | exact ⟨by tauto, by omega⟩)

theorem post (x y : SReg) : Statement (.post x y) := by
  intro hw _
  simp [Instr.wellFormed, SaluF.ok, SimmF.ok, SmemF.ok, VmemF.ok, VgthF.ok, MxqF.ok, ZpkF.ok, CvtF.ok, VpermF.ok, VunpkF.ok, VredF.ok, VpermSF.ok, VcomprF.ok, VidxF.ok, VinsF.ok, VcmpF.ok, VcmpiF.ok, BmemF.ok, maskOnce, policyDflt, attr4_false, dispOk, offOk, disp8Ok, immOk, inRange] at hw
  refine of_reg none none (M := -27) (m := 2) rfl (by simp) (by decide) (by decide) (r27_b40 x) (r27_b40 y) (by decide) (by decide) (by decide) (by decide) fun w hm hu => ?_
  rw [decWord, hm]; change decPort _ w = _; unfold decPort; rw [hu]
  simp_all [fieldOf, need, policyDflt, zeroF, inRange, attr4_false, tyF, laF, pfxF, codeF, noAttr, noSweep, maskF, valuChk, vops3, vops2] <;> (first | tauto | omega | exact ⟨by tauto, by omega⟩)

theorem postNf (x y : SReg) (m : MReg) : Statement (.postNf x y m) := by
  intro hw _
  simp [Instr.wellFormed, SaluF.ok, SimmF.ok, SmemF.ok, VmemF.ok, VgthF.ok, MxqF.ok, ZpkF.ok, CvtF.ok, VpermF.ok, VunpkF.ok, VredF.ok, VpermSF.ok, VcomprF.ok, VidxF.ok, VinsF.ok, VcmpF.ok, VcmpiF.ok, BmemF.ok, maskOnce, policyDflt, attr4_false, dispOk, offOk, disp8Ok, immOk, inRange] at hw
  refine of_reg none none (M := -27) (m := (-2)) rfl (by simp) (by decide) (by decide) (r27_b40 x) (r27_b40 y) (r9_b40 m) (by decide) (by decide) (by decide) fun w hm hu => ?_
  rw [decWord, hm]; change decPort _ w = _; unfold decPort; rw [hu]
  simp_all [fieldOf, need, policyDflt, zeroF, inRange, attr4_false, tyF, laF, pfxF, codeF, noAttr, noSweep, maskF, valuChk, vops3, vops2] <;> (first | tauto | omega | exact ⟨by tauto, by omega⟩)

theorem patset (x y z : SReg) (p : Int) : Statement (.patset x y z p) := by
  intro hw _
  simp [Instr.wellFormed, SaluF.ok, SimmF.ok, SmemF.ok, VmemF.ok, VgthF.ok, MxqF.ok, ZpkF.ok, CvtF.ok, VpermF.ok, VunpkF.ok, VredF.ok, VpermSF.ok, VcomprF.ok, VidxF.ok, VinsF.ok, VcmpF.ok, VcmpiF.ok, BmemF.ok, maskOnce, policyDflt, attr4_false, dispOk, offOk, disp8Ok, immOk, inRange] at hw
  refine of_reg none none (M := -27) (m := 3) rfl (by simp) (by decide) (by decide) (r27_b40 x) (r27_b40 y) (r27_b40 z) (by decide) (by decide) (by omega) fun w hm hu => ?_
  rw [decWord, hm]; change decPort _ w = _; unfold decPort; rw [hu]
  simp_all [fieldOf, need, policyDflt, zeroF, inRange, attr4_false, tyF, laF, pfxF, codeF, noAttr, noSweep, maskF, valuChk, vops3, vops2] <;> (first | tauto | omega | exact ⟨by tauto, by omega⟩)

theorem paten (x : SReg) : Statement (.paten x) := by
  intro hw _
  simp [Instr.wellFormed, SaluF.ok, SimmF.ok, SmemF.ok, VmemF.ok, VgthF.ok, MxqF.ok, ZpkF.ok, CvtF.ok, VpermF.ok, VunpkF.ok, VredF.ok, VpermSF.ok, VcomprF.ok, VidxF.ok, VinsF.ok, VcmpF.ok, VcmpiF.ok, BmemF.ok, maskOnce, policyDflt, attr4_false, dispOk, offOk, disp8Ok, immOk, inRange] at hw
  refine of_reg none none (M := -27) (m := 4) rfl (by simp) (by decide) (by decide) (r27_b40 x) (by decide) (by decide) (by decide) (by decide) (by decide) fun w hm hu => ?_
  rw [decWord, hm]; change decPort _ w = _; unfold decPort; rw [hu]
  simp_all [fieldOf, need, policyDflt, zeroF, inRange, attr4_false, tyF, laF, pfxF, codeF, noAttr, noSweep, maskF, valuChk, vops3, vops2] <;> (first | tauto | omega | exact ⟨by tauto, by omega⟩)

theorem patdis (x : SReg) : Statement (.patdis x) := by
  intro hw _
  simp [Instr.wellFormed, SaluF.ok, SimmF.ok, SmemF.ok, VmemF.ok, VgthF.ok, MxqF.ok, ZpkF.ok, CvtF.ok, VpermF.ok, VunpkF.ok, VredF.ok, VpermSF.ok, VcomprF.ok, VidxF.ok, VinsF.ok, VcmpF.ok, VcmpiF.ok, BmemF.ok, maskOnce, policyDflt, attr4_false, dispOk, offOk, disp8Ok, immOk, inRange] at hw
  refine of_reg none none (M := -27) (m := (-4)) rfl (by simp) (by decide) (by decide) (r27_b40 x) (by decide) (by decide) (by decide) (by decide) (by decide) fun w hm hu => ?_
  rw [decWord, hm]; change decPort _ w = _; unfold decPort; rw [hu]
  simp_all [fieldOf, need, policyDflt, zeroF, inRange, attr4_false, tyF, laF, pfxF, codeF, noAttr, noSweep, maskF, valuChk, vops3, vops2] <;> (first | tauto | omega | exact ⟨by tauto, by omega⟩)

theorem portqry (x y : SReg) : Statement (.portqry x y) := by
  intro hw _
  simp [Instr.wellFormed, SaluF.ok, SimmF.ok, SmemF.ok, VmemF.ok, VgthF.ok, MxqF.ok, ZpkF.ok, CvtF.ok, VpermF.ok, VunpkF.ok, VredF.ok, VpermSF.ok, VcomprF.ok, VidxF.ok, VinsF.ok, VcmpF.ok, VcmpiF.ok, BmemF.ok, maskOnce, policyDflt, attr4_false, dispOk, offOk, disp8Ok, immOk, inRange] at hw
  refine of_reg none none (M := -27) (m := 5) rfl (by simp) (by decide) (by decide) (r27_b40 x) (r27_b40 y) (by decide) (by decide) (by decide) (by decide) fun w hm hu => ?_
  rw [decWord, hm]; change decPort _ w = _; unfold decPort; rw [hu]
  simp_all [fieldOf, need, policyDflt, zeroF, inRange, attr4_false, tyF, laF, pfxF, codeF, noAttr, noSweep, maskF, valuChk, vops3, vops2] <;> (first | tauto | omega | exact ⟨by tauto, by omega⟩)

theorem sigdec (x y z : SReg) : Statement (.sigdec x y z) := by
  intro hw _
  simp [Instr.wellFormed, SaluF.ok, SimmF.ok, SmemF.ok, VmemF.ok, VgthF.ok, MxqF.ok, ZpkF.ok, CvtF.ok, VpermF.ok, VunpkF.ok, VredF.ok, VpermSF.ok, VcomprF.ok, VidxF.ok, VinsF.ok, VcmpF.ok, VcmpiF.ok, BmemF.ok, maskOnce, policyDflt, attr4_false, dispOk, offOk, disp8Ok, immOk, inRange] at hw
  refine of_reg none none (M := -27) (m := 6) rfl (by simp) (by decide) (by decide) (r27_b40 x) (r27_b40 y) (r27_b40 z) (by decide) (by decide) (by decide) fun w hm hu => ?_
  rw [decWord, hm]; change decPort _ w = _; unfold decPort; rw [hu]
  simp_all [fieldOf, need, policyDflt, zeroF, inRange, attr4_false, tyF, laF, pfxF, codeF, noAttr, noSweep, maskF, valuChk, vops3, vops2] <;> (first | tauto | omega | exact ⟨by tauto, by omega⟩)

theorem sigadd (x y z : SReg) : Statement (.sigadd x y z) := by
  intro hw _
  simp [Instr.wellFormed, SaluF.ok, SimmF.ok, SmemF.ok, VmemF.ok, VgthF.ok, MxqF.ok, ZpkF.ok, CvtF.ok, VpermF.ok, VunpkF.ok, VredF.ok, VpermSF.ok, VcomprF.ok, VidxF.ok, VinsF.ok, VcmpF.ok, VcmpiF.ok, BmemF.ok, maskOnce, policyDflt, attr4_false, dispOk, offOk, disp8Ok, immOk, inRange] at hw
  refine of_reg none none (M := -27) (m := 7) rfl (by simp) (by decide) (by decide) (r27_b40 x) (r27_b40 y) (r27_b40 z) (by decide) (by decide) (by decide) fun w hm hu => ?_
  rw [decWord, hm]; change decPort _ w = _; unfold decPort; rw [hu]
  simp_all [fieldOf, need, policyDflt, zeroF, inRange, attr4_false, tyF, laF, pfxF, codeF, noAttr, noSweep, maskF, valuChk, vops3, vops2] <;> (first | tauto | omega | exact ⟨by tauto, by omega⟩)

theorem sigbind (x y z : SReg) : Statement (.sigbind x y z) := by
  intro hw _
  simp [Instr.wellFormed, SaluF.ok, SimmF.ok, SmemF.ok, VmemF.ok, VgthF.ok, MxqF.ok, ZpkF.ok, CvtF.ok, VpermF.ok, VunpkF.ok, VredF.ok, VpermSF.ok, VcomprF.ok, VidxF.ok, VinsF.ok, VcmpF.ok, VcmpiF.ok, BmemF.ok, maskOnce, policyDflt, attr4_false, dispOk, offOk, disp8Ok, immOk, inRange] at hw
  refine of_reg none none (M := -27) (m := 8) rfl (by simp) (by decide) (by decide) (r27_b40 x) (r27_b40 y) (r27_b40 z) (by decide) (by decide) (by decide) fun w hm hu => ?_
  rw [decWord, hm]; change decPort _ w = _; unfold decPort; rw [hu]
  simp_all [fieldOf, need, policyDflt, zeroF, inRange, attr4_false, tyF, laF, pfxF, codeF, noAttr, noSweep, maskF, valuChk, vops3, vops2] <;> (first | tauto | omega | exact ⟨by tauto, by omega⟩)

theorem heldSignalPostLand (n : Nat) : Statement (.heldSignalPostLand n) := step_only rfl

theorem joinUnitCycle (core : Nat) : Statement (.joinUnitCycle core) := step_only rfl

theorem launch (x : SReg) : Statement (.launch x) := by
  intro hw _
  simp [Instr.wellFormed, SaluF.ok, SimmF.ok, SmemF.ok, VmemF.ok, VgthF.ok, MxqF.ok, ZpkF.ok, CvtF.ok, VpermF.ok, VunpkF.ok, VredF.ok, VpermSF.ok, VcomprF.ok, VidxF.ok, VinsF.ok, VcmpF.ok, VcmpiF.ok, BmemF.ok, maskOnce, policyDflt, attr4_false, dispOk, offOk, disp8Ok, immOk, inRange] at hw
  refine of_reg none none (M := -28) (m := 1) rfl (by simp) (by decide) (by decide) (r27_b40 x) (by decide) (by decide) (by decide) (by decide) (by decide) fun w hm hu => ?_
  rw [decWord, hm]; change decGrid _ w = _; unfold decGrid; rw [hu]
  simp_all [fieldOf, need, policyDflt, zeroF, inRange, attr4_false, tyF, laF, pfxF, codeF, noAttr, noSweep, maskF, valuChk, vops3, vops2] <;> (first | tauto | omega | exact ⟨by tauto, by omega⟩)

theorem redsub (x y : SReg) : Statement (.redsub x y) := by
  intro hw _
  simp [Instr.wellFormed, SaluF.ok, SimmF.ok, SmemF.ok, VmemF.ok, VgthF.ok, MxqF.ok, ZpkF.ok, CvtF.ok, VpermF.ok, VunpkF.ok, VredF.ok, VpermSF.ok, VcomprF.ok, VidxF.ok, VinsF.ok, VcmpF.ok, VcmpiF.ok, BmemF.ok, maskOnce, policyDflt, attr4_false, dispOk, offOk, disp8Ok, immOk, inRange] at hw
  refine of_reg none none (M := -28) (m := 2) rfl (by simp) (by decide) (by decide) (r27_b40 x) (r27_b40 y) (by decide) (by decide) (by decide) (by decide) fun w hm hu => ?_
  rw [decWord, hm]; change decGrid _ w = _; unfold decGrid; rw [hu]
  simp_all [fieldOf, need, policyDflt, zeroF, inRange, attr4_false, tyF, laF, pfxF, codeF, noAttr, noSweep, maskF, valuChk, vops3, vops2] <;> (first | tauto | omega | exact ⟨by tauto, by omega⟩)

theorem redqry (x y : SReg) : Statement (.redqry x y) := by
  intro hw _
  simp [Instr.wellFormed, SaluF.ok, SimmF.ok, SmemF.ok, VmemF.ok, VgthF.ok, MxqF.ok, ZpkF.ok, CvtF.ok, VpermF.ok, VunpkF.ok, VredF.ok, VpermSF.ok, VcomprF.ok, VidxF.ok, VinsF.ok, VcmpF.ok, VcmpiF.ok, BmemF.ok, maskOnce, policyDflt, attr4_false, dispOk, offOk, disp8Ok, immOk, inRange] at hw
  refine of_reg none none (M := -28) (m := 3) rfl (by simp) (by decide) (by decide) (r27_b40 x) (r27_b40 y) (by decide) (by decide) (by decide) (by decide) fun w hm hu => ?_
  rw [decWord, hm]; change decGrid _ w = _; unfold decGrid; rw [hu]
  simp_all [fieldOf, need, policyDflt, zeroF, inRange, attr4_false, tyF, laF, pfxF, codeF, noAttr, noSweep, maskF, valuChk, vops3, vops2] <;> (first | tauto | omega | exact ⟨by tauto, by omega⟩)

theorem trcev (x : SReg) (c : Int) : Statement (.trcev x c) := by
  intro hw _
  simp [Instr.wellFormed, SaluF.ok, SimmF.ok, SmemF.ok, VmemF.ok, VgthF.ok, MxqF.ok, ZpkF.ok, CvtF.ok, VpermF.ok, VunpkF.ok, VredF.ok, VpermSF.ok, VcomprF.ok, VidxF.ok, VinsF.ok, VcmpF.ok, VcmpiF.ok, BmemF.ok, maskOnce, policyDflt, attr4_false, dispOk, offOk, disp8Ok, immOk, inRange] at hw
  refine of_bra (M := -29) (m := 1) rfl (by decide) (by decide) (r27_b40 x) (by omega) fun w hm hu => ?_
  rw [decWord, hm]; change decDbg _ w = _; unfold decDbg; rw [hu]
  simp_all [fieldOf, need, policyDflt, zeroF, inRange, attr4_false, tyF, laF, pfxF, codeF, noAttr, noSweep, maskF, valuChk, vops3, vops2] <;> (first | tauto | omega | exact ⟨by tauto, by omega⟩)

theorem trcctlStart (x : SReg) : Statement (.trcctlStart x) := by
  intro hw _
  simp [Instr.wellFormed, SaluF.ok, SimmF.ok, SmemF.ok, VmemF.ok, VgthF.ok, MxqF.ok, ZpkF.ok, CvtF.ok, VpermF.ok, VunpkF.ok, VredF.ok, VpermSF.ok, VcomprF.ok, VidxF.ok, VinsF.ok, VcmpF.ok, VcmpiF.ok, BmemF.ok, maskOnce, policyDflt, attr4_false, dispOk, offOk, disp8Ok, immOk, inRange] at hw
  refine of_bra (M := -29) (m := 2) rfl (by decide) (by decide) (r27_b40 x) (by decide) fun w hm hu => ?_
  rw [decWord, hm]; change decDbg _ w = _; unfold decDbg; rw [hu]
  simp_all [fieldOf, need, policyDflt, zeroF, inRange, attr4_false, tyF, laF, pfxF, codeF, noAttr, noSweep, maskF, valuChk, vops3, vops2] <;> (first | tauto | omega | exact ⟨by tauto, by omega⟩)

theorem trcctlStop (x : SReg) : Statement (.trcctlStop x) := by
  intro hw _
  simp [Instr.wellFormed, SaluF.ok, SimmF.ok, SmemF.ok, VmemF.ok, VgthF.ok, MxqF.ok, ZpkF.ok, CvtF.ok, VpermF.ok, VunpkF.ok, VredF.ok, VpermSF.ok, VcomprF.ok, VidxF.ok, VinsF.ok, VcmpF.ok, VcmpiF.ok, BmemF.ok, maskOnce, policyDflt, attr4_false, dispOk, offOk, disp8Ok, immOk, inRange] at hw
  refine of_bra (M := -29) (m := 2) rfl (by decide) (by decide) (r27_b40 x) (by decide) fun w hm hu => ?_
  rw [decWord, hm]; change decDbg _ w = _; unfold decDbg; rw [hu]
  simp_all [fieldOf, need, policyDflt, zeroF, inRange, attr4_false, tyF, laF, pfxF, codeF, noAttr, noSweep, maskF, valuChk, vops3, vops2] <;> (first | tauto | omega | exact ⟨by tauto, by omega⟩)

theorem trcctlFlush (x : SReg) : Statement (.trcctlFlush x) := by
  intro hw _
  simp [Instr.wellFormed, SaluF.ok, SimmF.ok, SmemF.ok, VmemF.ok, VgthF.ok, MxqF.ok, ZpkF.ok, CvtF.ok, VpermF.ok, VunpkF.ok, VredF.ok, VpermSF.ok, VcomprF.ok, VidxF.ok, VinsF.ok, VcmpF.ok, VcmpiF.ok, BmemF.ok, maskOnce, policyDflt, attr4_false, dispOk, offOk, disp8Ok, immOk, inRange] at hw
  refine of_bra (M := -29) (m := 2) rfl (by decide) (by decide) (r27_b40 x) (by decide) fun w hm hu => ?_
  rw [decWord, hm]; change decDbg _ w = _; unfold decDbg; rw [hu]
  simp_all [fieldOf, need, policyDflt, zeroF, inRange, attr4_false, tyF, laF, pfxF, codeF, noAttr, noSweep, maskF, valuChk, vops3, vops2] <;> (first | tauto | omega | exact ⟨by tauto, by omega⟩)

theorem prfctl (x : SReg) (k : Nat) : Statement (.prfctl x k) := by
  intro hw _
  have h : k = 0 ∨ 6 ≤ k ∧ k ≤ 18 := by simpa [Instr.wellFormed, prfOk] using hw
  refine of_bra (M := (-29)) (m := 3) rfl (by decide) (by decide) (r27_b40 x) (by omega) fun w hm hu => ?_
  rw [decWord, hm]; change decDbg _ w = _; unfold decDbg; rw [hu]
  simp [fieldOf, need, codeF, noAttr, noSweep, prfOk, h]

theorem watch (x : SReg) (n : Fin 27) : Statement (.watch x n) := by
  intro hw _
  simp [Instr.wellFormed, SaluF.ok, SimmF.ok, SmemF.ok, VmemF.ok, VgthF.ok, MxqF.ok, ZpkF.ok, CvtF.ok, VpermF.ok, VunpkF.ok, VredF.ok, VpermSF.ok, VcomprF.ok, VidxF.ok, VinsF.ok, VcmpF.ok, VcmpiF.ok, BmemF.ok, maskOnce, policyDflt, attr4_false, dispOk, offOk, disp8Ok, immOk, inRange] at hw
  refine of_bra (M := -29) (m := 4) rfl (by decide) (by decide) (r27_b40 x) (by omega) fun w hm hu => ?_
  rw [decWord, hm]; change decDbg _ w = _; unfold decDbg; rw [hu]
  simp_all [fieldOf, need, policyDflt, zeroF, inRange, attr4_false, tyF, laF, pfxF, codeF, noAttr, noSweep, maskF, valuChk, vops3, vops2] <;> (first | tauto | omega | exact ⟨by tauto, by omega⟩)

theorem unwatch (n : Fin 27) : Statement (.unwatch n) := by
  intro hw _
  simp [Instr.wellFormed, SaluF.ok, SimmF.ok, SmemF.ok, VmemF.ok, VgthF.ok, MxqF.ok, ZpkF.ok, CvtF.ok, VpermF.ok, VunpkF.ok, VredF.ok, VpermSF.ok, VcomprF.ok, VidxF.ok, VinsF.ok, VcmpF.ok, VcmpiF.ok, BmemF.ok, maskOnce, policyDflt, attr4_false, dispOk, offOk, disp8Ok, immOk, inRange] at hw
  refine of_bra (M := -29) (m := (-4)) rfl (by decide) (by decide) (by decide) (by omega) fun w hm hu => ?_
  rw [decWord, hm]; change decDbg _ w = _; unfold decDbg; rw [hu]
  simp_all [fieldOf, need, policyDflt, zeroF, inRange, attr4_false, tyF, laF, pfxF, codeF, noAttr, noSweep, maskF, valuChk, vops3, vops2] <;> (first | tauto | omega | exact ⟨by tauto, by omega⟩)

theorem dbgwin (x : SReg) (n : Fin 9) : Statement (.dbgwin x n) := by
  intro hw _
  simp [Instr.wellFormed, SaluF.ok, SimmF.ok, SmemF.ok, VmemF.ok, VgthF.ok, MxqF.ok, ZpkF.ok, CvtF.ok, VpermF.ok, VunpkF.ok, VredF.ok, VpermSF.ok, VcomprF.ok, VidxF.ok, VinsF.ok, VcmpF.ok, VcmpiF.ok, BmemF.ok, maskOnce, policyDflt, attr4_false, dispOk, offOk, disp8Ok, immOk, inRange] at hw
  refine of_bra (M := -29) (m := 5) rfl (by decide) (by decide) (r27_b40 x) (by omega) fun w hm hu => ?_
  rw [decWord, hm]; change decDbg _ w = _; unfold decDbg; rw [hu]
  simp_all [fieldOf, need, policyDflt, zeroF, inRange, attr4_false, tyF, laF, pfxF, codeF, noAttr, noSweep, maskF, valuChk, vops3, vops2] <;> (first | tauto | omega | exact ⟨by tauto, by omega⟩)

theorem haltg (x : SReg) : Statement (.haltg x) := by
  intro hw _
  simp [Instr.wellFormed, SaluF.ok, SimmF.ok, SmemF.ok, VmemF.ok, VgthF.ok, MxqF.ok, ZpkF.ok, CvtF.ok, VpermF.ok, VunpkF.ok, VredF.ok, VpermSF.ok, VcomprF.ok, VidxF.ok, VinsF.ok, VcmpF.ok, VcmpiF.ok, BmemF.ok, maskOnce, policyDflt, attr4_false, dispOk, offOk, disp8Ok, immOk, inRange] at hw
  refine of_bra (M := -29) (m := 6) rfl (by decide) (by decide) (r27_b40 x) (by decide) fun w hm hu => ?_
  rw [decWord, hm]; change decDbg _ w = _; unfold decDbg; rw [hu]
  simp_all [fieldOf, need, policyDflt, zeroF, inRange, attr4_false, tyF, laF, pfxF, codeF, noAttr, noSweep, maskF, valuChk, vops3, vops2] <;> (first | tauto | omega | exact ⟨by tauto, by omega⟩)

theorem resmg (x : SReg) : Statement (.resmg x) := by
  intro hw _
  simp [Instr.wellFormed, SaluF.ok, SimmF.ok, SmemF.ok, VmemF.ok, VgthF.ok, MxqF.ok, ZpkF.ok, CvtF.ok, VpermF.ok, VunpkF.ok, VredF.ok, VpermSF.ok, VcomprF.ok, VidxF.ok, VinsF.ok, VcmpF.ok, VcmpiF.ok, BmemF.ok, maskOnce, policyDflt, attr4_false, dispOk, offOk, disp8Ok, immOk, inRange] at hw
  refine of_bra (M := -29) (m := (-6)) rfl (by decide) (by decide) (r27_b40 x) (by decide) fun w hm hu => ?_
  rw [decWord, hm]; change decDbg _ w = _; unfold decDbg; rw [hu]
  simp_all [fieldOf, need, policyDflt, zeroF, inRange, attr4_false, tyF, laF, pfxF, codeF, noAttr, noSweep, maskF, valuChk, vops3, vops2] <;> (first | tauto | omega | exact ⟨by tauto, by omega⟩)

theorem timerd (d : SReg) (sel : TimeSel) : Statement (.timerd d sel) := by
  intro hw _
  refine of_bra (M := (-29)) (m := 7) rfl (by decide) (by decide) (r27_b40 d) (by cases sel <;> decide) fun w hm hu => ?_
  rw [decWord, hm]; change decDbg _ w = _; unfold decDbg; rw [hu]
  cases sel <;> simp [fieldOf, need, codeF, noAttr, noSweep, inRange]

theorem accrd (d : SReg) (a : Nat) (c : Nat) : Statement (.accrd d a c) := by
  intro hw _
  have h : a ≤ 242 ∧ counterOk c = true := by simpa [Instr.wellFormed] using hw
  have hc : c ≤ 22 := by have := h.2; simp [counterOk] at this; omega
  have e1 : (27 * (a : Int) + (c : Int)) % 27 = c := by omega
  have e2 : ((27 * (a : Int) + (c : Int)) / 27).toNat = a := by omega
  refine of_bra (M := (-29)) (m := 8) rfl (by decide) (by decide) (r27_b40 d) (by omega) fun w hm hu => ?_
  rw [decWord, hm]; change decDbg _ w = _; unfold decDbg; rw [hu]
  have e3 : inRange 0 6560 (27 * (a : Int) + (c : Int)) = true := by simp [inRange]; omega
  have e4 : ¬ ((c : Int) = 26) := by omega
  simp [fieldOf, need, codeF, noAttr, noSweep, accOk, e1, e2, e3, e4, h.2]

theorem accrdSnapshot (d : SReg) (a : Nat) : Statement (.accrdSnapshot d a) := by
  intro hw _
  have h : a ≤ 242 := by simpa [Instr.wellFormed] using hw
  have e1 : (27 * (a : Int) + 26) % 27 = 26 := by omega
  have e2 : ((27 * (a : Int) + 26) / 27).toNat = a := by omega
  refine of_bra (M := (-29)) (m := 8) rfl (by decide) (by decide) (r27_b40 d) (by omega) fun w hm hu => ?_
  rw [decWord, hm]; change decDbg _ w = _; unfold decDbg; rw [hu]
  have e3 : inRange 0 6560 (27 * (a : Int) + 26) = true := by simp [inRange]; omega
  simp [fieldOf, need, codeF, noAttr, noSweep, accOk, e1, e2, e3]

theorem engineWatchStop (team gang : Nat) : Statement (.engineWatchStop team gang) := step_only rfl

theorem gridCompletion (grid : Nat) : Statement (.gridCompletion grid) := step_only rfl

theorem teamEnd (team : Nat) : Statement (.teamEnd team) := step_only rfl

theorem distributorPlace : Statement (.distributorPlace) := step_only rfl

theorem highPriorityWaitExpiry : Statement (.highPriorityWaitExpiry) := step_only rfl

theorem midPhaseSaveWrite (team : Nat) : Statement (.midPhaseSaveWrite team) := step_only rfl

theorem queueEntryProcess (port : Fin 2) (q : Fin 27) : Statement (.queueEntryProcess port q) := step_only rfl

theorem queueTailWrite (port : Fin 2) (q : Fin 27) (tail : Nat) : Statement (.queueTailWrite port q tail) := step_only rfl

theorem queueStateWrite (port : Fin 2) (q : Fin 27) (st : Nat) : Statement (.queueStateWrite port q st) := step_only rfl

theorem contextCreate (port : Fin 2) (c : CtxCreate) : Statement (.contextCreate port c) := step_only rfl

theorem contextDestroy (port : Fin 2) (ctx : Nat) : Statement (.contextDestroy port ctx) := step_only rfl

theorem openLanding (port : Fin 2) (ctx peer peerCtx : Nat) : Statement (.openLanding port ctx peer peerCtx) := step_only rfl

theorem closeLanding (port : Fin 2) (ctx peer peerCtx : Nat) : Statement (.closeLanding port ctx peer peerCtx) := step_only rfl

theorem registerWrite (port : Fin 2) (off : Nat) (bytes : List Byte) : Statement (.registerWrite port off bytes) := step_only rfl

theorem rawWindowWrite (w : WinWrite) : Statement (.rawWindowWrite w) := step_only rfl

theorem rawWindowRead (r : WinRead) : Statement (.rawWindowRead r) := step_only rfl

theorem integerWindowWrite (w : WinWrite) : Statement (.integerWindowWrite w) := step_only rfl

theorem integerWindowRead (r : WinRead) : Statement (.integerWindowRead r) := step_only rfl

theorem floatWindowWrite (w : WinWrite) : Statement (.floatWindowWrite w) := step_only rfl

theorem floatWindowRead (r : WinRead) : Statement (.floatWindowRead r) := step_only rfl

theorem physicalWindowWrite (w : WinWrite) : Statement (.physicalWindowWrite w) := step_only rfl

theorem physicalWindowRead (r : WinRead) : Statement (.physicalWindowRead r) := step_only rfl

theorem flitReceive (port : Fin 27) (f : Flit) : Statement (.flitReceive port f) := step_only rfl

theorem remoteRequestServe : Statement (.remoteRequestServe) := step_only rfl

theorem portDiscovery (port : Fin 27) (n : Placement) : Statement (.portDiscovery port n) := step_only rfl

theorem linkDownTimeout (port : Fin 27) : Statement (.linkDownTimeout port) := step_only rfl

theorem moduleFence (m : Nat) : Statement (.moduleFence m) := step_only rfl

theorem fenceAnnouncement (m : Nat) : Statement (.fenceAnnouncement m) := step_only rfl

theorem peerFreeze (m : Nat) : Statement (.peerFreeze m) := step_only rfl

theorem reductionContributionArrive : Statement (.reductionContributionArrive) := step_only rfl

theorem flagFall (key : Int) : Statement (.flagFall key) := step_only rfl

theorem rootWrite (key : Int) : Statement (.rootWrite key) := step_only rfl

theorem rootWriteTimeout (key : Int) : Statement (.rootWriteTimeout key) := step_only rfl

theorem correctionApply (key : Int) : Statement (.correctionApply key) := step_only rfl

theorem reductionClose (key : Int) : Statement (.reductionClose key) := step_only rfl

theorem reductionMapExpiry (key : Int) : Statement (.reductionMapExpiry key) := step_only rfl

theorem syncRecordPeriodic (agency source cycle : Nat) : Statement (.syncRecordPeriodic agency source cycle) := step_only rfl

theorem sampleTick (core sched cycle : Nat) : Statement (.sampleTick core sched cycle) := step_only rfl

theorem traceHoldDrain (agency source : Nat) : Statement (.traceHoldDrain agency source) := step_only rfl

theorem clusterPowerGate (cluster : Nat) (forced : Bool) : Statement (.clusterPowerGate cluster forced) := step_only rfl

theorem ptpMessage (p : PtpUpdate) : Statement (.ptpMessage p) := step_only rfl

theorem moduleReset : Statement (.moduleReset) := step_only rfl

theorem bootImageLoad (k : ImageKind) : Statement (.bootImageLoad k) := step_only rfl

theorem functionReady (f : Function) : Statement (.functionReady f) := step_only rfl

theorem getVersion (e : Endpoint) : Statement (.getVersion e) := step_only rfl

theorem getCapabilities (e : Endpoint) : Statement (.getCapabilities e) := step_only rfl

theorem negotiateAlgorithms (e : Endpoint) (mldsa44 sha3 : Bool) : Statement (.negotiateAlgorithms e mldsa44 sha3) := step_only rfl

theorem getDigests (e : Endpoint) : Statement (.getDigests e) := step_only rfl

theorem getCertificate (e : Endpoint) (slot : Nat) : Statement (.getCertificate e slot) := step_only rfl

theorem challenge (e : Endpoint) (slot : Nat) (nonce : List Byte) : Statement (.challenge e slot nonce) := step_only rfl

theorem getMeasurements (e : Endpoint) (idx : Nat) : Statement (.getMeasurements e idx) := step_only rfl

theorem placementRecordWrite (p : Placement) (bytes : Framed (List Byte)) : Statement (.placementRecordWrite p bytes) := step_only rfl

theorem signedSnapshot (agency : Nat) (nonce : Framed (List Byte)) : Statement (.signedSnapshot agency nonce) := step_only rfl

theorem flashWrite (k : ImageKind) (img : Framed Image) : Statement (.flashWrite k img) := step_only rfl

theorem selfTestComplete (u : TestUnit) (lasting : Bool) : Statement (.selfTestComplete u lasting) := step_only rfl

theorem thermalThrottle (die temp : Nat) : Statement (.thermalThrottle die temp) := step_only rfl

theorem thermalShutdown (die temp : Nat) : Statement (.thermalShutdown die temp) := step_only rfl

theorem contributionSourceRead (ctx red : Nat) : Statement (.contributionSourceRead ctx red) := step_only rfl

theorem leaseExpiry (core line : Nat) : Statement (.leaseExpiry core line) := step_only rfl

theorem fabricTimeHoldover (die : Nat) (err : Nat) : Statement (.fabricTimeHoldover die err) := step_only rfl

theorem malformedManagementFrame (kind len datagram : Nat) : Statement (.malformedManagementFrame kind len datagram) := step_only rfl

theorem energyEstimateUpdate : Statement (.energyEstimateUpdate) := step_only rfl

theorem residencyCycleCount : Statement (.residencyCycleCount) := step_only rfl

theorem gatedClusterRestart (cluster : Nat) : Statement (.gatedClusterRestart cluster) := step_only rfl

end Sys2Proof.Laws.RoundTrip
end

