-- ==== Sys2Proof/Safety.lean ====
section
/-!
DEFINITION. What claims about the machine are stated in: reading one register, program counter or tryte of memory of a
state, the canonical form of memory, what a safe step is, when an issue set issues undisturbed, and what an instruction
that writes registers of its gang leaves as it is.
-/
namespace Sys2Proof.Machine

/-- A step that neither stops the machine with a fault nor is refused. -/
def Answer.safe (a : Answer) : Bool := match a with | .next _ => true | _ => false

/-- The canonical form of HBM4's contents (INVENTORY, State). -/
def Mem.wf (m : Mem) : Bool := wfZ m.hbm

/-- Scalar register r of a slice of a gang, 0 where there is none. -/
def State.sreg (s : State) (t g k : Nat) (r : SReg) : Int := match s.gang? t g with | some x => (x.slice k).get r | none => 0

/-- Slice k of a gang. -/
def State.slc (s : State) (t g k : Nat) : Slice := match s.gang? t g with | some x => x.slice k | none => Slice.none

/-- The program counter of a slice. -/
def State.pcOf (s : State) (t g k : Nat) : Int := match s.gang? t g with | some x => (x.slice k).pc | none => 0

/-- Lane i of vector register r of a gang. -/
def State.vlane (s : State) (t g : Nat) (r : VReg) (i : Nat) : Int := match s.gang? t g with | some x => x.lane r i | none => 0

/-- Mask register r of a gang. -/
def State.mreg (s : State) (t g : Nat) (r : MReg) : Int := match s.gang? t g with | some x => x.mask r | none => 0

/-- sr.flags of a gang. -/
def State.flagsOf (s : State) (t g : Nat) : Int := match s.gang? t g with | some x => x.flags | none => 0

/-- sr.mode of a gang. -/
def State.modeOf (s : State) (t g : Nat) : Int := match s.gang? t g with | some x => x.mode | none => 0

/-- The generator of a lane of a gang (R27). -/
def State.genOf (s : State) (t g i : Nat) : Int := match s.gang? t g with | some x => getZ i x.gens | none => 0

/-- The results of a gang that have not landed, but for what is left of their windows (R50). -/
def State.pendingOf (s : State) (t g : Nat) : List Pending :=
  match s.gang? t g with | some x => x.pending.map fun p => { p with remaining := 0 } | none => []

/-- The results of a gang that have not landed. -/
def State.pendsOf (s : State) (t g : Nat) : List Pending := match s.gang? t g with | some x => x.pending | none => []

/-- Tryte p of HBM4. -/
def State.hbmAt (s : State) (p : Nat) : Int := getZ p s.mem.hbm

/-- Tryte o of a team's scratchpad. -/
def State.scratchAt (s : State) (t o : Nat) : Int := match s.team? t with | some x => getZ o x.scratch | none => 0

/-- What stands at a place of storage, a peer's tryte apart. -/
def State.at_ (s : State) (l : Loc) : Int := s.readLoc false l

/-- The state in which an instruction of issue set x finds its gang: results whose window is used up have landed, all of
them before an instruction that ends windows, none within a sweep (R50, R52, R59). -/
def State.settled (s : State) (ends : Bool) (x : Iss) : State := x.landDue ends s

/-- The state in which the next instruction takes its effect, with the issue set that executes it. -/
def State.issuing (s : State) (ends : Bool) : Option (State × Iss) :=
  match s.iss? with
  | none => none
  | some x0 =>
    match (s.settled ends x0).iss? with
    | none => none
    | some x => some (s.settled ends x0, x)

/-- Issue set x issues from s, and finds s0: its slices are the gang's, and no record of its agency waits for room (R440). -/
structure Issues (s : State) (ends : Bool) (s0 : State) (x : Iss) : Prop where
  found  : s.issuing ends = some (s0, x)
  quiet  : s0.heldRecords x.ctx.agency = 0
  inGang : ∀ k ∈ x.slices, k < x.gang.slices.length ∧ k < 9

/-- No comparator is armed for the gang. -/
def Unwatched (s : State) (x : Iss) : Prop := ∀ w ∈ s.scope.watches, w.targets s x = false

/-- No pending result of the issue set is to land in a register of the list (R51). -/
def Iss.clear (x : Iss) (ds : List Dest) : Prop := ∀ p ∈ x.gang.pending, p.meets x.slices = true → p.dest ∉ ds

/-- The gang may name the vector registers: their blocks are held (R79), or a handler has them banked (R259), and no tile load is
still to write one (R296). -/
def Iss.mayName (x : Iss) (rs : List VReg) : Prop :=
  ∀ r ∈ rs, (x.gang.holds (r.val / 9) || (x.gang.inHandler && decide (72 ≤ r.val))) = true ∧ x.gang.landing r = false

/-- What an instruction writes of its gang: scalar registers by slice, lanes of vector registers, masks, generators by lane,
whether the flags and the mode, whether it opens
windows, the elements that it counts for its agency (R465), whether its slices may part into sub-gangs (R133), whether
it touches lines of memory (R164, R186) or stores, and to which trytes of HBM4. -/
structure Writes where
  sca   : Nat → SReg → Prop := fun _ _ => False
  vec   : VReg → Nat → Prop := fun _ _ => False
  msk   : MReg → Prop := fun _ => False
  gen   : Nat → Prop := fun _ => False
  flags : Prop := False
  mode  : Prop := False
  opens : Prop := False
  counted : Option Nat := none
  parts : Bool := false
  touch : Bool := false
  store : Bool := false
  hbm   : Nat → Prop := fun _ => False

/-- The state without its teams, without the list of stalls kept for Periscope and without requests to peers. -/
def State.beyond (s : State) : State :=
  { s with teams := [], scope := { s.scope with stallAt := [] }, fab := { s.fab with waits := [] } }

/-- The state without what touching lines changes (cache, leases, the forms of slots, counters: R163, R178, R186, R465), and without
what stores change (memory, chip scratchpads, what scratchpads hold of ended teams). -/
def State.cut (touch store : Bool) (s : State) : State :=
  let a : State := if touch then { s with mem := { s.mem with cache := [], leases := [], comp := [] }, hub := { s.hub with counters := [], accesses := [] } } else s
  if store then
    { a with mem := { a.mem with hbm := [], binLines := [], badLines := [], comp := [], residue := [], wlog := [] },
             grids := a.grids.map fun g => { g with chip := [] } }
  else a

/-- A team without its gangs. -/
def Team.bare (t : Team) : Team := { t with gangs := [] }

/-- A gang without what instructions on registers write; without the pointer to its next sub-gang too when p says so. -/
def Gang.bare (p : Bool) (g : Gang) : Gang :=
  { g with slices := [], v := [], m := [], mode := 0, flags := 0, gens := [], pending := [], exempt := false,
           subPtr := if p then 0 else g.subPtr }

/-- A slice without its program counter, its registers and the reason of its last stall; without its sub-gang too when p says
so. -/
def Slice.bare (p : Bool) (x : Slice) : Slice := { x with pc := 0, s := [], stall := .none, sub := if p then 0 else x.sub }

/-- What is kept of state s in t, and written of the gang of issue set x at most as w says: memory and everything that is no team,
the other gangs, registers, masks, generators, flags and mode. -/
structure Kept (s t : State) (x : Iss) (w : Writes) : Prop where
  memory : ∀ p, ¬ w.hbm p → t.hbmAt p = s.hbmAt p
  beyond : t.beyond.cut w.touch w.store =
    (match w.counted with | some n => s.count x.ctx.agency 3 n | none => s).beyond.cut w.touch w.store
  others : ∀ a b, (a, b) ≠ (x.issue.team, x.issue.gang) → t.gang? a b = s.gang? a b
  sca    : ∀ k r, ¬ w.sca k r → t.sreg x.issue.team x.issue.gang k r = s.sreg x.issue.team x.issue.gang k r
  vec    : ∀ r i, i < 27 → ¬ w.vec r i → t.vlane x.issue.team x.issue.gang r i = s.vlane x.issue.team x.issue.gang r i
  msk    : ∀ r, ¬ w.msk r → t.mreg x.issue.team x.issue.gang r = s.mreg x.issue.team x.issue.gang r
  gen    : ∀ i, ¬ w.gen i → t.genOf x.issue.team x.issue.gang i = s.genOf x.issue.team x.issue.gang i
  flags  : ¬ w.flags → t.flagsOf x.issue.team x.issue.gang = s.flagsOf x.issue.team x.issue.gang
  mode   : ¬ w.mode → t.modeOf x.issue.team x.issue.gang = s.modeOf x.issue.team x.issue.gang

/-- t is s but for what w names of the gang of issue set x, the elements counted, the windows of its pending results, and the
program counters of the issue set. -/
structure Frame (s t : State) (x : Iss) (w : Writes) : Prop extends Kept s t x w where
  teams  : t.teams.map Team.bare = s.teams.map Team.bare
  gang   : (t.gang? x.issue.team x.issue.gang).map (Gang.bare w.parts) = (s.gang? x.issue.team x.issue.gang).map (Gang.bare w.parts)
  slices : ∀ g h, s.gang? x.issue.team x.issue.gang = some g → t.gang? x.issue.team x.issue.gang = some h →
    h.slices.length = g.slices.length ∧ ∀ k, if k ∈ x.slices then (h.slice k).bare w.parts = (g.slice k).bare w.parts else
      ((h.slice k).pc = (g.slice k).pc ∧ (h.slice k).stall = (g.slice k).stall ∧ (h.slice k).bare false = (g.slice k).bare false)
  opens  : ¬ w.opens → t.pendingOf x.issue.team x.issue.gang = s.pendingOf x.issue.team x.issue.gang

/-- Every slice of the issue set continues after the instruction. -/
def GoesOn (s t : State) (x : Iss) : Prop :=
  ∀ k ∈ x.slices, t.pcOf x.issue.team x.issue.gang k = s.pcOf x.issue.team x.issue.gang k + 3 * (x.issue.words.length : Int)

/-- The windows that an instruction may open: those of its issue set beside those open already (R267). -/
def Iss.room (x : Iss) (n : Nat) : Prop := x.gang.shown.length + n ≤ 27

/-- The generators of lanes have been advanced, each by its number of draws (R27). -/
def Spent (s t : State) (x : Iss) (ws : List (Nat × Nat)) : Prop :=
  (ws.map Prod.fst).Nodup → ∀ w ∈ ws, t.genOf x.issue.team x.issue.gang w.1 = iter genNext w.2 (s.genOf x.issue.team x.issue.gang w.1)

/-- The flags of results merged into sr.flags (R31). -/
def Raised (s t : State) (x : Iss) (fs : List FlagSet) : Prop :=
  t.flagsOf x.issue.team x.issue.gang = joinF (s.flagsOf x.issue.team x.issue.gang) (joinAll fs)

/-- Instruction i completes from s for issue set x, which found state s0: its slices go on, what w names is written, and p
holds of the next state. -/
def Runs (i : Instr) (s s0 : State) (x : Iss) (w : Writes) (p : State → Prop) : Prop :=
  ∃ t, exec i s = .next t ∧ GoesOn s0 t x ∧ Frame s0 t x w ∧ p t

/-- Instruction i with scalar destination d and window la completes, with the result res k in slice k: at once (R31, R76) or
as a pending result (R50). spent is what it draws of the generators. -/
def RunsScalar (i : Instr) (s s0 : State) (x : Iss) (la : Fin 27) (d : SReg) (spent : List (Nat × Nat)) (res : Nat → Res)
    (touch : Bool := false) : Prop :=
  Runs i s s0 x { sca := fun k r => la = 0 ∧ k ∈ x.slices ∧ r = d ∧ d ≠ 0, flags := la = 0, opens := la ≠ 0,
                  gen := fun l => l ∈ spent.map Prod.fst, touch := touch } fun t =>
    Spent s0 t x spent ∧
    (la = 0 → (∀ k ∈ x.slices, d ≠ 0 → t.sreg x.issue.team x.issue.gang k d = (res k).val) ∧
      Raised s0 t x (x.slices.map fun k => (res k).flags)) ∧
    (la ≠ 0 → ∀ k ∈ x.slices,
      { slices := [k], dest := .sca k d, writes := [(0, (res k).val)], flags := (res k).flags, remaining := la.val } ∈
        t.pendsOf x.issue.team x.issue.gang)

/-- Instruction i with vector destination d and window la completes: lanes of run receive the results res, lanes of zero the
zero word, others keep their content (R56), at once or as a pending result. n elements are counted (R465). -/
def RunsVector (i : Instr) (s s0 : State) (x : Iss) (la : Fin 27) (d : VReg) (run zero : List Nat) (spent : List (Nat × Nat))
    (n : Option Nat) (res : Nat → Res) (touch : Bool := false) : Prop :=
  Runs i s s0 x { vec := fun r j => la = 0 ∧ r = d ∧ (j ∈ run ∨ j ∈ zero), flags := la = 0, opens := la ≠ 0,
                  gen := fun l => l ∈ spent.map Prod.fst, counted := n, touch := touch } fun t =>
    Spent s0 t x spent ∧
    (la = 0 → (∀ j ∈ run, j ∉ zero → t.vlane x.issue.team x.issue.gang d j = (res j).val) ∧
      (∀ j ∈ zero, t.vlane x.issue.team x.issue.gang d j = 0) ∧ Raised s0 t x (run.map fun j => (res j).flags)) ∧
    (la ≠ 0 →
      { slices := x.slices, dest := .vec d, writes := (run.map fun j => (j, (res j).val)) ++ zero.map fun j => (j, 0),
        flags := joinAll (run.map fun j => (res j).flags), remaining := la.val } ∈ t.pendsOf x.issue.team x.issue.gang)

/-- The draws that lanes or slices make, each n, when the mode in force is stochastic (R27). -/
def drawsOf (rnd : Rnd) (ls : List Nat) (n : Nat) : List (Nat × Nat) := if rnd = .stoch ∧ n ≠ 0 then ls.map fun l => (l, n) else []

/-- Slices of the issue set that executed an instruction of one word with or without a wait: those with one stand in it, the others
go on. -/
def Waits (s t : State) (x : Iss) (w : Nat → Option Wait) : Prop :=
  ∀ k ∈ x.slices, match w k with
    | some v => (t.slc x.issue.team x.issue.gang k).wait = some v ∧
        t.pcOf x.issue.team x.issue.gang k = s.pcOf x.issue.team x.issue.gang k
    | none => t.pcOf x.issue.team x.issue.gang k = s.pcOf x.issue.team x.issue.gang k + 3

/-- A place of this module's own storage, which no other thing stands behind. -/
def Loc.isOwn (l : Loc) : Bool := match l with | .peer _ _ | .window _ _ | .peerWin _ _ _ => false | _ => true

/-- The last of a list of values written to a place. -/
def lastAt (ws : List (Loc × Int)) (l : Loc) : Option Int := ((ws.filter fun w => decide (w.1 = l)).getLast?).map Prod.snd

/-- What writing a list of places in the form bin may write: the trytes named, and, in a line that held the other form, the rest
of the line. -/
def storing (s : State) (bin : Bool) (ws : List (Loc × Int)) : Writes :=
  { touch := true, store := true,
    hbm := fun p => ∃ q, .hbm q ∈ ws.map Prod.fst ∧ (q = p ∨ (q / 81 = p / 81 ∧ s.mem.binLines.contains (p / 81) ≠ bin)) }

/-- Every place of this module reads in t as the last of the values that the list writes to it, or as in s. -/
def Stored (s t : State) (bin : Bool) (ws : List (Loc × Int)) : Prop :=
  ∀ l, l.isOwn = true → t.readLoc bin l = (lastAt ws l).getD (s.readLoc bin l)

/-- Instruction i completes and stores, in this order, the trytes of the list, which stand in the form bin: every place of
this module reads as the last of them written to it, or as before; flags fs are raised. A line that held the other form is left with
nothing of it. -/
def RunsStore (i : Instr) (s s0 : State) (x : Iss) (bin : Bool) (ws : List (Loc × Int)) (fs : List FlagSet) : Prop :=
  ∃ t, exec i s = .next t ∧ GoesOn s0 t x ∧ Kept s0 t x { storing s0 bin ws with flags := True } ∧ Stored s0 t bin ws ∧ Raised s0 t x fs

/-- A place that a store may write with no other effect: no place of a debug window, no word of an explicit phaser (R117). -/
def Plain (s : State) (l : Loc) : Prop :=
  match l with
  | .window _ _ | .peerWin _ _ _ => False
  | .scratch t o => ∀ u, s.team? t = some u → ∀ q ∈ u.phasers, o < q ∨ q + 9 ≤ o
  | _ => True

/-- The checks of an instruction that uses u pass, the accesses of issue set x lying at the places that p gives, what was read before
(R182, R402) being as rem says, and no slot of HBM4 has been upset (R249). -/
structure Admits (s : State) (x : Iss) (u : Uses) (p : List (List Loc)) (rem : List (Nat × RemoteReply)) : Prop where
  passes : s.precheck x false u = (.ok ⟨u.accs.zip p, rem, s.accLeaves x u.accs⟩, [])
  places : p.length = u.accs.length
  sound  : s.mem.upsets = []

/-- The trytes that access j reads at its places: as the peers answered or as they were read before (R182, R402), else as they stand
in this module's storage. -/
def readAt (s : State) (bin : Bool) (p : List (List Loc)) (rem : List (Nat × RemoteReply)) (j : Nat) : List Int :=
  (p.getD j []).zipIdx.map fun l => (Got.kept ⟨[], rem, []⟩ j l.2).getD (s.readLoc bin l.1)

/-- The stores of an instruction whose accesses lie at the places p enter S one after another: a peer serves one of them, or others'
accesses stand between them (R182). -/
def Iss.queues (x : Iss) (u : Uses) (p : List (List Loc)) : Bool := Got.queued ⟨u.accs.zip p, [], []⟩ x

end Sys2Proof.Machine
end

