-- ==== Sys2Proof/Certificates/Slice0/Obligations.lean ====
section
/-!
DEFINITION. The statements for the provers, with the tables of instructions that they go through.
-/
open Sys2Proof Sys2Proof.Machine

/-- A word from its trits, the most significant first (R2). -/
def wordOf (ts : List Int) : Int := ts.foldl (fun a t => 3 * a + t) 0

/-- R60 to R90 and the encodings of every family: decoding the words that the encoder writes for a well-formed instruction that
has words gives the instruction, with every operand, and its number of words. -/
def Obligations.RoundTrip : Prop := ∀ i, Sys2Proof.Laws.RoundTrip.Statement i

/-- What decodes is well-formed, and is what the encoder writes as these very words: every instruction has one encoding. -/
def Obligations.OneEncoding : Prop :=
  ∀ (ws : List Int) (i : Instr) (n : Nat), (∀ w ∈ ws, Fits 27 w) → decode ws = .ok (i, n) →
    i.wellFormed = true ∧ n = wordsNeeded ws ∧ encode i = ws.take n

/-- Words of every format, and of most families, written out trit by trit in the spec, decode to what they stand for. -/
def Obligations.DecodeSamples : Prop :=
  decode [wordOf [0,0,0,1,0,0,0,0,0,1,0,0,0,1,1,0,1,-1,-1,0,0,0,0,0,0,0,0]] = .ok (.add ⟨none, .i27, 3, 4, 5, 0⟩, 1) ∧
  decode [wordOf [0,0,1,-1,0,1,-1,0,-1,1,0,0,-1,0,0,0,0,0,0,0,0,-1,0,-1,-1,-1,-1]] = .ok (.cmpi ⟨none, 21, 18, -283⟩, 1) ∧
  decode [wordOf [0,0,1,0,0,0,1,0,1,-1,1,0,0,0,0,0,0,0,0,0,0,0,0,0,-1,-1,0]] = .ok (.b .gt 7 (-12), 1) ∧
  decode [wordOf [0,1,-1,1,0,0,-1,0,0,0,0,0,0,0,0,0,0,0,0,0,0,0,0,0,0,0,0]] = .ok (.rett, 1) ∧
  decode [wordOf [1,-1,0,1,0,0,1,0,1,0,0,0,0,1,-1,0,0,0,0,0,0,0,1,-1,-1,1,-1]] = .ok (.vld ⟨none, 9, 2, 2, 20⟩, 1) ∧
  decode [wordOf [0,1,1,0,0,0,0,0,0,-1,0,0,0,-1,1,0,0,0,0,0,0,0,0,0,0,0,0], wordOf [1,-1,-1,-1,1,-1,0,0,0,1,0,0,0,1,1,0,1,-1,-1,1,-1,0,0,0,0,0,1]] = .ok (.vfma ⟨some ⟨0, .dflt, some .zero, some 80, false⟩, .regs 3 4 5, 2, 0, .f27⟩, 2) ∧
  decode [wordOf [-1,1,1,1,0,1,-1,0,0,1,1,0,1,-1,-1,0,1,-1,0,0,0,0,0,0,0,0,0]] = .ok (.pharr 4 5 6, 1) ∧
  decode [wordOf [-1,1,0,1,0,0,1,0,0,1,0,0,0,1,1,0,1,-1,-1,0,0,0,1,-1,0,0,0]] = .ok (.aadd ⟨3, 4, 5, 2, .i27⟩, 1) ∧
  decode [wordOf [-1,1,1,0,0,0,1,0,0,1,1,0,1,-1,-1,0,1,-1,0,-1,0,0,0,0,0,0,0]] = .ok (.cpyG ⟨none, 4, 5, 6, .core⟩, 1) ∧
  decode [wordOf [1,0,0,0,0,0,1,0,0,1,1,0,1,0,0,1,-1,0,0,0,0,0,0,0,0,1,1]] = .ok (.mxmN3 ⟨4, 9, 18⟩ 4, 1) ∧
  decode [wordOf [1,0,1,-1,0,0,0,0,1,0,0,0,0,0,0,1,-1,0,0,0,0,0,0,0,0,0,1]] = .ok (.qnt ⟨none, 9, 0, 18, 0, 0, .f27⟩, 1) ∧
  decode [wordOf [-1,0,0,0,0,-1,1,0,0,1,1,0,1,-1,-1,0,0,0,1,0,0,0,0,0,0,0,0]] = .ok (.postNf 4 5 1, 1) ∧
  decode [wordOf [-1,0,0,-1,0,1,-1,0,-1,-1,0,0,-1,-1,1,0,0,0,0,0,0,0,0,0,0,0,0]] = .ok (.redsub 15 16, 1) ∧
  decode [wordOf [-1,0,-1,1,0,1,-1,0,0,1,0,0,0,0,0,0,0,0,0,0,0,0,0,0,0,0,1]] = .ok (.trcctlStart 3, 1)

/-- The issue set selected in v fetches the words at its program counter, once the results whose window is used up have landed, decodes
them and executes the instruction, which answers t. -/
def RunsWords (v t : State) : Prop :=
  ∃ (w : State) (x0 x : Iss) (ws : List Int) (i : Instr) (n : Nat),
    v.iss? = some x0 ∧ (x0.landDue false v).iss? = some x ∧ w = (x0.landDue false v).touchWalks (x.who none) (x.gang.slice x.low).pc 3 ∧
    (x.gang.slice x.low).sweep = none ∧ x.owed = none ∧ w.fetch x = .ok ws ∧ decode ws = .ok (i, n) ∧
    exec i ((w.fetched x ws.length).withWords ws) = .next t

/-- A step whose turn is an issue scheduler's, or that finds no turn and no agent due, runs the instruction that the words at the
program counter of the first issue set decode to; where that stalls, it leaves the pointers and goes on to the next. An issue set that had
stalled and does not stall on has the end of its stall recorded before its instruction. The agenda is the model's own (log 1). -/
def Obligations.StepRunsDecoded : Prop :=
  ∀ (s u v t t' : State) (apart : Bool) (cs : List Cand) (c : Cand) (y : Iss),
    ((∃ core sched rest, (s.agenda = .issue core sched :: rest ∧ apart = false ∨ s.agenda = .apart core sched :: rest ∧ apart = true) ∧
        u = { s.begin with agenda := rest } ∧ u.candidates core sched = c :: cs) ∨
      (s.agenda = [] ∧ s.agents = false ∧ apart = false ∧ u = { s.begin with agents := true } ∧ u.allCandidates = c :: cs)) →
    v = u.choose c apart → v.iss? = some y → RunsWords v t →
    (y.stallsIn v = true ∧ y.stallsIn t = false ∧ RunsWords (v.endStall y) t' ∨ (y.stallsIn v = true → y.stallsIn t = true) ∧ t' = t) →
    (t'.stalled c = false → step s = .next t') ∧
    (t'.stalled c = true →
      let next := fun (rest : List Cand) => tryIssue exec apart rest (u.unchoose c t')
      (∀ r z, next cs = (some r, z) → step s = r) ∧
      (∀ z, next cs = (none, z) → s.agenda ≠ [] → step s = .next z) ∧
      (cs = [] → s.agenda ≠ [] → step s = .next (u.unchoose c t')) ∧
      (∀ d ds z, cs = d :: ds → issueNow exec ((u.unchoose c t').choose d apart) = .next z → z.stalled d = false → step s = .next z))

/-- A step whose turn is an event of the opcode table runs it; one whose turn is idle only lets time pass; an upset changes bytes of a slot, a retry on a link between
dies is logged, a fabric port sends again what was not acknowledged, other modules tell of routes, a die reports a fatal error or an error of a
unit, a host reads registers. Before its turn, time passes: by a cycle at least, unless the turn is said to take place in the
same cycle; where nothing takes place at an instant of its own, only the clocks and the residency counted change, and the leases of cores whose
slices stand behind all that was done end where their lines have been overwritten (R186, log 39). The agenda and the clock's advance are the model's own (logs 1 and 20). -/
def Obligations.StepTakesTurns : Prop :=
  ∀ (s : State) (rest : List Turn),
    (∀ i, s.agenda = .event i :: rest → step s = exec i { s.begin with agenda := rest, cur := none }) ∧
    (s.agenda = .idle :: rest → step s = .next { s.begin with agenda := rest }) ∧
    (∀ line bytes, s.agenda = .upset line bytes :: rest → step s = .next (State.upset { s.begin with agenda := rest } line bytes)) ∧
    (∀ link, s.agenda = .linkRetry link :: rest → step s = .next (State.health { s.begin with agenda := rest } 9 5 link noSpare 0)) ∧
    (∀ port, s.agenda = .resend port :: rest → step s = .next (State.resend { s.begin with agenda := rest } port)) ∧
    (∀ m live, s.agenda = .routes m live :: rest → step s = .next (State.routesTold { s.begin with agenda := rest } m live)) ∧
    (s.agenda = .fatal :: rest → step s = .next { s.begin with agenda := rest, fab := { s.begin.fab with fatal := true } }) ∧
    (∀ u corrected, s.agenda = .unitError u corrected :: rest → step s = .next (State.unitError { s.begin with agenda := rest } u corrected)) ∧
    (∀ p off n, s.agenda = .registerRead p off n :: rest → step s = .next (State.registerRead { s.begin with agenda := rest } p off n)) ∧
    let stays : Lease → Bool := fun l => match s.cur with
      | some i => quietWords i.words || (match s.team? i.team with | some u => decide (u.core ≠ l.core) | none => false)
      | none => false
    (s.instants = [] → s.begin.mem.leases = s.mem.leases.filterMap fun l =>
      if stays l then some l else if s.mem.outdated l then none else some { l with seen := s.mem.wlog.length }) ∧
    (s.agenda = .still :: rest → s.begin = { s with agenda := rest, draws := s.draws + 3, mem := { s.mem with leases := s.begin.mem.leases } }) ∧
    (s.instants = [] → s.agenda.head? ≠ some .still →
      s.begin = { s with
        clock := s.clock.to s.begin.clock.cycle, hub := s.begin.hub, issued := [], draws := s.draws + 3,
        mem := { s.mem with leases := s.begin.mem.leases } } ∧
      s.clock.cycle < s.begin.clock.cycle ∧ s.clock.fabric ≤ s.begin.clock.fabric ∧
      s.begin.hub = { s.hub with counters := s.begin.hub.counters, resAt := s.begin.clock.cycle })

/-- Reset leaves no context, grid or team, no fabric connection, boot stage 0, every readiness byte and measurement 0. cur is the model's own (log 1). -/
def Obligations.ResetState : Prop :=
  State.reset.ctxs = [] ∧ State.reset.grids = [] ∧ State.reset.teams = [] ∧ State.reset.fab.found = [] ∧
  State.reset.trust.boot = 0 ∧ State.reset.trust.ready = [] ∧ State.reset.trust.meas0 = List.replicate 9 measZero ∧
  State.reset.trust.meas1 = List.replicate 9 measZero ∧ State.reset.cur = none ∧ State.reset.mem.wf = true

/-- Every step keeps the canonical form of memory: keys rising and no cell of value 0 listed. The form is the model's own (log 2). -/
def Obligations.StepKeepsMemoryForm : Prop := ∀ (s t : State), s.mem.wf = true → step s = .next t → t.mem.wf = true
/-- The rows of SALU (R81 to R83): the instruction, whether it rounds by the mode, and the result from the type's width n, saturation,
mode, draw and the two operands. -/
def saluTable : List ((SaluF → Instr) × Bool × (Nat → Bool → Rnd → Int → Int → Int → Res)) :=
  [(.add, false, fun n sat _ _ a b => fitInt n sat (a + b)),
   (.sub, false, fun n sat _ _ a b => fitInt n sat (a - b)),
   (.mul, false, fun n sat _ _ a b => fitInt n sat (a * b)),
   (.mulh, false, fun n _ _ _ a b => ⟨(a * b - wrap n (a * b)) / 3 ^ n, 0⟩),
   (.div, true, fun n _ rnd d a b => divInt n rnd d a b),
   (.rem, true, fun n _ rnd d a b => ⟨a - b * (divInt n rnd d a b).val, (divInt n rnd d a b).flags⟩),
   (.cmp, false, fun _ _ _ _ a b => ⟨if a > b then 1 else if a < b then -1 else 0, 0⟩),
   (.min, false, fun _ _ _ _ a b => ⟨if a ≤ b then a else b, 0⟩),
   (.max, false, fun _ _ _ _ a b => ⟨if a ≤ b then b else a, 0⟩),
   (.tinv, false, fun _ _ _ _ a _ => ⟨-a, 0⟩),
   (.tmin, false, fun n _ _ _ a b => ⟨tritwise min n a b, 0⟩),
   (.tmax, false, fun n _ _ _ a b => ⟨tritwise max n a b, 0⟩),
   (.tsum, false, fun n _ _ _ a b => ⟨tritwise (fun p q => wrap 1 (p + q)) n a b, 0⟩),
   (.tcon, false, fun n _ _ _ a b => ⟨tritwise (fun p q => if p = q then p else 0) n a b, 0⟩),
   (.shl, true, fun n sat rnd d a b => shiftInt n sat rnd d a b),
   (.shr, true, fun n sat rnd d a b => shiftInt n sat rnd d a (-b))]

/-- The rows of SIMM (R84), on i54. -/
def simmTable : List ((SimmF → Instr) × Bool × (Bool → Rnd → Int → Int → Int → Res)) :=
  [(.addi, false, fun sat _ _ a i => fitInt 54 sat (a + i)),
   (.muli, false, fun sat _ _ a i => fitInt 54 sat (a * i)),
   (.cmpi, false, fun _ _ _ a i => ⟨if a > i then 1 else if a < i then -1 else 0, 0⟩),
   (.shli, true, fun sat rnd d a i => shiftInt 54 sat rnd d a i),
   (.shri, true, fun sat rnd d a i => shiftInt 54 sat rnd d a (-i)),
   (.tmini, false, fun _ _ _ a i => ⟨tritwise min 54 a i, 0⟩),
   (.tmaxi, false, fun _ _ _ a i => ⟨tritwise max 54 a i, 0⟩),
   (.tsumi, false, fun _ _ _ a i => ⟨tritwise (fun p q => wrap 1 (p + q)) 54 a i, 0⟩),
   (.ldi, false, fun _ _ _ _ i => ⟨i, 0⟩),
   (.ldhi, false, fun sat _ _ a i => fitInt 54 sat (a * 3 ^ 12 + i))]

/-- R18, R81: a result that fits is kept; outside, it wraps to the one congruent value of the format, or with the saturation trit it becomes the
nearest limit and raises overflow. -/
def IntegerFit : Prop :=
  ∀ (n : Nat) (z : Int), 0 < n →
    (2 * (fitInt n false z).val ≤ 3 ^ n - 1 ∧ -(3 ^ n - 1) ≤ 2 * (fitInt n false z).val ∧
      (3 : Int) ^ n ∣ z - (fitInt n false z).val ∧ (fitInt n false z).flags = 0) ∧
    (-(3 ^ n - 1) ≤ 2 * z ∧ 2 * z ≤ 3 ^ n - 1 → (fitInt n false z).val = z ∧ fitInt n true z = ⟨z, 0⟩) ∧
    (2 * z > 3 ^ n - 1 → 2 * (fitInt n true z).val = 3 ^ n - 1 ∧ (fitInt n true z).flags = fOverflow) ∧
    (2 * z < -(3 ^ n - 1) → 2 * (fitInt n true z).val = -(3 ^ n - 1) ∧ (fitInt n true z).flags = fOverflow)

/-- R2, R4, R5: a trit is -1, 0 or +1 and a string has the value of its trits; negation inverts every trit, in every format; dropping low trits
rounds to the nearest integer, which is never halfway. A trit-wise result has the function's values on the trits of its operands. -/
def Obligations.TritStrings : Prop :=
  (∀ (i : Nat) (z : Int), tritAt i z = -1 ∨ tritAt i z = 0 ∨ tritAt i z = 1) ∧
  (∀ ts : List Int, ofTrits ts = (ts.zipIdx.map fun t => t.1 * 3 ^ t.2).sum) ∧
  (∀ (n : Nat) (z : Int), -(3 ^ n - 1) ≤ 2 * z → 2 * z ≤ 3 ^ n - 1 → ofTrits ((List.range n).map fun i => tritAt i z) = z) ∧
  (∀ (i : Nat) (z : Int), tritAt i (-z) = -tritAt i z) ∧
  (∀ f ∈ [f9, f18, f27], ∀ z : Int, f.value (-z) = FVal.neg (f.value z)) ∧
  (∀ (k i : Nat) (z : Int), tritAt i (dropLow k z) = tritAt (i + k) z) ∧
  (∀ (k : Nat) (z : Int), 2 * ((3 : Int) ^ k * dropLow k z - z) < 3 ^ k ∧ -(3 ^ k : Int) < 2 * (3 ^ k * dropLow k z - z)) ∧
  (∀ (f : Int → Int → Int) (n i : Nat) (a b : Int), i < n → (∀ p q, -1 ≤ f p q ∧ f p q ≤ 1) →
    tritAt i (tritwise f n a b) = f (tritAt i a) (tritAt i b)) ∧
  (∀ (i j : Nat) (t z : Int), -1 ≤ t → t ≤ 1 → tritAt j (setTrit i t z) = if j = i then t else tritAt j z)

/-- R15, R245: a value stands in consecutive trytes with the least significant first, so a word's trits 8 to 0 lie lowest and lane 0 of a line lies
lowest; a line packs into 146 bytes of five trits each, the last of four, and codes beyond those values are unused. -/
def Obligations.StorageAndPacking : Prop :=
  (∀ (n i : Nat) (z : Int), i < n → (toTrytes n z).getD i 0 = sub (9 * i) 9 z) ∧ (∀ (n : Nat) (z : Int), ofTrytes (toTrytes n z) = wrap (9 * n) z) ∧
  (∀ z : Int, toTrytes 6 z = toTrytes 3 (sub 0 27 z) ++ toTrytes 3 (sub 27 27 z)) ∧
  (∀ (ws : List Int) (i : Nat), ws.length = 27 → (∀ w ∈ ws, -(3 ^ 27 - 1) ≤ 2 * w ∧ 2 * w ≤ 3 ^ 27 - 1) → i < 27 →
    sub (27 * i) 27 (ofTrytes (ws.flatMap (toTrytes 3))) = ws.getD i 0 ∧
    ∀ j < 3, (ws.flatMap (toTrytes 3)).getD (3 * i + j) 0 = sub (9 * j) 9 (ws.getD i 0)) ∧
  (∀ ts : List Int, let v := fun (j n : Nat) => ((List.range n).map fun i => tritAt ((5 * j + i) % 9) (ts.getD ((5 * j + i) / 9) 0) * 3 ^ i).sum
    (∀ j < 145, ((packByte ts j).toNat : Int) = v j 5 + 121 ∧ byteValue j (packByte ts j) = v j 5) ∧
    ((packByte ts 145).toNat : Int) = v 145 4 + 40 ∧ byteValue 145 (packByte ts 145) = v 145 4) ∧
  (∀ b : Byte, (∀ j < 145, (byteUsed j b = true ↔ b.toNat ≤ 242)) ∧ (byteUsed 145 b = true ↔ b.toNat ≤ 80)) ∧
  (∀ j < 145, packByte (List.replicate 81 0) j = 121 ∧ packByte (11 :: List.replicate 80 0) j = if j = 0 then 132 else 121) ∧
  packByte (List.replicate 81 0) 145 = 40 ∧ packByte (11 :: List.replicate 80 0) 145 = 40

/-- R19, R24, R81, R83: DIV rounds the exact quotient by the mode, away from it by less than 1, or by at most half in mode nearest;
inexact is raised exactly when the quotient is no integer; a division by 0 gives the limit of the dividend's sign or 0. -/
def IntegerDivision : Prop :=
  ∀ (n : Nat) (rnd : Rnd) (d a b : Int),
    let q := divInt n rnd d a b
    (b = 0 → q = if a = 0 then ⟨0, fInvalid⟩ else ⟨if a < 0 then -((3 ^ n - 1) / 2) else (3 ^ n - 1) / 2, fDivZero⟩) ∧
    (b ≠ 0 → b ∣ a → q.val * b = a ∧ q.flags = 0) ∧
    (b ≠ 0 → ¬ b ∣ a → q.flags = fInexact ∧ (q.val * b - a).natAbs < b.natAbs ∧
      (rnd = .near → 2 * (q.val * b - a).natAbs ≤ b.natAbs) ∧
      (rnd = .zero → (q.val * b).natAbs ≤ a.natAbs) ∧
      (rnd = .up → q.val * b.natAbs ≥ a * b.sign) ∧
      (rnd = .down → q.val * b.natAbs ≤ a * b.sign))

/-- R74, R76, R80 to R83: every SALU instruction completes, with R81's result in each slice of the issue set. -/
def ScalarArithmetic : Prop :=
  ∀ row ∈ saluTable, ∀ (s s0 : State) (x : Iss) (c : SaluF), Issues s false s0 x → x.clear (x.sDests c.d) → x.room (x.sOpens c.la) →
    RunsScalar (row.1 c) s s0 x c.la c.d (if row.2.1 then drawsOf (x.rnd c.attr) (x.slices.map fun k => 3 * k) 1 else []) fun k =>
      row.2.2 (widthOf c.ty) (satOf c.attr) (x.rnd c.attr) (x.gang.draw (3 * k) 0) (wrap (widthOf c.ty) (x.s k c.a))
        (wrap (widthOf c.ty) (x.s k c.b))

/-- R84: every SIMM instruction completes, with its result on i54 in each slice of the issue set. -/
def ScalarImmediate : Prop :=
  ∀ row ∈ simmTable, ∀ (s s0 : State) (x : Iss) (c : SimmF), Issues s false s0 x → x.clear (x.sDests c.d) →
    RunsScalar (row.1 c) s s0 x 0 c.d (if row.2.1 then drawsOf (x.rnd c.attr) (x.slices.map fun k => 3 * k) 1 else []) fun k =>
      row.2.2 (satOf c.attr) (x.rnd c.attr) (x.gang.draw (3 * k) 0) (x.s k c.a) c.imm

/-- Integers fit by wrapping or saturating, division rounds by the mode, and every SALU and SIMM instruction completes with its result. -/
def Obligations.ScalarOperations : Prop := IntegerFit ∧ IntegerDivision ∧ ScalarArithmetic ∧ ScalarImmediate

/-- The rows of VMASK that write a mask (R111): the instruction, its destination, and the trit of lane i. -/
def maskRows (d a b : MReg) (u : SReg) : List (Instr × (Iss → Nat → Int)) :=
  [(.mmin d a b, fun x i => min (tritAt i (x.gang.mask a)) (tritAt i (x.gang.mask b))),
   (.mmax d a b, fun x i => max (tritAt i (x.gang.mask a)) (tritAt i (x.gang.mask b))),
   (.minv d a, fun x i => -tritAt i (x.gang.mask a)),
   (.mcon d a b, fun x i => if tritAt i (x.gang.mask a) = tritAt i (x.gang.mask b) then tritAt i (x.gang.mask a) else 0),
   (.mset d u, fun x i => tritAt i (x.s x.low u))]

/-- R73, R76, R111: MMIN, MMAX, MINV, MCON and MSET write the trits of the issue set's lanes and keep the others; a write to m0 is
discarded, and m0 reads as 27 trits of +1. -/
def MaskWrites : Prop :=
  ∀ (d a b : MReg) (u : SReg), ∀ row ∈ maskRows d a b u, ∀ (s s0 : State) (x : Iss), Issues s false s0 x →
    s0.cfg? x.ctx.agency = none → x.clear (if d.val = 0 then [] else [.msk d]) →
    Runs row.1 s s0 x { msk := fun r => r = d ∧ d ≠ 0 } fun t =>
      (∀ j, j < 27 → tritAt j (t.mreg x.issue.team x.issue.gang d) =
        if d = 0 then 1 else if j ∈ x.lanes then row.2 x j else tritAt j (s0.mreg x.issue.team x.issue.gang d))

/-- R111: MGET and MCNT write their scalar in every slice; R91: RDSR writes the special register's content; R95: LEA writes the
effective address. -/
def ScalarReads : Prop :=
  ∀ (s s0 : State) (x : Iss) (d : SReg), Issues s false s0 x → x.clear (x.sDests d) →
    (∀ a : MReg, RunsScalar (.mget d a) s s0 x 0 d [] fun _ => ⟨(x.lanes.map fun i => tritAt i (x.gang.mask a) * 3 ^ i).sum, 0⟩) ∧
    (∀ (a : MReg) (c : Int), RunsScalar (.mcnt d a c) s s0 x 0 d [] fun _ =>
      ⟨((x.lanes.filter fun i => decide (tritAt i (x.gang.mask a) = c)).length : Int), 0⟩) ∧
    (∀ sr : SpecialReg, RunsScalar (.rdsr d sr) s s0 x 0 d [] fun k => ⟨match sr with
      | .core => x.team.core | .cluster => x.team.core / 8 | .die => x.team.core / 64 | .modul => s0.modul
      | .team => x.team.index | .gang => x.gang.idx | .slice => k | .depth => x.grid.depth | .moves => x.team.moves
      | .mode => x.gang.mode | .flags => x.gang.flags | .tenant => x.ctx.agency | .time => s0.clock.fabric, 0⟩) ∧
    (∀ f : SmemF, f.d = d → RunsScalar (.lea f) s s0 x 0 d [] fun k => ⟨wrap 54 (x.s k f.b + f.off), 0⟩)

/-- Mask instructions write masks and scalars; RDSR and LEA write scalars. -/
def Obligations.MasksAndReads : Prop := MaskWrites ∧ ScalarReads

/-- R30, R91, R92: WRSR of sr.mode replaces trits 1-0 by the highest slice's when every slice's code is usable, WRSR of sr.flags raises
the +1 trits and clears the others, WRSR of sr.tenant sets the agency of a privileged context; every other register traps. -/
def Obligations.SpecialRegisterWrites : Prop :=
  ∀ (s s0 : State) (x : Iss) (r : SReg), Issues s false s0 x →
    ((∀ k ∈ x.slices, sub 0 2 (x.s k r) ∈ [1, -1, 2, -2, 3]) →
      Runs (.wrsr r .mode) s s0 x { mode := True } fun t =>
        t.modeOf x.issue.team x.issue.gang =
          s0.modeOf x.issue.team x.issue.gang - sub 0 2 (s0.modeOf x.issue.team x.issue.gang) + sub 0 2 (x.s (x.slices.getLastD 0) r)) ∧
    (Runs (.wrsr r .flags) s s0 x { flags := True } fun t =>
      ∀ j, tritAt j (t.flagsOf x.issue.team x.issue.gang) =
        if j < 6 ∧ tritAt j (x.s (x.slices.getLastD 0) r) = 1 then 1 else 0) ∧
    (x.ctx.priv = true → (∀ k ∈ x.slices, 0 ≤ x.s k r ∧ x.s k r ≤ 242) →
      ∃ t, exec (.wrsr r .tenant) s = .next t ∧ GoesOn s0 t x ∧
        (t.ctx? x.ctx.num).map Context.agency = some (x.s (x.slices.getLastD 0) r).toNat ∧
        Frame (s0.modCtx x.ctx.num fun c => { c with agency := (x.s (x.slices.getLastD 0) r).toNat }) t x {}) ∧
    (x.ctx.priv = false → exec (.wrsr r .tenant) s = .next (takeTrap s0 x (.of x.lanes .privilegedReg))) ∧
    (∀ sr, sr ∉ [SpecialReg.mode, .flags, .tenant] →
      exec (.wrsr r sr) s = .next (takeTrap s0 x (.of x.lanes .srNotWritable)))
/-- The control transfers (R86): the instruction, its link register, and the target of slice k. -/
def transferRows (c : Cond) (r l : SReg) (disp neg pos : Int) : List (Instr × Option SReg × (Iss → Nat → Int)) :=
  [(.b c r disp, none, fun x k => (x.gang.slice k).pc + if (match c with
      | .always => true | .gt => decide (x.s k r > 0) | .lt => decide (x.s k r < 0) | .ge => decide (x.s k r ≥ 0)
      | .le => decide (x.s k r ≤ 0) | .eq => decide (x.s k r = 0) | .ne => decide (x.s k r ≠ 0)
      | .lp => decide (tritAt 0 (x.s k r) = 1) | .ln => decide (tritAt 0 (x.s k r) = -1) | .lz => decide (tritAt 0 (x.s k r) = 0))
      then 3 * disp else 3),
   (.b3 r neg pos, none, fun x k =>
     (x.gang.slice k).pc + if x.s k r < 0 then 3 * neg else if x.s k r > 0 then 3 * pos else 3),
   (.call l disp, some l, fun x k => (x.gang.slice k).pc + 3 * disp),
   (.jr r, none, fun x k => x.s k r),
   (.jalr l r, some l, fun x k => x.s k r),
   (.ret r, none, fun x k => x.s k r)]

/-- What R87 says of a target: the cause with which it traps, if it does. -/
def targetCause (a : Int) : Option Cause :=
  if a % 3 ≠ 0 then some .misaligned else if 2 * a > 3 ^ 36 - 1 ∨ 2 * a < -(3 ^ 36 - 1) then some .outsideSpace else none

/-- R86, R133: each slice goes to its own target, with the link written from its own program counter; slices that were of one sub-gang
are of one sub-gang afterwards just when their targets agree. -/
def ControlTransfers : Prop :=
  ∀ (c : Cond) (r l : SReg) (disp neg pos : Int), ∀ row ∈ transferRows c r l disp neg pos, ∀ (s s0 : State) (x : Iss),
    Issues s true s0 x → s0.cfg? x.ctx.agency = none → x.clear (match row.2.1 with | some q => x.sDests q | none => []) →
    (∀ k ∈ x.slices, targetCause (row.2.2 x k) = none) →
    ∃ t, exec row.1 s = .next t ∧ Frame s0 t x { sca := fun k q => k ∈ x.slices ∧ row.2.1 = some q, parts := true } ∧
      (∀ k ∈ x.slices, t.pcOf x.issue.team x.issue.gang k = row.2.2 x k ∧
        ∀ q, row.2.1 = some q → t.sreg x.issue.team x.issue.gang k q = if q = 0 then 0 else (x.gang.slice k).pc + 3) ∧
      (∀ j ∈ x.slices, ∀ k ∈ x.slices, (x.gang.slice j).ended = false → (x.gang.slice k).ended = false →
        (x.gang.slice j).sub = (x.gang.slice k).sub →
        ((t.slc x.issue.team x.issue.gang j).sub = (t.slc x.issue.team x.issue.gang k).sub ↔ row.2.2 x j = row.2.2 x k))

/-- R87: where a target fails, the instruction traps in the lanes of the slices whose target fails, with the target as their
effective address, and transfers nothing. -/
def TransferFaults : Prop :=
  ∀ (c : Cond) (r l : SReg) (disp neg pos : Int), ∀ row ∈ transferRows c r l disp neg pos, ∀ (s s0 : State) (x : Iss),
    s.issuing true = some (s0, x) → x.clear (match row.2.1 with | some q => x.sDests q | none => []) →
    (∃ k ∈ x.slices, targetCause (row.2.2 x k) ≠ none) →
    exec row.1 s = .next (takeTrap s0 x (.lanesOnly (x.slices.flatMap fun k =>
      match targetCause (row.2.2 x k) with
      | some w => [(3 * k, w, row.2.2 x k), (3 * k + 1, w, row.2.2 x k), (3 * k + 2, w, row.2.2 x k)]
      | none => [])))

/-- Control transfers complete, or trap where a target fails. -/
def Obligations.Transfers : Prop := ControlTransfers ∧ TransferFaults

/-- R88: NOP has no effect but the program counter's. -/
def NopHasNoEffect : Prop :=
  ∀ (s s0 : State) (x : Iss), Issues s false s0 x → Runs .nop s s0 x {} fun _ => True

/-- R88, R135: EXIT ends the slices of the issue set; where all slices of the gang have then ended and it has no work outstanding,
the gang is gone. Memory and the other slices stand as they were. -/
def Obligations.ExitEndsSlices : Prop :=
  ∀ (s s0 : State) (x : Iss), Issues s true s0 x → s0.cfg? x.ctx.agency = none → x.gang.bank = none →
    ∃ t, exec .exit s = .next t ∧ (∀ p, t.hbmAt p = s0.hbmAt p) ∧
      ((∃ j < x.gang.slices.length, j ∉ x.slices ∧ (x.gang.slice j).ended = false) →
        ∃ g, t.gang? x.issue.team x.issue.gang = some g ∧ (∀ k ∈ x.slices, (g.slice k).ended = true) ∧
          (∀ j, j ∉ x.slices → (g.slice j).ended = (x.gang.slice j).ended ∧ (g.slice j).pc = (x.gang.slice j).pc ∧
            ∀ q, (g.slice j).get q = (x.gang.slice j).get q) ∧
          g.v = x.gang.v ∧ g.m = x.gang.m ∧ g.blocks = x.gang.blocks) ∧
      ((∀ j < x.gang.slices.length, j ∈ x.slices ∨ (x.gang.slice j).ended = true) → x.gang.busy = false →
        t.gang? x.issue.team x.issue.gang = none)

/-- What TRAP and BRK record (R89, R259): the cause's code, the immediate, and s25 of slice k. -/
def softTraps (r : SReg) (code : Int) : List (Instr × Int × (Iss → Nat → Int)) :=
  [(.trap r code, -147, fun x k => x.s k r), (.brk code, -148, fun _ _ => 0)]

/-- R89, R258, R259: TRAP and BRK enter the handler that the launch record names, with the cause, the address of the next instruction,
the lanes of the issue set, the word, the immediate and, for TRAP, sa in the banked scalar registers, the cause in v72 of the
faulting lanes and 0 in v73 to v80, and trit 4 of sr.mode set; all else stands. -/
def Obligations.SoftwareTrapEntry : Prop :=
  ∀ (r : SReg) (code : Int), ∀ row ∈ softTraps r code, ∀ (s s0 : State) (x : Iss), s.issuing true = some (s0, x) →
    s0.cfg? x.ctx.agency = none → (∀ k ∈ x.slices, k < x.gang.slices.length ∧ k < 9) → x.slices ≠ [] →
    x.gang.inHandler = false → x.grid.dbl 6 ≠ 0 → s0.scope.windows = [] →
    ∃ t, exec row.1 s = .next t ∧
      Kept s0 t x { sca := fun k q => k ∈ x.slices ∧ 18 ≤ q.val, vec := fun q _ => 72 ≤ q.val, mode := True } ∧
      t.modeOf x.issue.team x.issue.gang = x.gang.mode + 81 * (1 - tritAt 4 x.gang.mode) ∧
      (∀ k ∈ x.slices,
        t.pcOf x.issue.team x.issue.gang k = x.grid.dbl 6 ∧
        t.sreg x.issue.team x.issue.gang k 18 = row.2.1 ∧
        t.sreg x.issue.team x.issue.gang k 19 = (x.gang.slice k).pc + 3 * (x.issue.words.length : Int) ∧
        (∀ i < 27, tritAt i (t.sreg x.issue.team x.issue.gang k 20) = if i ∈ x.lanes then 1 else 0) ∧
        t.sreg x.issue.team x.issue.gang k 21 = x.issue.words.getLastD 0 ∧
        t.sreg x.issue.team x.issue.gang k 24 = code ∧
        t.sreg x.issue.team x.issue.gang k 25 = row.2.2 x k) ∧
      (∀ q : VReg, 72 ≤ q.val → ∀ i < 27,
        t.vlane x.issue.team x.issue.gang q i = if q.val = 72 ∧ i ∈ x.lanes then row.2.1 else 0)

/-- R258: without a handler, TRAP and BRK halt the gang with each slice's resume address in its program counter. -/
def UnhandledTrapHalts : Prop :=
  ∀ (r : SReg) (code : Int), ∀ row ∈ softTraps r code, ∀ (s s0 : State) (x : Iss), s.issuing true = some (s0, x) →
    s0.cfg? x.ctx.agency = none → (∀ k ∈ x.slices, k < x.gang.slices.length ∧ k < 9) → x.slices ≠ [] → x.gang.halt = none →
    x.gang.inHandler = false → x.grid.dbl 6 = 0 → s0.scope.windows = [] →
    ∃ t g, exec row.1 s = .next t ∧ t.gang? x.issue.team x.issue.gang = some g ∧ g.halt = some .unhandled ∧
      g.mode = x.gang.mode ∧ ∀ k ∈ x.slices, (g.slice k).pc = (x.gang.slice k).pc + 3 * (x.issue.words.length : Int)

/-- R260: a RETT with which every slice of the trapped set has returned or ended, where every address to return to is a target, restores
the banked registers and the pending results, clears trit 4 of sr.mode and sends each slice to its s19; before that, the returning slices
wait. -/
def Obligations.TrapReturn : Prop :=
  ∀ (s s0 : State) (x : Iss) (b : Bank), Issues s true s0 x → s0.cfg? x.ctx.agency = none → x.gang.inHandler = true →
    x.gang.bank = some b → (∀ k ∈ b.slices, k < x.gang.slices.length) →
    ((∀ k ∈ b.slices, (x.gang.slice k).ended = false → targetCause ((x.gang.slice k).get 19) = none) →
      (∀ k ∈ b.slices, k ∈ x.slices ∨ k ∈ b.returned ∨ (x.gang.slice k).ended = true) →
      ∃ t, exec .rett s = .next t ∧
        Kept s0 t x { sca := fun k q => k ∈ b.slices ∧ 18 ≤ q.val, vec := fun q _ => 72 ≤ q.val, mode := True } ∧
        t.modeOf x.issue.team x.issue.gang = x.gang.mode - 81 * tritAt 4 x.gang.mode ∧
        t.pendsOf x.issue.team x.issue.gang = b.pending ∧
        (∀ k ∈ b.slices, t.pcOf x.issue.team x.issue.gang k = (x.gang.slice k).get 19 ∧
          ∀ q : SReg, 18 ≤ q.val → t.sreg x.issue.team x.issue.gang k q = getZ (9 * k + (q.val - 18)) b.s) ∧
        (∀ q : VReg, 72 ≤ q.val → ∀ i < 27, t.vlane x.issue.team x.issue.gang q i = getZ (27 * (q.val - 72) + i) b.v)) ∧
    ((∃ k ∈ b.slices, k ∉ x.slices ∧ k ∉ b.returned ∧ (x.gang.slice k).ended = false) →
      ∃ t, exec .rett s = .next t ∧ Kept s0 t x {} ∧ ∀ k ∈ x.slices, (t.slc x.issue.team x.issue.gang k).wait = some .rett)

/-- R90, R261: RETT outside a handler traps; a trap inside a handler halts the gang and enters nothing. -/
def TrapsOutOfPlace : Prop :=
  (∀ (s s0 : State) (x : Iss), s.issuing true = some (s0, x) → x.gang.inHandler = false →
    exec .rett s = .next (takeTrap s0 x (.of x.lanes .returnOutside))) ∧
  (∀ (s : State) (x : Iss) (t : Trap), s.iss? = some x → x.gang.inHandler = true → x.gang.halt = none →
    s.cfg? x.ctx.agency = none → s.scope.windows = [] →
    ∃ g, (takeTrap s x t).gang? x.issue.team x.issue.gang = some g ∧ g.halt = some .inHandler ∧ g.v = x.gang.v ∧
      g.mode = x.gang.mode ∧ g.bank = x.gang.bank)

/-- Traps without a handler, inside one, and RETT outside one. -/
def Obligations.HaltingTraps : Prop := UnhandledTrapHalts ∧ TrapsOutOfPlace

/-- R50 to R52, R64: an instruction whose destination a pending result of the issue set awaits traps with a lookahead conflict before any
other check of its operands; a privileged one traps in a context without privilege. R79: an instruction that names registers of a block not
held never takes its effect: where nothing is asked of peers, no tile load is to land in its registers and a walker is free, it traps in every
lane of the issue set (log 76). -/
def Obligations.IssueChecks : Prop :=
  ∀ (s : State) (x : Iss) (priv : Bool) (u : Uses),
    ((∃ p ∈ x.gang.pending, p.meets x.slices = true ∧ p.dest ∈ u.dests) →
      s.precheck x priv u = (.error (.trap (.of x.lanes .laConflict)), [])) ∧
    (x.clear u.dests → priv = true → x.ctx.priv = false →
      s.precheck x priv u = (.error (.trap (.of x.lanes .privilegedInstr)), [])) ∧
    (x.slices ≠ [] → (∃ r ∈ u.vregs, x.gang.holds (r.val / 9) = false ∧ (x.gang.inHandler = false ∨ r.val < 72)) →
      ∀ got hs, s.precheck x priv u ≠ (.ok got, hs)) ∧
    (x.clear u.dests → (priv = true → x.ctx.priv = true) → x.slices ≠ [] → (∃ r ∈ u.vregs, x.gang.holds (r.val / 9) = false ∧
        (x.gang.inHandler = false ∨ r.val < 72)) → (∀ r ∈ u.vregs, x.gang.landing r = false) → s.xlate.parked.length < 81 →
        u.accs = [] → (∀ seen, u.asks s seen = []) →
      ∃ f hs, s.precheck x priv u = (.error (.trap (.lanesOnly f)), hs) ∧ ∀ l ∈ x.lanes, (l, Cause.blockNotHeld, (0 : Int)) ∈ f)

/-- R93: REGANG joins the named slices into one sub-gang past the instruction once all of them have arrived; until then the arriving
slices wait. -/
def Regang : Prop :=
  ∀ (s s0 : State) (x : Iss) (set : Int), Issues s true s0 x → s0.cfg? x.ctx.agency = none →
    let names := (List.range x.gang.slices.length).filter fun k => decide (tritAt k set = 1)
    (∀ i < 9, tritAt i set ≠ -1) → (∀ k ∈ x.slices, k ∈ names) → x.gang.regangClash set (x.gang.slice x.low).pc = [] →
    (∀ k ∈ names, (x.gang.slice k).ended = false) → x.gang.phaser.parts = [] →
    ∃ t, exec (.regang set) s = .next t ∧ Kept s0 t x {} ∧
      ((∀ k ∈ names, k ∈ x.slices ∨ ∃ a ∈ x.gang.regangs, a.slice = k) → ∀ k ∈ names,
        (t.slc x.issue.team x.issue.gang k).sub = names.headD 0 ∧ (t.slc x.issue.team x.issue.gang k).wait = none ∧
        t.pcOf x.issue.team x.issue.gang k = (x.gang.slice x.low).pc + 3) ∧
      ((∃ k ∈ names, k ∉ x.slices ∧ ∀ a ∈ x.gang.regangs, a.slice ≠ k) →
        Waits s0 t x fun _ => some (.regang set))
/-- The uses of a scalar load or store of n trytes at the slices' addresses. -/
def smemUses (x : Iss) (f : SmemF) (n : Nat) (op : AccOp) : Uses :=
  if op = .load then { Uses.none with dests := x.sDests f.d, accs := x.smemAccs f n op, opens := x.sOpens f.la, leases := true }
  else { Uses.none with accs := x.smemAccs f n op }

/-- The places of the slices' accesses are those of their addresses sb + offset · n (R54, R95). -/
def SmemPlaces (s : State) (x : Iss) (f : SmemF) (n : Nat) (op : AccOp) (p : List (List Loc)) : Prop :=
  (x.slices.map fun k => s.locate (x.who (some (3 * k))) op (x.s k f.b + f.off * n) n) = p.map Xs.ok

/-- Instruction i completes with its stores accepted: they enter S one after another (R182), with nothing of the issue set between them, as the
model's sequence of stores holds them; memory and registers stand till then, and flags fs are raised. -/
def RunsQueued (i : Instr) (s s0 : State) (x : Iss) (parts : List StorePart) (fs : List FlagSet) : Prop :=
  ∃ t, exec i s = .next t ∧ GoesOn s0 t x ∧
    t.eng = { s0.eng with nextId := s0.eng.nextId + 1, stores := s0.eng.stores ++
      [{ id := s0.eng.nextId, ctx := x.ctx.num, team := x.issue.team, gang := x.issue.gang, slices := x.slices, parts := parts }] } ∧
    Kept { s0 with eng := t.eng } t x { flags := True, touch := true } ∧
    (∀ bin l, l.isOwn = true → t.readLoc bin l = s0.readLoc bin l) ∧ Raised s0 t x fs

/-- A store whose accesses are those of u, at the places p, of the values vs, completes: its bytes stand in S (R15), or where a peer serves
one of them or others' accesses stand between them, the stores have been accepted, one by one and in this order (R182). -/
def StoreRuns (i : Instr) (s s0 : State) (x : Iss) (bin : Bool) (u : Uses) (p : List (List Loc)) (vs : List (List Int)) (fs : List FlagSet) : Prop :=
  (x.queues u p = false → (∀ l ∈ p.flatten, Plain s0 l) → RunsStore i s s0 x bin ((p.zip vs).flatMap fun q => q.1.zip q.2) fs) ∧
  (x.queues u p = true → s0.storing x.issue.team x.issue.gang x.slices = false →
    RunsQueued i s s0 x (((u.accs.zip p).zip vs).map fun q =>
      { addr := q.1.1.addr, len := q.1.1.len, bin := bin, pages := s0.pagesOf (x.who q.1.1.lane) q.1.1.addr q.1.1.len, locs := q.1.2, vals := q.2 }) fs)

/-- R15, R95: the LD forms read the tryte, word or double at each slice's own address into its destination. -/
def ScalarLoads : Prop :=
  ∀ row ∈ [(Instr.ldI9, 1), (Instr.ldI27, 3), (Instr.ldI54, 6)], ∀ (s s0 : State) (x : Iss) (f : SmemF) (p : List (List Loc))
    (rem : List (Nat × RemoteReply)), Issues s false s0 x → x.slices.Nodup → x.room (x.sOpens f.la) →
    SmemPlaces s0 x f row.2 .load p → Admits s0 x (smemUses x f row.2 .load) p rem →
    RunsScalar (row.1 f) s s0 x f.la f.d [] (fun k => ⟨ofTrytes (readAt s0 false p rem (x.slices.idxOf k)), 0⟩) true

/-- R186: where the core holds leases on all lines that a load reads, none more than 6,561 cycles old, it may be served from the core's copies, as
a free choice says: it then reads what stood at the place in S behind which the core's slices are, whatever has been stored since. Any
other load reads what stands. -/
def LeasedLoads : Prop :=
  ∀ row ∈ [(Instr.ldI9, 1), (Instr.ldI27, 3), (Instr.ldI54, 6)], ∀ (s s0 : State) (x : Iss) (f : SmemF) (p : List (List Nat))
    (rem : List (Nat × RemoteReply)), Issues s false s0 x → x.slices.Nodup → x.room (x.sOpens f.la) → x.issue.apart = false →
    let q := p.map fun ns => ns.map Loc.hbm
    SmemPlaces s0 x f row.2 .load q → Admits s0 x (smemUses x f row.2 .load) q rem →
    let lease := fun (n : Nat) => s0.mem.leases.find? fun l =>
      decide (l.core = x.team.core) && decide (l.line = n / 81) && decide (s0.clock.cycle ≤ l.since + 6561)
    let own := (∀ n ∈ p.flatten, (lease n).isSome = true) ∧ Config.leased s0.draws = true
    let copy := fun n => match lease n with | some l => s0.mem.cellBefore (s0.mem.wlog.length - l.seen) n | none => 0
    let result := fun (v : Nat → Int) =>
      RunsScalar (row.1 f) s s0 x f.la f.d [] (fun k => ⟨ofTrytes ((p.getD (x.slices.idxOf k) []).map v), 0⟩) true
    (own → result copy) ∧ (¬ own → result fun n => s0.readLoc false (.hbm n))

/-- R15, R95: the ST forms store each slice's register, saturated to the width with narrowing overflow, at its own address, in
ascending slice order; every other tryte of memory stands. Where a peer serves one, the stores enter one after another (R182). -/
def ScalarStores : Prop :=
  ∀ row ∈ [(Instr.stI9, 1), (Instr.stI27, 3), (Instr.stI54, 6)], ∀ (s s0 : State) (x : Iss) (f : SmemF) (p : List (List Loc))
    (rem : List (Nat × RemoteReply)), Issues s false s0 x → SmemPlaces s0 x f row.2 .store p →
    Admits s0 x (smemUses x f row.2 .store) p rem →
    StoreRuns (row.1 f) s s0 x false (smemUses x f row.2 .store) p (x.slices.map fun k => toTrytes row.2 (clamp (9 * row.2) (x.s k f.d)))
      (x.slices.map fun k => if outside (9 * row.2) (x.s k f.d) then fNarrow else 0)

/-- R96: a scalar load or store of a word or a double at an address that is no multiple of 3 traps in the lanes of the slices that fail,
with the address, and accesses nothing. -/
def ScalarMisaligned : Prop :=
  ∀ row ∈ [(Instr.ldI27, 3, AccOp.load), (.ldI54, 6, .load), (.stI27, 3, .store), (.stI54, 6, .store)],
    ∀ (s s0 : State) (x : Iss) (f : SmemF), s.issuing false = some (s0, x) → Unwatched s0 x → s0.xlate.parked.length < 81 →
    x.clear (smemUses x f row.2.1 row.2.2).dests → x.slices ≠ [] →
    (∀ k ∈ x.slices, (x.s k f.b + f.off * row.2.1) % 3 ≠ 0) →
    exec (row.1 f) s = .next (takeTrap s0 x (.lanesOnly (x.slices.flatMap fun k =>
      [3 * k, 3 * k + 1, 3 * k + 2].map fun l => (l, Cause.misaligned, x.s k f.b + f.off * row.2.1))))

/-- Scalar loads and stores complete, or trap where misaligned. -/
def Obligations.ScalarMemory : Prop := ScalarLoads ∧ LeasedLoads ∧ ScalarStores ∧ ScalarMisaligned

/-- R95, R114: PF and VPF never trap and write nothing but what the shared cache and the leases hold, no slot being upset. -/
def Prefetches : Prop :=
  ∀ (s s0 : State) (x : Iss), Issues s false s0 x → s0.mem.upsets = [] →
    (∀ f, Runs (.pf f) s s0 x { touch := true } fun _ => True) ∧ (∀ f, Runs (.vpf f) s s0 x { touch := true } fun _ => True)

/-- NOP, PF and VPF complete and write nothing. -/
def Obligations.NoEffect : Prop := NopHasNoEffect ∧ Prefetches

/-- The rows of VALU (R97, R98), VCMP and VSEL3 apart: the instruction, whether it has operand b and the fourth, whether an integer and
a float element take a draw, and the element's result for integers and for floats. -/
def valuTable : List ((ValuF → Instr) × Bool × Bool × Bool × Bool × (Nat → Bool → Rnd → Int → Int → Int → Int → Res) ×
    (Fmt → Rnd → Int → Int → Int → Int → Res)) :=
  let whole (mk : ValuF → Instr) (b : Bool) (g : Int → Int → Int) :=
    (mk, b, false, false, false, fun (_ : Nat) (_ : Bool) (_ : Rnd) (_ : Int) (a b _ : Int) => (⟨g a b, 0⟩ : Res),
      fun (_ : Fmt) (_ : Rnd) (_ : Int) (a b _ : Int) => (⟨g a b, 0⟩ : Res))
  let special (mk : ValuF → Instr) (op : SfuOp) :=
    (mk, false, false, true, true, fun (_ : Nat) (_ : Bool) (_ : Rnd) (_ : Int) (a _ _ : Int) => (⟨a, 0⟩ : Res),
      fun (f : Fmt) (r : Rnd) (d : Int) (a _ _ : Int) => sfu f op r d a)
  [(.vadd, true, false, false, true, fun n sat _ _ a b _ => fitInt n sat (a + b), fun f r d a b _ => f.add r d a b),
   (.vsub, true, false, false, true, fun n sat _ _ a b _ => fitInt n sat (a - b), fun f r d a b _ => f.sub r d a b),
   (.vmul, true, false, false, true, fun n sat _ _ a b _ => fitInt n sat (a * b), fun f r d a b _ => f.mul r d a b),
   (.vdiv, true, false, true, true, fun n _ r d a b _ => divInt n r d a b, fun f r d a b _ => f.div r d a b),
   (.vmin, true, false, false, false, fun _ _ _ _ a b _ => ⟨if a ≤ b then a else b, 0⟩, fun f _ _ a b _ => ⟨f.min a b, 0⟩),
   (.vmax, true, false, false, false, fun _ _ _ _ a b _ => ⟨if a ≤ b then b else a, 0⟩, fun f _ _ a b _ => ⟨f.max a b, 0⟩),
   (.vfma, true, true, false, true, fun n sat _ _ a b c => fitInt n sat (a * b + c),
     fun f r d a b c => f.dot r d (f.value c) [(f.value a, f.value b)]),
   (.vfms, true, true, false, true, fun n sat _ _ a b c => fitInt n sat (a * b - c),
     fun f r d a b c => f.dot r d (FVal.neg (f.value c)) [(f.value a, f.value b)]),
   (.vabs, false, false, false, false, fun _ _ _ _ a _ _ => ⟨if a < 0 then -a else a, 0⟩, fun _ _ _ a _ _ => ⟨if a < 0 then -a else a, 0⟩),
   whole .vtinv false (fun a _ => -a), whole .vtmin true (tritwise min 27), whole .vtmax true (tritwise max 27),
   whole .vtsum true (tritwise (fun p q => wrap 1 (p + q)) 27), whole .vtcon true (tritwise (fun p q => if p = q then p else 0) 27),
   (.vshl, true, false, true, true, fun n sat r d a b _ => shiftInt n sat r d a b, fun _ _ _ a _ _ => ⟨a, 0⟩),
   (.vshr, true, false, true, true, fun n sat r d a b _ => shiftInt n sat r d a (-b), fun _ _ _ a _ _ => ⟨a, 0⟩),
   whole .vmov false (fun a _ => a),
   special .vrcp .rcp, special .vrsq .rsq, special .vsqrt .sqrt, special .vexp3 .exp3, special .vlog3 .log3, special .vexp .exp,
   special .vlog .log, special .vsin .sin, special .vcos .cos, special .vtanh .tanh]

/-- R56, R73, R77, R97, R98, R102, R103: every VALU and VSFU instruction on registers completes, each active lane receiving its result
element by element, zeroed lanes the zero word, and every other lane keeping its content. -/
def Obligations.VectorArithmetic : Prop :=
  ∀ row ∈ valuTable, ∀ (s s0 : State) (x : Iss) (f : ValuF) (d a b : VReg), f.ops = .regs d a b → Issues s false s0 x →
    Unwatched s0 x → x.clear [.vec d] → (f.la = 0 ∨ x.room 1) →
    x.mayName (d :: a :: ((if row.2.1 then [b] else []) ++ if row.2.2.1 then [fourthReg f.attr] else [])) →
    RunsVector (row.1 f) s s0 x f.la d (x.active f.attr f.mask) (x.zeroed f.attr f.mask)
      (drawsOf (x.rnd f.attr) (x.active f.attr f.mask)
        (if (if isFloat f.ty then row.2.2.2.2.1 else row.2.2.2.1) then elems f.ty else 0))
      (some ((x.active f.attr f.mask).length * elems f.ty)) fun i => laneRes f.ty fun e =>
        let o := fun r => elemOf f.ty e (x.v r i)
        if isFloat f.ty then row.2.2.2.2.2.2 (fmtOf f.ty) (x.rnd f.attr) (x.gang.draw i e) (o a) (o b) (o (fourthReg f.attr))
        else row.2.2.2.2.2.1 (widthOf f.ty) (satOf f.attr) (x.rnd f.attr) (x.gang.draw i e) (o a) (o b) (o (fourthReg f.attr))

/-- R100: VSEL3 writes every lane of the issue set from the register that its selector trit names. -/
def VectorSelect : Prop :=
  ∀ (s s0 : State) (x : Iss) (f : ValuF) (d a b : VReg), f.ops = .regs d a b → Issues s false s0 x → Unwatched s0 x →
    x.clear [.vec d] → (f.la = 0 ∨ x.room 1) → x.mayName [d, a, b, fourthReg f.attr] →
    RunsVector (.vsel3 f) s s0 x f.la d x.lanes [] [] (some (x.lanes.length * elems f.ty)) fun i =>
      ⟨if tritAt i (x.gang.mask (maskReg f.attr f.mask)) = 1 then x.v a i
       else if tritAt i (x.gang.mask (maskReg f.attr f.mask)) = 0 then x.v b i else x.v (fourthReg f.attr) i, 0⟩

/-- R112: the VIMM instructions on registers, on i27 lanes under the prefix's mask. -/
def VectorImmediate : Prop :=
  ∀ row ∈ ([(.vaddi, true, false, fun sat _ _ a i => fitInt 27 sat (a + i)), (.vmuli, true, false, fun sat _ _ a i => fitInt 27 sat (a * i)),
      (.vshli, true, true, fun sat r d a i => shiftInt 27 sat r d a i), (.vshri, true, true, fun sat r d a i => shiftInt 27 sat r d a (-i)),
      (.vldi, false, false, fun _ _ _ _ i => ⟨i, 0⟩)] : List ((VimmF → Instr) × Bool × Bool × (Bool → Rnd → Int → Int → Int → Res))),
    ∀ (s s0 : State) (x : Iss) (f : VimmF) (d a : VReg), f.ops = .regs d a → Issues s false s0 x → Unwatched s0 x →
      x.clear [.vec d] → x.mayName (d :: if row.2.1 then [a] else []) →
      RunsVector (row.1 f) s s0 x 0 d (x.active f.attr 0) (x.zeroed f.attr 0)
        (drawsOf (x.rnd f.attr) (x.active f.attr 0) (if row.2.2.1 then 1 else 0)) (some (x.active f.attr 0).length) fun i =>
          row.2.2.2 (satOf f.attr) (x.rnd f.attr) (x.gang.draw i 0) (x.v a i) f.imm

/-- R99, R112: VCMP and VCMPI write the comparison trit of each active lane into the mask register, zero the zeroed lanes' trits and keep
all others. -/
def VectorCompare : Prop :=
  ∀ (s s0 : State) (x : Iss), Issues s false s0 x → Unwatched s0 x → s0.cfg? x.ctx.agency = none →
    let result (i : Instr) (d : MReg) (run zero : List Nat) (res : Nat → Res) : Prop :=
      Runs i s s0 x { msk := fun r => r = d ∧ d ≠ 0, flags := True, counted := some run.length } fun t =>
        Raised s0 t x (run.map fun j => (res j).flags) ∧
        ∀ j, j < 27 → tritAt j (t.mreg x.issue.team x.issue.gang d) =
          if d = 0 then 1 else if j ∈ run then (res j).val else if j ∈ zero then 0
          else tritAt j (s0.mreg x.issue.team x.issue.gang d)
    (∀ f : VcmpF, x.clear (if f.d.val = 0 then [] else [.msk f.d]) → x.mayName [f.a, f.b] →
      result (.vcmp f) f.d (x.active f.attr f.mask) (x.zeroed f.attr f.mask) fun i =>
        if f.ty = .f27 then f27.cmp (x.v f.a i) (x.v f.b i) else ⟨cmpTrit (x.v f.a i) (x.v f.b i), 0⟩) ∧
    (∀ f : VcmpiF, x.clear (if f.d.val = 0 then [] else [.msk f.d]) → x.mayName [f.a] →
      result (.vcmpi f) f.d (x.active f.attr 0) (x.zeroed f.attr 0) fun i => ⟨cmpTrit (x.v f.a i) f.imm, 0⟩)

/-- VSEL3, the VIMM instructions and the compares complete lane by lane. -/
def Obligations.VectorSelectsAndCompares : Prop := VectorSelect ∧ VectorImmediate ∧ VectorCompare

/-- Element j of a register of a type, 0 where no lane of the issue set holds it (R78, R107). -/
def elemAt (x : Iss) (t : Ty) (r : VReg) (j : Int) : Int :=
  if 0 ≤ j ∧ j < 27 * (elems t : Int) ∧ j.toNat / elems t ∈ x.lanes then elemOf t (j.toNat % elems t) (x.v r (j.toNat / elems t)) else 0

/-- R105 to R107, R109, R110: the VPERM forms that compute each active lane by itself. -/
def LaneMovements : Prop :=
  ∀ (s s0 : State) (x : Iss), Issues s false s0 x → Unwatched s0 x →
    let result (i : Instr) (attr : Option Attr) (m : MReg) (la : Fin 27) (d : VReg) (srcs : List VReg) (counted draws : Nat)
        (res : Nat → Res) : Prop :=
      x.clear [.vec d] → (la = 0 ∨ x.room 1) → x.mayName (d :: srcs) →
        RunsVector i s s0 x la d (x.active attr m) (x.zeroed attr m) (drawsOf (x.rnd attr) (x.active attr m) draws)
          (some ((x.active attr m).length * counted)) res
    (∀ f : CvtF, result (.cvt f) f.attr f.mask 0 f.d [f.a] (elems f.dst) (elems f.src) fun i => laneRes f.src fun e =>
      cvtElem f.src f.dst (x.rnd f.attr) (x.gang.draw i e) (if f.src = .f18 then wrap 18 (elemOf f.src e (x.v f.a i)) else elemOf f.src e (x.v f.a i))) ∧
    (∀ f : VpermF, f.ty ≠ .f27 → result (.vpack f) f.attr f.mask 0 f.d [f.a, f.b, fourthReg f.attr] 3 0 fun i =>
      let n := fun r => narrowInt 9 (x.v r i)
      ⟨(n f.a).val + 3 ^ 9 * (n f.b).val + 3 ^ 18 * (n (fourthReg f.attr)).val,
        joinAll [(n f.a).flags, (n f.b).flags, (n (fourthReg f.attr)).flags]⟩) ∧
    (∀ f : VpermF, f.ty = .f27 → result (.vpack f) f.attr f.mask 0 f.d [f.a, f.b, fourthReg f.attr] 3 3 fun i =>
      let n := fun (r : VReg) (k : Nat) => cvtElem .f27 .f9 (x.rnd f.attr) (x.gang.draw i k) (x.v r i)
      ⟨(n f.a 0).val + 3 ^ 9 * (n f.b 1).val + 3 ^ 18 * (n (fourthReg f.attr) 2).val,
        joinAll [(n f.a 0).flags, (n f.b 1).flags, (n (fourthReg f.attr) 2).flags]⟩) ∧
    (∀ f : VunpkF, result (.vunpk f) f.attr f.mask 0 f.d [f.a] 1 0 fun i =>
      if f.ty = .f9x3 then floatToFloat f9 f27 (x.rnd f.attr) 0 (subLane f.k.val (x.v f.a i)) else ⟨subLane f.k.val (x.v f.a i), 0⟩) ∧
    (∀ f : VpermF, result (.vshfl f) f.attr f.mask f.la f.d [f.a, f.b] (elems f.ty) 0 fun i =>
      laneRes f.ty fun e => ⟨elemAt x f.ty f.a (elemOf f.ty e (x.v f.b i)), 0⟩) ∧
    (∀ f : VpermSF, result (.vrotl f) f.attr f.mask 0 f.d [f.a] (elems f.ty) 0 fun i =>
      laneRes f.ty fun e => ⟨elemAt x f.ty f.a (((elems f.ty * i + e : Nat) - x.s x.low f.sb) % (27 * elems f.ty)), 0⟩) ∧
    (∀ f : VpermSF, 0 ≤ x.s x.low f.sb → x.s x.low f.sb < 27 * elems f.ty →
      result (.vbcast f) f.attr f.mask 0 f.d [f.a] (elems f.ty) 0 fun _ =>
        laneRes f.ty fun _ => ⟨elemAt x f.ty f.a (x.s x.low f.sb), 0⟩) ∧
    (∀ f : VidxF, result (.vidx f) f.attr f.mask 0 f.d [] (elems f.ty) 0 fun i =>
      laneRes f.ty fun e => ⟨((elems f.ty * i + e : Nat) : Int), 0⟩) ∧
    (∀ f : VinsF, result (.vins f) f.attr f.mask 0 f.d [] 1 0 fun i => narrowInt 27 (x.s (i / 3) f.sa))

/-- R108, R109, R110: the VPERM forms that combine or gather lanes, and VEXT. -/
def LaneCombinations : Prop :=
  ∀ (s s0 : State) (x : Iss), Issues s false s0 x → Unwatched s0 x →
    (∀ f : VredF, x.clear [.vec f.d] → (f.la = 0 ∨ x.room 1) → x.mayName [f.d, f.a] → x.active f.attr f.mask ≠ [] →
      let run := x.active f.attr f.mask
      let es := fun j => run.flatMap fun i => (List.range (elems f.ty)).filterMap fun e =>
        if elems f.ty * i + e ≤ j then some (elemOf f.ty e (x.v f.a i)) else none
      let sums := isFloat f.ty && decide (f.op = .add)
      RunsVector (.vred f) s s0 x f.la f.d run (x.zeroed f.attr f.mask) (drawsOf (x.rnd f.attr) [run.headD 0] (if sums then 1 else 0))
        (some (run.length * elems f.ty)) (fun _ =>
          let r := combine f.ty f.op (satOf f.attr) (x.rnd f.attr) (x.gang.draw (run.headD 0) 0) (es 80)
          ⟨(laneRes f.ty fun _ => ⟨r.val, 0⟩).val, r.flags⟩) ∧
      RunsVector (.vscan f) s s0 x f.la f.d run (x.zeroed f.attr f.mask) (drawsOf (x.rnd f.attr) run (if sums then elems f.ty else 0))
        (some (run.length * elems f.ty)) fun i => laneRes f.ty fun e =>
          combine f.ty f.op (satOf f.attr) (x.rnd f.attr) (x.gang.draw i e) (es (elems f.ty * i + e))) ∧
    (∀ f : VcomprF, x.clear [.vec f.d] → (f.la = 0 ∨ x.room 1) → x.mayName [f.d, f.a] → x.slices.Nodup →
      let qs := x.active f.attr f.mask
      RunsVector (.vcompr f) s s0 x f.la f.d x.lanes [] [] (some qs.length) (fun i =>
        ⟨match qs[x.lanes.idxOf i]? with | some q => x.v f.a q | none => 0, 0⟩) ∧
      RunsVector (.vexpd f) s s0 x f.la f.d qs (x.zeroed f.attr f.mask) [] (some qs.length) fun i =>
        ⟨x.v f.a (x.lanes.getD (qs.idxOf i) 0), 0⟩) ∧
    (∀ f : VextF, x.clear (x.sDests f.d) → x.mayName [f.a] → (∀ k ∈ x.slices, 0 ≤ x.s k f.sb ∧ x.s k f.sb ≤ 26) →
      Runs (.vext f) s s0 x { sca := fun k r => k ∈ x.slices ∧ r = f.d ∧ f.d ≠ 0, counted := some x.slices.length } fun t =>
        ∀ k ∈ x.slices, f.d ≠ 0 → t.sreg x.issue.team x.issue.gang k f.d =
          if (x.s k f.sb).toNat ∈ x.lanes then x.v f.a (x.s k f.sb).toNat else 0)

/-- Every VPERM form completes. -/
def Obligations.LanePermutations : Prop := LaneMovements ∧ LaneCombinations

/-- R113, R114: VLD and VGTH read one word for each active lane, in ascending lane order. -/
def VectorLoads : Prop :=
  ∀ (s s0 : State) (x : Iss) (p : List (List Loc)) (rem : List (Nat × RemoteReply)), Issues s false s0 x → x.slices.Nodup →
    let result (i : Instr) (attr : Option Attr) (d : VReg) (named : List VReg) (la : Fin 27) (addr : Nat → Int) (acc : Nat → Acc) : Prop :=
      (x.active attr 0).map (fun i => s0.locate (x.who (acc i).lane) .load (addr i) 3) = p.map Xs.ok →
      Admits s0 x { Uses.none with dests := [.vec d], vregs := d :: named, accs := (x.active attr 0).map acc,
                                   opens := if la.val = 0 ∨ x.lanes = [] then 0 else 1, leases := true } p rem → (la = 0 ∨ x.room 1) →
      RunsVector i s s0 x la d (x.active attr 0) (x.zeroed attr 0) [] none
        (fun i => ⟨ofTrytes (readAt s0 false p rem ((x.active attr 0).idxOf i)), 0⟩) true
    (∀ f : VmemF, result (.vld f) f.attr f.d [] f.la (fun i => x.s (i / 3) f.base + 81 * f.off + 3 * i) (x.vmemAcc f .load)) ∧
    (∀ f : VgthF, result (.vgth f) f.attr f.d [f.idx] f.la (fun i => x.s (i / 3) f.base + x.v f.idx i) (x.vgthAcc f .load))

/-- R56, R113, R114: VST and VSCT store one word for each active lane, the zero word for each zeroed one, in ascending lane order, and
nothing else; where a peer serves one, one after another (R182). -/
def VectorStores : Prop :=
  ∀ (s s0 : State) (x : Iss) (p : List (List Loc)) (rem : List (Nat × RemoteReply)), Issues s false s0 x →
    let result (i : Instr) (attr : Option Attr) (v : VReg) (named : List VReg) (addr : Nat → Int) (acc : Nat → Acc) : Prop :=
      let ls := x.lanes.filter fun i => decide (roleOf (polOf attr) (tritAt i (x.gang.mask (maskReg attr 0))) ≠ .keep)
      ls.map (fun i => s0.locate (x.who (acc i).lane) .store (addr i) 3) = p.map Xs.ok →
      let u : Uses := { Uses.none with vregs := v :: named, accs := ls.map acc }
      Admits s0 x u p rem →
      StoreRuns i s s0 x false u p (ls.map fun i => toTrytes 3
        (if roleOf (polOf attr) (tritAt i (x.gang.mask (maskReg attr 0))) = .run then x.v v i else 0)) []
    (∀ f : VmemF, result (.vst f) f.attr f.d [] (fun i => x.s (i / 3) f.base + 81 * f.off + 3 * i) (x.vmemAcc f .store)) ∧
    (∀ f : VgthF, result (.vsct f) f.attr f.d [f.idx] (fun i => x.s (i / 3) f.base + x.v f.idx i) (x.vgthAcc f .store))

/-- Vector loads, gathers, stores and scatters complete. -/
def Obligations.VectorMemory : Prop := VectorLoads ∧ VectorStores

/-- The value of bytes, least significant first, in two's complement or unsigned (R223). -/
def bytesValue (signed : Bool) (bs : List Int) : Int :=
  let u := ((bs.zipIdx).map fun b => b.1 * 256 ^ b.2).sum
  if signed ∧ 2 * u ≥ 256 ^ bs.length then u - 256 ^ bs.length else u

/-- R222 to R224: the LDB forms read an element of w bytes for each active lane; under the saturation trit, or where all values fit
a word, the lane receives the value or its limit, with narrowing overflow. -/
def BinaryLoads : Prop :=
  ∀ row ∈ ([(.ldbS8, 1, true), (.ldbS16, 2, true), (.ldbS32, 4, true), (.ldbS64, 8, true), (.ldbZ8, 1, false), (.ldbZ16, 2, false),
      (.ldbZ32, 4, false)] : List ((BmemF → Instr) × Nat × Bool)),
    ∀ (s s0 : State) (x : Iss) (f : BmemF) (p : List (List Loc)) (rem : List (Nat × RemoteReply)), Issues s false s0 x → x.slices.Nodup →
      let run := x.active f.attr 0
      let val := fun i => bytesValue row.2.2 (readAt s0 true p rem (run.idxOf i))
      run.map (fun i => s0.locate (x.who none) .binLoad (x.s (i / 3) f.base + (f.off + i) * row.2.1) row.2.1) = p.map Xs.ok →
      Admits s0 x { Uses.none with dests := [.vec f.d], vregs := [f.d], accs := run.map (x.bmemAcc f row.2.1 .binLoad) } p rem →
      (∀ j, ∀ b ∈ readAt s0 true p rem j, 0 ≤ b ∧ b ≤ 255) →
      (satOf f.attr = true ∨ ∀ i ∈ run, outside 27 (val i) = false) →
      Runs (row.1 f) s s0 x { vec := fun r j => r = f.d ∧ (j ∈ run ∨ j ∈ x.zeroed f.attr 0), flags := True, touch := true } fun t =>
        (∀ i ∈ run, t.vlane x.issue.team x.issue.gang f.d i = clamp 27 (val i)) ∧
        (∀ i ∈ x.zeroed f.attr 0, t.vlane x.issue.team x.issue.gang f.d i = 0) ∧
        Raised s0 t x (run.map fun i => if outside 27 (val i) then fNarrow else 0)

/-- R222 to R224: the STB forms store each active lane's value, or its nearest limit with narrowing overflow, as w bytes, and the bytes
of zero for zeroed lanes; where a peer serves one, one after another (R182). -/
def BinaryStores : Prop :=
  ∀ row ∈ ([(.stbS8, 1, true), (.stbS16, 2, true), (.stbS32, 4, true), (.stbS64, 8, true), (.stbZ8, 1, false), (.stbZ16, 2, false),
      (.stbZ32, 4, false)] : List ((BmemF → Instr) × Nat × Bool)),
    ∀ (s s0 : State) (x : Iss) (f : BmemF) (p : List (List Loc)) (rem : List (Nat × RemoteReply)), Issues s false s0 x →
      let ls := x.lanes.filter fun i => decide (roleOf (polOf f.attr) (tritAt i (x.gang.mask (maskReg f.attr 0))) ≠ .keep)
      let v := fun i => if roleOf (polOf f.attr) (tritAt i (x.gang.mask (maskReg f.attr 0))) = .run then x.v f.d i else 0
      let top : Int := if row.2.2 then 2 ^ (8 * row.2.1 - 1) - 1 else 2 ^ (8 * row.2.1) - 1
      let bottom : Int := if row.2.2 then -(2 ^ (8 * row.2.1 - 1)) else 0
      let bytes := fun i => (if v i > top then top else if v i < bottom then bottom else v i) % 256 ^ row.2.1
      ls.map (fun i => s0.locate (x.who none) .binStore (x.s (i / 3) f.base + (f.off + i) * row.2.1) row.2.1) = p.map Xs.ok →
      let u : Uses := { Uses.none with vregs := [f.d], accs := ls.map (x.bmemAcc f row.2.1 .binStore) }
      Admits s0 x u p rem →
      StoreRuns (row.1 f) s s0 x true u p (ls.map fun i => (List.range row.2.1).map fun e => bytes i / 256 ^ e % 256)
        (ls.map fun i => if v i > top ∨ v i < bottom then fNarrow else 0)

/-- Every LDB and STB form completes. -/
def Obligations.BinaryMemory : Prop := BinaryLoads ∧ BinaryStores

/-- R58, R59: the instruction that opens a sweep computes its first segment, and each step of SWEEP_SEGMENT the next: the words of the
active lanes' results, and zero words for zeroed lanes, are stored at the destination's line of the segment; between segments the
program counter stays and the sweep holds what its first segment fixed, its operands' bases too; with the last one the slices go on. Where
others' accesses stand between the segment's, its stores enter one after another (R182). Log 38. -/
def Obligations.SweptSegments : Prop :=
  ∀ (i e : Instr) (o : LaneOp) (sw : Sweep) (d a b : SReg), sweepOf i = some (o, sw, d, a, b) →
    ∀ (s s0 : State) (x : Iss) (p : List (List Loc)), Issues s false s0 x → x.slices ≠ [] → x.slices.Nodup →
    ((e = i ∧ (x.gang.slice x.low).sweep = none) ∨
      (e = .sweepSegment ⟨x.issue.team, x.issue.gang, x.low⟩ ∧
        ∃ h n, (s.iss?.map fun y => (y.gang.slice y.low).sweep) = some (some h) ∧ (x.gang.slice x.low).sweep = some h ∧
          decode h.words = .ok (i, n))) →
    let h := o.hold x [d, a, b]
    let run := o.heldRuns x h
    let at_ := fun (r : SReg) (step : Int) => sweepAddr h r step
    let u : Uses := { Uses.none with vregs := if o.fourth && x.segments = 0 then [fourthReg o.attr] else [], accs := o.sweepAccs x h sw d a b }
    (∀ q ∈ o.sweepAddrs h sw d a b, q % 3 = 0 ∧ localBase ≤ q ∧ q + 81 ≤ localBase + (x.team.alloc : Int)) →
    Admits s0 x u p [] →
    p = (o.sweepAccs x h sw d a b).map (fun c => (List.range 3).map fun j => .scratch x.issue.team ((c.addr - localBase).toNat + j)) →
    ((x.gang.slice x.low).sweep = none → ∀ r ∈ [d, a, b], sweepAddr h r 0 = x.uniform r) →
    let word := fun (q : Int) (l : Nat) => ofTrytes ((List.range 3).map fun j => s0.scratchAt x.issue.team ((q - localBase).toNat + 3 * l + j))
    let res := fun l => o.f (satOf o.attr) h.rnd (x.gang.draw l) (tritAt l h.mask) (if o.hasA then word (at_ a sw.astep) l else 0)
      (if o.hasB then word (at_ b sw.bstep) l else 0) (h.fourth.getD l 0)
    let out := x.lanes.filter fun l => decide (l ∈ run ∨ l ∈ o.heldZeros x h)
    let places := fun l => (List.range 3).map fun j => Loc.scratch x.issue.team ((at_ d sw.dstep - localBase).toNat + 3 * l + j)
    let vals := fun l => toTrytes 3 (if l ∈ run then (res l).val else 0)
    let ws := out.flatMap fun l => (places l).zip (vals l)
    let spent := drawsOf h.rnd run (if o.draws then elems o.ty else 0)
    ∃ t, exec e s = .next t ∧
      (x.queues u p = false → (∀ l ∈ p.flatten, Plain s0 l) →
        Kept s0 t x { storing s0 false ws with flags := True, gen := fun l => l ∈ spent.map Prod.fst, counted := some (run.length * elems o.ty) } ∧
        Stored s0 t false ws) ∧
      (x.queues u p = true → s0.storing x.issue.team x.issue.gang x.slices = false →
        t.eng = { s0.eng with nextId := s0.eng.nextId + 1, stores := s0.eng.stores ++
          [{ id := s0.eng.nextId, ctx := x.ctx.num, team := x.issue.team, gang := x.issue.gang, slices := x.slices,
             parts := out.map fun (l : Nat) => { addr := at_ d sw.dstep + 3 * (l : Int), len := 3, bin := false, pages := [], locs := places l, vals := vals l } }] } ∧
        Kept { s0 with eng := t.eng } t x { flags := True, touch := true, gen := fun l => l ∈ spent.map Prod.fst, counted := some (run.length * elems o.ty) } ∧
        ∀ bin l, l.isOwn = true → t.readLoc bin l = s0.readLoc bin l) ∧
      Spent s0 t x spent ∧ Raised s0 t x (run.map fun l => (res l).flags) ∧
      (if h.done + 1 < sw.count then
        ∀ k ∈ x.slices, t.pcOf x.issue.team x.issue.gang k = (x.gang.slice k).pc ∧
          (t.slc x.issue.team x.issue.gang k).sweep = some { h with done := h.done + 1, paused := false }
      else GoesOn s0 t x ∧ ∀ k ∈ x.slices, (t.slc x.issue.team x.issue.gang k).sweep = none)

/-- R304 to R308: QNT, DQNT, RQZ and BSCL form, for each active lane, the codes or values of its block under its descriptor; zeroed
lanes get zero words. -/
def Quantisation : Prop :=
  ∀ (s s0 : State) (x : Iss) (f : MxqF), Issues s false s0 x → Unwatched s0 x →
    let run := x.active f.attr f.mask
    let result (i : Instr) (n : Nat) (srcs : List VReg) (draws counted : Nat) (res : Nat → List Int) (fl : Nat → FlagSet) : Prop :=
      let ds := fun (r : VReg) => f.d.val ≤ r.val ∧ r.val < f.d.val + n
      let spent := drawsOf (x.rnd f.attr) run draws
      f.d.val + n ≤ 81 → (∀ r, ds r → x.clear [.vec r]) → (∀ r, ds r → x.mayName (r :: srcs)) →
      Runs i s s0 x { vec := fun r l => ds r ∧ (l ∈ run ∨ l ∈ x.zeroed f.attr f.mask), flags := True,
                      gen := fun l => l ∈ spent.map Prod.fst, counted := some (counted * run.length) } fun t =>
        Spent s0 t x spent ∧ Raised s0 t x (run.map fl) ∧ ∀ r, ds r →
          (∀ l ∈ run, t.vlane x.issue.team x.issue.gang r l = (res l).getD (r.val - f.d.val) 0) ∧
          ∀ l ∈ x.zeroed f.attr f.mask, t.vlane x.issue.team x.issue.gang r l = 0
    let valid := fun r => ∀ l ∈ run, readDesc (x.v r l) ≠ none
    let quant := fun l => (List.range 9).map fun q => (x.desc f.b l).quantiseFloat (runFmt f.ty) (x.rnd f.attr) (x.gang.draw l q) (x.runWord f.ty f.a l q)
    let dequant := fun l => (codesOf (x.v f.a l)).zipIdx.map fun q =>
      (runFmt f.ty).round false (x.rnd f.attr) (x.gang.draw l q.2) ((x.desc f.b l).element q.1).frac
    let requant := fun l => (codesOf (x.v f.a l)).zipIdx.map fun q =>
      (x.desc (fourthReg f.attr) l).quantise (x.rnd f.attr) (x.gang.draw l q.2) ((x.desc f.b l).element q.1).frac
    let scale := fun l => blockScale ((List.range 27).map fun q =>
      (runFmt f.ty).value (x.runWord f.ty f.a (3 * (l / 3) + q / 9) (q % 9))) (sub 7 2 (x.v f.b l)) (sub 4 3 (x.v f.b l))
    (f.a.val + runLen f.ty ≤ 81 → valid f.b → result (.qnt f) 1 (floatRun f.ty f.a ++ [f.b]) 9 9
      (fun l => [wordOfCodes ((quant l).map Res.val)]) fun l => joinAll ((quant l).map Res.flags)) ∧
    (valid f.b → result (.dqnt f) (runLen f.ty) [f.a, f.b] 9 9
      (fun l => runWords f.ty ((dequant l).map Res.val)) fun l => joinAll ((dequant l).map Res.flags)) ∧
    (valid f.b → valid (fourthReg f.attr) → result (.rqz f) 1 [f.a, f.b, fourthReg f.attr] 9 9
      (fun l => [wordOfCodes ((requant l).map Res.val)]) fun l => joinAll ((requant l).map Res.flags)) ∧
    (f.a.val + runLen f.ty ≤ 81 → (∀ l ∈ run, scaleFaults (x.v f.b l) = []) → result (.bscl f) 1 (floatRun f.ty f.a ++ [f.b]) 0 1
      (fun l => [setSub 9 18 (scale l).val (x.v f.b l)]) fun l => (scale l).flags)

/-- R310: VDOT and VDOTN add the products of sub-lanes, or of codes, to the accumulator of the fourth operand, rounded once. -/
def PackedProducts : Prop :=
  ∀ (s s0 : State) (x : Iss) (f : MxqF), Issues s false s0 x → Unwatched s0 x → x.clear [.vec f.d] → (f.la = 0 ∨ x.room 1) →
    x.mayName [f.d, f.a, f.b, fourthReg f.attr] →
    let run := x.active f.attr f.mask
    let result (i : Instr) (draws : Nat) (res : Nat → Res) : Prop :=
      RunsVector i s s0 x f.la f.d run (x.zeroed f.attr f.mask) (drawsOf (x.rnd f.attr) run draws) (some run.length) res
    result (.vdot f) (if isFloat f.ty then 1 else 0) (fun l =>
      if isFloat f.ty then f27.dot (x.rnd f.attr) (x.gang.draw l 0) (f27.value (x.v (fourthReg f.attr) l))
        ((List.range 3).map fun k => (f9.value (subLane k (x.v f.a l)), f9.value (subLane k (x.v f.b l))))
      else fitInt 27 (satOf f.attr) (x.v (fourthReg f.attr) l + ((List.range 3).map fun k => subLane k (x.v f.a l) * subLane k (x.v f.b l)).sum)) ∧
    result (.vdotn f) 0 fun l => fitInt 27 (satOf f.attr)
      (x.v (fourthReg f.attr) l + (List.zipWith (fun p q => p * q) (codesOf (x.v f.a l)) (codesOf (x.v f.b l))).sum)

/-- Quantisation and packed products complete. -/
def Obligations.QuantisedTypes : Prop := Quantisation ∧ PackedProducts

/-- R283 to R286, R309: a stream expands to the words that it was packed from, with what follows it left; ZPK writes the stream of its nine source
registers and its length where it fits nine registers, else only 0 as its length; ZUPK expands the stream that it finds. -/
def Obligations.PackedStreams : Prop :=
  (∀ (ws rest : List Int), ws.length = 243 → (∀ w ∈ ws, Fits 27 w) → unpackStream 3 81 (packStream 3 81 ws ++ rest) = some (ws, rest)) ∧
  (∀ (s s0 : State) (x : Iss) (f : ZpkF), Issues s false s0 x → Unwatched s0 x → f.d.val % 9 = 0 → f.a.val % 9 = 0 →
    let ds := fun (r : VReg) => f.d.val ≤ r.val ∧ r.val < f.d.val + 9
    (∀ r, ds r → x.clear (.vec r :: x.sDests f.sb)) → (∀ r, ds r ∨ (f.a.val ≤ r.val ∧ r.val < f.a.val + 9) → x.mayName [r]) →
    let st := packStream 3 81 (x.gang.words f.a.val 9)
    Runs (.zpk f) s s0 x { vec := fun r _ => ds r ∧ st.length ≤ 243, sca := fun k r => k ∈ x.slices ∧ r = f.sb ∧ f.sb ≠ 0, counted := some 243 } (fun t =>
      (∀ k ∈ x.slices, f.sb ≠ 0 → t.sreg x.issue.team x.issue.gang k f.sb = if st.length ≤ 243 then (st.length : Int) else 0) ∧
      (st.length ≤ 243 → ∀ r, ds r → ∀ l < 27, t.vlane x.issue.team x.issue.gang r l = st.getD (27 * (r.val - f.d.val) + l) 0)) ∧
    ∀ ws, x.gang.fragment f.a.val = some ws → (∀ r, ds r → x.clear [.vec r]) →
      Runs (.zupk f) s s0 x { vec := fun r _ => ds r, counted := some 243 } fun t =>
        ∀ r, ds r → ∀ l < 27, t.vlane x.issue.team x.issue.gang r l = ws.getD (27 * (r.val - f.d.val) + l) 0)

/-- The updates made one after another on what stands at their places (R190): what each answers, and the trytes written. -/
def atomSeq (m : Loc → Int) : List (List Loc × Update) → List Updated × List (Loc × Int)
  | [] => ([], [])
  | (ls, u) :: r =>
    let a := applyUpdate u (ofTrytes (ls.map m))
    let ws := if a.wr then ls.zip (toTrytes (updateLen u) a.new) else []
    let q := atomSeq (fun l => (lastAt ws l).getD (m l)) r
    (a :: q.1, ws ++ q.2)

/-- Instruction i makes update u k for each slice k at its places, in slice order, as one access each, and slice k's result, with
the flags pre k of preparing its operand, is written to scalar register d at once or after a window. -/
def RunsUpdates (i : Instr) (s s0 : State) (x : Iss) (la : Fin 27) (d : SReg) (p : List (List Loc)) (u : Nat → Update)
    (pre : Nat → FlagSet) : Prop :=
  let q := atomSeq (s0.readLoc false) (p.zip (x.slices.map u))
  let res := fun k => q.1.getD (x.slices.idxOf k) ⟨0, false, 0, 0⟩
  let fl := fun k => joinF (res k).flags (pre k)
  let spent := drawsOf x.gang.rnd ((x.slices.filter fun k => decide ((u k).op = .add ∧ (u k).ty = .f27)).map fun k => 3 * k) 1
  ∃ t, exec i s = .next t ∧ GoesOn s0 t x ∧
    Kept s0 t x { storing s0 false q.2 with sca := fun k r => la = 0 ∧ k ∈ x.slices ∧ r = d ∧ d ≠ 0, flags := la = 0,
                                            gen := fun l => l ∈ spent.map Prod.fst } ∧
    Stored s0 t false q.2 ∧ Spent s0 t x spent ∧
    (la = 0 → (∀ k ∈ x.slices, d ≠ 0 → t.sreg x.issue.team x.issue.gang k d = (res k).ret) ∧ Raised s0 t x (x.slices.map fl)) ∧
    (la ≠ 0 → ∀ k ∈ x.slices, { slices := [k], dest := .sca k d, writes := [(0, (res k).ret)], flags := fl k, remaining := la.val } ∈
      t.pendsOf x.issue.team x.issue.gang)

/-- The issue set awaits no answer to an update, and nothing says that its accesses stand apart. -/
def FirstTry (s : State) (x : Iss) : Prop := x.issue.apart = false ∧ ∀ w ∈ s.waitsOf x.parker, w.key < 2097152

/-- R190, R225, R226: an atomic on this module's storage reads, combines and writes each slice's place as one access, in slice
order, and returns what stood there before. R402: where a place is a peer's, the issue set stalls until its peers have answered. -/
def Obligations.Atomics : Prop :=
  (∀ row ∈ ([(.aadd, .add), (.amin, .min), (.amax, .max), (.aswp, .swp), (.acas, .cas)] : List ((AtomF → Instr) × AtomOp)),
    ∀ (s s0 : State) (x : Iss) (f : AtomF) (p : List (List Loc)), Issues s false s0 x → x.slices.Nodup → FirstTry s0 x →
      (f.la = 0 ∨ x.room x.slices.length) →
      Admits s0 x { Uses.none with dests := x.sDests f.x, accs := x.slices.map fun k => atomAcc k f.ty (x.s k f.y),
                                   opens := x.sOpens f.la } p [] →
      (∀ l ∈ p.flatten, l.isOwn = true ∧ Plain s0 l) →
      RunsUpdates (row.1 f) s s0 x f.la f.x p
        (fun k => { op := row.2, ty := f.ty, rnd := x.gang.rnd, draw := x.gang.draw (3 * k) 0,
                    v := if f.ty = .i54 then x.s k f.z else if f.ty = .f27 then wrap 27 (x.s k f.z) else clamp 27 (x.s k f.z),
                    cmp := if f.ty = .i54 then x.s k f.x else wrap 27 (x.s k f.x) })
        fun k => if f.ty ≠ .i54 ∧ f.ty ≠ .f27 ∧ outside 27 (x.s k f.z) = true then fNarrow else 0) ∧
  (∀ (s : State) (x : Iss) (p : List (List Loc)) (op : AccOp), op.wr = true →
    let accs := (x.slices.zip p).map fun q => (({ lanes := lanesOf [q.1], lane := none, addr := 0, len := q.2.length, op := op, aligned := true } : Acc), q.2)
    (∃ ls ∈ p, ls.any Loc.isPeer = true) → p.length ≤ x.slices.length → (∀ ls ∈ p, ls.length ≤ 6) →
    s.waitsOf x.parker = [] → (∀ m, s.isFenced m = false) → ∃ t, s.reach x false accs = .error t ∧ t.mem = s.mem ∧ t.teams = s.teams)

/-- The binding of a signal at l has fired in m (R343): it is removed, and its message is posted to its port. -/
def fired (m : State) (l : Loc) (b : Binding) : State :=
  State.firePost { m with eng := { m.eng with bindings := m.eng.bindings.filter fun q => decide (q.loc ≠ l) } } b.ctx b.port b.msg

/-- R341 to R343: SIGADD and SIGDEC change signals as atomics do and return the new value. A signal that reaches 0 fires its binding: the
binding is removed and its message posted, behind those held for its port; the instruction completes as well. SIGBIND sets, replaces or,
for port 0, removes the bindings of signals that are not 0; that of one that is 0 fires at once. -/
def Obligations.Signals : Prop :=
  (∀ row ∈ ([(.sigadd, 1), (.sigdec, -1)] : List ((SReg → SReg → SReg → Instr) × Int)),
    ∀ (s s0 : State) (x : Iss) (a v d : SReg) (p : List (List Loc)), Issues s false s0 x → x.slices.Nodup → FirstTry s0 x →
      (row.2 = -1 → ∀ k ∈ x.slices, 0 ≤ x.s k v) →
      Admits s0 x { Uses.none with dests := x.sDests d, accs := x.slices.map fun k => atomAcc k .i54 (x.s k a) } p [] →
      (∀ l ∈ p.flatten, l.isOwn = true ∧ Plain s0 l ∧ ∀ b ∈ s0.eng.bindings, b.loc ≠ l) →
      RunsUpdates (row.1 a v d) s s0 x 0 d p
        (fun k => { op := .sigAdd, ty := .i54, v := row.2 * x.s k v, cmp := 0, rnd := x.gang.rnd, draw := x.gang.draw (3 * k) 0 })
        fun _ => 0) ∧
  (∀ row ∈ ([(.sigadd, 1), (.sigdec, -1)] : List ((SReg → SReg → SReg → Instr) × Int)),
    ∀ (s s0 : State) (x : Iss) (a v d : SReg) (k : Nat) (l : Loc) (ls : List Loc) (b : Binding), Issues s false s0 x → x.slices = [k] → FirstTry s0 x →
      (row.2 = -1 → 0 ≤ x.s k v) → Admits s0 x { Uses.none with dests := x.sDests d, accs := [atomAcc k .i54 (x.s k a)] } [l :: ls] [] →
      (∀ q ∈ l :: ls, q.isOwn = true ∧ Plain s0 q) →
      (s0.eng.bindings.find? fun q => decide (q.loc = l) && decide (q.port ≠ 0)) = some b → s0.readLocs false (l :: ls) ≠ 0 →
      wrap 54 (s0.readLocs false (l :: ls) + row.2 * x.s k v) = 0 →
      let ws := (l :: ls).zip (toTrytes 6 0)
      ∃ m t, exec (row.1 a v d) s = .next t ∧ GoesOn s0 t x ∧ t.sreg x.issue.team x.issue.gang k d = 0 ∧
        Kept s0 m x (storing s0 false ws) ∧ Stored s0 m false ws ∧ m.eng = s0.eng ∧
        Kept (fired m l b) t x { sca := fun j r => j = k ∧ r = d, flags := True } ∧ Raised s0 t x [0] ∧ t.teams.map Team.bare = (fired m l b).teams.map Team.bare) ∧
  (∀ (s : State) (c : Nat) (l : Loc) (ls : List Loc) (u : Update) (b : Binding), u.op = .sigAdd →
    (s.eng.bindings.find? fun q => decide (q.loc = l) && decide (q.port ≠ 0)) = some b → s.readLocs false (l :: ls) ≠ 0 →
    wrap 54 (s.readLocs false (l :: ls) + u.v) = 0 → (s.writeLocs false (l :: ls) (toTrytes (updateLen u) 0)).eng = s.eng →
    (s.update c (l :: ls) u).1 = fired (s.writeLocs false (l :: ls) (toTrytes (updateLen u) 0)) l b) ∧
  (∀ (s : State) (ctx : Nat) (port msg : Int), s.portNameFault port = none → nameModule port = s.modul →
    (∃ q ∈ s.eng.posts, q.port = port) →
    s.firePost ctx port msg = { s with eng := { s.eng with
      posts := s.eng.posts ++ [{ id := s.eng.nextId, port := port, msg := msg, ctx := ctx }], nextId := s.eng.nextId + 1 } }) ∧
  (∀ (s s0 : State) (x : Iss) (a n m : SReg) (p : List (List Loc)), Issues s false s0 x → FirstTry s0 x →
    Admits s0 x { Uses.none with accs := x.slices.map fun k => atomAcc k .i54 (x.s k a) } p [] →
    (∀ ls ∈ p, ls ≠ []) → (∀ l ∈ p.flatten, l.isOwn = true) →
    s0.eng.bindings.length + x.slices.length ≤ 243 →
    ∃ t, exec (.sigbind a n m) s = .next t ∧ GoesOn s0 t x ∧
      ((∀ ls ∈ p, s0.readLocs false ls ≠ 0) → Kept { s0 with eng := t.eng } t x { touch := true } ∧
        t.eng = { s0.eng with bindings := (p.zip x.slices).foldl (fun bs q =>
          let l := q.1.headD (.hbm 0)
          let bs := bs.filter fun b => decide (b.loc ≠ l)
          if x.s q.2 n = 0 then bs else { loc := l, ctx := x.ctx.num, port := x.s q.2 n, msg := x.s q.2 m } :: bs) s0.eng.bindings }) ∧
      (∀ k l ls, x.slices = [k] → p = [l :: ls] → s0.readLocs false (l :: ls) = 0 → x.s k n ≠ 0 →
        let b : Binding := { loc := l, ctx := x.ctx.num, port := x.s k n, msg := x.s k m }
        ∃ u, Kept s0 u x { touch := true } ∧ u.eng = s0.eng ∧ Kept (fired u l b) t x {} ∧
          t.teams.map Team.bare = (fired u l b).teams.map Team.bare))

/-- R191, R228, R229: REDM hands each slice's update to the memory side, at most 81 a slice; the update takes its place after the slice's
earlier ones that meet its trytes, its flags waiting at the slice. -/
def Obligations.MemorySideReductions : Prop :=
  (∀ (s s0 : State) (x : Iss) (a v : SReg) (op : RedOp) (ty : Ty), Issues s false s0 x → Unwatched s0 x → x.slices.Nodup →
    (∀ k ∈ x.slices, x.s k a % 3 = 0 ∧ -maxTrits 36 ≤ x.s k a ∧ x.s k a + (if ty = .i54 then 6 else 3) - 1 ≤ maxTrits 36) →
    (∀ k ∈ x.slices, (s0.eng.redms.filter fun r => decide (r.team = x.issue.team ∧ r.gang = x.issue.gang ∧ r.slice = k)).length < 81) →
    let spent := drawsOf x.gang.rnd (if ty = .f27 then x.slices.map fun k => 3 * k else []) 1
    ∃ t, exec (.redm a v op ty) s = .next t ∧ GoesOn s0 t x ∧
      Kept { s0 with eng := t.eng } t x { gen := fun l => l ∈ spent.map Prod.fst } ∧ Spent s0 t x spent ∧
      t.eng = { s0.eng with
        redms := s0.eng.redms ++ x.slices.zipIdx.map fun q =>
          { id := s0.eng.nextId + q.2, ctx := x.ctx.num, grid := x.grid.num, core := x.team.core, team := x.issue.team, gang := x.issue.gang, slice := q.1,
            addr := x.s q.1 a, word := x.word,
            upd := { op := match op with | .add => .add | .max => .max | .min => .min, ty := ty, cmp := 0, rnd := x.gang.rnd,
                     draw := x.gang.draw (3 * q.1) 0,
                     v := if ty = .i54 then x.s q.1 v else if ty = .f27 then wrap 27 (x.s q.1 v) else clamp 27 (x.s q.1 v) } },
        nextId := s0.eng.nextId + x.slices.length } ∧
      ∀ k ∈ x.slices, (t.slc x.issue.team x.issue.gang k).redmFlags =
        joinF (x.gang.slice k).redmFlags (if ty ≠ .i54 ∧ ty ≠ .f27 ∧ outside 27 (x.s k v) = true then fNarrow else 0)) ∧
  (∀ (s : State) (id : Nat) (r : RedmUpd) (c : Context) (ls : List Loc),
    (s.eng.redms.find? fun q => decide (q.id = id)) = some r →
    (∀ q ∈ s.eng.redms, q.id < id → q.team = r.team → q.gang = r.gang → q.slice = r.slice → q.addr < r.addr + 6 → r.addr < q.addr + 6 → False) →
    (∀ q ∈ s.xlate.parked, q.who ≠ .redm id) → s.entering = false → s.mem.upsets = [] → s.ctx? r.ctx = some c →
    s.locate { ctx := c, team := s.team? r.team, gang := r.gang, lane := none, core := some r.core } .rmw r.addr (updateLen r.upd) = .ok ls →
    (r.upd.op = .add ∨ r.upd.op = .min ∨ r.upd.op = .max) → (∀ l ∈ ls, l.isOwn = true ∧ Plain s l ∧ s.badLoc l = false) →
    let q := atomSeq (s.readLoc false) [(ls, r.upd)]
    ∃ t, exec (.redmUpdate id) s = .next t ∧
      t = { s with mem := t.mem, hub := t.hub, fab := t.fab, grids := t.grids, teams := t.teams,
                   eng := { s.eng with redms := s.eng.redms.filter fun q => decide (q.id ≠ id) } } ∧
      (∀ o, t.readLoc false (.hbm o) = (lastAt q.2 (.hbm o)).getD (s.readLoc false (.hbm o))) ∧
      (∀ a o, t.readLoc false (.scratch a o) = (lastAt q.2 (.scratch a o)).getD (s.readLoc false (.scratch a o))) ∧
      (∀ o, (∀ w ∈ q.2, ∀ n, w.1 = .hbm n → n / 81 ≠ o / 81) → t.hbmAt o = s.hbmAt o) ∧
      ∀ g, r.gang < 27 → s.gang? r.team r.gang = some g → r.slice < g.slices.length →
        (t.slc r.team r.gang r.slice).redmFlags = joinF (g.slice r.slice).redmFlags ((q.1.map Updated.flags).headD 0))

/-- R43, R188, R194, R229, R230: FENCE completes when the issue set's updates have taken their places: the flags that they raised are
merged, the leases of the cores that its scope covers end, and code stored before is seen; while updates are outstanding it stalls, and where the context has halted the gang halts. -/
def Fences : Prop :=
  ∀ (s s0 : State) (x : Iss) (sc : Scope), Issues s false s0 x →
    let mine := fun (r : RedmUpd) => r.team = x.issue.team ∧ r.gang = x.issue.gang ∧ r.slice ∈ x.slices
    (s0.ctxHalted x.ctx.num = false → (∀ r ∈ s0.eng.redms, ¬ mine r) →
      ∃ t, exec (.fence sc) s = .next t ∧ GoesOn s0 t x ∧ Kept { s0 with mem := t.mem } t x { flags := True } ∧
        t.mem = { s0.mem with leases := s0.mem.leases.filter fun l => !(match sc with
          | .core => decide (l.core = x.team.core) | .cluster => decide (l.core / 8 = x.team.core / 8)
          | .die => decide (l.core / 64 = x.team.core / 64) | _ => true) } ∧
        Raised s0 t x (x.slices.map fun k => (x.gang.slice k).redmFlags) ∧
        ∀ k ∈ x.slices, (t.slc x.issue.team x.issue.gang k).redmFlags = 0 ∧
          (t.slc x.issue.team x.issue.gang k).fenced = s0.mem.wlog.length) ∧
    (s0.ctxHalted x.ctx.num = false → (∃ r ∈ s0.eng.redms, mine r) →
      ∃ t, exec (.fence sc) s = .next t ∧ Kept s0 t x {} ∧ ∀ k ∈ x.slices, t.pcOf x.issue.team x.issue.gang k = (x.gang.slice k).pc ∧
        (t.slc x.issue.team x.issue.gang k).stall = some .fenceWait) ∧
    (s0.ctxHalted x.ctx.num = true → s0.cfg? x.ctx.agency = none → x.gang.halt = none →
      ∃ t g, exec (.fence sc) s = .next t ∧ t.gang? x.issue.team x.issue.gang = some g ∧ g.halt = some .contextFence ∧
        ∀ k, (g.slice k).pc = (x.gang.slice k).pc)

/-- R166, R172, R175, R231, R232: a privileged TLBINV stalls on an entry of the pages that each slice names, which are done one after another,
each dropping the translations of its context that meet it and releasing the walks parked there; then it completes. A walk
enters a valid leaf that is not migrating into both levels. -/
def Obligations.Translations : Prop :=
  (∀ (s s0 : State) (x : Iss) (a n c : SReg) (sc : Scope), Issues s false s0 x → x.ctx.priv = true →
    (∀ v, s0.invOf x = some v → v.ranges = [] →
      ∃ t, exec (.tlbinv a n c sc) s = .next t ∧ GoesOn s0 t x ∧ Kept { s0 with xlate := t.xlate } t x {} ∧
        t.xlate = { s0.xlate with invs := s0.xlate.invs.filter fun w => decide (w.id ≠ v.id) }) ∧
    (s0.invOf x = none → (∀ k ∈ x.slices, 1 ≤ x.s k n ∧ x.s k n ≤ 3 ^ 36 ∧ x.s k c = 0) →
      ∃ t, exec (.tlbinv a n c sc) s = .next t ∧ Kept { s0 with xlate := t.xlate } t x {} ∧
        t.xlate = { s0.xlate with nextId := s0.xlate.nextId + 1, invs := s0.xlate.invs ++
          [{ id := s0.xlate.nextId, team := x.issue.team, gang := x.issue.gang, slices := x.slices,
             ranges := x.slices.map fun k => (x.ctx.num, 19683 * (x.s k a / 19683), 19683 * ((x.s k a + x.s k n - 1) / 19683) + 19682) }] } ∧
        ∀ k ∈ x.slices, t.pcOf x.issue.team x.issue.gang k = (x.gang.slice k).pc ∧
          (t.slc x.issue.team x.issue.gang k).stall = some .fenceWait)) ∧
  (∀ (s : State) (id : Nat) (v : TlbInv) (c : Nat) (lo hi : Int) (rest : List (Nat × Int × Int)),
    (s.xlate.invs.find? fun v => decide (v.id = id)) = some v → v.ranges = (c, lo, hi) :: rest → s.rangeQuiet c lo hi = true →
    ∃ t, exec (.tlbinvComplete id) s = .next t ∧ t = { s with xlate := t.xlate } ∧
      (∀ e, e ∈ t.xlate.tlb ↔ e ∈ s.xlate.tlb ∧ ¬ (e.ctx = c ∧ e.page ≤ hi ∧ lo < e.page + 3 ^ e.leaf.size)) ∧
      (∀ q, q ∈ t.xlate.parked ↔ q ∈ s.xlate.parked ∧ ¬ (q.ctx = c ∧ q.first ≤ hi ∧ lo ≤ q.last)) ∧
      t.xlate.invs = mapIf (fun w => decide (w.id = id)) (fun w => { w with ranges := rest }) s.xlate.invs ∧ t.xlate.nextId = s.xlate.nextId) ∧
  (∀ (s : State) (core : Nat) (n : Nat) (a : Addr) (c : Context) (l : Leaf), s.ctx? n = some c → core ≤ 1023 →
    -maxTrits 36 ≤ a → a ≤ maxTrits 36 → isLocal a = false → (a < 0 → c.priv = true) → (a < 0 ∨ 19683 ≤ a) → s.walk c a = .leaf l →
    s.mem.upsets = [] →
    ∃ t, exec (.translationWalk core n a) s = .next t ∧
      t.cut true false = State.cut true false { s with xlate := { s.xlate with tlb := t.xlate.tlb } } ∧
      (l.migrating = true → t.xlate.tlb = s.xlate.tlb) ∧
      (l.migrating = false →
        let e : TlbEntry := { core := true, at_ := core, ctx := n, page := pageBase l.size a, leaf := l }
        let f : TlbEntry := { e with core := false, at_ := core / 64 }
        e ∈ t.xlate.tlb ∧ f ∈ t.xlate.tlb ∧ ∀ g ∈ t.xlate.tlb, g = e ∨ g = f ∨ g ∈ s.xlate.tlb))

/-- R186, R233: CWB leaves the lines of the slices' ranges clean in the shared cache, CWBI takes them out of it, no slot being upset, CINV ends the issuing
core's leases on them, and a lease may end by itself after 6,561 cycles; memory is as it was. -/
def CacheAndLeases : Prop :=
  (∀ (s s0 : State) (x : Iss) (a n : SReg), Issues s false s0 x → s0.mem.upsets = [] →
    (∀ k ∈ x.slices, 1 ≤ x.s k n ∧ x.s k n ≤ 3 ^ 18 ∧ -maxTrits 36 ≤ x.s k a ∧ x.s k a ≤ maxTrits 36) →
    let named := fun (l : Nat) => x.slices.any fun k =>
      (s0.homedLines (x.who none) (x.s k a) (x.s k n)).any fun r => decide (r.1 ≤ l) && decide (l ≤ r.2)
    let result (i : Instr) (cache : List CacheLine) (leases : List Lease) : Prop :=
      ∃ t, exec i s = .next t ∧ GoesOn s0 t x ∧ Kept s0 t x { touch := true } ∧ t.mem.cache = cache ∧ t.mem.leases = leases
    result (.cwb a n) (s0.mem.cache.map fun c => if named c.line = true ∧ c.dirty = true then { c with dirty := false } else c) s0.mem.leases ∧
    result (.cwbi a n) (s0.mem.cache.filter fun c => !named c.line) s0.mem.leases ∧
    result (.cinv a n) s0.mem.cache (s0.mem.leases.filter fun l => !(decide (l.core = x.team.core) && named l.line))) ∧
  (∀ (s : State) (core line : Nat) (l : Lease), (s.mem.leases.find? fun q => decide (q.core = core) && decide (q.line = line)) = some l →
    l.since + 6561 ≤ s.clock.cycle →
    exec (.leaseExpiry core line) s = .next { s with mem := { s.mem with leases := s.mem.leases.filter fun q =>
      !(decide (q.core = core) && decide (q.line = line)) } })

/-- FENCE and the cache instructions complete. Logs 39 and 40. -/
def Obligations.FencesAndCaches : Prop := Fences ∧ CacheAndLeases

/-- What an explicit phaser holds (R116). -/
structure Ph where
  phase    : Int
  count    : Int
  arrived  : Int
  expected : Int
  landed   : Int

/-- The well-formed phaser at a place of a team's scratchpad. -/
def phaserOf (s : State) (q : Nat × Nat) : Option Ph :=
  (s.team? q.1).bind fun u =>
    if sub 0 9 (u.phWord q.2 1) = 0 then some ⟨u.phPhase q.2, u.phCount q.2, u.phArrived q.2, u.phExpected q.2, u.phLanded q.2⟩ else none

/-- R117: a phaser whose slices have all arrived and whose expected trytes have landed completes its phase. -/
def Ph.test (p : Ph) : Ph :=
  if p.arrived = p.count ∧ p.expected ≤ p.landed then ⟨wrap 27 (p.phase + 1), p.count, 0, 0, p.landed - p.expected⟩ else p

/-- R117: the same test as an ordinary store makes it, which completes no phase that nobody has arrived at or expects. -/
def Ph.stored (p : Ph) : Ph := if p.arrived ≠ 0 ∨ p.expected ≠ 0 then p.test else p

/-- R117, R119: the three words of a new phaser stored one after another, each with its test. -/
def Ph.init (p : Ph) (n : Int) : Ph :=
  ({ ({ ({ p with phase := 0 } : Ph).stored with count := n, arrived := 0 } : Ph).stored with expected := 0, landed := 0 } : Ph).stored

/-- What the words at a place of a team's scratchpad say, whether or not they make a well-formed phaser. -/
def wordsAt (s : State) (q : Nat × Nat) : Option Ph :=
  (s.team? q.1).map fun u => ⟨u.phPhase q.2, u.phCount q.2, u.phArrived q.2, u.phExpected q.2, u.phLanded q.2⟩

/-- The state but for what accesses to phasers have made of waits (R143). -/
def unfated (s : State) : State :=
  { s with teams := s.teams.map fun u =>
      { u with gangs := u.gangs.map fun g => { g with slices := g.slices.map fun y => { y with fate := .waits } } } }

/-- The flags of every job that has completed visibly have been merged (R31). -/
def JobsMerged (s : State) : Prop := ∀ c ∈ s.ctxs, ∀ j ∈ c.jobs, j.state = .visible ∨ j.state = .readDone → j.merged = true

/-- R121: PHEXPs of one phaser, one after another. -/
def Ph.expect (p : Ph) : List Int → Option Ph
  | [] => some p
  | y :: ys => if y < 0 ∨ p.expected + y < 0 ∨ p.expected + y > 797161 then none else ({ p with expected := p.expected + y } : Ph).test.expect ys

/-- Two places of phasers are one or lie apart. -/
def apart (p q : Nat × Nat) : Prop := p = q ∨ p.1 ≠ q.1 ∨ p.2 + 9 ≤ q.2 ∨ q.2 + 9 ≤ p.2

/-- R116 to R121: PHINIT initialises phasers, PHARR adds the slices that name a phaser to its arrivals and returns the phase that was
current, PHEXP raises what is expected, and each completes the phase when its conditions hold; PHARR.w and PHWAIT wait until a phase has
passed. No other word of a scratchpad changes; what the completed phases mean for waits is stated beside the releases (R143). Logs 19, 23 and 58. -/
def Obligations.Phasers : Prop :=
  ∀ (s s0 : State) (x : Iss) (a y z : SReg) (q : Nat → Nat × Nat), Issues s true s0 x →
    (∀ k ∈ x.slices, s0.phaserAt x.team (x.s k a) = .ok (q k)) → (∀ j ∈ x.slices, ∀ k ∈ x.slices, apart (q j) (q k)) →
    let admits := fun (op : AccOp) (ds : List Dest) => ∃ p, Admits s0 x { Uses.none with accs := x.phAccs a op, dests := ds } p []
    let same := fun (t : State) => ∀ u o, (∀ k ∈ x.slices, (q k).1 = u → o < (q k).2 ∨ (q k).2 + 9 ≤ o) → t.scratchAt u o = s0.scratchAt u o
    let mates := fun k => x.slices.filter fun j => decide (q j = q k)
    (∀ f : Nat → Ph, (∀ k ∈ x.slices, wordsAt s0 (q k) = some (f k) ∧ 0 ≤ (f k).expected) → admits .store [] →
      (∀ k ∈ x.slices, 0 ≤ x.s k y ∧ x.s k y ≤ 9841) → (∀ k ∈ x.slices, ∀ u, s0.team? (q k).1 = some u → ∀ o ∈ u.phasers, apart ((q k).1, o) (q k)) →
      ∃ t, exec (.phinit a y) s = .next t ∧ Kept (unfated s0) (unfated t) x {} ∧ GoesOn s0 t x ∧ same t ∧
        ∀ k ∈ x.slices, phaserOf t (q k) = some ((mates k).foldl (fun p j => p.init (x.s j y)) (f k))) ∧
    (∀ f : Nat → Ph, (∀ k ∈ x.slices, phaserOf s0 (q k) = some (f k)) →
      let after := fun k => ({ f k with arrived := (f k).arrived + (mates k).length } : Ph).test
      (admits .rmw (x.sDests z) → (∀ k ∈ x.slices, x.s k y = (f k).count ∧ (f k).arrived + (mates k).length ≤ (f k).count ∧ 0 ≤ (f k).expected) →
        let result := fun (i : Instr) (w : Nat → Option Wait) =>
          ∃ t, exec i s = .next t ∧ Kept (unfated s0) (unfated t) x { sca := fun k r => k ∈ x.slices ∧ r = z ∧ z ≠ 0 } ∧ same t ∧ Waits s0 t x w ∧
            (∀ k ∈ x.slices, phaserOf t (q k) = some (after k)) ∧
            ∀ k ∈ x.slices, z ≠ 0 → t.sreg x.issue.team x.issue.gang k z = (f k).phase
        result (.pharr a y z) (fun _ => none) ∧
        (JobsMerged s0 → result (.pharrW a y z) fun k => if passed (after k).phase (f k).phase then none else some (.phaser (x.s k a) (f k).phase))) ∧
      (admits .rmw [] → (∀ k ∈ x.slices, ((f k).expect ((mates k).map fun j => x.s j y)).isSome = true) →
        ∃ t, exec (.phexp a y) s = .next t ∧ Kept (unfated s0) (unfated t) x {} ∧ GoesOn s0 t x ∧ same t ∧
          ∀ k ∈ x.slices, phaserOf t (q k) = (f k).expect ((mates k).map fun j => x.s j y)) ∧
      (admits .load [] → JobsMerged s0 → ∃ t, exec (.phwait a y) s = .next t ∧ Kept s0 t x {} ∧ (∀ u o, t.scratchAt u o = s0.scratchAt u o) ∧
        Waits s0 t x fun k => if passed (f k).phase (x.s k y) then none else some (.phaser (x.s k a) (x.s k y))))

/-- R121: YIELD takes the issue set out of issue until every phase that its slices name has passed, and continues each slice at its
continuation; where they all have passed it does so at once. -/
def Yields : Prop :=
  (∀ (s s0 : State) (x : Iss) (a y z : SReg) (f : Nat → Ph) (q : Nat → Nat × Nat), Issues s true s0 x → s0.cfg? x.ctx.agency = none → JobsMerged s0 →
    (∀ k ∈ x.slices, s0.phaserAt x.team (x.s k a) = .ok (q k) ∧ phaserOf s0 (q k) = some (f k) ∧ targetCause (x.s k z) = none) →
    (∃ p, Admits s0 x { Uses.none with accs := x.phAccs a .load } p []) →
    ∃ t, exec (.yield a y z) s = .next t ∧ Kept s0 t x {} ∧
      ((∀ k ∈ x.slices, passed (f k).phase (x.s k y) = true) →
        ∀ k ∈ x.slices, t.pcOf x.issue.team x.issue.gang k = x.s k z ∧ (t.slc x.issue.team x.issue.gang k).wait = none) ∧
      ((∃ k ∈ x.slices, passed (f k).phase (x.s k y) = false) → Waits s0 t x fun k => some (.yield (x.s k a) (x.s k y) (x.s k z)))) ∧
  (∀ (s : State) (i : IssueRef) (u : Team) (g : Gang) (c : Nat → Int), s.team? i.team = some u → u.gang? i.gang = some g →
    s.scope.cfgs = [] → u.mayLeave g (g.subgang i.slice) = true → JobsMerged s →
    (∀ k ∈ g.subgang i.slice, (∃ a p, (g.slice k).wait = some (.yield a p (c k))) ∧ (g.slice k).fate = .passes) →
    ∃ t, exec (.yieldResume i) s = .next t ∧ t = { s with teams := t.teams } ∧
      (∀ v b, (v, b) ≠ (i.team, i.gang) → t.gang? v b = s.gang? v b) ∧
      ∀ k < g.slices.length, let y := t.slc i.team i.gang k
        y.s = (g.slice k).s ∧ if k ∈ g.subgang i.slice then y.pc = c k ∧ y.wait = none else y.pc = (g.slice k).pc ∧ y.wait = (g.slice k).wait)

/-- Every slice of every participant of a team's phase has arrived (R123). -/
def allArrived (u : Team) (parts : List Nat) (arrived : List (Nat × Nat)) : Bool :=
  parts.all fun p => match u.live.find? fun g => decide (g.idx = p) with
    | some g => g.liveSlices.all fun k => arrived.contains (p, k)
    | none => false

/-- R123, R141, R144: BAR and SYNCS arrive at the phaser of the team or the gang, whose participants the first arrival fixes; the phase
completes when all have arrived, and until then the arriving slices wait. -/
def Barriers : Prop :=
  ∀ (s s0 : State) (x : Iss), Issues s true s0 x → x.slices ≠ [] →
    (∀ m : MReg, let set := x.gang.mask m
      let parts := if x.team.bar.parts = [] then x.team.namedLive set else x.team.bar.parts
      let arrived := x.team.bar.arrived ++ x.slices.map fun k => (x.issue.gang, k)
      (∀ i < 27, tritAt i set ≠ -1) → tritAt x.issue.gang set = 1 → (x.team.bar.parts = [] → x.team.arrivals = []) →
      (x.team.bar.parts ≠ [] → x.issue.gang ∈ parts ∧ (∀ p ∈ parts, p < 100 ∧ tritAt p set = 1) ∧ ∀ p ∈ x.team.namedLive set, p ∈ parts) →
      ∃ t, exec (.bar m) s = .next t ∧ Kept s0 t x {} ∧
        let done := parts ≠ [] ∧ allArrived x.team parts arrived = true
        (done → Waits s0 t x (fun _ => none) ∧
          (t.team? x.issue.team).map Team.bar = some ⟨wrap 27 (x.team.bar.phase + 1), 0, [], []⟩) ∧
        (¬ done → Waits s0 t x (fun _ => some (.bar x.team.bar.phase)) ∧
          (t.team? x.issue.team).map (fun u => (u.bar.phase, u.bar.parts, u.bar.arrived)) = some (x.team.bar.phase, parts, arrived))) ∧
    (∀ r : SReg, let parts := x.gang.syncSet (x.s x.low r)
      let arrived := x.gang.phaser.arrived ++ x.slices.map fun k => (x.gang.idx, k)
      (∀ k ∈ x.slices, highZero 9 (x.s k r) = true ∧ hasMinus 9 (x.s k r) = false ∧ x.gang.syncSet (x.s k r) = parts ∧ k ∈ parts) →
      (x.gang.phaser.parts = [] ∨ x.gang.phaser.parts = parts) → x.gang.regangs = [] → (∀ k ∈ parts, (x.gang.slice k).ended = false) →
      ∃ t, exec (.syncs r) s = .next t ∧ Kept s0 t x {} ∧
        ((∀ k ∈ parts, (x.gang.idx, k) ∈ arrived) → Waits s0 t x fun _ => none) ∧
        ((∃ k ∈ parts, (x.gang.idx, k) ∉ arrived) → Waits s0 t x fun _ => some (.syncs x.gang.phaser.phase)))

/-- BAR, SYNCS and REGANG complete when all have arrived. Log 19. -/
def Obligations.Meetings : Prop := Barriers ∧ Regang

/-- R50, R126, R143: the slices of a sub-gang whose waits are over leave them past the waiting instruction, the others stay; every access that may
complete a phaser's phase decides the waits on it; and the oldest result whose window is used up lands in its register. -/
def Releases : Prop :=
  (∀ (s : State) (i : IssueRef) (u : Team) (g : Gang), s.team? i.team = some u → u.gang? i.gang = some g →
    u.mayLeave g (g.subgang i.slice) = true → JobsMerged s →
    let isOver := fun k => ∃ w, (g.slice k).wait = some w ∧ (∀ a p c, w ≠ .yield a p c) ∧ testWait u g k w = .passes
    (∃ k ∈ g.subgang i.slice, isOver k) → (∀ k w, (g.slice k).wait = some w → testWait u g k w ≠ .malformed) →
    ∃ t, exec (.waitRelease i) s = .next t ∧ t = { s with teams := t.teams } ∧
      (∀ v b, (v, b) ≠ (i.team, i.gang) → t.gang? v b = s.gang? v b) ∧
      ∀ k < g.slices.length, let y := t.slc i.team i.gang k
        y.s = (g.slice k).s ∧
        (k ∈ g.subgang i.slice ∧ isOver k → y.pc = (g.slice k).pc + 3 ∧ y.wait = none) ∧
        (¬ (k ∈ g.subgang i.slice ∧ isOver k) → y.pc = (g.slice k).pc ∧ y.wait = (g.slice k).wait)) ∧
  (∀ (s : State) (p : Nat × Nat) (u v : Team) (g : Gang) (a b k : Nat) (n ph c : Int), s.team? p.1 = some u → s.team? a = some v →
    v.gang? b = some g → k < g.slices.length → (g.slice k).wait = some (.phaser n ph) ∨ (g.slice k).wait = some (.yield n ph c) →
    s.phaserAt v n = .ok p → (g.slice k).fate = .waits →
    (s.freeWaiters p).slc a b k = { g.slice k with fate :=
      (if sub 0 9 (u.phWord p.2 1) ≠ 0 then .malformed else if passed (u.phPhase p.2) ph then .passes else .waits) }) ∧
  (∀ (s : State) (a b : Nat) (u : Team) (g : Gang) (p : Pending), s.team? a = some u → u.gang? b = some g → u.onCore = true →
    g.pending.find? (fun q => decide (q.remaining = 0) && q.slices.all fun k => (g.slice k).sweep.isNone) = some p → (g.pending.filter fun q => decide (q = p)).length = 1 →
    ∃ t, exec (.lookaheadResultLands a b) s = .next t ∧ t = { s with teams := t.teams } ∧
      t.pendsOf a b = g.pending.filter (fun q => decide (q ≠ p)) ∧ t.flagsOf a b = joinF g.flags p.flags ∧
      (∀ r l, t.vlane a b r l = match p.dest with
        | .vec d => if d = r ∧ l < 27 ∧ l ∈ p.writes.map Prod.fst then ((p.writes.filter fun w => decide (w.1 = l)).getLast?.map Prod.snd).getD 0
                    else if l < 27 ∧ (∀ w ∈ p.writes, w.1 < 27) then g.lane r l else t.vlane a b r l
        | _ => g.lane r l) ∧
      (∀ k r, k < g.slices.length → t.sreg a b k r = match p.dest with
        | .sca j d => if j = k ∧ d = r ∧ r ≠ 0 then (p.writes.headD (0, 0)).2 else (g.slice k).get r
        | _ => (g.slice k).get r) ∧
      (∀ r, (∀ d, p.dest ≠ .msk d ∨ d ≠ r) → t.mreg a b r = g.mask r))

/-- YIELD, the end of waits, and the landing of pending results. Log 19. -/
def Obligations.WaitsEnd : Prop := Yields ∧ Releases

/-- R79, R124, R138, R140: RACQ acquires the blocks that the slices name when no request waits at the core and the pool covers them, and says
so in a mask; RACQ.w waits for them in order; RREL gives blocks back. Acquired and released blocks read zero. Log 37. -/
def Obligations.RegisterBlocks : Prop :=
  ∀ (s s0 : State) (x : Iss) (r : SReg), Issues s true s0 x → s0.cfg? x.ctx.agency = none → x.gang.bank = none →
    (∀ k ∈ x.slices, highZero 9 (x.s k r) = true ∧ hasMinus 9 (x.s k r) = false) → (∀ b < 9, tritAt b x.gang.blocks ≠ -1) →
    let named := fun b => ∃ k ∈ x.slices, tritAt b (x.s k r) = 1
    let free := s0.racqWaits x.team.core = false ∧
      ((List.range 9).filter fun b => (x.slices.any fun k => decide (tritAt b (x.s k r) = 1)) && !x.gang.holds b).length ≤ s0.freeBlocks x.team.core
    let blocks := fun (t : State) (p : Nat → Prop) => ∃ g, t.gang? x.issue.team x.issue.gang = some g ∧ ∀ b < 9, (g.holds b = true ↔ p b)
    let fresh := fun (t : State) (p : Nat → Prop) => ∀ v : VReg, p (v.val / 9) → ∀ l < 27, t.vlane x.issue.team x.issue.gang v l = 0
    (∀ m : MReg, x.clear (if m.val = 0 then [] else [.msk m]) →
      ∃ t, exec (.racq r m) s = .next t ∧ GoesOn s0 t x ∧
        Kept s0 t x { msk := fun q => q = m ∧ m ≠ 0, vec := fun v _ => free ∧ named (v.val / 9) ∧ x.gang.holds (v.val / 9) = false } ∧
        (free → blocks t (fun b => x.gang.holds b = true ∨ named b) ∧ fresh t fun b => named b ∧ x.gang.holds b = false) ∧
        (¬ free → blocks t fun b => x.gang.holds b = true) ∧
        (m ≠ 0 → ∀ l ∈ x.lanes, l < 27 → (tritAt l (t.mreg x.issue.team x.issue.gang m) = 1 ↔ free) ∧
          (tritAt l (t.mreg x.issue.team x.issue.gang m) = 0 ↔ ¬ free))) ∧
    (free → ∃ t, exec (.racqW r) s = .next t ∧ GoesOn s0 t x ∧
      Kept s0 t x { vec := fun v _ => named (v.val / 9) ∧ x.gang.holds (v.val / 9) = false } ∧
      blocks t (fun b => x.gang.holds b = true ∨ named b) ∧ fresh t fun b => named b ∧ x.gang.holds b = false) ∧
    (¬ free → ∃ t v, exec (.racqW r) s = .next t ∧ Kept { s0 with eng := t.eng } t x {} ∧ Waits s0 t x (fun _ => some (.racq v)) ∧
      t.eng = { s0.eng with racq := s0.eng.racq ++ [(x.issue.team, x.issue.gang, x.low, v)] } ∧ ∀ b < 9, (tritAt b v = 1 ↔ named b)) ∧
    (s0.racqWaits x.team.core = false → x.gang.landsInto (List.range 9) = false →
      ∃ t, exec (.rrel r) s = .next t ∧ GoesOn s0 t x ∧ Kept s0 t x { vec := fun v _ => named (v.val / 9) ∧ x.gang.holds (v.val / 9) = true } ∧
        blocks t (fun b => x.gang.holds b = true ∧ ¬ named b) ∧ fresh t fun b => named b ∧ x.gang.holds b = true)

/-- R125, R146: slices that execute PHASE in either form wait at the boundary with what they carry until it can be passed. With the arrival of
the last slice of a team of no group, nothing of its gangs being under way and no work asking for its place, the boundary is passed: every
slice goes on past its PHASE, with only the scalar registers, and its gang only the blocks, that the arrivals carry. -/
def Obligations.PhaseBoundaries : Prop :=
  (∀ row ∈ ([(.phase, false), (.phaseT, true)] : List ((SReg → SReg → Instr) × Bool)), ∀ (s s0 : State) (x : Iss) (a b : SReg),
    Issues s true s0 x → (∀ k ∈ x.slices, ∀ i < 9, (tritAt i (x.s k a) = 1 ↔ tritAt i (x.s x.low a) = 1)) →
    let set := tritSet ((List.range 9).filter fun i => decide (tritAt i (x.s x.low a) = 1))
    (∀ c ∈ x.team.arrivals, c.gang = x.issue.gang → c.blocks = set ∧ c.tiles = row.2) →
    (∃ g ∈ x.team.live, g.idx ≠ x.issue.gang ∧ ∃ k ∈ g.liveSlices, ∀ c ∈ x.team.arrivals, c.gang = g.idx → c.slice ≠ k) →
    x.team.bar.parts = [] → x.team.place = .resident → x.team.ended = false →
    ∃ t, exec (row.1 a b) s = .next t ∧ Kept s0 t x {} ∧ Waits s0 t x (fun _ => some .boundary) ∧
      (t.team? x.issue.team).map Team.arrivals = some (x.team.arrivals ++ x.slices.map fun k => ⟨x.issue.gang, k, set, x.s k b, row.2⟩)) ∧
  (∀ row ∈ ([(.phase, false), (.phaseT, true)] : List ((SReg → SReg → Instr) × Bool)), ∀ (s s0 : State) (x : Iss) (a b : SReg),
    Issues s true s0 x → x.slices ≠ [] → (∀ k ∈ x.slices, ∀ i < 9, (tritAt i (x.s k a) = 1 ↔ tritAt i (x.s x.low a) = 1)) →
    let set := tritSet ((List.range 9).filter fun i => decide (tritAt i (x.s x.low a) = 1))
    let as := x.team.arrivals ++ x.slices.map fun k => ⟨x.issue.gang, k, set, x.s k b, row.2⟩
    (∀ c ∈ x.team.arrivals, (c.gang = x.issue.gang → c.blocks = set) ∧ c.tiles = row.2) →
    x.team.group ≤ 1 → x.team.bar.parts = [] → x.team.place = .resident → x.team.ended = false →
    (∀ g ∈ x.team.live, (∀ k ∈ g.liveSlices, ∃ c ∈ as, c.gang = g.idx ∧ c.slice = k) ∧ g.ops = [] ∧
      (∀ c ∈ s0.eng.copies, c.team = x.issue.team → c.gang ≠ g.idx) ∧
      ∀ c ∈ s0.ctxs, ∀ j ∈ c.jobs, j.team = x.issue.team → j.gang = g.idx → j.state = .visible ∨ j.state = .finished) →
    (∀ p ∈ s0.pending, p.prio < x.grid.prio ∨ (p.prio = x.grid.prio ∧ s0.clock.cycle - p.since < 1594323)) →
    s0.racqWaits x.team.core = false →
    ∃ t, exec (row.1 a b) s = .next t ∧ (∀ p, t.hbmAt p = s0.hbmAt p) ∧ (∀ v e, v ≠ x.issue.team → t.gang? v e = s0.gang? v e) ∧
      (t.team? x.issue.team).map Team.arrivals = some [] ∧
      ∀ e g, x.team.gang? e = some g → g.bank = none → (∀ i < 9, tritAt i g.blocks ≠ -1) →
        ∀ c ds, as.filter (fun c => decide (c.gang = e)) = c :: ds → ∃ h, t.gang? x.issue.team e = some h ∧
          (∀ i < 9, h.holds i = true ↔ (g.holds i = true ∧ tritAt i c.blocks = 1)) ∧
          ∀ k < g.slices.length, ∀ d, (c :: ds).find? (fun c => decide (c.slice = k)) = some d →
            (h.slice k).pc = (g.slice k).pc + 3 ∧ (h.slice k).wait = none ∧
            ∀ r : SReg, (h.slice k).get r = if tritAt r.val d.scalars = 1 then (g.slice k).get r else 0) ∧
  (∀ (u : Team) (g : Gang) (a : Arrival) (as : List Arrival), u.arrivals.filter (fun c => decide (c.gang = g.idx)) = a :: as → g.bank = none →
    (∀ i < 9, tritAt i g.blocks ≠ -1) →
    let h := u.passGang g
    (∀ i < 9, h.holds i = true ↔ (g.holds i = true ∧ tritAt i a.blocks = 1)) ∧
    (∀ (v : VReg) l, l < 27 → h.lane v l = if g.holds (v.val / 9) = true ∧ tritAt (v.val / 9) a.blocks ≠ 1 then 0 else g.lane v l) ∧
    ∀ k < g.slices.length, ∀ c, (a :: as).find? (fun c => decide (c.slice = k)) = some c →
      (h.slice k).pc = (g.slice k).pc + 3 ∧ (h.slice k).wait = none ∧
      ∀ r : SReg, (h.slice k).get r = if tritAt r.val c.scalars = 1 then (g.slice k).get r else 0)

/-- The batches of a slice after its reports are settled (R202, R207): those whose every entry is visible are gone from the front, and the
front of those whose every entry is read is marked so. -/
def batchesLeft (s : State) (ctx : Nat) (bs : List Batch) : List Batch :=
  (bs.zipIdx.map fun p => { p.1 with rd := p.1.rd || decide (p.2 < (s.reported ctx false bs).length) }).drop (s.reported ctx true bs).length

/-- R199, R202 to R205, R207, R208: CPY hands a lane copy for each active lane to the copy engine of the core, as one entry of each slice's open
batch; CPSEAL closes the open batch under the next number; CPWAIT waits until all but the newest n
batches are reported at its stage, and merges the flags of the jobs of those that it covers. -/
def CopyCommands : Prop :=
  (∀ row ∈ ([(.cpyG, false), (.cpyS, true)] : List ((CpyF → Instr) × Bool)),
    ∀ (s s0 : State) (x : Iss) (f : CpyF) (p : List (List Loc)) (rem : List (Nat × RemoteReply)), Issues s false s0 x →
    let run := x.active f.attr 0
    let src := fun i => x.s (i / 3) f.y + if row.2 then 27 * (i : Int) else x.v f.x i
    let dst := fun i => x.s (i / 3) f.z + if row.2 then x.v f.x i else 27 * (i : Int)
    let count := fun i => match f.attr.bind Attr.fourth with | some r => x.v r i | none => 27
    (∀ i ∈ run, 0 ≤ count i ∧ count i ≤ 27 ∧ (x.gang.slice (i / 3)).copy.openB.length < 27) →
    Admits s0 x { Uses.none with
      vregs := f.x :: (match f.attr.bind Attr.fourth with | some r => [r] | none => []), later := true,
      accs := run.flatMap fun i => [⟨[i], none, src i, (count i).toNat, .load, true⟩, ⟨[i], none, dst i, 27, .store, true⟩] } p rem →
    (s0.eng.copies.filter fun c => decide (c.core = x.team.core)).length + run.length ≤ 243 →
    ∃ t, exec (row.1 f) s = .next t ∧ GoesOn s0 t x ∧ Kept { s0 with eng := t.eng } t x {} ∧
      t.eng = { s0.eng with
        copies := s0.eng.copies ++ run.zipIdx.map fun q =>
          { id := s0.eng.nextId + q.2, core := x.team.core, ctx := x.ctx.num, team := x.issue.team, grid := x.grid.num, gang := x.issue.gang,
            slice := q.1 / 3, lane := q.1, cpy := s0.eng.nextId, word := x.word, src := src q.1, dst := dst q.1,
            srcs := p.getD (2 * q.2) [], dsts := p.getD (2 * q.2 + 1) [], stage := 0, data := [], watched := false, scope := f.scope,
            pages := s0.pagesOf (x.who none) (src q.1) (count q.1).toNat ++ s0.pagesOf (x.who none) (dst q.1) 27 },
        nextId := s0.eng.nextId + run.length } ∧
      ∀ k ∈ x.slices, (t.slc x.issue.team x.issue.gang k).copy =
        let ids := (run.zipIdx.filter fun q => decide (q.1 / 3 = k)).map fun q => s0.eng.nextId + q.2
        let c := (x.gang.slice k).copy
        if ids = [] then c else { c with openB := c.openB ++ [.copies ids] }) ∧
  (∀ (s s0 : State) (x : Iss) (a d : SReg), Issues s false s0 x → x.slices.Nodup → s0.cfg? x.ctx.agency = none → x.clear (x.sDests d) →
    (∀ k ∈ x.slices, (x.s k a = 0 ∨ ∃ q, s0.phaserAt x.team (x.s k a) = .ok q) ∧ (x.gang.slice k).copy.sealed.length < 27) →
    ∃ t, exec (.cpseal a d) s = .next t ∧ GoesOn s0 t x ∧ Kept (unfated s0) (unfated t) x { sca := fun k r => k ∈ x.slices ∧ r = d ∧ d ≠ 0 } ∧
      ∀ k ∈ x.slices, let c := (x.gang.slice k).copy
        (d ≠ 0 → t.sreg x.issue.team x.issue.gang k d = wrap 54 (c.last + 1)) ∧
        (t.slc x.issue.team x.issue.gang k).copy =
          ⟨[], c.last + 1, batchesLeft s0 x.ctx.num (c.sealed ++ [⟨c.last + 1, x.s k a, c.openB, false⟩])⟩) ∧
  (∀ (s s0 : State) (x : Iss) (r : SReg), Issues s true s0 x → (∀ k ∈ x.slices, 0 ≤ x.s k r) → s0.ctxHalted x.ctx.num = false →
    let wait := fun (vis : Bool) (w : Int → Wait) k =>
      let bs := (x.gang.slice k).copy.sealed.filter fun b => vis || !b.rd
      if (bs.length : Int) ≤ x.s k r then none else some (w (x.s k r))
    ∀ row ∈ ([(.cpwaitRd r, false, .batchRd), (.cpwaitVis r, true, .batchVis)] : List (Instr × Bool × (Int → Wait))),
      ∃ t, exec row.1 s = .next t ∧ Kept { s0 with ctxs := t.ctxs } t x { flags := True } ∧ Waits s0 t x (wait row.2.1 row.2.2) ∧
        ∀ k, x.slices = [k] → wait row.2.1 row.2.2 k = none →
          Raised s0 t x ((x.ctx.jobs.filter fun j => decide (j.team = x.issue.team ∧ j.gang = x.issue.gang ∧ j.slice = k ∧
            (j.state = .visible ∨ row.2.1 = false ∧ j.state = .readDone) ∧ j.merged = false ∧ .job j.num ∉ (x.gang.slice k).copy.openB ∧
            ∀ b ∈ (x.gang.slice k).copy.sealed, row.2.1 = true ∨ b.rd = false → .job j.num ∉ b.entries)).map Job.flags))

/-- R188, R199, R205: a lane copy whose turn it is reads its source, zeros filling it to 27 trytes; after the lower lanes of its CPY are
visible, its 27 trytes enter memory together, and the leases of the cores that its scope covers on their lines end; one that faulted ends, with
nothing written and nothing to land, once the fault is acknowledged. Each step reports what it completes. -/
def CopySteps : Prop :=
  ∀ (s : State) (id : Nat) (c : LaneCopy), s.copy? id = some c → s.entering = false → s.scope.watches = [] → s.mem.upsets = [] → s.cfg? (s.agencyOf c.ctx) = none →
    let rest := s.eng.copies.filter fun d => decide (d.id ≠ id)
    let settled := fun (t : State) (u : State) => ∀ g, s.gang? c.team c.gang = some g → c.gang < 27 → c.slice < g.slices.length →
      (t.slc c.team c.gang c.slice).copy = { (g.slice c.slice).copy with sealed := batchesLeft u c.ctx (g.slice c.slice).copy.sealed }
    (c.stage = 0 → s.gated c.core = false → s.mayStart c.ctx c.team c.gang = true → (∀ d ∈ s.eng.copies, d.core = c.core → d.stage ≠ -1) →
      (∀ l ∈ c.srcs, s.badLoc l = false ∧ l.isPeer = false) →
      ∃ t, exec (.laneCopyReadDone id) s = .next t ∧
        t = { s with eng := t.eng, teams := t.teams, mem := { s.mem with cache := t.mem.cache, comp := t.mem.comp }, hub := t.hub, fab := t.fab } ∧
        t.eng = { s.eng with copies := mapIf (fun d => decide (d.id = id)) (fun d => { d with
          stage := 1, watched := false, data := (c.srcs.map fun l => s.readLoc false l) ++ List.replicate (27 - c.srcs.length) 0 }) s.eng.copies } ∧
        settled t { s with eng := t.eng }) ∧
    (c.stage = 1 → c.watched = false → s.overheated = false → (∀ d ∈ s.eng.copies, (d.core = c.core → d.stage ≠ -1) ∧ (d.cpy = c.cpy → c.lane ≤ d.lane)) →
      (s.ctx? c.ctx).isSome = true → (∀ l ∈ c.dsts, l.isOwn = true ∧ s.badLoc l = false ∧ Plain s l ∧ ∀ a o, l = .scratch a o → (s.team? a).isSome = true) →
      ∃ t, exec (.laneCopyVisible id) s = .next t ∧ t.eng = { s.eng with copies := rest } ∧
        t = { s with eng := t.eng, teams := t.teams, mem := t.mem, grids := t.grids, hub := t.hub, fab := t.fab } ∧
        t.mem.leases = s.mem.leases.filter (fun l => !(c.dsts.any (fun q => match q with | .hbm o => decide (o / 81 = l.line) | _ => false) &&
          (match c.scope with
            | .core => decide (c.core = l.core) | .cluster => decide (c.core / 8 = l.core / 8)
            | .die => decide (c.core / 64 = l.core / 64) | _ => true))) ∧
        (∀ o, t.readLoc false (.hbm o) = (lastAt (c.dsts.zip c.data) (.hbm o)).getD (s.readLoc false (.hbm o))) ∧
        ((∀ g, s.gang? c.team c.gang = some g → ∀ b ∈ (g.slice c.slice).copy.sealed, b.phaser = 0) →
          ∀ a o, t.readLoc false (.scratch a o) = (lastAt (c.dsts.zip c.data) (.scratch a o)).getD (s.readLoc false (.scratch a o))) ∧
        settled t { s with eng := t.eng }) ∧
    (c.stage = -1 → s.ctxHalted c.ctx = false →
      ∃ t, exec (.faultedCopyFinish id) s = .next t ∧ t.eng = { s.eng with copies := rest } ∧ t = { s with eng := t.eng, teams := t.teams } ∧
        ∀ g, s.gang? c.team c.gang = some g → c.gang < 27 → c.slice < g.slices.length →
          let b := ((g.slice c.slice).forget id).copy
          (t.slc c.team c.gang c.slice).copy = { b with sealed := batchesLeft { s with eng := t.eng } c.ctx b.sealed })

/-- Copy instructions and the steps of the copy engines. -/
def Obligations.Copies : Prop := CopyCommands ∧ CopySteps

/-- R208 to R221: JOBSUB reads a card for each slice and submits it under the next number of the context; JOBQRY returns how far a job is;
ADVSTG submits the cards of the stage that the team has reached, or nothing for one already passed. -/
def JobCommands : Prop :=
  ∀ (s s0 : State) (x : Iss) (a d : SReg), Issues s false s0 x → x.slices.Nodup →
    let jobOf := fun (k n : Nat) (at_ : Int) (card : List Int) => ({
      num := n, ctx := x.ctx.num, team := x.issue.team, grid := x.grid.num,
      gang := x.issue.gang, slice := k, core := x.team.core, word := x.word, card := card, at_ := at_, rnd := x.gang.rnd, state := .submitted,
      engine := 0, pos := 0, fresh := 1, waiting := [], off := 0, sized := 0, next := 0, count := 0, stream := [], staged := [], entered := false, flags := 0,
      merged := false, watched := false } : Job)
    let writes : Writes := { sca := fun k r => k ∈ x.slices ∧ r = d ∧ d ≠ 0 }
    let open_ := fun (t : State) k => (t.slc x.issue.team x.issue.gang k).copy.openB
    (∀ (p : List (List Loc)) (rem : List (Nat × RemoteReply)),
      Admits s0 x { Uses.none with dests := x.sDests d, accs := x.cardAccs a 27 81 } p rem →
      let card := fun k => digits 54 27 (ofTrytes (readAt s0 false p rem (x.slices.idxOf k)))
      let num := fun k => x.ctx.jobSeq + 1 + x.slices.idxOf k
      (∀ k ∈ x.slices, s0.cardFaults x (card k) = [] ∧ (x.gang.slice k).copy.openB.length < 27) → x.ctx.openJobs + x.slices.length ≤ 2187 →
      ∃ t c, exec (.jobsub a d) s = .next t ∧ GoesOn s0 t x ∧ Kept { s0 with ctxs := t.ctxs } t x { writes with touch := true } ∧
        t.ctx? x.ctx.num = some c ∧ c.jobSeq = x.ctx.jobSeq + x.slices.length ∧
        (∀ k ∈ x.slices, jobOf k (num k) (x.s k a) (card k) ∈ c.jobs ∧ open_ t k = (x.gang.slice k).copy.openB ++ [.job (num k)] ∧
          (d ≠ 0 → t.sreg x.issue.team x.issue.gang k d = (num k : Int))) ∧
        ∀ j ∈ x.ctx.jobs, j.state ≠ .visible → j.state ≠ .finished → j ∈ c.jobs) ∧
    (x.clear (x.sDests d) → (∀ j ∈ x.ctx.jobs, j.team = x.issue.team ∧ j.gang = x.issue.gang) →
      let found := fun k => if 1 ≤ x.s k a ∧ x.s k a ≤ (x.ctx.jobSeq : Int) ∧ (x.ctx.jobSeq : Int) < x.s k a + 2187 then x.ctx.job? (x.s k a).toNat else none
      let answer := fun k => match found k with
        | none => -2
        | some j => match j.state with | .visible => 2 | .readDone => 1 | .submitted | .running => 0 | .faulted | .finished => (-1 : Int)
      ∃ t, exec (.jobqry a d) s = .next t ∧ GoesOn s0 t x ∧ Kept { s0 with ctxs := t.ctxs } t x { writes with flags := True } ∧
        (∀ k ∈ x.slices, d ≠ 0 → t.sreg x.issue.team x.issue.gang k d = answer k) ∧
        ∀ k, x.slices = [k] → Raised s0 t x (match found k with | some j => if answer k > 0 ∧ j.merged = false then [j.flags] else [] | none => [])) ∧
    (∀ reads : Nat → StageRead, x.clear (x.sDests d) → Unwatched s0 x → s0.mem.upsets = [] → x.grid.dbl 10 ≠ 0 →
      s0.stages x a x.slices x.team.stage = x.slices.map (fun k => (k, .ok (reads k))) →
      let cards := fun k => (reads k).cards
      x.ctx.openJobs + (x.slices.map fun k => (cards k).length).sum ≤ 2187 →
      let upTo := fun k => ((x.slices.take (x.slices.idxOf k)).map fun k => (cards k).length).sum
      ∃ t c, exec (.advstg a d) s = .next t ∧ GoesOn s0 t x ∧ Kept { s0 with ctxs := t.ctxs } t x { writes with touch := true } ∧ t.ctx? x.ctx.num = some c ∧
        c.jobSeq = x.ctx.jobSeq + (x.slices.map fun k => (cards k).length).sum ∧
        (t.team? x.issue.team).map Team.stage = some (x.team.stage + (x.slices.filter fun k => decide (cards k ≠ [])).length) ∧
        ∀ k ∈ x.slices,
          open_ t k = (x.gang.slice k).copy.openB ++ (List.range (cards k).length).map (fun i => .job (x.ctx.jobSeq + upTo k + i + 1)) ∧
          (∀ i (h : i < (cards k).length), jobOf k (x.ctx.jobSeq + upTo k + i + 1) (cards k)[i].1 (cards k)[i].2 ∈ c.jobs) ∧
          (d ≠ 0 → t.sreg x.issue.team x.issue.gang k d =
            if cards k = [] then 0 else ((x.ctx.jobSeq + upTo k + (cards k).length : Nat) : Int)))

/-- R195, R197, R198, R213 to R218, R241: a job starts on a free engine when its edges are met; it reads its elements in walk order and
stages what they write; read wholly it counts as read-done; its writes then enter together, land on its phaser and decrement its signal, and it
becomes visible. A module-to-module job sends its writes to its destination, lands when they are acknowledged there, and has its signal decremented
there after that; one that faulted is finished once its fault is
acknowledged. -/
def JobSteps : Prop :=
  ∀ (s : State) (n m : Nat) (j : Job) (c : Context), s.job? n m = some j → s.ctx? n = some c → j.ctx = n → j.num = m →
    s.entering = false → s.scope.watches = [] → s.scope.cfgs = [] → s.mem.upsets = [] →
    let report := fun (t : State) => ((t.modJob j fun i => { i with state := .visible, staged := [] }).settle n j.team j.gang j.slice).reap j.team
    let landed := fun (t : State) => if cardDbl j.card 1 = 0 then t else t.land j.team (cardDbl j.card 1) j.count
    (∀ e, j.state = .submitted → s.freeEngine j = some e → s.edgesMet j = true → s.mayStart n j.team j.gang = true →
      exec (.jobStart n m) s = .next (s.modJob j fun i => { i with state := .running, engine := e })) ∧
    (j.state = .running → s.jobMay j.settled = true → j.pos < cardElements j.card → s.overheated = false →
      let u := s.modJob j fun _ => j.settled
      (∀ vs ls t, j.indexed = true → j.stream = [] → inRegions (cardRegions j.card false) (cardDbl j.card 23 + 3 * (j.pos : Int)) 3 = true →
        (cardDbl j.card 23) % 3 = 0 →
        u.engineRead (u.jobWho j c) (.job n m) .load (cardDbl j.card 23 + 3 * (j.pos : Int)) 3 [] = .ok vs ls t →
        exec (.jobAccess n m) s = .next (t.modJob j fun i => { i with stream := i.stream ++ [ofTrytes vs] })) ∧
      (∀ vs ls t, (j.indexed = true → j.stream ≠ []) → (∀ w r, cardKind j.card = -3 → j.stream = w :: r → highZero 9 w = true) →
        j.parts.length < j.reads →
        let a := j.elemAddr false + j.partLen * (j.parts.length : Int)
        (j.parts.length = 0 → a % (j.side false).2.2 = 0) → inRegions (cardRegions j.card false) a j.partLen = true →
        u.engineRead (u.jobWho j c) (.job n m) (if (j.side false).2.1 then .binLoad else .load) a j.partLen [] = .ok vs ls t →
        exec (.jobAccess n m) s = .next (t.modJob j fun i =>
          { (if cardKind j.card = -3 ∧ j.stream = [] then i.sizedBy (lineStreamLen (ofTrytes vs)) else i) with stream := i.stream ++ [ofTrytes vs] })) ∧
      (∀ vs fl ls, (j.indexed = true → j.stream ≠ []) → (∀ w r, cardKind j.card = -3 → j.stream = w :: r → highZero 9 w = true) →
        j.reads ≤ j.parts.length → j.element = .ok (vs, fl) →
        let a := j.settled.elemAddr true
        a % (j.side true).2.2 = 0 → inRegions (cardRegions j.card true) a vs.length = true →
        (j.link = true ∨ u.locate (u.jobWho j c) (if (j.side true).2.1 then .binStore else .store) a vs.length = .ok ls) →
        exec (.jobAccess n m) s = .next (u.modJob j fun i =>
          u.jobTurn { i with staged := stageAll i.staged i.pos a vs, count := i.count + vs.length, flags := joinF i.flags fl }))) ∧
    (j.state = .running → cardElements j.card ≤ j.pos → cardElements j.card ≤ j.fresh → j.waiting = [] → s.overheated = false →
      exec (.jobReadDone n m) s = .next ((s.modJob j fun i => { i with state := .readDone }).settle n j.team j.gang j.slice)) ∧
    (j.state = .readDone → j.link = false → j.entered = false → s.jobParked j = false → s.overheated = false →
      let bin := (j.side true).2.1
      let op : AccOp := if bin then .binStore else .store
      let place := fun (q : Int × Int × Nat) => match s.locate (s.jobWho j c) op q.1 1 with | .ok [l] => l | _ => .hbm 0
      (∀ q ∈ j.staged, ∃ l, s.locate (s.jobWho j c) op q.1 1 = .ok [l] ∧ l.isOwn = true ∧ s.badLoc l = false ∧ Plain s l) →
      ∃ t, t = { s with mem := t.mem, teams := t.teams, grids := t.grids, hub := t.hub, fab := t.fab } ∧
        (∀ o, t.readLoc bin (.hbm o) = (lastAt (j.staged.map fun q => (place q, q.2.1)) (.hbm o)).getD (s.readLoc bin (.hbm o))) ∧
        let e := (landed t).modJob j fun i => { i with entered := true }
        ∀ v, (cardDbl j.card 2 = 0 ∧ v = e ∨ cardDbl j.card 2 ≠ 0 ∧ e.decrementSignal (.job n m) c (cardDbl j.card 2) j.word = .done v) →
          exec (.jobVisibleCompletion n m) s = .next (report v)) ∧
    (j.state = .readDone → j.link = true → s.jobParked j = false → s.overheated = false → s.waitsOf (.job n m) = [] → 0 ≤ cardDbl j.card 24 →
      exec (.jobVisibleCompletion n m) s = .next (s.askFor (.job n m) c.agency n
        [⟨0, j.dest, [], .jobWrite (cardDbl j.card 24).toNat (j.staged.map fun q => (q.1, q.2.1)) (cardDbl j.card 2) j.word, 0, 0⟩])) ∧
    (∀ w ws r, j.state = .readDone → s.overheated = false → s.waitsOf (.job n m) = w :: ws → w.reply = some r →
      let u := s.dropWaits (.job n m)
      (j.entered = false → (∀ e, r ≠ .refused e) → exec (.m2mJobAck n m) s = .next (if cardDbl j.card 2 = 0 then report (landed u)
        else ((landed u).modJob j fun i => { i with entered := true }).askFor (.job n m) c.agency n [⟨0, j.dest, [], .jobSignal w.tag, 0, 0⟩])) ∧
      (j.entered = true → exec (.m2mJobAck n m) s = .next (report u))) ∧
    (j.state = .faulted → s.ctxHalted n = false →
      exec (.faultedJobFinish n m) s = .next (((s.modJob j fun i => { i with state := .finished, staged := [], stream := [], waiting := [] }).settle
        n j.team j.gang j.slice).reap j.team))

/-- Job instructions and the steps of the job engines. Log 36. -/
def Obligations.JobsAndEngines : Prop := JobCommands ∧ JobSteps

/-- The forms of MXM and MXZ (R287, R290, R294). -/
def mxmForms (f : MxmF) (d : Fin 9) (sat : Bool) (rnd : Option Rnd) : List (Instr × MxForm) :=
  [(.mxmN3 f d, ⟨.n3, some d.val, false, false, none⟩), (.mxmN3Z f d, ⟨.n3, some d.val, true, false, none⟩),
   (.mxmI9 f sat, ⟨.i9, none, false, sat, none⟩), (.mxmF9 f rnd, ⟨.f9, none, false, false, rnd⟩),
   (.mxmI27 f sat, ⟨.i27, none, false, sat, none⟩), (.mxmF27 f rnd, ⟨.f27, none, false, false, rnd⟩)]

/-- The gang of issue set x in a state. -/
def gangOps (t : State) (x : Iss) : List TileOp := match t.gang? x.issue.team x.issue.gang with | some g => g.ops | none => []

/-- R278 to R280, R287 to R292, R294, R324: MXM and MXZ enter a matrix operation, with its operands as read now, into the gang's open batch and the
pair queue; MXM in a float or narrow form takes 54 draws of every generator when the mode is stochastic. -/
def MatrixCommands : Prop :=
  ∀ (s s0 : State) (x : Iss), Issues s false s0 x → Unwatched s0 x → s0.cfg? x.ctx.agency = none → s0.mxStall x = none → x.noPair = false →
    let entered := fun (i : Instr) (o : MxOp) (gens : Nat → Prop) (p : State → Prop) =>
      ∃ t, exec i s = .next t ∧ GoesOn s0 t x ∧ Kept { s0 with eng := t.eng } t x { gen := gens } ∧ t.eng = { s0.eng with nextId := s0.eng.nextId + 1 } ∧
        gangOps t x = x.gang.ops ++ [.mx { o with seq := s0.eng.nextId, batch := x.gang.sealedMx + 1, inArray := false }] ∧ p t
    (∀ (f : MxmF) (d : Fin 9) (sat : Bool) (rnd : Option Rnd), ∀ row ∈ mxmForms f d sat rnd,
      f.x.val % 2 = 0 → f.x.val ≤ 24 → f.y.val % 9 = 0 → f.z.val % 9 = 0 → f.z.val ≤ 63 →
      (∀ j, j = f.x.val ∨ j = f.x.val + 1 → x.noTile j = false ∧ x.noToken j = false) → x.mayName (x.mxRegs row.2 f) →
      let desc := match row.2.desc with | some d => x.gang.descs d | none => []
      let b := if row.2.stream then (x.gang.fragment f.z.val).getD [] ++ (x.gang.fragment (f.z.val + 9)).getD [] else x.gang.words f.z.val 18
      (∀ w ∈ desc, readDesc w ≠ none) →
      (row.2.stream = true → x.gang.fragment f.z.val ≠ none ∧ x.gang.fragment (f.z.val + 9) ≠ none) →
      let r := row.2.rnd.getD x.gang.rnd
      let spent := drawsOf r (List.range 27) (if row.2.kind = .i9 ∨ row.2.kind = .i27 then 0 else 54)
      entered row.1
        { kind := row.2.kind, x := f.x.val, a := x.gang.words f.y.val 9, b := b, desc := desc, rnd := r, sat := row.2.sat,
          gens := (List.range 27).map fun l => s0.genOf x.issue.team x.issue.gang l,
          issued := if row.2.stream then issuedBlocks (x.gang.streamMap f.z.val ++ x.gang.streamMap (f.z.val + 9)) desc else 162, seq := 0, batch := 0, inArray := false }
        (fun l => l ∈ spent.map Prod.fst) fun t => Spent s0 t x spent) ∧
    (∀ j : TReg, x.noTile j.val = false → x.noToken j.val = false →
      entered (.mxz j)
        { kind := .zero, x := j.val, a := [], b := [], desc := [], rnd := .near, sat := false, gens := [], issued := 0, seq := 0, batch := 0,
          inArray := false } (fun _ => False) fun _ => True)

/-- R53, R282, R289, R291, R294, R295, R324, R326: the arrays take the oldest operation that may start; the oldest one in them whose turn it is in
its gang retires, each tile word becoming the sum of the word and the row's products, rounded or fitted once; the oldest
tile move of a gang whose turn it is lands, in the nine registers or in the tile's words. -/
def MatrixSteps : Prop :=
  (∀ (s : State) (core a b : Nat) (o : MxOp),
    s.mxFirst core (fun o => !o.2.2.inArray && s.arraysServe core && s.mayStart (s.ctxNum o.1) o.1 o.2.1) = some (a, b, o) →
    exec (.matrixOpEnterArray core) s = .next (s.modGang a b fun h => { h with ops := h.ops.map fun p => match p with
      | .mx m => if m.seq = o.seq then .mx { m with inArray := true } else .mx m
      | .move v => .move v })) ∧
  (∀ (s : State) (core a b : Nat) (o : MxOp) (u : Team) (g : Gang),
    s.mxFirst core (fun o => o.2.2.inArray && (match s.gang? o.1 o.2.1 with | some g => g.turn (g.mxPlace o.2.2.seq) | none => false)) =
      some (a, b, o) → s.team? a = some u → u.gang? b = some g → b < 27 → s.scope.cfgs = [] → s.overheated = false →
    ∃ t v h, exec (.matrixOpRetire core) s = .next t ∧ t = { s with teams := t.teams, hub := t.hub } ∧ t.team? a = some v ∧ v.gang? b = some h ∧
      (∀ i < 27, ∀ j < 54, getZ (tileKey (o.x + j / 27) i (j % 27)) (v.tileCells h) =
        if o.kind = .zero then (if j < 27 then 0 else getZ (tileKey (o.x + j / 27) i (j % 27)) (u.tileCells g))
        else (o.cell i j (o.rowA i) (o.colB j) (getZ (tileKey (o.x + j / 27) i (j % 27)) (u.tileCells g))).val) ∧
      (∀ k, k < 729 * o.x ∨ 729 * (o.x + 2) ≤ k → getZ k (v.tileCells h) = getZ k (u.tileCells g)) ∧
      h.ops = g.ops.eraseIdx (g.mxPlace o.seq) ∧ h.flags = joinF g.flags (joinAll ((o.results (u.tileCells g)).map fun r => r.2.flags)) ∧
      h.v = g.v ∧ h.m = g.m ∧ h.slices = g.slices) ∧
  (∀ (s : State) (a b : Nat) (u : Team) (g : Gang) (m : TileMove) (i : Nat), s.team? a = some u → u.gang? b = some g → b < 27 → s.scope.cfgs = [] →
    g.ops.findIdx (fun p => match p with | .mx _ => false | .move _ => true) = i → g.ops[i]? = some (.move m) → g.turn i = true → s.mayStart (s.ctxNum a) a b = true → m.base + 9 ≤ 81 →
    m.g ≤ 2 →
    ∃ t v h, exec (.tileMoveLand a b) s = .next t ∧ t = { s with teams := t.teams } ∧ t.team? a = some v ∧ v.gang? b = some h ∧ h.ops = g.ops.eraseIdx i ∧
      let place := fun k l => if m.cols then tileKey m.tile l (9 * m.g + k) else tileKey m.tile (9 * m.g + k) l
      (m.load = true → v.tileCells h = u.tileCells g ∧ (m.bank = 0 → ∀ (r : VReg) l, l < 27 →
        h.lane r l = if m.base ≤ r.val ∧ r.val < m.base + 9 then getZ (place (r.val - m.base) l) (u.tileCells g) else g.lane r l)) ∧
      (m.load = false → h.v = g.v ∧ ∀ k < 9, ∀ l < 27, getZ (place k l) (v.tileCells h) = m.rows.getD (27 * k + l) 0))

/-- Matrix instructions and the steps of the matrix pair. -/
def Obligations.MatrixOperations : Prop := MatrixCommands ∧ MatrixSteps

/-- R282, R295, R297, R298: tile loads and stores enter the gang's order of tile operations; TWAIT and MXWAIT wait for moves to land and batches to
retire; MXSEAL closes the open batch under the next number. -/
def TileCommands : Prop :=
  (∀ (s s0 : State) (x : Iss), Issues s false s0 x → Unwatched s0 x →
    (∀ row ∈ ([(.tld, true, false), (.tldC, true, true), (.tst, false, false), (.tstC, false, true)] :
        List ((VReg → TReg → SReg → Instr) × Bool × Bool)),
      ∀ (v : VReg) (j : TReg) (r : SReg), 0 ≤ x.uniform r → x.uniform r ≤ 2 → v.val % 9 = 0 → x.noPair = false → x.noTile j.val = false →
        x.noToken j.val = false → x.clear (if row.2.1 then (vrun v.val 9).map .vec else []) → x.mayName (vrun v.val 9) → x.gang.moveCount < 27 →
        ∃ t, exec (row.1 v j r) s = .next t ∧ GoesOn s0 t x ∧ Kept s0 t x {} ∧
          gangOps t x = x.gang.ops ++ [.move { bank := 0, load := row.2.1, base := v.val, tile := j.val, g := (x.uniform r).toNat, cols := row.2.2,
                                               rows := if row.2.1 then [] else x.gang.words v.val 9 }]) ∧
    (∀ r : SReg, x.clear (x.sDests r) →
      ∃ t, exec (.mxseal r) s = .next t ∧ GoesOn s0 t x ∧ Kept s0 t x { sca := fun k q => k ∈ x.slices ∧ q = r ∧ r ≠ 0 } ∧
        (∀ k ∈ x.slices, r ≠ 0 → t.sreg x.issue.team x.issue.gang k r = wrap 54 (x.gang.sealedMx + 1)) ∧
        (t.gang? x.issue.team x.issue.gang).map Gang.sealedMx = some (wrap 54 (x.gang.sealedMx + 1)))) ∧
  (∀ (s s0 : State) (x : Iss) (r : SReg), Issues s true s0 x →
    (0 ≤ x.uniform r →
      ∃ t, exec (.twait r) s = .next t ∧ Kept s0 t x {} ∧ gangOps t x = x.gang.ops ∧
        Waits s0 t x fun _ => if (x.gang.moveCount : Int) ≤ x.uniform r then none else some (.moves (x.uniform r))) ∧
    (x.uniform r ≤ x.gang.sealedMx →
      ∃ t, exec (.mxwait r) s = .next t ∧ Kept s0 t x {} ∧ gangOps t x = x.gang.ops ∧
        ((x.uniform r ≤ 0 ∨ ∀ m, .mx m ∈ x.gang.ops → x.uniform r < m.batch) → Waits s0 t x fun _ => none) ∧
        ((0 < x.uniform r ∧ ∃ m, .mx m ∈ x.gang.ops ∧ m.batch ≤ x.uniform r) → Waits s0 t x fun _ => some (.matrix (x.uniform r)))))

/-- R299 to R301: TKGIVE starts the passing of a token that the gang holds to another gang, which completes when the giver has no operation
on the tile left; TKTAKE reports, once the tile is quiet, whether the gang holds the token. -/
def TileTokens : Prop :=
  (∀ (s s0 : State) (x : Iss) (j : TReg), Issues s false s0 x → x.noPair = false → x.noTile j.val = false →
    (∀ r : SReg, x.noToken j.val = false → x.team.liveGang (x.uniform r) = true →
      ∃ t, exec (.tkgive j r) s = .next t ∧ GoesOn s0 t x ∧ Kept s0 t x {} ∧
        (t.team? x.issue.team).map (fun u => (u.tokens, u.passing)) =
          if x.gang.token = true ∧ x.uniform r ≠ (x.issue.gang : Int) then
            some (x.team.tokens.set j.val 27, x.team.passing ++ [(j.val, x.issue.gang, (x.uniform r).toNat)])
          else some (x.team.tokens, x.team.passing)) ∧
    (∀ m : MReg, x.clear (if m.val = 0 then [] else [.msk m]) → s0.cfg? x.ctx.agency = none →
      (if x.gang.token then ∀ g ∈ x.team.gangs, g.idx ≠ x.issue.gang → g.onTile j.val = false else x.gang.onTile j.val = false) →
      ∃ t, exec (.tktake j m) s = .next t ∧ GoesOn s0 t x ∧ Kept s0 t x { msk := fun q => q = m ∧ m ≠ 0 } ∧
        (m ≠ 0 → ∀ l < 27, tritAt l (t.mreg x.issue.team x.issue.gang m) =
          if l ∈ x.lanes then (if x.noToken j.val then 0 else 1) else tritAt l (s0.mreg x.issue.team x.issue.gang m)))) ∧
  (∀ (s : State) (a : Nat) (j : TReg) (u : Team) (p : Nat × Nat × Nat), s.team? a = some u → u.passing.find? (fun p => decide (p.1 = j.val)) = some p →
    (∀ g, u.gang? p.2.1 = some g → g.onTile j.val = false) →
    exec (.tokenPass a j) s = .next (s.modTeam a fun v =>
      { v with tokens := v.tokens.set j.val (if u.liveGang p.2.2 then p.2.2 else u.leader.getD 27),
               passing := v.passing.filter fun q => decide (q.1 ≠ j.val) }))

/-- Tile moves, their waits, and tokens. -/
def Obligations.Tiles : Prop := TileCommands ∧ TileTokens

/-- R332, R333, R337 to R340: PORTCFG sets the depths of ports, a port set to depth 0 losing its messages and starting a new generation, and
returns their names; PORTQRY counts messages; PATSET sets patterns, PATEN and PATDIS switch them. -/
def PortTables : Prop :=
  ∀ (s s0 : State) (x : Iss) (a b c : SReg), Issues s false s0 x → x.slices.Nodup →
    let team := fun (t : State) => t.team? x.issue.team
    let named := fun k => 0 ≤ x.s k a ∧ x.s k a < (x.team.ports.length : Int)
    let cfg := fun (ps : List Port) k => ps.modify (x.s k a).toNat fun p =>
      if x.s k b = 0 ∧ p.depth ≠ 0 then { p with depth := 0, gen := wrap 9 (p.gen + 1), held := [] } else { p with depth := (x.s k b).toNat }
    let pats := fun (t : State) (f : Nat → Pattern → Pattern) => ∃ u, team t = some u ∧ ∀ i < 27, u.pat i = f i (x.team.pat i)
    (x.clear (x.sDests c) → (∀ k ∈ x.slices, named k ∧ 0 ≤ x.s k b ∧ x.s k b ≤ 9) →
      ∃ t, exec (.portcfg a b c) s = .next t ∧ GoesOn s0 t x ∧ Kept s0 t x { sca := fun k r => k ∈ x.slices ∧ r = c ∧ c ≠ 0 } ∧
        (team t).map Team.ports = some (x.slices.foldl cfg x.team.ports) ∧
        ∀ k ∈ x.slices, c ≠ 0 → t.sreg x.issue.team x.issue.gang k c =
          let ps := (x.slices.take (x.slices.idxOf k + 1)).foldl cfg x.team.ports
          (s0.modul : Int) * 3 ^ 45 + (x.team.key : Int) * 3 ^ 27 + x.s k a * 3 ^ 23 +
            (match ps[(x.s k a).toNat]? with | some p => p.gen | none => 0) * 3 ^ 14) ∧
    (x.clear (x.sDests b) → (∀ k ∈ x.slices, named k) →
      ∃ t, exec (.portqry a b) s = .next t ∧ GoesOn s0 t x ∧ Kept s0 t x { sca := fun k r => k ∈ x.slices ∧ r = b ∧ b ≠ 0 } ∧
        ∀ k ∈ x.slices, b ≠ 0 → t.sreg x.issue.team x.issue.gang k b =
          match x.team.ports[(x.s k a).toNat]? with | some p => if p.depth = 0 then -1 else (p.held.length : Int) | none => -1) ∧
    (∀ prio : Int, (∀ k ∈ x.slices, 0 ≤ x.s k a ∧ x.s k a ≤ 26 ∧ highZero 27 (x.s k b) = true ∧ targetCause (x.s k c) = none ∧
        (∃ i < 27, tritAt i (x.s k b) = 1) ∧ ((List.range 27).filter fun i => decide (tritAt i (x.s k b) = 1)).length ≤ 24 ∧
        ∀ i < 27, tritAt i (x.s k b) ≠ 0 → i < x.team.ports.length) →
      ∃ t, exec (.patset a b c prio) s = .next t ∧ GoesOn s0 t x ∧ Kept s0 t x {} ∧ pats t fun i p =>
        match (x.slices.filter fun k => decide (x.s k a = (i : Int))).getLast? with
        | some k => { p with cond := x.s k b, prio := prio, handler := x.s k c }
        | none => p) ∧
    ((∀ k ∈ x.slices, highZero 27 (x.s k a) = true ∧ hasMinus 27 (x.s k a) = false) →
      let switched := fun (i : Instr) (on : Bool) => ∃ t, exec i s = .next t ∧ GoesOn s0 t x ∧ Kept s0 t x {} ∧ pats t fun i p =>
        if x.slices.any fun k => decide (tritAt i (x.s k a) = 1) then { p with enabled := on } else p
      ((∀ k ∈ x.slices, ∀ i < 27, tritAt i (x.s k a) = 1 → (x.team.pat i).cond ≠ 0) → switched (.paten a) true) ∧ switched (.patdis a) false)

/-- R334 to R336: posts reserve their places in slice order and land in that order; POST.nf says for each slice whether its port had room, and POST
completes where all have. A full port traps a POST in the lanes of the slices that found it so. -/
def Posts : Prop :=
  ∀ (s s0 : State) (x : Iss) (a b : SReg) (u : Nat → Team) (i : Nat → Nat) (p : Nat → Port), Issues s false s0 x → x.slices.Nodup →
    s0.waitsOf x.parker = [] → s0.eng.posts = [] → s0.cfg? x.ctx.agency = none →
    (∀ k ∈ x.slices, nameModule (x.s k a) = (s0.modul : Int) ∧ s0.portAt (x.s k a) = .at_ (u k) (i k) (p k) ∧ (u k).onCore = true) →
    let mate := fun j k => decide ((u j).key = (u k).key ∧ i j = i k)
    let before := fun k => ((x.slices.take (x.slices.idxOf k)).filter fun j => mate j k).length
    let fits := fun k => decide ((p k).held.length + (p k).reserved + before k < (p k).depth)
    let posted := fun (t : State) => ∀ k ∈ x.slices, ((t.team? (u k).key).bind fun v => v.ports[i k]?) =
      some { p k with held := (p k).held ++ (x.slices.filter fun j => mate j k && fits j).map fun j => x.s j b }
    ((∀ k ∈ x.slices, fits k = true) → ∃ t, exec (.post a b) s = .next t ∧ GoesOn s0 t x ∧ Kept s0 t x {} ∧ posted t) ∧
    ((∃ k ∈ x.slices, fits k = false) → ∃ s1, Kept s0 s1 x {} ∧
      (∀ k ∈ x.slices, ((s1.team? (u k).key).bind fun v => v.ports[i k]?) = some (p k)) ∧
      exec (.post a b) s = .next (takeTrap s1 x (.lanesOnly
        ((x.slices.filter fun k => !fits k).flatMap fun k => (lanesOf [k]).map fun l => (l, Cause.portFull, (0 : Int)))))) ∧
    (∀ m : MReg, x.clear (if m.val = 0 then [] else [.msk m]) →
      ∃ t, exec (.postNf a b m) s = .next t ∧ GoesOn s0 t x ∧ Kept s0 t x { msk := fun q => q = m ∧ m ≠ 0 } ∧ posted t ∧
        (m ≠ 0 → ∀ k ∈ x.slices, k < 9 → ∀ l, l / 3 = k → tritAt l (t.mreg x.issue.team x.issue.gang m) = if fits k then 1 else 0))

/-- Ports, patterns and posts. Log 35. -/
def Obligations.PortsAndPosts : Prop := PortTables ∧ Posts

/-- R343, R382, R383, R385: the oldest post held for a port lands when there is room; a join unit fires the pattern that is next in its order, taking the oldest
message of every port of its condition and starting a gang of one slice at the handler with the messages from s3 on; where none is
eligible it does nothing. -/
def Obligations.JoinUnits : Prop :=
  (∀ (s : State) (n : Nat) (h : HeldPost) (u : Team) (i : Nat) (p : Port), s.eng.posts.find? (fun q => decide (q.id = n)) = some h →
    s.eng.posts.find? (fun q => decide (q.port = h.port)) = some h → nameModule h.port = (s.modul : Int) → s.scope.cfgs = [] →
    (∀ q ∈ s.xlate.parked, q.who ≠ .post n) →
    s.portAt h.port = .at_ u i p → u.onCore = true → p.held.length + p.reserved < p.depth →
    exec (.heldSignalPostLand n) s = .next { (s.modTeam u.key fun v => { v with ports := v.ports.modify i fun _ => { p with held := p.held ++ [h.msg] } })
      with eng := { s.eng with posts := s.eng.posts.filter fun q => decide (q.id ≠ n) } }) ∧
  (∀ (s : State) (core : Nat), s.gated core = false → s.nextPattern core = none → exec (.joinUnitCycle core) s = .next s) ∧
  (∀ (s : State) (core : Nat) (u : Team) (i : Nat), s.gated core = false → s.nextPattern core = some (u, i) → s.eng.posts = [] → s.scope.cfgs = [] →
    s.team? u.key = some u →
    ∃ t v h, exec (.joinUnitCycle core) s = .next t ∧ t = { s with teams := t.teams, lastFire := t.lastFire } ∧ t.team? u.key = some v ∧
      v.gangs = u.gangs ++ [h] ∧ (∀ g ∈ u.gangs, g.idx ≠ h.idx) ∧ h.idx < 27 ∧ h.slot < 27 ∧ h.slot ∉ s.usedSlots u.core ∧ h.slices.length = 1 ∧
      (h.slice 0).pc = (u.pat i).handler ∧ (h.slice 0).ended = false ∧
      (∀ j, j < ((List.range 27).filter fun q => decide (tritAt q (u.pat i).cond = 1)).length →
        getZ (3 + j) (h.slice 0).s = ((u.ports[((List.range 27).filter fun q => decide (tritAt q (u.pat i).cond = 1)).getD j 0]?).map
          fun r => r.held.headD 0).getD 0) ∧
      v.ports = u.ports.zipIdx.map (fun q => if q.2 < 27 ∧ tritAt q.2 (u.pat i).cond = 1 then { q.1 with held := q.1.held.drop 1 } else q.1) ∧
      ∀ w, w ≠ u.key → t.team? w = s.team? w)

/-- R148 to R150, R349: LAUNCH, by the leader of a team, passes a grid for each slice to the distributor; a team whose gangs have ended and whose patterns
do not hold ends, its scratchpad keeping what it held; a grid all of whose teams have ended, with nothing of it under way, completes. -/
def Grids : Prop :=
  (∀ (s s0 : State) (x : Iss) (r : SReg) (p : List (List Loc)) (rem : List (Nat × RemoteReply)) (pats : Nat → List Pattern),
    Issues s false s0 x → x.slices.Nodup → Unwatched s0 x → x.team.leader = some x.issue.gang → x.grid.depth < 13 →
    Admits s0 x { Uses.none with accs := x.cardAccs r 27 81 } p rem →
    let record := fun k => digits 54 27 (ofTrytes (readAt s0 false p rem (x.slices.idxOf k)))
    (∀ k ∈ x.slices, s0.launchSlice x k (record k) = .ok (pats k)) →
    (s0.grids.filter fun g => decide (g.ctx = x.ctx.num ∧ 0 < g.depth ∧ g.next < g.teams)).length + x.slices.length ≤ 729 →
    ∃ t, exec (.launch r) s = .next t ∧ GoesOn s0 t x ∧ Kept { s0 with grids := t.grids, nextGrid := t.nextGrid } t x { touch := true } ∧
      t.nextGrid = s0.nextGrid + x.slices.length ∧
      t.grids = s0.grids ++ x.slices.zipIdx.map fun q =>
        { num := s0.nextGrid + q.2, ctx := x.ctx.num, depth := x.grid.depth + 1, parent := some x.grid.num, launch := record q.1, pats := pats q.1,
          accepted := s0.clock.cycle, next := 0, endedTeams := 0, complete := false, hasChip := false, chip := [] }) ∧
  (∀ (s : State) (a : Nat) (u : Team), s.team? a = some u → u.ended = false → u.place = .resident → (∀ g ∈ u.gangs, 27 ≤ g.idx) →
    (∀ p ∈ u.pats, u.holdsPat p = false) →
    exec (.teamEnd a) s = .next { s with
      teams := mapIf (fun v => decide (v.key = a)) (fun v => { v with ended := true, ports := [] }) s.teams,
      grids := mapIf (fun g => decide (g.num = u.grid)) (fun g => { g with endedTeams := g.endedTeams + 1 }) s.grids }) ∧
  (∀ (s : State) (a : Nat) (u : Team), s.team? a = some u → u.ended = true → u.gangs = [] → s.landingDue a = false →
    (∀ r ∈ s.eng.redms, r.team ≠ a) → (∀ q ∈ s.eng.stores, q.team ≠ a) → s.racqWaits u.core = false →
    ∃ t, exec (.teamEnd a) s = .next t ∧ t = { s with teams := t.teams, ctxs := t.ctxs, mem := { s.mem with residue := t.mem.residue } } ∧
      t.teams = s.teams.filter (fun v => decide (v.key ≠ a)) ∧
      t.mem.residue = s.mem.residue ++ if u.scratch = [] then [] else [{ core := u.core, line := u.line, cells := u.scratch }]) ∧
  (∀ (s : State) (n : Nat) (g : Grid), s.grid? n = some g → g.complete = false → g.endedTeams = g.teams → s.gridBusy n = false →
    (∀ h ∈ s.grids, h.parent = some n → h.complete = true) → (∀ p ∈ s.xlate.parked, p.who ≠ .grid n) →
    let done := fun (t : State) => t.modGrid n fun h => { h with complete := true, hasChip := false, chip := [] }
    (g.dbl 7 = 0 → exec (.gridCompletion n) s = .next (done s)) ∧
    (∀ c t, s.ctx? g.ctx = some c → g.dbl 7 ≠ 0 → s.decrementSignal (.grid n) c (g.dbl 7) 0 = .done t → exec (.gridCompletion n) s = .next (done t)))

/-- R131, R132, R137, R271, R374, R375, R377, R379: the distributor places the next team of the grid that its order names on the first core, from its pointer on, that
takes it, its gangs starting at the kernel's entry; a starved item of high priority has the teams of a core saved, which their records take
out. -/
def Placements : Prop :=
  (∀ (s : State) (n i : Nat) (p : Pend) (g : Grid) (t : State), s.firstPending = some p → p.item = .fresh n i → s.grid? n = some g → g.group ≤ 1 →
    s.scope.cfgs = [] → s.placeItem p = some t →
    exec .distributorPlace s = .next t ∧ t = { s with teams := t.teams, grids := t.grids, ctxs := t.ctxs, distPtr := t.distPtr, mem := { s.mem with residue := t.mem.residue } } ∧
    ∃ v j, j < 1024 ∧ t.teams = s.teams ++ [v] ∧ v.core = (s.distPtr + j) % 1024 ∧ t.distPtr = (v.core + 1) % 1024 ∧ s.coreReady v.core = true ∧
      s.coreFits v.core g.need = some v.line ∧ (∀ k < j, s.placeOn ((s.distPtr + k) % 1024) (some (g, i)) 0 = none) ∧
      v.grid = g.num ∧ v.index = i ∧ v.place = .resident ∧ v.scratch = [] ∧ (∀ u ∈ s.teams, u.key ≠ v.key) ∧
      (t.grid? n).map Grid.next = some (i + 1) ∧
      (∀ q (h : q < v.gangs.length), v.gangs[q].idx = q ∧ v.gangs[q].slot ∉ s.usedSlots v.core ∧ v.gangs[q].v = [] ∧ v.gangs[q].flags = 0 ∧
        (∀ b < 9, v.gangs[q].holds b = decide (b < g.entryBlocks)) ∧ v.gangs[q].slices.length = g.slices ∧
        ∀ k < g.slices, (v.gangs[q].slice k).pc = g.dbl 1 ∧ (v.gangs[q].slice k).get 1 = localBase ∧ (v.gangs[q].slice k).get 2 = g.dbl 8 ∧
          ∀ r : SReg, 3 ≤ r.val → (v.gangs[q].slice k).get r = 0)) ∧
  (∀ (s : State) (p : Pend) (ps qs : List Pend) (c : Int × Nat × Nat), (∀ u ∈ s.teams, u.place ≠ .saving) → s.starved = ps ++ p :: qs →
    (∀ q ∈ ps, s.saveCore q = none) → s.saveCore p = some c →
    ∃ t, exec .highPriorityWaitExpiry s = .next t ∧ t = { s with teams := t.teams } ∧
      ∀ a, t.team? a = (s.team? a).map fun v =>
        if (∃ u ∈ s.victims c.2.2 p.prio, u.key = a) ∧ v.place = .resident then { v with place := .saving } else v) ∧
  (∀ (s : State) (a : Nat) (u : Team), s.team? a = some u → s.saveReady u = true →
    ∃ t, exec (.midPhaseSaveWrite a) s = .next t ∧
      ∀ v ∈ s.liveGroup u, (t.team? v.key).map Team.place = some (.out false s.clock.cycle))

/-- Grids are launched, placed, saved and completed. Log 54. -/
def Obligations.GridsAndPlacement : Prop := Grids ∧ Placements

/-- The double at an address, as a context's device writes it, lies in lines of this module's HBM4 that can be corrected. -/
def entryAt (s : State) (c : Context) (a : Int) (ls : List Loc) : Prop :=
  s.locate { ctx := c, team := none, gang := 0, lane := none, core := none } .store a 6 = .ok ls ∧ ∀ l ∈ ls, ∃ o, l = .hbm o ∧ s.badLoc l = false

/-- Every tryte of HBM4 reads in t as the last of the values written to it, or as in s. -/
def hbmStored (s t : State) (ws : List (Loc × Int)) : Prop :=
  ∀ o, t.readLoc false (.hbm o) = (lastAt ws (.hbm o)).getD (s.readLoc false (.hbm o))

/-- R369 to R372: a tail below the number of entries is taken; writing 0 to a queue's state disables it, and 1 enables it, its head at the tail if it
was disabled; both wait behind a window write that the port holds. The processor decides the status of the entry at a queue's head, passes an
accepted grid to the distributor, stores the grid's number and then the status and goes on to the next queue, a refusal raising the queue's count
and vector; an uncorrectable line freezes the queue. Log 63. -/
def Obligations.HostQueues : Prop :=
  ∀ (s : State) (p : Fin 2) (q : Fin 27), s.portReady p = true → s.hosts.length = 2 → (s.port p).qTail q < 2 ^ 32 →
    let h := s.port p
    let keeps := fun (t : State) (n m : Nat) => t = { s with hosts := t.hosts } ∧ t.port (otherPort p) = s.port (otherPort p) ∧
      ∀ o, o < queueOff q + n ∨ queueOff q + m ≤ o → getZ o (t.port p).bar0 = getZ o h.bar0
    let quiet := ∀ k ∈ s.xlate.parked, ∀ i < 3, k.who ≠ queueParker p q i
    let a := h.qBase q + 243 * (h.qHead q : Int)
    (h.held.any HeldReq.isWrite = false →
      (∀ tail, tail < 2 ^ 32 → ∃ t, exec (.queueTailWrite p q tail) s = .next t ∧ keeps t 32 36 ∧
        (t.port p).qTail q = if tail < h.qEntries q then tail else h.qTail q) ∧
      (∀ st, ∃ t, exec (.queueStateWrite p q st) s = .next t ∧ keeps t 16 40 ∧ (t.port p).qTail q = h.qTail q ∧
        (t.port p).qState q = (if st ≤ 1 then st else h.qState q) ∧
        (t.port p).qHead q = if st = 1 ∧ h.qState q = 0 then h.qTail q else h.qHead q)) ∧
    (h.held.any HeldReq.isWrite = true → ∀ n,
      exec (.queueTailWrite p q n) s = .next (s.modPort p fun g => { g with held := g.held ++ [.tail q n] }) ∧
      exec (.queueStateWrite p q n) s = .next (s.modPort p fun g => { g with held := g.held ++ [.state q n] })) ∧
    (∀ (c : Context) (st : Int) (r : List Int) (pats : List Pattern) (u : State), h.serving = none → h.nextQueue = some q.val → quiet →
      s.ctx? (h.qCtx q) = some c → s.queueTry p q c a = .status st r pats u →
      let v : Serving := { queue := q.val, status := st, grid := u.nextGrid, told := false }
      let accepted : State := if st = 1 then { u with nextGrid := u.nextGrid + 1, grids := u.grids ++ [{
          num := u.nextGrid, ctx := c.num, depth := 0, parent := none, launch := r, pats := pats,
          accepted := u.clock.cycle, next := 0, endedTeams := 0, complete := false, hasChip := false, chip := [] }] } else u
      exec (.queueEntryProcess p q) s = .next ((accepted.modPort p fun g => { g with serving := some v }).entryWrites p c a v)) ∧
    (∀ (c : Context) (b : Int) (u : State), h.serving = none → h.nextQueue = some q.val → quiet →
      s.ctx? (h.qCtx q) = some c → s.queueTry p q c a = .frozen b u →
      exec (.queueEntryProcess p q) s = .next ((u.modPort p fun g => g.put (queueOff q + 16) [2]).logHost c.num b)) ∧
    (∀ (c : Context) (v : Serving), h.serving = some v → v.queue = q.val → quiet → s.ctx? (h.qCtx q) = some c → s.entryWrites p c a v ≠ s →
      exec (.queueEntryProcess p q) s = .next (s.entryWrites p c a v)) ∧
    (∀ (c : Context) (v : Serving) (b : Int) (ls : List Loc), v.queue = q.val → s.mem.upsets = [] → s.waitsOf (queueParker p q 2) = [] →
      (v.status = 1 ∧ v.told = false → entryAt s c (b + 168) ls → ∃ u : State,
        u = { s with mem := u.mem, hub := u.hub, fab := u.fab, hosts := u.hosts } ∧ (u.port p).serving = some { v with told := true } ∧
        hbmStored s u (ls.zip (toTrytes 6 v.grid)) ∧ s.entryWrites p c b v = u.entryWrites p c b { v with told := true }) ∧
      (v.status ≠ 1 ∨ v.told = true → entryAt s c (b + 162) ls → 1 ≤ h.qEntries q → h.qEntries q ≤ 729 → ∃ t, s.entryWrites p c b v = t ∧
        t = { s with mem := t.mem, hosts := t.hosts, hub := t.hub, fab := t.fab } ∧ hbmStored s t (ls.zip (toTrytes 6 v.status)) ∧
        (t.port p).qHead q = (h.qHead q + 1) % h.qEntries q ∧ (t.port p).turn = (q.val + 1) % 27 ∧ (t.port p).serving = none ∧
        (t.port p).msix = h.msix ++ (if v.status < 0 then [1 + q.val] else []) ∧
        (v.status < 0 → (t.port p).nat (queueOff q + 40) 8 = (h.nat (queueOff q + 40) 8 + 1) % 2 ^ 64))) ∧
    (∀ (c : Context) (b : Int) (vs : List Int) (ls : List Loc) (u : State),
      s.engineRead { ctx := c, team := none, gang := 0, lane := none, core := none } (queueParker p q 0) .load b 162 [] = .ok vs ls u →
      let r := digits 54 27 (ofTrytes vs)
      let g := Grid.ofRecord 0 0 0 none r [] 0
      r.getD 11 0 = 0 →
      s.queueTry p q c b = .status (if launchOk r = false then -1 else if g.fitsEmpty = false then -2
        else if g.prio + 1 > (h.qCeiling q : Int) then -3 else 1) r [] u)

/-- R392, R393: create makes a context with an empty landing list and a zeroed fault log header; destroy takes an idle context away with its
translations and the pairs that name it; the landing commands add and remove a pair; each writes its status and clears the doorbell. -/
def ContextCommands : Prop :=
  ∀ (s : State) (p : Fin 2), s.portReady p = true → s.hosts.length = 2 → (s.port p).ringing = false → (s.port (otherPort p)).ringing = false →
    let ends := fun (t : State) (st : Nat) => (t.port p).nat (blockOff + 60) 1 = st ∧ (t.port p).ringing = false
    (∀ c : CtxCreate, s.createOk c = true →
      let x : Context := {
        num := c.number, agency := c.agency, priv := c.priv, userRoot := c.userRoot.toNat, privRoot := c.privRoot.toNat,
        faultLog := c.faultLog, phaseBase := c.phaseBase, phaseLen := c.phaseLen, landing := [], records := [], halted := false, jobSeq := 0,
        redSeq := 0, jobs := [], reds := [] }
      (∀ ls, s.ctx? c.number = none → s.entering = false → s.mem.upsets = [] → s.waitsOf (commandParker p) = [] →
        s.locate (Who.device x) .store c.faultLog 18 = .ok ls → (∀ l ∈ ls, ∃ o, l = .hbm o ∧ s.badLoc l = false) →
        ∃ t, exec (.contextCreate p c) s = .next t ∧ ends t 1 ∧
          t = { s with ctxs := s.ctxs ++ [x], mem := t.mem, hub := t.hub, fab := t.fab, hosts := t.hosts } ∧
          ∀ o, t.readLoc false (.hbm o) = if .hbm o ∈ ls then 0 else s.readLoc false (.hbm o)) ∧
      ((s.ctx? c.number).isSome = true → ∃ t, exec (.contextCreate p c) s = .next t ∧ ends t 3 ∧ t = { s with hosts := t.hosts })) ∧
    (∀ n, n ≤ 728 →
      (∀ c, s.ctx? n = some c → s.ctxBusy c = false → ∃ t, exec (.contextDestroy p n) s = .next t ∧ ends t 1 ∧
        t = { s with ctxs := t.ctxs, xlate := t.xlate, hosts := t.hosts } ∧ t.ctx? n = none ∧
        (∀ m, m ≠ n → t.ctx? m = (s.ctx? m).map fun y => { y with landing := y.landing.filter fun l => decide (l ≠ (s.modul, n)) }) ∧
        t.xlate = { s.xlate with tlb := s.xlate.tlb.filter fun e => decide (e.ctx ≠ n),
                                 parked := s.xlate.parked.filter fun e => decide (e.ctx ≠ n) }) ∧
      (s.ctx? n = none ∨ (∃ c, s.ctx? n = some c ∧ s.ctxBusy c = true) →
        ∃ t, exec (.contextDestroy p n) s = .next t ∧ ends t 3 ∧ t = { s with hosts := t.hosts })) ∧
    (∀ n m k c, n ≤ 728 → m ≤ 6560 → m ≠ s.modul → k ≤ 728 → s.ctx? n = some c →
      let sets := fun (i : Instr) (ps : List (Nat × Nat)) => ∃ t, exec i s = .next t ∧ ends t 1 ∧
        t = { s with ctxs := t.ctxs, hosts := t.hosts } ∧ t.ctx? n = some { c with landing := ps } ∧ ∀ j, j ≠ n → t.ctx? j = s.ctx? j
      (c.landing.length < 27 → sets (.openLanding p n m k) (if (m, k) ∈ c.landing then c.landing else c.landing ++ [(m, k)])) ∧
      sets (.closeLanding p n m k) (c.landing.filter fun l => decide (l ≠ (m, k))))

/-- R250, R369: a write of a whole window descriptor is taken just when it holds the values that its fields may have; a write of a queue's
base, entries or context while its state is not 0 is ignored, as every register write is by a port that is not ready. -/
def RegisterWrites : Prop :=
  ∀ (s : State) (p : Fin 2) (bs : List Byte), s.hosts.length = 2 →
    (s.portReady p = false → ∀ off, exec (.registerWrite p off bs) s = .next s) ∧
    (s.portReady p = true → bs.length = 32 → ∀ n < 243,
      let off := 0x1000 + 32 * n
      ∃ t, exec (.registerWrite p off bs) s = .next t ∧ t = { s with hosts := t.hosts } ∧ t.port (otherPort p) = s.port (otherPort p) ∧
        ∀ o, getZ o (t.port p).bar0 =
          if off ≤ o ∧ o < off + 32 ∧ ((s.port p).put off (bs.map fun b => b.toNat)).winOk n (fun _ => true) = true then ((bs.getD (o - off) 0).toNat : Int)
          else getZ o (s.port p).bar0) ∧
    (s.portReady p = true → bs.length ≤ 16 → (s.port p).held.any HeldReq.isWrite = false → ∀ q < 27, (s.port p).qState q ≠ 0 → exec (.registerWrite p (queueOff q) bs) s = .next s)

/-- Register writes and context commands of the host. Log 64. -/
def Obligations.HostRegisters : Prop := RegisterWrites ∧ ContextCommands

/-- The byte of a raw window, counted from its base, that carries trit j of its tryte g: 146 bytes a line, five trits a byte (R245). -/
def carrier (g j : Nat) : Nat := 146 * (g / 81) + min ((9 * (g % 81) + j) / 5) 145

/-- The value that a byte of a raw window carries in trit j of tryte g (R245). -/
def carried (g j : Nat) (b : Byte) : Int :=
  tritAt (9 * (g % 81) + j - 5 * (carrier g j % 146)) ((b.toNat : Int) - if carrier g j % 146 = 145 then 40 else 121)

/-- The request takes no window write or read that waits for it at its port. -/
def freeWindow (s : State) (p : Fin 2) (win : Nat) : Prop := (s.port p).held.any (fun g => decide (g.window = some win)) = false

/-- R245, R250 to R254, R394: a window write whose every element passes its checks stores them all, raw bytes replacing just the trits that they carry
and elements converted in the window's format; any other is refused as a whole, with its counter, a posted one with a header logged and vector 0,
another with Completer Abort. One to a window that holds a request waits behind it. -/
def WindowWrites : Prop :=
  ∀ (s : State) (r : WinWrite) (w : Win), s.portReady r.port = true → s.hosts.length = 2 → s.mem.upsets = [] →
    s.winFor r.port r.win r.off r.bytes.length = some w →
    let p := winParker r.port r.win
    let ends := fun (t : State) (posted abort : Nat) =>
      (t.port r.port).msix = (s.port r.port).msix ++ List.replicate posted 0 ∧
      (t.port r.port).aer = (s.port r.port).aer ++ List.replicate posted (r.win * 2 ^ 28 + r.off, r.bytes.length) ∧
      (t.port r.port).comps = (s.port r.port).comps ++ if r.posted then [] else [⟨abort, []⟩]
    let refused := fun (i : Instr) (counter : Option Nat) => ∃ t, exec i s = .next t ∧ t = { s with hosts := t.hosts, fab := t.fab } ∧
      ends t (if r.posted then 1 else 0) 2 ∧ ∀ k, counter = some k → (t.port r.port).nat k 8 = ((s.port r.port).nat k 8 + 1) % 2 ^ 64
    let made := fun (i : Instr) (sat : Nat) (stored : State → Prop) => ∃ t, exec i s = .next t ∧
      t = { s with mem := t.mem, hub := t.hub, fab := t.fab, hosts := t.hosts } ∧ ends t 0 0 ∧ stored t ∧
      (0 < sat → (t.port r.port).nat 0x18 8 = ((s.port r.port).nat 0x18 8 + sat) % 2 ^ 64)
    let fits := fun j (b : Byte) => if j = 145 then b.toNat < 81 else b.toNat < 243
    let unused := ∃ i, ∃ h : i < r.bytes.length, ¬ fits ((r.off + i) % 146) r.bytes[i]
    let span := rawSpan r.off r.bytes.length
    let bears := fun g j => r.off ≤ carrier g j ∧ carrier g j < r.off + r.bytes.length
    let packed := fun (ls : List Loc) (t : State) => (∀ o, .hbm o ∉ ls → t.readLoc false (.hbm o) = s.readLoc false (.hbm o)) ∧
      ∀ i (h : i < ls.length), ∀ j < 9, tritAt j (t.readLoc false ls[i]) =
        if bears (span.1 + i) j then carried (span.1 + i) j (r.bytes.getD (carrier (span.1 + i) j - r.off) 0) else tritAt j (s.readLoc false ls[i])
    (∀ row ∈ ([(.rawWindowWrite, 1), (.integerWindowWrite, 2), (.floatWindowWrite, 3), (.physicalWindowWrite, 4)] : List ((WinWrite → Instr) × Nat)),
      w.kind = row.2 → ¬ freeWindow s r.port r.win →
        exec (row.1 r) s = .next (s.modPort r.port fun g => { g with held := g.held ++ [.write r w] })) ∧
    (freeWindow s r.port r.win →
      (w.kind = 1 → (unused → refused (.rawWindowWrite r) (some 0)) ∧
        (¬ unused → (s.ctx? w.ctx = none → refused (.rawWindowWrite r) (some 0x20)) ∧ ∀ c, s.ctx? w.ctx = some c →
          let tried := s.hostTry c p true (w.base + (span.1 : Int)) span.2 fun i => (List.range 9).all fun j => decide (bears (span.1 + i) j)
          (tried = .refused → refused (.rawWindowWrite r) (some 0x20)) ∧
          (∀ b u, tried = .uncorrectable b u → exec (.rawWindowWrite r) s = .next (refuseHost r none (u.logHost c.num b))) ∧
          (∀ ls rem, tried = .ok ls rem → (∀ l ∈ ls, ∃ o, l = .hbm o) → ls.Nodup → made (.rawWindowWrite r) 0 (packed ls)))) ∧
      (∀ row ∈ ([(.integerWindowWrite, 2), (.floatWindowWrite, 3)] : List ((WinWrite → Instr) × Nat)), w.kind = row.2 →
        let n := (fmtBytes w.fmt).1
        let u := winTrytes w.ty
        let es := (List.range (r.bytes.length / n)).map fun i => w.toTernary (natOfBytes ((r.bytes.drop (n * i)).take n))
        let whole := r.off % n = 0 ∧ r.bytes.length % n = 0
        let sat := (es.filter fun e => e.2).length
        (¬ whole → refused (row.1 r) (some 0x10)) ∧ (whole → w.range = 1 → 0 < sat → refused (row.1 r) (some 0x08)) ∧
        (whole → (w.range = 1 → sat = 0) → (s.ctx? w.ctx = none → refused (row.1 r) (some 0x20)) ∧ ∀ c, s.ctx? w.ctx = some c →
          let tried := s.hostTry c p true (w.base + ((u * (r.off / n) : Nat) : Int)) (u * es.length) fun i => decide (i < u * es.length)
          (tried = .refused → refused (row.1 r) (some 0x20)) ∧
          (∀ b v, tried = .uncorrectable b v → exec (row.1 r) s = .next (refuseHost r none (v.logHost c.num b))) ∧
          (∀ ls rem, tried = .ok ls rem → (∀ l ∈ ls, ∃ o, l = .hbm o) →
            made (row.1 r) sat fun t => hbmStored s t (ls.zip (es.flatMap fun e => toTrytes u e.1))))) ∧
      (w.kind = 4 →
        let at_ := fun i => 81 * (w.base / 81).toNat + span.1 + i
        (unused → refused (.physicalWindowWrite r) (some 0)) ∧
        (¬ unused → (∃ i < span.2, s.physLine (at_ i / 81) = false) → refused (.physicalWindowWrite r) none) ∧
        (¬ unused → (∀ i < span.2, s.physLine (at_ i / 81) = true ∧ s.mem.badLines.contains (at_ i / 81) = false) →
          made (.physicalWindowWrite r) 0 (packed ((List.range span.2).map fun i => .hbm (at_ i))))))

/-- R245, R250 to R254, R394: a window read returns the packed bytes of its lines, or the bytes of its converted elements; one that a check
refuses ends as a Completer Abort and one that no window takes as an Unsupported Request. A port that is not ready answers nothing; one to a window
that holds a request waits behind it. -/
def WindowReads : Prop :=
  ∀ (s : State) (r : WinRead), s.hosts.length = 2 → s.mem.upsets = [] →
    let reads : List (Instr × Nat) := [(.rawWindowRead r, 1), (.integerWindowRead r, 2), (.floatWindowRead r, 3), (.physicalWindowRead r, 4)]
    let p := winParker r.port r.win
    let completed := fun (t : State) (c : Completion) => (t.port r.port).comps = (s.port r.port).comps ++ [c] ∧
      t = { s with mem := { s.mem with cache := t.mem.cache, leases := t.mem.leases, comp := t.mem.comp }, hub := t.hub, fab := t.fab, hosts := t.hosts }
    (s.portReady r.port = false → ∀ i ∈ reads, exec i.1 s = .next s) ∧
    (s.portReady r.port = true → s.winFor r.port r.win r.off r.len = none → ∀ i ∈ reads, ∃ t, exec i.1 s = .next t ∧ completed t ⟨1, []⟩) ∧
    (∀ w, s.portReady r.port = true → s.winFor r.port r.win r.off r.len = some w →
      (¬ freeWindow s r.port r.win → ∀ i ∈ reads, w.kind = i.2 →
        exec i.1 s = .next (s.modPort r.port fun g => { g with held := g.held ++ [.read r w] })) ∧
      (freeWindow s r.port r.win →
        let refused := fun (i : Instr) => ∃ t, exec i s = .next t ∧ completed t ⟨2, []⟩ ∧
          (t.port r.port).nat 0x20 8 = ((s.port r.port).nat 0x20 8 + 1) % 2 ^ 64
        let bytes := fun (c : Nat → Int) (bs : List Byte) => bs.length = r.len ∧ ∀ i (h : i < bs.length),
          let b := r.off + i
          let n := if b % 146 = 145 then 4 else 5
          (bs[i].toNat : Int) = (if b % 146 = 145 then 40 else 121) + ((List.range n).map fun k =>
            tritAt ((5 * (b % 146) + k) % 9) (c (81 * (b / 146) + (5 * (b % 146) + k) / 9)) * 3 ^ k).sum
        let span := rawSpan r.off r.len
        (s.ctx? w.ctx = none → ∀ i ∈ reads, w.kind = i.2 → w.kind ≠ 4 → refused i.1) ∧
        (w.kind = 1 → ∀ c, s.ctx? w.ctx = some c →
          let tried := s.hostTry c p false (w.base + (span.1 : Int)) span.2 fun _ => false
          (tried = .refused → refused (.rawWindowRead r)) ∧
          (∀ ls rem, tried = .ok ls rem → (∀ l ∈ ls, ∃ o, l = .hbm o) →
            ∃ t bs, exec (.rawWindowRead r) s = .next t ∧ completed t ⟨0, bs⟩ ∧
              bytes (fun g => s.readLoc false (ls.getD (g - span.1) (.hbm 0))) bs)) ∧
        (∀ row ∈ ([(.integerWindowRead, 2), (.floatWindowRead, 3)] : List ((WinRead → Instr) × Nat)), w.kind = row.2 → ∀ c, s.ctx? w.ctx = some c →
          let n := (fmtBytes w.fmt).1
          let u := winTrytes w.ty
          let m := if r.len = 0 then 0 else (r.off + r.len - 1) / n - r.off / n + 1
          let tried := s.hostTry c p false (w.base + ((u * (r.off / n) : Nat) : Int)) (u * m) fun _ => false
          (tried = .refused → refused (row.1 r)) ∧
          (∀ ls rem, tried = .ok ls rem → (∀ l ∈ ls, ∃ o, l = .hbm o) →
            let es := (List.range m).map fun i => w.toBinary (ofTrytes (((ls.drop (u * i)).take u).map fun l => s.readLoc false l))
            ∃ t, exec (row.1 r) s = .next t ∧
              completed t ⟨0, (List.range r.len).map fun i =>
                BitVec.ofNat 8 ((es.getD ((r.off + i) / n - r.off / n) (0, false)).1 / 256 ^ ((r.off + i) % n))⟩ ∧
              (t.port r.port).nat 0x18 8 = ((s.port r.port).nat 0x18 8 + (es.filter fun e => e.2).length) % 2 ^ 64)) ∧
        (w.kind = 4 →
          let at_ := fun g => 81 * (w.base / 81).toNat + g
          ((∃ i < span.2, s.physLine (at_ (span.1 + i) / 81) = false) → ∃ t, exec (.physicalWindowRead r) s = .next t ∧ completed t ⟨2, []⟩) ∧
          ((∀ i < span.2, s.physLine (at_ (span.1 + i) / 81) = true ∧ s.mem.badLines.contains (at_ (span.1 + i) / 81) = false) →
            ∃ t bs, exec (.physicalWindowRead r) s = .next t ∧ completed t ⟨0, bs⟩ ∧
              bytes (fun g => if span.1 ≤ g ∧ g < span.1 + span.2 then s.readLoc false (.hbm (at_ g)) else 0) bs))))

/-- Host windows read and write. Log 62. -/
def Obligations.Windows : Prop := WindowWrites ∧ WindowReads

/-- A state with what handing messages to the fabric changes: what has been sent, the numbers, credits and retry buffers of the ports, the
flits that left and the messages that wait. -/
def sentAs (u t : State) : State :=
  { u with fab := { u.fab with
      out := t.fab.out, seqOut := t.fab.seqOut, credits := t.fab.credits, owed := t.fab.owed, retry := t.fab.retry, wire := t.fab.wire,
      queue := t.fab.queue, routes := t.fab.routes } }

/-- R396, R398, R402, R404, R460: a message leaves in a flit under its port's next number, for a credit of its class. A flit received in order
acknowledges what this port sent, returns credits, and is delivered or passed on; a corrupt one is logged and retried, one out of sequence is not
delivered, one that may not cross between domains is a protocol error, what a frozen peer asks fails, and a fenced module's answer comes too late. The
oldest request of a peer is served from this module's storage: loads answered, stores entered, updates made in one access, anything that this module
does not hold refused. -/
def FabricTraffic : Prop :=
  (∀ (s : State) (p : Fin 27) (f : Flit), s.portLive p = true →
    let rx : State := { s with fab := { s.fab with lastRx := setZ p s.clock.fabric s.fab.lastRx } }
    let k := 8 * p.val + (f.bytes.getD 4 0).toNat
    let got : State := { rx with fab := { rx.fab with
      retry := (rx.acknowledge p (flitAck f)).fab.retry,
      seqIn := setZ p (((flitSeq f + 1) % 65536 : Nat) : Int) s.fab.seqIn,
      credits := setZ k (getZ k s.fab.credits + (leNat ((f.bytes.drop 14).take 2) : Int)) s.fab.credits,
      owed := setZ k (getZ k s.fab.owed + 1) s.fab.owed } }
    let next := fun t => exec (.flitReceive p f) s = .next t
    let answers := fun (tag : Nat) (a : RemoteReply) => ∃ t, next t ∧ t = sentAs got t ∧
      t.fab.out = s.fab.out ++ if tag = 0 then [] else [(flitSrc f, .response tag a)]
    let foreign := 24 ≤ p.val ∨ flitSrc f / 729 ≠ s.fab.place.domain ∨ flitDst f / 729 ≠ s.fab.place.domain
    (flitCorrupt f = true → ∃ t e, next t ∧ t = { rx with trust := t.trust } ∧ t.trust.health.getLast? = some e ∧
      (e.time, e.event, e.kind, e.index) = (s.clock.fabric, 9, 6, p.val)) ∧
    (flitCorrupt f = false → flitCarries f = true →
      ((flitSeq f : Int) ≠ getZ p s.fab.seqIn → next rx) ∧
      ((flitSeq f : Int) = getZ p s.fab.seqIn →
        (flitSrc f ∈ s.fab.frozen →
          (flitDst f ≠ s.modul → next got) ∧
          (flitDst f = s.modul → ∀ tag a b r, f.msg = .request tag a b r → answers tag (.refused (causeCode .ownerFenced)))) ∧
        (flitSrc f ∉ s.fab.frozen → foreign → crosses f.msg = false →
          next { got with fab := { got.fab with refusals := (flitSrc f, s.clock.fabric) :: s.fab.refusals } }) ∧
        (flitSrc f ∉ s.fab.frozen → (foreign → crosses f.msg = true) →
          (flitDst f ≠ s.modul → ∃ t, next t ∧ t = sentAs got t ∧ t.fab.out = s.fab.out ++ [(flitDst f, f.msg)]) ∧
          (flitDst f = s.modul →
            (f.msg = .nothing → next got) ∧
            (∀ q, f.msg = .hello q → ∃ t, next t ∧
              t = { got with fab := { got.fab with
                fenced := s.fab.fenced.filter (fun k => decide (k ≠ flitSrc f)), accepted := s.fab.accepted.filter (fun j => decide (j.src ≠ flitSrc f)),
                lost := s.fab.lost.filter (fun l => decide (l.1 ≠ flitSrc f)), waits := t.fab.waits } } ∧
              ∀ w ∈ s.fab.waits, (∀ c, w.who ≠ .device c) →
                (w.reply = none → w.modul = flitSrc f → s.isFenced w.modul = true → ∃ c, { w with reply := some (.refused c) } ∈ t.fab.waits) ∧
                (w.reply ≠ none ∨ s.isFenced w.modul = false → w ∈ t.fab.waits)) ∧
            (∀ tag r, f.msg = .response tag r →
              (s.isFenced (flitSrc f) = true → next got) ∧
              (s.isFenced (flitSrc f) = false → (∀ w ∈ s.fab.waits, ∀ c, w.who ≠ .device c) →
                let answered := s.fab.waits.map fun w =>
                  if w.tag = tag ∧ w.modul = flitSrc f ∧ w.reply = none then { w with reply := some r } else w
                next { got with fab := { got.fab with waits := answered } })) ∧
            (((∃ a b c r, f.msg = .request a b c r) ∨ (∃ c, f.msg = .contribution c) ∨ ∃ m, f.msg = .fence m) →
              next { got with fab := { got.fab with inbox := s.fab.inbox ++ [⟨flitSrc f, f.msg⟩] } })))))) ∧
  (∀ (s : State) (src dst p : Nat) (m : FlitMsg), s.fab.queue = [] → s.routeTo src dst = some p →
    let t := s.transmitFrom src dst m
    t = sentAs s t ∧ t.fab.out = s.fab.out ++ [(dst, m)] ∧
      (s.hasCredit p m = false → t.fab.wire = s.fab.wire ∧ t.fab.queue = [⟨src, dst, m⟩]) ∧
      (s.hasCredit p m = true → ∃ f : SentFlit, f.port = p ∧ (f.seq : Int) = ((getZ p s.fab.seqOut).toNat : Int) ∧ f.flit.msg = m ∧
        f.flit.bytes.length = 176 ∧ t.fab.wire = s.fab.wire ++ [f] ∧ t.fab.retry = s.fab.retry ++ [f] ∧ t.fab.queue = [] ∧
        getZ (creditKey p m) t.fab.credits = getZ (creditKey p m) s.fab.credits - 1)) ∧
  (∀ (s : State) (src tag m ctx : Nat) (r : RemoteReq) (rest : List Inbound), s.fab.inbox = ⟨src, .request tag m ctx r⟩ :: rest → tag ≠ 0 →
    (∀ w ∈ s.xlate.parked, w.who ≠ .inbound src tag) → s.entering = false → s.mem.upsets = [] →
    let place := fun (p n : Nat) => (List.range n).map fun i => Loc.hbm (p + i)
    let served := fun (i : Instr) (bin : Bool) (a : RemoteReply) (ws : List (Loc × Int)) => ∃ t, exec i s = .next t ∧
      t = { s with mem := t.mem, fab := t.fab, hub := t.hub } ∧ t.fab.inbox = rest ∧ t.fab.out = s.fab.out ++ [(src, .response tag a)] ∧
      ∀ o, t.readLoc bin (.hbm o) = (lastAt ws (.hbm o)).getD (s.readLoc bin (.hbm o))
    (∀ p n bin, r = .load p n bin →
      (s.holdsFrames p n = true → (∀ l ∈ place p n, s.badLoc l = false) →
        served .remoteRequestServe bin (.vals ((place p n).map fun l => s.readLoc bin l)) []) ∧
      (s.holdsFrames p n = false → ∃ t, exec .remoteRequestServe s = .next t ∧ t = { s with fab := t.fab } ∧
        t.fab.out = s.fab.out ++ [(src, .response tag (.refused (causeCode .entryMalformed)))] ∧
        t.fab.refusals = (src, s.clock.fabric) :: s.fab.refusals)) ∧
    (∀ p n needs, r = .accept p n needs → s.holdsFrames p n = true → (needs = true → ∀ l ∈ place p n, s.badLoc l = false) →
      served .remoteRequestServe false .done []) ∧
    (∀ p vs bin, r = .store p vs bin → s.holdsFrames p vs.length = true → served .remoteRequestServe bin .done ((place p vs.length).zip vs)) ∧
    (∀ p u, r = .update p u → u.op ∈ [AtomOp.add, .min, .max, .swp, .cas] → s.holdsFrames p (updateLen u) = true →
      (∀ l ∈ place p (updateLen u), s.badLoc l = false) →
      let a := applyUpdate u (ofTrytes ((place p (updateLen u)).map fun l => s.readLoc false l))
      served .atomicServe false (updateReply a.ret a.flags)
        (if a.wr then (place p (updateLen u)).zip (toTrytes (updateLen u) a.new) else [])))

/-- R397 to R400, R403: a trained port tells its neighbour of this module; one whose neighbour is the one that its place predicts becomes ready and joins
it to the modules found and the scope table, any other is logged and stays down; a port without a flit for 2 microseconds is down, and what it sent and was not acknowledged
waits for another route; when no port is left, no module of the domain has a live route. -/
def FabricPorts : Prop :=
  (∀ (q r : Placement) (p : Nat), portNeighbour q p = some r → p < 24 ∧
    let far := fun (c : Nat) => (c + p % 8 + 1) % 9
    r = (if p < 8 then { q with x := far q.x } else if p < 16 then { q with y := far q.y } else { q with z := far q.z }) ∧
    if p < 8 then r.x < q.xs else if p < 16 then r.y < q.ys else r.z < q.zs) ∧
  ∀ (s : State) (p : Fin 27), let off := 0xA0 + p.val
    (∀ n, s.readyByte 0xC1 = 1 → s.readyByte off = 0 →
      let said := s.fab.out ++ [(moduleNumber n, FlitMsg.hello s.fab.place)]
      (s.expects p n = true → ∃ t, exec (.portDiscovery p n) s = .next t ∧ t = { s with fab := t.fab, trust := { s.trust with ready := t.trust.ready } } ∧
        (∀ o, t.readyByte o = if o = off then 1 else s.readyByte o) ∧ (p.val, moduleNumber n) ∈ t.fab.near ∧
        t.fab.found = foundFrom s.fab.place (t.fab.near.map Prod.snd) ∧ t.fab.scopes = scopeRows s.modul t.fab.found ∧ t.fab.out = said ∧
        (∃ f : SentFlit, t.fab.wire = s.fab.wire ++ [f] ∧ f.port = p.val ∧ f.seq = 0 ∧ f.flit.msg = .hello s.fab.place) ∧
        (∀ k, k ∈ t.fab.fenced ↔ k ∈ s.fab.fenced ∧ k ≠ moduleNumber n ∧ k ≠ s.modul) ∧ t.fab.lost = []) ∧
      (s.expects p n = false → ∃ t e, exec (.portDiscovery p n) s = .next t ∧ t = { s with trust := t.trust, fab := { s.fab with
          out := said, seqIn := t.fab.seqIn, seqOut := t.fab.seqOut, credits := t.fab.credits, owed := t.fab.owed, retry := t.fab.retry,
          lastRx := t.fab.lastRx, wire := t.fab.wire } } ∧ t.trust.ready = s.trust.ready ∧
        t.trust.health.getLast? = some e ∧ (e.time, e.event, e.kind, e.index) = (s.clock.fabric, 8, 6, p.val))) ∧
    (s.portLive p = true → getZ p s.fab.lastRx + 2000 ≤ s.clock.fabric →
      let mine := s.fab.retry.filter fun r => decide (r.port = p.val)
      ∃ t, exec (.linkDownTimeout p) s = .next t ∧
        t = { s with
          fab := { s.fab with
            lost := t.fab.lost, retry := s.fab.retry.filter (fun r => decide (r.port ≠ p.val)),
            queue := mine.map (fun r => (⟨flitSrc r.flit, flitDst r.flit, r.flit.msg⟩ : Outgoing)) ++ s.fab.queue },
          trust := { s.trust with ready := t.trust.ready } } ∧
        (∀ o, t.readyByte o = if o = off then 0 else s.readyByte o) ∧ (∀ l ∈ s.fab.lost, l ∈ t.fab.lost) ∧
        ((∃ q, q < 24 ∧ t.portLive q = true) → t.fab.lost = s.fab.lost) ∧
        ((∀ q, q < 24 → t.portLive q = false) → ∀ m, m = s.modul ∨ (m ∈ s.fab.found ∧ m / 729 = s.fab.place.domain) → ∃ c, (m, c) ∈ t.fab.lost))

/-- Flits, requests of peers, discovery and links. A flit carries its message beside its bytes (log 53). -/
def Obligations.FabricFlow : Prop := FabricTraffic ∧ FabricPorts

/-- R403, R404, R413 to R415, R460: fencing a module announces it to the domain, refuses the contributions meant for it and marks it in the maps of
the reductions rooted here; an announcement does the same here and goes on into other domains. A peer of whom 27 requests were refused within a second is frozen, and what it has
asked is refused. Logs 49 and 52. -/
def Obligations.Fencing : Prop :=
  (∀ (s : State) (m : Nat), m ∉ s.fab.fenced → s.scope.cfgs = [] →
    let marked := fun (t : State) => t = { s with
        fab := t.fab, ctxs := t.ctxs, reds := t.reds, eng := { s.eng with bindings := t.eng.bindings }, xlate := { s.xlate with parked := t.xlate.parked } } ∧ (∀ k, k ∈ t.fab.fenced ↔ k = m ∨ k ∈ s.fab.fenced) ∧
      (∀ n c r, s.ctx? n = some c → r ∈ c.reds → redDest r.card = m → r.state = 0 ∨ r.state = 1 →
        ∃ d, t.ctx? n = some d ∧ { r with state := -1 } ∈ d.reds) ∧
      (∀ r ∈ s.reds, m ≠ s.modul → redDest r.card = s.modul → r.closed = none →
        let i := r.members.idxOf m
        let busy := if r.doing = .correction then 1 else 0
        let open_ := m ∈ r.members ∧ r.map.getD i 0 = 0 ∧ ((∃ q ∈ r.late.drop busy, q.modul = m) ∨ ∀ q ∈ r.took, q.1 ≠ m)
        (open_ → { r with
          map := r.map.set i (-1), due := if r.written then r.due ++ [i] else r.due,
          late := r.late.take busy ++ (r.late.drop busy).filter fun q => decide (q.modul ≠ m) } ∈ t.reds) ∧
        (¬ open_ → r ∈ t.reds))
    ((m = s.modul ∧ s.fab.fatal = true) ∨ (s.inDomain m = true ∧ ∃ l ∈ s.fab.lost, l.1 = m ∧ l.2 + 100000 ≤ s.clock.fabric) →
      ∃ t, exec (.moduleFence m) s = .next t ∧ marked t ∧ (m ≠ s.modul → t.fab.inbox = s.fab.inbox) ∧
        ∀ p ∈ s.fab.found, p ≠ m → (p, .fence m) ∈ t.fab.out) ∧
    (∀ as bs src, s.fab.inbox = as ++ ⟨src, .fence m⟩ :: bs → (∀ q ∈ as, q.msg ≠ .fence m) →
      ∃ t, exec (.fenceAnnouncement m) s = .next t ∧ marked t ∧ (m ≠ s.modul → t.fab.inbox = as ++ bs) ∧
        ∀ p ∈ s.fab.found, p ≠ m → (p / 729 ≠ s.fab.place.domain ∧ p / 729 ≠ src / 729) ∨ (p / 729 = s.fab.place.domain ∧ src / 729 ≠ s.fab.place.domain) →
          (p, .fence m) ∈ t.fab.out)) ∧
  (∀ (s : State) (m : Nat), m ∉ s.fab.frozen →
    27 ≤ (s.fab.refusals.filter fun r => decide (r.1 = m) && decide (s.clock.fabric - r.2 < 1000000000)).length →
    ∃ t, exec (.peerFreeze m) s = .next t ∧ t = { s with fab := t.fab, trust := t.trust } ∧ t.fab.frozen = m :: s.fab.frozen ∧
      t.fab.inbox = s.fab.inbox.filter (fun q => decide (q.src ≠ m)) ∧
      t.fab.out = s.fab.out ++ s.fab.inbox.filterMap (fun q => match q.msg with
        | .request tag _ _ _ => if q.src = m ∧ tag ≠ 0 then some (m, .response tag (.refused (causeCode .ownerFenced))) else none
        | _ => none) ∧
      (t.trust.health.getLast?.map fun e => (e.event, e.index)) = some (7, m))

/-- R350, R353, R354: REDSUB reads a card for each slice, with its contributor list, and submits it under the next number of the context; REDQRY
returns the state of a reduction, -2 for one unknown; the source is then read and the contribution enters this module's stage, or a
fault refuses it. -/
def ReductionCommands : Prop :=
  (∀ (s s0 : State) (x : Iss) (a d : SReg), Issues s false s0 x → x.slices.Nodup →
    let writes : Writes := { sca := fun k r => k ∈ x.slices ∧ r = d ∧ d ≠ 0 }
    (∀ (p : List (List Loc)) (rem : List (Nat × RemoteReply)) (ms : Nat → List Int),
      Admits s0 x { Uses.none with dests := x.sDests d, accs := x.cardAccs a 27 81 } p rem →
      let card := fun k => digits 54 27 (ofTrytes (readAt s0 false p rem (x.slices.idxOf k)))
      let num := fun k => x.ctx.redSeq + 1 + x.slices.idxOf k
      Unwatched s0 x → (∀ k ∈ x.slices, s0.redsubSlice x k (card k) = .ok (ms k)) →
      (x.ctx.reds.filter fun r => decide (r.state = 0)).length + x.slices.length ≤ 243 →
      ∃ t c, exec (.redsub a d) s = .next t ∧ GoesOn s0 t x ∧ Kept { s0 with ctxs := t.ctxs } t x { writes with touch := true } ∧
        t.ctx? x.ctx.num = some c ∧ c.redSeq = x.ctx.redSeq + x.slices.length ∧
        ∀ k ∈ x.slices, (d ≠ 0 → t.sreg x.issue.team x.issue.gang k d = (num k : Int)) ∧
          { num := num k, team := x.issue.team, card := card k, members := (ms k).map Int.toNat, vals := [], word := x.word, core := x.team.core,
            gang := x.issue.gang, slice := k, at_ := x.s k a, state := 0 } ∈ c.reds) ∧
    (x.clear (x.sDests d) →
      ∃ t, exec (.redqry a d) s = .next t ∧ GoesOn s0 t x ∧ Kept s0 t x writes ∧
        ∀ k ∈ x.slices, d ≠ 0 → t.sreg x.issue.team x.issue.gang k d =
          if 1 ≤ x.s k a ∧ x.s k a ≤ (x.ctx.redSeq : Int) ∧ (x.ctx.redSeq : Int) - 243 < x.s k a then
            (match x.ctx.reds.find? fun r => decide ((r.num : Int) = x.s k a) with | some r => r.state | none => -2)
          else -2)) ∧
  (∀ (s : State) (n m : Nat) (c : Context) (r : RedSub), s.ctx? n = some c → c.reds.find? (fun r => decide (r.num = m)) = some r → r.state = 0 →
    s.mayStart n r.team r.gang = true → (∀ q ∈ s.xlate.parked, q.who ≠ .source n m) → s.scope.watches = [] → s.scope.cfgs = [] → s.mem.upsets = [] →
    let w : Who := { ctx := c, team := s.team? r.team, gang := r.gang, lane := none, core := some r.core }
    let read := s.engineRead w (.source n m) .load (cardDbl r.card 3) (redLen r.card * redCount r.card) []
    let reds := fun (t : State) (f : RedSub → RedSub) => (t.ctx? n).map Context.reds = some (c.reds.map fun q => if q.num = m then f q else q)
    (∀ vs ls u, read = .ok vs ls u →
      let vals := digits (9 * redLen r.card) (redCount r.card) (ofTrytes vs)
      ∃ t, exec (.contributionSourceRead n m) s = .next t ∧
        t = { s with mem := { s.mem with cache := t.mem.cache, leases := t.mem.leases, comp := t.mem.comp }, hub := t.hub, ctxs := t.ctxs, fab := t.fab } ∧
        reds t (fun q => { q with state := 1, vals := vals }) ∧
        t.fab.inbox = s.fab.inbox ++ [⟨s.modul, .contribution ⟨r.card, r.members, [⟨s.modul, n, c.agency, m, vals⟩], false⟩⟩]) ∧
    (∀ e u, read = .bad e u → ∃ t, exec (.contributionSourceRead n m) s = .next t ∧ reds t (fun q => { q with state := -1 }) ∧
      t.fab.inbox = s.fab.inbox))

/-- R408 to R410, R412, R413, R417, R418: a contribution in time is held at its stage, or forwarded once all of the subtree's are there; a late one
goes on alone to the root. The root opens a reduction with the first card that it accepts, counts each contributor in time once in its map, and
keeps a late one as a correction. When the flag falls a stage forwards what it holds. -/
def ReductionStages : Prop :=
  (∀ (s : State) (src : Nat) (c : Contribution) (rest : List Inbound), s.fab.inbox = ⟨src, .contribution c⟩ :: rest → s.scope.cfgs = [] →
    let u : State := { s with fab := { s.fab with inbox := rest } }
    let key := cardDbl c.card 1
    let next := fun t => exec .reductionContributionArrive s = .next t
    let sent := fun (t : State) (dst : Nat) (m : Contribution) => next t ∧
      t = sentAs u t ∧
      t.fab.out = s.fab.out ++ [(dst, .contribution m)]
    (redDest c.card ≠ s.modul →
      (c.late = true ∨ (src = s.modul ∧ redDeadline c.card ≤ s.clock.fabric) → ∃ t, sent t (redDest c.card) { c with late := true }) ∧
      (c.late = false → src ≠ s.modul → redDeadline c.card ≤ s.clock.fabric → ∃ t, sent t (s.parentStage (redDest c.card)) c) ∧
      (∀ p ps, c.late = false → s.clock.fabric < redDeadline c.card → s.red? false key = none → c.parts = p :: ps →
        let r := { u.newOpen c p false with parts := c.parts }
        (s.subtreeDone r = false → next { u with reds := s.reds ++ [r] }) ∧
        (s.subtreeDone r = true → ∃ t, sent t (s.parentStage (redDest c.card)) ⟨c.card, c.members, c.parts, false⟩))) ∧
    (∀ p, redDest c.card = s.modul → c.parts = [p] → s.redAccepts c.card p = true → (src = s.modul → s.clock.fabric < redDeadline c.card) →
      s.lateOfClosed key p.modul = false →
      let mine := (p.modul, p.ctx, p.num)
      let via := (s.livePort src).toList
      (s.red? true key = none → c.late = false → s.clock.fabric < redDeadline c.card →
        (s.reds.filter fun r => r.closed.isNone && decide (redDest r.card = s.modul)).length < 243 → p.modul ∈ c.members → p.modul ∉ s.fab.fenced →
        next { u with reds := s.reds ++ [
          { key := key, card := c.card, members := c.members,
            agency := p.agency, parts := [p], kids := via, fell := false,
            lateOpen := false, written := false,
            map := (c.members.map fun m => if m ∈ s.fab.fenced then -1 else 0).set (c.members.idxOf p.modul) 1,
            took := [mine], late := [], due := [], doing := .nothing, plan := [], closed := none }] }) ∧
      (∀ r, s.red? true key = some r → s.closing r = false → cardsAgree r.card c.card = true → r.members = c.members → p.modul ∈ r.members →
        r.map.getD (r.members.idxOf p.modul) 0 ≠ -1 → (∀ q ∈ r.took, q.1 ≠ p.modul) →
        (c.late = false → next (u.modOpen true key fun q => if r.written || r.lateOpen
          then { q with took := q.took ++ [mine], late := q.late ++ [p], kids := via ++ q.kids }
          else { q with took := q.took ++ [mine], parts := q.parts ++ [p], map := q.map.set (r.members.idxOf p.modul) 1, kids := via ++ q.kids })) ∧
        (c.late = true → next (u.modOpen true key fun q => { q with took := q.took ++ [mine], late := q.late ++ [p] })))) ∧
    (∀ p, redDest c.card = s.modul → c.parts = [p] → p.modul ≠ s.modul → (∀ r, s.red? true key = some r → s.closing r = false) →
      s.redAccepts c.card p = false ∨ s.lateOfClosed key p.modul = true → ∃ t, next t ∧
      t = { u with fab := t.fab, reds := t.reds } ∧ t.fab.out = s.fab.out ++ [(p.modul, .verdict key p.ctx p.num (-1))] ∧
      (s.redAccepts c.card p = false → t.fab.refusals = (p.modul, s.clock.fabric) :: s.fab.refusals) ∧
      t.reds.map RedOpen.map = s.reds.map RedOpen.map)) ∧
  (∀ (s : State) (key : Int) (r : RedOpen), r.fell = false → redDeadline r.card ≤ s.clock.fabric → s.scope.cfgs = [] →
    (s.red? true key = some r → exec (.flagFall key) s = .next (s.modOpen true key fun q => { q with fell := true })) ∧
    ((∀ q, s.red? true key = some q → q.fell = true ∨ s.clock.fabric < redDeadline q.card) → s.red? false key = some r →
      ∃ t, exec (.flagFall key) s = .next t ∧ t = sentAs { s with reds := t.reds } t ∧
        t.reds = s.reds.filter (fun q => !(decide (q.key = key) && q.closed.isNone && decide (redDest q.card ≠ s.modul))) ∧
        t.fab.out = s.fab.out ++ if r.parts = [] then [] else
          [(s.parentStage (redDest r.card), .contribution ⟨r.card, r.members, r.parts, false⟩)]))

/-- Reductions are submitted, gathered and forwarded. Log 52. -/
def Obligations.ReductionTree : Prop := ReductionCommands ∧ ReductionStages

/-- The place at which located parts put an address. -/
def placeAt (cs : List (Int × Loc)) (a : Int) : Loc := ((cs.find? fun d => decide (d.1 = a)).map Prod.snd).getD (.hbm 0)

/-- Ranges of addresses whose parts a reduction finds in HBM4 of this module, with the places. -/
def redPlaces (s : State) (c : Context) (op : AccOp) (rs : List (Int × Nat)) (cs : List (Int × Loc)) : Prop :=
  (∃ qs : List (Int × Nat × List Loc), s.redLocate c op rs = qs.map (fun q => (q.1, q.2.1, .ok q.2.2)) ∧ cs = qs.flatMap fun q => atAddr q.1 q.2.2) ∧
    ∀ d ∈ cs, ∃ o, d.2 = .hbm o

/-- The trytes of values at an address and after, with their places. -/
def redCells (cs : List (Int × Loc)) (a : Int) (vs : List Int) : List (Loc × Int) := vs.zipIdx.map fun v => (placeAt cs (a + (v.2 : Int)), v.1)

/-- R352, R353, R409, R411, R415 to R418: the root writes result, map and status when its moment comes, tells the contributors counted, and decrements
the signal; afterwards each correction is one update, of a fencing in map and count or of a late contribution, added with its trit
and counts, written to its slot with its message posted, or dropped; a reduction closes when nothing can come, and its map is kept for a minute. Log 52. -/
def Obligations.RootWrites : Prop :=
  (∀ (s : State) (key : Int) (r : RedOpen), s.red? true key = some r → s.entering = false → s.scope.cfgs = [] → s.mem.upsets = [] → (∀ q ∈ s.xlate.parked, q.who ≠ .red key) →
    let d := cardDbl r.card 4
    let z : Int := redZ r.card
    let n := redLen r.card
    let stored := fun (u : State) (ws : List (Loc × Int)) => u = { s with mem := u.mem, hub := u.hub, fab := { s.fab with waits := u.fab.waits } } ∧ hbmStored s u ws
    (∀ (e : Instr) (c : Context) (cs : List (Int × Loc)), s.redCtx r.card = some c → r.written = false → r.doing = .nothing →
      ((e = .rootWrite key ∧ s.rootReady r = true) ∨ (e = .rootWriteTimeout key ∧ redDeadline r.card + 20000 ≤ s.clock.fabric)) →
      let result := (List.range (redCount r.card)).flatMap fun j => toTrytes n (redFit r.card (r.parts.map fun p => p.vals.getD j 0))
      let status := [((r.map.filter fun t => decide (t = 1)).length : Int), ((r.map.filter fun t => decide (t = -1)).length : Int),
        if r.parts = [] then -1 else if ∀ t ∈ r.map, t = 1 then 1 else 0, s.clock.fabric, key, 0].flatMap (toTrytes 6) ++ List.replicate 45 0
      let map := (mapWords r.map).flatMap (toTrytes 3)
      redPlaces s c .store [(d, result.length), (d + z + 81, map.length), (d + z, 81)] cs →
      ∃ u v : State, stored u (redCells cs d result ++ redCells cs (d + z + 81) map ++ redCells cs (d + z) status) ∧
        v = { u with ctxs := v.ctxs, reds := v.reds, fab := v.fab } ∧ exec e s = .next (v.rootSignal r) ∧
        v.red? true key = some { r with written := true, parts := [], plan := [], doing := .signal } ∧
        (∀ p ∈ r.parts, p.modul ≠ s.modul → (p.modul, .verdict key p.ctx p.num 3) ∈ v.fab.out) ∧
        ∀ p ∈ r.parts, p.modul = s.modul → ∀ y q, s.ctx? p.ctx = some y → q ∈ y.reds → q.num = p.num → cardDbl q.card 1 = key → q.state = 1 →
          ∃ y', v.ctx? p.ctx = some y' ∧ { q with state := 3 } ∈ y'.reds) ∧
    (let rests : State → State := fun t => t.modOpen true key fun q => { q with doing := .nothing }
      let sig := cardDbl r.card 9
      (sig = 0 → s.rootSignal r = rests s) ∧
      (∀ c t, s.redCtx r.card = some c → sig ≠ 0 → s.decrementSignal (.red key) c sig 0 = .done t → s.rootSignal r = rests t) ∧
      (r.doing = .signal → s.rootSignal r ≠ s → exec (.rootWrite key) s = .next (s.rootSignal r))) ∧
    (r.written = true → r.doing = .nothing → r.plan = [] →
      let made := fun (t u : State) (f : RedOpen → RedOpen) => t = { u with ctxs := t.ctxs, reds := t.reds, fab := t.fab } ∧ t.red? true key = some (f r)
      let apply := fun (c : Context) (rs : List (Int × Nat × (List Int → List Int))) (f : RedOpen → RedOpen) => ∀ (as bs : List (Int × Loc)),
        redPlaces s c .rmw (rs.map fun q => (q.1, q.2.1)) as →
        let new := rs.map fun q => (q.1, q.2.2 ((List.range q.2.1).map fun i => s.readLoc false (placeAt as (q.1 + (i : Int)))))
        redPlaces s c .store (new.map fun q => (q.1, q.2.length)) bs →
        ∃ t u, exec (.correctionApply key) s = .next t ∧ made t u f ∧ stored u (new.flatMap fun q => redCells bs q.1 q.2)
      (∀ c i rest, s.redCtx r.card = some c → r.due = i :: rest →
        apply c [(mapAddr r.card i, 3, markMap i (-1)), (d + z + 6, 6, bump)] fun q => { q with due := rest }) ∧
      (∀ p rest, r.due = [] → r.late = p :: rest →
        let i := r.members.idxOf p.modul
        (redMode r.card = 0 → ∃ t, exec (.correctionApply key) s = .next t ∧ made t s fun q => { q with late := rest }) ∧
        (∀ c, s.redCtx r.card = some c →
          (redMode r.card = 1 → apply c
            [(d, n * redCount r.card, fun ts => ((digits (9 * n) (redCount r.card) (ofTrytes ts)).zip p.vals).flatMap fun q =>
                toTrytes n (redFit r.card [q.1, q.2])),
             (mapAddr r.card i, 3, markMap i 1), (d + z, 6, bump), (d + z + 30, 6, bump)]
            fun q => { q with late := rest, map := q.map.set i 1 }) ∧
          (redMode r.card = -1 → ∀ cs, let a := cardDbl r.card 10 + (i : Int) * z
            let vs := p.vals.flatMap (toTrytes n)
            redPlaces s c .store [(a, vs.length)] cs →
            ∃ t u, exec (.correctionApply key) s = .next t ∧ stored u (redCells cs a vs) ∧
              made t (u.postAtRoot (s.ctxNumber p.modul p.ctx) (cardDbl r.card 11) i)
                fun q => { q with late := rest }))) ∧
      (r.due = [] → r.late = [] → (∀ t ∈ r.map, t ≠ 0) ∨ redDeadline r.card + 60000000000 ≤ s.clock.fabric →
        exec (.reductionClose key) s = .next (s.modOpen true key fun q => { q with closed := some s.clock.fabric })))) ∧
  (∀ (s : State) (key : Int) q t, q ∈ s.reds → q.key = key → q.closed = some t → t + 60000000000 ≤ s.clock.fabric →
    ∃ u, exec (.reductionMapExpiry key) s = .next u ∧ u = { s with reds := u.reds } ∧
      ∀ p, p ∈ u.reds ↔ p ∈ s.reds ∧ ¬ (p.key = key ∧ ∃ c, p.closed = some c ∧ c + 60000000000 ≤ s.clock.fabric))

/-- A gang without the stalls of its slices, which a halt ends. -/
def unstalled (g : Gang) : Gang := { g with slices := g.slices.map fun y => { y with stall := none } }

/-- R358 to R361, R447: WATCH arms a comparator from the last slice's descriptor, UNWATCH disarms it, DBGWIN opens or closes a window of its gang, of which the modules of gangs named and of those that windows
were open onto are told; HALTG halts
the gangs that it names between instructions, RESMG releases those that are halted, which fails where a section written through a window is
ill-formed, and a gang whose engine command met a stopping
comparator halts once the command has ended. Log 60. -/
def Obligations.Debugging : Prop :=
  (∀ (s s0 : State) (x : Iss) (r : SReg), Issues s false s0 x → x.ctx.priv = true → x.slices ≠ [] → s0.scope.cfgs = [] →
    let last := x.slices.getLastD 0
    let rearms := fun (i : Instr) (touch : Bool) (w : List Watch) (v : List (Nat × Int × Int)) => ∃ t, exec i s = .next t ∧ GoesOn s0 t x ∧
      Kept { s0 with scope := t.scope } t x { touch := touch } ∧
      t.scope = { s0.scope with watches := w, windows := v, stallAt := t.scope.stallAt }
    let there := fun (op : DebugOp) (ns : List (Nat × Int)) => (∀ p ∈ ns, s0.farGang p.2 = true ∨ (s0.namedGang p.2).isSome = true) ∧
      ∃ r, s0.answers x.parker (s0.gangReqs liveKey op ns) = .all r
    let unarmed := fun (n : Nat) => s0.scope.watches.filter fun v => decide (v.n ≠ n)
    (∀ (n : Fin 27) (p : List (List Loc)) (rem : List (Nat × RemoteReply)), Admits s0 x { Uses.none with accs := x.cardAccs r 4 3 } p rem →
      let d := fun k => digits 54 4 (ofTrytes (readAt s0 false p rem (x.slices.idxOf k)))
      (∀ k ∈ x.slices, watchOk (d k) = true) → x.slices.Nodup →
      there .live ((x.slices.map fun k => (k, (d k).getD 3 0)).filter fun p => decide (p.2 ≠ 0)) →
      rearms (.watch r n) true ({
        n := n.val, ctx := x.ctx.num, access := sub 52 2 ((d last).getD 0 0), stop := decide (tritAt 51 ((d last).getD 0 0) = 1),
        start := (d last).getD 1 0, len := (d last).getD 2 0, target := (d last).getD 3 0 } :: unarmed n) s0.scope.windows) ∧
    (∀ n : Fin 27, rearms (.unwatch n) false (unarmed n) s0.scope.windows) ∧
    (∀ n : Fin 9, there .live ((x.names r).filter fun p => decide (p.2 ≠ 0)) →
      let me := s0.nameOf x.issue.team x.issue.gang
      let named := (x.names r).drop (x.slices.length - 1) |>.filter fun p => decide (p.2 ≠ 0)
      (∀ ms, s0.answers x.parker (s0.gangReqs actKey (.attach n.val me) named) ≠ .pending ms) →
      ∃ t, exec (.dbgwin r n) s = .next t ∧ GoesOn s0 t x ∧ Kept { s0 with scope := t.scope, fab := t.fab, hub := t.hub } t x {} ∧
        t.scope = { s0.scope with
          windows := (if x.s last r = 0 then [] else [(n.val, x.s last r, me)]) ++
            s0.scope.windows.filter (fun w => !(decide (w.1 = n.val) && decide (w.2.2 = me))),
          stallAt := t.scope.stallAt } ∧
        ((∀ w ∈ s0.scope.windows, s0.farGang w.2.1 = false) → t.hub = s0.hub ∧ t.fab = { s0.fab with waits := t.fab.waits })) ∧
    (let named := fun (a b : Nat) => ∃ k ∈ x.slices, ∃ u g, s0.namedGang (x.s k r) = some (u, g) ∧ u.key = a ∧ g.idx = b
     let me := (x.issue.team, x.issue.gang)
     let done := fun (op : DebugOp) => ∃ w, s0.answers x.parker (s0.gangReqs actKey op (x.names r)) = .all w
     (there .live (x.names r) → done .halt →
      ((∀ a b g, named a b → s0.gang? a b = some g → g.halt.isSome = true ∨ s0.atBoundary a g (if (a, b) = me then x.slices else []) = true) →
        ∃ t, exec (.haltg r) s = .next t ∧ GoesOn s0 t x ∧ t.beyond = s0.beyond ∧
          (∀ a b g, (a, b) ≠ me → s0.gang? a b = some g →
            (named a b ∧ g.halt = none → (t.gang? a b).map unstalled = some (unstalled { g with halt := some .haltg })) ∧
            (¬ (named a b ∧ g.halt = none) → t.gang? a b = some g)) ∧
          (named x.issue.team x.issue.gang → ∃ g, t.gang? x.issue.team x.issue.gang = some g ∧ g.halt.isSome = true)) ∧
      ((∃ a b g, named a b ∧ s0.gang? a b = some g ∧ g.halt = none ∧ s0.atBoundary a g (if (a, b) = me then x.slices else []) = false) →
        ∃ t, exec (.haltg r) s = .next t ∧ Kept s0 t x {} ∧ ∀ k ∈ x.slices,
          t.pcOf x.issue.team x.issue.gang k = (x.gang.slice k).pc ∧ (t.slc x.issue.team x.issue.gang k).stall = some .fenceWait)) ∧
     (there .check (x.names r) → done .release → (∀ k ∈ x.slices, ∀ u g, s0.namedGang (x.s k r) = some (u, g) → s0.mayRelease u g = true) →
        ∃ t, exec (.resmg r) s = .next t ∧ GoesOn s0 t x ∧ t.beyond = s0.beyond ∧
          ∀ a b g, (a, b) ≠ me → s0.gang? a b = some g →
            (¬ (named a b ∧ g.halt.isSome = true) → (unfated t).gang? a b = (unfated s0).gang? a b) ∧
            (named a b ∧ g.halt.isSome = true → ∃ h, t.gang? a b = some h ∧ h.halt = none ∧ h.engStop = false ∧
              (g.edits = [] → g.bank = none ∨ g.inHandler = true → h.v = g.v ∧ h.m = g.m ∧ h.exempt = true ∧
                h.pending = g.pending.filter (fun p => decide (p.slices ≠ [])) ∧ h.bank = g.dropBlank.bank ∧
                ∀ k < g.slices.length, (h.slice k).pc = (g.slice k).pc ∧ (h.slice k).s = (g.slice k).s ∧ (h.slice k).wait = (g.slice k).wait) ∧
              (∀ b, g.edits = [] → g.bank = some b → g.inHandler = false → h.bank = none ∧
                ∀ k ∈ b.slices, k < g.slices.length → (h.slice k).pc = (g.slice k).get 19))))) ∧
  (∀ (s : State) (a b : Nat) (u : Team) (g : Gang), s.team? a = some u → u.gang? b = some g → g.engStop = true → g.halt = none →
    s.atBoundary a g [] = true → s.watchedRuns a b = false → s.scope.cfgs = [] →
    ∃ t, exec (.engineWatchStop a b) s = .next t ∧ t = { s with
        teams := t.teams, fab := { s.fab with waits := t.fab.waits }, scope := { s.scope with stallAt := t.scope.stallAt } } ∧
      (t.gang? a b).map unstalled = some (unstalled { g with halt := some .engineWatch }) ∧
      ∀ c d, (c, d) ≠ (a, b) → t.gang? c d = s.gang? c d)

/-- R355 to R357, R434: a user event is put into the streams of its agency and changes nothing else, nor anything where the agency is not traced;
TRCCTL start flushes a running configuration and starts another from the block that each slice reads, stop and flush write what is pending, or stall
until there is room; PRFCTL sets the sampling of an agency. -/
def Obligations.TraceCommands : Prop :=
  ∀ (s s0 : State) (x : Iss) (r : SReg), Issues s false s0 x → (x.gang.slice x.low).stall = none →
    let runs := fun (i : Instr) (u : State) (touch : Bool) => ∃ t, exec i s = .next t ∧ GoesOn s0 t x ∧ Kept u t x { touch := touch }
    (∀ code, s0.cfg? x.ctx.agency = none → Runs (.trcev r code) s s0 x {} fun _ => True) ∧
    (∀ code, let u := x.slices.foldl (fun s k => s.emit x.ctx.agency x.team.core 9
        (record (-1) ((x.gang.slot : Int) - 13) k (toTrytes 2 code ++ toTrytes 6 (x.s k r)))) s0
      runs (.trcev r code) u false) ∧
    (x.ctx.priv = true →
      (∀ p rem w u, Admits s0 x { Uses.none with accs := x.cardAccs r 9 3 } p rem → Unwatched s0 x →
        let bs := x.slices.zipIdx.map fun k => (k.1, digits 54 9 (ofTrytes (readAt s0 false p rem k.2)))
        (∀ b ∈ bs, s0.traceFaults x b.1 b.2 = [] ∧ ∃ ls, s0.checkAcc x (offsetAcc b.1 b.2) = .ok ls ∧ ∀ l ∈ ls, s0.badLoc l = false) →
        s0.answers x.parker (s0.offsetReqs x bs) = .all w → s0.traceStarts x bs = (some u, []) → runs (.trcctlStart r) u true) ∧
      ((∀ k ∈ x.slices, 0 ≤ x.s k r ∧ x.s k r ≤ 242) →
        (∀ row ∈ [(Instr.trcctlStop r, true), (.trcctlFlush r, false)],
          let all := x.slices.foldl (fun o k => o.bind fun s => (s.flushTrace (x.s k r).toNat).map fun s =>
            if row.2 then s.dropCfg (x.s k r).toNat else s) (some s0)
          (∀ u, all = some u → runs row.1 u false ∧
            (row.2 = true → ∀ k ∈ x.slices, u.cfg? (x.s k r).toNat = none)) ∧
          (all = none → ∃ t, exec row.1 s = .next t ∧ ∀ k ∈ x.slices, t.pcOf x.issue.team x.issue.gang k = (x.gang.slice k).pc ∧
            (t.slc x.issue.team x.issue.gang k).stall = some .flush)) ∧
        ∀ k, ∃ t, exec (.prfctl r k) s = .next t ∧ GoesOn s0 t x ∧ Kept { s0 with scope := t.scope } t x {} ∧
          t.scope = { s0.scope with sampling := t.scope.sampling, stallAt := t.scope.stallAt } ∧
          ∀ a c, (a, c) ∈ t.scope.sampling ↔ if ∃ j ∈ x.slices, x.s j r = (a : Int) then c = k ∧ k ≠ 0 else (a, c) ∈ s0.scope.sampling))

/-- R434, R440, R442, R443: a source writes its synchronisation record at each multiple of the interval at which it has work or records; what it
holds is written once there is room for the first; a scheduler samples the next of its occupied slots; a cluster gates once its
sources' held records have drained, or at once with their loss, and restarts when no die is too hot. Gating follows log 57, a sample log 61. -/
def Obligations.TraceSteps : Prop :=
  (∀ (s : State) (a src cycle : Nat) (c : TraceCfg), s.cfg? a = some c →
    let past := fun (l : List (Nat × Nat)) => ((l.find? fun p => decide (p.1 = src)).map Prod.snd).getD 0
    (cycle % 3 ^ (c.dbl 5).toNat = 0 → cycle = s.clock.cycle → past c.synced < cycle → past c.streams < cycle →
      (s.worksFor a src = true ∨ src ∈ c.dirty) →
      exec (.syncRecordPeriodic a src cycle) s = .next ((s.modCfg a fun y =>
        { y with synced := (src, cycle) :: y.synced.filter fun p => decide (p.1 ≠ src) }).traceStream a src cycle true [])) ∧
    (∀ h room, c.lossless = true → c.holds.find? (fun h => decide (h.src = src)) = some h → s.traceRoom c 12 = .ok room →
      (if c.last ≠ some src ∧ recordKind h.body ≠ 1 ∧ recordKind h.body ≠ -2 then 10 < room else h.body.length < room) →
      exec (.traceHoldDrain a src) s = .next (s.drain a src (2 * c.holds.length)))) ∧
  (∀ (s : State) (core sched cycle a k : Nat) (c : TraceCfg), core < 1024 → sched < 3 → cycle = s.clock.cycle → s.gated core = false →
    getZ (3 * core + sched) s.scope.sampled < (cycle : Int) → (a, k) ∈ s.scope.sampling → cycle % 3 ^ k = 0 → s.cfg? a = some c → c.on 8 = true →
    let there := fun (g : Gang) => (∃ u ∈ s.teams, u.core = core ∧ u.onCore = true ∧ g ∈ u.gangs) ∧ g.slot % 3 = sched ∧ g.idx < 27
    let after := fun (g : Gang) => (g.slot + 27 - (getZ (3 * core + sched) s.scope.lastSlot).toNat) % 27
    ∃ t, exec (.sampleTick core sched cycle) s = .next t ∧ t.teams = s.teams ∧ getZ (3 * core + sched) t.scope.sampled = cycle ∧
      ((∃ g, there g) → ∃ g, there g ∧ (∀ h, there h → after g ≤ after h) ∧ getZ (3 * core + sched) t.scope.lastSlot = g.slot + 1)) ∧
  (∀ (s : State) (n : Nat) (forced : Bool), n < 128 → n ∉ s.scope.gated →
    (forced = false → ∀ c ∈ s.scope.cfgs, ∀ h ∈ c.holds, clusterSource n h.src = false) →
    ∃ t, exec (.clusterPowerGate n forced) s = .next t ∧
      t = { s with scope := { s.scope with cfgs := t.scope.cfgs, gated := t.scope.gated } } ∧ (∀ m, m ∈ t.scope.gated ↔ m = n ∨ m ∈ s.scope.gated) ∧
      (forced = false → t.scope.cfgs = s.scope.cfgs) ∧ ∀ c ∈ t.scope.cfgs, ∀ h ∈ c.holds, clusterSource n h.src = false) ∧
  (∀ (s : State) (n : Nat), n ∈ s.scope.gated → (∀ d ∈ s.trust.temps, d.2 ≤ 95) →
    ∃ t, exec (.gatedClusterRestart n) s = .next t ∧ t = { s with scope := { s.scope with cfgs := t.scope.cfgs, gated := t.scope.gated } } ∧
      (∀ m, m ∈ t.scope.gated ↔ m ≠ n ∧ m ∈ s.scope.gated) ∧ t.scope.cfgs.map TraceCfg.holds = s.scope.cfgs.map TraceCfg.holds)

/-- R362, R363, R451, R467: TIMERD reads fabric time, the skew bound or the core cycles; ACCRD reads a counter or its snapshot copy, and takes a
snapshot of all ten counters at one instant, later than the one before, up to which the slots that the agency occupies are counted. -/
def Obligations.ClocksAndAccounts : Prop :=
  ∀ (s s0 : State) (x : Iss) (d : SReg), Issues s false s0 x → x.clear (x.sDests d) →
    (∀ sel : TimeSel, RunsScalar (.timerd d sel) s s0 x 0 d [] fun _ => ⟨match sel with
      | .fabric => s0.clock.fabric | .skew => s0.clock.bounds.getD (x.team.core / 64) (-1) | .cycles => s0.clock.cycle, 0⟩) ∧
    (x.ctx.priv = true → ∀ a : Nat,
      (∀ c : Nat, RunsScalar (.accrd d a c) s s0 x 0 d [] fun _ =>
        ⟨if c ≤ 9 then getZ (10 * a + c) s0.hub.counters else getZ (10 * a + (c - 13)) s0.hub.snaps, 0⟩) ∧
      (x.slices.Nodup → x.slices ≠ [] →
        let at_ := Max.max s0.clock.fabric (s0.hub.lastSnap + 1) + (x.slices.length - 1 : Nat)
        let meanwhile : Int := if s0.clock.fabric < at_ then ((s0.clock.cycleAt at_ - s0.clock.cycle) * s0.slotsOf a : Nat) else 0
        ∃ t, exec (.accrdSnapshot d a) s = .next t ∧ GoesOn s0 t x ∧
        Kept { s0 with hub := t.hub } t x { sca := fun k r => k ∈ x.slices ∧ r = d ∧ d ≠ 0 } ∧ t.hub.counters = s0.hub.counters ∧
        (∀ c < 10, getZ (10 * a + c) t.hub.snaps = if c = 7 then wrap 54 (getZ (10 * a + c) s0.hub.counters + meanwhile) else getZ (10 * a + c) s0.hub.counters) ∧
        ∀ k ∈ x.slices, d ≠ 0 → t.sreg x.issue.team x.issue.gang k d =
          Max.max s0.clock.fabric (s0.hub.lastSnap + 1) + x.slices.idxOf k))

/-- R454 to R456, R459, R463: module reset leaves nothing of the contexts and their work and every measurement zero, and keeps the flash, whose images the
boot then loads, the fused minima and the health log. Boot loads the images in order, each after its key, its signature and its version, raises the
fused minimum and measures the image on both dies, which compare their registers; it fails at the first image that does not pass; a function becomes
ready by itself. An image written to the flash is loaded from the next reset on. What reset keeps is log 65. -/
def Obligations.ResetAndBoot : Prop :=
  (∀ s : State, ∃ t, exec .moduleReset s = .next t ∧ (t.ctxs, t.grids, t.teams, t.reds) = ([], [], [], []) ∧ t.mem = State.reset.mem ∧
    t.hosts = [HostPort.reset, HostPort.reset] ∧ t.fab = State.reset.fab ∧ t.clock = { State.reset.clock with fabric := s.clock.fabric } ∧
    (t.trust.boot, t.trust.loaded, t.trust.ready) = (0, 0, []) ∧ t.trust.meas0 = List.replicate 9 measZero ∧ t.trust.meas1 = t.trust.meas0 ∧
    (t.trust.flash, t.trust.images, t.trust.fused, t.trust.health) = (s.trust.flash, s.trust.flash, s.trust.fused, s.trust.health) ∧
    (t.trust.spares, t.trust.downArrays, t.trust.downSlices) = (s.trust.spares, s.trust.downArrays, s.trust.downSlices)) ∧
  (∀ (s : State) (i : Nat) (d : List Byte),
    let ext := fun (m : List (List Byte)) => m.set i (sha3 (m.getD i [] ++ d))
    let t := s.measure i d
    (t.trust.meas0, t.trust.meas1) = (ext s.trust.meas0, ext s.trust.meas1) ∧
      if ext s.trust.meas0 = ext s.trust.meas1 then t = { s with trust := { s.trust with meas0 := t.trust.meas0, meas1 := t.trust.meas1 } }
      else t.trust.boot = 3 ∧ ∀ o, t.readyByte o = if o = 0xC1 then 3 else s.readyByte o) ∧
  (∀ (s : State) (k : ImageKind), s.trust.boot = 0 → s.trust.loaded = imageIndex k → s.trust.meas0.length = 9 → s.trust.meas0 = s.trust.meas1 →
    let n := imageIndex k
    let old := fun i => s.trust.meas0.getD i []
    let loads := fun (p : State → Prop) => ∃ t, exec (.bootImageLoad k) s = .next t ∧ t = { s with trust := t.trust } ∧ t.trust.meas1 = t.trust.meas0 ∧
      t.trust.meas0.getD 0 [] = (if n = 0 then sha3 (old 0 ++ sha3 Config.rom) else old 0) ∧ t.trust.flash = s.trust.flash ∧
      t.trust.images = s.trust.images ∧ p t
    let fails := fun (t : State) => t.trust.boot = 3 ∧ t.trust.loaded = n ∧ t.trust.fused = s.trust.fused ∧
      (∀ i, 1 ≤ i → t.trust.meas0.getD i [] = old i) ∧ ∀ o, t.readyByte o = if o = 0xC1 then 3 else s.readyByte o
    (s.trust.images.getD n none = none → loads fails) ∧
    (∀ m, s.trust.images.getD n none = some m → loads fun t =>
      if sha3 m.key = Config.keyDigest ∧ Config.signatureOk m.key m.content m.sig = true ∧ s.trust.fused.getD n 0 ≤ Config.imageVersion m.content then
        t.trust.loaded = n + 1 ∧ t.trust.fused = s.trust.fused.set n (Config.imageVersion m.content) ∧
        t.trust.meas0.getD (n + 1) [] = sha3 (old (n + 1) ++ sha3 m.content) ∧
        (∀ i, 1 ≤ i → i ≠ n + 1 → (i ≤ 4 ∨ i = 8 ∨ n < 3) → t.trust.meas0.getD i [] = old i) ∧
        (n < 3 → t.trust.boot = 0 ∧ t.trust.ready = s.trust.ready) ∧
        (n = 3 → t.trust.boot = 1 ∧ ∀ o, t.readyByte o = if o = 0xC1 then 1 else s.readyByte o)
      else fails t)) ∧
  (∀ (s : State) (f : Function), s.trust.boot ≠ 3 → (functionPlace f).2 ≤ s.trust.loaded → s.readyByte (functionPlace f).1 = 0 →
    ∃ t, exec (.functionReady f) s = .next t ∧ t = { s with trust := { s.trust with ready := t.trust.ready } } ∧
      ∀ o, t.readyByte o = if o = (functionPlace f).1 then 1 else s.readyByte o) ∧
  (∀ (s : State) (seq : Nat) (k : ImageKind) (m : Image), exec (.flashWrite k ⟨seq, m⟩) s = .next { s with trust := { s.trust with
    flash := s.trust.flash.set (imageIndex k) (some m), answers := s.trust.answers ++ [(2, frame 4 seq [])] } })

/-- R391, R397, R454, R457, R458, R460, R467: the endpoints answer the SPDM requests that the module supports, one that is not ready not at all, and keep
the messages that the next signature covers; at the management port an answer is a frame of the request's kind and sequence. A valid placement record
takes effect, is measured into M8 and releases frozen peers; a signed snapshot returns the copies taken at one instant. The bytes of a response are free (log 28). -/
def Obligations.Attestation : Prop :=
  ∀ (s : State),
    let replies := fun (t : State) (u : State) (e : Nat) (bs : List Byte) => t = { u with trust := { u.trust with answers := s.trust.answers ++ [(e, bs)] } }
    (∀ e : Endpoint,
      let n := endpointNo e
      let past := s.transcript n
      let tells := fun (i : Instr) (code : Nat) (parts : List (List Byte)) (kept : List Byte) => ∃ t, exec i s = .next t ∧
        let u : State := { s with trust := { s.trust with said := (n, kept) :: s.trust.said.filter fun q => decide (q.1 ≠ n) } }
        match e with
        | .doe p => if s.portReady p then replies t u p.val (Config.spdm code parts) else t = s
        | .management seq => replies t u 2 (frame 1 seq (Config.spdm code parts))
      let gives := fun (i : Instr) (ask : Nat) (asked : List (List Byte)) (code : Nat) (parts : List (List Byte)) =>
        tells i code parts (past ++ Config.spdm ask asked ++ Config.spdm code parts)
      let chain := fun (slot : Nat) => Config.certificate slot (if slot = 1 then s.trust.meas0.take 4 else [])
      let block := fun (i : Nat) =>
        leBytes 1 (i + 1) ++ leBytes 1 1 ++ leBytes 2 35 ++ [Config.measurementType i] ++ leBytes 2 32 ++ s.trust.meas0.getD i []
      tells (.getVersion e) 0x04 [[0x00, 0x14]] (Config.spdm 0x84 [] ++ Config.spdm 0x04 [[0x00, 0x14]]) ∧
      gives (.getCapabilities e) 0xE1 [] 0x61 [[0x16, 0, 0, 0]] ∧
      (∀ a b : Bool, let offer : List (List Byte) := [[if a then 1 else 0], [if b then 1 else 0]]
        ((a || b) = true → gives (.negotiateAlgorithms e a b) 0xE3 offer 0x63 offer) ∧
        ((a || b) = false → gives (.negotiateAlgorithms e a b) 0xE3 offer 0x7F [[0x07]])) ∧
      gives (.getDigests e) 0x81 [] 0x01 [sha3 (chain 0), sha3 (chain 1)] ∧
      (∀ slot, slot ≤ 1 → gives (.getCertificate e slot) 0x82 [leBytes 1 slot] 0x02 [chain slot] ∧
        ∀ nonce, let head : List (List Byte) := [leBytes 1 slot, sha3 (chain slot), nonce]
          tells (.challenge e slot nonce) 0x03 (head ++ [(List.range 2420).map (Config.signatureByte slot (if slot = 1 then s.trust.meas0.take 4 else [])
            (past ++ Config.spdm 0x83 [leBytes 1 slot, nonce] ++ Config.spdm 0x03 head))]) []) ∧
      (∀ slot, 1 < slot → gives (.getCertificate e slot) 0x82 [leBytes 1 slot] 0x7F [[0x01]] ∧
        ∀ nonce, gives (.challenge e slot nonce) 0x83 [leBytes 1 slot, nonce] 0x7F [[0x01]]) ∧
      (∀ i, i ≤ 8 → gives (.getMeasurements e (i + 1)) 0xE0 [leBytes 1 (i + 1)] 0x60 [[1], block i]) ∧
      gives (.getMeasurements e 0) 0xE0 [[0]] 0x60 [[9]] ∧ gives (.getMeasurements e 255) 0xE0 [[255]] 0x60 ([9] :: (List.range 9).map block) ∧
      (∀ i, 9 < i → i ≠ 255 → gives (.getMeasurements e i) 0xE0 [leBytes 1 i] 0x7F [[0x01]])) ∧
    (∀ (seq : Nat) (p : Placement) (bytes : List Byte), s.trust.meas0.length = 9 → s.trust.meas0 = s.trust.meas1 →
      (placementOk p = true → ∃ t, exec (.placementRecordWrite p ⟨seq, bytes⟩) s = .next t ∧ t = { s with fab := t.fab, trust := t.trust } ∧
        t.fab = { s.fab with place := p, frozen := [], refusals := [] } ∧ t.trust.meas1 = t.trust.meas0 ∧
        (∀ i, t.trust.meas0.getD i [] = if i = 8 then sha3 (s.trust.meas0.getD 8 [] ++ sha3 bytes) else s.trust.meas0.getD i []) ∧
        t.trust.answers = s.trust.answers ++ [(2, frame 2 seq [])]) ∧
      (placementOk p = false → ∃ t, exec (.placementRecordWrite p ⟨seq, bytes⟩) s = .next t ∧ replies t s 2 (frame 2 seq []))) ∧
    (∀ (seq a : Nat) (nonce : List Byte), nonce.length = 32 →
      (a ≤ 242 → ∃ t, exec (.signedSnapshot a ⟨seq, nonce⟩) s = .next t ∧
        let m := (s.snapshot a).snapshotMessage a nonce
        replies t (s.snapshot a) 2 (frame 3 seq (m ++ (List.range 2420).map (Config.signatureByte 1 (s.trust.meas0.take 4) m)))) ∧
      (242 < a → a ≤ 255 → ∃ t, exec (.signedSnapshot a ⟨seq, nonce⟩) s = .next t ∧ replies t s 2 (frame 3 seq [])))

/-- R458, R461 to R463, R469: events enter the health log; an error of a unit triggers its self-test, in a cluster one after another; a unit with a
lasting fault takes a spare or goes out of service, a transient fault changes nothing else; a core's test ends once its teams are saved; a hot die is
noted, and above 95 degrees every cluster is gated. The codes of some events and the two steps of a test are the model's (logs 66 and 67). -/
def Obligations.HealthEvents : Prop :=
  ∀ (s : State),
    let logged := fun (t : State) (event kind index detail : Nat) => ∃ e, t.trust.health.getLast? = some e ∧
      (e.time, e.event, e.kind, e.index, e.detail) = (s.clock.fabric, event, kind, index, detail)
    (∀ kind len datagram, ¬ ((1 ≤ kind ∧ kind ≤ 4) ∧ len + 8 = datagram) →
      ∃ t, exec (.malformedManagementFrame kind len datagram) s = .next t ∧ t = { s with trust := t.trust } ∧ logged t 10 0 0 kind) ∧
    (∀ u corrected, unitOk u = true → let n := unitNo u
      let t := s.unitError u corrected
      logged t (if corrected then 1 else 2) n.1 n.2.1 n.2.2 ∧ t = { s with trust := t.trust, teams := t.teams, mem := t.mem, hub := t.hub } ∧
        t.trust.testing = (if u ∈ s.trust.testing then s.trust.testing else s.trust.testing ++ [u]) ∧
        ((∀ n, u ≠ .core n) ∨ u ∈ s.trust.testing → t.teams = s.teams) ∧
        ∀ n, u = .core n → u ∉ s.trust.testing →
          ((∃ v ∈ s.trust.testing, unitCluster v = some (n / 8)) → t.teams = s.teams) ∧
          ((∀ v ∈ s.trust.testing, unitCluster v ≠ some (n / 8)) → ∀ a ∈ s.teams, a.core = n → a.place = .resident → a.ended = false →
            ∃ b ∈ t.teams, b.key = a.key ∧ b.place = .saving ∧ b.home = some n)) ∧
    (∀ u lasting, unitOk u = true → s.underTest u = true → (∀ n, u = .core n → s.teamsOn n = []) →
      let n := unitNo u
      let pool := sparePool u
      let used := (getZ pool.1 s.trust.spares).toNat
      let alone := unitCluster u = none ∨ ∀ v ∈ s.trust.testing, v ≠ u → unitCluster v ≠ unitCluster u
      ∃ t, exec (.selfTestComplete u lasting) s = .next t ∧ t.trust.testing = s.trust.testing.filter (fun v => decide (v ≠ u)) ∧
        (lasting = false → logged t 3 n.1 n.2.1 n.2.2 ∧ t.trust.spares = s.trust.spares ∧ (alone → t = { s with trust := t.trust })) ∧
        (lasting = true → used < pool.2 → getZ pool.1 t.trust.spares = used + 1 ∧
          logged t (match u with | .ucieLane _ => 9 | _ => 5) n.1 n.2.1 n.2.2 ∧
          (alone → t = { s with trust := t.trust, teams := t.teams } ∧ ((∀ n, u ≠ .core n) → t.teams = s.teams))) ∧
        (lasting = true → pool.2 ≤ used → logged t 6 n.1 n.2.1 n.2.2 ∧
          (∀ n, u = .core n → t.readyByte (n / 8) = 3) ∧
          (∀ k row, u = .hbmRow k row → t.readyByte (0x80 + k) = 3) ∧ (∀ h row, u = .cacheRow h row → h ∈ t.trust.downSlices) ∧
          ∀ c k, u = .arrayColumn c k → c / 2 * 2 ∈ t.trust.downArrays)) ∧
    (∀ die temp, die < 18 →
      (temp ≤ 95 → ∃ t, exec (.thermalThrottle die temp) s = .next t ∧ t = { s with trust := t.trust } ∧ getZ die t.trust.temps = temp ∧
        (75 < temp → getZ die s.trust.temps ≤ 75 → logged t 0 0 die temp)) ∧
      (95 < temp → ∃ t, exec (.thermalShutdown die temp) s = .next t ∧ t = { s with trust := t.trust, scope := t.scope } ∧
        getZ die t.trust.temps = temp ∧ ∀ c < 128, c ∈ t.scope.gated))

/-- R427 to R429, R465, R466: a time message of the clock's domain sets the skew bounds, and the exchange of messages measures the offset, which
is slewed, or steps the time forward where it is more than a millisecond; in holdover a die's bound grows with its estimated error until it unlocks;
energy is estimated every 19,683 cycles from what has been counted, and residency counts the cycles of every gang slot that an agency occupies. Slewing and holdover follow log 68, the energy function is free (log 31). -/
def Obligations.TimeAndCounting : Prop :=
  ∀ (s : State),
    let locked := fun (t : State) => ∀ o, t.readyByte o =
      if o = 0xC0 then (if ∀ b ∈ t.clock.bounds, 0 ≤ b then 1 else 0) else s.readyByte o
    (∀ p : PtpUpdate, ∃ t, exec (.ptpMessage p) s = .next t ∧
      if p.domain = Config.clockDomain then
        let b : Clock := { s.clock with
          bounds := (List.range 18).map fun i => if 0 ≤ p.bounds.getD i (-1) ∧ p.bounds.getD i (-1) ≤ 13 then p.bounds.getD i (-1) else -1 }
        let q := s.clock.ptp
        let sets := fun (c : Clock) => t = { s with clock := c, trust := { s.trust with ready := t.trust.ready } } ∧ locked t
        (∀ n l, p.msg = .sync n l → sets { b with ptp := { seq := n, left := l, came := s.clock.fabric, asked := l.map fun _ => s.clock.fabric } }) ∧
        (∀ n l, p.msg = .followUp n l →
          sets (if n = q.seq ∧ q.left = none then { b with ptp := { q with left := some l, asked := some s.clock.fabric } } else b)) ∧
        (∀ n at_, p.msg = .delayResp n at_ →
          (∀ t1 t3, q.left = some t1 → q.asked = some t3 → n = q.seq →
            let off := -((q.came - t1 - (at_ - t3)) / 2)
            let c : Clock := { b with ptp := { q with left := none, asked := none } }
            (off ≤ 1000000 → sets { c with slew := off, slewed := 0 }) ∧
            (1000000 < off → s.reds = [] → s.scope.cfgs = [] → sets { c with fabric := s.clock.fabric + off, slew := 0, slewed := 0 })) ∧
          (q.left = none ∨ q.asked = none ∨ n ≠ q.seq → sets b))
      else t = s) ∧
    (∀ die err, die < 18 → 0 ≤ s.clock.bounds.getD die (-1) →
      ∃ t, exec (.fabricTimeHoldover die err) s = .next t ∧ t = { s with clock := t.clock, trust := { s.trust with ready := t.trust.ready } } ∧ locked t ∧
        t.clock = { s.clock with bounds := s.clock.bounds.set die (if 13 < err then -1 else Max.max (s.clock.bounds.getD die (-1)) err) }) ∧
    (s.hub.energyAt / 19683 < s.clock.cycle / 19683 →
      ∃ t, exec .energyEstimateUpdate s = .next t ∧ t = { s with hub := { s.hub with counters := t.hub.counters, energyAt := s.clock.cycle } } ∧
        (∀ k, (k % 10 ≠ 8 ∨ 2430 ≤ k) → getZ k t.hub.counters = getZ k s.hub.counters) ∧
        ∀ a < 243, let work := rangeZ (10 * a) 8 s.hub.counters ++ rangeZ (2 * a) 2 s.hub.accesses
          getZ (10 * a + 8) t.hub.counters = if ∀ v ∈ work, v = 0 then 0 else wrap 54 (Config.energy (s.trust.meas0.getD 2 []) work)) ∧
    (s.hub.resAt < s.clock.cycle →
      ∃ t, exec .residencyCycleCount s = .next t ∧ t = { s with hub := { s.hub with counters := t.hub.counters, resAt := s.clock.cycle } } ∧
        (∀ k, k % 10 ≠ 7 → getZ k t.hub.counters = getZ k s.hub.counters) ∧
        ∀ c ∈ s.ctxs, c.agency < 243 → getZ (10 * c.agency + 7) t.hub.counters =
          if s.slotsOf c.agency = 0 then getZ (10 * c.agency + 7) s.hub.counters
          else wrap 54 (getZ (10 * c.agency + 7) s.hub.counters + ((s.clock.cycle - s.hub.resAt) * s.slotsOf c.agency : Nat)))
end

