-- ==== Sys2Proof/Laws/State.lean ====
section
/-! SUPPORT. What the shared updates leave of each field of the state, one lemma per field and update. -/
namespace Sys2Proof.Machine

@[simp] theorem State.modCtx_clock (s : State) (n : Nat) (f : Context → Context) : (s.modCtx n f).clock = s.clock := rfl
@[simp] theorem State.modCtx_mem (s : State) (n : Nat) (f : Context → Context) : (s.modCtx n f).mem = s.mem := rfl
@[simp] theorem State.modCtx_xlate (s : State) (n : Nat) (f : Context → Context) : (s.modCtx n f).xlate = s.xlate := rfl
@[simp] theorem State.modCtx_grids (s : State) (n : Nat) (f : Context → Context) : (s.modCtx n f).grids = s.grids := rfl
@[simp] theorem State.modCtx_teams (s : State) (n : Nat) (f : Context → Context) : (s.modCtx n f).teams = s.teams := rfl
@[simp] theorem State.modCtx_eng (s : State) (n : Nat) (f : Context → Context) : (s.modCtx n f).eng = s.eng := rfl
@[simp] theorem State.modCtx_nextGrid (s : State) (n : Nat) (f : Context → Context) : (s.modCtx n f).nextGrid = s.nextGrid := rfl
@[simp] theorem State.modCtx_distPtr (s : State) (n : Nat) (f : Context → Context) : (s.modCtx n f).distPtr = s.distPtr := rfl
@[simp] theorem State.modCtx_slotPtr (s : State) (n : Nat) (f : Context → Context) : (s.modCtx n f).slotPtr = s.slotPtr := rfl
@[simp] theorem State.modCtx_lastFire (s : State) (n : Nat) (f : Context → Context) : (s.modCtx n f).lastFire = s.lastFire := rfl
@[simp] theorem State.modCtx_hosts (s : State) (n : Nat) (f : Context → Context) : (s.modCtx n f).hosts = s.hosts := rfl
@[simp] theorem State.modCtx_fab (s : State) (n : Nat) (f : Context → Context) : (s.modCtx n f).fab = s.fab := rfl
@[simp] theorem State.modCtx_reds (s : State) (n : Nat) (f : Context → Context) : (s.modCtx n f).reds = s.reds := rfl
@[simp] theorem State.modCtx_scope (s : State) (n : Nat) (f : Context → Context) : (s.modCtx n f).scope = s.scope := rfl
@[simp] theorem State.modCtx_hub (s : State) (n : Nat) (f : Context → Context) : (s.modCtx n f).hub = s.hub := rfl
@[simp] theorem State.modCtx_trust (s : State) (n : Nat) (f : Context → Context) : (s.modCtx n f).trust = s.trust := rfl
@[simp] theorem State.modCtx_cur (s : State) (n : Nat) (f : Context → Context) : (s.modCtx n f).cur = s.cur := rfl
@[simp] theorem State.modCtx_agenda (s : State) (n : Nat) (f : Context → Context) : (s.modCtx n f).agenda = s.agenda := rfl
@[simp] theorem State.modCtx_turn (s : State) (n : Nat) (f : Context → Context) : (s.modCtx n f).turn = s.turn := rfl
@[simp] theorem State.modCtx_agents (s : State) (n : Nat) (f : Context → Context) : (s.modCtx n f).agents = s.agents := rfl
@[simp] theorem State.modCtx_draws (s : State) (n : Nat) (f : Context → Context) : (s.modCtx n f).draws = s.draws := rfl

@[simp] theorem State.modGrid_clock (s : State) (n : Nat) (f : Grid → Grid) : (s.modGrid n f).clock = s.clock := rfl
@[simp] theorem State.modGrid_mem (s : State) (n : Nat) (f : Grid → Grid) : (s.modGrid n f).mem = s.mem := rfl
@[simp] theorem State.modGrid_xlate (s : State) (n : Nat) (f : Grid → Grid) : (s.modGrid n f).xlate = s.xlate := rfl
@[simp] theorem State.modGrid_ctxs (s : State) (n : Nat) (f : Grid → Grid) : (s.modGrid n f).ctxs = s.ctxs := rfl
@[simp] theorem State.modGrid_teams (s : State) (n : Nat) (f : Grid → Grid) : (s.modGrid n f).teams = s.teams := rfl
@[simp] theorem State.modGrid_eng (s : State) (n : Nat) (f : Grid → Grid) : (s.modGrid n f).eng = s.eng := rfl
@[simp] theorem State.modGrid_nextGrid (s : State) (n : Nat) (f : Grid → Grid) : (s.modGrid n f).nextGrid = s.nextGrid := rfl
@[simp] theorem State.modGrid_distPtr (s : State) (n : Nat) (f : Grid → Grid) : (s.modGrid n f).distPtr = s.distPtr := rfl
@[simp] theorem State.modGrid_slotPtr (s : State) (n : Nat) (f : Grid → Grid) : (s.modGrid n f).slotPtr = s.slotPtr := rfl
@[simp] theorem State.modGrid_lastFire (s : State) (n : Nat) (f : Grid → Grid) : (s.modGrid n f).lastFire = s.lastFire := rfl
@[simp] theorem State.modGrid_hosts (s : State) (n : Nat) (f : Grid → Grid) : (s.modGrid n f).hosts = s.hosts := rfl
@[simp] theorem State.modGrid_fab (s : State) (n : Nat) (f : Grid → Grid) : (s.modGrid n f).fab = s.fab := rfl
@[simp] theorem State.modGrid_reds (s : State) (n : Nat) (f : Grid → Grid) : (s.modGrid n f).reds = s.reds := rfl
@[simp] theorem State.modGrid_scope (s : State) (n : Nat) (f : Grid → Grid) : (s.modGrid n f).scope = s.scope := rfl
@[simp] theorem State.modGrid_hub (s : State) (n : Nat) (f : Grid → Grid) : (s.modGrid n f).hub = s.hub := rfl
@[simp] theorem State.modGrid_trust (s : State) (n : Nat) (f : Grid → Grid) : (s.modGrid n f).trust = s.trust := rfl
@[simp] theorem State.modGrid_cur (s : State) (n : Nat) (f : Grid → Grid) : (s.modGrid n f).cur = s.cur := rfl
@[simp] theorem State.modGrid_agenda (s : State) (n : Nat) (f : Grid → Grid) : (s.modGrid n f).agenda = s.agenda := rfl
@[simp] theorem State.modGrid_turn (s : State) (n : Nat) (f : Grid → Grid) : (s.modGrid n f).turn = s.turn := rfl
@[simp] theorem State.modGrid_agents (s : State) (n : Nat) (f : Grid → Grid) : (s.modGrid n f).agents = s.agents := rfl
@[simp] theorem State.modGrid_draws (s : State) (n : Nat) (f : Grid → Grid) : (s.modGrid n f).draws = s.draws := rfl

@[simp] theorem State.modTeam_clock (s : State) (k : Nat) (f : Team → Team) : (s.modTeam k f).clock = s.clock := rfl
@[simp] theorem State.modTeam_mem (s : State) (k : Nat) (f : Team → Team) : (s.modTeam k f).mem = s.mem := rfl
@[simp] theorem State.modTeam_xlate (s : State) (k : Nat) (f : Team → Team) : (s.modTeam k f).xlate = s.xlate := rfl
@[simp] theorem State.modTeam_ctxs (s : State) (k : Nat) (f : Team → Team) : (s.modTeam k f).ctxs = s.ctxs := rfl
@[simp] theorem State.modTeam_grids (s : State) (k : Nat) (f : Team → Team) : (s.modTeam k f).grids = s.grids := rfl
@[simp] theorem State.modTeam_eng (s : State) (k : Nat) (f : Team → Team) : (s.modTeam k f).eng = s.eng := rfl
@[simp] theorem State.modTeam_nextGrid (s : State) (k : Nat) (f : Team → Team) : (s.modTeam k f).nextGrid = s.nextGrid := rfl
@[simp] theorem State.modTeam_distPtr (s : State) (k : Nat) (f : Team → Team) : (s.modTeam k f).distPtr = s.distPtr := rfl
@[simp] theorem State.modTeam_slotPtr (s : State) (k : Nat) (f : Team → Team) : (s.modTeam k f).slotPtr = s.slotPtr := rfl
@[simp] theorem State.modTeam_lastFire (s : State) (k : Nat) (f : Team → Team) : (s.modTeam k f).lastFire = s.lastFire := rfl
@[simp] theorem State.modTeam_hosts (s : State) (k : Nat) (f : Team → Team) : (s.modTeam k f).hosts = s.hosts := rfl
@[simp] theorem State.modTeam_fab (s : State) (k : Nat) (f : Team → Team) : (s.modTeam k f).fab = s.fab := rfl
@[simp] theorem State.modTeam_reds (s : State) (k : Nat) (f : Team → Team) : (s.modTeam k f).reds = s.reds := rfl
@[simp] theorem State.modTeam_scope (s : State) (k : Nat) (f : Team → Team) : (s.modTeam k f).scope = s.scope := rfl
@[simp] theorem State.modTeam_hub (s : State) (k : Nat) (f : Team → Team) : (s.modTeam k f).hub = s.hub := rfl
@[simp] theorem State.modTeam_trust (s : State) (k : Nat) (f : Team → Team) : (s.modTeam k f).trust = s.trust := rfl
@[simp] theorem State.modTeam_cur (s : State) (k : Nat) (f : Team → Team) : (s.modTeam k f).cur = s.cur := rfl
@[simp] theorem State.modTeam_agenda (s : State) (k : Nat) (f : Team → Team) : (s.modTeam k f).agenda = s.agenda := rfl
@[simp] theorem State.modTeam_turn (s : State) (k : Nat) (f : Team → Team) : (s.modTeam k f).turn = s.turn := rfl
@[simp] theorem State.modTeam_agents (s : State) (k : Nat) (f : Team → Team) : (s.modTeam k f).agents = s.agents := rfl
@[simp] theorem State.modTeam_draws (s : State) (k : Nat) (f : Team → Team) : (s.modTeam k f).draws = s.draws := rfl

@[simp] theorem State.modGang_clock (s : State) (t g : Nat) (f : Gang → Gang) : (s.modGang t g f).clock = s.clock := rfl
@[simp] theorem State.modGang_mem (s : State) (t g : Nat) (f : Gang → Gang) : (s.modGang t g f).mem = s.mem := rfl
@[simp] theorem State.modGang_xlate (s : State) (t g : Nat) (f : Gang → Gang) : (s.modGang t g f).xlate = s.xlate := rfl
@[simp] theorem State.modGang_ctxs (s : State) (t g : Nat) (f : Gang → Gang) : (s.modGang t g f).ctxs = s.ctxs := rfl
@[simp] theorem State.modGang_grids (s : State) (t g : Nat) (f : Gang → Gang) : (s.modGang t g f).grids = s.grids := rfl
@[simp] theorem State.modGang_eng (s : State) (t g : Nat) (f : Gang → Gang) : (s.modGang t g f).eng = s.eng := rfl
@[simp] theorem State.modGang_nextGrid (s : State) (t g : Nat) (f : Gang → Gang) : (s.modGang t g f).nextGrid = s.nextGrid := rfl
@[simp] theorem State.modGang_distPtr (s : State) (t g : Nat) (f : Gang → Gang) : (s.modGang t g f).distPtr = s.distPtr := rfl
@[simp] theorem State.modGang_slotPtr (s : State) (t g : Nat) (f : Gang → Gang) : (s.modGang t g f).slotPtr = s.slotPtr := rfl
@[simp] theorem State.modGang_lastFire (s : State) (t g : Nat) (f : Gang → Gang) : (s.modGang t g f).lastFire = s.lastFire := rfl
@[simp] theorem State.modGang_hosts (s : State) (t g : Nat) (f : Gang → Gang) : (s.modGang t g f).hosts = s.hosts := rfl
@[simp] theorem State.modGang_fab (s : State) (t g : Nat) (f : Gang → Gang) : (s.modGang t g f).fab = s.fab := rfl
@[simp] theorem State.modGang_reds (s : State) (t g : Nat) (f : Gang → Gang) : (s.modGang t g f).reds = s.reds := rfl
@[simp] theorem State.modGang_scope (s : State) (t g : Nat) (f : Gang → Gang) : (s.modGang t g f).scope = s.scope := rfl
@[simp] theorem State.modGang_hub (s : State) (t g : Nat) (f : Gang → Gang) : (s.modGang t g f).hub = s.hub := rfl
@[simp] theorem State.modGang_trust (s : State) (t g : Nat) (f : Gang → Gang) : (s.modGang t g f).trust = s.trust := rfl
@[simp] theorem State.modGang_cur (s : State) (t g : Nat) (f : Gang → Gang) : (s.modGang t g f).cur = s.cur := rfl
@[simp] theorem State.modGang_agenda (s : State) (t g : Nat) (f : Gang → Gang) : (s.modGang t g f).agenda = s.agenda := rfl
@[simp] theorem State.modGang_turn (s : State) (t g : Nat) (f : Gang → Gang) : (s.modGang t g f).turn = s.turn := rfl
@[simp] theorem State.modGang_agents (s : State) (t g : Nat) (f : Gang → Gang) : (s.modGang t g f).agents = s.agents := rfl
@[simp] theorem State.modGang_draws (s : State) (t g : Nat) (f : Gang → Gang) : (s.modGang t g f).draws = s.draws := rfl

@[simp] theorem Iss.modGang_clock (x : Iss) (f : Gang → Gang) (s : State) : (x.modGang f s).clock = s.clock := rfl
@[simp] theorem Iss.modGang_mem (x : Iss) (f : Gang → Gang) (s : State) : (x.modGang f s).mem = s.mem := rfl
@[simp] theorem Iss.modGang_xlate (x : Iss) (f : Gang → Gang) (s : State) : (x.modGang f s).xlate = s.xlate := rfl
@[simp] theorem Iss.modGang_ctxs (x : Iss) (f : Gang → Gang) (s : State) : (x.modGang f s).ctxs = s.ctxs := rfl
@[simp] theorem Iss.modGang_grids (x : Iss) (f : Gang → Gang) (s : State) : (x.modGang f s).grids = s.grids := rfl
@[simp] theorem Iss.modGang_eng (x : Iss) (f : Gang → Gang) (s : State) : (x.modGang f s).eng = s.eng := rfl
@[simp] theorem Iss.modGang_nextGrid (x : Iss) (f : Gang → Gang) (s : State) : (x.modGang f s).nextGrid = s.nextGrid := rfl
@[simp] theorem Iss.modGang_distPtr (x : Iss) (f : Gang → Gang) (s : State) : (x.modGang f s).distPtr = s.distPtr := rfl
@[simp] theorem Iss.modGang_slotPtr (x : Iss) (f : Gang → Gang) (s : State) : (x.modGang f s).slotPtr = s.slotPtr := rfl
@[simp] theorem Iss.modGang_lastFire (x : Iss) (f : Gang → Gang) (s : State) : (x.modGang f s).lastFire = s.lastFire := rfl
@[simp] theorem Iss.modGang_hosts (x : Iss) (f : Gang → Gang) (s : State) : (x.modGang f s).hosts = s.hosts := rfl
@[simp] theorem Iss.modGang_fab (x : Iss) (f : Gang → Gang) (s : State) : (x.modGang f s).fab = s.fab := rfl
@[simp] theorem Iss.modGang_reds (x : Iss) (f : Gang → Gang) (s : State) : (x.modGang f s).reds = s.reds := rfl
@[simp] theorem Iss.modGang_scope (x : Iss) (f : Gang → Gang) (s : State) : (x.modGang f s).scope = s.scope := rfl
@[simp] theorem Iss.modGang_hub (x : Iss) (f : Gang → Gang) (s : State) : (x.modGang f s).hub = s.hub := rfl
@[simp] theorem Iss.modGang_trust (x : Iss) (f : Gang → Gang) (s : State) : (x.modGang f s).trust = s.trust := rfl
@[simp] theorem Iss.modGang_cur (x : Iss) (f : Gang → Gang) (s : State) : (x.modGang f s).cur = s.cur := rfl
@[simp] theorem Iss.modGang_agenda (x : Iss) (f : Gang → Gang) (s : State) : (x.modGang f s).agenda = s.agenda := rfl
@[simp] theorem Iss.modGang_turn (x : Iss) (f : Gang → Gang) (s : State) : (x.modGang f s).turn = s.turn := rfl
@[simp] theorem Iss.modGang_agents (x : Iss) (f : Gang → Gang) (s : State) : (x.modGang f s).agents = s.agents := rfl
@[simp] theorem Iss.modGang_draws (x : Iss) (f : Gang → Gang) (s : State) : (x.modGang f s).draws = s.draws := rfl

@[simp] theorem Iss.modSlices_clock (x : Iss) (f : Nat → Slice → Slice) (s : State) : (x.modSlices f s).clock = s.clock := rfl
@[simp] theorem Iss.modSlices_mem (x : Iss) (f : Nat → Slice → Slice) (s : State) : (x.modSlices f s).mem = s.mem := rfl
@[simp] theorem Iss.modSlices_xlate (x : Iss) (f : Nat → Slice → Slice) (s : State) : (x.modSlices f s).xlate = s.xlate := rfl
@[simp] theorem Iss.modSlices_ctxs (x : Iss) (f : Nat → Slice → Slice) (s : State) : (x.modSlices f s).ctxs = s.ctxs := rfl
@[simp] theorem Iss.modSlices_grids (x : Iss) (f : Nat → Slice → Slice) (s : State) : (x.modSlices f s).grids = s.grids := rfl
@[simp] theorem Iss.modSlices_eng (x : Iss) (f : Nat → Slice → Slice) (s : State) : (x.modSlices f s).eng = s.eng := rfl
@[simp] theorem Iss.modSlices_nextGrid (x : Iss) (f : Nat → Slice → Slice) (s : State) : (x.modSlices f s).nextGrid = s.nextGrid := rfl
@[simp] theorem Iss.modSlices_distPtr (x : Iss) (f : Nat → Slice → Slice) (s : State) : (x.modSlices f s).distPtr = s.distPtr := rfl
@[simp] theorem Iss.modSlices_slotPtr (x : Iss) (f : Nat → Slice → Slice) (s : State) : (x.modSlices f s).slotPtr = s.slotPtr := rfl
@[simp] theorem Iss.modSlices_lastFire (x : Iss) (f : Nat → Slice → Slice) (s : State) : (x.modSlices f s).lastFire = s.lastFire := rfl
@[simp] theorem Iss.modSlices_hosts (x : Iss) (f : Nat → Slice → Slice) (s : State) : (x.modSlices f s).hosts = s.hosts := rfl
@[simp] theorem Iss.modSlices_fab (x : Iss) (f : Nat → Slice → Slice) (s : State) : (x.modSlices f s).fab = s.fab := rfl
@[simp] theorem Iss.modSlices_reds (x : Iss) (f : Nat → Slice → Slice) (s : State) : (x.modSlices f s).reds = s.reds := rfl
@[simp] theorem Iss.modSlices_scope (x : Iss) (f : Nat → Slice → Slice) (s : State) : (x.modSlices f s).scope = s.scope := rfl
@[simp] theorem Iss.modSlices_hub (x : Iss) (f : Nat → Slice → Slice) (s : State) : (x.modSlices f s).hub = s.hub := rfl
@[simp] theorem Iss.modSlices_trust (x : Iss) (f : Nat → Slice → Slice) (s : State) : (x.modSlices f s).trust = s.trust := rfl
@[simp] theorem Iss.modSlices_cur (x : Iss) (f : Nat → Slice → Slice) (s : State) : (x.modSlices f s).cur = s.cur := rfl
@[simp] theorem Iss.modSlices_agenda (x : Iss) (f : Nat → Slice → Slice) (s : State) : (x.modSlices f s).agenda = s.agenda := rfl
@[simp] theorem Iss.modSlices_turn (x : Iss) (f : Nat → Slice → Slice) (s : State) : (x.modSlices f s).turn = s.turn := rfl
@[simp] theorem Iss.modSlices_agents (x : Iss) (f : Nat → Slice → Slice) (s : State) : (x.modSlices f s).agents = s.agents := rfl
@[simp] theorem Iss.modSlices_draws (x : Iss) (f : Nat → Slice → Slice) (s : State) : (x.modSlices f s).draws = s.draws := rfl

@[simp] theorem State.dropWaits_clock (s : State) (p : Parker) : (s.dropWaits p).clock = s.clock := rfl
@[simp] theorem State.dropWaits_mem (s : State) (p : Parker) : (s.dropWaits p).mem = s.mem := rfl
@[simp] theorem State.dropWaits_xlate (s : State) (p : Parker) : (s.dropWaits p).xlate = s.xlate := rfl
@[simp] theorem State.dropWaits_ctxs (s : State) (p : Parker) : (s.dropWaits p).ctxs = s.ctxs := rfl
@[simp] theorem State.dropWaits_grids (s : State) (p : Parker) : (s.dropWaits p).grids = s.grids := rfl
@[simp] theorem State.dropWaits_teams (s : State) (p : Parker) : (s.dropWaits p).teams = s.teams := rfl
@[simp] theorem State.dropWaits_eng (s : State) (p : Parker) : (s.dropWaits p).eng = s.eng := rfl
@[simp] theorem State.dropWaits_nextGrid (s : State) (p : Parker) : (s.dropWaits p).nextGrid = s.nextGrid := rfl
@[simp] theorem State.dropWaits_distPtr (s : State) (p : Parker) : (s.dropWaits p).distPtr = s.distPtr := rfl
@[simp] theorem State.dropWaits_slotPtr (s : State) (p : Parker) : (s.dropWaits p).slotPtr = s.slotPtr := rfl
@[simp] theorem State.dropWaits_lastFire (s : State) (p : Parker) : (s.dropWaits p).lastFire = s.lastFire := rfl
@[simp] theorem State.dropWaits_hosts (s : State) (p : Parker) : (s.dropWaits p).hosts = s.hosts := rfl
@[simp] theorem State.dropWaits_reds (s : State) (p : Parker) : (s.dropWaits p).reds = s.reds := rfl
@[simp] theorem State.dropWaits_scope (s : State) (p : Parker) : (s.dropWaits p).scope = s.scope := rfl
@[simp] theorem State.dropWaits_hub (s : State) (p : Parker) : (s.dropWaits p).hub = s.hub := rfl
@[simp] theorem State.dropWaits_trust (s : State) (p : Parker) : (s.dropWaits p).trust = s.trust := rfl
@[simp] theorem State.dropWaits_cur (s : State) (p : Parker) : (s.dropWaits p).cur = s.cur := rfl
@[simp] theorem State.dropWaits_agenda (s : State) (p : Parker) : (s.dropWaits p).agenda = s.agenda := rfl
@[simp] theorem State.dropWaits_turn (s : State) (p : Parker) : (s.dropWaits p).turn = s.turn := rfl
@[simp] theorem State.dropWaits_agents (s : State) (p : Parker) : (s.dropWaits p).agents = s.agents := rfl
@[simp] theorem State.dropWaits_draws (s : State) (p : Parker) : (s.dropWaits p).draws = s.draws := rfl

@[simp] theorem Iss.advance_clock (x : Iss) (s : State) : (x.advance s).clock = s.clock := rfl
@[simp] theorem Iss.advance_mem (x : Iss) (s : State) : (x.advance s).mem = s.mem := rfl
@[simp] theorem Iss.advance_xlate (x : Iss) (s : State) : (x.advance s).xlate = s.xlate := rfl
@[simp] theorem Iss.advance_ctxs (x : Iss) (s : State) : (x.advance s).ctxs = s.ctxs := rfl
@[simp] theorem Iss.advance_grids (x : Iss) (s : State) : (x.advance s).grids = s.grids := rfl
@[simp] theorem Iss.advance_eng (x : Iss) (s : State) : (x.advance s).eng = s.eng := rfl
@[simp] theorem Iss.advance_nextGrid (x : Iss) (s : State) : (x.advance s).nextGrid = s.nextGrid := rfl
@[simp] theorem Iss.advance_distPtr (x : Iss) (s : State) : (x.advance s).distPtr = s.distPtr := rfl
@[simp] theorem Iss.advance_slotPtr (x : Iss) (s : State) : (x.advance s).slotPtr = s.slotPtr := rfl
@[simp] theorem Iss.advance_lastFire (x : Iss) (s : State) : (x.advance s).lastFire = s.lastFire := rfl
@[simp] theorem Iss.advance_hosts (x : Iss) (s : State) : (x.advance s).hosts = s.hosts := rfl
@[simp] theorem Iss.advance_fab (x : Iss) (s : State) : (x.advance s).fab = s.fab := rfl
@[simp] theorem Iss.advance_reds (x : Iss) (s : State) : (x.advance s).reds = s.reds := rfl
@[simp] theorem Iss.advance_scope (x : Iss) (s : State) : (x.advance s).scope = s.scope := rfl
@[simp] theorem Iss.advance_hub (x : Iss) (s : State) : (x.advance s).hub = s.hub := rfl
@[simp] theorem Iss.advance_trust (x : Iss) (s : State) : (x.advance s).trust = s.trust := rfl
@[simp] theorem Iss.advance_cur (x : Iss) (s : State) : (x.advance s).cur = s.cur := rfl
@[simp] theorem Iss.advance_agenda (x : Iss) (s : State) : (x.advance s).agenda = s.agenda := rfl
@[simp] theorem Iss.advance_turn (x : Iss) (s : State) : (x.advance s).turn = s.turn := rfl
@[simp] theorem Iss.advance_agents (x : Iss) (s : State) : (x.advance s).agents = s.agents := rfl
@[simp] theorem Iss.advance_draws (x : Iss) (s : State) : (x.advance s).draws = s.draws := rfl

@[simp] theorem Iss.raise_clock (x : Iss) (f : FlagSet) (s : State) : (x.raise f s).clock = s.clock := rfl
@[simp] theorem Iss.raise_mem (x : Iss) (f : FlagSet) (s : State) : (x.raise f s).mem = s.mem := rfl
@[simp] theorem Iss.raise_xlate (x : Iss) (f : FlagSet) (s : State) : (x.raise f s).xlate = s.xlate := rfl
@[simp] theorem Iss.raise_ctxs (x : Iss) (f : FlagSet) (s : State) : (x.raise f s).ctxs = s.ctxs := rfl
@[simp] theorem Iss.raise_grids (x : Iss) (f : FlagSet) (s : State) : (x.raise f s).grids = s.grids := rfl
@[simp] theorem Iss.raise_eng (x : Iss) (f : FlagSet) (s : State) : (x.raise f s).eng = s.eng := rfl
@[simp] theorem Iss.raise_nextGrid (x : Iss) (f : FlagSet) (s : State) : (x.raise f s).nextGrid = s.nextGrid := rfl
@[simp] theorem Iss.raise_distPtr (x : Iss) (f : FlagSet) (s : State) : (x.raise f s).distPtr = s.distPtr := rfl
@[simp] theorem Iss.raise_slotPtr (x : Iss) (f : FlagSet) (s : State) : (x.raise f s).slotPtr = s.slotPtr := rfl
@[simp] theorem Iss.raise_lastFire (x : Iss) (f : FlagSet) (s : State) : (x.raise f s).lastFire = s.lastFire := rfl
@[simp] theorem Iss.raise_hosts (x : Iss) (f : FlagSet) (s : State) : (x.raise f s).hosts = s.hosts := rfl
@[simp] theorem Iss.raise_fab (x : Iss) (f : FlagSet) (s : State) : (x.raise f s).fab = s.fab := rfl
@[simp] theorem Iss.raise_reds (x : Iss) (f : FlagSet) (s : State) : (x.raise f s).reds = s.reds := rfl
@[simp] theorem Iss.raise_scope (x : Iss) (f : FlagSet) (s : State) : (x.raise f s).scope = s.scope := rfl
@[simp] theorem Iss.raise_hub (x : Iss) (f : FlagSet) (s : State) : (x.raise f s).hub = s.hub := rfl
@[simp] theorem Iss.raise_trust (x : Iss) (f : FlagSet) (s : State) : (x.raise f s).trust = s.trust := rfl
@[simp] theorem Iss.raise_cur (x : Iss) (f : FlagSet) (s : State) : (x.raise f s).cur = s.cur := rfl
@[simp] theorem Iss.raise_agenda (x : Iss) (f : FlagSet) (s : State) : (x.raise f s).agenda = s.agenda := rfl
@[simp] theorem Iss.raise_turn (x : Iss) (f : FlagSet) (s : State) : (x.raise f s).turn = s.turn := rfl
@[simp] theorem Iss.raise_agents (x : Iss) (f : FlagSet) (s : State) : (x.raise f s).agents = s.agents := rfl
@[simp] theorem Iss.raise_draws (x : Iss) (f : FlagSet) (s : State) : (x.raise f s).draws = s.draws := rfl

@[simp] theorem Iss.setS_clock (x : Iss) (r : SReg) (ws : List (Nat × Int)) (s : State) : (x.setS r ws s).clock = s.clock := rfl
@[simp] theorem Iss.setS_mem (x : Iss) (r : SReg) (ws : List (Nat × Int)) (s : State) : (x.setS r ws s).mem = s.mem := rfl
@[simp] theorem Iss.setS_xlate (x : Iss) (r : SReg) (ws : List (Nat × Int)) (s : State) : (x.setS r ws s).xlate = s.xlate := rfl
@[simp] theorem Iss.setS_ctxs (x : Iss) (r : SReg) (ws : List (Nat × Int)) (s : State) : (x.setS r ws s).ctxs = s.ctxs := rfl
@[simp] theorem Iss.setS_grids (x : Iss) (r : SReg) (ws : List (Nat × Int)) (s : State) : (x.setS r ws s).grids = s.grids := rfl
@[simp] theorem Iss.setS_eng (x : Iss) (r : SReg) (ws : List (Nat × Int)) (s : State) : (x.setS r ws s).eng = s.eng := rfl
@[simp] theorem Iss.setS_nextGrid (x : Iss) (r : SReg) (ws : List (Nat × Int)) (s : State) : (x.setS r ws s).nextGrid = s.nextGrid := rfl
@[simp] theorem Iss.setS_distPtr (x : Iss) (r : SReg) (ws : List (Nat × Int)) (s : State) : (x.setS r ws s).distPtr = s.distPtr := rfl
@[simp] theorem Iss.setS_slotPtr (x : Iss) (r : SReg) (ws : List (Nat × Int)) (s : State) : (x.setS r ws s).slotPtr = s.slotPtr := rfl
@[simp] theorem Iss.setS_lastFire (x : Iss) (r : SReg) (ws : List (Nat × Int)) (s : State) : (x.setS r ws s).lastFire = s.lastFire := rfl
@[simp] theorem Iss.setS_hosts (x : Iss) (r : SReg) (ws : List (Nat × Int)) (s : State) : (x.setS r ws s).hosts = s.hosts := rfl
@[simp] theorem Iss.setS_fab (x : Iss) (r : SReg) (ws : List (Nat × Int)) (s : State) : (x.setS r ws s).fab = s.fab := rfl
@[simp] theorem Iss.setS_reds (x : Iss) (r : SReg) (ws : List (Nat × Int)) (s : State) : (x.setS r ws s).reds = s.reds := rfl
@[simp] theorem Iss.setS_scope (x : Iss) (r : SReg) (ws : List (Nat × Int)) (s : State) : (x.setS r ws s).scope = s.scope := rfl
@[simp] theorem Iss.setS_hub (x : Iss) (r : SReg) (ws : List (Nat × Int)) (s : State) : (x.setS r ws s).hub = s.hub := rfl
@[simp] theorem Iss.setS_trust (x : Iss) (r : SReg) (ws : List (Nat × Int)) (s : State) : (x.setS r ws s).trust = s.trust := rfl
@[simp] theorem Iss.setS_cur (x : Iss) (r : SReg) (ws : List (Nat × Int)) (s : State) : (x.setS r ws s).cur = s.cur := rfl
@[simp] theorem Iss.setS_agenda (x : Iss) (r : SReg) (ws : List (Nat × Int)) (s : State) : (x.setS r ws s).agenda = s.agenda := rfl
@[simp] theorem Iss.setS_turn (x : Iss) (r : SReg) (ws : List (Nat × Int)) (s : State) : (x.setS r ws s).turn = s.turn := rfl
@[simp] theorem Iss.setS_agents (x : Iss) (r : SReg) (ws : List (Nat × Int)) (s : State) : (x.setS r ws s).agents = s.agents := rfl
@[simp] theorem Iss.setS_draws (x : Iss) (r : SReg) (ws : List (Nat × Int)) (s : State) : (x.setS r ws s).draws = s.draws := rfl

@[simp] theorem Iss.open__clock (x : Iss) (p : Pending) (s : State) : (x.open_ p s).clock = s.clock := rfl
@[simp] theorem Iss.open__mem (x : Iss) (p : Pending) (s : State) : (x.open_ p s).mem = s.mem := rfl
@[simp] theorem Iss.open__xlate (x : Iss) (p : Pending) (s : State) : (x.open_ p s).xlate = s.xlate := rfl
@[simp] theorem Iss.open__ctxs (x : Iss) (p : Pending) (s : State) : (x.open_ p s).ctxs = s.ctxs := rfl
@[simp] theorem Iss.open__grids (x : Iss) (p : Pending) (s : State) : (x.open_ p s).grids = s.grids := rfl
@[simp] theorem Iss.open__eng (x : Iss) (p : Pending) (s : State) : (x.open_ p s).eng = s.eng := rfl
@[simp] theorem Iss.open__nextGrid (x : Iss) (p : Pending) (s : State) : (x.open_ p s).nextGrid = s.nextGrid := rfl
@[simp] theorem Iss.open__distPtr (x : Iss) (p : Pending) (s : State) : (x.open_ p s).distPtr = s.distPtr := rfl
@[simp] theorem Iss.open__slotPtr (x : Iss) (p : Pending) (s : State) : (x.open_ p s).slotPtr = s.slotPtr := rfl
@[simp] theorem Iss.open__lastFire (x : Iss) (p : Pending) (s : State) : (x.open_ p s).lastFire = s.lastFire := rfl
@[simp] theorem Iss.open__hosts (x : Iss) (p : Pending) (s : State) : (x.open_ p s).hosts = s.hosts := rfl
@[simp] theorem Iss.open__fab (x : Iss) (p : Pending) (s : State) : (x.open_ p s).fab = s.fab := rfl
@[simp] theorem Iss.open__reds (x : Iss) (p : Pending) (s : State) : (x.open_ p s).reds = s.reds := rfl
@[simp] theorem Iss.open__scope (x : Iss) (p : Pending) (s : State) : (x.open_ p s).scope = s.scope := rfl
@[simp] theorem Iss.open__hub (x : Iss) (p : Pending) (s : State) : (x.open_ p s).hub = s.hub := rfl
@[simp] theorem Iss.open__trust (x : Iss) (p : Pending) (s : State) : (x.open_ p s).trust = s.trust := rfl
@[simp] theorem Iss.open__cur (x : Iss) (p : Pending) (s : State) : (x.open_ p s).cur = s.cur := rfl
@[simp] theorem Iss.open__agenda (x : Iss) (p : Pending) (s : State) : (x.open_ p s).agenda = s.agenda := rfl
@[simp] theorem Iss.open__turn (x : Iss) (p : Pending) (s : State) : (x.open_ p s).turn = s.turn := rfl
@[simp] theorem Iss.open__agents (x : Iss) (p : Pending) (s : State) : (x.open_ p s).agents = s.agents := rfl
@[simp] theorem Iss.open__draws (x : Iss) (p : Pending) (s : State) : (x.open_ p s).draws = s.draws := rfl

@[simp] theorem State.count_clock (s : State) (a c : Nat) (n : Int) : (s.count a c n).clock = s.clock := rfl
@[simp] theorem State.count_mem (s : State) (a c : Nat) (n : Int) : (s.count a c n).mem = s.mem := rfl
@[simp] theorem State.count_xlate (s : State) (a c : Nat) (n : Int) : (s.count a c n).xlate = s.xlate := rfl
@[simp] theorem State.count_ctxs (s : State) (a c : Nat) (n : Int) : (s.count a c n).ctxs = s.ctxs := rfl
@[simp] theorem State.count_grids (s : State) (a c : Nat) (n : Int) : (s.count a c n).grids = s.grids := rfl
@[simp] theorem State.count_teams (s : State) (a c : Nat) (n : Int) : (s.count a c n).teams = s.teams := rfl
@[simp] theorem State.count_eng (s : State) (a c : Nat) (n : Int) : (s.count a c n).eng = s.eng := rfl
@[simp] theorem State.count_nextGrid (s : State) (a c : Nat) (n : Int) : (s.count a c n).nextGrid = s.nextGrid := rfl
@[simp] theorem State.count_distPtr (s : State) (a c : Nat) (n : Int) : (s.count a c n).distPtr = s.distPtr := rfl
@[simp] theorem State.count_slotPtr (s : State) (a c : Nat) (n : Int) : (s.count a c n).slotPtr = s.slotPtr := rfl
@[simp] theorem State.count_lastFire (s : State) (a c : Nat) (n : Int) : (s.count a c n).lastFire = s.lastFire := rfl
@[simp] theorem State.count_hosts (s : State) (a c : Nat) (n : Int) : (s.count a c n).hosts = s.hosts := rfl
@[simp] theorem State.count_fab (s : State) (a c : Nat) (n : Int) : (s.count a c n).fab = s.fab := rfl
@[simp] theorem State.count_reds (s : State) (a c : Nat) (n : Int) : (s.count a c n).reds = s.reds := rfl
@[simp] theorem State.count_scope (s : State) (a c : Nat) (n : Int) : (s.count a c n).scope = s.scope := rfl
@[simp] theorem State.count_trust (s : State) (a c : Nat) (n : Int) : (s.count a c n).trust = s.trust := rfl
@[simp] theorem State.count_cur (s : State) (a c : Nat) (n : Int) : (s.count a c n).cur = s.cur := rfl
@[simp] theorem State.count_agenda (s : State) (a c : Nat) (n : Int) : (s.count a c n).agenda = s.agenda := rfl
@[simp] theorem State.count_turn (s : State) (a c : Nat) (n : Int) : (s.count a c n).turn = s.turn := rfl
@[simp] theorem State.count_agents (s : State) (a c : Nat) (n : Int) : (s.count a c n).agents = s.agents := rfl
@[simp] theorem State.count_draws (s : State) (a c : Nat) (n : Int) : (s.count a c n).draws = s.draws := rfl

@[simp] theorem Gang.modSlices_idx (g : Gang) (ks : List Nat) (f : Nat → Slice → Slice) : (g.modSlices ks f).idx = g.idx := rfl
@[simp] theorem Gang.modSlices_slot (g : Gang) (ks : List Nat) (f : Nat → Slice → Slice) : (g.modSlices ks f).slot = g.slot := rfl
@[simp] theorem Gang.modSlices_subPtr (g : Gang) (ks : List Nat) (f : Nat → Slice → Slice) : (g.modSlices ks f).subPtr = g.subPtr := rfl
@[simp] theorem Gang.modSlices_blocks (g : Gang) (ks : List Nat) (f : Nat → Slice → Slice) : (g.modSlices ks f).blocks = g.blocks := rfl
@[simp] theorem Gang.modSlices_v (g : Gang) (ks : List Nat) (f : Nat → Slice → Slice) : (g.modSlices ks f).v = g.v := rfl
@[simp] theorem Gang.modSlices_m (g : Gang) (ks : List Nat) (f : Nat → Slice → Slice) : (g.modSlices ks f).m = g.m := rfl
@[simp] theorem Gang.modSlices_mode (g : Gang) (ks : List Nat) (f : Nat → Slice → Slice) : (g.modSlices ks f).mode = g.mode := rfl
@[simp] theorem Gang.modSlices_flags (g : Gang) (ks : List Nat) (f : Nat → Slice → Slice) : (g.modSlices ks f).flags = g.flags := rfl
@[simp] theorem Gang.modSlices_gens (g : Gang) (ks : List Nat) (f : Nat → Slice → Slice) : (g.modSlices ks f).gens = g.gens := rfl
@[simp] theorem Gang.modSlices_lanes (g : Gang) (ks : List Nat) (f : Nat → Slice → Slice) : (g.modSlices ks f).lanes = g.lanes := rfl
@[simp] theorem Gang.modSlices_tiles (g : Gang) (ks : List Nat) (f : Nat → Slice → Slice) : (g.modSlices ks f).tiles = g.tiles := rfl
@[simp] theorem Gang.modSlices_tileSet (g : Gang) (ks : List Nat) (f : Nat → Slice → Slice) : (g.modSlices ks f).tileSet = g.tileSet := rfl
@[simp] theorem Gang.modSlices_pending (g : Gang) (ks : List Nat) (f : Nat → Slice → Slice) : (g.modSlices ks f).pending = g.pending := rfl
@[simp] theorem Gang.modSlices_bank (g : Gang) (ks : List Nat) (f : Nat → Slice → Slice) : (g.modSlices ks f).bank = g.bank := rfl
@[simp] theorem Gang.modSlices_phaser (g : Gang) (ks : List Nat) (f : Nat → Slice → Slice) : (g.modSlices ks f).phaser = g.phaser := rfl
@[simp] theorem Gang.modSlices_regangs (g : Gang) (ks : List Nat) (f : Nat → Slice → Slice) : (g.modSlices ks f).regangs = g.regangs := rfl
@[simp] theorem Gang.modSlices_ops (g : Gang) (ks : List Nat) (f : Nat → Slice → Slice) : (g.modSlices ks f).ops = g.ops := rfl
@[simp] theorem Gang.modSlices_sealedMx (g : Gang) (ks : List Nat) (f : Nat → Slice → Slice) : (g.modSlices ks f).sealedMx = g.sealedMx := rfl
@[simp] theorem Gang.modSlices_halt (g : Gang) (ks : List Nat) (f : Nat → Slice → Slice) : (g.modSlices ks f).halt = g.halt := rfl
@[simp] theorem Gang.modSlices_exempt (g : Gang) (ks : List Nat) (f : Nat → Slice → Slice) : (g.modSlices ks f).exempt = g.exempt := rfl
@[simp] theorem Gang.modSlices_engStop (g : Gang) (ks : List Nat) (f : Nat → Slice → Slice) : (g.modSlices ks f).engStop = g.engStop := rfl
@[simp] theorem Gang.modSlices_edits (g : Gang) (ks : List Nat) (f : Nat → Slice → Slice) : (g.modSlices ks f).edits = g.edits := rfl

@[simp] theorem Gang.setLanes_idx (g : Gang) (r : VReg) (ws : List (Nat × Int)) : (g.setLanes r ws).idx = g.idx := rfl
@[simp] theorem Gang.setLanes_slot (g : Gang) (r : VReg) (ws : List (Nat × Int)) : (g.setLanes r ws).slot = g.slot := rfl
@[simp] theorem Gang.setLanes_subPtr (g : Gang) (r : VReg) (ws : List (Nat × Int)) : (g.setLanes r ws).subPtr = g.subPtr := rfl
@[simp] theorem Gang.setLanes_slices (g : Gang) (r : VReg) (ws : List (Nat × Int)) : (g.setLanes r ws).slices = g.slices := rfl
@[simp] theorem Gang.setLanes_blocks (g : Gang) (r : VReg) (ws : List (Nat × Int)) : (g.setLanes r ws).blocks = g.blocks := rfl
@[simp] theorem Gang.setLanes_m (g : Gang) (r : VReg) (ws : List (Nat × Int)) : (g.setLanes r ws).m = g.m := rfl
@[simp] theorem Gang.setLanes_mode (g : Gang) (r : VReg) (ws : List (Nat × Int)) : (g.setLanes r ws).mode = g.mode := rfl
@[simp] theorem Gang.setLanes_flags (g : Gang) (r : VReg) (ws : List (Nat × Int)) : (g.setLanes r ws).flags = g.flags := rfl
@[simp] theorem Gang.setLanes_gens (g : Gang) (r : VReg) (ws : List (Nat × Int)) : (g.setLanes r ws).gens = g.gens := rfl
@[simp] theorem Gang.setLanes_lanes (g : Gang) (r : VReg) (ws : List (Nat × Int)) : (g.setLanes r ws).lanes = g.lanes := rfl
@[simp] theorem Gang.setLanes_tiles (g : Gang) (r : VReg) (ws : List (Nat × Int)) : (g.setLanes r ws).tiles = g.tiles := rfl
@[simp] theorem Gang.setLanes_tileSet (g : Gang) (r : VReg) (ws : List (Nat × Int)) : (g.setLanes r ws).tileSet = g.tileSet := rfl
@[simp] theorem Gang.setLanes_pending (g : Gang) (r : VReg) (ws : List (Nat × Int)) : (g.setLanes r ws).pending = g.pending := rfl
@[simp] theorem Gang.setLanes_bank (g : Gang) (r : VReg) (ws : List (Nat × Int)) : (g.setLanes r ws).bank = g.bank := rfl
@[simp] theorem Gang.setLanes_phaser (g : Gang) (r : VReg) (ws : List (Nat × Int)) : (g.setLanes r ws).phaser = g.phaser := rfl
@[simp] theorem Gang.setLanes_regangs (g : Gang) (r : VReg) (ws : List (Nat × Int)) : (g.setLanes r ws).regangs = g.regangs := rfl
@[simp] theorem Gang.setLanes_ops (g : Gang) (r : VReg) (ws : List (Nat × Int)) : (g.setLanes r ws).ops = g.ops := rfl
@[simp] theorem Gang.setLanes_sealedMx (g : Gang) (r : VReg) (ws : List (Nat × Int)) : (g.setLanes r ws).sealedMx = g.sealedMx := rfl
@[simp] theorem Gang.setLanes_halt (g : Gang) (r : VReg) (ws : List (Nat × Int)) : (g.setLanes r ws).halt = g.halt := rfl
@[simp] theorem Gang.setLanes_exempt (g : Gang) (r : VReg) (ws : List (Nat × Int)) : (g.setLanes r ws).exempt = g.exempt := rfl
@[simp] theorem Gang.setLanes_engStop (g : Gang) (r : VReg) (ws : List (Nat × Int)) : (g.setLanes r ws).engStop = g.engStop := rfl
@[simp] theorem Gang.setLanes_edits (g : Gang) (r : VReg) (ws : List (Nat × Int)) : (g.setLanes r ws).edits = g.edits := rfl

@[simp] theorem Gang.spend_idx (g : Gang) (ws : List (Nat × Nat)) : (g.spend ws).idx = g.idx := rfl
@[simp] theorem Gang.spend_slot (g : Gang) (ws : List (Nat × Nat)) : (g.spend ws).slot = g.slot := rfl
@[simp] theorem Gang.spend_subPtr (g : Gang) (ws : List (Nat × Nat)) : (g.spend ws).subPtr = g.subPtr := rfl
@[simp] theorem Gang.spend_slices (g : Gang) (ws : List (Nat × Nat)) : (g.spend ws).slices = g.slices := rfl
@[simp] theorem Gang.spend_blocks (g : Gang) (ws : List (Nat × Nat)) : (g.spend ws).blocks = g.blocks := rfl
@[simp] theorem Gang.spend_v (g : Gang) (ws : List (Nat × Nat)) : (g.spend ws).v = g.v := rfl
@[simp] theorem Gang.spend_m (g : Gang) (ws : List (Nat × Nat)) : (g.spend ws).m = g.m := rfl
@[simp] theorem Gang.spend_mode (g : Gang) (ws : List (Nat × Nat)) : (g.spend ws).mode = g.mode := rfl
@[simp] theorem Gang.spend_flags (g : Gang) (ws : List (Nat × Nat)) : (g.spend ws).flags = g.flags := rfl
@[simp] theorem Gang.spend_lanes (g : Gang) (ws : List (Nat × Nat)) : (g.spend ws).lanes = g.lanes := rfl
@[simp] theorem Gang.spend_tiles (g : Gang) (ws : List (Nat × Nat)) : (g.spend ws).tiles = g.tiles := rfl
@[simp] theorem Gang.spend_tileSet (g : Gang) (ws : List (Nat × Nat)) : (g.spend ws).tileSet = g.tileSet := rfl
@[simp] theorem Gang.spend_pending (g : Gang) (ws : List (Nat × Nat)) : (g.spend ws).pending = g.pending := rfl
@[simp] theorem Gang.spend_bank (g : Gang) (ws : List (Nat × Nat)) : (g.spend ws).bank = g.bank := rfl
@[simp] theorem Gang.spend_phaser (g : Gang) (ws : List (Nat × Nat)) : (g.spend ws).phaser = g.phaser := rfl
@[simp] theorem Gang.spend_regangs (g : Gang) (ws : List (Nat × Nat)) : (g.spend ws).regangs = g.regangs := rfl
@[simp] theorem Gang.spend_ops (g : Gang) (ws : List (Nat × Nat)) : (g.spend ws).ops = g.ops := rfl
@[simp] theorem Gang.spend_sealedMx (g : Gang) (ws : List (Nat × Nat)) : (g.spend ws).sealedMx = g.sealedMx := rfl
@[simp] theorem Gang.spend_halt (g : Gang) (ws : List (Nat × Nat)) : (g.spend ws).halt = g.halt := rfl
@[simp] theorem Gang.spend_exempt (g : Gang) (ws : List (Nat × Nat)) : (g.spend ws).exempt = g.exempt := rfl
@[simp] theorem Gang.spend_engStop (g : Gang) (ws : List (Nat × Nat)) : (g.spend ws).engStop = g.engStop := rfl
@[simp] theorem Gang.spend_edits (g : Gang) (ws : List (Nat × Nat)) : (g.spend ws).edits = g.edits := rfl

@[simp] theorem Gang.tickWindows_idx (g : Gang) (ks : List Nat) : (g.tickWindows ks).idx = g.idx := rfl
@[simp] theorem Gang.tickWindows_slot (g : Gang) (ks : List Nat) : (g.tickWindows ks).slot = g.slot := rfl
@[simp] theorem Gang.tickWindows_subPtr (g : Gang) (ks : List Nat) : (g.tickWindows ks).subPtr = g.subPtr := rfl
@[simp] theorem Gang.tickWindows_slices (g : Gang) (ks : List Nat) : (g.tickWindows ks).slices = g.slices := rfl
@[simp] theorem Gang.tickWindows_blocks (g : Gang) (ks : List Nat) : (g.tickWindows ks).blocks = g.blocks := rfl
@[simp] theorem Gang.tickWindows_v (g : Gang) (ks : List Nat) : (g.tickWindows ks).v = g.v := rfl
@[simp] theorem Gang.tickWindows_m (g : Gang) (ks : List Nat) : (g.tickWindows ks).m = g.m := rfl
@[simp] theorem Gang.tickWindows_mode (g : Gang) (ks : List Nat) : (g.tickWindows ks).mode = g.mode := rfl
@[simp] theorem Gang.tickWindows_flags (g : Gang) (ks : List Nat) : (g.tickWindows ks).flags = g.flags := rfl
@[simp] theorem Gang.tickWindows_gens (g : Gang) (ks : List Nat) : (g.tickWindows ks).gens = g.gens := rfl
@[simp] theorem Gang.tickWindows_lanes (g : Gang) (ks : List Nat) : (g.tickWindows ks).lanes = g.lanes := rfl
@[simp] theorem Gang.tickWindows_tiles (g : Gang) (ks : List Nat) : (g.tickWindows ks).tiles = g.tiles := rfl
@[simp] theorem Gang.tickWindows_tileSet (g : Gang) (ks : List Nat) : (g.tickWindows ks).tileSet = g.tileSet := rfl
@[simp] theorem Gang.tickWindows_bank (g : Gang) (ks : List Nat) : (g.tickWindows ks).bank = g.bank := rfl
@[simp] theorem Gang.tickWindows_phaser (g : Gang) (ks : List Nat) : (g.tickWindows ks).phaser = g.phaser := rfl
@[simp] theorem Gang.tickWindows_regangs (g : Gang) (ks : List Nat) : (g.tickWindows ks).regangs = g.regangs := rfl
@[simp] theorem Gang.tickWindows_ops (g : Gang) (ks : List Nat) : (g.tickWindows ks).ops = g.ops := rfl
@[simp] theorem Gang.tickWindows_sealedMx (g : Gang) (ks : List Nat) : (g.tickWindows ks).sealedMx = g.sealedMx := rfl
@[simp] theorem Gang.tickWindows_halt (g : Gang) (ks : List Nat) : (g.tickWindows ks).halt = g.halt := rfl
@[simp] theorem Gang.tickWindows_exempt (g : Gang) (ks : List Nat) : (g.tickWindows ks).exempt = g.exempt := rfl
@[simp] theorem Gang.tickWindows_engStop (g : Gang) (ks : List Nat) : (g.tickWindows ks).engStop = g.engStop := rfl
@[simp] theorem Gang.tickWindows_edits (g : Gang) (ks : List Nat) : (g.tickWindows ks).edits = g.edits := rfl

end Sys2Proof.Machine
end

