-- ==== Sys2Proof/Laws/Store.lean ====
section
/-! SUPPORT. The laws of cells by key: a read after a write, and that every operation keeps the canonical form. -/
namespace Sys2Proof.Machine

@[simp] theorem getZ_nil (k : Nat) : getZ k [] = 0 := rfl

theorem getZ_filter_ne (j k : Nat) (m : ZMap) :
    getZ j (m.filter fun c => decide (c.1 ≠ k)) = if j = k then 0 else getZ j m := by
  induction m with
  | nil => simp
  | cons c r ih =>
    obtain ⟨a, x⟩ := c
    rw [List.filter_cons]
    by_cases h : a = k
    · subst h; simp only [ne_eq, not_true, decide_false, Bool.false_eq_true, if_false, ih, getZ]
      split <;> simp_all
    · simp only [ne_eq, h, not_false_eq_true, decide_true, if_true, getZ, ih]
      by_cases hj : j = a
      · subst hj; simp [h]
      · simp [hj]

theorem getZ_insZ (j k : Nat) (v : Int) (m : ZMap) (h : ∀ c ∈ m, c.1 ≠ k) :
    getZ j (insZ k v m) = if j = k then v else getZ j m := by
  induction m with
  | nil => simp [insZ, getZ]
  | cons c r ih =>
    obtain ⟨a, x⟩ := c
    have ha : a ≠ k := h (a, x) List.mem_cons_self
    have ih' := ih fun c hc => h c (List.mem_cons_of_mem _ hc)
    simp only [insZ]
    split
    · simp only [getZ]
    · simp only [getZ, ih']
      by_cases hj : j = k
      · subst hj; simp [ha.symm]
      · simp [hj]

/-- A read after a write. -/
@[simp] theorem getZ_setZ (j k : Nat) (v : Int) (m : ZMap) : getZ j (setZ k v m) = if j = k then v else getZ j m := by
  unfold setZ
  split
  · rename_i h; subst h; exact getZ_filter_ne j k m
  · rw [getZ_insZ j k v _ fun c hc => by simpa using (List.mem_filter.mp hc).2, getZ_filter_ne]
    split <;> rfl

theorem getZ_setZ_same (k : Nat) (v : Int) (m : ZMap) : getZ k (setZ k v m) = v := by simp
theorem getZ_setZ_other (j k : Nat) (v : Int) (m : ZMap) (h : j ≠ k) : getZ j (setZ k v m) = getZ j m := by simp [h]

/-- A read after clearing a run of cells. -/
@[simp] theorem getZ_clearZ (j k n : Nat) (m : ZMap) : getZ j (clearZ k n m) = if k ≤ j ∧ j < k + n then 0 else getZ j m := by
  unfold clearZ
  induction m with
  | nil => simp
  | cons c r ih =>
    obtain ⟨a, x⟩ := c
    rw [List.filter_cons]
    by_cases h : a < k ∨ k + n ≤ a
    · rw [if_pos (by simpa using h)]
      simp only [getZ, ih]
      by_cases hj : j = a
      · subst hj; rw [if_pos rfl, if_neg (by omega), if_pos rfl]
      · simp [hj]
    · rw [if_neg (by simpa using h), ih]
      simp only [getZ]
      by_cases hj : j = a
      · subst hj; rw [if_pos (by omega), if_pos (by omega)]
      · simp [hj]

@[simp] theorem getZ_setRangeZ (k : Nat) (vs : List Int) (m : ZMap) (j : Nat) :
    getZ j (setRangeZ k vs m) = if k ≤ j ∧ j < k + vs.length then vs.getD (j - k) 0 else getZ j m := by
  induction vs generalizing k m with
  | nil => simp only [setRangeZ, List.length_nil]; rw [if_neg (by omega)]
  | cons v vs ih =>
    simp only [setRangeZ, ih, getZ_setZ, List.length_cons]
    by_cases h : j = k
    · subst h; rw [if_neg (by omega), if_pos rfl, if_pos (by omega)]; simp
    · by_cases h2 : k ≤ j ∧ j < k + (vs.length + 1)
      · rw [if_pos h2, if_pos (by omega)]
        obtain ⟨d, hd⟩ : ∃ d, j - k = d + 1 := ⟨j - k - 1, by omega⟩
        rw [hd, List.getD_cons_succ]; congr 1; omega
      · rw [if_neg h2, if_neg (by omega), if_neg h]

@[simp] theorem wfZ_nil : wfZ [] = true := rfl

theorem wfZ_cons (c : Nat × Int) (r : ZMap) : wfZ (c :: r) = true ↔ c.2 ≠ 0 ∧ (∀ d ∈ r, c.1 < d.1) ∧ wfZ r = true := by
  induction r generalizing c with
  | nil => simp [wfZ]
  | cons d r ih =>
    have e : wfZ (c :: d :: r) = (decide (c.2 ≠ 0) && decide (c.1 < d.1) && wfZ (d :: r)) := rfl
    rw [e]
    simp only [Bool.and_eq_true, decide_eq_true_eq, List.mem_cons, forall_eq_or_imp]
    constructor
    · rintro ⟨⟨h1, h2⟩, h3⟩
      exact ⟨h1, ⟨h2, fun x hx => lt_trans h2 (((ih d).mp h3).2.1 x hx)⟩, h3⟩
    · rintro ⟨h1, ⟨h2, _⟩, h3⟩
      exact ⟨⟨h1, h2⟩, h3⟩

theorem wfZ_filter (p : Nat × Int → Bool) (m : ZMap) (h : wfZ m = true) : wfZ (m.filter p) = true := by
  induction m with
  | nil => rfl
  | cons c r ih =>
    rw [wfZ_cons] at h
    rw [List.filter_cons]
    split
    · rw [wfZ_cons]; exact ⟨h.1, fun d hd => h.2.1 d (List.mem_filter.mp hd).1, ih h.2.2⟩
    · exact ih h.2.2

theorem mem_insZ (k : Nat) (v : Int) (m : ZMap) (c : Nat × Int) : c ∈ insZ k v m ↔ c = (k, v) ∨ c ∈ m := by
  induction m with
  | nil => simp [insZ]
  | cons d r ih =>
    obtain ⟨a, x⟩ := d
    simp only [insZ]
    split
    · simp
    · simp only [List.mem_cons, ih]; tauto

theorem wfZ_insZ (k : Nat) (v : Int) (m : ZMap) (hv : v ≠ 0) (hk : ∀ c ∈ m, c.1 ≠ k) (h : wfZ m = true) : wfZ (insZ k v m) = true := by
  induction m with
  | nil => simp [insZ, wfZ, hv]
  | cons d r ih =>
    obtain ⟨a, x⟩ := d
    simp only [insZ]
    split
    · rename_i hlt
      rw [wfZ_cons]
      refine ⟨hv, ?_, h⟩
      rw [wfZ_cons] at h
      intro c hc
      rcases List.mem_cons.mp hc with rfl | hc
      · exact hlt
      · exact lt_trans hlt (h.2.1 c hc)
    · rename_i hnlt
      have hka : a ≠ k := hk (a, x) List.mem_cons_self
      rw [wfZ_cons] at h ⊢
      refine ⟨h.1, ?_, ih (fun c hc => hk c (List.mem_cons_of_mem _ hc)) h.2.2⟩
      intro c hc
      rcases (mem_insZ k v r c).mp hc with rfl | hc
      · simp only; omega
      · exact h.2.1 c hc

/-- A write keeps the canonical form. -/
@[simp] theorem wfZ_setZ (k : Nat) (v : Int) (m : ZMap) (h : wfZ m = true) : wfZ (setZ k v m) = true := by
  unfold setZ
  split
  · exact wfZ_filter _ m h
  · rename_i hv
    exact wfZ_insZ k v _ hv (fun c hc => by simpa using (List.mem_filter.mp hc).2) (wfZ_filter _ m h)

@[simp] theorem wfZ_clearZ (k n : Nat) (m : ZMap) (h : wfZ m = true) : wfZ (clearZ k n m) = true := wfZ_filter _ m h

theorem wfZ_setsZ (ws : List (Nat × Int)) (m : ZMap) (h : wfZ m = true) : wfZ (setsZ ws m) = true := by
  unfold setsZ
  induction ws generalizing m with
  | nil => exact h
  | cons w ws ih => exact ih _ (wfZ_setZ _ _ _ h)

theorem wfZ_setRangeZ (k : Nat) (vs : List Int) (m : ZMap) (h : wfZ m = true) : wfZ (setRangeZ k vs m) = true := by
  induction vs generalizing k m with
  | nil => exact h
  | cons v vs ih => exact ih _ _ (wfZ_setZ _ _ _ h)

end Sys2Proof.Machine
end

