-- ==== Sys2Proof/Laws/Access.lean ====
section
/-! SUPPORT. What reading one team, gang, slice or register answers after an update. -/
namespace Sys2Proof.Machine

theorem find?_mapIf {α : Type} (p q : α → Bool) (f : α → α) (l : List α) (h : ∀ x, q (f x) = q x) :
    (mapIf p f l).find? q = (l.find? q).map fun x => if p x then f x else x := by
  induction l with
  | nil => rfl
  | cons a l ih =>
    have e : mapIf p f (a :: l) = (if p a then f a else a) :: mapIf p f l := rfl
    rw [e, List.find?_cons, List.find?_cons]
    have hq : q (if p a then f a else a) = q a := by split <;> simp [h]
    rw [hq]
    cases q a <;> simp [ih]

theorem find?_key {α : Type} (key : α → Nat) (k : Nat) (l : List α) (x : α) (h : l.find? (fun a => decide (key a = k)) = some x) :
    key x = k := by simpa using List.find?_some h

theorem team?_modTeam (s : State) (k j : Nat) (f : Team → Team) (h : ∀ t, (f t).key = t.key) :
    (s.modTeam k f).team? j = if j = k then (s.team? k).map f else s.team? j := by
  unfold State.team? State.modTeam
  rw [find?_mapIf _ _ _ _ (by simp [h])]
  by_cases e : j = k
  · subst e
    rw [if_pos rfl]
    cases hx : s.teams.find? _ with
    | none => rfl
    | some t => simpa using fun h' => absurd (find?_key Team.key j _ t hx) h'
  · rw [if_neg e]
    cases hx : s.teams.find? _ with
    | none => rfl
    | some t =>
      have := find?_key Team.key j _ t hx
      simp [this, e]

theorem Team.gang?_modGang (t : Team) (g j : Nat) (f : Gang → Gang) (h : ∀ x, (f x).idx = x.idx) :
    (t.modGang g f).gang? j = if j = g then (t.gang? g).map f else t.gang? j := by
  unfold Team.gang? Team.modGang
  rw [find?_mapIf _ _ _ _ (by simp [h])]
  by_cases e : j = g
  · subst e
    rw [if_pos rfl]
    cases hx : t.gangs.find? _ with
    | none => rfl
    | some x => simpa using fun h' => absurd (find?_key Gang.idx j _ x hx) h'
  · rw [if_neg e]
    cases hx : t.gangs.find? _ with
    | none => rfl
    | some x =>
      have := find?_key Gang.idx j _ x hx
      simp [this, e]

/-- What a gang is after an update of one gang. -/
theorem gang?_modGang (s : State) (t g a b : Nat) (f : Gang → Gang) (h : ∀ x, (f x).idx = x.idx) :
    (s.modGang t g f).gang? a b = if a = t ∧ b = g then (s.gang? t g).map f else s.gang? a b := by
  unfold State.modGang State.gang?
  rw [team?_modTeam s t a (fun x => x.modGang g f) fun _ => rfl]
  by_cases ha : a = t
  · subst ha
    rw [if_pos rfl]
    cases s.team? a with
    | none => simp
    | some x =>
      simp only [Option.map_some, Option.bind_some, true_and]
      rw [Team.gang?_modGang x g b f h]
  · rw [if_neg ha, if_neg (by simp [ha])]

theorem mapPos_length {α : Type} (p : Nat → Bool) (f : Nat → α → α) (l : List α) : (mapPos p f l).length = l.length := by
  simp [mapPos]

theorem mapPos_getD {α : Type} (p : Nat → Bool) (f : Nat → α → α) (l : List α) (k : Nat) (d : α) :
    (mapPos p f l).getD k d = if k < l.length ∧ p k = true then f k (l.getD k d) else l.getD k d := by
  unfold mapPos
  by_cases h : k < l.length
  · simp [h, List.getD_eq_getElem?_getD]
  · simp [h, List.getD_eq_getElem?_getD]

@[simp] theorem Gang.modSlices_length (g : Gang) (ks : List Nat) (f : Nat → Slice → Slice) :
    (g.modSlices ks f).slices.length = g.slices.length := mapPos_length _ _ _

/-- What a slice is after an update of some. -/
theorem Gang.slice_modSlices (g : Gang) (ks : List Nat) (f : Nat → Slice → Slice) (k : Nat) :
    (g.modSlices ks f).slice k = if k < g.slices.length ∧ k ∈ ks then f k (g.slice k) else g.slice k := by
  unfold Gang.slice Gang.modSlices
  rw [mapPos_getD]
  simp

/-- A scalar register after a write (R76). -/
theorem Slice.get_set (x : Slice) (r q : SReg) (v : Int) :
    (x.set r v).get q = if q = r ∧ r.val ≠ 0 then v else x.get q := by
  unfold Slice.get Slice.set
  by_cases hr : r.val = 0
  · simp [hr]
  · by_cases hq : q = r
    · subst hq; simp [hr]
    · have hne : q.val ≠ r.val := fun e => hq (Fin.ext e)
      simp [hr, hq, hne]

theorem getZ_setsZ (j : Nat) (ws : List (Nat × Int)) (m : ZMap) (h : ∀ w ∈ ws, w.1 ≠ j) : getZ j (setsZ ws m) = getZ j m := by
  unfold setsZ
  induction ws generalizing m with
  | nil => rfl
  | cons w ws ih =>
    have hw := h w List.mem_cons_self
    rw [List.foldl_cons, ih _ fun c hc => h c (List.mem_cons_of_mem _ hc), getZ_setZ, if_neg (Ne.symm hw)]

theorem getZ_setsZ_mem (j : Nat) (v : Int) (ws : List (Nat × Int)) (m : ZMap) (h : ∀ w ∈ ws, w.1 = j → w.2 = v) (hm : ∃ w ∈ ws, w.1 = j) :
    getZ j (setsZ ws m) = v := by
  unfold setsZ
  induction ws generalizing m with
  | nil => simp at hm
  | cons w ws ih =>
    rw [List.foldl_cons]
    by_cases h' : ∃ c ∈ ws, c.1 = j
    · exact ih _ (fun c hc => h c (List.mem_cons_of_mem _ hc)) h'
    · have hn : ∀ c ∈ ws, c.1 ≠ j := fun c hc e => h' ⟨c, hc, e⟩
      rw [show ws.foldl (fun m w => setZ w.1 w.2 m) (setZ w.1 w.2 m) = setsZ ws (setZ w.1 w.2 m) from rfl, getZ_setsZ _ _ _ hn]
      obtain ⟨c, hc, e⟩ := hm
      rcases List.mem_cons.mp hc with rfl | hc
      · simp [e, h c List.mem_cons_self e]
      · exact absurd e (hn c hc)

/-- What the issue set consists of. -/
theorem iss?_eq (s : State) (x : Iss) (h : s.iss? = some x) :
    s.cur = some x.issue ∧ s.team? x.issue.team = some x.team ∧ x.team.gang? x.issue.gang = some x.gang ∧
      s.grid? x.team.grid = some x.grid ∧ s.ctx? x.grid.ctx = some x.ctx := by
  unfold State.iss? at h
  split at h
  · simp at h
  · rename_i i hi
    split at h
    · simp at h
    · rename_i t ht
      split at h
      · rename_i g gr hg hgr
        split at h
        · rename_i c hc
          simp at h; subst h
          exact ⟨hi, ht, hg, hgr, hc⟩
        · simp at h
      · simp at h

theorem iss?_gang? (s : State) (x : Iss) (h : s.iss? = some x) : s.gang? x.issue.team x.issue.gang = some x.gang := by
  obtain ⟨_, ht, hg, _⟩ := iss?_eq s x h
  simp [State.gang?, ht, hg]

theorem issuing_eq (s s0 : State) (ends : Bool) (x : Iss) (h : s.issuing ends = some (s0, x)) :
    ∃ x0, s.iss? = some x0 ∧ s0 = s.settled ends x0 ∧ s0.iss? = some x := by
  unfold State.issuing at h
  split at h
  · simp at h
  · rename_i x0 hx0
    split at h
    · simp at h
    · rename_i y hy
      simp at h
      exact ⟨x0, hx0, h.1.symm, by rw [← h.1, hy, h.2]⟩

end Sys2Proof.Machine
end

