-- ==== Sys2Proof/Laws/Issue.lean ====
section
/-! SUPPORT. What issuing an instruction does, said once: when nothing stops it, the state after it is its effect applied to the
state that it finds, with the program counters moved on and the stall, if any, over. -/
namespace Sys2Proof.Machine

/-- The state that the effect of an instruction of issue set x starts from, when it makes no access: the windows of its
pending results are one instruction shorter (R50). -/
def Iss.begun (x : Iss) (s : State) : State := x.modGang (fun g => if x.segments = 0 then g.tickWindows x.slices else g) s

theorem watchHits_none (s : State) (x : Iss) (u : Uses) (accs : List (Acc × Xs))
    (h : (accs = [] ∧ u.rows = [] ∧ u.vregs = []) ∨ Unwatched s x) : s.watchHits x u accs = [] := by
  unfold State.watchHits
  rcases h with ⟨ha, hr, hv⟩ | h
  · apply List.filterMap_eq_nil_iff.mpr
    intro w _
    have : w.hits x u accs = [] := by
      subst ha
      unfold Watch.hits
      simp only [hr, hv, List.filterMap_nil, List.filter_nil, List.map_nil, List.nil_diff, List.append_nil]
      split <;> [rfl; (split <;> [rfl; (split <;> rfl)])]
    rw [this]
  · have : s.scope.watches.filter (fun w => w.targets s x) = [] := by
      apply List.filter_eq_nil_iff.mpr
      intro w hw
      simp [h w hw]
    rw [this]; rfl

/-- No place is kept among none. -/
@[simp] theorem locked_nil (s : State) (p : Parker) : s.locked p [] = false := by
  unfold State.locked
  refine List.any_eq_false.mpr fun w _ => ?_
  cases w.todo <;> simp

/-- With no access of several owners in hand no place is kept. -/
theorem locked_of_entering {s : State} (h : s.entering = false) (p : Parker) (ls : List Loc) : s.locked p ls = false := by
  unfold State.locked
  refine List.any_eq_false.mpr fun w hw => ?_
  have hk : ¬ commitKey ≤ w.key := by simpa [RemoteWait.holds] using List.any_eq_false.mp h w hw
  have : w.key ≠ lockKey := fun e => hk (by rw [e]; decide)
  simp [this]

/-- The checks of an instruction that makes no access: nothing stops one whose registers may be named, whose destinations no
pending result awaits, whose operands raise no fault and which its context may execute. -/
theorem precheck_plain (s : State) (x : Iss) (priv : Bool) (u : Uses)
    (ha : u.accs = []) (hf : u.faults = []) (hm : u.more s (Got.seen ⟨[], [], []⟩ s) = []) (hk : u.asks s (Got.seen ⟨[], [], []⟩ s) = [])
    (hp : priv = true → x.ctx.priv = true)
    (hc : x.clear u.dests) (hv : x.mayName u.vregs) (hw : (u.rows = [] ∧ u.vregs = []) ∨ Unwatched s x) :
    s.precheck x priv u = (.ok ⟨[], [], []⟩, []) := by
  unfold State.precheck
  have h1 : (x.gang.pending.any fun p => p.meets x.slices && u.dests.contains p.dest) = false := by
    apply List.any_eq_false.mpr
    intro p hp'
    by_cases hm : p.meets x.slices = true
    · simpa [hm] using hc p hp' hm
    · simp [hm]
  have h2 : (priv && !x.ctx.priv) = false := by
    cases priv
    · rfl
    · simp [hp rfl]
  have h3 : (u.vregs.all fun r => x.gang.holds (r.val / 9) || (x.gang.inHandler && decide (72 ≤ r.val))) = true :=
    List.all_eq_true.mpr fun r hr => (hv r hr).1
  have h4 : u.vregs.any x.gang.landing = false := List.any_eq_false.mpr fun r hr => by simp [(hv r hr).2]
  have h5 := watchHits_none s x u (u.accs.map fun a => (a, s.checkAcc x a))
    (hw.imp (fun h => ⟨by simp [ha], h.1, h.2⟩) id)
  have h6 : s.badAcc [] = none := by unfold State.badAcc; split <;> rfl
  have h7 : s.asked x [] = .ok [] := by simp [State.asked, State.answers]
  have h8 : s.reach x u.later [] = .ok ⟨[], []⟩ := by simp [State.reach]
  have h9 : s.walkersFull x [] = false := by simp [State.walkersFull]
  have h10 : badWalk [] = none := rfl
  have h11 : s.accLeaves x [] = [] := rfl
  have h12 : s.leased x u [] = [] := by simp [State.leased]
  rw [ha, List.map_nil] at h5
  simp only [h1, h2, h3, h4, h5, h6, h8, h9, h10, h11, h12, ha, hf, hm, hk, h7, Bool.false_eq_true, if_false, if_true, List.map_nil, accFaults, accPages,
    accPlaces, List.flatMap_nil, List.filter_nil, List.append_nil, ne_eq, not_true, ite_self]

@[simp] theorem replaced_nil (s : State) : s.replaced [] = s := by simp [State.replaced]

/-- ISSUING, when nothing stops the instruction. -/
theorem issueWith_next (ends priv adv : Bool) (uses : Iss → Uses) (body : Iss → Got → State → Except Stop State)
    (s s0 s3 : State) (x : Iss) (hi : s.issuing ends = some (s0, x)) (ha : (uses x).accs = []) (hf : (uses x).faults = [])
    (hm : (uses x).more s0 (Got.seen ⟨[], [], []⟩ s0) = []) (hk : (uses x).asks s0 (Got.seen ⟨[], [], []⟩ s0) = [])
    (hp : priv = true → x.ctx.priv = true) (hc : x.clear (uses x).dests) (hv : x.mayName (uses x).vregs)
    (hw : ((uses x).rows = [] ∧ (uses x).vregs = []) ∨ Unwatched s0 x)
    (ho : (uses x).opens = 0 ∨ x.gang.shown.length + (uses x).opens ≤ 27)
    (hb : body x ⟨[], [], []⟩ (x.begun s0) = .ok s3) :
    issueWith ends priv adv uses body s = .next (x.finish s0 (if adv then x.advance s3 else s3)) := by
  obtain ⟨x0, h0, hs0, hx⟩ := issuing_eq s s0 ends x hi
  have hpre := precheck_plain s0 x priv (uses x) ha hf hm hk hp hc hv hw
  unfold issueWith
  rw [h0]
  simp only
  rw [show x0.landDue ends s = s0 from hs0.symm]
  rw [hx]
  simp only [hpre, List.filter_nil, List.map_nil, ite_self, ne_eq, not_true, if_false, List.foldl_nil]
  rw [show x.modGang (fun g => if x.segments = 0 then g.tickWindows x.slices else g) s0 = x.begun s0 from rfl]
  rw [show wholeLines [] = [] from rfl, replaced_nil, ite_self, hb]
  simp only [State.watchRecords, List.foldl_nil]
  rw [if_neg (by omega)]

/-- The gang at the end of an instruction of slices ks. -/
def Gang.finished (g : Gang) (ks : List Nat) : Gang :=
  { (g.modSlices ks fun _ y => { y with stall := none }) with exempt := g.exempt && g.slices.any fun y => y.sweep.isSome }

/-- The end of an instruction whose agency holds no record back: only its gang changes, and what the fabric keeps of its requests. -/
theorem finish_quiet (x : Iss) (s0 s : State) (h : s.heldRecords x.ctx.agency = 0) :
    (x.finish s0 s).teams = (x.modGang (fun g => g.finished x.slices) s).teams ∧ (x.finish s0 s).beyond = s.beyond := by
  have hfin : x.finish s0 s = (x.modGang (fun g => g.finished x.slices) s).dropWaits x.parker := by
    unfold Iss.finish
    rw [show x.modGang (fun g => { (g.modSlices x.slices fun _ y => { y with stall := none }) with
        exempt := g.exempt && g.slices.any fun y => y.sweep.isSome }) s = x.modGang (fun g => g.finished x.slices) s from rfl]
    unfold Iss.backPressure
    simp only
    have hcfg : ((x.modGang (fun g => g.finished x.slices) s).dropWaits x.parker).cfg? x.ctx.agency = s.cfg? x.ctx.agency := rfl
    rw [hcfg]
    cases hs : s.cfg? x.ctx.agency with
    | none => rfl
    | some c =>
      have : c.holds = [] := List.eq_nil_of_length_eq_zero (by simpa [State.heldRecords, hs] using h)
      simp [this]
  rw [hfin]
  exact ⟨State.dropWaits_teams .., rfl⟩

end Sys2Proof.Machine
end

