-- ==== Sys2Proof/Laws/Frame.lean ====
section
/-! SUPPORT. How the frame of an instruction on registers is put together from the frames of the updates that it makes to its
gang. -/
namespace Sys2Proof.Machine

theorem Gang.bare_of_false (p : Bool) (g h : Gang) (e : h.bare false = g.bare false) : h.bare p = g.bare p := by
  have k : ∀ a : Gang, (a.bare false).bare p = a.bare p := fun a => by cases p <;> rfl
  rw [← k h, e, k]

theorem Slice.bare_of_false (p : Bool) (g h : Slice) (e : h.bare false = g.bare false) : h.bare p = g.bare p := by
  have k : ∀ a : Slice, (a.bare false).bare p = a.bare p := fun a => by cases p <;> rfl
  rw [← k h, e, k]

/-- h is g but for what w names, the windows of its pending results and the program counters of slices ks. -/
structure GangFrame (ks : List Nat) (w : Writes) (g h : Gang) : Prop where
  idx    : h.idx = g.idx
  bare   : h.bare false = g.bare false
  length : h.slices.length = g.slices.length
  inside : ∀ k, (h.slice k).bare false = (g.slice k).bare false
  apart  : ∀ k, k ∉ ks → (h.slice k).pc = (g.slice k).pc ∧ (h.slice k).stall = (g.slice k).stall
  sca    : ∀ k r, ¬ w.sca k r → (h.slice k).get r = (g.slice k).get r
  vec    : ∀ r i, i < 27 → ¬ w.vec r i → h.lane r i = g.lane r i
  msk    : ∀ r, ¬ w.msk r → h.mask r = g.mask r
  gen    : ∀ i, ¬ w.gen i → getZ i h.gens = getZ i g.gens
  flags  : ¬ w.flags → h.flags = g.flags
  mode   : ¬ w.mode → h.mode = g.mode
  opens  : ¬ w.opens → (h.pending.map fun p => { p with remaining := 0 }) = g.pending.map fun p => { p with remaining := 0 }

theorem GangFrame.refl (ks : List Nat) (w : Writes) (g : Gang) : GangFrame ks w g g :=
  ⟨rfl, rfl, rfl, fun _ => rfl, fun _ _ => ⟨rfl, rfl⟩, fun _ _ _ => rfl, fun _ _ _ _ => rfl, fun _ _ => rfl, fun _ _ => rfl,
    fun _ => rfl, fun _ => rfl, fun _ => rfl⟩

theorem GangFrame.trans {ks : List Nat} {w : Writes} {a b c : Gang} (h : GangFrame ks w a b) (k : GangFrame ks w b c) :
    GangFrame ks w a c where
  idx := k.idx.trans h.idx
  bare := k.bare.trans h.bare
  length := k.length.trans h.length
  inside i := (k.inside i).trans (h.inside i)
  apart i hi := ⟨(k.apart i hi).1.trans (h.apart i hi).1, (k.apart i hi).2.trans (h.apart i hi).2⟩
  sca i r hr := (k.sca i r hr).trans (h.sca i r hr)
  vec r i hi hr := (k.vec r i hi hr).trans (h.vec r i hi hr)
  msk r hr := (k.msk r hr).trans (h.msk r hr)
  gen i hi := (k.gen i hi).trans (h.gen i hi)
  flags hf := (k.flags hf).trans (h.flags hf)
  mode hf := (k.mode hf).trans (h.mode hf)
  opens hf := (k.opens hf).trans (h.opens hf)

/-- Slices of ks changed in what the frame leaves open. -/
theorem GangFrame.modSlices {ks : List Nat} {w : Writes} {a : Gang} (g : Gang) (js : List Nat) (f : Nat → Slice → Slice)
    (h : GangFrame ks w a g) (hb : ∀ k y, (f k y).bare false = y.bare false) (hs : ∀ k y r, k ∈ js → ¬ w.sca k r → (f k y).get r = y.get r)
    (hj : ∀ k y, k ∈ js → k ∉ ks → (f k y).pc = y.pc ∧ (f k y).stall = y.stall) : GangFrame ks w a (g.modSlices js f) := by
  refine h.trans ?_
  refine { GangFrame.refl ks w g with idx := rfl, bare := rfl, length := by simp, inside := ?_, apart := ?_, sca := ?_ }
  · intro k; rw [Gang.slice_modSlices]; split <;> simp [hb]
  · intro k hk; rw [Gang.slice_modSlices]; split
    · rename_i h'; exact hj k _ h'.2 hk
    · exact ⟨rfl, rfl⟩
  · intro k r hr; rw [Gang.slice_modSlices]; split
    · rename_i h'; exact hs k _ r h'.2 hr
    · rfl

theorem GangFrame.advance {ks : List Nat} {w : Writes} {a : Gang} (g : Gang) (f : Nat → Slice → Int) (h : GangFrame ks w a g) :
    GangFrame ks w a (g.modSlices ks fun k y => { y with pc := f k y }) :=
  h.modSlices g ks _ (fun _ _ => rfl) (fun _ _ _ _ _ => rfl) fun _ _ hj hk => absurd hj hk

theorem GangFrame.finished {ks : List Nat} {w : Writes} {a : Gang} (g : Gang) (h : GangFrame ks w a g) :
    GangFrame ks w a (g.finished ks) := by
  have h1 : GangFrame ks w a (g.modSlices ks fun _ y => { y with stall := none }) :=
    h.modSlices g ks _ (fun _ _ => rfl) (fun _ _ _ _ _ => rfl) fun _ _ hj hk => absurd hj hk
  exact { h1 with }

theorem GangFrame.begun {ks : List Nat} {w : Writes} {a : Gang} (g : Gang) (h : GangFrame ks w a g) (x : Iss) :
    GangFrame ks w a (if x.segments = 0 then g.tickWindows x.slices else g) := by
  split
  · refine h.trans { GangFrame.refl ks w g with opens := fun _ => ?_ }
    show ((mapIf _ _ _).map _) = _
    unfold mapIf
    rw [List.map_map]
    refine List.map_congr_left fun p _ => ?_
    simp only [Function.comp]
    split <;> rfl
  · exact h

theorem GangFrame.raise {ks : List Nat} {w : Writes} {a : Gang} (g : Gang) (h : GangFrame ks w a g) (f : FlagSet) (hw : w.flags) :
    GangFrame ks w a { g with flags := joinF g.flags f } :=
  h.trans { GangFrame.refl ks w g with flags := fun hn => absurd hw hn }

theorem GangFrame.open_ {ks : List Nat} {w : Writes} {a : Gang} (g : Gang) (h : GangFrame ks w a g) (p : Pending) (hw : w.opens) :
    GangFrame ks w a { g with pending := g.pending ++ [p] } :=
  h.trans { GangFrame.refl ks w g with opens := fun hn => absurd hw hn }

theorem GangFrame.spend {ks : List Nat} {w : Writes} {a : Gang} (g : Gang) (h : GangFrame ks w a g) (ws : List (Nat × Nat))
    (hw : ∀ p ∈ ws, w.gen p.1) : GangFrame ks w a (g.spend ws) := by
  refine h.trans { GangFrame.refl ks w g with gen := fun i hi => ?_ }
  unfold Gang.spend
  simp only
  have hne : ∀ p ∈ ws, p.1 ≠ i := fun p hp e => hi (e ▸ hw p hp)
  generalize g.gens = m
  clear hw
  induction ws generalizing m with
  | nil => rfl
  | cons c ws ih =>
    rw [List.foldl_cons, ih (fun p hp => hne p (List.mem_cons_of_mem _ hp)), getZ_setZ,
      if_neg (Ne.symm (hne c List.mem_cons_self))]

theorem GangFrame.setS {ks : List Nat} {w : Writes} {a : Gang} (g : Gang) (h : GangFrame ks w a g) (k : Nat) (r : SReg) (v : Int)
    (hw : w.sca k r ∨ r.val = 0) : GangFrame ks w a (g.modSlices [k] fun _ sl => sl.set r v) := by
  refine h.modSlices g [k] _ ?_ ?_ ?_
  · intro _ y; unfold Slice.set; split <;> rfl
  · intro j y q hj hq
    rw [Slice.get_set]
    simp only [List.mem_singleton] at hj
    subst hj
    rw [if_neg]
    rintro ⟨rfl, h0⟩
    exact hw.elim hq h0
  · intro j y _ _; unfold Slice.set; split <;> exact ⟨rfl, rfl⟩

theorem GangFrame.setLanes {ks : List Nat} {w : Writes} {a : Gang} (g : Gang) (h : GangFrame ks w a g) (r : VReg) (ws : List (Nat × Int))
    (hw : ∀ p ∈ ws, p.1 < 27 ∧ w.vec r p.1) : GangFrame ks w a (g.setLanes r ws) := by
  refine h.trans { GangFrame.refl ks w g with vec := fun q i hi hn => ?_ }
  unfold Gang.lane Gang.setLanes
  refine getZ_setsZ _ _ _ fun c hc => ?_
  obtain ⟨p, hp, rfl⟩ := List.mem_map.mp hc
  intro e
  obtain ⟨hlt, hv⟩ := hw p hp
  simp only [vKey] at e
  have hr : r.val = q.val := by omega
  have hpi : p.1 = i := by omega
  exact hn (by rw [← hpi, ← Fin.ext hr]; exact hv)

theorem GangFrame.setMask {ks : List Nat} {w : Writes} {a : Gang} (g : Gang) (h : GangFrame ks w a g) (r : MReg) (ws : List (Nat × Int))
    (hw : w.msk r ∨ r.val = 0) : GangFrame ks w a (g.setMask r ws) := by
  unfold Gang.setMask
  split
  · exact h
  · rename_i h0
    refine h.trans { GangFrame.refl ks w g with msk := fun q hq => ?_ }
    unfold Gang.mask
    split
    · rfl
    · rw [getZ_setZ, if_neg]
      intro e
      exact hw.elim (fun hw => hq ((Fin.ext e : q = r) ▸ hw)) h0

/-- The frame of an instruction whose whole effect is an update of its gang. -/
theorem frame_of (s t : State) (x : Iss) (w : Writes) (f : Gang → Gang) (hx : s.gang? x.issue.team x.issue.gang = some x.gang)
    (ht : t.teams = (x.modGang f s).teams)
    (hb : t.beyond = (match w.counted with | some n => s.count x.ctx.agency 3 n | none => s).beyond) (hi : ∀ g, (f g).idx = g.idx)
    (hf : GangFrame x.slices w x.gang (f x.gang)) : Frame s t x w := by
  have hg : ∀ a b, t.gang? a b = (x.modGang f s).gang? a b := fun a b => by simp [State.gang?, State.team?, ht]
  have hown : t.gang? x.issue.team x.issue.gang = some (f x.gang) := by
    rw [hg]; unfold Iss.modGang; rw [gang?_modGang s _ _ _ _ f hi]; simp [hx]
  refine { memory := fun p _ => ?memory, beyond := congrArg (State.cut w.touch w.store) hb, teams := ?teams, others := fun a b hab => ?others, gang := ?gang, slices := ?slices,
           sca := ?_, vec := ?_, msk := ?_, gen := ?_, flags := ?_, mode := ?_, opens := ?_ }
  case memory =>
    have : t.mem = s.mem := by
      have h := congrArg State.mem hb
      have e : ∀ o : Option Nat, (match o with | some n => s.count x.ctx.agency 3 n | none => s).beyond.mem = s.mem := fun o => by
        cases o <;> rfl
      exact h.trans (e w.counted)
    unfold State.hbmAt; rw [this]
  case teams =>
    rw [ht]
    show List.map Team.bare (mapIf _ _ _) = _
    unfold mapIf
    rw [List.map_map]
    refine List.map_congr_left fun p _ => ?_
    simp only [Function.comp]
    split <;> rfl
  case others =>
    rw [hg]; unfold Iss.modGang; rw [gang?_modGang s _ _ _ _ f hi, if_neg]
    rintro ⟨rfl, rfl⟩; exact hab rfl
  case gang => rw [hown, hx]; exact congrArg some (Gang.bare_of_false _ _ _ hf.bare)
  case slices =>
    intro g h hg' hh
    rw [hx] at hg'; rw [hown] at hh
    simp at hg' hh; subst hg'; subst hh
    refine ⟨hf.length, fun k => ?_⟩
    split
    · exact Slice.bare_of_false _ _ _ (hf.inside k)
    · rename_i hk; exact ⟨(hf.apart k hk).1, (hf.apart k hk).2, hf.inside k⟩
  all_goals simp only [State.sreg, State.vlane, State.mreg, State.genOf, State.flagsOf, State.modeOf, State.pendingOf, hown, hx]
  · exact hf.sca
  · exact hf.vec
  · exact hf.msk
  · exact hf.gen
  · exact hf.flags
  · exact hf.mode
  · exact hf.opens

end Sys2Proof.Machine
end

