-- ==== Sys2Proof/Laws/Register.lean ====
section
/-! SUPPORT. Writing results (R31, R50, R76) as updates of one gang, with what a register holds afterwards. -/
namespace Sys2Proof.Machine

theorem mapIf_mapIf {α : Type} (p : α → Bool) (f g : α → α) (l : List α) (h : ∀ x, p (g x) = p x) :
    mapIf p f (mapIf p g l) = mapIf p (fun x => f (g x)) l := by
  unfold mapIf
  rw [List.map_map]
  refine List.map_congr_left fun x _ => ?_
  simp only [Function.comp]
  by_cases hx : p x = true
  · simp [hx, h]
  · simp [hx]

/-- Two updates of one gang are one. -/
theorem modGang_modGang (s : State) (t k : Nat) (f g : Gang → Gang) (h : ∀ x, (g x).idx = x.idx) :
    (s.modGang t k g).modGang t k f = s.modGang t k fun x => f (g x) := by
  unfold State.modGang State.modTeam
  simp only
  rw [mapIf_mapIf (fun t' => decide (t'.key = t)) (fun x => x.modGang k f) (fun x => x.modGang k g) s.teams (fun _ => rfl)]
  congr 2
  funext x
  unfold Team.modGang
  simp only
  rw [mapIf_mapIf _ _ _ _ (by simp [h])]

theorem Iss.modGang_modGang (x : Iss) (s : State) (f g : Gang → Gang) (h : ∀ y, (g y).idx = y.idx) :
    x.modGang f (x.modGang g s) = x.modGang (fun y => f (g y)) s := Machine.modGang_modGang s _ _ f g h

/-- The gang with scalar results of its slices written (R76). -/
def Gang.putSca (g : Gang) (r : SReg) (ws : List (Nat × Int)) : Gang :=
  ws.foldl (fun g w => g.modSlices [w.1] fun _ sl => sl.set r w.2) g

/-- The pending results that scalar results with a window open (R50). -/
def scaPending (la : Fin 27) (r : SReg) (rs : List (Nat × Res)) : List Pending :=
  rs.map fun p => { slices := [p.1], dest := .sca p.1 r, writes := [(0, p.2.val)], flags := p.2.flags, remaining := la.val }

/-- What scalar results do to the gang. -/
def Gang.putRes (g : Gang) (la : Fin 27) (r : SReg) (rs : List (Nat × Res)) : Gang :=
  if la.val = 0 then
    { g.putSca r (rs.map fun p => (p.1, p.2.val)) with
      flags := joinF (g.putSca r (rs.map fun p => (p.1, p.2.val))).flags (joinAll (rs.map fun p => p.2.flags)) }
  else { g with pending := g.pending ++ scaPending la r rs }

theorem putSca_idx (g : Gang) (r : SReg) (ws : List (Nat × Int)) : (g.putSca r ws).idx = g.idx := by
  unfold Gang.putSca
  induction ws generalizing g with
  | nil => rfl
  | cons w ws ih => rw [List.foldl_cons, ih]; rfl

theorem putRes_idx (g : Gang) (la : Fin 27) (r : SReg) (rs : List (Nat × Res)) : (g.putRes la r rs).idx = g.idx := by
  unfold Gang.putRes
  split
  · exact putSca_idx _ _ _
  · rfl

theorem modGang_id (x : Iss) (s : State) : x.modGang (fun g => g) s = s := by
  unfold Iss.modGang State.modGang State.modTeam Team.modGang mapIf
  simp

theorem modGang_foldl {α : Type} (x : Iss) (f : Gang → α → Gang) (h : ∀ g a, (f g a).idx = g.idx) (l : List α) (s : State) :
    l.foldl (fun s a => x.modGang (fun g => f g a) s) s = x.modGang (fun g => l.foldl f g) s := by
  induction l generalizing s with
  | nil => exact (modGang_id x s).symm
  | cons a l ih => rw [List.foldl_cons, ih, Iss.modGang_modGang _ _ _ _ fun g => h g a]; rfl

/-- Writing scalar results is an update of the gang. -/
theorem putS_eq (x : Iss) (la : Fin 27) (r : SReg) (rs : List (Nat × Res)) (s : State) :
    x.putS la r rs s = x.modGang (fun g => g.putRes la r rs) s := by
  unfold Iss.putS Gang.putRes
  by_cases h : la.val = 0
  · simp only [h, if_true]
    exact Iss.modGang_modGang x s (fun g => { g with flags := joinF g.flags (joinAll (rs.map fun p => p.2.flags)) })
      (fun g => g.putSca r (rs.map fun p => (p.1, p.2.val))) fun g => putSca_idx g r _
  · simp only [h, if_false]
    refine (modGang_foldl x (fun g p => { g with pending := g.pending ++
        [{ slices := [p.1], dest := .sca p.1 r, writes := [(0, p.2.val)], flags := p.2.flags, remaining := la.val }] })
        (fun _ _ => rfl) rs s).trans ?_
    congr 1
    funext g
    have : ∀ (l : List (Nat × Res)) (g : Gang), l.foldl (fun g p => { g with pending := g.pending ++
        [{ slices := [p.1], dest := .sca p.1 r, writes := [(0, p.2.val)], flags := p.2.flags, remaining := la.val }] }) g =
          { g with pending := g.pending ++ scaPending la r l } := by
      intro l
      induction l with
      | nil => intro g; simp [scaPending]
      | cons a l ih => intro g; rw [List.foldl_cons, ih]; simp [scaPending]
    exact this rs g

/-- The spending of draws is an update of the gang. -/
theorem spend_eq (x : Iss) (rnd : Rnd) (ws : List (Nat × Nat)) (s : State) :
    x.spend rnd ws s = x.modGang (fun g => if rnd = .stoch then g.spend ws else g) s := by
  unfold Iss.spend
  split
  · rfl
  · exact (modGang_id x s).symm

theorem putSca_frame {ks : List Nat} {w : Writes} {a : Gang} (g : Gang) (h : GangFrame ks w a g) (r : SReg) (ws : List (Nat × Int))
    (hw : ∀ p ∈ ws, w.sca p.1 r ∨ r.val = 0) : GangFrame ks w a (g.putSca r ws) := by
  unfold Gang.putSca
  induction ws generalizing g with
  | nil => exact h
  | cons c ws ih =>
    exact ih _ (h.setS g c.1 r c.2 (hw c List.mem_cons_self)) fun p hp => hw p (List.mem_cons_of_mem _ hp)

/-- What a scalar register holds after results are written to the slices ks. -/
theorem putSca_get (g : Gang) (r q : SReg) (ks : List Nat) (f : Nat → Int) (k : Nat) :
    ((g.putSca r (ks.map fun k => (k, f k))).slice k).get q =
      if k ∈ ks ∧ k < g.slices.length ∧ q = r ∧ r.val ≠ 0 then f k else (g.slice k).get q := by
  unfold Gang.putSca
  induction ks generalizing g with
  | nil => simp
  | cons j ks ih =>
    rw [List.map_cons, List.foldl_cons, ih, Gang.modSlices_length, Gang.slice_modSlices]
    simp only [List.mem_cons, List.mem_singleton, List.not_mem_nil, or_false]
    by_cases hk : k = j
    · subst hk
      by_cases hl : k < g.slices.length
      · simp only [hl, true_and, true_or, if_true, Slice.get_set]
        by_cases hm : k ∈ ks <;> by_cases hq : q = r <;> by_cases h0 : r = 0 <;> simp [hm, hq, h0]
      · simp [hl]
    · simp [hk]

theorem putSca_pc (g : Gang) (r : SReg) (ws : List (Nat × Int)) (k : Nat) : ((g.putSca r ws).slice k).pc = (g.slice k).pc := by
  unfold Gang.putSca
  induction ws generalizing g with
  | nil => rfl
  | cons c ws ih =>
    rw [List.foldl_cons, ih, Gang.slice_modSlices]
    split
    · unfold Slice.set; split <;> rfl
    · rfl

theorem putSca_length (g : Gang) (r : SReg) (ws : List (Nat × Int)) : (g.putSca r ws).slices.length = g.slices.length := by
  unfold Gang.putSca
  induction ws generalizing g with
  | nil => rfl
  | cons c ws ih => rw [List.foldl_cons, ih, Gang.modSlices_length]

theorem putSca_flags (g : Gang) (r : SReg) (ws : List (Nat × Int)) : (g.putSca r ws).flags = g.flags := by
  unfold Gang.putSca
  induction ws generalizing g with
  | nil => rfl
  | cons c ws ih => rw [List.foldl_cons, ih]; rfl

end Sys2Proof.Machine
end

