-- ==== Sys2Proof/Tests/Slice0.lean ====
section
/-!
SUPPORT. Tests: words decoded, WellFormed's checks, and for every statement with hypotheses a state and operands that meet them.
-/
namespace Sys2Proof.Tests
open Sys2Proof.Machine

set_option Elab.async false

/-- A grid of one gang of nine slices, 6,561 trytes of scratchpad, 81 of chip scratchpad, two ports and two tiles. -/
def grid : Grid :=
  { demoGrid with launch := (((demoLaunch.set 3 (demoGrid.dbl 3 + 2 * pow3 40 + 2 * pow3 36)).set 4 6561).set 5 81), hasChip := true }

/-- Its team, a page of code at 19,683 and one of the binary view at 39,366, no issue set chosen. -/
def idle : State :=
  let s := State.reset.demo
  let leaf := 25 * pow3 38 + pow3 28 + pow3 25 + pow3 23 + pow3 22
  { s with grids := [grid], nextGrid := 1, teams := [Team.fresh s grid 1 0 0 0 0 [0]],
           mem := { s.mem with hbm := setRangeZ (19683 * 18 + 12) (toTrytes 6 leaf) s.mem.hbm } }

/-- Slices ks of a gang chosen for an instruction of one word. -/
def pick (s : State) (ks : List Nat) (gang : Nat := 0) : State := { s with cur := some { team := 1, gang := gang, slices := ks, words := [0], apart := false } }

/-- All slices of the gang chosen. -/
def base : State := pick idle (List.range 9)

/-- The issue set of a state. -/
def iss (s : State) : Iss :=
  s.iss?.getD ⟨⟨0, 0, [], [], false⟩, Team.fresh idle grid 1 0 0 0 0 [0], Gang.fresh grid true 0 0 0 9 0 [] 0, grid, demoCtx, false⟩

/-- A scalar register of all slices written. -/
def puts (s : State) (r : SReg) (v : Nat → Int) : State := s.modGang 1 0 fun g => g.modSlices (List.range 9) fun k y => y.set r (v k)

/-- The places of an instruction's accesses. -/
def places (s : State) (u : Uses) : List (List Loc) := u.accs.map fun a => match s.checkAcc (iss s) a with | .ok ls => ls | _ => []

theorem settled_of_none (s : State) (x : Iss) (ends : Bool) (h : ∀ u ∈ s.teams, ∀ g ∈ u.gangs, g.pending = []) : s.settled ends x = s := by
  have e : ∀ u ∈ s.teams, ∀ q : Pending → Bool, u.modGang x.issue.gang (fun g => g.landWhere q) = u := by
    intro u hu q
    unfold Team.modGang
    rw [show mapIf _ _ u.gangs = u.gangs from (List.map_congr_left fun g hg => by
      have := h u hu g hg
      cases g
      simp only at this
      subst this
      simp [Gang.landWhere]).trans (List.map_id _)]
  unfold State.settled Iss.landDue
  split
  · rfl
  · unfold Iss.modGang State.modGang State.modTeam
    rw [show mapIf _ _ s.teams = s.teams from (List.map_congr_left fun u hu => by simp [e u hu]).trans (List.map_id _)]

/-- An issue set issues from a state in which no pending result is to land. -/
theorem issuing (s : State) (ends : Bool) (x : Iss) (hx : s.iss? = some x) (h : ∀ u ∈ s.teams, ∀ g ∈ u.gangs, g.pending = []) :
    s.issuing ends = some (s, iss s) := by
  have e : iss s = x := by simp [iss, hx]
  unfold State.issuing
  simp [hx, settled_of_none s x ends h, e]

/-- A chosen issue set of a state in which nothing is to land and nothing is traced. -/
def ready (s : State) : Bool :=
  s.iss?.isSome && (s.teams.all fun u => u.gangs.all fun g => g.pending.isEmpty) && s.scope.cfgs.isEmpty &&
    (iss s).slices.all fun k => decide (k < (iss s).gang.slices.length) && decide (k < 9)

theorem issuing_of (s : State) (ends : Bool) (h : ready s = true) : s.issuing ends = some (s, iss s) := by
  simp only [ready, Bool.and_eq_true, List.all_eq_true, List.isEmpty_iff] at h
  obtain ⟨x, hx⟩ := Option.isSome_iff_exists.mp h.1.1.1
  exact issuing s ends x hx h.1.1.2

theorem issues (s : State) (ends : Bool) (h : ready s = true) : Issues s ends s (iss s) := by
  refine ⟨issuing_of s ends h, ?_, ?_⟩ <;> simp only [ready, Bool.and_eq_true, List.all_eq_true, List.isEmpty_iff, decide_eq_true_eq] at h
  · simp [State.heldRecords, State.cfg?, h.1.2]
  · exact h.2

theorem base_issues (ends : Bool) : Issues base ends base (iss base) := issues _ _ (by decide +kernel)

/-- An instruction that writes scalar and vector registers of the held blocks may issue. -/
theorem base_free (ds : List Dest) (rs : List VReg) (h : ∀ r ∈ rs, r.val < 72) :
    Unwatched base (iss base) ∧ (iss base).clear ds ∧ (iss base).mayName rs := by
  have e : (iss base).gang.pending = [] := by decide +kernel
  have w : base.scope.watches = [] := by decide +kernel
  have f : ∀ r : VReg, r.val < 72 → ((iss base).gang.holds (r.val / 9) || ((iss base).gang.inHandler && decide (72 ≤ r.val))) = true ∧
    (iss base).gang.landing r = false := by decide +kernel
  exact ⟨by simp [Unwatched, w], by simp [Iss.clear, e], fun r hr => f r (h r hr)⟩

theorem base_room (n : Nat) (h : n ≤ 27) : (iss base).room n := by
  have e : (iss base).gang.shown = [] := by decide +kernel
  simpa [Iss.room, e] using h

/-- The checks of an instruction have passed with what they found. -/
def checked (e : Except Stop Got × List WatchMatch) (g : Got) : Bool := match e with | (.ok h, []) => decide (h = g) | _ => false

theorem admits (s : State) (x : Iss) (u : Uses) (p : List (List Loc)) (h : checked (s.precheck x false u) ⟨u.accs.zip p, [], s.accLeaves x u.accs⟩ = true)
    (hp : p.length = u.accs.length) (hs : s.mem.upsets = []) : Admits s x u p [] := by
  refine ⟨?_, hp, hs⟩
  unfold checked at h
  split at h
  · rename_i q _ e; rw [e, of_decide_eq_true h]
  · cases h

theorem plain (s : State) (h : ∀ u ∈ s.teams, u.phasers = []) (ls : List Loc) (hl : ∀ l ∈ ls, (match l with | .scratch _ _ | .hbm _ => true | _ => false) = true) :
    ∀ l ∈ ls, Plain s l := by
  intro l m
  have := hl l m
  cases l <;> simp_all [Plain]
  intro u hu
  have := h u (List.mem_of_find?_eq_some hu)
  simp [this]

/-! ### Statements with hypotheses are about some states: the steps, the numbers, and the instructions of a core -/

/-- addi with mode nearest into s3, of s4 and 7 (R84). -/
def addiWord : Nat := 422229728821273

/-- The state before the first instruction of a program that stands where it is fetched. -/
def booted : State := State.reset.withFetchWord 54 addiWord

theorem meets_RoundTrip : (Instr.addi ⟨none, 3, 4, 7⟩).wellFormed = true ∧ (encode (.addi ⟨none, 3, 4, 7⟩)).length = 1 := by decide +kernel

theorem meets_OneEncoding : (∀ w ∈ encode (.addi ⟨none, 3, 4, 7⟩), -maxTrits 27 ≤ w ∧ w ≤ maxTrits 27) ∧
    decode (encode (.addi ⟨none, 3, 4, 7⟩)) = .ok (.addi ⟨none, 3, 4, 7⟩, 1) := by
  refine ⟨?_, ?_⟩ <;> decide +kernel

/-- What a scheduler that finds no turn does in booted. -/
theorem meets_StepRunsDecoded :
    let u := { booted.begin with agents := true }
    let c := u.allCandidates.headD ⟨0, 0, 0, 0, 0, []⟩
    let v := u.choose c false
    let r := (iss v).landDue false v
    let x := iss r
    let w := r.touchWalks (x.who none) (x.gang.slice x.low).pc 3
    booted.agenda = [] ∧ booted.agents = false ∧ u.allCandidates = [c] ∧ v.iss? = some (iss v) ∧ r.iss? = some x ∧
      (x.gang.slice x.low).sweep = none ∧ x.owed = none ∧
      (match w.fetch x with
        | .ok ws => (match decode ws with | .ok (i, _) => Answer.safe (exec i ((w.fetched x ws.length).withWords ws)) | _ => false)
        | _ => false) = true := by
  refine ⟨?_, ?_, ?_, ?_, ?_, ?_, ?_, ?_⟩ <;> decide +kernel

theorem meets_StepTakesTurns : ({ State.reset with agenda := [.event .nop, .idle] } : State).agenda = .event .nop :: [.idle] := rfl

theorem meets_StepKeepsMemoryForm : booted.mem.wf = true ∧ Answer.safe (step booted) = true := by decide +kernel

theorem meets_TritStrings : -(3 ^ 2 - 1) ≤ 2 * (-4 : Int) ∧ 2 * (-4 : Int) ≤ 3 ^ 2 - 1 ∧ (∀ p q : Int, -1 ≤ (fun _ _ => (1 : Int)) p q ∧ (1 : Int) ≤ 1) := by
  simp

theorem meets_StorageAndPacking :
    let ws : List Int := List.replicate 27 3812798742493
    ws.length = 27 ∧ ∀ w ∈ ws, -(3 ^ 27 - 1) ≤ 2 * w ∧ 2 * w ≤ 3 ^ 27 - 1 := by decide +kernel

theorem meets_ScalarOperations : Issues base false base (iss base) ∧ (iss base).clear ((iss base).sDests 26) ∧ (iss base).room ((iss base).sOpens 26) :=
  ⟨base_issues _, (base_free _ [] (by simp)).2.1, base_room _ (by decide +kernel)⟩

theorem meets_MasksAndReads : Issues base false base (iss base) ∧ base.cfg? (iss base).ctx.agency = none ∧
    (iss base).clear [.msk 26] ∧ (iss base).clear ((iss base).sDests 3) :=
  ⟨base_issues _, by decide +kernel, (base_free _ [] (by simp)).2.1, (base_free _ [] (by simp)).2.1⟩

/-- WRSR of sr.mode, of the other registers and of sr.tenant at its greatest agency. -/
theorem meets_SpecialRegisterWrites :
    let s := puts base 3 fun _ => 242
    Issues base false base (iss base) ∧ (∀ k ∈ (iss (puts base 3 fun _ => 3)).slices, sub 0 2 ((iss (puts base 3 fun _ => 3)).s k 3) ∈ [1, -1, 2, -2, (3 : Int)]) ∧
      Issues s false s (iss s) ∧ (iss s).ctx.priv = true ∧ (∀ k ∈ (iss s).slices, 0 ≤ (iss s).s k 3 ∧ (iss s).s k 3 ≤ 242) :=
  ⟨base_issues _, by decide +kernel, issues _ _ (by decide +kernel), by decide +kernel, by decide +kernel⟩

/-- Targets at both ends of the space, and one a tryte further. -/
theorem meets_Transfers :
    let s := puts base 3 fun k => if k = 0 then maxTrits 36 - 1 else 1 - maxTrits 36
    let s' := puts (pick idle [0]) 3 fun _ => maxTrits 36 + 2
    Issues s true s (iss s) ∧ s.cfg? (iss s).ctx.agency = none ∧ (∀ k ∈ (iss s).slices, targetCause ((iss s).s k 3) = none) ∧
      s'.issuing true = some (s', iss s') ∧ ∃ k ∈ (iss s').slices, targetCause ((iss s').s k 3) ≠ none :=
  ⟨issues _ _ (by decide +kernel), by decide +kernel, by decide +kernel, by decide +kernel,
    0, by decide +kernel, by decide +kernel⟩

/-- All slices of the gang, which then is gone, or eight of the nine. -/
theorem meets_ExitEndsSlices :
    let s := pick idle (List.range 8)
    Issues base true base (iss base) ∧ (iss base).gang.bank = none ∧ (iss base).gang.busy = false ∧
      (∀ j < (iss base).gang.slices.length, j ∈ (iss base).slices ∨ ((iss base).gang.slice j).ended = true) ∧
      Issues s true s (iss s) ∧ (iss s).gang.bank = none ∧ ∃ j < (iss s).gang.slices.length, j ∉ (iss s).slices ∧ ((iss s).gang.slice j).ended = false :=
  ⟨base_issues _, by decide +kernel, by decide +kernel, by decide +kernel, issues _ _ (by decide +kernel),
    by decide +kernel, 8, by decide +kernel, by decide +kernel, by decide +kernel⟩

/-- A gang whose grid names a handler. -/
def handled : State := { base with grids := [{ grid with launch := grid.launch.set 6 19686 }] }

/-- The gang in its handler, all of its slices trapped. -/
def trapped : State :=
  match exec (.trap 3 5) handled with
  | .next t => { pick t (List.range 9) with cur := some { team := 1, gang := 0, slices := List.range 9, words := [0], apart := false } }
  | _ => handled

theorem meets_SoftwareTrapEntry : handled.issuing true = some (handled, iss handled) ∧ handled.cfg? (iss handled).ctx.agency = none ∧
    (∀ k ∈ (iss handled).slices, k < (iss handled).gang.slices.length ∧ k < 9) ∧ (iss handled).slices ≠ [] ∧ (iss handled).gang.inHandler = false ∧
    (iss handled).grid.dbl 6 ≠ 0 ∧ handled.scope.windows = [] := by
  refine ⟨issuing_of _ _ (by decide +kernel), ?_, ?_, ?_, ?_, ?_, ?_⟩ <;> decide +kernel

/-- Without a handler, outside one, and inside one. -/
theorem meets_HaltingTraps : base.issuing true = some (base, iss base) ∧ (iss base).gang.halt = none ∧ (iss base).gang.inHandler = false ∧ (iss base).grid.dbl 6 = 0 ∧
    base.scope.windows = [] ∧ trapped.iss? = some (iss trapped) ∧ (iss trapped).gang.inHandler = true ∧ (iss trapped).gang.halt = none := by
  refine ⟨issuing_of _ _ (by decide +kernel), ?_, ?_, ?_, ?_, ?_, ?_, ?_⟩ <;> decide +kernel

/-- All slices return together, or eight of them first. -/
theorem meets_TrapReturn :
    let x := iss trapped
    let y := iss (pick trapped (List.range 8))
    Issues trapped true trapped x ∧ x.gang.inHandler = true ∧
      (∃ b, x.gang.bank = some b ∧ y.gang.bank = some b ∧ (∀ k ∈ b.slices, k < x.gang.slices.length) ∧
        (∀ k ∈ b.slices, (x.gang.slice k).ended = false → targetCause ((x.gang.slice k).get 19) = none) ∧
        (∀ k ∈ b.slices, k ∈ x.slices ∨ k ∈ b.returned ∨ (x.gang.slice k).ended = true) ∧
        ∃ k ∈ b.slices, k ∉ y.slices ∧ k ∉ b.returned ∧ (y.gang.slice k).ended = false) := by
  refine ⟨issues _ _ (by decide +kernel), by decide +kernel, (iss trapped).gang.bank.getD ⟨[], [], [], [], [], [], false⟩, ?_⟩
  refine ⟨?_, ?_, ?_, ?_, ?_, 8, ?_⟩ <;> decide +kernel

/-- A result that is still to land in s3 of slice 0. -/
def awaiting : State := base.modGang 1 0 fun g => { g with pending := [{ slices := [0], dest := .sca 0 3, writes := [(0, 1)], flags := 0, remaining := 2 }] }

theorem meets_IssueChecks :
    (∃ p ∈ (iss awaiting).gang.pending, p.meets (iss awaiting).slices = true ∧ p.dest ∈ (iss awaiting).sDests 3) ∧
      (iss base).clear ((iss base).sDests 3) ∧ (iss base).slices ≠ [] ∧ (iss base).gang.holds ((80 : VReg).val / 9) = false ∧
      (iss base).gang.inHandler = false ∧ (iss base).gang.landing 80 = false ∧ base.xlate.parked.length < 81 ∧
      ({ (iss base) with ctx := { (iss base).ctx with priv := false } } : Iss).ctx.priv = false :=
  ⟨⟨{ slices := [0], dest := .sca 0 3, writes := [(0, 1)], flags := 0, remaining := 2 }, by decide +kernel, by decide +kernel, by decide +kernel⟩,
    (base_free _ [] (by simp)).2.1, by decide +kernel, by decide +kernel, by decide +kernel, by decide +kernel, by decide +kernel, rfl⟩

/-- Doubles at the last places of the scratchpad, and addresses that are no multiple of 3. -/
theorem meets_ScalarMemory :
    let s := puts (pick idle [7, 8]) 5 fun k => localBase + 6501 + 6 * k
    let f : SmemF := ⟨4, 5, 1, 0⟩
    let u := smemUses (iss s) f 6 .load
    let w := smemUses (iss s) f 6 .store
    let s' := puts (pick idle [8]) 5 fun _ => localBase + 1
    Issues s false s (iss s) ∧ (iss s).slices.Nodup ∧ SmemPlaces s (iss s) f 6 .load (places s u) ∧ Admits s (iss s) u (places s u) [] ∧
      SmemPlaces s (iss s) f 6 .store (places s w) ∧ Admits s (iss s) w (places s w) [] ∧ (iss s).queues w (places s w) = false ∧
      (∀ l ∈ (places s w).flatten, Plain s l) ∧
      s'.issuing false = some (s', iss s') ∧ ∀ k ∈ (iss s').slices, ((iss s').s k f.b + f.off * 6) % 3 ≠ 0 :=
  ⟨issues _ _ (by decide +kernel), by decide +kernel, by unfold SmemPlaces; decide +kernel,
    admits _ _ _ _ (by decide +kernel) (by decide +kernel) (by decide +kernel), by unfold SmemPlaces; decide +kernel,
    admits _ _ _ _ (by decide +kernel) (by decide +kernel) (by decide +kernel), by decide +kernel,
    plain _ (by decide +kernel) _ (by decide +kernel), issuing_of _ _ (by decide +kernel), by decide +kernel⟩

/-- One slice that is to load the first word of the second page, whose first tryte has been overwritten since the core obtained the line. -/
def leasing (line : Nat) : State :=
  let s := puts (pick idle [8]) 5 fun _ => 19683
  { s with mem := { s.mem with hbm := setZ (19683 * 24) 7 s.mem.hbm, wlog := [⟨[(19683 * 24, 5)]⟩],
                               leases := [{ core := 0, line := line, since := s.clock.cycle }] } }

theorem meets_LeasedLoads :
    let s := leasing 0
    let f : SmemF := ⟨4, 5, 0, 0⟩
    let u := smemUses (iss s) f 3 .load
    Issues s false s (iss s) ∧ (iss s).slices.Nodup ∧ (iss s).issue.apart = false ∧
      places s u = [[19683 * 24, 19683 * 24 + 1, 19683 * 24 + 2]].map (fun ns => ns.map Loc.hbm) ∧ SmemPlaces s (iss s) f 3 .load (places s u) ∧
      Admits s (iss s) u (places s u) [] :=
  ⟨issues _ _ (by decide +kernel), by decide +kernel, by decide +kernel, by decide +kernel, by unfold SmemPlaces; decide +kernel,
    admits _ _ _ _ (by decide +kernel) (by decide +kernel) (by decide +kernel)⟩

/-- A leased copy gives what stood when the core obtained it, where the free choice takes it (R186). -/
theorem test_leased_copy :
    let s := leasing 5832
    let u := smemUses (iss s) ⟨4, 5, 0, 0⟩ 3 .load
    s.leased (iss s) u (u.accs.zip (places s u)) = if Config.leased s.draws then [(0, .vals [5, 0, 0])] else [] := by
  intro s u
  cases h : Config.leased s.draws <;> simp only [State.leased, h, Bool.and_false] <;> decide +kernel

/-- Stores of which a peer serves one. -/
theorem meets_StoresToPeers :
    let x := iss base
    let u : Uses := { Uses.none with accs := x.smemAccs ⟨4, 5, 0, 0⟩ 3 .store }
    x.queues u (List.replicate 9 [.peer 1 0, .peer 1 1, .peer 1 2]) = true ∧ base.storing x.issue.team x.issue.gang x.slices = false := by
  decide +kernel

theorem meets_NoEffect : Issues base false base (iss base) ∧ base.mem.upsets = [] := ⟨base_issues _, by decide +kernel⟩

theorem meets_VectorArithmetic : Issues base false base (iss base) ∧ Unwatched base (iss base) ∧ (iss base).clear [.vec 71] ∧ (iss base).room 1 ∧
    (iss base).mayName [71, 0, 8, 9] :=
  ⟨base_issues _, (base_free [] [] (by simp)).1, (base_free _ [] (by simp)).2.1, base_room _ (by decide), (base_free [] _ (by decide)).2.2⟩

theorem meets_VectorSelectsAndCompares : Issues base false base (iss base) ∧ Unwatched base (iss base) ∧ base.cfg? (iss base).ctx.agency = none ∧
    (iss base).clear [.vec 71] ∧ (iss base).clear [.msk 26] ∧ (iss base).room 1 ∧ (iss base).mayName [71, 0, 8, 9] :=
  ⟨base_issues _, (base_free [] [] (by simp)).1, by decide +kernel, (base_free _ [] (by simp)).2.1, (base_free _ [] (by simp)).2.1,
    base_room _ (by decide), (base_free [] _ (by decide)).2.2⟩

/-- The greatest index of VBCAST on words and of VEXT. -/
theorem meets_LanePermutations :
    let s := puts base 5 fun _ => 26
    Issues s false s (iss s) ∧ (∀ p ∈ s.scope.watches, p.targets s (iss s) = false) ∧ (iss s).gang.pending = [] ∧ 0 ≤ (iss s).s (iss s).low 5 ∧
      (iss s).s (iss s).low 5 < 27 * elems .i27 ∧ (iss s).active none 0 ≠ [] ∧ (∀ k ∈ (iss s).slices, 0 ≤ (iss s).s k 5 ∧ (iss s).s k 5 ≤ 26) ∧
      (iss s).slices.Nodup ∧ (iss s).gang.holds 7 = true ∧ (iss s).gang.landing 71 = false :=
  ⟨issues _ _ (by decide +kernel), by decide +kernel, by decide +kernel, by decide +kernel, by decide +kernel,
    by decide +kernel, by decide +kernel, by decide +kernel, by decide +kernel, by decide +kernel⟩

/-- A vector of words at the end of the scratchpad. -/
theorem meets_VectorMemory :
    let s := puts (pick idle [8]) 5 fun _ => localBase + 6480
    let x := iss s
    let f : VmemF := ⟨none, 71, 5, 0, 0⟩
    let u : Uses := { Uses.none with dests := [.vec 71], vregs := [71], accs := (x.active none 0).map (x.vmemAcc f .load), opens := 0, leases := true }
    let w : Uses := { Uses.none with vregs := [71], accs := x.lanes.map (x.vmemAcc f .store) }
    Issues s false s x ∧ Admits s x u (places s u) [] ∧
      (x.active none 0).map (fun i => s.locate (x.who (x.vmemAcc f .load i).lane) .load (x.s (i / 3) 5 + 3 * i) 3) = (places s u).map Xs.ok ∧
      Admits s x w (places s w) [] ∧ x.queues w (places s w) = false :=
  ⟨issues _ _ (by decide +kernel), admits _ _ _ _ (by decide +kernel) (by decide +kernel) (by decide +kernel),
    by decide +kernel, admits _ _ _ _ (by decide +kernel) (by decide +kernel) (by decide +kernel), by decide +kernel⟩

/-- Eight-byte elements in a page of the binary view, to the last that is aligned. -/
theorem meets_BinaryMemory :
    let s := puts (pick idle [8]) 5 fun _ => 58832
    let x := iss s
    let f : BmemF := ⟨none, 71, 5, 0⟩
    let u : Uses := { Uses.none with dests := [.vec 71], vregs := [71], accs := (x.active none 0).map (x.bmemAcc f 8 .binLoad) }
    let w : Uses := { Uses.none with vregs := [71], accs := x.lanes.map (x.bmemAcc f 8 .binStore) }
    Issues s false s x ∧ Admits s x u (places s u) [] ∧
      (x.active none 0).map (fun i => s.locate (x.who none) .binLoad (x.s (i / 3) 5 + i * 8) 8) = (places s u).map Xs.ok ∧
      Admits s x w (places s w) [] :=
  ⟨issues _ _ (by decide +kernel), admits _ _ _ _ (by decide +kernel) (by decide +kernel) (by decide +kernel),
    by decide +kernel, admits _ _ _ _ (by decide +kernel) (by decide +kernel) (by decide +kernel)⟩

/-! ### Work in memory, phasers, phases, copies, jobs, tiles and ports -/

/-- Words of six trytes stored in the team's scratchpad. -/
def stored (s : State) (off : Nat) (ds : List Int) : State :=
  s.modTeam 1 fun u => { u with scratch := setRangeZ off (ds.flatMap (toTrytes 6)) u.scratch }

/-- A word of three trytes stored there. -/
def storedWord (s : State) (off : Nat) (w : Int) : State := s.modTeam 1 fun u => { u with scratch := setRangeZ off (toTrytes 3 w) u.scratch }

/-- One slice that is to compute two segments of an addition from line to line of the scratchpad (R58). -/
def sweeping : State := puts (puts (puts (pick idle [8]) 5 fun _ => localBase + 6399) 6 fun _ => localBase) 7 fun _ => localBase + 81

/-- The addition, and its words. -/
def sweepAdd : Instr := .vadd ⟨none, .swept ⟨2, 81, 81, 81⟩ 5 6 7, 0, 0, .i27⟩

/-- The same slice before its second segment, on lines of which the last is the scratchpad's last. -/
def sweptOnce : State :=
  let x := iss sweeping
  let o := opVadd ⟨none, .swept ⟨2, 81, 81, 81⟩ 5 6 7, 0, 0, .i27⟩
  sweeping.modGang 1 0 fun g => g.modSlices [8] fun _ y =>
    { y with sweep := some { o.hold x [5, 6, 7] with words := encode sweepAdd, done := 1 } }

theorem meets_SweptSegments :
    ∃ (o : LaneOp) (sw : Sweep) (d a b : SReg), Machine.sweepOf sweepAdd = some (o, sw, d, a, b) ∧
      ∀ s ∈ [sweeping, sweptOnce], ∃ h, h = o.hold (iss s) [d, a, b] ∧ Issues s false s (iss s) ∧
        (∀ q ∈ o.sweepAddrs h sw d a b, q % 3 = 0 ∧ localBase ≤ q ∧ q + 81 ≤ localBase + ((iss s).team.alloc : Int)) ∧
        (let u : Uses := { Uses.none with accs := o.sweepAccs (iss s) h sw d a b }
         let p := (o.sweepAccs (iss s) h sw d a b).map (fun c => (List.range 3).map fun j => Loc.scratch 1 ((c.addr - localBase).toNat + j))
         Admits s (iss s) u p []) := by
  refine ⟨_, _, _, _, _, rfl, ?_⟩
  intro s hs
  refine ⟨_, rfl, ?_⟩
  simp only [List.mem_cons, List.not_mem_nil, or_false] at hs
  rcases hs with rfl | rfl <;>
    exact ⟨issues _ _ (by decide +kernel), by decide +kernel,
      admits _ _ _ _ (by decide +kernel) (by decide +kernel) (by decide +kernel)⟩

theorem meets_QuantisedTypes : Issues base false base (iss base) ∧ Unwatched base (iss base) ∧ (iss base).clear [.vec 71] ∧
    (iss base).mayName [71, 0, 1, 2, 3] ∧ (∀ l ∈ (iss base).active none 0, readDesc ((iss base).v 3 l) ≠ none ∧ scaleFaults ((iss base).v 3 l) = []) :=
  ⟨base_issues _, (base_free [] [] (by simp)).1, (base_free _ [] (by simp)).2.1, (base_free [] _ (by decide)).2.2, by decide +kernel⟩

theorem meets_PackedStreams : Issues base false base (iss base) ∧ Unwatched base (iss base) ∧ (iss base).clear (.vec 71 :: (iss base).sDests 26) ∧
    (∀ r : VReg, 63 ≤ r.val ∧ r.val < 72 ∨ r.val < 9 → (iss base).mayName [r]) ∧ ((iss base).gang.fragment 9).isSome = true :=
  ⟨base_issues _, (base_free [] [] (by simp)).1, (base_free _ [] (by simp)).2.1,
    fun r h => (base_free [] _ (by intro q hq; rw [List.mem_singleton.mp hq]; omega)).2.2, by decide +kernel⟩

/-- Two slices at the last doubles of the scratchpad. -/
def atomic : State := puts (pick idle [7, 8]) 5 fun k => localBase + 6507 + 6 * k

theorem meets_Atomics :
    let x := iss atomic
    let u : Uses := { Uses.none with dests := x.sDests 26, accs := x.slices.map fun k => atomAcc k .i54 (x.s k 5), opens := x.sOpens 26 }
    Issues atomic false atomic x ∧ x.slices.Nodup ∧ FirstTry atomic x ∧ Admits atomic x u (places atomic u) [] ∧
      (∀ l ∈ (places atomic u).flatten, l.isOwn = true) ∧ ∀ l ∈ (places atomic u).flatten, Plain atomic l :=
  ⟨issues _ _ (by decide +kernel), by decide +kernel, ⟨by decide +kernel, by decide +kernel⟩,
    admits _ _ _ _ (by decide +kernel) (by decide +kernel) (by decide +kernel), by decide +kernel, plain _ (by decide +kernel) _ (by decide +kernel)⟩

/-- Updates of which a peer serves one. -/
theorem meets_AtomicsAtPeers : AccOp.rmw.wr = true ∧ (∃ ls ∈ [[Loc.hbm 0], [.peer 1 0]], ls.any Loc.isPeer = true) ∧
    atomic.waitsOf (iss atomic).parker = [] ∧ ∀ m, atomic.isFenced m = false := by
  refine ⟨by decide, ⟨[.peer 1 0], by decide, by decide⟩, by decide +kernel, fun m => ?_⟩
  have : atomic.fab.fenced = [] := by decide +kernel
  simp [State.isFenced, this]

/-- A signal that stands at 5, with a binding. -/
def bound : State :=
  let s := stored (puts (puts (pick idle [8]) 5 fun _ => localBase + 54) 6 fun _ => 5) 54 [5]
  { s with eng := { s.eng with bindings := [{ loc := .scratch 1 54, ctx := 0, port := 1, msg := 2 }] } }

/-- SIGADD and SIGDEC of signals with no binding, SIGDEC to 0 of one that has one, and SIGBIND. -/
theorem meets_Signals :
    let x := iss atomic
    let u : Uses := { Uses.none with dests := x.sDests 4, accs := x.slices.map fun k => atomAcc k .i54 (x.s k 5) }
    let y := iss bound
    let v : Uses := { Uses.none with dests := y.sDests 4, accs := [atomAcc 8 .i54 (y.s 8 5)] }
    let w : Uses := { Uses.none with accs := x.slices.map fun k => atomAcc k .i54 (x.s k 5) }
    Issues atomic false atomic x ∧ FirstTry atomic x ∧ (∀ k ∈ x.slices, 0 ≤ x.s k 6) ∧ Admits atomic x u (places atomic u) [] ∧
      Issues bound false bound y ∧ y.slices = [8] ∧ FirstTry bound y ∧ 0 ≤ y.s 8 6 ∧ Admits bound y v (places bound v) [] ∧
      (places bound v).flatten.head? = some (.scratch 1 54) ∧ wrap 54 (bound.readLocs false (places bound v).flatten + -1 * y.s 8 6) = 0 ∧
      bound.readLocs false (places bound v).flatten ≠ 0 ∧
      Admits atomic x w (places atomic w) [] ∧ (∀ ls ∈ places atomic w, ls ≠ []) ∧ atomic.eng.bindings.length + x.slices.length ≤ 243 :=
  ⟨issues _ _ (by decide +kernel), ⟨by decide +kernel, by decide +kernel⟩, by decide +kernel,
    admits _ _ _ _ (by decide +kernel) (by decide +kernel) (by decide +kernel),
    issues _ _ (by decide +kernel), by decide +kernel, ⟨by decide +kernel, by decide +kernel⟩, by decide +kernel,
    admits _ _ _ _ (by decide +kernel) (by decide +kernel) (by decide +kernel), by decide +kernel, by decide +kernel, by decide +kernel,
    admits _ _ _ _ (by decide +kernel) (by decide +kernel) (by decide +kernel), by decide +kernel, by decide +kernel⟩

/-- An update of the memory side that has its turn. -/
def reducing : State :=
  { idle with eng := { idle.eng with redms := [{ id := 7, ctx := 0, grid := 0, core := 0, team := 1, gang := 0, slice := 8, addr := 19683,
                                                 upd := { op := .add, ty := .i54, v := 1, cmp := 0, rnd := .near, draw := 0 }, word := 0 }] } }

/-- REDM at both ends of the space, and an update of which the turn has come. -/
theorem meets_MemorySideReductions :
    let s := puts (pick idle [7, 8]) 5 fun k => if k = 7 then -maxTrits 36 + 1 else maxTrits 36 - 7
    Issues s false s (iss s) ∧ (∀ w ∈ s.scope.watches, w.targets s (iss s) = false) ∧
      (∀ k ∈ (iss s).slices, (iss s).s k 5 % 3 = 0 ∧ -maxTrits 36 ≤ (iss s).s k 5 ∧ (iss s).s k 5 + 6 - 1 ≤ maxTrits 36) ∧
      ∃ r ls, reducing.eng.redms = [r] ∧ reducing.locate { ctx := demoCtx, team := reducing.team? r.team, gang := r.gang, lane := none, core := some r.core } .rmw
        r.addr (updateLen r.upd) = .ok ls ∧ reducing.ctx? r.ctx = some demoCtx ∧ ∀ l ∈ ls, l.isOwn = true ∧ reducing.badLoc l = false := by
  refine ⟨issues _ _ (by decide +kernel), by decide +kernel, by decide +kernel,
    { id := 7, ctx := 0, grid := 0, core := 0, team := 1, gang := 0, slice := 8, addr := 19683,
      upd := { op := .add, ty := .i54, v := 1, cmp := 0, rnd := .near, draw := 0 }, word := 0 }, (List.range 6).map fun i => .hbm (19683 * 24 + i), ?_, ?_, ?_, ?_⟩ <;> decide +kernel

/-- FENCE with nothing outstanding, with an update outstanding, and of a context that has halted; the cache instructions at their greatest
range; a lease that is old enough. -/
theorem meets_FencesAndCaches :
    let held := pick reducing [8]
    let halted := { base with ctxs := base.ctxs.map fun c => { c with halted := true, faultLog := 19683 },
                              mem := { base.mem with hbm := setRangeZ (19683 * 24) (toTrytes 6 1) base.mem.hbm } }
    let s := puts base 6 fun _ => 3 ^ 18
    Issues base false base (iss base) ∧ base.ctxHalted 0 = false ∧ base.eng.redms = [] ∧ Issues held false held (iss held) ∧ held.ctxHalted 0 = false ∧
      held.eng.redms ≠ [] ∧ (iss held).slices = [8] ∧ Issues halted false halted (iss halted) ∧ halted.ctxHalted 0 = true ∧ (iss halted).gang.halt = none ∧
      Issues s false s (iss s) ∧ s.mem.upsets = [] ∧ (∀ k ∈ (iss s).slices, 1 ≤ (iss s).s k 6 ∧ (iss s).s k 6 ≤ 3 ^ 18) ∧
      ([({ core := 0, line := 0, since := 0 } : Lease)].find? fun q => decide (q.core = 0) && decide (q.line = 0)) = some ⟨0, 0, 0, 0⟩ :=
  ⟨base_issues _, by decide +kernel, by decide +kernel, issues _ _ (by decide +kernel), by decide +kernel,
    by decide +kernel, by decide +kernel, issues _ _ (by decide +kernel), by decide +kernel, by decide +kernel,
    issues _ _ (by decide +kernel), by decide +kernel, by decide +kernel, by decide +kernel⟩

/-- An invalidation whose ranges are done, or one that is still to do its only range. -/
def invalidating (rs : List (Nat × Int × Int)) : State :=
  { base with xlate := { base.xlate with invs := [{ id := 3, team := 1, gang := 0, slices := List.range 9, ranges := rs }] } }

theorem meets_Translations :
    let s := puts base 6 fun _ => 3 ^ 36
    Issues (invalidating []) false (invalidating []) (iss (invalidating [])) ∧ (iss (invalidating [])).ctx.priv = true ∧
      ((invalidating []).invOf (iss (invalidating []))).map TlbInv.ranges = some [] ∧
      Issues s false s (iss s) ∧ s.invOf (iss s) = none ∧ (∀ k ∈ (iss s).slices, 1 ≤ (iss s).s k 6 ∧ (iss s).s k 6 ≤ 3 ^ 36 ∧ (iss s).s k 7 = 0) ∧
      (invalidating [(0, 19683, 39365)]).rangeQuiet 0 19683 39365 = true ∧
      base.ctx? 0 = some demoCtx ∧ isLocal 39365 = false ∧ (match base.walk demoCtx 39365 with | .leaf l => !l.migrating | _ => false) = true :=
  ⟨issues _ _ (by decide +kernel), by decide +kernel, by decide +kernel,
    issues _ _ (by decide +kernel), by decide +kernel, by decide +kernel, by decide +kernel,
    by decide +kernel, by decide +kernel, by decide +kernel⟩

/-- Slices 7 and 8 name a phaser of count 2 at which nobody has arrived, in the last nine trytes of the scratchpad. -/
def phasing : State := storedWord (puts (puts (pick idle [7, 8]) 5 fun _ => localBase + 6552) 6 fun _ => 2) 6555 (2 * 3 ^ 18)

theorem meets_Phasers :
    let x := iss phasing
    Issues phasing true phasing x ∧ (∀ k ∈ x.slices, phasing.phaserAt x.team (x.s k 5) = .ok (1, 6552)) ∧
      (phaserOf phasing (1, 6552)).map (fun f => (f.phase, f.count, f.arrived, f.expected, f.landed)) = some (0, 2, 0, 0, 0) ∧
      (∀ op ∈ [AccOp.store, .rmw, .load], ∃ p, Admits phasing x { Uses.none with accs := x.phAccs 5 op } p []) ∧
      (∀ k ∈ x.slices, x.s k 6 = 2) ∧ JobsMerged phasing ∧ (phasing.team? 1).map Team.phasers = some [] := by
  refine ⟨issues _ _ (by decide +kernel), by decide +kernel, by decide +kernel, ?_, by decide +kernel, ?_, by decide +kernel⟩
  · intro op h
    refine ⟨places phasing { Uses.none with accs := (iss phasing).phAccs 5 op }, ?_⟩
    simp only [List.mem_cons, List.not_mem_nil, or_false] at h
    rcases h with rfl | rfl | rfl <;> exact admits _ _ _ _ (by decide +kernel) (by decide +kernel) (by decide +kernel)
  · have : ∀ c ∈ phasing.ctxs, c.jobs = [] := by decide +kernel
    intro c hc j hj
    rw [this c hc] at hj
    cases hj

/-- The slices wait, one on its team's phaser and its fate decided. -/
def waiting : State := phasing.modGang 1 0 fun g => g.modSlices [7, 8] fun _ y => { y with wait := some (.yield (localBase + 6552) (-1) 19683), fate := .passes, sub := 7 }

/-- Slices that wait for a phase of a phaser, in which all have passed. -/
def passing : State := phasing.modGang 1 0 fun g => g.modSlices [7, 8] fun _ y => { y with wait := some (.phaser (localBase + 6552) (-1)), fate := .passes, sub := 7 }

/-- YIELD that goes on at once and one that waits; YIELD_RESUME, WAIT_RELEASE and a result that lands. -/
theorem meets_WaitsEnd :
    let s := puts (puts phasing 6 fun _ => -1) 7 fun _ => 19683
    let s' := puts (puts phasing 6 fun _ => 0) 7 fun _ => 19683
    (∀ r ∈ [s, s'], Issues r true r (iss r) ∧ ∀ k ∈ (iss r).slices, r.phaserAt (iss r).team ((iss r).s k 5) = .ok (1, 6552) ∧ targetCause ((iss r).s k 7) = none) ∧
      (∀ k ∈ (iss s).slices, passed 0 ((iss s).s k 6) = true) ∧ passed 0 ((iss s').s 7 6) = false ∧
      (let u := (iss waiting).team
       let g := (iss waiting).gang
       g.subgang 7 = [7, 8] ∧ u.mayLeave g (g.subgang 7) = true ∧ ∀ k ∈ g.subgang 7, (g.slice k).wait = some (.yield (localBase + 6552) (-1) 19683) ∧ (g.slice k).fate = .passes) ∧
      (let u := (iss passing).team
       let g := (iss passing).gang
       u.mayLeave g (g.subgang 7) = true ∧ testWait u g 7 (.phaser (localBase + 6552) (-1)) = .passes) ∧
      (iss awaiting).team.onCore = true := by
  refine ⟨?_, ?_, ?_, ?_, ?_, ?_⟩ <;> try decide +kernel
  intro r hr
  simp only [List.mem_cons, List.not_mem_nil, or_false] at hr
  rcases hr with rfl | rfl <;> exact ⟨issues _ _ (by decide +kernel), by decide +kernel⟩

/-- A BAR and a SYNCS at which all have arrived, and with one slice still to come; REGANG likewise. -/
theorem meets_Meetings :
    let two := puts (pick idle (List.range 9)) 5 fun _ => (3 ^ 9 - 1) / 2
    let less := puts (pick idle (List.range 8)) 5 fun _ => (3 ^ 9 - 1) / 2
    ∀ s ∈ [two, less], Issues s true s (iss s) ∧ (iss s).slices ≠ [] ∧ (iss s).team.bar.parts = [] ∧ (iss s).team.arrivals = [] ∧
      (∀ i < 27, tritAt i ((iss s).gang.mask 0) ≠ -1) ∧ tritAt 0 ((iss s).gang.mask 0) = 1 ∧ (iss s).gang.phaser.parts = [] ∧ (iss s).gang.regangs = [] ∧
      (∀ k ∈ (iss s).slices, highZero 9 ((iss s).s k 5) = true ∧ hasMinus 9 ((iss s).s k 5) = false ∧
        (iss s).gang.syncSet ((iss s).s k 5) = List.range 9 ∧ k ∈ List.range 9) ∧
      (iss s).gang.regangClash ((3 ^ 9 - 1) / 2) ((iss s).gang.slice 0).pc = [] := by
  intro two less s hs
  simp only [List.mem_cons, List.not_mem_nil, or_false] at hs
  rcases hs with rfl | rfl <;>
    exact ⟨issues _ _ (by decide +kernel), by decide +kernel, by decide +kernel, by decide +kernel, by decide +kernel,
      by decide +kernel, by decide +kernel, by decide +kernel, by decide +kernel, by decide +kernel⟩

/-- RACQ of the one block of the pool left to the gang, which is free, or for which another waits. -/
theorem meets_RegisterBlocks :
    let s := puts base 5 fun _ => 3 ^ 8
    let behind := { s with eng := { s.eng with racq := [(1, 0, 0, 1)] } }
    Issues s true s (iss s) ∧ (iss s).gang.bank = none ∧ (∀ k ∈ (iss s).slices, highZero 9 ((iss s).s k 5) = true ∧ hasMinus 9 ((iss s).s k 5) = false) ∧
      (∀ b < 9, tritAt b (iss s).gang.blocks ≠ -1) ∧ s.racqWaits 0 = false ∧ 1 ≤ s.freeBlocks 0 ∧ (iss s).gang.landsInto (List.range 9) = false ∧
      Issues behind true behind (iss behind) ∧ behind.racqWaits 0 = true :=
  ⟨issues _ _ (by decide +kernel), by decide +kernel, by decide +kernel, by decide +kernel, by decide +kernel,
    by decide +kernel, by decide +kernel, issues _ _ (by decide +kernel), by decide +kernel⟩

/-- A second gang of the team. -/
def twoGangs : State := base.modTeam 1 fun u => { u with gangs := u.gangs ++ [{ Gang.fresh grid true 0 1 1 9 19683 [] 0 with idx := 1 }] }

/-- PHASE before another gang arrives, and with the last arrival of the team. -/
theorem meets_PhaseBoundaries :
    Issues twoGangs true twoGangs (iss twoGangs) ∧ (iss twoGangs).team.arrivals = [] ∧
      (∃ g ∈ (iss twoGangs).team.live, g.idx ≠ 0 ∧ ∃ k ∈ g.liveSlices, k = 8) ∧
      (let x := iss base
       Issues base true base x ∧ x.slices ≠ [] ∧ (∀ k ∈ x.slices, x.s k 5 = x.s x.low 5) ∧ x.team.arrivals = [] ∧ x.grid.group ≤ 1 ∧
          x.team.bar.parts = [] ∧ x.team.place = .resident ∧ x.team.ended = false ∧ base.pending = [] ∧ base.racqWaits 0 = false ∧ base.eng.copies = [] ∧
          ∀ g ∈ x.team.live, g.idx = 0 ∧ g.ops = [] ∧ g.liveSlices = x.slices) :=
  ⟨issues _ _ (by decide +kernel), by decide +kernel, by decide +kernel, base_issues _, by decide +kernel, by decide +kernel,
    by decide +kernel, by decide +kernel, by decide +kernel, by decide +kernel, by decide +kernel, by decide +kernel, by decide +kernel, by decide +kernel,
    by decide +kernel⟩

/-! ### The engines, tiles, ports and grids -/

/-- One slice that copies 27 trytes within the scratchpad. -/
def copying : State := puts (puts (pick idle [8]) 5 fun _ => localBase) 6 fun _ => localBase + 5832

/-- A lane copy at a stage of its engine. -/
def laneCopy (stage : Int) : State :=
  { idle with eng := { idle.eng with copies := [{
      id := 4, core := 0, ctx := 0, team := 1, grid := 0, gang := 0, slice := 8, lane := 24, cpy := 4, word := 0, src := localBase, dst := localBase + 81,
      srcs := (List.range 27).map fun i => .scratch 1 i, dsts := (List.range 27).map fun i => .scratch 1 (81 + i), scope := .core, pages := [],
      stage := stage, data := List.replicate 27 0, watched := false }] } }

/-- CPY, CPSEAL and CPWAIT issue; a lane copy is to read, to become visible, and to end after a fault. -/
theorem meets_Copies :
    let x := iss copying
    let u : Uses := { Uses.none with
      vregs := [0], later := true,
      accs := (x.active none 0).flatMap fun i => [⟨[i], none, x.s (i / 3) 5 + x.v 0 i, 27, .load, true⟩, ⟨[i], none, x.s (i / 3) 6 + 27 * (i : Int), 27, .store, true⟩] }
    Issues copying false copying x ∧ (x.gang.slice 8).copy.openB.length < 27 ∧ Admits copying x u (places copying u) [] ∧
      copying.eng.copies.length + (x.active none 0).length ≤ 243 ∧ x.gang.pending = [] ∧ copying.cfg? x.ctx.agency = none ∧
      copying.phaserAt x.team (x.s 8 5) = .ok (1, 0) ∧ (x.gang.slice 8).copy.sealed.length < 27 ∧
      Issues copying true copying x ∧ 0 ≤ x.s 8 7 ∧ copying.ctxHalted 0 = false ∧
      (∀ n ∈ [(0 : Int), 1, -1], (laneCopy n).scope.watches = [] ∧ (laneCopy n).mem.upsets = [] ∧ (laneCopy n).gated 0 = false ∧ (laneCopy n).mayStart 0 1 0 = true ∧
        (laneCopy n).ctxHalted 0 = false ∧ ∀ c ∈ (laneCopy n).eng.copies, c.stage = n ∧ ∀ l ∈ c.srcs ++ c.dsts, (laneCopy n).badLoc l = false ∧ l.isOwn = true) :=
  ⟨issues _ _ (by decide +kernel), by decide +kernel, admits _ _ _ _ (by decide +kernel) (by decide +kernel) (by decide +kernel), by decide +kernel,
    by decide +kernel, by decide +kernel, by decide +kernel, by decide +kernel, issues _ _ (by decide +kernel), by decide +kernel, by decide +kernel,
    by decide +kernel⟩

/-- A card of one tryte copied within the code page. -/
def card : List Int :=
  [0, 0, 0, 19683 * 3 ^ 18 + 81, 0, 0, 19764 * 3 ^ 18 + 81, 0, 0, 19683, 19764] ++ List.replicate 12 (3 ^ 36) ++ List.replicate 4 0

/-- Its job in a state, with what it has read and staged. -/
def job (st : JobState) (pos : Nat) (stream : List Int) (staged : List (Int × Int × Nat)) : State :=
  { idle with ctxs := idle.ctxs.map fun c => { c with jobSeq := 1, jobs := [{
      num := 1, ctx := 0, team := 1, grid := 0, gang := 0, slice := 8, core := 0, word := 0, card := card, at_ := 0, rnd := .near, state := st,
      engine := 0, pos := pos, fresh := 1, waiting := [], off := 0, count := 0, stream := stream, staged := staged, sized := 0, next := 0, entered := false, flags := 0,
      merged := false, watched := false }] } }

/-- The job of the context, whatever its state. -/
def theJob (s : State) : Job :=
  (s.job? 0 1).getD ⟨0, 0, 0, 0, 0, 0, 0, 0, [], 0, .near, .submitted, 0, 0, 0, [], 0, 0, 0, 0, [], [], false, 0, false, false⟩

/-- JOBSUB of a card that stands in the scratchpad, JOBQRY, and ADVSTG of a stage that has passed. -/
theorem meets_JobCommands :
    let s := stored (pick idle [8]) 0 card
    let x := iss s
    let u : Uses := { Uses.none with dests := x.sDests 4, accs := x.cardAccs 1 27 81 }
    let c := digits 54 27 (ofTrytes (readAt s false (places s u) [] 0))
    let p := puts { pick idle [8] with grids := [{ grid with launch := grid.launch.set 10 19683 }] } 5 fun _ => -1
    Issues s false s x ∧ x.slices.Nodup ∧ Admits s x u (places s u) [] ∧ s.cardFaults x c = [] ∧ (x.gang.slice 8).copy.openB.length < 27 ∧
      x.ctx.openJobs + x.slices.length ≤ 2187 ∧ x.ctx.jobs = [] ∧
      Issues p false p (iss p) ∧ (iss p).grid.dbl 10 ≠ 0 ∧ (p.stages (iss p) 5 (iss p).slices (iss p).team.stage).length = 1 ∧
      ∀ q ∈ p.stages (iss p) 5 (iss p).slices (iss p).team.stage, q.1 = 8 ∧ (match q.2 with | .ok _ => true | .error _ => false) = true :=
  ⟨issues _ _ (by decide +kernel), by decide +kernel, admits _ _ _ _ (by decide +kernel) (by decide +kernel) (by decide +kernel), by decide +kernel,
    by decide +kernel, by decide +kernel, by decide +kernel, issues _ _ (by decide +kernel), by decide +kernel, by decide +kernel, by decide +kernel⟩

/-- A job that may start, that is to read, to stage, to be read-done, to be visible, and to be finished. -/
theorem meets_JobSteps :
    (let s := job .submitted 0 [] []
     (s.freeEngine (theJob s)).isSome = true ∧ s.edgesMet (theJob s) = true ∧ s.mayStart 0 1 0 = true) ∧
    (let s := job .running 0 [] []
     let j := theJob s
     s.jobMay j = true ∧ j.pos < cardElements j.card ∧ j.indexed = false ∧ j.parts.length < j.reads ∧ j.elemAddr false % (j.side false).2.2 = 0 ∧
       inRegions (cardRegions j.card false) (j.elemAddr false) j.partLen = true ∧
       (match s.engineRead (s.jobWho j demoCtx) (.job 0 1) .load (j.elemAddr false) j.partLen [] with | .ok _ _ _ => true | _ => false) = true) ∧
    (let s := job .running 0 [5] []
     let j := theJob s
     s.jobMay j = true ∧ j.reads ≤ j.parts.length ∧ j.elemAddr true % (j.side true).2.2 = 0 ∧
       (match j.element with | .ok (vs, _) => decide (inRegions (cardRegions j.card true) (j.elemAddr true) vs.length = true) | .error _ => false) = true ∧
       (s.locate (s.jobWho j demoCtx) .store (j.elemAddr true) 1) = .ok [.hbm (19683 * 24 + 81)]) ∧
    (let j := theJob (job .running 1 [] [(19764, 5, 0)])
     cardElements j.card ≤ j.pos ∧ cardElements j.card ≤ j.fresh ∧ j.waiting = []) ∧
    (let s := job .readDone 1 [] [(19764, 5, 0)]
     let j := theJob s
     j.state = .readDone ∧ j.link = false ∧ s.jobParked j = false ∧
       ∀ q ∈ j.staged, s.locate (s.jobWho j demoCtx) .store q.1 1 = .ok [.hbm (19683 * 24 + 81)] ∧ s.badLoc (.hbm (19683 * 24 + 81)) = false) ∧
    (theJob (job .faulted 0 [] [])).state = .faulted ∧ (job .faulted 0 [] []).ctxHalted 0 = false := by
  refine ⟨?_, ?_, ?_, ?_, ?_, ?_, ?_⟩ <;> decide +kernel

/-- A job of another module that has been answered, before its signal is asked for and after, or not asked for yet. -/
theorem meets_JobAcks :
    let s := job .readDone 1 [] [(19764, 5, 0)]
    let w : RemoteWait := { who := .job 0 1, modul := 1, key := 0, tag := 3, ctx := 0, addr := 0, len := 0, pages := [], todo := none, reply := some .done }
    let t : State := { s with fab := { s.fab with waits := [w] } }
    (theJob t).state = .readDone ∧ (theJob t).entered = false ∧ t.overheated = false ∧ t.waitsOf (.job 0 1) = [w] ∧ w.reply = some .done ∧
      (theJob (t.modJob (theJob t) fun i => { i with entered := true })).entered = true ∧ s.waitsOf (.job 0 1) = [] := by
  refine ⟨?_, ?_, ?_, ?_, ?_, ?_, ?_⟩ <;> decide +kernel

/-- A gang with an operation of its own order. -/
def ordered (o : TileOp) : State := idle.modGang 1 0 fun g => { g with ops := [o] }

/-- A matrix operation that has entered the arrays, or not. -/
def mxOp (inArray : Bool) : MxOp :=
  { kind := .zero, x := 0, a := [], b := [], desc := [], rnd := .near, sat := false, gens := [], issued := 0, seq := 3, batch := 1, inArray := inArray }

/-- MXM and MXZ on the gang's two tiles, an operation before and in the arrays, a move that is to land. -/
theorem meets_MatrixOperations :
    Issues base false base (iss base) ∧ Unwatched base (iss base) ∧ base.mxStall (iss base) = none ∧ (iss base).noPair = false ∧
      (∀ j, j = 0 ∨ j = 1 → (iss base).noTile j = false ∧ (iss base).noToken j = false) ∧ (iss base).mayName [0, 8, 9, 17, 18, 35] ∧
      (∀ w ∈ (iss base).gang.descs 8, readDesc w ≠ none) ∧ ((iss base).gang.fragment 18).isSome = true ∧ ((iss base).gang.fragment 27).isSome = true ∧
      (ordered (.mx (mxOp false))).mxFirst 0 (fun o => !o.2.2.inArray && (ordered (.mx (mxOp false))).mayStart ((ordered (.mx (mxOp false))).ctxNum o.1) o.1 o.2.1) =
        some (1, 0, mxOp false) ∧
      (let s := ordered (.mx (mxOp true))
       s.mxFirst 0 (fun o => o.2.2.inArray && (match s.gang? o.1 o.2.1 with | some g => g.turn (g.mxPlace o.2.2.seq) | none => false)) = some (1, 0, mxOp true)) ∧
      (let m : TileMove := { bank := 0, load := true, base := 63, tile := 1, g := 2, cols := true, rows := [] }
       ((ordered (.move m)).gang? 1 0).map (fun g => (g.ops[0]?, g.turn 0)) = some (some (.move m), true)) :=
  ⟨base_issues _, (base_free [] [] (by simp)).1, by decide +kernel, by decide +kernel, by rintro j (rfl | rfl) <;> decide +kernel, (base_free [] _ (by decide)).2.2,
    by decide +kernel, by decide +kernel, by decide +kernel, by decide +kernel, by decide +kernel, by decide +kernel⟩

/-- A token that is passing. -/
def tokenPassing : State := idle.modTeam 1 fun u => { u with tokens := [27, 0], passing := [(0, 0, 1)] }

theorem meets_Tiles :
    let s := puts base 5 fun _ => 2
    let x := iss s
    Issues s false s x ∧ (∀ w ∈ s.scope.watches, w.targets s x = false) ∧ x.uniform 5 = 2 ∧ x.noPair = false ∧ x.noTile 1 = false ∧ x.noToken 1 = false ∧
      x.gang.pending = [] ∧ x.gang.moveCount < 27 ∧ Issues s true s x ∧ x.uniform 6 ≤ x.gang.sealedMx ∧ x.team.liveGang (x.uniform 6) = true ∧
      (if x.gang.token then ∀ g ∈ x.team.gangs, g.idx ≠ x.issue.gang → g.onTile 1 = false else x.gang.onTile 1 = false) ∧
      (tokenPassing.team? 1).map (fun u => (u.passing.find? fun p => decide (p.1 = 0), u.gangs.map fun g => g.onTile 0)) = some (some (0, 0, 1), [false]) :=
  ⟨issues _ _ (by decide +kernel), by decide +kernel, by decide +kernel, by decide +kernel, by decide +kernel, by decide +kernel, by decide +kernel, by decide +kernel,
    issues _ _ (by decide +kernel), by decide +kernel, by decide +kernel, by decide +kernel, by decide +kernel⟩

/-- A team with a port of depth 2 that holds a message, a pattern on it, and a scheduler's choice of slice 8. -/
def posting : State :=
  puts (puts ((pick idle [8]).modTeam 1 fun u => { u with ports := [{ depth := 2, gen := 0, held := [7], reserved := 0 }, { depth := 0, gen := 0, held := [], reserved := 0 }],
                                                          pats := [{ cond := 1, prio := 0, enabled := true, handler := 19683 }] })
    5 fun _ => portName 0 1 0 0) 7 fun _ => 19683

/-- The same with its port full. -/
def portFull : State := posting.modTeam 1 fun u => { u with ports := u.ports.modify 0 fun p => { p with held := [7, 8] } }

/-- PORTCFG and PORTQRY of the last port, PATSET of the last pattern, PATEN and PATDIS; POST with room and without. -/
theorem meets_PortsAndPosts :
    let s := puts (puts (puts (pick idle [8]) 5 fun _ => 1) 6 fun _ => 9) 7 fun _ => 19683
    let x := iss s
    let e := puts posting 8 fun _ => 1
    Issues s false s x ∧ x.slices.Nodup ∧ x.gang.pending = [] ∧ (∀ k ∈ x.slices, 0 ≤ x.s k 5 ∧ x.s k 5 < (x.team.ports.length : Int) ∧ 0 ≤ x.s k 6 ∧ x.s k 6 ≤ 9) ∧
      (∀ k ∈ x.slices, highZero 27 (x.s k 5) = true ∧ targetCause (x.s k 7) = none ∧ tritAt 0 (x.s k 5) = 1 ∧
        ∀ i < 27, tritAt i (x.s k 5) ≠ 0 → i < x.team.ports.length) ∧
      Issues e false e (iss e) ∧ (∀ k ∈ (iss e).slices, highZero 27 ((iss e).s k 8) = true ∧ hasMinus 27 ((iss e).s k 8) = false) ∧ ((iss e).team.pat 0).cond ≠ 0 ∧
      (∀ r ∈ [posting, portFull], Issues r false r (iss r) ∧ r.waitsOf (iss r).parker = [] ∧ r.eng.posts = [] ∧
        nameModule ((iss r).s 8 5) = (r.modul : Int) ∧ (iss r).team.onCore = true ∧
        (match r.portAt ((iss r).s 8 5) with | .at_ u i p => decide (u.key = 1 ∧ i = 0 ∧ p.depth = 2) | _ => false) = true) := by
  refine ⟨issues _ _ (by decide +kernel), ?_, ?_, ?_, ?_, issues _ _ (by decide +kernel), ?_, ?_, ?_⟩ <;> try decide +kernel
  intro r hr
  simp only [List.mem_cons, List.not_mem_nil, or_false] at hr
  rcases hr with rfl | rfl <;> exact ⟨issues _ _ (by decide +kernel), by decide +kernel⟩

/-- A held post with room at its port, a core with no pattern to fire, and one that has one. -/
theorem meets_JoinUnits :
    let h : HeldPost := { id := 5, port := portName 0 1 0 0, msg := 3, ctx := 0 }
    let s : State := { posting with eng := { posting.eng with posts := [h] } }
    s.eng.posts.find? (fun q => decide (q.id = 5)) = some h ∧ nameModule h.port = (s.modul : Int) ∧ s.scope.cfgs = [] ∧
      (match s.portAt h.port with | .at_ u _ p => decide (u.onCore = true ∧ p.held.length + p.reserved < p.depth) | _ => false) = true ∧
      idle.gated 0 = false ∧ idle.nextPattern 0 = none ∧ posting.gated 0 = false ∧ (posting.nextPattern 0).map (fun p => (p.1.key, p.2)) = some (1, 0) ∧
      posting.eng.posts = [] := by
  refine ⟨?_, ?_, ?_, ?_, ?_, ?_, ?_, ?_, ?_⟩ <;> decide +kernel

/-- A port of this module for which a post is held. -/
theorem meets_FiredPosts :
    let h : HeldPost := { id := 5, port := portName 0 1 0 0, msg := 3, ctx := 0 }
    let s : State := { posting with eng := { posting.eng with posts := [h] } }
    s.portNameFault h.port = none ∧ nameModule h.port = (s.modul : Int) ∧ ∃ q ∈ s.eng.posts, q.port = h.port := by
  refine ⟨by decide +kernel, by decide +kernel, _, List.mem_singleton.mpr rfl, rfl⟩

/-- The grid's team whose gang has ended, and the team that has ended. -/
def finished (ended : Bool) : State :=
  { idle with teams := idle.teams.map fun u => { u with gangs := [], ended := ended },
              grids := [{ grid with endedTeams := if ended then 1 else 0 }] }

/-- A grid that awaits its first team, of high priority if the launch record says so, since a cycle. -/
def pending (prio : Int) (now : Nat) : State :=
  { idle with teams := if prio = 0 then [] else idle.teams, grids := [grid, { grid with num := 1, next := 0, launch := grid.launch.set 0 (prio * pow3 50 + grid.dbl 0) }],
              trust := { idle.trust with ready := setZ 128 1 (setZ 0 1 []) }, clock := { idle.clock with cycle := now } }

/-- LAUNCH of a record in the scratchpad, a team's two ends, the completion of its grid. -/
theorem meets_Grids :
    let s := stored (pick idle [8]) 0 demoLaunch
    let x := iss s
    let u : Uses := { Uses.none with accs := x.cardAccs 1 27 81 }
    Issues s false s x ∧ x.slices.Nodup ∧ x.team.leader = some 0 ∧ x.grid.depth < 13 ∧ Admits s x u (places s u) [] ∧
      (match s.launchSlice x 8 (digits 54 27 (ofTrytes (readAt s false (places s u) [] 0))) with | .ok _ => true | .error _ => false) = true ∧
      ((finished false).team? 1).map (fun u => (u.ended, u.place, u.pats.map u.holdsPat)) = some (false, .resident, []) ∧
      ((finished true).team? 1).map Team.ended = some true ∧ (finished true).landingDue 1 = false ∧ (finished true).eng.redms = [] ∧
      (finished true).eng.stores = [] ∧ (finished true).racqWaits 0 = false ∧
      (let t := { finished true with teams := [] }
       (t.grid? 0).map (fun g => (g.complete, decide (g.endedTeams = g.teams), decide (g.dbl 7 = 0))) = some (false, true, true) ∧ t.gridBusy 0 = false ∧
         t.xlate.parked = []) :=
  ⟨issues _ _ (by decide +kernel), by decide +kernel, by decide +kernel, by decide +kernel, admits _ _ _ _ (by decide +kernel) (by decide +kernel) (by decide +kernel),
    by decide +kernel, by decide +kernel, by decide +kernel, by decide +kernel, by decide +kernel, by decide +kernel, by decide +kernel, by decide +kernel⟩

/-! ### The distributor, the host, the fabric and reductions -/

/-- A grid that asks for a whole scratchpad beside teams on every core of the one cluster in service. -/
def starving : State :=
  { idle with
    teams := (List.range 8).map fun k => { Team.fresh idle grid (k + 1) k k 0 0 [0] with lastCore := k },
    grids := [{ grid with launch := grid.launch.set 3 (8 * pow3 50 + grid.dbl 3) },
              { grid with num := 1, next := 0, launch := (grid.launch.set 0 (pow3 50 + grid.dbl 0)).set 4 531441 }],
    ctxs := [{ demoCtx with phaseLen := 20000000 }],
    trust := { idle.trust with ready := setZ 128 1 (setZ 0 1 []) }, clock := { idle.clock with cycle := 177147 } }

/-- A grid whose only team is next, with nothing else on the module. -/
def placing : State :=
  { idle with teams := [], grids := [{ grid with next := 0 }], ctxs := [{ demoCtx with phaseLen := 1940355 }], trust := { idle.trust with ready := setZ 128 1 (setZ 0 1 []) } }

theorem meets_Placements :
    (placing.firstPending.map Pend.item) = some (.fresh 0 0) ∧ (placing.grid? 0).map (fun g => decide (g.group ≤ 1)) = some true ∧
      (placing.firstPending.bind placing.placeItem).isSome = true ∧
      (∀ u ∈ starving.teams, u.place ≠ .saving) ∧ starving.starved.length = 1 ∧ (∀ p ∈ starving.starved, (starving.saveCore p).isSome = true) ∧
      (let s := starving.modTeam 1 fun u => { u with place := .saving }
       (s.team? 1).map s.saveReady = some true) := by
  refine ⟨?_, ?_, ?_, ?_, ?_, ?_, ?_⟩ <;> decide +kernel

/-- Bytes of BAR0 put by offset, on a host port 1 that is ready. -/
def hosting (ws : List (Nat × List Nat)) : State :=
  let s := { idle with trust := { idle.trust with ready := setZ 128 1 (setZ 0x90 1 (setZ 0x91 1 [])) } }
  s.modPort 1 fun h => ws.foldl (fun h w => h.put w.1 w.2) h

/-- Queue 26 with two entries from 39,366 - 19,683 on, of which one waits; st is its state. -/
def queued (st : Nat) : State :=
  hosting [(queueOff 26, [19683 % 256, 19683 / 256, 0, 0, 0, 0, 0, 0, 2, 0, 0, 0, 0, 0, 0, 0, st, 2]), (queueOff 26 + 32, [1, 0, 0, 0, 0, 0, 0, 0])]

/-- A write held at the port. -/
def heldWrite : HeldReq := .write ⟨1, 0, 0, [], true⟩ ⟨0, 0, 0, 0, 0, 0, 0, 0⟩

theorem meets_HostQueues :
    let s := queued 1
    let h := s.port 1
    let e := s.modPort 1 fun g => { g with held := [heldWrite] }
    let v : Serving := { queue := 26, status := 1, grid := 5, told := false }
    let served := s.modPort 1 fun g => { g with serving := some v }
    s.portReady 1 = true ∧ s.hosts.length = 2 ∧ h.qTail 26 < 2 ^ 32 ∧ h.held.any HeldReq.isWrite = false ∧ (e.port 1).held.any HeldReq.isWrite = true ∧
      h.serving = none ∧ h.nextQueue = some 26 ∧ s.xlate.parked = [] ∧ s.ctx? (h.qCtx 26) = some demoCtx ∧ s.mem.upsets = [] ∧
      (match s.queueTry 1 26 demoCtx 19683 with | .status st _ _ _ => decide (st < 0) | _ => false) = true ∧
      (served.port 1).serving = some v ∧ s.waitsOf (queueParker 1 26 2) = [] ∧
      (∀ o ∈ [(162 : Int), 168], ∃ ls, entryAt s demoCtx (19683 + o) ls) ∧ 1 ≤ h.qEntries 26 ∧ h.qEntries 26 ≤ 729 ∧ served.entryWrites 1 demoCtx 19683 v ≠ served := by
  refine ⟨?_, ?_, ?_, ?_, ?_, ?_, ?_, ?_, ?_, ?_, ?_, ?_, ?_, ?_, ?_, ?_, ?_⟩ <;> try decide +kernel
  intro o ho
  simp only [List.mem_cons, List.not_mem_nil, or_false] at ho
  rcases ho with rfl | rfl
  · exact ⟨(List.range 6).map fun i => .hbm (19683 * 24 + 162 + i), by decide +kernel, fun l hl => by
      obtain ⟨i, _, rfl⟩ := List.mem_map.mp hl; exact ⟨_, rfl, by simp [State.badLoc, show (queued 1).mem.badLines = [] by decide +kernel]⟩⟩
  · exact ⟨(List.range 6).map fun i => .hbm (19683 * 24 + 168 + i), by decide +kernel, fun l hl => by
      obtain ⟨i, _, rfl⟩ := List.mem_map.mp hl; exact ⟨_, rfl, by simp [State.badLoc, show (queued 1).mem.badLines = [] by decide +kernel]⟩⟩

/-- The last page below 0 mapped for the device, and two ports that are ready. -/
def kernel : State :=
  let s := hosting []
  let at_ (f i : Nat) (e : Int) (m : ZMap) : ZMap := setRangeZ (19683 * f + 6 * i) (toTrytes 6 e) m
  { s with mem := { s.mem with hbm := at_ 6 9841 (13 * pow3 38) (at_ 13 19682 (19 * pow3 38) (at_ 19 19682 (26 * pow3 38 + pow3 28 + pow3 23 + pow3 22) s.mem.hbm)) } }

/-- A context with its fault log in that page. -/
def newCtx : CtxCreate :=
  { number := 728, agency := 242, priv := false, userRoot := 0, privRoot := 6, faultLog := -19683, phaseBase := -19683, phaseLen := 729 }

theorem meets_HostRegisters :
    kernel.portReady 1 = true ∧ kernel.hosts.length = 2 ∧ (kernel.port 1).ringing = false ∧ (kernel.port 0).ringing = false ∧
      kernel.createOk newCtx = true ∧ kernel.ctx? 728 = none ∧ kernel.mem.upsets = [] ∧ kernel.waitsOf (commandParker 1) = [] ∧
      kernel.createOk { newCtx with number := 0 } = true ∧ (kernel.ctx? 0).isSome = true ∧ (kernel.ctx? 0).map kernel.ctxBusy = some true ∧
      (let t : State := { kernel with teams := [], grids := [] }
       (t.ctx? 0).map t.ctxBusy = some false) ∧
      (kernel.ctx? 0).map (fun c => decide (c.landing.length < 27)) = some true ∧
      idle.portReady 0 = false ∧ ((queued 1).port 1).qState 26 ≠ 0 ∧ ((queued 1).port 1).held.any HeldReq.isWrite = false := by
  refine ⟨?_, ?_, ?_, ?_, ?_, ?_, ?_, ?_, ?_, ?_, ?_, ?_, ?_, ?_, ?_, ?_⟩ <;> decide +kernel

theorem meets_ContextCreate :
    kernel.locate (Who.device { demoCtx with num := 728, priv := true, userRoot := 0, privRoot := 6 }) .store (-19683) 18 = .ok ((List.range 18).map fun i => .hbm (19683 * 26 + i)) := by
  decide +kernel

/-- Window 242 of kind k in format f and type t, of 1,460 bytes from 19,683 on. -/
def windowed (k f t : Nat) : State :=
  hosting [(0x1000 + 32 * 242, [19683 % 256, 19683 / 256, 0, 0, 0, 0, 0, 0, 1460 % 256, 1460 / 256, 0, 0, 0, 0, 0, 0, k, f, t])]

/-- A write of a line, of elements, and reads, to the window's last byte. -/
theorem meets_Windows :
    (∀ w ∈ [(1, 0, 0), (2, 4, 1), (3, 10, 5), (4, 0, 0)], let s := windowed w.1 w.2.1 w.2.2
      s.portReady 1 = true ∧ s.hosts.length = 2 ∧ s.mem.upsets = [] ∧ (s.winFor 1 242 1314 146).map Win.kind = some w.1 ∧
      (s.port 1).held.any (fun g => decide (g.window = some 242)) = false) ∧
      (windowed 1 0 0).winFor 1 242 1315 146 = none ∧ (windowed 1 0 0).ctx? 0 = some demoCtx ∧
      (match (windowed 1 0 0).hostTry demoCtx (winParker 1 242) true (19683 + 729) 81 fun _ => true with | .ok ls _ => decide (ls.length = 81) | _ => false) = true ∧
      (match (windowed 1 0 0).hostTry demoCtx (winParker 1 242) true (2 * 39366) 81 fun _ => true with | .refused => true | _ => false) = true ∧
      (match (windowed 2 4 1).hostTry demoCtx (winParker 1 242) false 19683 8 fun _ => false with | .ok _ _ => true | _ => false) = true ∧
      (windowed 4 0 0).physLine 252 = true ∧ (windowed 4 0 0).physLine (3 ^ 20) = false := by
  refine ⟨?_, ?_, ?_, ?_, ?_, ?_, ?_, ?_⟩ <;> decide +kernel

theorem leNat_leBytes (n v : Nat) (h : v < 256 ^ n) : leNat (leBytes n v) = v := by
  induction n generalizing v with
  | zero => simp at h; simp [h, leNat, leBytes]
  | succ n ih =>
    have := ih (v / 256) (by rw [Nat.div_lt_iff_lt_mul (by decide)]; rw [pow_succ] at h; exact h)
    simp only [leBytes, leNat, List.foldr_cons] at *
    rw [this]
    simp only [BitVec.toNat_ofNat]
    omega

/-- Every byte of a flit that carries nothing but its check. -/
def flitHead : List Byte := leBytes 2 1 ++ leBytes 2 0 ++ [4, 0] ++ List.replicate 162 0

/-- A flit of no payload from module 0 to module 1, the first of its link. -/
def emptyFlit : Flit := { bytes := flitHead ++ leBytes 8 (Config.linkCrc flitHead).toNat, msg := .nothing }

theorem emptyFlit_sound : flitCorrupt emptyFlit = false := by
  have hl : flitHead.length = 168 := by decide +kernel
  have ht : emptyFlit.bytes.take 168 = flitHead := by simp [emptyFlit, ← hl]
  have hd : emptyFlit.bytes.drop 168 = leBytes 8 (Config.linkCrc flitHead).toNat := by simp [emptyFlit, ← hl]
  have hn : emptyFlit.bytes.length = 176 := by simp [emptyFlit, hl, leBytes]
  have hc : leNat (leBytes 8 (Config.linkCrc flitHead).toNat) = (Config.linkCrc flitHead).toNat := leNat_leBytes _ _ (by
    have := (Config.linkCrc flitHead).isLt; omega)
  have h4 : flitByte emptyFlit 4 = 4 := by rfl
  have h5 : flitByte emptyFlit 5 = 0 := by rfl
  have h6 : (emptyFlit.bytes.drop 162).take 6 = List.replicate 6 0 := by rfl
  unfold flitCorrupt
  simp [ht, hd, hn, hc, h4, h5, h6]

/-- A module of a domain of two, with the port to the other ready and a request from it. -/
def meshed (r : RemoteReq) : State :=
  { idle with fab := { idle.fab with place := { domain := 0, x := 0, y := 0, z := 0, xs := 2, ys := 1, zs := 1, sys := [] }, found := [1], near := [(0, 1)],
                                     lastRx := setZ 0 5 [], inbox := [⟨1, .request 9 1 0 r⟩] },
              trust := { idle.trust with ready := setZ 0xC1 1 (setZ 0xA0 1 idle.trust.ready) }, clock := { idle.clock with cycle := 3805, fabric := 2005 } }

/-- The other module, as it tells of itself. -/
def otherPlace : Placement := { domain := 0, x := 1, y := 0, z := 0, xs := 2, ys := 1, zs := 1, sys := [] }

theorem meets_FabricFlow :
    let s := meshed (.load 0 81 false)
    s.portLive 0 = true ∧ flitCorrupt ⟨[], .nothing⟩ = true ∧ flitCarries emptyFlit = true ∧ (flitSeq emptyFlit : Int) = getZ 0 s.fab.seqIn ∧
      flitSrc emptyFlit ∉ s.fab.frozen ∧ flitDst emptyFlit ≠ s.modul ∧ s.xlate.parked = [] ∧ s.entering = false ∧
      s.holdsFrames 0 81 = true ∧ s.holdsFrames (3 ^ 24) 81 = false ∧ s.mem.badLines = [] ∧
      portNeighbour s.fab.place 0 = some otherPlace ∧ s.readyByte 0xC1 = 1 ∧ s.readyByte 0xA8 = 0 ∧
      ({ s with trust := { s.trust with ready := setZ 0xC1 1 [] } } : State).expects 0 otherPlace = true ∧ s.expects 8 otherPlace = false ∧
      getZ 0 s.fab.lastRx + 2000 ≤ s.clock.fabric ∧ s.fab.queue = [] ∧ s.routeTo 0 1 = some 0 := by
  refine ⟨?_, ?_, ?_, ?_, ?_, ?_, ?_, ?_, ?_, ?_, ?_, ?_, ?_, ?_, ?_, ?_, ?_, ?_, ?_⟩ <;> decide +kernel

/-- A port with a credit for a class of messages, and one without. -/
theorem meets_FabricCredits (m : FlitMsg) :
    let s := meshed (.load 0 81 false)
    let spent : State := { s with fab := { s.fab with credits := setZ (creditKey 0 m) (-(Config.linkCredits 0 ((msgClasses m).headD 7) : Int) - 1) [] } }
    s.hasCredit 0 m = true ∧ spent.hasCredit 0 m = false := by
  intro s spent
  have e : s.fab.credits = [] := by decide +kernel
  refine ⟨?_, ?_⟩
  · simp only [State.hasCredit, e, decide_eq_true_eq]
    show 0 < _ + 1 + 0
    omega
  · have : getZ (creditKey 0 m) spent.fab.credits = -(Config.linkCredits 0 ((msgClasses m).headD 7) : Int) - 1 := getZ_setZ_same _ _ _
    simp only [State.hasCredit, this, decide_eq_false_iff_not]
    omega

/-- The other module cut off, an announcement of it, and 27 refusals within a second. -/
theorem meets_Fencing :
    let s := meshed (.load 0 81 false)
    let down := { s with trust := { s.trust with ready := [] }, fab := { s.fab with lost := [(1, 0)], inbox := [⟨1, .fence 1⟩] }, clock := { s.clock with fabric := 100000 } }
    let fatal := { s with fab := { s.fab with fatal := true } }
    let hot := { s with fab := { s.fab with refusals := List.replicate 27 (1, -999997994) } }
    1 ∉ down.fab.fenced ∧ down.scope.cfgs = [] ∧ down.inDomain 1 = true ∧ (∃ l ∈ down.fab.lost, l.1 = 1 ∧ l.2 + 100000 ≤ down.clock.fabric) ∧
      fatal.modul ∉ fatal.fab.fenced ∧ fatal.fab.fatal = true ∧ 1 ∉ hot.fab.frozen ∧
      27 ≤ (hot.fab.refusals.filter fun r => decide (r.1 = 1) && decide (hot.clock.fabric - r.2 < 1000000000)).length := by
  refine ⟨?_, ?_, ?_, ?_, ?_, ?_, ?_, ?_⟩ <;> decide +kernel

/-- A card of one word summed at module 0, its list of that module alone, in the code page, its deadline at 100. -/
def redCard (dest : Int) : List Int := [0, 77, 1, 19683, 19764, dest, 20412, 1, 100] ++ List.replicate 18 0

/-- REDSUB of the card, REDQRY, and the contribution's source. -/
theorem meets_ReductionCommands :
    let s := stored (pick idle [8]) 0 (redCard 0)
    let x := iss s
    let u : Uses := { Uses.none with dests := x.sDests 4, accs := x.cardAccs 1 27 81 }
    let r : RedSub := { num := 1, team := 1, card := redCard 0, members := [0], vals := [], word := 0, core := 0, gang := 0, slice := 8, at_ := 0, state := 0 }
    let t : State := { idle with ctxs := [{ demoCtx with redSeq := 1, reds := [r] }] }
    Issues s false s x ∧ x.slices.Nodup ∧ Admits s x u (places s u) [] ∧ x.gang.pending = [] ∧
      (match s.redsubSlice x 8 (digits 54 27 (ofTrytes (readAt s false (places s u) [] 0))) with | .ok ms => decide (ms = [0]) | .error _ => false) = true ∧
      t.mayStart 0 1 0 = true ∧ t.mem.upsets = [] ∧
      (match t.engineRead { ctx := { demoCtx with redSeq := 1, reds := [r] }, team := t.team? 1, gang := 0, lane := none, core := some 0 } (.source 0 1) .load 19683 3 [] with
        | .ok vs _ _ => decide (vs = [0, 0, 0]) | _ => false) = true :=
  ⟨issues _ _ (by decide +kernel), by decide +kernel, admits _ _ _ _ (by decide +kernel) (by decide +kernel) (by decide +kernel), by decide +kernel, by decide +kernel,
    by decide +kernel, by decide +kernel, by decide +kernel⟩

/-- A reduction open at its root or at a stage. -/
def openRed (dest : Int) (doing : RedDoing) (written : Bool) (late : List RedPart) : RedOpen :=
  { key := 77, card := redCard dest, members := [0], agency := 0, parts := [⟨0, 0, 0, 1, [5]⟩], kids := [0], fell := false, lateOpen := false, written := written,
    map := [1], took := [(0, 0, 1)], late := late, due := [], doing := doing, plan := [], closed := none }

/-- The module with that reduction, a code page whose second line counts, and contributions on their way. -/
def reduced (rs : List RedOpen) (c : List Contribution) (now : Int) : State :=
  { idle with reds := rs, clock := { idle.clock with fabric := now }, fab := { idle.fab with inbox := c.map fun c => ⟨0, .contribution c⟩ } }

/-- A contribution in time at a stage, with and without its subtree's others, at the root first, again and refused; the flag that falls at both. -/
theorem meets_ReductionStages :
    let c (dest : Int) : Contribution := ⟨redCard dest, [0], [⟨0, 0, 0, 1, [5]⟩], false⟩
    let s := reduced [] [c 0] 99
    let two := reduced [{ openRed 0 .nothing false [] with members := [0, 1], map := [0, 1], took := [(1, 0, 1)] }] [⟨redCard 0, [0, 1], [⟨0, 0, 0, 1, [5]⟩], false⟩] 99
    redDest (c 1).card ≠ s.modul ∧ s.clock.fabric < redDeadline (c 1).card ∧ (reduced [] [c 1] 99).red? false 77 = none ∧
      redDest (c 0).card = s.modul ∧ s.redAccepts (c 0).card ⟨0, 0, 0, 1, [5]⟩ = true ∧ s.redAccepts (c 0).card ⟨1, 0, 0, 1, [5]⟩ = false ∧ s.red? true 77 = none ∧
      s.lateOfClosed 77 0 = false ∧ (two.red? true 77).map (fun r => (cardsAgree r.card (redCard 0), r.members, r.map)) = some (true, [0, 1], [0, 1]) ∧
      (reduced [openRed 0 .nothing false []] [] 100).red? true 77 = some (openRed 0 .nothing false []) ∧ redDeadline (redCard 0) ≤ 100 ∧
      (reduced [openRed 1 .nothing false []] [] 100).red? false 77 = some (openRed 1 .nothing false []) ∧
      (reduced [openRed 1 .nothing false []] [] 100).red? true 77 = none ∧ (two.red? true 77).map two.closing = some false := by
  refine ⟨?_, ?_, ?_, ?_, ?_, ?_, ?_, ?_, ?_, ?_, ?_, ?_, ?_, ?_⟩ <;> decide +kernel

/-- A root that is to write its result, that is to signal, that has a late contribution to apply, that is to close, and a map to forget. -/
theorem meets_RootWrites :
    let s := reduced [openRed 0 .nothing false []] [] 99
    let late := reduced [openRed 0 .nothing true [⟨0, 0, 0, 2, [1]⟩]] [] 99
    let done := reduced [openRed 0 .nothing true []] [] 99
    s.red? true 77 = some (openRed 0 .nothing false []) ∧ s.mem.upsets = [] ∧ s.xlate.parked = [] ∧ s.redCtx (redCard 0) = some demoCtx ∧ s.rootReady (openRed 0 .nothing false []) = true ∧
      s.redLocate demoCtx .store [(19764, 3)] = [(19764, 3, .ok [.hbm 472473, .hbm 472474, .hbm 472475])] ∧
      (late.red? true 77).map RedOpen.late = some [⟨0, 0, 0, 2, [1]⟩] ∧ (done.red? true 77).map (fun r => (r.written, r.plan.length, r.map)) = some (true, 0, [1]) ∧
      (reduced [openRed 0 .signal true []] [] 99).rootSignal (openRed 0 .signal true []) ≠ reduced [openRed 0 .signal true []] [] 99 ∧
      ({ openRed 0 .nothing true [] with closed := some 0 } : RedOpen).closed = some 0 := by
  refine ⟨?_, ?_, ?_, ?_, ?_, ?_, ?_, ?_, ?_, ?_⟩ <;> decide +kernel

/-! ### Debugging, tracing, boot, attestation, health and time -/

/-- The name of the team's gang 0. -/
def gangZero : Int := gangName 0 1 0

/-- The gang's sub-gang of slices 7 and 8 in a sweep that goes on, and slice 0 chosen. -/
def midSweep : State :=
  (puts (pick idle [0]) 5 fun _ => gangZero).modGang 1 0 fun g => g.modSlices [7, 8] fun _ y =>
    { y with sweep := some { at_ := 19683, words := [0], done := 1, rnd := .near, mask := 0, fourth := [], bases := [], paused := false } }

/-- A second gang that has been halted, or that an engine's command stops. -/
def otherGang (h : Option Halt) (stop : Bool) : State :=
  puts (twoGangs.modGang 1 1 fun g => { g with halt := h, engStop := stop }) 5 fun _ => gangName 0 1 1

/-- WATCH onto the gang of the greatest range, DBGWIN onto it, HALTG of a gang between instructions and of one in a sweep, RESMG of a halted
gang, and one that an engine's watch stops. -/
theorem meets_Debugging :
    let s := stored (pick idle [8]) 0 [0, 0, 3 ^ 36, gangZero]
    let x := iss s
    let u : Uses := { Uses.none with accs := x.cardAccs 1 4 3 }
    let d := digits 54 4 (ofTrytes (readAt s false (places s u) [] 0))
    let p := puts (pick idle [8]) 5 fun _ => gangZero
    Issues s false s x ∧ x.ctx.priv = true ∧ s.scope.cfgs = [] ∧ Admits s x u (places s u) [] ∧ watchOk d = true ∧ d.getD 3 0 = gangZero ∧
      (s.namedGang gangZero).isSome = true ∧ s.answers x.parker (s.gangReqs liveKey .live [(8, gangZero)]) = .all [] ∧
      Issues p false p (iss p) ∧ p.answers (iss p).parker (p.gangReqs actKey (.attach 8 gangZero) [(8, gangZero)]) = .all [] ∧
      ((p.namedGang gangZero).map fun q => (q.2.halt, p.atBoundary q.1.key q.2 (iss p).slices)) = some (none, true) ∧
      Issues midSweep false midSweep (iss midSweep) ∧
      ((midSweep.namedGang gangZero).map fun q => (q.2.halt, midSweep.atBoundary q.1.key q.2 (iss midSweep).slices)) = some (none, false) ∧
      (let r := otherGang (some .haltg) false
       Issues r false r (iss r) ∧ r.answers (iss r).parker (r.gangReqs actKey .release ((iss r).names 5)) = .all [] ∧
         ((r.namedGang (gangName 0 1 1)).map fun q => (q.2.halt, q.2.edits, q.2.bank.isSome, r.mayRelease q.1 q.2)) = some (some .haltg, [], false, true)) ∧
      (let e := otherGang none true
       ((e.gang? 1 1).map fun g => (g.engStop, g.halt, e.atBoundary 1 g [])) = some (true, none, true) ∧ e.watchedRuns 1 1 = false) :=
  ⟨issues _ _ (by decide +kernel), by decide +kernel, by decide +kernel, admits _ _ _ _ (by decide +kernel) (by decide +kernel) (by decide +kernel),
    by decide +kernel, by decide +kernel, by decide +kernel, by decide +kernel, issues _ _ (by decide +kernel), by decide +kernel, by decide +kernel,
    issues _ _ (by decide +kernel), by decide +kernel, ⟨issues _ _ (by decide +kernel), by decide +kernel, by decide +kernel⟩, by decide +kernel⟩

/-- A control block: the buffer is the page at -19,683, lossless, the write offset at 19,845 and the read offset after it. -/
def traceBlock (agency : Int) : List Int := [agency, -19683, 19683, 1, 3 ^ 8, 9, 19845, 19851, 0]

/-- A configuration of an agency by that block, with what it holds. -/
def traced (agency : Nat) (holds : List Held) (s : State) : State :=
  { s with scope := { s.scope with cfgs := [{ agency := agency, ctx := 0, block := traceBlock agency, offset := 0, last := none, streams := [], wrote := [],
                                              dirty := [], holds := holds, mark := none, owed := [], synced := [] }] } }

/-- A record that a source holds. -/
def heldRecord : Held := { src := 0, cycle := 1, fabric := 1, bound := 0, body := record (-1) 0 0 [1, 2] }

/-- TRCEV of an agency that is traced and of one that is not, TRCCTL start of a block, stop and flush that need not wait and that must, PRFCTL. -/
theorem meets_TraceCommands :
    let s := stored (pick kernel [8]) 0 (traceBlock 0)
    let x := iss s
    let u : Uses := { Uses.none with accs := x.cardAccs 1 9 3 }
    let bs := x.slices.zipIdx.map fun k => (k.1, digits 54 9 (ofTrytes (readAt s false (places s u) [] k.2)))
    let v := puts (traced 242 [heldRecord] (pick kernel [8])) 5 fun _ => 242
    let all (s : State) : Option State := (iss s).slices.foldl (fun o k => o.bind fun s => s.flushTrace ((iss v).s k 5).toNat) (some s)
    Issues s false s x ∧ (x.gang.slice x.low).stall = none ∧ s.cfg? x.ctx.agency = none ∧ x.ctx.priv = true ∧ Admits s x u (places s u) [] ∧
      (∀ b ∈ bs, s.traceFaults x b.1 b.2 = [] ∧ (match s.checkAcc x (offsetAcc b.1 b.2) with | .ok ls => ls.all fun l => !s.badLoc l | _ => false) = true) ∧
      s.answers x.parker (s.offsetReqs x bs) = .all [] ∧ (s.traceStarts x bs).1.isSome = true ∧ (s.traceStarts x bs).2 = [] ∧
      (∀ k ∈ (iss v).slices, 0 ≤ (iss v).s k 5 ∧ (iss v).s k 5 ≤ 242) ∧ v.issuing false = some (v, iss v) ∧ v.heldRecords (iss v).ctx.agency = 0 ∧
      (all v).isSome = false ∧ (all (pick kernel [8])).isSome = true :=
  ⟨issues _ _ (by decide +kernel), by decide +kernel, by decide +kernel, by decide +kernel, admits _ _ _ _ (by decide +kernel) (by decide +kernel) (by decide +kernel),
    by decide +kernel, by decide +kernel, by decide +kernel, by decide +kernel, by decide +kernel, by decide +kernel, by decide +kernel, by decide +kernel, by decide +kernel⟩

/-- A source with work at a multiple of the interval, a record that is held and has room, a sample that is due, clusters that gate at once or
without loss, and one that restarts. -/
theorem meets_TraceSteps :
    let s := traced 0 [heldRecord] { kernel with clock := { kernel.clock with cycle := 3 ^ 9 }, scope := { kernel.scope with sampling := [(0, 9)], gated := [127] } }
    let c := (s.cfg? 0).getD ((s.scope.cfgs.headD { agency := 0, ctx := 0, block := [], offset := 0, last := none, streams := [], wrote := [], dirty := [], holds := [],
                                                     mark := none, owed := [], synced := [] }))
    s.cfg? 0 = some c ∧ (s.clock.cycle % 3 ^ (c.dbl 5).toNat = 0) ∧ c.synced = [] ∧ c.streams = [] ∧ s.worksFor 0 0 = true ∧ c.lossless = true ∧
      (c.holds.find? fun h => decide (h.src = 0)) = some heldRecord ∧ (match s.traceRoom c 12 with | .ok r => decide (10 < r) | _ => false) = true ∧
      c.last ≠ some 0 ∧ recordKind heldRecord.body ≠ 1 ∧ recordKind heldRecord.body ≠ -2 ∧
      s.gated 0 = false ∧ getZ 0 s.scope.sampled < (s.clock.cycle : Int) ∧ (0, 9) ∈ s.scope.sampling ∧ c.on 8 = true ∧
      (∃ u ∈ s.teams, u.core = 0 ∧ u.onCore = true ∧ ∃ g ∈ u.gangs, g.slot % 3 = 0 ∧ g.idx < 27) ∧
      (∀ c ∈ s.scope.cfgs, ∀ h ∈ c.holds, clusterSource 126 h.src = false) ∧ 126 ∉ s.scope.gated ∧ 127 ∈ s.scope.gated ∧ ∀ d ∈ s.trust.temps, d.2 ≤ 95 := by
  refine ⟨?_, ?_, ?_, ?_, ?_, ?_, ?_, ?_, ?_, ?_, ?_, ?_, ?_, ?_, ?_, ?_, ?_, ?_, ?_, ?_⟩ <;> decide +kernel

theorem meets_ClocksAndAccounts : Issues base false base (iss base) ∧ (iss base).clear ((iss base).sDests 71) ∧ (iss base).ctx.priv = true ∧
    (iss base).slices.Nodup ∧ (iss base).slices ≠ [] :=
  ⟨base_issues _, (base_free _ [] (by simp)).2.1, by decide +kernel, by decide +kernel, by decide +kernel⟩

/-- A boot before its first image, with one there and with none, and before its last; a function that may start. -/
theorem meets_ResetAndBoot :
    let m : Image := ⟨[1], [2], [3]⟩
    let boots (n : Nat) (i : Option Image) : State := { State.reset with trust := { State.reset.trust with loaded := n, images := List.replicate 4 i } }
    (∀ k ∈ [ImageKind.stage1, .training], let s := boots (imageIndex k) (some m)
      s.trust.boot = 0 ∧ s.trust.loaded = imageIndex k ∧ s.trust.meas0.length = 9 ∧ s.trust.meas0 = s.trust.meas1 ∧ s.trust.images.getD (imageIndex k) none = some m) ∧
      (boots 0 none).trust.images.getD 0 none = none ∧
      (let s : State := { State.reset with trust := { State.reset.trust with boot := 1, loaded := 4 } }
       s.trust.boot ≠ 3 ∧ (functionPlace (.stack 15)).2 ≤ s.trust.loaded ∧ s.readyByte (functionPlace (.stack 15)).1 = 0) := by
  refine ⟨?_, ?_, ?_⟩ <;> decide +kernel

/-- The slots and blocks at their bounds, a placement record that may stand and one that may not, a snapshot of the last agency. -/
theorem meets_Attestation :
    State.reset.trust.meas0.length = 9 ∧ State.reset.trust.meas0 = State.reset.trust.meas1 ∧
      placementOk { domain := 8, x := 8, y := 8, z := 8, xs := 9, ys := 9, zs := 9, sys := [] } = true ∧
      placementOk { domain := 9, x := 0, y := 0, z := 0, xs := 1, ys := 1, zs := 1, sys := [] } = false ∧
      (List.replicate 32 (0 : Byte)).length = 32 := by
  refine ⟨?_, ?_, ?_, ?_, ?_⟩ <;> decide +kernel

/-- Units under test, with a spare and without one; a core whose error comes while another of its cluster is tested. -/
theorem meets_HealthEvents :
    let tests (l : List TestUnit) : State := { idle with trust := { idle.trust with testing := l } }
    let s := tests [.core 1023, .arrayColumn 8 2, .cacheRow 431 0]
    ¬ ((1 ≤ 5 ∧ 5 ≤ 4) ∧ 0 + 8 = 8) ∧
      (∀ u ∈ [TestUnit.core 1023, .arrayColumn 8 2, .cacheRow 431 0], unitOk u = true ∧ s.underTest u = true ∧ (getZ (sparePool u).1 s.trust.spares).toNat < (sparePool u).2) ∧
      s.teamsOn 1023 = [] ∧
      (let t : State := { s with trust := { s.trust with spares := setZ 127 1 [] } }
       (sparePool (.core 1023)).2 ≤ (getZ (sparePool (.core 1023)).1 t.trust.spares).toNat) ∧
      TestUnit.core 1022 ∉ s.trust.testing ∧ (∃ v ∈ s.trust.testing, unitCluster v = some (1022 / 8)) ∧
      TestUnit.core 0 ∉ s.trust.testing ∧ (∀ v ∈ s.trust.testing, unitCluster v ≠ some (0 / 8)) ∧
      (∃ a ∈ s.teams, a.core = 0 ∧ a.place = .resident ∧ a.ended = false) ∧ getZ 17 s.trust.temps ≤ 75 := by
  refine ⟨?_, ?_, ?_, ?_, ?_, ?_, ?_, ?_, ?_, ?_⟩ <;> decide +kernel

/-- An exchange that has an answer to come, a die that is locked, and counts that are due. -/
theorem meets_TimeAndCounting :
    let q : PtpState := { seq := 7, left := some 0, came := 0, asked := some 0 }
    let s : State := { idle with clock := { idle.clock with cycle := 19683, ptp := q, bounds := List.replicate 18 0 } }
    s.clock.ptp.left = some 0 ∧ s.clock.ptp.asked = some 0 ∧ s.clock.ptp.seq = 7 ∧ -((q.came - 0 - (2000002 - 0)) / 2) > (1000000 : Int) ∧
      -((q.came - 0 - (2 - 0)) / 2) ≤ (1000000 : Int) ∧ s.reds = [] ∧ s.scope.cfgs = [] ∧ 0 ≤ s.clock.bounds.getD 17 (-1) ∧
      s.hub.energyAt / 19683 < s.clock.cycle / 19683 ∧ s.hub.resAt < s.clock.cycle ∧ (∃ c ∈ s.ctxs, c.agency < 243 ∧ s.slotsOf c.agency ≠ 0) := by
  refine ⟨?_, ?_, ?_, ?_, ?_, ?_, ?_, ?_, ?_, ?_, ?_⟩ <;> decide +kernel
/-- Words written out from R44, R61 and the instructions' tables (scalar families). -/
theorem test_words_Scalar :
  decode [wordOf [0,1,0,0,0,1,0,0,0,1,0,0,0,1,1,0,0,0,0,0,0,0,-1,1,1,1,1]] = .ok (.ldI54 ⟨3, 4, -2, 13⟩, 1) ∧
  decode [wordOf [0,1,-1,0,0,0,1,0,0,0,1,0,0,1,-1,0,0,0,0,0,0,0,0,0,0,0,0]] = .ok (.jalr 1 2, 1) ∧
  decode [wordOf [0,1,-1,-1,0,0,0,0,0,0,1,0,0,0,0,0,0,0,0,0,0,0,0,0,0,1,0]] = .ok (.call 1 3, 1) ∧
  decode [wordOf [0,1,-1,1,0,1,0,0,0,1,0,0,0,0,0,0,0,0,0,0,0,0,0,0,1,1,1]] = .ok (.rdsr 3 .time, 1) ∧
  decode [wordOf [0,1,-1,1,0,-1,0,0,0,1,0,0,0,0,0,0,0,0,0,0,0,0,0,0,1,1,-1]] = .ok (.wrsr 3 .flags, 1) ∧
  decode [wordOf [0,0,1,-1,0,0,-1,0,0,1,0,0,0,0,0,-1,-1,-1,-1,-1,-1,-1,-1,-1,-1,-1,-1]] = .ok (.ldi ⟨none, 3, 0, -265720⟩, 1) := by
  refine ⟨?_, ?_, ?_, ?_, ?_, ?_⟩ <;> decide +kernel

/-- Words written out from R44, R61 and the instructions' tables (vector families). -/
theorem test_words_Vector :
  decode [wordOf [1,-1,-1,0,0,1,-1,0,0,0,-1,0,0,1,1,0,0,0,0,0,0,0,0,-1,0,0,1]] = .ok (.vsqrt ⟨none, .regs 80 4 0, 0, 26, .f27⟩, 1) ∧
  decode [wordOf [1,-1,-1,1,0,0,0,0,0,1,0,0,0,1,1,0,0,-1,-1,0,-1,0,0,0,0,0,1]] = .ok (.cvt ⟨none, 3, 4, .f27, .f18, 8⟩, 1) ∧
  decode [wordOf [1,-1,0,-1,0,1,1,0,0,0,-1,0,0,0,-1,0,0,0,-1,0,0,0,0,0,0,0,0]] = .ok (.mcnt 26 8 (-1), 1) ∧
  decode [wordOf [1,-1,0,0,0,0,-1,1,1,1,1,0,0,0,0,-1,-1,-1,-1,-1,-1,-1,-1,-1,-1,-1,-1]] = .ok (.vldi ⟨none, .regs 40 0, -265720⟩, 1) ∧
  decode [wordOf [1,-1,0,1,0,0,-1,0,1,0,0,0,0,1,-1,1,1,1,1,1,1,1,1,1,0,0,0]] = .ok (.vst ⟨none, 9, 2, 9841, 0⟩, 1) ∧
  decode [wordOf [-1,1,1,-1,-1,1,-1,0,1,-1,1,0,0,1,1,0,0,0,0,0,1,-1,1,-1,0,0,0]] = .ok (.stbZ32 ⟨none, 7, 4, 20⟩, 1) := by
  refine ⟨?_, ?_, ?_, ?_, ?_, ?_⟩ <;> decide +kernel

/-- Words written out from R44, R61 and the instructions' tables (prefixed families). -/
theorem test_words_Prefixed :
  decode [wordOf [0,1,1,1,-1,-1,-1,-1,-1,-1,-1,0,1,0,0,0,0,0,0,0,-1,0,0,0,0,0,0], wordOf [1,-1,-1,-1,0,0,0,0,0,0,1,0,0,1,-1,0,0,1,0,0,0,0,0,0,0,0,0]] = .ok (.vadd ⟨none, .swept ⟨1, 81, -3, 0⟩ 1 2 3, 0, 0, .i27⟩, 2) ∧
  decode [wordOf [0,1,1,0,0,1,0,-1,1,-1,0,0,0,0,0,1,0,0,0,0,0,0,0,0,0,0,0], wordOf [0,1,1,1,-1,-1,-1,-1,-1,-1,-1,1,0,0,0,0,0,0,0,0,1,0,0,0,0,0,0], wordOf [1,-1,0,0,0,0,0,0,0,1,0,0,0,1,1,0,0,0,0,0,0,0,0,0,0,0,-1]] = .ok (.vaddi ⟨some ⟨1, .zero, some .up, none, true⟩, .swept ⟨2, 0, 3, 0⟩ 3 4, -1⟩, 3) := by
  refine ⟨?_, ?_⟩ <;> decide +kernel

/-- Words written out from R44, R61 and the instructions' tables (engines families). -/
theorem test_words_Engines :
  decode [wordOf [1,0,0,1,0,-1,-1,0,0,0,-1,0,0,0,1,0,0,0,0,0,0,0,0,0,0,0,0]] = .ok (.tktake 26 1, 1) ∧
  decode [wordOf [1,0,0,0,1,-1,-1,0,0,1,1,0,1,0,0,1,-1,0,0,0,0,0,0,0,0,1,0]] = .ok (.mxmF27 ⟨4, 9, 18⟩ (some .stoch), 1) ∧
  decode [wordOf [-1,1,1,1,1,-1,1,0,0,1,0,0,0,1,1,0,1,-1,-1,0,0,0,0,0,0,0,0]] = .ok (.yield 3 4 5, 1) ∧
  decode [wordOf [-1,1,1,0,1,-1,0,0,0,1,0,0,0,1,1,0,0,0,0,0,0,0,0,0,0,0,0]] = .ok (.jobqry 3 4, 1) ∧
  decode [wordOf [-1,1,0,1,0,-1,0,0,0,1,0,0,0,1,1,0,1,-1,-1,1,0,0,0,0,0,0,0]] = .ok (.tlbinv 3 4 5 .hop3, 1) ∧
  decode [wordOf [-1,0,0,0,1,0,-1,0,0,1,0,0,0,1,1,0,1,-1,-1,0,0,0,0,0,0,0,0]] = .ok (.sigbind 3 4 5, 1) ∧
  decode [wordOf [-1,0,0,-1,0,1,0,0,0,1,0,0,0,1,1,0,0,0,0,0,0,0,0,0,0,0,0]] = .ok (.redqry 3 4, 1) ∧
  decode [wordOf [-1,0,-1,1,0,1,0,0,0,1,0,0,0,0,0,0,0,0,0,0,0,0,0,0,1,-1,0]] = .ok (.prfctl 3 6, 1) ∧
  decode [wordOf [-1,0,-1,1,1,-1,1,0,0,1,0,0,0,0,0,0,0,0,0,0,0,0,0,0,0,0,1]] = .ok (.timerd 3 .skew, 1) := by
  refine ⟨?_, ?_, ?_, ?_, ?_, ?_, ?_, ?_, ?_⟩ <;> decide +kernel

/-- The encoding cases of R62 and their causes (R63); a word that meets several gets the one highest in the table. -/
theorem test_causes :
  decode [wordOf [0,0,0,0,0,0,0,0,0,0,0,0,0,0,0,0,0,0,0,0,0,0,0,0,0,0,0]] = .error .unassignedMajor ∧
  decode [wordOf [0,0,0,1,1,0,0,0,0,1,0,0,0,1,1,0,1,-1,-1,0,0,0,0,0,0,0,0]] = .error .unassignedMinor ∧
  decode [wordOf [0,1,1,0,0,0,0,0,0,0,0,0,1,1,0,0,0,0,0,0,0,0,0,0,0,0,0], wordOf [0,0,0,1,0,0,0,0,0,1,0,0,0,1,1,0,1,-1,-1,0,0,0,0,0,0,0,0]] = .error .reservedField ∧
  decode [wordOf [0,0,0,1,0,0,0,1,1,1,1,0,0,1,1,0,1,-1,-1,0,0,0,0,0,0,0,0]] = .error .regRange ∧
  decode [wordOf [0,0,0,1,0,0,0,0,0,1,0,0,0,1,1,0,1,-1,-1,0,0,0,0,0,0,0,1]] = .error .typeNotAccepted ∧
  decode [wordOf [0,0,1,0,-1,1,1,0,0,1,0,0,0,0,0,0,0,0,0,0,0,0,0,0,0,0,0]] = .error .reservedCode ∧
  decode [wordOf [0,1,1,1,0,0,0,0,0,0,0,0,0,0,0,0,0,0,0,0,0,0,0,0,0,0,0], wordOf [0,0,0,1,0,0,0,0,0,1,0,0,0,1,1,0,1,-1,-1,0,0,0,0,0,0,0,0]] = .error .prefixMisuse ∧
  decode [wordOf [0,0,0,1,0,0,0,0,0,1,0,0,0,1,1,0,1,-1,-1,0,0,0,0,1,0,0,0]] = .error .laNotHonoured ∧
  decode [wordOf [0,0,0,1,0,0,0,1,1,1,1,0,0,1,1,0,1,-1,-1,0,1,0,0,0,0,0,1]] = .error .reservedField := by
  refine ⟨?_, ?_, ?_, ?_, ?_, ?_, ?_, ?_, ?_⟩ <;> decide +kernel

/-- A term that each check of WellFormed refuses. -/
theorem test_illFormed_Scalar : ([
  .addi ⟨none, 3, 4, 265721⟩,
  .ldI27 ⟨3, 4, 9842, 0⟩,
  .b .gt 7 21523361,
  .b .always 7 1,
  .b3 7 3281 0,
  .call 7 (-21523361),
  .trap 0 21523361,
  .regang 9842,
  .add ⟨some ⟨1, .dflt, none, none, false⟩, .i27, 3, 4, 5, 0⟩,
  .add ⟨some ⟨0, .keep, none, none, false⟩, .i27, 3, 4, 5, 0⟩,
  .add ⟨some ⟨0, .dflt, none, some 3, false⟩, .i27, 3, 4, 5, 0⟩,
  .add ⟨none, .f27, 3, 4, 5, 0⟩,
  .add ⟨none, .i27, 3, 4, 5, 1⟩,
  .tinv ⟨none, .i27, 3, 4, 5, 0⟩,
  .ldi ⟨none, 3, 4, 7⟩,
  .stI27 ⟨3, 4, 0, 1⟩,
  .pf ⟨3, 4, 0, 0⟩] : List Instr).all (fun i => !i.wellFormed) = true := by decide +kernel

/-- A term that each check of WellFormed refuses. -/
theorem test_illFormed_Vector : ([
  .vadd ⟨none, .regs 3 4 5, 0, 0, .i54⟩,
  .vadd ⟨none, .regs 3 4 5, 0, 1, .i27⟩,
  .vabs ⟨none, .regs 3 4 5, 0, 0, .i27⟩,
  .vfma ⟨none, .regs 3 4 5, 0, 0, .f27⟩,
  .vadd ⟨some ⟨0, .dflt, none, some 3, false⟩, .regs 3 4 5, 0, 0, .i27⟩,
  .vadd ⟨some ⟨1, .dflt, none, none, false⟩, .regs 3 4 5, 2, 0, .i27⟩,
  .vadd ⟨none, .swept ⟨0, 0, 0, 0⟩ 3 4 5, 0, 0, .i27⟩,
  .vadd ⟨none, .swept ⟨6561, 0, 0, 0⟩ 3 4 5, 0, 0, .i27⟩,
  .vadd ⟨none, .swept ⟨1, 1, 0, 0⟩ 3 4 5, 0, 0, .i27⟩,
  .vadd ⟨none, .swept ⟨1, 0, 123, 0⟩ 3 4 5, 0, 0, .i27⟩,
  .vmul ⟨none, .swept ⟨1, 0, 0, 0⟩ 3 4 5, 0, 1, .i27⟩,
  .vabs ⟨none, .swept ⟨1, 0, 0, 3⟩ 3 4 0, 0, 0, .i27⟩,
  .vsel3 ⟨some ⟨0, .keep, none, some 3, false⟩, .regs 3 4 5, 0, 0, .i27⟩,
  .vtmin ⟨none, .regs 3 4 5, 0, 0, .f27⟩,
  .vshl ⟨none, .regs 3 4 5, 0, 0, .f27⟩,
  .vsqrt ⟨none, .regs 3 4 0, 0, 0, .i27⟩,
  .vcmp ⟨none, 3, 4, 5, 0, .i9x3⟩,
  .cvt ⟨none, 3, 4, .i27, .i27, 0⟩,
  .vpack ⟨some ⟨0, .dflt, none, some 3, false⟩, 3, 4, 5, 0, 0, .i9x3⟩,
  .vshfl ⟨none, 3, 4, 5, 0, 0, .f27⟩,
  .vunpk ⟨none, 3, 4, 0, 0, .i27⟩,
  .vrotl ⟨none, 3, 4, 5, 0, .f27⟩,
  .vred ⟨none, 3, 4, .add, 0, 0, .i9⟩,
  .vcompr ⟨some ⟨1, .dflt, none, none, false⟩, 3, 4, 1, 0⟩,
  .vidx ⟨none, 3, 0, .f27⟩,
  .vins ⟨some ⟨0, .dflt, none, some 1, false⟩, 3, 4, 0⟩,
  .vext ⟨some ⟨1, .dflt, none, none, false⟩, 3, 4, 5⟩,
  .vaddi ⟨none, .regs 3 4, 265721⟩,
  .vldi ⟨none, .regs 3 4, 1⟩,
  .vaddi ⟨none, .swept ⟨1, 0, 0, 3⟩ 3 4, 1⟩,
  .vcmpi ⟨none, 3, 4, 265721⟩,
  .mcnt 3 4 2] : List Instr).all (fun i => !i.wellFormed) = true := by decide +kernel

/-- A term that each check of WellFormed refuses. -/
theorem test_illFormed_Engine : ([
  .vst ⟨none, 9, 2, 0, 1⟩,
  .vld ⟨none, 9, 2, 9842, 0⟩,
  .vpf ⟨none, 9, 2, 0, 0⟩,
  .vsct ⟨none, 9, 2, 6, 1⟩,
  .ldbS8 ⟨none, 9, 2, -9842⟩,
  .aadd ⟨3, 4, 5, 0, .i9⟩,
  .aswp ⟨3, 4, 5, 0, .f27⟩,
  .redm 3 4 .add .i9x3,
  .tlbinv 3 4 5 .core,
  .tlbinv 3 4 5 .cluster,
  .tlbinv 3 4 5 .die,
  .qnt ⟨none, 3, 4, 5, 0, 0, .i27⟩,
  .rqz ⟨some ⟨0, .dflt, none, some 3, false⟩, 3, 4, 5, 0, 0, .i27⟩,
  .vdot ⟨some ⟨0, .dflt, none, some 3, false⟩, 3, 4, 5, 0, 0, .i27⟩,
  .zpk ⟨some ⟨1, .dflt, none, none, false⟩, 3, 4, 5⟩,
  .zupk ⟨none, 3, 4, 5⟩,
  .patset 3 4 5 5,
  .prfctl 3 5,
  .prfctl 3 19,
  .accrd 3 243 0,
  .accrd 3 0 10,
  .accrdSnapshot 3 243] : List Instr).all (fun i => !i.wellFormed) = true := by decide +kernel

/-- R254's worked example: an integer window of format s16 and type i9. -/
theorem test_integer_window :
    let w : Win := { base := 0, len := 2, ctx := 1, kind := 2, fmt := 2, ty := 1, range := 0, rnd := 0 }
    w.toTernary 0x2EE0 = (9841, true) ∧ w.toTernary 7 = (7, false) ∧ w.toBinary 9841 = (0x2671, false) := by
  refine ⟨?_, ?_, ?_⟩ <;> decide +kernel
end Sys2Proof.Tests
end

/-! Trits, negation and truncation (R2, R4, R5): every law rests on the split of an integer into its n low trits and the rest. -/
namespace Sys2Proof.Proofs.Trits
open Sys2Proof.Machine Sys2Proof.Laws

/-- A value is its n low trits and, above them, what dropping them leaves (R2, R5). -/
theorem wrap_add_dropLow (n : Nat) (z : Int) : wrap n z + pow3 n * dropLow n z = z := by
  have h := Int.emod_add_mul_ediv (z + maxTrits n) (pow3 n)
  unfold wrap dropLow
  omega

theorem dropLow_add_mul (n : Nat) (z r : Int) : dropLow n (z + pow3 n * r) = dropLow n z + r := by
  rw [show z + pow3 n * r = wrap n z + pow3 n * (dropLow n z + r) by linear_combination -wrap_add_dropLow n z]
  exact dropLow_field (wrap_fits n z) _

theorem fits_neg {n : Nat} {z : Int} (h : Fits n z) : Fits n (-z) := by
  obtain ⟨hlo, hhi⟩ := h
  constructor <;> omega

/-- Negation negates the low trits and what stands above them (R4). -/
theorem neg_eq_field (n : Nat) (z : Int) : -z = -wrap n z + pow3 n * -dropLow n z := by
  linear_combination wrap_add_dropLow n z

theorem wrap_neg (n : Nat) (z : Int) : wrap n (-z) = -wrap n z := by
  rw [neg_eq_field n z, wrap_field, wrap_of_fits (fits_neg (wrap_fits n z))]

theorem dropLow_neg (n : Nat) (z : Int) : dropLow n (-z) = -dropLow n z := by
  rw [neg_eq_field n z, dropLow_field (fits_neg (wrap_fits n z))]

@[simp] theorem wrap_zero_width (z : Int) : wrap 0 z = 0 := by
  simp [wrap, pow3, maxTrits]

@[simp] theorem dropLow_zero_width (z : Int) : dropLow 0 z = z := by
  simp [dropLow, pow3, maxTrits]

theorem pow3_eq (n : Nat) : pow3 n = 3 ^ n := by
  simp [pow3]

theorem wrap_zero (n : Nat) : wrap n 0 = 0 :=
  wrap_of_fits ⟨by have := maxTrits_nonneg n; omega, maxTrits_nonneg n⟩

theorem dropLow_zero (n : Nat) : dropLow n 0 = 0 := by
  simpa [wrap_zero, (pow3_pos n).ne'] using wrap_add_dropLow n 0

/-! ### Single trits -/

theorem eq_of_fits_one {t : Int} (h : Fits 1 t) : t = -1 ∨ t = 0 ∨ t = 1 := by
  obtain ⟨hlo, hhi⟩ : -1 ≤ t ∧ t ≤ 1 := h
  omega

theorem tritAt_fits (i : Nat) (z : Int) : Fits 1 (tritAt i z) := wrap_fits 1 _

theorem tritAt_zero (z : Int) : tritAt 0 z = wrap 1 z := by
  simp [tritAt, sub]

theorem tritAt_dropLow (k i : Nat) (z : Int) : tritAt i (dropLow k z) = tritAt (i + k) z := by
  rw [tritAt, tritAt, sub, sub, Nat.add_comm, dropLow_add]

theorem tritAt_neg (i : Nat) (z : Int) : tritAt i (-z) = -tritAt i z := by
  rw [tritAt, tritAt, sub, sub, dropLow_neg, wrap_neg]

/-- Trit i is the lowest of what dropping i trits leaves. -/
theorem dropLow_eq_tritAt_add (i : Nat) (z : Int) : dropLow i z = tritAt i z + 3 * dropLow (i + 1) z := by
  rw [dropLow_add]
  exact (wrap_add_dropLow 1 (dropLow i z)).symm

theorem tritAt_zero_cons {d : Int} (h : Fits 1 d) (r : Int) : tritAt 0 (d + 3 * r) = d := by
  rw [tritAt_zero]
  exact (wrap_field 1 d r).trans (wrap_of_fits h)

theorem tritAt_succ_cons {d : Int} (h : Fits 1 d) (i : Nat) (r : Int) : tritAt (i + 1) (d + 3 * r) = tritAt i r := by
  rw [← tritAt_dropLow]
  exact congrArg (tritAt i) (dropLow_field h r)

/-! ### Lists of trits -/

theorem trits_eq_map_tritAt (n : Nat) (z : Int) : trits n z = (List.range n).map fun i => tritAt i z := by
  induction n generalizing z with
  | zero => rfl
  | succ n ih =>
    simp only [trits, ih, tritAt_dropLow, List.range_succ_eq_map, List.map_cons, List.map_map, tritAt_zero]
    rfl

theorem ofTrits_trits (n : Nat) (z : Int) : ofTrits (trits n z) + pow3 n * dropLow n z = z := by
  induction n generalizing z with
  | zero => simp [trits, ofTrits, pow3]
  | succ n ih =>
    have hlow : wrap 1 z + 3 * dropLow 1 z = z := wrap_add_dropLow 1 z
    have hhigh := ih (dropLow 1 z)
    rw [← dropLow_add, Nat.add_comm 1 n] at hhigh
    have hpow : pow3 (n + 1) = pow3 n * 3 := pow3_add n 1
    rw [trits, ofTrits, hpow]
    linear_combination hlow + 3 * hhigh

theorem ofTrits_map_tritAt {n : Nat} {z : Int} (h : Fits n z) : ofTrits ((List.range n).map fun i => tritAt i z) = z := by
  have hzero : dropLow n z = 0 := by simpa using dropLow_field h 0
  have hall := ofTrits_trits n z
  rwa [hzero, mul_zero, add_zero, trits_eq_map_tritAt] at hall

theorem sum_zipIdx_eq_ofTrits (ts : List Int) (k : Nat) :
    ((ts.zipIdx k).map fun t => t.1 * 3 ^ t.2).sum = 3 ^ k * ofTrits ts := by
  induction ts generalizing k with
  | nil => simp [ofTrits]
  | cons d ds ih =>
    simp only [List.zipIdx_cons, List.map_cons, List.sum_cons, ih, ofTrits]
    ring

theorem tritAt_ofTrits {ts : List Int} (h : ∀ t ∈ ts, Fits 1 t) (i : Nat) : tritAt i (ofTrits ts) = ts.getD i 0 := by
  induction ts generalizing i with
  | nil => simp [ofTrits, tritAt, sub, dropLow_zero, wrap_zero]
  | cons d ds ih =>
    obtain ⟨hd, hds⟩ := List.forall_mem_cons.mp h
    cases i with
    | zero => exact tritAt_zero_cons hd _
    | succ i => exact (tritAt_succ_cons hd i _).trans (ih hds i)

theorem tritAt_tritwise {f : Int → Int → Int} (hf : ∀ p q, Fits 1 (f p q)) {n i : Nat} (hi : i < n) (a b : Int) :
    tritAt i (tritwise f n a b) = f (tritAt i a) (tritAt i b) := by
  have hzip : List.zipWith f (trits n a) (trits n b) = (List.range n).map fun j => f (tritAt j a) (tritAt j b) := by
    rw [trits_eq_map_tritAt, trits_eq_map_tritAt, List.zipWith_map, List.zipWith_self]
  rw [tritwise, hzip, tritAt_ofTrits (by simpa using fun _ _ => hf _ _)]
  simp [hi]

/-! ### Replacing a trit -/

theorem dropLow_setTrit_of_le {i j : Nat} (h : j ≤ i) (t z : Int) :
    dropLow j (setTrit i t z) = dropLow j z + pow3 (i - j) * (t - tritAt i z) := by
  rw [setTrit, show pow3 i = pow3 j * pow3 (i - j) by rw [← pow3_add, Nat.add_sub_of_le h], mul_assoc, dropLow_add_mul]

theorem dropLow_setTrit_same (i : Nat) (t z : Int) : dropLow i (setTrit i t z) = t + 3 * dropLow (i + 1) z := by
  have hsplit := dropLow_eq_tritAt_add i z
  have hpow : pow3 (i - i) = 1 := by rw [Nat.sub_self]; rfl
  rw [dropLow_setTrit_of_le le_rfl, hpow]
  linear_combination hsplit

theorem tritAt_setTrit_same {t : Int} (ht : Fits 1 t) (i : Nat) (z : Int) : tritAt i (setTrit i t z) = t := by
  rw [← Nat.zero_add i, ← tritAt_dropLow, Nat.zero_add, dropLow_setTrit_same, tritAt_zero_cons ht]

theorem tritAt_setTrit_of_lt {i j : Nat} (h : j < i) (t z : Int) : tritAt j (setTrit i t z) = tritAt j z := by
  obtain ⟨d, rfl⟩ := Nat.exists_eq_add_of_lt h
  have hpow : pow3 (j + d + 1 - j) = pow3 1 * pow3 d := by rw [← pow3_add]; congr 1; omega
  rw [tritAt, tritAt, sub, sub, dropLow_setTrit_of_le h.le, hpow, mul_assoc, wrap_field]

theorem tritAt_setTrit_of_gt {t : Int} (ht : Fits 1 t) {i j : Nat} (h : i < j) (z : Int) :
    tritAt j (setTrit i t z) = tritAt j z := by
  obtain ⟨d, rfl⟩ := Nat.exists_eq_add_of_lt h
  rw [show i + d + 1 = d + 1 + i by omega, ← tritAt_dropLow, dropLow_setTrit_same, tritAt_succ_cons ht, tritAt_dropLow]
  congr 1
  omega

theorem tritAt_setTrit {t : Int} (ht : Fits 1 t) (i j : Nat) (z : Int) :
    tritAt j (setTrit i t z) = if j = i then t else tritAt j z := by
  obtain hlt | rfl | hgt := Nat.lt_trichotomy j i
  · rw [tritAt_setTrit_of_lt hlt, if_neg hlt.ne]
  · rw [tritAt_setTrit_same ht, if_pos rfl]
  · rw [tritAt_setTrit_of_gt ht hgt, if_neg hgt.ne']

/-! ### Truncation and the float formats -/

/-- What dropping trits loses is the value of those trits, which never reaches half a unit (R5). -/
theorem dropLow_error (k : Nat) (z : Int) :
    2 * (pow3 k * dropLow k z - z) < pow3 k ∧ -pow3 k < 2 * (pow3 k * dropLow k z - z) := by
  have hsplit := wrap_add_dropLow k z
  have hodd := two_maxTrits k
  obtain ⟨hlo, hhi⟩ := wrap_fits k z
  constructor <;> omega

/-- Negating a float word changes the sign of exponent field and significand field alike, hence of the value (R4, R21, R22). -/
theorem value_neg {f : Fmt} (hq : 0 < f.qmax) (z : Int) : f.value (-z) = (f.value z).neg := by
  simp only [Fmt.value, wrap_neg, dropLow_neg]
  generalize wrap f.p z = t
  generalize dropLow f.p z = e
  have hne : -f.qmax ≠ f.qmax := by omega
  obtain rfl | rfl | rfl | ⟨hpos, htop, hbot, htop'⟩ | ⟨hneg, htop, hbot, htop'⟩ : e = f.qmax ∨ e = -f.qmax ∨ e = 0 ∨
      (0 < e ∧ e ≠ f.qmax ∧ e ≠ -f.qmax ∧ -e ≠ f.qmax) ∨ (e < 0 ∧ e ≠ f.qmax ∧ e ≠ -f.qmax ∧ -e ≠ f.qmax) := by omega
  · by_cases ht : t = 0 <;> simp [hne, ht, FVal.neg]
  · by_cases ht : t = 0 <;> simp [hne, ht, FVal.neg]
  · simp [hq.ne, hq.ne', FVal.neg]
  · simp [htop, hbot, htop', hpos.ne', hpos, hpos.le, FVal.neg, add_comm]
  · simp [htop, hbot, htop', hneg.ne, hneg, hneg.not_gt, FVal.neg, add_comm]

theorem qmax_pos : ∀ f ∈ [f9, f18, f27], 0 < f.qmax := by decide

/-- The range of n trits as R17 writes it. -/
theorem fits_of_two_mul {n : Nat} {z : Int} (hlo : -(3 ^ n - 1) ≤ 2 * z) (hhi : 2 * z ≤ 3 ^ n - 1) : Fits n z := by
  have hodd := two_maxTrits n
  rw [pow3_eq] at hodd
  constructor <;> omega

/-- Settles O8: a value splits into its low trits and the rest, and this split commutes with negation, truncation and the replacing of a trit. -/
theorem tritStrings : Obligations.TritStrings := by
  refine ⟨fun i z => eq_of_fits_one (tritAt_fits i z), fun ts => ?_, fun n z hlo hhi => ofTrits_map_tritAt (fits_of_two_mul hlo hhi), tritAt_neg,
    fun f hf => value_neg (qmax_pos f hf), tritAt_dropLow, fun k z => ?_, fun f n i a b hi hf => tritAt_tritwise hf hi a b,
    fun i j t z hlo hhi => tritAt_setTrit ⟨hlo, hhi⟩ i j z⟩
  · simpa using (sum_zipIdx_eq_ofTrits ts 0).symm
  · simpa only [pow3_eq] using dropLow_error k z

end Sys2Proof.Proofs.Trits

/-! The passing of time leaves the agenda: no operation that it goes through touches what is still to be done (log 1). One lemma for each of
them, in the order of their definitions; they stand beside those of Sys2Proof/Laws/State.lean and are named as those. -/
namespace Sys2Proof.Machine

theorem foldl_agenda {α : Type} {f : State → α → State} (h : ∀ s a, (f s a).agenda = s.agenda) (l : List α) (s : State) :
    (l.foldl f s).agenda = s.agenda := by
  induction l generalizing s with
  | nil => rfl
  | cons a l ih => rw [List.foldl_cons, ih, h]

/-! ### Messages to other modules -/

@[simp] theorem State.transmitOn_agenda (s : State) (port src dst : Nat) (m : FlitMsg) :
    (s.transmitOn port src dst m).agenda = s.agenda := rfl

theorem State.launch_agenda {s t : State} {q : Outgoing} (h : s.launch q = some t) : t.agenda = s.agenda := by
  unfold State.launch at h
  split at h
  · split at h
    · cases h; rfl
    · cases h
  · cases h

@[simp] theorem State.transmitFrom_agenda (s : State) (src dst : Nat) (m : FlitMsg) :
    (s.transmitFrom src dst m).agenda = s.agenda := by
  simp only [State.transmitFrom]
  split
  · rfl
  · cases h : State.launch _ _ with
    | none => rfl
    | some t => exact (State.launch_agenda h :)

@[simp] theorem State.transmit_agenda (s : State) (dst : Nat) (m : FlitMsg) : (s.transmit dst m).agenda = s.agenda :=
  s.transmitFrom_agenda _ _ _

@[simp] theorem State.send_agenda (s : State) (agency dst : Nat) (m : FlitMsg) : (s.send agency dst m).agenda = s.agenda := by
  simp [State.send]

@[simp] theorem State.ask_agenda (s : State) (agency : Nat) (w : RemoteWait) (r : RemoteReq) :
    (s.ask agency w r).agenda = s.agenda := by
  simp [State.ask]

@[simp] theorem State.devSend_agenda (s : State) (w : Who) (a : Int) (ls : List Loc) (vs : List Int) :
    (s.devSend w a ls vs).agenda = s.agenda :=
  foldl_agenda (fun _ _ => State.ask_agenda _ _ _ _) _ _

@[simp] theorem State.askFor_agenda (s : State) (p : Parker) (agency ctx : Nat) (rs : List RemReq) :
    (s.askFor p agency ctx rs).agenda = s.agenda := by
  unfold State.askFor
  split
  · rfl
  · exact foldl_agenda (fun _ _ => State.ask_agenda _ _ _ _) _ _

@[simp] theorem State.noteFor_agenda (s : State) (p : Parker) (m ctx key : Nat) (todo : Option (List Loc × Update)) :
    (s.noteFor p m ctx key todo).agenda = s.agenda := rfl

@[simp] theorem State.askParts_agenda (s : State) (p : Parker) (agency ctx : Nat) (mixed : Bool) (rs : List RemReq) :
    (s.askParts p agency ctx mixed rs).agenda = s.agenda := by
  unfold State.askParts
  split
  · simp
  · rw [State.askFor_agenda]
    exact foldl_agenda (fun _ _ => State.noteFor_agenda _ _ _ _ _ _) _ _

@[simp] theorem State.unhold_agenda (s : State) (p : Parker) : (s.unhold p).agenda = s.agenda := rfl
@[simp] theorem State.dropWait_agenda (s : State) (p : Parker) (key : Nat) : (s.dropWait p key).agenda = s.agenda := rfl
@[simp] theorem State.answerAs_agenda (s : State) (p : Parker) (key : Nat) (r : RemoteReply) :
    (s.answerAs p key r).agenda = s.agenda := rfl
@[simp] theorem State.park_agenda (s : State) (ctx : Nat) (who : Parker) (ps : List (Int × Int)) :
    (s.park ctx who ps).agenda = s.agenda := rfl

/-! ### Storage -/

@[simp] theorem State.freeWaiters_agenda (s : State) (p : Nat × Nat) : (s.freeWaiters p).agenda = s.agenda := by
  unfold State.freeWaiters
  split <;> rfl

@[simp] theorem State.phStored_agenda (s : State) (t : Nat) (offs : List Nat) : (s.phStored t offs).agenda = s.agenda := by
  unfold State.phStored
  split
  · rfl
  · exact foldl_agenda (fun _ _ => by simp) _ _

@[simp] theorem State.setWindowWord_agenda (s : State) (name : Int) (off : Nat) (v : Int) :
    (s.setWindowWord name off v).agenda = s.agenda := by
  unfold State.setWindowWord
  split <;> rfl

@[simp] theorem State.writeLoc_agenda (s : State) (bin : Bool) (l : Loc) (v : Int) : (s.writeLoc bin l v).agenda = s.agenda := by
  cases l <;> simp [State.writeLoc]

@[simp] theorem State.writeRaw_agenda (s : State) (bin : Bool) (ls : List Loc) (vs : List Int) :
    (s.writeRaw bin ls vs).agenda = s.agenda := by
  simp only [State.writeRaw]
  rw [foldl_agenda fun _ _ => State.writeLoc_agenda _ _ _ _]
  split <;> rfl

@[simp] theorem State.replaced_agenda (s : State) (lines : List Nat) : (s.replaced lines).agenda = s.agenda := rfl

@[simp] theorem State.writeSlot_agenda (s : State) (agency line : Nat) (comp : Bool) :
    (s.writeSlot agency line comp).agenda = s.agenda := rfl

@[simp] theorem State.evict_agenda (s : State) (line : Nat) : (s.evict line).agenda = s.agenda := by
  simp only [State.evict]
  split
  · rfl
  · split <;> simp

@[simp] theorem State.cacheRoom_agenda (keep n : Nat) (s : State) : (State.cacheRoom keep n s).agenda = s.agenda := by
  induction n generalizing s with
  | zero => rfl
  | succ n ih =>
    unfold State.cacheRoom
    split
    · rfl
    · split
      · rw [ih, State.evict_agenda]
      · rfl

@[simp] theorem State.makeRoom_agenda (s : State) (line : Nat) : (s.makeRoom line).agenda = s.agenda := by
  unfold State.makeRoom
  split <;> simp

@[simp] theorem State.passThrough_agenda (s : State) (wrote : Bool) (ls : List Loc) : (s.passThrough wrote ls).agenda = s.agenda := by
  unfold State.passThrough
  split
  · exact foldl_agenda (fun s l => by split_ifs <;> simp) _ _
  · rfl

@[simp] theorem State.writeLocs_agenda (s : State) (bin : Bool) (ls : List Loc) (vs : List Int) :
    (s.writeLocs bin ls vs).agenda = s.agenda := by
  have hph : ∀ u : State, ((teamsOf ls).foldl (fun s t => s.phStored t (offsOf t ls)) u).agenda = u.agenda :=
    foldl_agenda (fun _ _ => State.phStored_agenda _ _ _) _
  simp only [State.writeLocs]
  split <;> split_ifs <;> simp [hph]

@[simp] theorem State.catchUp_agenda (s : State) (cores : Nat → Bool) : (s.catchUp cores).agenda = s.agenda := rfl
@[simp] theorem State.countAccess_agenda (s : State) (agency kind : Nat) : (s.countAccess agency kind).agenda = s.agenda := rfl
@[simp] theorem State.health_agenda (s : State) (event kind index spare detail : Nat) :
    (s.health event kind index spare detail).agenda = s.agenda := by
  simp only [State.health]

@[simp] theorem State.rowError_agenda (s : State) (corrected : Bool) (stack row : Nat) :
    (s.rowError corrected stack row).agenda = s.agenda := by
  simp only [State.rowError, State.logUnit, State.setTesting]
  split <;> simp

@[simp] theorem State.noteBad_agenda (s : State) (ls : List Loc) : (s.noteBad ls).agenda = s.agenda := by
  unfold State.noteBad State.uncorrectable
  split <;> simp

@[simp] theorem State.correctSlot_agenda (s : State) (line : Nat) : (s.correctSlot line).agenda = s.agenda := by
  unfold State.correctSlot
  split <;> simp

@[simp] theorem State.readSlot_agenda (s : State) (agency line : Nat) : (s.readSlot agency line).agenda = s.agenda := by
  simp [State.readSlot]

@[simp] theorem State.leaveFor_agenda (s : State) (comp : Bool) (line : Nat) : (s.leaveFor comp line).agenda = s.agenda := by
  simp only [State.leaveFor]
  split
  · split <;> simp
  · rfl

@[simp] theorem State.cacheLine_agenda (s : State) (x : CacheLine) : (s.cacheLine x).agenda = s.agenda := by
  simp [State.cacheLine]

@[simp] theorem State.touchLine_agenda (s : State) (agency : Nat) (op : AccOp) (whole : Bool) (l : Leaf) (line : Nat) :
    (s.touchLine agency op whole l line).agenda = s.agenda := by
  simp only [State.touchLine]
  split
  · split_ifs <;> simp
  · split <;> split_ifs <;> simp

@[simp] theorem State.touchWalk_agenda (s : State) (w : Who) (a : Int) : (s.touchWalk w a).agenda = s.agenda := by
  unfold State.touchWalk
  split
  · rfl
  · exact foldl_agenda (fun _ _ => State.touchLine_agenda _ _ _ _ _ _) _ _

@[simp] theorem State.lease_agenda (s : State) (w : Who) (op : AccOp) (line : Nat) : (s.lease w op line).agenda = s.agenda := by
  simp only [State.lease]
  split
  · rfl
  · split <;> rfl

@[simp] theorem State.touchAt_agenda (s : State) (w : Who) (op : AccOp) (cs : List (Int × Loc)) :
    (s.touchAt w op cs).agenda = s.agenda := by
  simp only [State.touchAt]
  rw [foldl_agenda (fun s q => by split <;> simp), foldl_agenda fun _ _ => State.touchWalk_agenda _ _ _]
  simp only [apply_ite State.agenda, State.countAccess_agenda, ite_self]
  split
  · split <;> rfl
  · rfl

@[simp] theorem State.touch_agenda (s : State) (w : Who) (op : AccOp) (a : Int) (ls : List Loc) :
    (s.touch w op a ls).agenda = s.agenda :=
  s.touchAt_agenda _ _ _

theorem State.devWrite_agenda {s t : State} {w : Who} {a : Int} {n : Nat} {v : Int} (h : s.devWrite w a n v = .ok t) :
    t.agenda = s.agenda := by
  unfold State.devWrite at h
  split at h <;> cases h
  simp

@[simp] theorem State.devWrites_agenda (s : State) (w : Who) (a : Int) (vs : List Int) : (s.devWrites w a vs).agenda = s.agenda := by
  induction vs generalizing s a with
  | nil => rfl
  | cons v vs ih =>
    unfold State.devWrites
    split
    case h_1 h => rw [ih, State.devWrite_agenda h]
    case h_2 => rfl

/-! ### Faults logged -/

@[simp] theorem State.logDoubles_agenda (s : State) (c : Nat) (ds : List Int) : (s.logDoubles c ds).agenda = s.agenda := by
  simp only [State.logDoubles]
  split
  · rfl
  · split
    · rfl
    · split
      · exact foldl_agenda (fun _ _ => State.devWrites_agenda _ _ _ _) _ _
      · rfl

@[simp] theorem State.logFault_agenda (s : State) (c : Nat) (e : LogEntry) : (s.logFault c e).agenda = s.agenda :=
  s.logDoubles_agenda _ _

/-! ### Trace records -/

@[simp] theorem State.modCfg_agenda (s : State) (agency : Nat) (f : TraceCfg → TraceCfg) : (s.modCfg agency f).agenda = s.agenda := rfl
@[simp] theorem State.dropCfg_agenda (s : State) (agency : Nat) : (s.dropCfg agency).agenda = s.agenda := rfl

@[simp] theorem State.traceFail_agenda (s : State) (c : TraceCfg) (e : Cause) : (s.traceFail c e).agenda = s.agenda := by
  simp [State.traceFail]

theorem State.traceBytes_agenda {s : State} {w : Who} {c : TraceCfg} {off : Nat} {vs : List Int} {r : State × Bool}
    (h : s.traceBytes w c off vs = .ok r) : r.1.agenda = s.agenda := by
  induction vs generalizing s off with
  | nil => cases h; rfl
  | cons v vs ih =>
    unfold State.traceBytes at h
    split at h
    case h_1 hw => rw [ih h, State.devWrite_agenda hw]
    case h_2 => cases h
    case h_3 => cases h; rfl

@[simp] theorem State.traceWrite_agenda (s : State) (agency src : Nat) (r : List Int) :
    (s.traceWrite agency src r).agenda = s.agenda := by
  simp only [State.traceWrite]
  split
  · rfl
  · split
    · rfl
    · split
      case h_1 => simp
      case h_2 hb =>
        have hbytes := State.traceBytes_agenda hb
        split
        case h_1 hw => rw [State.devWrite_agenda hw]; simpa using hbytes
        case h_2 => simpa using hbytes
        case h_3 => simpa using hbytes

@[simp] theorem State.traceLossless_agenda (s : State) (agency src cycle : Nat) (r : List Int) :
    (s.traceLossless agency src cycle r).agenda = s.agenda := by
  simp only [State.traceLossless]
  split
  · rfl
  · split
    · simp
    · simp
    · split <;> simp

@[simp] theorem State.traceLose_agenda (s : State) (agency n cycle : Nat) : (s.traceLose agency n cycle).agenda = s.agenda := by
  unfold State.traceLose
  split
  · rfl
  · split
    · split
      case h_1 hb => simpa using State.traceBytes_agenda hb
      case h_2 => simp
    · rfl

@[simp] theorem State.closeMark_agenda (s : State) (agency : Nat) : (s.closeMark agency).agenda = s.agenda := by
  simp only [State.closeMark, State.modCfg_agenda]
  split
  · split <;> simp
  · rfl

@[simp] theorem State.openMark_agenda (s : State) (c : TraceCfg) (src time : Nat) : (s.openMark c src time).agenda = s.agenda := by
  simp [State.openMark]

@[simp] theorem State.traceLossy1_agenda (s : State) (agency src time : Nat) (r : List Int) :
    (s.traceLossy1 agency src time r).agenda = s.agenda := by
  unfold State.traceLossy1
  split
  · rfl
  · split
    · simp
    · simp
    · split <;> simp

@[simp] theorem State.traceLossy_agenda (s : State) (agency src cycle : Nat) (event : Bool) (rs : List (Nat × List Int)) :
    (s.traceLossy agency src cycle event rs).agenda = s.agenda := by
  induction rs generalizing s with
  | nil => rfl
  | cons r rs ih =>
    simp only [State.traceLossy]
    split
    · split
      · rfl
      · split
        · split_ifs <;> simp
        · simp
        · simp
    · rw [ih, State.traceLossy1_agenda]

@[simp] theorem State.traceStream_agenda (s : State) (agency src cycle : Nat) (sync : Bool) (ev : List (List Int)) :
    (s.traceStream agency src cycle sync ev).agenda = s.agenda := by
  have hlossless : ∀ (l : List (Nat × List Int)) (u : State),
      (l.foldl (fun s r => s.traceLossless agency src cycle r.2) u).agenda = u.agenda :=
    foldl_agenda fun _ _ => State.traceLossless_agenda _ _ _ _ _
  simp only [State.traceStream]
  split
  · rfl
  · split <;> simp [hlossless]

@[simp] theorem State.emit_agenda (s : State) (agency src trit : Nat) (r : List Int) : (s.emit agency src trit r).agenda = s.agenda := by
  unfold State.emit
  split
  · rfl
  · split <;> simp

@[simp] theorem State.emitSample_agenda (s : State) (agency src cycle : Nat) (r : List Int) :
    (s.emitSample agency src cycle r).agenda = s.agenda := by
  simp only [State.emitSample]
  split
  · rfl
  · split
    · rfl
    · split
      · simp
      · split
        · split <;> simp
        · simp
        · simp

@[simp] theorem State.emitSched_agenda (s : State) (agency : Nat) (t : Team) (g : Gang) (code operand : Int) :
    (s.emitSched agency t g code operand).agenda = s.agenda :=
  s.emit_agenda _ _ _ _

@[simp] theorem State.emitFault_agenda (s : State) (agency core : Nat) (name code cause : Int) :
    (s.emitFault agency core name code cause).agenda = s.agenda :=
  s.emit_agenda _ _ _ _

@[simp] theorem State.engineEvent_agenda (s : State) (src ctx team gang : Nat) (queue code num : Int) :
    (s.engineEvent src ctx team gang queue code num).agenda = s.agenda :=
  s.emit_agenda _ _ _ _

@[simp] theorem State.emitJoin_agenda (s : State) (t : Team) (what idx gang : Int) : (s.emitJoin t what idx gang).agenda = s.agenda := by
  unfold State.emitJoin
  split <;> simp

@[simp] theorem State.emitRed_agenda (s : State) (r : RedOpen) (code : Int) : (s.emitRed r code).agenda = s.agenda :=
  s.emit_agenda _ _ _ _

@[simp] theorem State.logEvent_agenda (s : State) (c : Nat) (e : LogEntry) (name : Int) : (s.logEvent c e name).agenda = s.agenda := by
  simp only [State.logEvent]
  split <;> simp

@[simp] theorem State.logFor_agenda (s : State) (n : Nat) (e : LogEntry) : (s.logFor n e).agenda = s.agenda := by
  simp only [State.logFor]
  split <;> simp

/-! ### Samples, synchronisation records and stalls of the trace -/

theorem State.after_agenda {s : State} {r : Answer} (h : ∀ t, r = .next t → t.agenda = s.agenda) : (s.after r).agenda = s.agenda := by
  unfold State.after
  split
  case h_1 t => exact h t rfl
  case h_2 => rfl

@[simp] theorem State.sample_agenda (s : State) (core sched cycle : Nat) : (s.sample core sched cycle).agenda = s.agenda := by
  simp only [State.sample]
  split
  · rfl
  · split_ifs <;> simp

@[simp] theorem State.samplesNow_agenda (s : State) : s.samplesNow.agenda = s.agenda := by
  unfold State.samplesNow
  split
  · rfl
  · refine foldl_agenda (fun s k => State.after_agenda fun t h => ?_) _ _
    simp only [execSampleTick] at h
    split at h <;> cases h
    simp

@[simp] theorem State.syncsNow_agenda (s : State) : s.syncsNow.agenda = s.agenda := by
  refine foldl_agenda (fun s c => ?_) _ _
  split
  · rfl
  · refine foldl_agenda (fun s n => State.after_agenda fun t h => ?_) _ _
    simp only [execSyncRecordPeriodic] at h
    split at h
    · cases h
    · split at h <;> cases h
      simp

@[simp] theorem State.stallOver_agenda (s : State) (agency : Nat) (t : Team) (g : Gang) (k cycle : Nat) :
    (s.stallOver agency t g k cycle).agenda = s.agenda := by
  simp only [State.stallOver]
  split
  · split
    · split_ifs <;> simp
    · rfl
  · rfl

@[simp] theorem State.endPressure_agenda (s : State) : s.endPressure.agenda = s.agenda := by
  refine foldl_agenda (fun s t => ?_) _ _
  split
  · rfl
  · refine foldl_agenda (fun s g => ?_) _ _
    dsimp only
    split
    · rfl
    · rw [State.modGang_agenda]
      exact foldl_agenda (fun _ _ => State.stallOver_agenda _ _ _ _ _ _) _ _

/-! ### Ports, patterns and signals -/

@[simp] theorem State.dropPost_agenda (s : State) (h : HeldPost) (c : Cause) : (s.dropPost h c).agenda = s.agenda := by
  simp only [State.dropPost, State.logFor_agenda]
  split
  · split <;> simp
  · rfl

@[simp] theorem State.writePort_agenda (s : State) (t : Team) (i : Nat) (p : Port) : (s.writePort t i p).agenda = s.agenda := by
  simp only [State.writePort]
  split
  · rfl
  · split
    · rfl
    · split
      case h_1 h => rw [State.devWrite_agenda h, State.modTeam_agenda]
      case h_2 => rfl

theorem State.landHeldPost_agenda {s t : State} {held : Bool} {p : HeldPost} (h : s.landHeldPost held p = some t) :
    t.agenda = s.agenda := by
  simp only [State.landHeldPost] at h
  split at h
  · cases h
  · split at h
    · cases h; simp
    · cases h; simp
    · split at h <;> cases h
      split <;> simp

@[simp] theorem State.flushPosts_agenda (s : State) (n : Int) : (s.flushPosts n).agenda = s.agenda := by
  refine foldl_agenda (fun s h => ?_) _ _
  split
  · split
    · split
      case h_1 hl => exact State.landHeldPost_agenda hl
      case h_2 => rfl
    · rfl
  · rfl

@[simp] theorem State.firePattern_agenda (s : State) (t : Team) (i : Nat) : (s.firePattern t i).agenda = s.agenda := by
  simp only [State.firePattern]
  split
  · rw [foldl_agenda fun s q => by split <;> simp]
    simp
  · rfl

@[simp] theorem State.firePost_agenda (s : State) (ctx : Nat) (port msg : Int) : (s.firePost ctx port msg).agenda = s.agenda := by
  simp only [State.firePost]
  split
  · simp
  · split
    · simp
    · split
      · rfl
      · split
        case h_1 hl => exact (State.landHeldPost_agenda hl :)
        case h_2 => rfl

@[simp] theorem State.fireBinding_agenda (s : State) (l : Loc) : (s.fireBinding l).agenda = s.agenda := by
  simp only [State.fireBinding]
  split <;> simp

@[simp] theorem State.bindSignal_agenda (s : State) (ctx : Nat) (l : Loc) (value port msg : Int) :
    (s.bindSignal ctx l value port msg).agenda = s.agenda := by
  simp only [State.bindSignal]
  split_ifs <;> simp

@[simp] theorem State.update_agenda (s : State) (ctx : Nat) (ls : List Loc) (u : Update) : (s.update ctx ls u).1.agenda = s.agenda := by
  simp only [State.update]
  split <;> split_ifs <;> simp

/-- An update, whether it is done or waits, leaves the agenda of s. -/
def FarUpdate.KeepsAgenda (s : State) : FarUpdate → Prop
  | .done t _ _ => t.agenda = s.agenda
  | .waits t => t.agenda = s.agenda
  | .bad _ => True

@[simp] theorem FarUpdate.keepsAgenda_done (s t : State) (ret : Int) (f : FlagSet) :
    (FarUpdate.done t ret f).KeepsAgenda s ↔ t.agenda = s.agenda := Iff.rfl
@[simp] theorem FarUpdate.keepsAgenda_waits (s t : State) : (FarUpdate.waits t).KeepsAgenda s ↔ t.agenda = s.agenda := Iff.rfl
@[simp] theorem FarUpdate.keepsAgenda_bad (s : State) (c : Cause) : (FarUpdate.bad c).KeepsAgenda s := trivial

theorem FarUpdate.KeepsAgenda.of_done {s t : State} {v : FarUpdate} {ret : Int} {f : FlagSet} (hv : v.KeepsAgenda s)
    (h : v = .done t ret f) : t.agenda = s.agenda := by
  subst h; exact hv

theorem FarUpdate.KeepsAgenda.of_waits {s t : State} {v : FarUpdate} (hv : v.KeepsAgenda s) (h : v = .waits t) :
    t.agenda = s.agenda := by
  subst h; exact hv

@[simp] theorem State.endSplit_agenda (s : State) (p : Parker) (agency ctx : Nat) (ls : List Loc) (u : Update) (old : Int) :
    (s.endSplit p agency ctx ls u old).KeepsAgenda s := by
  simp only [State.endSplit, FarUpdate.keepsAgenda_done]
  split <;> split_ifs <;> simp

@[simp] theorem State.swapHalf_agenda (s : State) (p : Parker) (agency ctx base : Nat) (a : Int) (ls : List Loc) (u : Update)
    (m q j : Nat) (old : Int) : (s.swapHalf p agency ctx base a ls u m q j old).KeepsAgenda s := by
  simp only [State.swapHalf]
  split
  · simp
  · split
    · simp
    · split <;> simp
    · split <;> simp
    · simp

@[simp] theorem State.splitUpdate_agenda (s : State) (p : Parker) (agency ctx base : Nat) (a : Int) (ls : List Loc) (u : Update) :
    (s.splitUpdate p agency ctx base a ls u).KeepsAgenda s := by
  simp only [State.splitUpdate]
  split
  · simp
  · split
    · simp
    · simp
    · split
      · simp
      · split
        · simp
        · split <;> simp

theorem State.farUpdate_agenda (s : State) (p : Parker) (agency ctx base : Nat) (a : Int) (ls : List Loc) (u : Update) :
    (s.farUpdate p agency ctx base a ls u).KeepsAgenda s := by
  simp only [State.farUpdate]
  split
  · split <;> simp
  · split
    · split
      · simp
      · simp
      · split <;> simp
    · simp

/-- What the device does for somebody, whether it is done or waits, leaves the agenda of s. -/
def DevStep.KeepsAgenda (s : State) : DevStep → Prop
  | .done t => t.agenda = s.agenda
  | .waits t => t.agenda = s.agenda
  | .migr _ => True

@[simp] theorem DevStep.keepsAgenda_done (s t : State) : (DevStep.done t).KeepsAgenda s ↔ t.agenda = s.agenda := Iff.rfl
@[simp] theorem DevStep.keepsAgenda_waits (s t : State) : (DevStep.waits t).KeepsAgenda s ↔ t.agenda = s.agenda := Iff.rfl
@[simp] theorem DevStep.keepsAgenda_migr (s : State) (ps : List (Int × Int)) : (DevStep.migr ps).KeepsAgenda s := trivial

theorem State.decrementSignal_agenda (s : State) (p : Parker) (c : Context) (a word : Int) :
    (s.decrementSignal p c a word).KeepsAgenda s := by
  simp only [State.decrementSignal]
  split
  · simp
  · simp
  · split
    · simp
    · split
      case h_1 h => simpa [apply_ite State.agenda] using (State.farUpdate_agenda _ _ _ _ _ _ _ _).of_done h
      case h_2 h => simpa [apply_ite State.agenda] using (State.farUpdate_agenda _ _ _ _ _ _ _ _).of_waits h
      case h_3 => simp

/-! ### Reductions -/

@[simp] theorem State.modOpen_agenda (s : State) (root : Bool) (key : Int) (f : RedOpen → RedOpen) :
    (s.modOpen root key f).agenda = s.agenda := rfl
@[simp] theorem State.dropStage_agenda (s : State) (key : Int) : (s.dropStage key).agenda = s.agenda := rfl
@[simp] theorem State.verdict_agenda (s : State) (key : Int) (ctx num : Nat) (st : Int) : (s.verdict key ctx num st).agenda = s.agenda := rfl

@[simp] theorem State.forward_agenda (s : State) (r : RedOpen) : (s.forward r).agenda = s.agenda := by
  unfold State.forward
  split <;> simp

theorem State.redOn_agenda {s : State} {d : DevStep} {made : State → State} (hd : d.KeepsAgenda s)
    (hm : ∀ t, (made t).agenda = t.agenda) (c : Context) (key : Int) : (s.redOn c key d made).agenda = s.agenda := by
  cases d with
  | done t => exact (hm t).trans hd
  | waits t => exact hd
  | migr ps => rfl

@[simp] theorem State.rootSignal_agenda (s : State) (r : RedOpen) : (s.rootSignal r).agenda = s.agenda := by
  simp only [State.rootSignal]
  split
  · rfl
  · split
    · rfl
    · exact State.redOn_agenda (s.decrementSignal_agenda _ _ _ _) (State.modOpen_agenda · _ _ _) _ _

@[simp] theorem State.tell_agenda (s : State) (key : Int) (p : RedPart) (st : Int) : (s.tell key p st).agenda = s.agenda := by
  simp only [State.tell]
  split
  · split
    · split <;> simp
    · rfl
  · simp

@[simp] theorem State.redLog_agenda (s : State) (c : Context) (fails : List (Int × Nat × Cause)) : (s.redLog c fails).agenda = s.agenda :=
  foldl_agenda (fun _ _ => State.logEvent_agenda _ _ _ _) _ _

theorem State.enterAll_agenda {s t : State} {p : Parker} {w : Who} {bin : Bool} {cs : Cells}
    (h : s.enterAll p w bin cs = .ok t ∨ s.enterAll p w bin cs = .error t) : t.agenda = s.agenda := by
  simp only [State.enterAll] at h
  split at h
  · obtain h | h := h <;> cases h
    rfl
  · split at h <;> obtain h | h := h <;> cases h <;> simp

theorem State.redEnter_agenda (s : State) (c : Context) (key : Int) (ws : List (Int × Nat × List Int)) :
    (s.redEnter c key ws).KeepsAgenda s := by
  simp only [State.redEnter]
  split
  · simp
  · split
    · simp
    all_goals
      split
      · exact State.enterAll_agenda (.inr ‹_›)
      · simpa using State.enterAll_agenda (.inl ‹_›)

@[simp] theorem State.rootEnter_agenda (s : State) (r : RedOpen) : (s.rootEnter r).agenda = s.agenda := by
  have htell : ∀ u : State, (r.parts.foldl (fun s p => s.tell r.key p 3) u).agenda = u.agenda :=
    foldl_agenda (fun _ _ => State.tell_agenda _ _ _ _) _
  simp only [State.rootEnter]
  split
  · simp [htell]
  · exact State.redOn_agenda (s.redEnter_agenda _ _ _) (fun _ => by simp [htell]) _ _

@[simp] theorem State.rootWrite_agenda (s : State) (r : RedOpen) : (s.rootWrite r).agenda = s.agenda := by
  simp [State.rootWrite]

theorem execFlagFall_agenda {s t : State} {key : Int} (h : execFlagFall key s = .next t) : t.agenda = s.agenda := by
  simp only [execFlagFall] at h
  split at h <;> cases h
  split <;> simp

theorem execRootWriteTimeout_agenda {s t : State} {key : Int} (h : execRootWriteTimeout key s = .next t) : t.agenda = s.agenda := by
  unfold execRootWriteTimeout at h
  split at h
  · cases h
  · split at h <;> cases h
    simp

theorem execReductionClose_agenda {s t : State} {key : Int} (h : execReductionClose key s = .next t) : t.agenda = s.agenda := by
  unfold execReductionClose at h
  split at h
  · cases h
  · split at h <;> cases h
    rfl

theorem execReductionMapExpiry_agenda {s t : State} {key : Int} (h : execReductionMapExpiry key s = .next t) :
    t.agenda = s.agenda := by
  simp only [execReductionMapExpiry] at h
  split at h <;> cases h
  rfl

@[simp] theorem State.deadlines_agenda (s : State) : s.deadlines.agenda = s.agenda := by
  refine foldl_agenda (fun s k => ?_) _ _
  simp only [State.after_agenda fun _ => execReductionMapExpiry_agenda, State.after_agenda fun _ => execReductionClose_agenda,
    State.after_agenda fun _ => execRootWriteTimeout_agenda, State.after_agenda fun _ => execFlagFall_agenda]

/-! ### The passing of time -/

@[simp] theorem State.countResidency_agenda (s : State) : s.countResidency.agenda = s.agenda :=
  foldl_agenda (fun _ _ => State.count_agenda _ _ _ _) _ _

@[simp] theorem State.joinsAt_agenda (core f n : Nat) (s : State) : (State.joinsAt core f n s).agenda = s.agenda := by
  induction f generalizing n s with
  | zero => rfl
  | succ f ih =>
    unfold State.joinsAt
    split
    · rfl
    · split
      · rfl
      · split
        · rfl
        · rw [ih, State.firePattern_agenda]

@[simp] theorem State.comes_agenda (s : State) (own : Option Nat) (m : Nat) : (s.comes own m).agenda = s.agenda := by
  simp only [State.comes, State.deadlines_agenda]
  rw [foldl_agenda fun _ _ => State.joinsAt_agenda _ _ _ _]
  simp

@[simp] theorem State.passTo_agenda (own : Option Nat) (target f : Nat) (s : State) : (State.passTo own target f s).agenda = s.agenda := by
  induction f generalizing s with
  | zero => rfl
  | succ f ih =>
    simp only [State.passTo]
    split
    · rfl
    · simp [ih]

@[simp] theorem State.pass_agenda (s : State) (own : Option Nat) : (s.pass own).agenda = s.agenda := by
  simp only [State.pass]
  split <;> simp

end Sys2Proof.Machine

/-! What a step does before its turn, and that it takes the turn that the agenda names (logs 1, 20 and 39). -/
namespace Sys2Proof.Machine

/-! ### The clocks and the residency counted -/

/-- A correction slewed backwards takes no more than the nanoseconds that pass, so fabric time does not go back (R429). -/
theorem Clock.fabric_le_to (c : Clock) (m : Nat) : c.fabric ≤ (c.to m).fabric := by
  simp only [Clock.to]
  generalize (10 * (m - c.cycle) + c.part) / 19 = q
  have hk : Nat.min c.slew.natAbs (Nat.min ((c.slewed + (m - c.cycle)) / 19000) q) ≤ q :=
    (Nat.min_le_right _ _).trans (Nat.min_le_right _ _)
  split <;> omega

theorem State.foldl_count_eq (agencies : List Nat) (n : State → Nat → Int) (s : State) :
    ∃ cs, agencies.foldl (fun s a => s.count a 7 (n s a)) s = { s with hub := { s.hub with counters := cs } } := by
  induction agencies generalizing s with
  | nil => exact ⟨s.hub.counters, rfl⟩
  | cons a agencies ih =>
    obtain ⟨cs, hcs⟩ := ih (s.count a 7 (n s a))
    exact ⟨cs, hcs⟩

theorem State.countResidency_eq (s : State) :
    ∃ cs, s.countResidency = { s with hub := { s.hub with counters := cs, resAt := s.clock.cycle } } := by
  obtain ⟨cs, hcs⟩ := State.foldl_count_eq
    (((s.ctxs.map Context.agency).foldl (fun l a => insertNat a l) []).filter fun a => decide (0 < s.slotsOf a))
    (fun u a => (((s.clock.cycle - s.hub.resAt) * u.slotsOf a : Nat) : Int)) s
  refine ⟨cs, ?_⟩
  simp only [State.countResidency, hcs]

/-! ### Time passes before the turn -/

/-- The state after n cycles in which nothing takes place at an instant of its own, the counters standing at cs. -/
def State.idled (s : State) (n : Nat) (cs : ZMap) : State :=
  { s with
    clock := s.clock.to (s.clock.cycle + n), issued := [], draws := s.draws + 3,
    hub := { s.hub with counters := cs, resAt := s.clock.cycle + n } }

theorem State.pass_eq_idled {s : State} (h : s.instants = []) (own : Option Nat) : ∃ n cs, 0 < n ∧ s.pass own = s.idled n cs := by
  simp only [State.pass]
  rw [if_pos (show ({ s with draws := s.draws + 3 } : State).instants = [] from h)]
  refine ⟨_, _, ?_, (State.countResidency_eq _).choose_spec⟩
  exact lt_of_lt_of_le (by omega) (Nat.le_max_left _ _)

theorem State.elapse_of_still {s : State} {rest : List Turn} (h : s.agenda = .still :: rest) :
    s.elapse = { s with agenda := rest, draws := s.draws + 3 } := by
  simp [State.elapse, h]

theorem State.elapse_eq_pass {s : State} (h : s.agenda.head? ≠ some .still) : ∃ own, s.elapse = s.pass own := by
  unfold State.elapse
  split
  case h_1 he => exact absurd (by rw [he]; rfl) h
  case h_2 core _ _ => exact ⟨some core, rfl⟩
  case h_3 => exact ⟨none, rfl⟩

theorem State.elapse_eq_idled {s : State} (hi : s.instants = []) (h : s.agenda.head? ≠ some .still) :
    ∃ n cs, 0 < n ∧ s.elapse = s.idled n cs := by
  obtain ⟨own, he⟩ := State.elapse_eq_pass h
  rw [he]
  exact State.pass_eq_idled hi own

theorem State.elapse_mem_teams {s : State} (hi : s.instants = []) : s.elapse.mem = s.mem ∧ s.elapse.teams = s.teams := by
  by_cases h : s.agenda.head? = some .still
  · obtain ⟨rest, hr⟩ := List.head?_eq_some_iff.mp h
    rw [State.elapse_of_still hr]
    exact ⟨rfl, rfl⟩
  · obtain ⟨n, cs, _, he⟩ := State.elapse_eq_idled hi h
    rw [he]
    exact ⟨rfl, rfl⟩

theorem State.begin_agenda {s : State} (h : s.agenda.head? ≠ some .still) : s.begin.agenda = s.agenda := by
  obtain ⟨own, he⟩ := State.elapse_eq_pass h
  rw [State.begin, State.catchUp_agenda, he, State.pass_agenda]

theorem State.begin_agenda_cons {s : State} {x : Turn} {rest : List Turn} (h : s.agenda = x :: rest) (hx : x ≠ .still) :
    s.begin.agenda = x :: rest := by
  rw [← h]
  exact State.begin_agenda (by simpa [h] using hx)

/-! ### Leases as a step begins -/

/-- What was done last leaves the slices of a core at the place in S behind which they stood (log 39). -/
def State.stays (s : State) (core : Nat) : Bool :=
  match s.cur with
  | some i => quietWords i.words || (match s.team? i.team with | some u => decide (u.core ≠ core) | none => false)
  | none => false

theorem State.not_abreast {s t : State} (h : t.teams = s.teams) (core : Nat) : (!s.abreast t core) = s.stays core := by
  unfold State.abreast State.stays
  cases s.cur with
  | none => rfl
  | some i => cases hu : s.team? i.team <;> simp [h, hu]

theorem State.begin_leases {s : State} (hi : s.instants = []) :
    s.begin.mem.leases = s.mem.leases.filterMap fun l =>
      if s.stays l.core then some l else if s.mem.outdated l then none else some { l with seen := s.mem.wlog.length } := by
  obtain ⟨hmem, hteams⟩ := State.elapse_mem_teams hi
  simp only [State.begin, State.catchUp, State.not_abreast hteams, hmem]

/-- Settles O5: no operation that time passes through touches the agenda, so the turn is still there when it comes. -/
theorem stepTakesTurns : Obligations.StepTakesTurns := by
  intro s rest
  refine ⟨fun i h => ?_, fun h => ?_, fun line bytes h => ?_, fun link h => ?_, fun port h => ?_, fun m live h => ?_, fun h => ?_,
    fun u corrected h => ?_, fun p off n h => ?_, fun hi => State.begin_leases hi, fun h => ?still, fun hi h => ?quiet⟩
  case still => rw [State.begin, State.elapse_of_still h]; rfl
  case quiet =>
    obtain ⟨n, cs, hn, he⟩ := State.elapse_eq_idled hi h
    rw [State.begin, he]
    exact ⟨rfl, Nat.lt_add_of_pos_right hn, s.clock.fabric_le_to _, rfl⟩
  all_goals simp [step, State.begin_agenda_cons h]

end Sys2Proof.Machine

/-! The storage order of trytes and the packing of lines into bytes (R15, R245): a value is its digits, and digits are read back by place. -/
namespace Sys2Proof.Proofs.Storage
open Sys2Proof.Machine Sys2Proof.Laws Sys2Proof.Proofs.Trits

/-! ### Digits of n trits -/

theorem digits_getD {k i : Nat} (h : i < k) (n : Nat) (z : Int) : (digits n k z).getD i 0 = sub (n * i) n z := by
  induction k generalizing i z with
  | zero => omega
  | succ k ih =>
    cases i with
    | zero => simp [digits, sub]
    | succ i =>
      rw [digits, List.getD_cons_succ, ih (by omega), sub, sub, ← dropLow_add]
      congr 2
      ring

@[simp] theorem digits_length (n k : Nat) (z : Int) : (digits n k z).length = k := by
  induction k generalizing z with
  | zero => rfl
  | succ k ih => rw [digits, List.length_cons, ih]

theorem digits_append (n a b : Nat) (z : Int) : digits n (a + b) z = digits n a z ++ digits n b (dropLow (n * a) z) := by
  induction a generalizing z with
  | zero => simp [digits]
  | succ a ih =>
    rw [show a + 1 + b = a + b + 1 by omega, digits, digits, ih, ← dropLow_add, List.cons_append]
    congr 4
    ring

/-- The digits below a place do not depend on what stands above it. -/
theorem digits_add_mul (n a : Nat) (z r : Int) : digits n a (z + pow3 (n * a) * r) = digits n a z := by
  induction a generalizing z with
  | zero => rfl
  | succ a ih =>
    have hpow : pow3 (n * (a + 1)) = pow3 n * pow3 (n * a) := by rw [← pow3_add]; congr 1; ring
    rw [digits, digits, hpow, mul_assoc, wrap_field, dropLow_add_mul, ih]

theorem digits_wrap (n a : Nat) (z : Int) : digits n a (wrap (n * a) z) = digits n a z := by
  conv_rhs => rw [← wrap_add_dropLow (n * a) z]
  exact (digits_add_mul n a _ _).symm

theorem ofDigits_digits (n k : Nat) (z : Int) : ofDigits n (digits n k z) + pow3 (n * k) * dropLow (n * k) z = z := by
  induction k generalizing z with
  | zero => simp [digits, ofDigits, pow3]
  | succ k ih =>
    have hpow : pow3 (n * (k + 1)) = pow3 n * pow3 (n * k) := by rw [← pow3_add]; congr 1; ring
    have hdrop : dropLow (n * (k + 1)) z = dropLow (n * k) (dropLow n z) := by rw [← dropLow_add]; congr 1; ring
    rw [digits, ofDigits, hpow, hdrop]
    linear_combination pow3 n * ih (dropLow n z) + wrap_add_dropLow n z

theorem ofTrytes_toTrytes (k : Nat) (z : Int) : ofTrytes (toTrytes k z) = wrap (9 * k) z := by
  have hdigits : ofTrytes (toTrytes k z) + pow3 (9 * k) * dropLow (9 * k) z = z := ofDigits_digits 9 k z
  have hwrap := wrap_add_dropLow (9 * k) z
  omega

theorem ofDigits_append (n : Nat) (as bs : List Int) :
    ofDigits n (as ++ bs) = ofDigits n as + pow3 (n * as.length) * ofDigits n bs := by
  induction as with
  | nil => simp [ofDigits, pow3]
  | cons a as ih =>
    have hpow : pow3 (n * (as.length + 1)) = pow3 n * pow3 (n * as.length) := by rw [← pow3_add]; congr 1; ring
    rw [List.cons_append, ofDigits, ofDigits, ih, List.length_cons, hpow]
    ring

theorem sub_ofDigits {n : Nat} {ds : List Int} (h : ∀ d ∈ ds, Fits n d) (i : Nat) : sub (n * i) n (ofDigits n ds) = ds.getD i 0 := by
  induction ds generalizing i with
  | nil => simp [ofDigits, sub, dropLow_zero, wrap_zero]
  | cons d ds ih =>
    obtain ⟨hd, hds⟩ := List.forall_mem_cons.mp h
    cases i with
    | zero => simp [sub, ofDigits, wrap_field, wrap_of_fits hd]
    | succ i =>
      rw [List.getD_cons_succ, ← ih hds, sub, sub, show n * (i + 1) = n + n * i by ring, dropLow_add, ofDigits, dropLow_field hd]

/-! ### Words and lines -/

theorem toTrytes_double (z : Int) : toTrytes 6 z = toTrytes 3 (sub 0 27 z) ++ toTrytes 3 (sub 27 27 z) := by
  rw [sub, sub, dropLow_zero_width]
  exact (digits_append 9 3 3 z).trans (congrArg₂ (· ++ ·) (digits_wrap 9 3 _).symm (digits_wrap 9 3 _).symm)

/-- The trytes of words that stand one after another are the value with those words as its digits. -/
theorem ofTrytes_flatMap_toTrytes {ws : List Int} (h : ∀ w ∈ ws, Fits 27 w) : ofTrytes (ws.flatMap (toTrytes 3)) = ofDigits 27 ws := by
  induction ws with
  | nil => rfl
  | cons w ws ih =>
    obtain ⟨hw, hws⟩ := List.forall_mem_cons.mp h
    have hword : ofDigits 9 (toTrytes 3 w) = w := (ofTrytes_toTrytes 3 w).trans (wrap_of_fits hw)
    have hrest : ofDigits 9 (ws.flatMap (toTrytes 3)) = ofDigits 27 ws := ih hws
    rw [List.flatMap_cons, ofTrytes, ofDigits_append, hword, hrest, toTrytes, digits_length, ofDigits]

theorem getD_flatMap_toTrytes {ws : List Int} {i j : Nat} (hi : i < ws.length) (hj : j < 3) :
    (ws.flatMap (toTrytes 3)).getD (3 * i + j) 0 = sub (9 * j) 9 (ws.getD i 0) := by
  induction ws generalizing i with
  | nil => simp at hi
  | cons w ws ih =>
    have hlen : (toTrytes 3 w).length = 3 := digits_length 9 3 w
    rw [List.flatMap_cons]
    cases i with
    | zero =>
      rw [Nat.mul_zero, Nat.zero_add, List.getD_append _ _ _ _ (by omega), List.getD_cons_zero]
      exact digits_getD hj 9 w
    | succ i =>
      rw [List.getD_append_right _ _ _ _ (by omega), List.getD_cons_succ, ← ih (by simpa using hi), hlen]
      congr 1
      omega

/-! ### Bytes of a packed line -/

theorem ofTrits_map_range (n : Nat) (f : Nat → Int) : ofTrits ((List.range n).map f) = ((List.range n).map fun i => f i * 3 ^ i).sum := by
  have hsum := sum_zipIdx_eq_ofTrits ((List.range n).map f) 0
  have hzip : ((List.range n).map f).zipIdx.map (fun t => t.1 * (3 : Int) ^ t.2) = (List.range n).map fun i => f i * 3 ^ i :=
    List.ext_getElem (by simp) (by simp)
  simpa [hzip] using hsum.symm

theorem ofTrits_fits {ts : List Int} (h : ∀ t ∈ ts, Fits 1 t) : Fits ts.length (ofTrits ts) := by
  induction ts with
  | nil => exact ⟨le_rfl, le_rfl⟩
  | cons d ds ih =>
    obtain ⟨⟨hlo, hhi⟩, hds⟩ := List.forall_mem_cons.mp h
    obtain ⟨hlo', hhi'⟩ := ih hds
    have hone : maxTrits 1 = 1 := rfl
    have hpow : pow3 (ds.length + 1) = pow3 ds.length * 3 := pow3_add _ 1
    have hall := two_maxTrits (ds.length + 1)
    have hrest := two_maxTrits ds.length
    rw [List.length_cons, ofTrits]
    constructor <;> omega

theorem toNat_ofInt_byte {v : Int} (hlo : 0 ≤ v) (hhi : v < 256) : ((BitVec.ofInt 8 v).toNat : Int) = v := by
  rw [BitVec.toNat_ofInt]
  omega

/-- The value that byte j of a packed line carries, from its trits (R245). -/
def carried (ts : List Int) (j n : Nat) : Int :=
  ((List.range n).map fun i => tritAt ((5 * j + i) % 9) (ts.getD ((5 * j + i) / 9) 0) * 3 ^ i).sum

theorem carried_fits (ts : List Int) (j n : Nat) : Fits n (carried ts j n) := by
  have h := ofTrits_fits (ts := (List.range n).map fun i => tritAt ((5 * j + i) % 9) (ts.getD ((5 * j + i) / 9) 0))
    (by simpa using fun _ _ => tritAt_fits _ _)
  rwa [ofTrits_map_range, List.length_map, List.length_range] at h

theorem packByte_toNat_of_lt (ts : List Int) {j : Nat} (h : j < 145) : ((packByte ts j).toNat : Int) = carried ts j 5 + 121 := by
  obtain ⟨hlo, hhi⟩ : -121 ≤ carried ts j 5 ∧ carried ts j 5 ≤ 121 := carried_fits ts j 5
  simp only [packByte, byteTrits, h.ne, if_false, ofTrits_map_range]
  exact toNat_ofInt_byte (by change 0 ≤ carried ts j 5 + 121; omega) (by change carried ts j 5 + 121 < 256; omega)

theorem packByte_toNat_last (ts : List Int) : ((packByte ts 145).toNat : Int) = carried ts 145 4 + 40 := by
  obtain ⟨hlo, hhi⟩ : -40 ≤ carried ts 145 4 ∧ carried ts 145 4 ≤ 40 := carried_fits ts 145 4
  simp only [packByte, byteTrits, if_true, ofTrits_map_range]
  exact toNat_ofInt_byte (by change 0 ≤ carried ts 145 4 + 40; omega) (by change carried ts 145 4 + 40 < 256; omega)

theorem byteUsed_iff_of_lt {j : Nat} (h : j < 145) (b : Byte) : byteUsed j b = true ↔ b.toNat ≤ 242 := by
  simp only [byteUsed, h.ne, if_false, decide_eq_true_eq]
  omega

theorem byteUsed_last_iff (b : Byte) : byteUsed 145 b = true ↔ b.toNat ≤ 80 := by
  simp only [byteUsed, if_true, decide_eq_true_eq]
  omega

/-- Settles O9: a value is its digits of nine trits, the words of a line are its digits of 27, and the trits of a byte never leave its code. -/
theorem storageAndPacking : Obligations.StorageAndPacking := by
  refine ⟨fun n i z hi => digits_getD hi 9 z, ofTrytes_toTrytes, toTrytes_double, fun ws i hlen hws hi => ?line, fun ts => ⟨fun j hj => ?byte, ?last⟩,
    fun b => ⟨fun j hj => byteUsed_iff_of_lt hj b, byteUsed_last_iff b⟩, by decide +kernel, by decide +kernel, by decide +kernel⟩
  case line =>
    have hfits : ∀ w ∈ ws, Fits 27 w := fun w hw => fits_of_two_mul (hws w hw).1 (hws w hw).2
    rw [ofTrytes_flatMap_toTrytes hfits]
    exact ⟨sub_ofDigits hfits i, fun j hj => getD_flatMap_toTrytes (by omega) hj⟩
  case byte =>
    have hcode := packByte_toNat_of_lt ts hj
    exact ⟨hcode, by rw [byteValue, hcode, if_neg hj.ne, add_sub_cancel_right]; rfl⟩
  case last =>
    have hcode := packByte_toNat_last ts
    exact ⟨hcode, by rw [byteValue, hcode, if_pos rfl, add_sub_cancel_right]; rfl⟩

end Sys2Proof.Proofs.Storage

/-! Integer results (R18, R19, R24): fitting rests on the split of a value into its low trits and the rest, rounding on division with remainder. -/
namespace Sys2Proof.Proofs.Integers
open Sys2Proof.Machine Sys2Proof.Laws Sys2Proof.Proofs.Trits

/-! ### Fitting (R18) -/

/-- The limits of n trits as R17 writes them. -/
theorem two_mul_maxTrits (n : Nat) : 2 * maxTrits n = 3 ^ n - 1 := by
  have hodd := two_maxTrits n
  rw [pow3_eq] at hodd
  omega

theorem maxTrits_eq (n : Nat) : maxTrits n = (3 ^ n - 1) / 2 := by
  have hlimit := two_mul_maxTrits n
  omega

theorem pow_dvd_sub_wrap (n : Nat) (z : Int) : (3 : Int) ^ n ∣ z - wrap n z :=
  ⟨dropLow n z, by rw [← pow3_eq]; linear_combination -wrap_add_dropLow n z⟩

theorem fitInt_true_of_fits {n : Nat} {z : Int} (h : Fits n z) : fitInt n true z = ⟨z, 0⟩ := by
  obtain ⟨hlo, hhi⟩ := h
  simp [fitInt, clamp, outside, flagIf, hlo.not_gt, hhi.not_gt]

theorem fitInt_true_of_gt {n : Nat} {z : Int} (h : maxTrits n < z) : fitInt n true z = ⟨maxTrits n, fOverflow⟩ := by
  simp [fitInt, clamp, outside, flagIf, h]

theorem fitInt_true_of_lt {n : Nat} {z : Int} (h : z < -maxTrits n) : fitInt n true z = ⟨-maxTrits n, fOverflow⟩ := by
  have hle : ¬ maxTrits n < z := by have := maxTrits_nonneg n; omega
  simp [fitInt, clamp, outside, flagIf, h, hle]

theorem integerFit : IntegerFit := by
  intro n z _
  have hlimit := two_mul_maxTrits n
  obtain ⟨hlo, hhi⟩ := wrap_fits n z
  refine ⟨⟨?_, ?_, pow_dvd_sub_wrap n z, rfl⟩, fun ⟨hl, hh⟩ => ?_, fun h => ?_, fun h => ?_⟩
  · change 2 * wrap n z ≤ 3 ^ n - 1
    omega
  · change -(3 ^ n - 1) ≤ 2 * wrap n z
    omega
  · exact ⟨wrap_of_fits (fits_of_two_mul hl hh), fitInt_true_of_fits (fits_of_two_mul hl hh)⟩
  · rw [fitInt_true_of_gt (by omega)]
    exact ⟨hlimit, rfl⟩
  · rw [fitInt_true_of_lt (by omega)]
    exact ⟨by change 2 * -maxTrits n = -(3 ^ n - 1); omega, rfl⟩

/-! ### Rounding (R19, R25) -/

/-- The magnitude to which a fraction is rounded. -/
def roundedMag (rnd : Rnd) (draw : Int) (neg : Bool) (n k : Nat) : Nat :=
  if takeUpper rnd draw neg (n % k) k then n / k + 1 else n / k

theorem roundToInt_eq (rnd : Rnd) (draw : Int) (p : Int) (k : Nat) :
    roundToInt rnd draw ⟨p, k⟩ =
      ⟨if p < 0 then -(roundedMag rnd draw (decide (p < 0)) p.natAbs k : Int) else roundedMag rnd draw (decide (p < 0)) p.natAbs k,
        flagIf (decide (p.natAbs % k ≠ 0)) fInexact⟩ := by
  simp only [roundToInt, roundedMag, decide_eq_true_eq]

theorem takeUpper_zero (rnd : Rnd) (draw : Int) (neg : Bool) (k : Nat) : takeUpper rnd draw neg 0 k = false := by
  cases rnd <;> simp [takeUpper]

theorem roundedMag_of_dvd (rnd : Rnd) (draw : Int) (neg : Bool) {n k : Nat} (h : k ∣ n) : roundedMag rnd draw neg n k = n / k := by
  rw [roundedMag, Nat.mod_eq_zero_of_dvd h, takeUpper_zero]
  rfl

/-- A fraction that is no integer goes to the multiple below it or to the one above it, as the mode says. -/
theorem roundedMag_mul (rnd : Rnd) (draw : Int) (neg : Bool) (n k : Nat) :
    takeUpper rnd draw neg (n % k) k = false ∧ roundedMag rnd draw neg n k * k = n - n % k ∨
      takeUpper rnd draw neg (n % k) k = true ∧ roundedMag rnd draw neg n k * k = n - n % k + k := by
  have hdiv := Nat.div_add_mod n k
  cases h : takeUpper rnd draw neg (n % k) k
  · refine .inl ⟨rfl, ?_⟩
    rw [roundedMag, h, if_neg (by simp), mul_comm]
    omega
  · refine .inr ⟨rfl, ?_⟩
    rw [roundedMag, h, if_pos rfl, add_mul, one_mul, mul_comm]
    omega

theorem roundToInt_val_mul (rnd : Rnd) (draw p : Int) (k : Nat) :
    (roundToInt rnd draw ⟨p, k⟩).val * k =
      if p < 0 then -((roundedMag rnd draw (decide (p < 0)) p.natAbs k * k : Nat) : Int)
      else ((roundedMag rnd draw (decide (p < 0)) p.natAbs k * k : Nat) : Int) := by
  rw [roundToInt_eq]
  push_cast
  split <;> ring

theorem roundToInt_of_dvd (rnd : Rnd) (draw : Int) {p : Int} {k : Nat} (h : (k : Int) ∣ p) :
    (roundToInt rnd draw ⟨p, k⟩).val * k = p ∧ (roundToInt rnd draw ⟨p, k⟩).flags = 0 := by
  have hmag : k ∣ p.natAbs := Int.natCast_dvd.mp h
  constructor
  · rw [roundToInt_val_mul, roundedMag_of_dvd _ _ _ hmag, Nat.div_mul_cancel hmag]
    split <;> omega
  · rw [roundToInt_eq, Nat.mod_eq_zero_of_dvd hmag]
    rfl

/-- R19, R24: the rounded value of a fraction that is no integer, as its distance from the exact one. -/
theorem roundToInt_of_not_dvd (rnd : Rnd) (draw : Int) {p : Int} {k : Nat} (hk : 0 < k) (h : ¬ (k : Int) ∣ p) :
    let q := roundToInt rnd draw ⟨p, k⟩
    q.flags = fInexact ∧ (q.val * k - p).natAbs < k ∧ (rnd = .near → 2 * (q.val * k - p).natAbs ≤ k) ∧
      (rnd = .zero → (q.val * k).natAbs ≤ p.natAbs) ∧ (rnd = .up → p ≤ q.val * k) ∧ (rnd = .down → q.val * k ≤ p) := by
  have hpos : 0 < p.natAbs % k := Nat.pos_of_ne_zero fun h0 => h (Int.natCast_dvd.mpr (Nat.dvd_of_mod_eq_zero h0))
  have hlt : p.natAbs % k < k := Nat.mod_lt _ hk
  have hle : p.natAbs % k ≤ p.natAbs := Nat.mod_le _ _
  have hmag := roundedMag_mul rnd draw (decide (p < 0)) p.natAbs k
  have hval := roundToInt_val_mul rnd draw p k
  have hflags : (roundToInt rnd draw ⟨p, k⟩).flags = fInexact := by
    rw [roundToInt_eq]
    simp [flagIf, hpos.ne']
  simp only
  generalize (roundToInt rnd draw ⟨p, k⟩).val * (k : Int) = v at hval ⊢
  generalize roundedMag rnd draw (decide (p < 0)) p.natAbs k * k = u at hval hmag
  have hside : 0 < p ∨ p < 0 := by omega
  refine ⟨hflags, ?_, ?_, ?_, ?_, ?_⟩
  · split at hval <;> omega
  · rintro rfl
    simp only [takeUpper, decide_eq_true_eq, decide_eq_false_iff_not] at hmag
    split at hval <;> omega
  · rintro rfl
    simp only [takeUpper, reduceCtorEq, false_and, or_false, true_and] at hmag
    split at hval <;> omega
  · rintro rfl
    obtain hp | hp := hside
    · simp only [takeUpper, hpos, hp.not_gt, decide_true, decide_false, Bool.not_false, Bool.and_self, reduceCtorEq, false_and, false_or,
        true_and] at hmag
      rw [if_neg hp.not_gt] at hval
      omega
    · simp only [takeUpper, hp, decide_true, Bool.not_true, Bool.and_false, reduceCtorEq, false_and, or_false, true_and] at hmag
      rw [if_pos hp] at hval
      omega
  · rintro rfl
    obtain hp | hp := hside
    · simp only [takeUpper, hp.not_gt, decide_false, Bool.and_false, reduceCtorEq, false_and, or_false, true_and] at hmag
      rw [if_neg hp.not_gt] at hval
      omega
    · simp only [takeUpper, hpos, hp, decide_true, Bool.and_self, reduceCtorEq, false_and, false_or, true_and] at hmag
      rw [if_pos hp] at hval
      omega

/-! ### Division (R19, R28) -/

/-- The quotient of two integers is a fraction whose denominator is the divisor's magnitude. -/
theorem divInt_of_ne_zero (n : Nat) (rnd : Rnd) (draw a : Int) {b : Int} (h : b ≠ 0) :
    divInt n rnd draw a b = roundToInt rnd draw ⟨a * b.sign, b.natAbs⟩ := by
  rw [divInt, if_neg h, Frac.div, Frac.ofInt, Frac.ofInt]
  obtain hneg | hpos := h.lt_or_gt
  · simp [hneg, Int.sign_eq_neg_one_of_neg hneg]
  · simp [hpos.not_gt, Int.sign_eq_one_of_pos hpos]

theorem mul_eq_mul_natAbs_mul_sign (v b : Int) : v * b = v * b.natAbs * b.sign := by
  rw [mul_assoc, mul_comm (b.natAbs : Int), Int.sign_mul_natAbs]

theorem natAbs_mul_sign_of_ne_zero (v : Int) {b : Int} (h : b ≠ 0) : (v * b.sign).natAbs = v.natAbs := by
  rw [Int.natAbs_mul, Int.natAbs_sign_of_ne_zero h, mul_one]

theorem natAbs_dvd_mul_sign_iff (a : Int) {b : Int} (h : b ≠ 0) : (b.natAbs : Int) ∣ a * b.sign ↔ b ∣ a := by
  rw [Int.natCast_dvd, natAbs_mul_sign_of_ne_zero a h, Int.natAbs_dvd_natAbs]

theorem sign_mul_sign_of_ne_zero {b : Int} (h : b ≠ 0) : b.sign * b.sign = 1 := by
  obtain hneg | hpos := h.lt_or_gt
  · rw [Int.sign_eq_neg_one_of_neg hneg]; rfl
  · rw [Int.sign_eq_one_of_pos hpos]; rfl

theorem integerDivision : IntegerDivision := by
  intro n rnd d a b q
  have hdist (hb : b ≠ 0) (v : Int) : v * b - a = (v * b.natAbs - a * b.sign) * b.sign := by
    linear_combination mul_eq_mul_natAbs_mul_sign v b + a * sign_mul_sign_of_ne_zero hb
  refine ⟨fun hb => ?_, fun hb hdvd => ?_, fun hb hdvd => ?_⟩
  · simp only [q, divInt, hb, if_true, maxTrits_eq]
  · obtain ⟨hval, hflags⟩ := roundToInt_of_dvd rnd d ((natAbs_dvd_mul_sign_iff a hb).mpr hdvd)
    rw [← divInt_of_ne_zero n rnd d a hb] at hval hflags
    exact ⟨sub_eq_zero.mp (by rw [hdist hb, hval, sub_self, zero_mul]), hflags⟩
  · have hround := roundToInt_of_not_dvd rnd d (Int.natAbs_pos.mpr hb) fun h => hdvd ((natAbs_dvd_mul_sign_iff a hb).mp h)
    rw [← divInt_of_ne_zero n rnd d a hb] at hround
    obtain ⟨hflags, hnear, hhalf, hzero, hup, hdown⟩ := hround
    rw [natAbs_mul_sign_of_ne_zero a hb] at hzero
    rw [hdist hb, natAbs_mul_sign_of_ne_zero _ hb, mul_eq_mul_natAbs_mul_sign q.val b, natAbs_mul_sign_of_ne_zero _ hb]
    exact ⟨hflags, hnear, hhalf, hzero, hup, hdown⟩

end Sys2Proof.Proofs.Integers

/-! Instructions whose whole effect is scalar results of the issue set's slices (R31, R50, R76): what they do to their gang, said once, and the
frame and results that follow. -/
namespace Sys2Proof.Machine

/-! ### The gang after an instruction -/

/-- The gang as the effect of an instruction of issue set x finds it: its windows are shorter by one instruction (R50). -/
def Iss.ticked (x : Iss) (g : Gang) : Gang := if x.segments = 0 then g.tickWindows x.slices else g

theorem Iss.begun_eq (x : Iss) (s : State) : x.begun s = x.modGang x.ticked s := rfl

@[simp] theorem Iss.ticked_idx (x : Iss) (g : Gang) : (x.ticked g).idx = g.idx := by unfold Iss.ticked; split <;> rfl
@[simp] theorem Iss.ticked_slices (x : Iss) (g : Gang) : (x.ticked g).slices = g.slices := by unfold Iss.ticked; split <;> rfl
@[simp] theorem Iss.ticked_flags (x : Iss) (g : Gang) : (x.ticked g).flags = g.flags := by unfold Iss.ticked; split <;> rfl
@[simp] theorem Iss.ticked_gens (x : Iss) (g : Gang) : (x.ticked g).gens = g.gens := by unfold Iss.ticked; split <;> rfl

@[simp] theorem Iss.ticked_slice (x : Iss) (g : Gang) (k : Nat) : (x.ticked g).slice k = g.slice k := by
  rw [Gang.slice, x.ticked_slices, Gang.slice]

/-- The gang at the end of an instruction of issue set x that goes on: the program counters have moved and the stall is over. -/
def Iss.passed (x : Iss) (g : Gang) : Gang :=
  (g.modSlices x.slices fun _ y => { y with pc := y.pc + 3 * (x.issue.words.length : Int) }).finished x.slices

@[simp] theorem Iss.passed_idx (x : Iss) (g : Gang) : (x.passed g).idx = g.idx := rfl
@[simp] theorem Iss.passed_flags (x : Iss) (g : Gang) : (x.passed g).flags = g.flags := rfl
@[simp] theorem Iss.passed_gens (x : Iss) (g : Gang) : (x.passed g).gens = g.gens := rfl
@[simp] theorem Iss.passed_pending (x : Iss) (g : Gang) : (x.passed g).pending = g.pending := rfl

theorem Gang.slice_finished (g : Gang) (ks : List Nat) (k : Nat) :
    (g.finished ks).slice k = if k < g.slices.length ∧ k ∈ ks then { g.slice k with stall := none } else g.slice k :=
  Gang.slice_modSlices g ks (fun _ y => { y with stall := none }) k

theorem Iss.passed_pc (x : Iss) {g : Gang} {k : Nat} (hk : k ∈ x.slices) (hl : k < g.slices.length) :
    ((x.passed g).slice k).pc = (g.slice k).pc + 3 * (x.issue.words.length : Int) := by
  rw [Iss.passed, Gang.slice_finished, Gang.modSlices_length, if_pos ⟨hl, hk⟩, Gang.slice_modSlices, if_pos ⟨hl, hk⟩]

@[simp] theorem Iss.passed_get (x : Iss) (g : Gang) (k : Nat) (r : SReg) : ((x.passed g).slice k).get r = (g.slice k).get r := by
  rw [Iss.passed, Gang.slice_finished, Gang.slice_modSlices]
  split <;> split <;> rfl

/-- The gang after an instruction of issue set x that does f to it. -/
def Iss.ran (x : Iss) (f : Gang → Gang) (g : Gang) : Gang := x.passed (f (x.ticked g))

theorem Iss.ran_idx (x : Iss) {f : Gang → Gang} (hf : ∀ g, (f g).idx = g.idx) (g : Gang) : (x.ran f g).idx = g.idx :=
  (hf _).trans (x.ticked_idx g)

/-- An instruction that only updates its gang, of an agency that holds no record back, leaves the gang as `Iss.ran` says and all else as it was. -/
theorem finish_advance_modGang (x : Iss) (s0 : State) {f : Gang → Gang} (hf : ∀ g, (f g).idx = g.idx)
    (hq : s0.heldRecords x.ctx.agency = 0) :
    (x.finish s0 (x.advance (x.modGang f (x.begun s0)))).teams = (x.modGang (x.ran f) s0).teams ∧
      (x.finish s0 (x.advance (x.modGang f (x.begun s0)))).beyond = s0.beyond := by
  obtain ⟨hteams, hbeyond⟩ := finish_quiet x s0 (x.advance (x.modGang f (x.begun s0))) hq
  refine ⟨hteams.trans ?_, hbeyond⟩
  have hidx : ∀ g, (f (x.ticked g)).idx = g.idx := x.ran_idx hf
  have hadvance : x.advance (x.modGang f (x.begun s0)) =
      x.modGang (fun g => (f (x.ticked g)).modSlices x.slices fun _ y => { y with pc := y.pc + 3 * (x.issue.words.length : Int) }) s0 := by
    rw [x.begun_eq, Iss.modGang_modGang _ _ _ _ x.ticked_idx]
    exact Iss.modGang_modGang _ _ _ _ hidx
  rw [hadvance]
  exact congrArg State.teams (Iss.modGang_modGang x s0 _ _ hidx)

/-! ### Draws (R27) -/

/-- Spending the draws of a mode is spending those that the mode makes. -/
theorem spend_eq_modGang_drawsOf (x : Iss) (rnd : Rnd) (ls : List Nat) (s : State) :
    x.spend rnd (ls.map fun l => (l, 1)) s = x.modGang (fun g => g.spend (drawsOf rnd ls 1)) s := by
  by_cases h : rnd = .stoch
  · simp [Iss.spend, drawsOf, h]
  · simp only [Iss.spend, drawsOf, h, if_false, false_and]
    exact (modGang_id x s).symm

theorem getZ_gens_spend_of_not_mem (g : Gang) {ws : List (Nat × Nat)} {l : Nat} (h : l ∉ ws.map Prod.fst) :
    getZ l (g.spend ws).gens = getZ l g.gens := by
  induction ws generalizing g with
  | nil => rfl
  | cons c ws ih =>
    rw [List.map_cons, List.mem_cons, not_or] at h
    have hrest := ih { g with gens := setZ c.1 (iter genNext c.2 (getZ c.1 g.gens)) g.gens } h.2
    rw [getZ_setZ_other _ _ _ _ h.1] at hrest
    exact hrest

theorem getZ_gens_spend (g : Gang) {ws : List (Nat × Nat)} (hd : (ws.map Prod.fst).Nodup) {w : Nat × Nat} (hw : w ∈ ws) :
    getZ w.1 (g.spend ws).gens = iter genNext w.2 (getZ w.1 g.gens) := by
  induction ws generalizing g with
  | nil => simp at hw
  | cons c ws ih =>
    rw [List.map_cons, List.nodup_cons] at hd
    let g' : Gang := { g with gens := setZ c.1 (iter genNext c.2 (getZ c.1 g.gens)) g.gens }
    change getZ w.1 (g'.spend ws).gens = _
    obtain rfl | hin := List.mem_cons.mp hw
    · rw [getZ_gens_spend_of_not_mem g' hd.1]
      exact getZ_setZ_same _ _ _
    · have hne : w.1 ≠ c.1 := fun e => hd.1 (e ▸ List.mem_map_of_mem hin)
      rw [ih g' hd.2 hin]
      exact congrArg _ (getZ_setZ_other _ _ _ _ hne)

/-! ### Scalar results -/

theorem putRes_length (g : Gang) (la : Fin 27) (r : SReg) (rs : List (Nat × Res)) : (g.putRes la r rs).slices.length = g.slices.length := by
  unfold Gang.putRes
  split
  · exact putSca_length g r _
  · rfl

theorem putRes_pc (g : Gang) (la : Fin 27) (r : SReg) (rs : List (Nat × Res)) (k : Nat) :
    ((g.putRes la r rs).slice k).pc = (g.slice k).pc := by
  unfold Gang.putRes
  split
  · exact putSca_pc g r _ k
  · rfl

theorem putSca_gens (g : Gang) (r : SReg) (ws : List (Nat × Int)) : (g.putSca r ws).gens = g.gens := by
  unfold Gang.putSca
  induction ws generalizing g with
  | nil => rfl
  | cons w ws ih => rw [List.foldl_cons, ih]; rfl

theorem putRes_gens (g : Gang) (la : Fin 27) (r : SReg) (rs : List (Nat × Res)) : (g.putRes la r rs).gens = g.gens := by
  unfold Gang.putRes
  split
  · exact putSca_gens g r _
  · rfl

theorem putRes_zero_slice (g : Gang) (r : SReg) (rs : List (Nat × Res)) (k : Nat) :
    (g.putRes 0 r rs).slice k = (g.putSca r (rs.map fun p => (p.1, p.2.val))).slice k := rfl

theorem putRes_zero_flags (g : Gang) (r : SReg) (rs : List (Nat × Res)) :
    (g.putRes 0 r rs).flags = joinF g.flags (joinAll (rs.map fun p => p.2.flags)) :=
  congrArg (joinF · _) (putSca_flags g r _)

theorem putRes_pending_of_ne_zero (g : Gang) {la : Fin 27} (h : la ≠ 0) (r : SReg) (rs : List (Nat × Res)) :
    (g.putRes la r rs).pending = g.pending ++ scaPending la r rs := by
  rw [Gang.putRes, if_neg fun h0 : la.val = 0 => h (Fin.ext h0)]

/-- What scalar results leave of the gang (R31, R50, R76). -/
theorem putRes_frame {ks : List Nat} {w : Writes} {a : Gang} (g : Gang) (h : GangFrame ks w a g) (la : Fin 27) (r : SReg)
    (rs : List (Nat × Res)) (hs : la = 0 → ∀ p ∈ rs, w.sca p.1 r ∨ r.val = 0) (hf : la = 0 → w.flags) (ho : la ≠ 0 → w.opens) :
    GangFrame ks w a (g.putRes la r rs) := by
  unfold Gang.putRes
  split
  case isTrue h0 =>
    have hla : la = 0 := Fin.ext h0
    refine (putSca_frame g h r _ fun p hp => ?_).raise _ _ (hf hla)
    obtain ⟨q, hq, rfl⟩ := List.mem_map.mp hp
    exact hs hla q hq
  case isFalse h0 =>
    exact h.trans { GangFrame.refl ks w g with opens := fun hn => absurd (ho fun e => h0 (by rw [e]; rfl)) hn }

/-- What an instruction with scalar results does to its gang: draws spent, then the result of each slice put (R27, R31, R50). -/
def Iss.scalarEffect (x : Iss) (la : Fin 27) (d : SReg) (spent : List (Nat × Nat)) (res : Nat → Res) (g : Gang) : Gang :=
  (g.spend spent).putRes la d (x.slices.map fun k => (k, res k))

section
variable (x : Iss) (la : Fin 27) (d : SReg) (spent : List (Nat × Nat)) (res : Nat → Res)

theorem Iss.scalarEffect_idx (g : Gang) : (x.scalarEffect la d spent res g).idx = g.idx := putRes_idx _ la d _

theorem Iss.scalarEffect_gens (g : Gang) : (x.scalarEffect la d spent res g).gens = (g.spend spent).gens := putRes_gens _ la d _

theorem Iss.ran_scalarEffect_pc {g : Gang} {k : Nat} (hk : k ∈ x.slices) (hl : k < g.slices.length) :
    ((x.ran (x.scalarEffect la d spent res) g).slice k).pc = (g.slice k).pc + 3 * (x.issue.words.length : Int) := by
  have hlen : (x.scalarEffect la d spent res (x.ticked g)).slices.length = g.slices.length :=
    (putRes_length _ la d _).trans (congrArg List.length (x.ticked_slices g))
  rw [Iss.ran, x.passed_pc hk (hlen ▸ hl), Iss.scalarEffect, putRes_pc]
  exact congrArg (fun y : Slice => y.pc + _) (x.ticked_slice g k)

theorem Iss.ran_scalarEffect_get {g : Gang} {k : Nat} (hk : k ∈ x.slices) (hl : k < g.slices.length) (hd : d ≠ 0) :
    ((x.ran (x.scalarEffect 0 d spent res) g).slice k).get d = (res k).val := by
  have hput := putSca_get ((x.ticked g).spend spent) d d x.slices (fun k => (res k).val) k
  rw [if_pos ⟨hk, by rw [Gang.spend_slices, x.ticked_slices]; exact hl, rfl, fun h => hd (Fin.ext h)⟩] at hput
  rw [Iss.ran, x.passed_get, ← hput, Iss.scalarEffect, putRes_zero_slice, List.map_map]
  rfl

theorem Iss.ran_scalarEffect_flags (g : Gang) :
    (x.ran (x.scalarEffect 0 d spent res) g).flags = joinF g.flags (joinAll (x.slices.map fun k => (res k).flags)) := by
  rw [Iss.ran, x.passed_flags, Iss.scalarEffect, putRes_zero_flags, Gang.spend_flags, x.ticked_flags, List.map_map]
  rfl

theorem Iss.mem_ran_scalarEffect_pending (g : Gang) {k : Nat} (hk : k ∈ x.slices) (hla : la ≠ 0) :
    { slices := [k], dest := .sca k d, writes := [(0, (res k).val)], flags := (res k).flags, remaining := la.val } ∈
      (x.ran (x.scalarEffect la d spent res) g).pending := by
  rw [Iss.ran, x.passed_pending, Iss.scalarEffect, putRes_pending_of_ne_zero _ hla]
  exact List.mem_append_right _ (List.mem_map_of_mem (List.mem_map_of_mem hk))

theorem Iss.ran_scalarEffect_gens (g : Gang) (hd : (spent.map Prod.fst).Nodup) {w : Nat × Nat} (hw : w ∈ spent) :
    getZ w.1 (x.ran (x.scalarEffect la d spent res) g).gens = iter genNext w.2 (getZ w.1 g.gens) := by
  rw [Iss.ran, x.passed_gens, x.scalarEffect_gens, getZ_gens_spend _ hd hw, x.ticked_gens]

/-- What an instruction with scalar results may write. -/
theorem Iss.ran_scalarEffect_frame (g : Gang) :
    GangFrame x.slices
      { sca := fun k r => la = 0 ∧ k ∈ x.slices ∧ r = d ∧ d ≠ 0, flags := la = 0, opens := la ≠ 0,
        gen := fun l => l ∈ spent.map Prod.fst, touch := false } g (x.ran (x.scalarEffect la d spent res) g) := by
  refine ((putRes_frame _ (((GangFrame.refl _ _ g).begun g x).spend _ spent fun p hp => List.mem_map_of_mem hp) la d _
    (fun hla p hp => ?_) id id).advance _ _).finished _
  obtain ⟨k, hk, rfl⟩ := List.mem_map.mp hp
  by_cases hd : d = 0
  · exact .inr (by rw [hd]; rfl)
  · exact .inl ⟨hla, hk, rfl, hd⟩

end

/-- An instruction that makes no access and whose effect is scalar results completes with them (R31, R50, R76). -/
theorem runsScalar_of_issue {i : Instr} {s s0 : State} {x : Iss} {la : Fin 27} {d : SReg} {spent : List (Nat × Nat)} {res : Nat → Res}
    {uses : Iss → Uses} {body : Iss → Got → State → Except Stop State} (hx : Issues s false s0 x) (hc : x.clear (x.sDests d))
    (hr : la = 0 ∨ x.room (x.sOpens la)) (he : exec i s = issue uses body s)
    (hu : uses x = { Uses.none with dests := x.sDests d, opens := x.sOpens la })
    (hb : body x ⟨[], [], []⟩ (x.begun s0) = .ok (x.modGang (x.scalarEffect la d spent res) (x.begun s0))) :
    RunsScalar i s s0 x la d spent res := by
  obtain ⟨hfound, hquiet, hin⟩ := hx
  obtain ⟨x0, _, _, hiss⟩ := issuing_eq s s0 false x hfound
  have hgang : s0.gang? x.issue.team x.issue.gang = some x.gang := iss?_gang? s0 x hiss
  have hnext := issueWith_next false false true uses body s s0 _ x hfound (ha := by rw [hu]; rfl) (hf := by rw [hu]; rfl) (hm := by rw [hu]; rfl)
    (hk := by rw [hu]; rfl) (hp := by simp) (hc := by rw [hu]; exact hc) (hv := by rw [hu]; simp [Iss.mayName, Uses.none])
    (hw := .inl (by rw [hu]; exact ⟨rfl, rfl⟩)) (ho := by rw [hu]; exact hr.imp (fun h => by rw [h]; rfl) id) (hb := hb)
  obtain ⟨hteams, hbeyond⟩ := finish_advance_modGang x s0 (x.scalarEffect_idx la d spent res) hquiet
  rw [if_pos rfl] at hnext
  have hown : (x.finish s0 (x.advance (x.modGang (x.scalarEffect la d spent res) (x.begun s0)))).gang? x.issue.team x.issue.gang =
      some (x.ran (x.scalarEffect la d spent res) x.gang) := by
    have hmod := gang?_modGang s0 x.issue.team x.issue.gang x.issue.team x.issue.gang _ (x.ran_idx (x.scalarEffect_idx la d spent res))
    rw [if_pos ⟨rfl, rfl⟩, hgang] at hmod
    rw [← Option.map_some, ← hmod, State.gang?, State.gang?, State.team?, State.team?, hteams]
    rfl
  refine ⟨_, he.trans hnext, fun k hk => ?pc, frame_of s0 _ x _ _ hgang hteams hbeyond (x.ran_idx (x.scalarEffect_idx la d spent res))
    (x.ran_scalarEffect_frame la d spent res x.gang), fun hd w hw => ?gens, fun hla => ⟨fun k hk hd => ?now, ?flags⟩, fun hla k hk => ?later⟩
  all_goals simp only [State.pcOf, State.genOf, State.sreg, Raised, State.flagsOf, State.pendsOf, hown, hgang]
  case pc => exact x.ran_scalarEffect_pc la d spent res hk (hin k hk).1
  case gens => exact x.ran_scalarEffect_gens la d spent res x.gang hd hw
  case now => rw [hla]; exact x.ran_scalarEffect_get d spent res hk (hin k hk).1 hd
  case flags => rw [hla]; exact x.ran_scalarEffect_flags d spent res x.gang
  case later => exact x.mem_ran_scalarEffect_pending la d spent res x.gang hk hla

end Sys2Proof.Machine

/-! The instructions of SALU and SIMM (R80 to R84): each is one scalar result in every slice, so that one completion lemma serves all rows. -/
namespace Sys2Proof.Proofs.Scalars
open Sys2Proof.Machine Sys2Proof.Proofs.Trits Sys2Proof.Proofs.Integers

/-- The draws that an instruction of slices spends, when it rounds by the mode. -/
theorem spend_if_draws (x : Iss) (draws : Bool) (rnd : Rnd) (s : State) :
    (if draws then x.spend rnd (x.slices.map fun k => (3 * k, 1)) s else s) =
      x.modGang (fun g => g.spend (if draws then drawsOf rnd (x.slices.map fun k => 3 * k) 1 else [])) s := by
  cases draws with
  | false => exact (modGang_id x s).symm
  | true =>
    have hspend := spend_eq_modGang_drawsOf x rnd (x.slices.map fun k => 3 * k) s
    rwa [List.map_map] at hspend

/-- Scalar results put after draws are spent are one update of the gang. -/
theorem putS_spent (x : Iss) (la : Fin 27) (d : SReg) (res : Nat → Res) (draws : Bool) (rnd : Rnd) (s : State) :
    x.putS la d (x.slices.map fun k => (k, res k)) (if draws then x.spend rnd (x.slices.map fun k => (3 * k, 1)) s else s) =
      x.modGang (x.scalarEffect la d (if draws then drawsOf rnd (x.slices.map fun k => 3 * k) 1 else []) res) s := by
  rw [spend_if_draws, putS_eq, Iss.modGang_modGang]
  · rfl
  · exact fun g => rfl

/-- Every row of SALU is one instruction of its shape (R80 to R83). -/
theorem exec_saluTable : ∀ row ∈ saluTable, ∀ c s, exec (row.1 c) s = salu c row.2.1 row.2.2 s := by
  simp only [saluTable, List.forall_mem_cons, List.not_mem_nil, false_imp_iff, implies_true, and_true]
  refine ⟨?_, ?_, ?_, ?mulh, ?_, ?_, ?_, ?_, ?_, ?_, ?_, ?_, ?_, ?_, ?_, ?_⟩
  case mulh =>
    intro c s
    simp only [← pow3_eq]
    rfl
  all_goals exact fun _ _ => rfl

/-- Every row of SIMM is one instruction of its shape (R84). -/
theorem exec_simmTable : ∀ row ∈ simmTable, ∀ c s, exec (row.1 c) s = simm c row.2.1 (fun sat rnd d a => row.2.2 sat rnd d a c.imm) s := by
  simp only [simmTable, List.forall_mem_cons, List.not_mem_nil, false_imp_iff, implies_true, and_true]
  refine ⟨?_, ?_, ?_, ?_, ?_, ?_, ?_, ?_, ?_, ?ldhi⟩
  case ldhi =>
    intro c s
    have hpow : (3 : Int) ^ 12 = 531441 := rfl
    simp only [hpow]
    rfl
  all_goals exact fun _ _ => rfl

theorem scalarArithmetic : ScalarArithmetic := by
  intro row hrow s s0 x c hx hc hr
  refine runsScalar_of_issue hx hc (.inr hr) (exec_saluTable row hrow c s) rfl ?_
  rw [← putS_spent]

theorem scalarImmediate : ScalarImmediate := by
  intro row hrow s s0 x c hx hc
  refine runsScalar_of_issue hx hc (.inl rfl) (exec_simmTable row hrow c s) rfl ?_
  rw [← putS_spent]

/-- Settles O10: a value splits into its low trits and the rest, a quotient into the multiple below and the remainder, and every SALU and SIMM
instruction is one scalar result in each slice. -/
theorem scalarOperations : Obligations.ScalarOperations := ⟨integerFit, integerDivision, scalarArithmetic, scalarImmediate⟩

end Sys2Proof.Proofs.Scalars

/-! Traps of a traced agency (R440): where the trap's own record finds its lossless buffer full, the record is held and the gang stalls before its
next instruction, so that what the instruction answers is not the trap alone. -/
namespace Sys2Proof.Proofs.Traced
open Sys2Proof.Machine

/-- A control block that `traceBlockOk` accepts (R356): agency 0, the buffer in the last page of the privileged half, lossless, of the sources the
fault events alone, the write offset at 24,057 and the read offset at 24,063. -/
def fullBlock : List Int := [0, -19683, 19683, 1, 729, 9, 24057, 24063, 0]

/-- Its trace, of which nothing is held. -/
def fullTrace : TraceCfg :=
  { agency := 0, ctx := 0, block := fullBlock, offset := 0, last := none, streams := [], wrote := [], dirty := [], holds := [], mark := none,
    owed := [], synced := [] }

/-- The page tables of the demonstration context with its last privileged page in frame 25, and the read offset, 1: the ring is full. -/
def fullMemory (self : Nat) (m : ZMap) : ZMap :=
  let own : Int := (self : Int) * pow3 29
  setRangeZ (19683 * 24 + 4380) (toTrytes 6 1)
    (setRangeZ (19683 * 36 + 6 * 19682) (toTrytes 6 (25 * pow3 38 + own + pow3 28 + pow3 23 + pow3 22))
      (setRangeZ (19683 * 30 + 6 * 19682) (toTrytes 6 (36 * pow3 38 + own)) (setRangeZ (19683 * 6 + 6 * 9841) (toTrytes 6 (30 * pow3 38 + own)) m)))

/-- All nine slices of the demonstration gang chosen, in a grid that names a handler, with an address in s5 that is no multiple of 3; their agency is
traced into a full buffer. -/
def full : State :=
  let s := State.reset.demo.modGang 1 0 fun g => g.modSlices (List.range 9) fun _ y => y.set 5 19684
  { s with
    mem := { s.mem with hbm := fullMemory s.modul s.mem.hbm }
    grids := [{ demoGrid with launch := demoLaunch.set 6 19686 }]
    scope := { s.scope with cfgs := [fullTrace] }
    cur := some { team := 1, gang := 0, slices := List.range 9, words := [0], apart := false } }

theorem isSome_issuing_full : (full.issuing false).isSome = true := by decide +kernel

/-- The state in which the gang's next instruction finds it, and its issue set. -/
def issuer : State × Iss := (full.issuing false).get isSome_issuing_full

theorem issuing_full : full.issuing false = some (issuer.1, issuer.2) := (Option.some_get isSome_issuing_full).symm

theorem issues_full : Issues full false issuer.1 issuer.2 := ⟨issuing_full, by decide +kernel, by decide +kernel⟩

/-- Why slice 0 of the gang stalls in the state that an instruction answers. -/
def stallAfter (a : Answer) : Option Stall := match a with | .next t => (t.slc 1 0 0).stall | _ => none

/-- Taking a trap leaves no stall: the one that the full buffer imposes comes after it (R440). -/
theorem exec_ne_takeTrap {i : Instr} {t : Trap} (hi : stallAfter (exec i full) = some .trace)
    (ht : stallAfter (.next (takeTrap issuer.1 issuer.2 t)) = none) : exec i full ≠ .next (takeTrap issuer.1 issuer.2 t) := by
  intro h
  rw [h, ht] at hi
  cases hi

/-- Refutes O12: where the agency is traced in lossless mode and its buffer is full, the record of the trap that WRSR of sr.core raises is held, and
the gang stalls with the trace as reason (R440): the state is not that after the trap alone. The clauses on traps have no premise on traces. -/
theorem not_specialRegisterWrites : ¬ Obligations.SpecialRegisterWrites := by
  intro h
  obtain ⟨_, _, _, _, hother⟩ := h full issuer.1 issuer.2 5 issues_full
  exact exec_ne_takeTrap (by decide +kernel) (by decide +kernel) (hother .core (by decide))

/-- Every slice of the issue set holds an address in s5 that is no multiple of 3. -/
theorem misaligned_full : ∀ k ∈ issuer.2.slices, (issuer.2.s k 5 + 0 * 3) % 3 ≠ 0 := by decide +kernel

/-- Refutes O19: where the agency is traced in lossless mode and its buffer is full, the record of the trap that a misaligned load raises is held, and
the gang stalls with the trace as reason (R440): the state is not that after the trap alone. The clause on misaligned accesses has no premise on
traces. -/
theorem not_scalarMemory : ¬ Obligations.ScalarMemory := by
  rintro ⟨_, _, _, hmisaligned⟩
  have htrap := hmisaligned (Instr.ldI27, 3, .load) (by simp) full issuer.1 issuer.2 ⟨4, 5, 0, 0⟩ issuing_full
    (by unfold Unwatched; decide +kernel) (by decide +kernel) (by unfold Iss.clear; decide +kernel) (by decide +kernel) misaligned_full
  exact exec_ne_takeTrap (by decide +kernel) (by decide +kernel) htrap

end Sys2Proof.Proofs.Traced

/-! Decoding what the encoder writes (R44 to R63), instruction by instruction as Sys2Proof/Laws/PerInstr.lean proves it, and the spec's own words. -/
namespace Sys2Proof.Proofs.Encoding
open Sys2Proof.Laws Sys2Proof.Laws.RoundTrip

/-- Settles O1: every instruction with words has its lemma of Sys2Proof/Laws/PerInstr.lean, and the steps of the device have no words. -/
theorem roundTrip : Obligations.RoundTrip
  | .add a => RoundTrip.add a | .sub a => RoundTrip.sub a | .mul a => RoundTrip.mul a | .mulh a => RoundTrip.mulh a
  | .div a => RoundTrip.div a | .rem a => RoundTrip.rem a | .cmp a => RoundTrip.cmp a | .min a => RoundTrip.min a
  | .max a => RoundTrip.max a | .tinv a => RoundTrip.tinv a | .tmin a => RoundTrip.tmin a | .tmax a => RoundTrip.tmax a
  | .tsum a => RoundTrip.tsum a | .tcon a => RoundTrip.tcon a | .shl a => RoundTrip.shl a | .shr a => RoundTrip.shr a
  | .addi a => RoundTrip.addi a | .muli a => RoundTrip.muli a | .cmpi a => RoundTrip.cmpi a | .shli a => RoundTrip.shli a
  | .shri a => RoundTrip.shri a | .tmini a => RoundTrip.tmini a | .tmaxi a => RoundTrip.tmaxi a | .tsumi a => RoundTrip.tsumi a
  | .ldi a => RoundTrip.ldi a | .ldhi a => RoundTrip.ldhi a | .b a b c => RoundTrip.b a b c | .b3 a b c => RoundTrip.b3 a b c
  | .call a b => RoundTrip.call a b | .jr a => RoundTrip.jr a | .jalr a b => RoundTrip.jalr a b | .ret a => RoundTrip.ret a
  | .trap a b => RoundTrip.trap a b | .brk a => RoundTrip.brk a | .rdsr a b => RoundTrip.rdsr a b | .wrsr a b => RoundTrip.wrsr a b
  | .regang a => RoundTrip.regang a | .ldI9 a => RoundTrip.ldI9 a | .ldI27 a => RoundTrip.ldI27 a | .ldI54 a => RoundTrip.ldI54 a
  | .stI9 a => RoundTrip.stI9 a | .stI27 a => RoundTrip.stI27 a | .stI54 a => RoundTrip.stI54 a | .lea a => RoundTrip.lea a
  | .pf a => RoundTrip.pf a | .vadd a => RoundTrip.vadd a | .vsub a => RoundTrip.vsub a | .vmul a => RoundTrip.vmul a
  | .vdiv a => RoundTrip.vdiv a | .vmin a => RoundTrip.vmin a | .vmax a => RoundTrip.vmax a | .vfma a => RoundTrip.vfma a
  | .vfms a => RoundTrip.vfms a | .vabs a => RoundTrip.vabs a | .vcmp a => RoundTrip.vcmp a | .vsel3 a => RoundTrip.vsel3 a
  | .vtinv a => RoundTrip.vtinv a | .vtmin a => RoundTrip.vtmin a | .vtmax a => RoundTrip.vtmax a | .vtsum a => RoundTrip.vtsum a
  | .vtcon a => RoundTrip.vtcon a | .vshl a => RoundTrip.vshl a | .vshr a => RoundTrip.vshr a | .vmov a => RoundTrip.vmov a
  | .vrcp a => RoundTrip.vrcp a | .vrsq a => RoundTrip.vrsq a | .vsqrt a => RoundTrip.vsqrt a | .vexp3 a => RoundTrip.vexp3 a
  | .vlog3 a => RoundTrip.vlog3 a | .vexp a => RoundTrip.vexp a | .vlog a => RoundTrip.vlog a | .vsin a => RoundTrip.vsin a
  | .vcos a => RoundTrip.vcos a | .vtanh a => RoundTrip.vtanh a | .cvt a => RoundTrip.cvt a | .vpack a => RoundTrip.vpack a
  | .vunpk a => RoundTrip.vunpk a | .vshfl a => RoundTrip.vshfl a | .vrotl a => RoundTrip.vrotl a | .vbcast a => RoundTrip.vbcast a
  | .vred a => RoundTrip.vred a | .vscan a => RoundTrip.vscan a | .vcompr a => RoundTrip.vcompr a | .vexpd a => RoundTrip.vexpd a
  | .vidx a => RoundTrip.vidx a | .vins a => RoundTrip.vins a | .vext a => RoundTrip.vext a | .mmin a b c => RoundTrip.mmin a b c
  | .mmax a b c => RoundTrip.mmax a b c | .minv a b => RoundTrip.minv a b | .mcon a b c => RoundTrip.mcon a b c
  | .mset a b => RoundTrip.mset a b | .mget a b => RoundTrip.mget a b | .mcnt a b c => RoundTrip.mcnt a b c | .vaddi a => RoundTrip.vaddi a
  | .vmuli a => RoundTrip.vmuli a | .vcmpi a => RoundTrip.vcmpi a | .vshli a => RoundTrip.vshli a | .vshri a => RoundTrip.vshri a
  | .vldi a => RoundTrip.vldi a | .vld a => RoundTrip.vld a | .vst a => RoundTrip.vst a | .vgth a => RoundTrip.vgth a
  | .vsct a => RoundTrip.vsct a | .vpf a => RoundTrip.vpf a | .phinit a b => RoundTrip.phinit a b | .pharr a b c => RoundTrip.pharr a b c
  | .pharrW a b c => RoundTrip.pharrW a b c | .phexp a b => RoundTrip.phexp a b | .phwait a b => RoundTrip.phwait a b
  | .bar a => RoundTrip.bar a | .syncs a => RoundTrip.syncs a | .yield a b c => RoundTrip.yield a b c | .racq a b => RoundTrip.racq a b
  | .racqW a => RoundTrip.racqW a | .rrel a => RoundTrip.rrel a | .phase a b => RoundTrip.phase a b | .phaseT a b => RoundTrip.phaseT a b
  | .cpyG a => RoundTrip.cpyG a | .cpyS a => RoundTrip.cpyS a | .cpseal a b => RoundTrip.cpseal a b | .cpwaitRd a => RoundTrip.cpwaitRd a
  | .cpwaitVis a => RoundTrip.cpwaitVis a | .jobsub a b => RoundTrip.jobsub a b | .jobqry a b => RoundTrip.jobqry a b
  | .advstg a b => RoundTrip.advstg a b | .ldbS8 a => RoundTrip.ldbS8 a | .ldbS16 a => RoundTrip.ldbS16 a | .ldbS32 a => RoundTrip.ldbS32 a
  | .ldbS64 a => RoundTrip.ldbS64 a | .ldbZ8 a => RoundTrip.ldbZ8 a | .ldbZ16 a => RoundTrip.ldbZ16 a | .ldbZ32 a => RoundTrip.ldbZ32 a
  | .stbS8 a => RoundTrip.stbS8 a | .stbS16 a => RoundTrip.stbS16 a | .stbS32 a => RoundTrip.stbS32 a | .stbS64 a => RoundTrip.stbS64 a
  | .stbZ8 a => RoundTrip.stbZ8 a | .stbZ16 a => RoundTrip.stbZ16 a | .stbZ32 a => RoundTrip.stbZ32 a | .aadd a => RoundTrip.aadd a
  | .amin a => RoundTrip.amin a | .amax a => RoundTrip.amax a | .aswp a => RoundTrip.aswp a | .acas a => RoundTrip.acas a
  | .redm a b c d => RoundTrip.redm a b c d | .fence a => RoundTrip.fence a | .tlbinv a b c d => RoundTrip.tlbinv a b c d
  | .cwb a b => RoundTrip.cwb a b | .cinv a b => RoundTrip.cinv a b | .cwbi a b => RoundTrip.cwbi a b | .mxmN3 a b => RoundTrip.mxmN3 a b
  | .mxmN3Z a b => RoundTrip.mxmN3Z a b | .mxmI9 a b => RoundTrip.mxmI9 a b | .mxmF9 a b => RoundTrip.mxmF9 a b
  | .mxmI27 a b => RoundTrip.mxmI27 a b | .mxmF27 a b => RoundTrip.mxmF27 a b | .mxz a => RoundTrip.mxz a
  | .tld a b c => RoundTrip.tld a b c | .tldC a b c => RoundTrip.tldC a b c | .tst a b c => RoundTrip.tst a b c
  | .tstC a b c => RoundTrip.tstC a b c | .twait a => RoundTrip.twait a | .mxseal a => RoundTrip.mxseal a | .mxwait a => RoundTrip.mxwait a
  | .tkgive a b => RoundTrip.tkgive a b | .tktake a b => RoundTrip.tktake a b | .qnt a => RoundTrip.qnt a | .dqnt a => RoundTrip.dqnt a
  | .rqz a => RoundTrip.rqz a | .bscl a => RoundTrip.bscl a | .zpk a => RoundTrip.zpk a | .zupk a => RoundTrip.zupk a
  | .vdot a => RoundTrip.vdot a | .vdotn a => RoundTrip.vdotn a | .portcfg a b c => RoundTrip.portcfg a b c
  | .post a b => RoundTrip.post a b | .postNf a b c => RoundTrip.postNf a b c | .patset a b c d => RoundTrip.patset a b c d
  | .paten a => RoundTrip.paten a | .patdis a => RoundTrip.patdis a | .portqry a b => RoundTrip.portqry a b
  | .sigdec a b c => RoundTrip.sigdec a b c | .sigadd a b c => RoundTrip.sigadd a b c | .sigbind a b c => RoundTrip.sigbind a b c
  | .launch a => RoundTrip.launch a | .redsub a b => RoundTrip.redsub a b | .redqry a b => RoundTrip.redqry a b
  | .trcev a b => RoundTrip.trcev a b | .trcctlStart a => RoundTrip.trcctlStart a | .trcctlStop a => RoundTrip.trcctlStop a
  | .trcctlFlush a => RoundTrip.trcctlFlush a | .prfctl a b => RoundTrip.prfctl a b | .watch a b => RoundTrip.watch a b
  | .unwatch a => RoundTrip.unwatch a | .dbgwin a b => RoundTrip.dbgwin a b | .haltg a => RoundTrip.haltg a | .resmg a => RoundTrip.resmg a
  | .timerd a b => RoundTrip.timerd a b | .accrd a b c => RoundTrip.accrd a b c | .accrdSnapshot a b => RoundTrip.accrdSnapshot a b
  | .nop => RoundTrip.nop | .rett => RoundTrip.rett | .exit => RoundTrip.exit
  | .sweepSegment _ | .lookaheadResultLands _ _ | .waitRelease _ | .yieldResume _ | .laneCopyReadDone _ | .laneCopyVisible _
  | .faultedCopyFinish _ | .jobStart _ _ | .jobAccess _ _ | .jobReadDone _ _ | .jobVisibleCompletion _ _ | .m2mJobAck _ _
  | .faultedJobFinish _ _ | .redmUpdate _ | .tlbinvComplete _ | .matrixOpEnterArray _ | .matrixOpRetire _ | .tileMoveLand _ _
  | .tokenPass _ _ | .heldSignalPostLand _ | .joinUnitCycle _ | .engineWatchStop _ _ | .gridCompletion _ | .teamEnd _
  | .midPhaseSaveWrite _ | .queueEntryProcess _ _ | .contextCreate _ _ | .contextDestroy _ _ | .openLanding _ _ _ _
  | .closeLanding _ _ _ _ | .linkDownTimeout _ | .moduleFence _ | .fenceAnnouncement _ | .flagFall _ | .rootWrite _
  | .rootWriteTimeout _ | .correctionApply _ | .reductionClose _ | .reductionMapExpiry _ | .syncRecordPeriodic _ _ _
  | .sampleTick _ _ _ | .traceHoldDrain _ _ | .contributionSourceRead _ _ | .atomicServe | .distributorPlace
  | .highPriorityWaitExpiry | .remoteRequestServe | .reductionContributionArrive | .moduleReset | .energyEstimateUpdate
  | .residencyCycleCount | .peerFreeze _ | .translationWalk _ _ _ | .queueTailWrite _ _ _ | .queueStateWrite _ _ _
  | .registerWrite _ _ _ | .rawWindowWrite _ | .rawWindowRead _ | .integerWindowWrite _ | .integerWindowRead _
  | .floatWindowWrite _ | .floatWindowRead _ | .physicalWindowWrite _ | .physicalWindowRead _ | .flitReceive _ _
  | .portDiscovery _ _ | .clusterPowerGate _ _ | .ptpMessage _ | .bootImageLoad _ | .functionReady _ | .getVersion _
  | .getCapabilities _ | .negotiateAlgorithms _ _ _ | .getDigests _ | .getCertificate _ _ | .challenge _ _ _
  | .getMeasurements _ _ | .placementRecordWrite _ _ | .signedSnapshot _ _ | .flashWrite _ _ | .selfTestComplete _ _
  | .thermalThrottle _ _ | .thermalShutdown _ _ | .leaseExpiry _ _ | .fabricTimeHoldover _ _ | .malformedManagementFrame _ _ _
  | .gatedClusterRestart _ => step_only rfl

/-- Settles O3: each word decodes by computation. -/
theorem decodeSamples : Obligations.DecodeSamples :=
  ⟨rfl, rfl, rfl, rfl, rfl, rfl, rfl, rfl, rfl, rfl, rfl, rfl, rfl, rfl⟩

end Sys2Proof.Proofs.Encoding

/-! The order of the checks before an instruction (R50 to R52, R64, R79): each is a branch of `State.precheck`, and a register block not held leaves a
fault in the list on which the last of them turns. -/
namespace Sys2Proof.Machine

/-- A pending result of the issue set awaits a destination that the instruction names (R51). -/
theorem precheck_of_conflict {s : State} {x : Iss} {priv : Bool} {u : Uses}
    (h : ∃ p ∈ x.gang.pending, p.meets x.slices = true ∧ p.dest ∈ u.dests) :
    s.precheck x priv u = (.error (.trap (.of x.lanes .laConflict)), []) := by
  obtain ⟨p, hp, hmeets, hdest⟩ := h
  unfold State.precheck
  rw [if_pos (List.any_eq_true.mpr ⟨p, hp, by simp [hmeets, hdest]⟩)]

theorem Iss.clear.any_eq_false {x : Iss} {ds : List Dest} (h : x.clear ds) :
    (x.gang.pending.any fun p => p.meets x.slices && ds.contains p.dest) = false := by
  refine List.any_eq_false.mpr fun p hp => ?_
  by_cases hm : p.meets x.slices = true
  · simpa [hm] using h p hp hm
  · simp [hm]

theorem precheck_of_unprivileged {s : State} {x : Iss} {u : Uses} (hc : x.clear u.dests) (hp : x.ctx.priv = false) :
    s.precheck x true u = (.error (.trap (.of x.lanes .privilegedInstr)), []) := by
  unfold State.precheck
  rw [hc.any_eq_false]
  simp [hp]

/-- A vector register that the issue set may not name: its block is not held, and no handler has it banked (R79, R259). -/
def Iss.mayNotName (x : Iss) (r : VReg) : Prop := x.gang.holds (r.val / 9) = false ∧ (x.gang.inHandler = false ∨ r.val < 72)

theorem Iss.mayNotName.all_held {x : Iss} {rs : List VReg} (h : ∃ r ∈ rs, x.mayNotName r) :
    (rs.all fun r => x.gang.holds (r.val / 9) || (x.gang.inHandler && decide (72 ≤ r.val))) = false := by
  obtain ⟨r, hr, hblock, hbank⟩ := h
  refine List.all_eq_false.mpr ⟨r, hr, ?_⟩
  rcases hbank with hbank | hbank
  · simp [hblock, hbank]
  · simp [hblock, hbank]

theorem lanes_ne_nil {x : Iss} (h : x.slices ≠ []) : x.lanes ≠ [] := by
  obtain ⟨k, ks, hk⟩ := List.exists_cons_of_ne_nil h
  simp [Iss.lanes, lanesOf, hk]

/-- An instruction that names registers of a block not held passes no checks (R79). -/
theorem precheck_ne_ok_of_mayNotName {s : State} {x : Iss} {priv : Bool} {u : Uses} (hs : x.slices ≠ []) (hr : ∃ r ∈ u.vregs, x.mayNotName r)
    (got : Got) (hs' : List WatchMatch) : s.precheck x priv u ≠ (.ok got, hs') := by
  have hfaults : ∀ rest : List (Nat × Cause × Int), x.lanes.map (fun l => (l, Cause.blockNotHeld, (0 : Int))) ++ rest ≠ [] := by
    simp [lanes_ne_nil hs]
  unfold State.precheck
  simp only [Iss.mayNotName.all_held hr, Bool.false_eq_true, if_false, List.append_assoc, hfaults, if_true, ne_eq, not_false_eq_true]
  repeat' split
  all_goals exact fun h => nomatch h

/-- Where nothing else stops it, it traps in every lane of the issue set (R79, log 76). -/
theorem precheck_of_mayNotName {s : State} {x : Iss} {priv : Bool} {u : Uses} (hc : x.clear u.dests) (hp : priv = true → x.ctx.priv = true)
    (hs : x.slices ≠ []) (hr : ∃ r ∈ u.vregs, x.mayNotName r) (hl : ∀ r ∈ u.vregs, x.gang.landing r = false) (ha : u.accs = [])
    (hk : ∀ seen, u.asks s seen = []) :
    ∃ f hs, s.precheck x priv u = (.error (.trap (.lanesOnly f)), hs) ∧ ∀ l ∈ x.lanes, (l, Cause.blockNotHeld, (0 : Int)) ∈ f := by
  have hpriv : (priv && !x.ctx.priv) = false := by cases priv <;> simp_all
  have hland : u.vregs.any x.gang.landing = false := List.any_eq_false.mpr fun r hr => by simp [hl r hr]
  have hwalkers : s.walkersFull x [] = false := rfl
  have hreach : s.reach x u.later [] = .ok ⟨[], []⟩ := by simp [State.reach]
  have hasked : s.asked x [] = .ok [] := by simp [State.asked, State.answers]
  have hlanes := lanes_ne_nil hs
  unfold State.precheck
  simp only [hc.any_eq_false, hpriv, hland, ha, hwalkers, Iss.mayNotName.all_held hr, hreach, hasked, hk, accFaults, accPlaces, List.map_nil,
    List.flatMap_nil, List.filter_nil, List.append_nil, Bool.false_eq_true, if_false, if_true]
  rw [if_pos (by simp [hlanes])]
  refine ⟨_, _, rfl, fun l hl => ?_⟩
  simp [hl]

/-- Settles O18: each clause is a branch of the checks, in their order. -/
theorem issueChecks : Obligations.IssueChecks := fun _ _ _ _ =>
  ⟨precheck_of_conflict, fun hc hpriv hp => hpriv ▸ precheck_of_unprivileged hc hp, precheck_ne_ok_of_mayNotName,
    fun hc hp hs hr hl _ ha hk => precheck_of_mayNotName hc hp hs hr hl ha hk⟩

end Sys2Proof.Machine

/-! The passing of time leaves whose turn it is, the agents' or the schedulers' (log 1): as it leaves the agenda, and for the same reason. One lemma
for each operation that it goes through, in the order of their definitions, as for the agenda above. -/
namespace Sys2Proof.Machine

theorem foldl_agents {α : Type} {f : State → α → State} (h : ∀ s a, (f s a).agents = s.agents) (l : List α) (s : State) :
    (l.foldl f s).agents = s.agents := by
  induction l generalizing s with
  | nil => rfl
  | cons a l ih => rw [List.foldl_cons, ih, h]

/-! ### Messages to other modules -/

@[simp] theorem State.transmitOn_agents (s : State) (port src dst : Nat) (m : FlitMsg) :
    (s.transmitOn port src dst m).agents = s.agents := rfl

theorem State.launch_agents {s t : State} {q : Outgoing} (h : s.launch q = some t) : t.agents = s.agents := by
  unfold State.launch at h
  split at h
  · split at h
    · cases h; rfl
    · cases h
  · cases h

@[simp] theorem State.transmitFrom_agents (s : State) (src dst : Nat) (m : FlitMsg) :
    (s.transmitFrom src dst m).agents = s.agents := by
  simp only [State.transmitFrom]
  split
  · rfl
  · cases h : State.launch _ _ with
    | none => rfl
    | some t => exact (State.launch_agents h :)

@[simp] theorem State.transmit_agents (s : State) (dst : Nat) (m : FlitMsg) : (s.transmit dst m).agents = s.agents :=
  s.transmitFrom_agents _ _ _

@[simp] theorem State.send_agents (s : State) (agency dst : Nat) (m : FlitMsg) : (s.send agency dst m).agents = s.agents := by
  simp [State.send]

@[simp] theorem State.ask_agents (s : State) (agency : Nat) (w : RemoteWait) (r : RemoteReq) :
    (s.ask agency w r).agents = s.agents := by
  simp [State.ask]

@[simp] theorem State.devSend_agents (s : State) (w : Who) (a : Int) (ls : List Loc) (vs : List Int) :
    (s.devSend w a ls vs).agents = s.agents :=
  foldl_agents (fun _ _ => State.ask_agents _ _ _ _) _ _

@[simp] theorem State.askFor_agents (s : State) (p : Parker) (agency ctx : Nat) (rs : List RemReq) :
    (s.askFor p agency ctx rs).agents = s.agents := by
  unfold State.askFor
  split
  · rfl
  · exact foldl_agents (fun _ _ => State.ask_agents _ _ _ _) _ _

@[simp] theorem State.noteFor_agents (s : State) (p : Parker) (m ctx key : Nat) (todo : Option (List Loc × Update)) :
    (s.noteFor p m ctx key todo).agents = s.agents := rfl

@[simp] theorem State.askParts_agents (s : State) (p : Parker) (agency ctx : Nat) (mixed : Bool) (rs : List RemReq) :
    (s.askParts p agency ctx mixed rs).agents = s.agents := by
  unfold State.askParts
  split
  · simp
  · rw [State.askFor_agents]
    exact foldl_agents (fun _ _ => State.noteFor_agents _ _ _ _ _ _) _ _

@[simp] theorem State.unhold_agents (s : State) (p : Parker) : (s.unhold p).agents = s.agents := rfl
@[simp] theorem State.dropWait_agents (s : State) (p : Parker) (key : Nat) : (s.dropWait p key).agents = s.agents := rfl
@[simp] theorem State.answerAs_agents (s : State) (p : Parker) (key : Nat) (r : RemoteReply) :
    (s.answerAs p key r).agents = s.agents := rfl
@[simp] theorem State.park_agents (s : State) (ctx : Nat) (who : Parker) (ps : List (Int × Int)) :
    (s.park ctx who ps).agents = s.agents := rfl

/-! ### Storage -/

@[simp] theorem State.freeWaiters_agents (s : State) (p : Nat × Nat) : (s.freeWaiters p).agents = s.agents := by
  unfold State.freeWaiters
  split <;> rfl

@[simp] theorem State.phStored_agents (s : State) (t : Nat) (offs : List Nat) : (s.phStored t offs).agents = s.agents := by
  unfold State.phStored
  split
  · rfl
  · exact foldl_agents (fun _ _ => by simp) _ _

@[simp] theorem State.setWindowWord_agents (s : State) (name : Int) (off : Nat) (v : Int) :
    (s.setWindowWord name off v).agents = s.agents := by
  unfold State.setWindowWord
  split <;> rfl

@[simp] theorem State.writeLoc_agents (s : State) (bin : Bool) (l : Loc) (v : Int) : (s.writeLoc bin l v).agents = s.agents := by
  cases l <;> simp [State.writeLoc]

@[simp] theorem State.writeRaw_agents (s : State) (bin : Bool) (ls : List Loc) (vs : List Int) :
    (s.writeRaw bin ls vs).agents = s.agents := by
  simp only [State.writeRaw]
  rw [foldl_agents fun _ _ => State.writeLoc_agents _ _ _ _]
  split <;> rfl

@[simp] theorem State.replaced_agents (s : State) (lines : List Nat) : (s.replaced lines).agents = s.agents := rfl

@[simp] theorem State.writeSlot_agents (s : State) (agency line : Nat) (comp : Bool) :
    (s.writeSlot agency line comp).agents = s.agents := rfl

@[simp] theorem State.evict_agents (s : State) (line : Nat) : (s.evict line).agents = s.agents := by
  simp only [State.evict]
  split
  · rfl
  · split <;> simp

@[simp] theorem State.cacheRoom_agents (keep n : Nat) (s : State) : (State.cacheRoom keep n s).agents = s.agents := by
  induction n generalizing s with
  | zero => rfl
  | succ n ih =>
    unfold State.cacheRoom
    split
    · rfl
    · split
      · rw [ih, State.evict_agents]
      · rfl

@[simp] theorem State.makeRoom_agents (s : State) (line : Nat) : (s.makeRoom line).agents = s.agents := by
  unfold State.makeRoom
  split <;> simp

@[simp] theorem State.passThrough_agents (s : State) (wrote : Bool) (ls : List Loc) : (s.passThrough wrote ls).agents = s.agents := by
  unfold State.passThrough
  split
  · exact foldl_agents (fun s l => by split_ifs <;> simp) _ _
  · rfl

@[simp] theorem State.writeLocs_agents (s : State) (bin : Bool) (ls : List Loc) (vs : List Int) :
    (s.writeLocs bin ls vs).agents = s.agents := by
  have hph : ∀ u : State, ((teamsOf ls).foldl (fun s t => s.phStored t (offsOf t ls)) u).agents = u.agents :=
    foldl_agents (fun _ _ => State.phStored_agents _ _ _) _
  simp only [State.writeLocs]
  split <;> split_ifs <;> simp [hph]

@[simp] theorem State.catchUp_agents (s : State) (cores : Nat → Bool) : (s.catchUp cores).agents = s.agents := rfl
@[simp] theorem State.countAccess_agents (s : State) (agency kind : Nat) : (s.countAccess agency kind).agents = s.agents := rfl
@[simp] theorem State.health_agents (s : State) (event kind index spare detail : Nat) :
    (s.health event kind index spare detail).agents = s.agents := by
  simp only [State.health]

@[simp] theorem State.rowError_agents (s : State) (corrected : Bool) (stack row : Nat) :
    (s.rowError corrected stack row).agents = s.agents := by
  simp only [State.rowError, State.logUnit, State.setTesting]
  split <;> simp

@[simp] theorem State.noteBad_agents (s : State) (ls : List Loc) : (s.noteBad ls).agents = s.agents := by
  unfold State.noteBad State.uncorrectable
  split <;> simp

@[simp] theorem State.correctSlot_agents (s : State) (line : Nat) : (s.correctSlot line).agents = s.agents := by
  unfold State.correctSlot
  split <;> simp

@[simp] theorem State.readSlot_agents (s : State) (agency line : Nat) : (s.readSlot agency line).agents = s.agents := by
  simp [State.readSlot]

@[simp] theorem State.leaveFor_agents (s : State) (comp : Bool) (line : Nat) : (s.leaveFor comp line).agents = s.agents := by
  simp only [State.leaveFor]
  split
  · split <;> simp
  · rfl

@[simp] theorem State.cacheLine_agents (s : State) (x : CacheLine) : (s.cacheLine x).agents = s.agents := by
  simp [State.cacheLine]

@[simp] theorem State.touchLine_agents (s : State) (agency : Nat) (op : AccOp) (whole : Bool) (l : Leaf) (line : Nat) :
    (s.touchLine agency op whole l line).agents = s.agents := by
  simp only [State.touchLine]
  split
  · split_ifs <;> simp
  · split <;> split_ifs <;> simp

@[simp] theorem State.touchWalk_agents (s : State) (w : Who) (a : Int) : (s.touchWalk w a).agents = s.agents := by
  unfold State.touchWalk
  split
  · rfl
  · exact foldl_agents (fun _ _ => State.touchLine_agents _ _ _ _ _ _) _ _

@[simp] theorem State.lease_agents (s : State) (w : Who) (op : AccOp) (line : Nat) : (s.lease w op line).agents = s.agents := by
  simp only [State.lease]
  split
  · rfl
  · split <;> rfl

@[simp] theorem State.touchAt_agents (s : State) (w : Who) (op : AccOp) (cs : List (Int × Loc)) :
    (s.touchAt w op cs).agents = s.agents := by
  simp only [State.touchAt]
  rw [foldl_agents (fun s q => by split <;> simp), foldl_agents fun _ _ => State.touchWalk_agents _ _ _]
  simp only [apply_ite State.agents, State.countAccess_agents, ite_self]
  split
  · split <;> rfl
  · rfl

@[simp] theorem State.touch_agents (s : State) (w : Who) (op : AccOp) (a : Int) (ls : List Loc) :
    (s.touch w op a ls).agents = s.agents :=
  s.touchAt_agents _ _ _

theorem State.devWrite_agents {s t : State} {w : Who} {a : Int} {n : Nat} {v : Int} (h : s.devWrite w a n v = .ok t) :
    t.agents = s.agents := by
  unfold State.devWrite at h
  split at h <;> cases h
  simp

@[simp] theorem State.devWrites_agents (s : State) (w : Who) (a : Int) (vs : List Int) : (s.devWrites w a vs).agents = s.agents := by
  induction vs generalizing s a with
  | nil => rfl
  | cons v vs ih =>
    unfold State.devWrites
    split
    case h_1 h => rw [ih, State.devWrite_agents h]
    case h_2 => rfl

/-! ### Faults logged -/

@[simp] theorem State.logDoubles_agents (s : State) (c : Nat) (ds : List Int) : (s.logDoubles c ds).agents = s.agents := by
  simp only [State.logDoubles]
  split
  · rfl
  · split
    · rfl
    · split
      · exact foldl_agents (fun _ _ => State.devWrites_agents _ _ _ _) _ _
      · rfl

@[simp] theorem State.logFault_agents (s : State) (c : Nat) (e : LogEntry) : (s.logFault c e).agents = s.agents :=
  s.logDoubles_agents _ _

/-! ### Trace records -/

@[simp] theorem State.modCfg_agents (s : State) (agency : Nat) (f : TraceCfg → TraceCfg) : (s.modCfg agency f).agents = s.agents := rfl
@[simp] theorem State.dropCfg_agents (s : State) (agency : Nat) : (s.dropCfg agency).agents = s.agents := rfl

@[simp] theorem State.traceFail_agents (s : State) (c : TraceCfg) (e : Cause) : (s.traceFail c e).agents = s.agents := by
  simp [State.traceFail]

theorem State.traceBytes_agents {s : State} {w : Who} {c : TraceCfg} {off : Nat} {vs : List Int} {r : State × Bool}
    (h : s.traceBytes w c off vs = .ok r) : r.1.agents = s.agents := by
  induction vs generalizing s off with
  | nil => cases h; rfl
  | cons v vs ih =>
    unfold State.traceBytes at h
    split at h
    case h_1 hw => rw [ih h, State.devWrite_agents hw]
    case h_2 => cases h
    case h_3 => cases h; rfl

@[simp] theorem State.traceWrite_agents (s : State) (agency src : Nat) (r : List Int) :
    (s.traceWrite agency src r).agents = s.agents := by
  simp only [State.traceWrite]
  split
  · rfl
  · split
    · rfl
    · split
      case h_1 => simp
      case h_2 hb =>
        have hbytes := State.traceBytes_agents hb
        split
        case h_1 hw => rw [State.devWrite_agents hw]; simpa using hbytes
        case h_2 => simpa using hbytes
        case h_3 => simpa using hbytes

@[simp] theorem State.traceLossless_agents (s : State) (agency src cycle : Nat) (r : List Int) :
    (s.traceLossless agency src cycle r).agents = s.agents := by
  simp only [State.traceLossless]
  split
  · rfl
  · split
    · simp
    · simp
    · split <;> simp

@[simp] theorem State.traceLose_agents (s : State) (agency n cycle : Nat) : (s.traceLose agency n cycle).agents = s.agents := by
  unfold State.traceLose
  split
  · rfl
  · split
    · split
      case h_1 hb => simpa using State.traceBytes_agents hb
      case h_2 => simp
    · rfl

@[simp] theorem State.closeMark_agents (s : State) (agency : Nat) : (s.closeMark agency).agents = s.agents := by
  simp only [State.closeMark, State.modCfg_agents]
  split
  · split <;> simp
  · rfl

@[simp] theorem State.openMark_agents (s : State) (c : TraceCfg) (src time : Nat) : (s.openMark c src time).agents = s.agents := by
  simp [State.openMark]

@[simp] theorem State.traceLossy1_agents (s : State) (agency src time : Nat) (r : List Int) :
    (s.traceLossy1 agency src time r).agents = s.agents := by
  unfold State.traceLossy1
  split
  · rfl
  · split
    · simp
    · simp
    · split <;> simp

@[simp] theorem State.traceLossy_agents (s : State) (agency src cycle : Nat) (event : Bool) (rs : List (Nat × List Int)) :
    (s.traceLossy agency src cycle event rs).agents = s.agents := by
  induction rs generalizing s with
  | nil => rfl
  | cons r rs ih =>
    simp only [State.traceLossy]
    split
    · split
      · rfl
      · split
        · split_ifs <;> simp
        · simp
        · simp
    · rw [ih, State.traceLossy1_agents]

@[simp] theorem State.traceStream_agents (s : State) (agency src cycle : Nat) (sync : Bool) (ev : List (List Int)) :
    (s.traceStream agency src cycle sync ev).agents = s.agents := by
  have hlossless : ∀ (l : List (Nat × List Int)) (u : State),
      (l.foldl (fun s r => s.traceLossless agency src cycle r.2) u).agents = u.agents :=
    foldl_agents fun _ _ => State.traceLossless_agents _ _ _ _ _
  simp only [State.traceStream]
  split
  · rfl
  · split <;> simp [hlossless]

@[simp] theorem State.emit_agents (s : State) (agency src trit : Nat) (r : List Int) : (s.emit agency src trit r).agents = s.agents := by
  unfold State.emit
  split
  · rfl
  · split <;> simp

@[simp] theorem State.emitSample_agents (s : State) (agency src cycle : Nat) (r : List Int) :
    (s.emitSample agency src cycle r).agents = s.agents := by
  simp only [State.emitSample]
  split
  · rfl
  · split
    · rfl
    · split
      · simp
      · split
        · split <;> simp
        · simp
        · simp

@[simp] theorem State.emitSched_agents (s : State) (agency : Nat) (t : Team) (g : Gang) (code operand : Int) :
    (s.emitSched agency t g code operand).agents = s.agents :=
  s.emit_agents _ _ _ _

@[simp] theorem State.emitFault_agents (s : State) (agency core : Nat) (name code cause : Int) :
    (s.emitFault agency core name code cause).agents = s.agents :=
  s.emit_agents _ _ _ _

@[simp] theorem State.engineEvent_agents (s : State) (src ctx team gang : Nat) (queue code num : Int) :
    (s.engineEvent src ctx team gang queue code num).agents = s.agents :=
  s.emit_agents _ _ _ _

@[simp] theorem State.emitJoin_agents (s : State) (t : Team) (what idx gang : Int) : (s.emitJoin t what idx gang).agents = s.agents := by
  unfold State.emitJoin
  split <;> simp

@[simp] theorem State.emitRed_agents (s : State) (r : RedOpen) (code : Int) : (s.emitRed r code).agents = s.agents :=
  s.emit_agents _ _ _ _

@[simp] theorem State.logEvent_agents (s : State) (c : Nat) (e : LogEntry) (name : Int) : (s.logEvent c e name).agents = s.agents := by
  simp only [State.logEvent]
  split <;> simp

@[simp] theorem State.logFor_agents (s : State) (n : Nat) (e : LogEntry) : (s.logFor n e).agents = s.agents := by
  simp only [State.logFor]
  split <;> simp

/-! ### Samples, synchronisation records and stalls of the trace -/

theorem State.after_agents {s : State} {r : Answer} (h : ∀ t, r = .next t → t.agents = s.agents) : (s.after r).agents = s.agents := by
  unfold State.after
  split
  case h_1 t => exact h t rfl
  case h_2 => rfl

@[simp] theorem State.sample_agents (s : State) (core sched cycle : Nat) : (s.sample core sched cycle).agents = s.agents := by
  simp only [State.sample]
  split
  · rfl
  · split_ifs <;> simp

@[simp] theorem State.samplesNow_agents (s : State) : s.samplesNow.agents = s.agents := by
  unfold State.samplesNow
  split
  · rfl
  · refine foldl_agents (fun s k => State.after_agents fun t h => ?_) _ _
    simp only [execSampleTick] at h
    split at h <;> cases h
    simp

@[simp] theorem State.syncsNow_agents (s : State) : s.syncsNow.agents = s.agents := by
  refine foldl_agents (fun s c => ?_) _ _
  split
  · rfl
  · refine foldl_agents (fun s n => State.after_agents fun t h => ?_) _ _
    simp only [execSyncRecordPeriodic] at h
    split at h
    · cases h
    · split at h <;> cases h
      simp

@[simp] theorem State.stallOver_agents (s : State) (agency : Nat) (t : Team) (g : Gang) (k cycle : Nat) :
    (s.stallOver agency t g k cycle).agents = s.agents := by
  simp only [State.stallOver]
  split
  · split
    · split_ifs <;> simp
    · rfl
  · rfl

@[simp] theorem State.endPressure_agents (s : State) : s.endPressure.agents = s.agents := by
  refine foldl_agents (fun s t => ?_) _ _
  split
  · rfl
  · refine foldl_agents (fun s g => ?_) _ _
    dsimp only
    split
    · rfl
    · rw [State.modGang_agents]
      exact foldl_agents (fun _ _ => State.stallOver_agents _ _ _ _ _ _) _ _

/-! ### Ports, patterns and signals -/

@[simp] theorem State.dropPost_agents (s : State) (h : HeldPost) (c : Cause) : (s.dropPost h c).agents = s.agents := by
  simp only [State.dropPost, State.logFor_agents]
  split
  · split <;> simp
  · rfl

@[simp] theorem State.writePort_agents (s : State) (t : Team) (i : Nat) (p : Port) : (s.writePort t i p).agents = s.agents := by
  simp only [State.writePort]
  split
  · rfl
  · split
    · rfl
    · split
      case h_1 h => rw [State.devWrite_agents h, State.modTeam_agents]
      case h_2 => rfl

theorem State.landHeldPost_agents {s t : State} {held : Bool} {p : HeldPost} (h : s.landHeldPost held p = some t) :
    t.agents = s.agents := by
  simp only [State.landHeldPost] at h
  split at h
  · cases h
  · split at h
    · cases h; simp
    · cases h; simp
    · split at h <;> cases h
      split <;> simp

@[simp] theorem State.flushPosts_agents (s : State) (n : Int) : (s.flushPosts n).agents = s.agents := by
  refine foldl_agents (fun s h => ?_) _ _
  split
  · split
    · split
      case h_1 hl => exact State.landHeldPost_agents hl
      case h_2 => rfl
    · rfl
  · rfl

@[simp] theorem State.firePattern_agents (s : State) (t : Team) (i : Nat) : (s.firePattern t i).agents = s.agents := by
  simp only [State.firePattern]
  split
  · rw [foldl_agents fun s q => by split <;> simp]
    simp
  · rfl

@[simp] theorem State.firePost_agents (s : State) (ctx : Nat) (port msg : Int) : (s.firePost ctx port msg).agents = s.agents := by
  simp only [State.firePost]
  split
  · simp
  · split
    · simp
    · split
      · rfl
      · split
        case h_1 hl => exact (State.landHeldPost_agents hl :)
        case h_2 => rfl

@[simp] theorem State.fireBinding_agents (s : State) (l : Loc) : (s.fireBinding l).agents = s.agents := by
  simp only [State.fireBinding]
  split <;> simp

@[simp] theorem State.bindSignal_agents (s : State) (ctx : Nat) (l : Loc) (value port msg : Int) :
    (s.bindSignal ctx l value port msg).agents = s.agents := by
  simp only [State.bindSignal]
  split_ifs <;> simp

@[simp] theorem State.update_agents (s : State) (ctx : Nat) (ls : List Loc) (u : Update) : (s.update ctx ls u).1.agents = s.agents := by
  simp only [State.update]
  split <;> split_ifs <;> simp

/-- An update, whether it is done or waits, leaves the agents of s. -/
def FarUpdate.KeepsAgents (s : State) : FarUpdate → Prop
  | .done t _ _ => t.agents = s.agents
  | .waits t => t.agents = s.agents
  | .bad _ => True

@[simp] theorem FarUpdate.keepsAgents_done (s t : State) (ret : Int) (f : FlagSet) :
    (FarUpdate.done t ret f).KeepsAgents s ↔ t.agents = s.agents := Iff.rfl
@[simp] theorem FarUpdate.keepsAgents_waits (s t : State) : (FarUpdate.waits t).KeepsAgents s ↔ t.agents = s.agents := Iff.rfl
@[simp] theorem FarUpdate.keepsAgents_bad (s : State) (c : Cause) : (FarUpdate.bad c).KeepsAgents s := trivial

theorem FarUpdate.KeepsAgents.of_done {s t : State} {v : FarUpdate} {ret : Int} {f : FlagSet} (hv : v.KeepsAgents s)
    (h : v = .done t ret f) : t.agents = s.agents := by
  subst h; exact hv

theorem FarUpdate.KeepsAgents.of_waits {s t : State} {v : FarUpdate} (hv : v.KeepsAgents s) (h : v = .waits t) :
    t.agents = s.agents := by
  subst h; exact hv

@[simp] theorem State.endSplit_agents (s : State) (p : Parker) (agency ctx : Nat) (ls : List Loc) (u : Update) (old : Int) :
    (s.endSplit p agency ctx ls u old).KeepsAgents s := by
  simp only [State.endSplit, FarUpdate.keepsAgents_done]
  split <;> split_ifs <;> simp

@[simp] theorem State.swapHalf_agents (s : State) (p : Parker) (agency ctx base : Nat) (a : Int) (ls : List Loc) (u : Update)
    (m q j : Nat) (old : Int) : (s.swapHalf p agency ctx base a ls u m q j old).KeepsAgents s := by
  simp only [State.swapHalf]
  split
  · simp
  · split
    · simp
    · split <;> simp
    · split <;> simp
    · simp

@[simp] theorem State.splitUpdate_agents (s : State) (p : Parker) (agency ctx base : Nat) (a : Int) (ls : List Loc) (u : Update) :
    (s.splitUpdate p agency ctx base a ls u).KeepsAgents s := by
  simp only [State.splitUpdate]
  split
  · simp
  · split
    · simp
    · simp
    · split
      · simp
      · split
        · simp
        · split <;> simp

theorem State.farUpdate_agents (s : State) (p : Parker) (agency ctx base : Nat) (a : Int) (ls : List Loc) (u : Update) :
    (s.farUpdate p agency ctx base a ls u).KeepsAgents s := by
  simp only [State.farUpdate]
  split
  · split <;> simp
  · split
    · split
      · simp
      · simp
      · split <;> simp
    · simp

/-- What the device does for somebody, whether it is done or waits, leaves the agents of s. -/
def DevStep.KeepsAgents (s : State) : DevStep → Prop
  | .done t => t.agents = s.agents
  | .waits t => t.agents = s.agents
  | .migr _ => True

@[simp] theorem DevStep.keepsAgents_done (s t : State) : (DevStep.done t).KeepsAgents s ↔ t.agents = s.agents := Iff.rfl
@[simp] theorem DevStep.keepsAgents_waits (s t : State) : (DevStep.waits t).KeepsAgents s ↔ t.agents = s.agents := Iff.rfl
@[simp] theorem DevStep.keepsAgents_migr (s : State) (ps : List (Int × Int)) : (DevStep.migr ps).KeepsAgents s := trivial

theorem State.decrementSignal_agents (s : State) (p : Parker) (c : Context) (a word : Int) :
    (s.decrementSignal p c a word).KeepsAgents s := by
  simp only [State.decrementSignal]
  split
  · simp
  · simp
  · split
    · simp
    · split
      case h_1 h => simpa [apply_ite State.agents] using (State.farUpdate_agents _ _ _ _ _ _ _ _).of_done h
      case h_2 h => simpa [apply_ite State.agents] using (State.farUpdate_agents _ _ _ _ _ _ _ _).of_waits h
      case h_3 => simp

/-! ### Reductions -/

@[simp] theorem State.modOpen_agents (s : State) (root : Bool) (key : Int) (f : RedOpen → RedOpen) :
    (s.modOpen root key f).agents = s.agents := rfl
@[simp] theorem State.dropStage_agents (s : State) (key : Int) : (s.dropStage key).agents = s.agents := rfl
@[simp] theorem State.verdict_agents (s : State) (key : Int) (ctx num : Nat) (st : Int) : (s.verdict key ctx num st).agents = s.agents := rfl

@[simp] theorem State.forward_agents (s : State) (r : RedOpen) : (s.forward r).agents = s.agents := by
  unfold State.forward
  split <;> simp

theorem State.redOn_agents {s : State} {d : DevStep} {made : State → State} (hd : d.KeepsAgents s)
    (hm : ∀ t, (made t).agents = t.agents) (c : Context) (key : Int) : (s.redOn c key d made).agents = s.agents := by
  cases d with
  | done t => exact (hm t).trans hd
  | waits t => exact hd
  | migr ps => rfl

@[simp] theorem State.rootSignal_agents (s : State) (r : RedOpen) : (s.rootSignal r).agents = s.agents := by
  simp only [State.rootSignal]
  split
  · rfl
  · split
    · rfl
    · exact State.redOn_agents (s.decrementSignal_agents _ _ _ _) (State.modOpen_agents · _ _ _) _ _

@[simp] theorem State.tell_agents (s : State) (key : Int) (p : RedPart) (st : Int) : (s.tell key p st).agents = s.agents := by
  simp only [State.tell]
  split
  · split
    · split <;> simp
    · rfl
  · simp

@[simp] theorem State.redLog_agents (s : State) (c : Context) (fails : List (Int × Nat × Cause)) : (s.redLog c fails).agents = s.agents :=
  foldl_agents (fun _ _ => State.logEvent_agents _ _ _ _) _ _

theorem State.enterAll_agents {s t : State} {p : Parker} {w : Who} {bin : Bool} {cs : Cells}
    (h : s.enterAll p w bin cs = .ok t ∨ s.enterAll p w bin cs = .error t) : t.agents = s.agents := by
  simp only [State.enterAll] at h
  split at h
  · obtain h | h := h <;> cases h
    rfl
  · split at h <;> obtain h | h := h <;> cases h <;> simp

theorem State.redEnter_agents (s : State) (c : Context) (key : Int) (ws : List (Int × Nat × List Int)) :
    (s.redEnter c key ws).KeepsAgents s := by
  simp only [State.redEnter]
  split
  · simp
  · split
    · simp
    all_goals
      split
      · exact State.enterAll_agents (.inr ‹_›)
      · simpa using State.enterAll_agents (.inl ‹_›)

@[simp] theorem State.rootEnter_agents (s : State) (r : RedOpen) : (s.rootEnter r).agents = s.agents := by
  have htell : ∀ u : State, (r.parts.foldl (fun s p => s.tell r.key p 3) u).agents = u.agents :=
    foldl_agents (fun _ _ => State.tell_agents _ _ _ _) _
  simp only [State.rootEnter]
  split
  · simp [htell]
  · exact State.redOn_agents (s.redEnter_agents _ _ _) (fun _ => by simp [htell]) _ _

@[simp] theorem State.rootWrite_agents (s : State) (r : RedOpen) : (s.rootWrite r).agents = s.agents := by
  simp [State.rootWrite]

theorem execFlagFall_agents {s t : State} {key : Int} (h : execFlagFall key s = .next t) : t.agents = s.agents := by
  simp only [execFlagFall] at h
  split at h <;> cases h
  split <;> simp

theorem execRootWriteTimeout_agents {s t : State} {key : Int} (h : execRootWriteTimeout key s = .next t) : t.agents = s.agents := by
  unfold execRootWriteTimeout at h
  split at h
  · cases h
  · split at h <;> cases h
    simp

theorem execReductionClose_agents {s t : State} {key : Int} (h : execReductionClose key s = .next t) : t.agents = s.agents := by
  unfold execReductionClose at h
  split at h
  · cases h
  · split at h <;> cases h
    rfl

theorem execReductionMapExpiry_agents {s t : State} {key : Int} (h : execReductionMapExpiry key s = .next t) :
    t.agents = s.agents := by
  simp only [execReductionMapExpiry] at h
  split at h <;> cases h
  rfl

@[simp] theorem State.deadlines_agents (s : State) : s.deadlines.agents = s.agents := by
  refine foldl_agents (fun s k => ?_) _ _
  simp only [State.after_agents fun _ => execReductionMapExpiry_agents, State.after_agents fun _ => execReductionClose_agents,
    State.after_agents fun _ => execRootWriteTimeout_agents, State.after_agents fun _ => execFlagFall_agents]

/-! ### The passing of time -/

@[simp] theorem State.countResidency_agents (s : State) : s.countResidency.agents = s.agents :=
  foldl_agents (fun _ _ => State.count_agents _ _ _ _) _ _

@[simp] theorem State.joinsAt_agents (core f n : Nat) (s : State) : (State.joinsAt core f n s).agents = s.agents := by
  induction f generalizing n s with
  | zero => rfl
  | succ f ih =>
    unfold State.joinsAt
    split
    · rfl
    · split
      · rfl
      · split
        · rfl
        · rw [ih, State.firePattern_agents]

@[simp] theorem State.comes_agents (s : State) (own : Option Nat) (m : Nat) : (s.comes own m).agents = s.agents := by
  simp only [State.comes, State.deadlines_agents]
  rw [foldl_agents fun _ _ => State.joinsAt_agents _ _ _ _]
  simp

@[simp] theorem State.passTo_agents (own : Option Nat) (target f : Nat) (s : State) : (State.passTo own target f s).agents = s.agents := by
  induction f generalizing s with
  | zero => rfl
  | succ f ih =>
    simp only [State.passTo]
    split
    · rfl
    · simp [ih]

@[simp] theorem State.pass_agents (s : State) (own : Option Nat) : (s.pass own).agents = s.agents := by
  simp only [State.pass]
  split <;> simp

end Sys2Proof.Machine

/-! Whose instruction a step runs (R42, R43, R380): fetching leaves the issue set in place, so that what the words decode to is what executes. -/
namespace Sys2Proof.Machine

/-! ### Fetching leaves the issue set -/

/-- The state but for memory, the hub's counts, the health log with its self-tests, and requests to peers, which fetching may change. -/
def State.aside (s : State) : State :=
  { s with mem := State.reset.mem, hub := State.reset.hub, fab := State.reset.fab,
           trust := { s.trust with health := [], written := 0, repeats := [], testing := [] } }

theorem foldl_aside {α : Type} {f : State → α → State} (h : ∀ s a, (f s a).aside = s.aside) (l : List α) (s : State) :
    (l.foldl f s).aside = s.aside := by
  induction l generalizing s with
  | nil => rfl
  | cons a l ih => rw [List.foldl_cons, ih, h]

theorem State.iss?_of_aside {s t : State} (h : t.aside = s.aside) : t.iss? = s.iss? := by
  have haside : ∀ u : State, u.iss? = u.aside.iss? := fun _ => by unfold State.iss?; rfl
  rw [haside t, haside s, h]

@[simp] theorem State.rowError_aside (s : State) (corrected : Bool) (stack row : Nat) : (s.rowError corrected stack row).aside = s.aside := by
  simp only [State.rowError, State.logUnit, State.setTesting, State.health, State.aside]
  split <;> rfl

@[simp] theorem State.correctSlot_aside (s : State) (line : Nat) : (s.correctSlot line).aside = s.aside := by
  unfold State.correctSlot
  split
  · rfl
  · exact State.rowError_aside _ _ _ _

@[simp] theorem State.readSlot_aside (s : State) (agency line : Nat) : (s.readSlot agency line).aside = s.aside :=
  State.correctSlot_aside _ _

@[simp] theorem State.evict_aside (s : State) (line : Nat) : (s.evict line).aside = s.aside := by
  simp only [State.evict]
  split
  · rfl
  · split <;> rfl

@[simp] theorem State.cacheRoom_aside (keep n : Nat) (s : State) : (State.cacheRoom keep n s).aside = s.aside := by
  induction n generalizing s with
  | zero => rfl
  | succ n ih =>
    unfold State.cacheRoom
    split
    · rfl
    · split
      · rw [ih, State.evict_aside]
      · rfl

@[simp] theorem State.makeRoom_aside (s : State) (line : Nat) : (s.makeRoom line).aside = s.aside := by
  unfold State.makeRoom
  split
  · rfl
  · exact State.cacheRoom_aside _ _ _

@[simp] theorem State.cacheLine_aside (s : State) (x : CacheLine) : (s.cacheLine x).aside = s.aside :=
  State.makeRoom_aside _ _

@[simp] theorem State.leaveFor_aside (s : State) (comp : Bool) (line : Nat) : (s.leaveFor comp line).aside = s.aside := by
  simp only [State.leaveFor]
  split
  · split
    · exact State.evict_aside _ _
    · rfl
  · rfl

@[simp] theorem State.touchLine_aside (s : State) (agency : Nat) (op : AccOp) (whole : Bool) (l : Leaf) (line : Nat) :
    (s.touchLine agency op whole l line).aside = s.aside := by
  have hcount : (s.countAccess agency 0).aside = s.aside := rfl
  simp only [State.touchLine]
  split
  · split_ifs <;> simp [hcount]
  · split
    · split_ifs
      · exact hcount
      all_goals simp [hcount]
    · split_ifs <;> simp [hcount]

@[simp] theorem State.touchWalk_aside (s : State) (w : Who) (a : Int) : (s.touchWalk w a).aside = s.aside := by
  unfold State.touchWalk
  split
  · rfl
  · exact foldl_aside (fun _ _ => State.touchLine_aside _ _ _ _ _ _) _ _

@[simp] theorem State.touchWalks_aside (s : State) (w : Who) (a : Int) (n : Nat) : (s.touchWalks w a n).aside = s.aside :=
  foldl_aside (fun s b => by split <;> simp) _ _

@[simp] theorem State.keepWords_aside (s : State) (x : Iss) (n : Nat) : (s.keepWords x n).aside = s.aside := by
  refine foldl_aside (fun s i => ?_) _ _
  split
  · split <;> rfl
  · rfl

@[simp] theorem State.fetched_aside (s : State) (x : Iss) (n : Nat) : (s.fetched x n).aside = s.aside := by
  have hcorrect : ∀ (ls : List Nat) (u : State),
      (ls.foldl (fun s l => if s.mem.cache.any fun c => decide (c.line = l) then s else s.correctSlot l) u).aside = u.aside :=
    foldl_aside fun s l => by split <;> simp
  have hunhold : ∀ (u : State) (p : Parker), (u.unhold p).aside = u.aside := fun _ _ => rfl
  simp only [State.fetched]
  split_ifs <;> simp only [hcorrect, hunhold, State.keepWords_aside, State.touchWalks_aside]

/-! ### The selected issue set executes what its words decode to -/

/-- The issue set with the words that it has fetched. -/
def Iss.fetching (x : Iss) (ws : List Int) : Iss := { x with issue := { x.issue with words := ws } }

theorem State.iss?_down {s : State} {x : Iss} (h : s.iss? = some x) : x.down = s.pairDown x.team.core := by
  unfold State.iss? at h
  repeat' split at h
  all_goals cases h
  rfl

theorem State.iss?_withWords {s : State} {x : Iss} (h : s.iss? = some x) (ws : List Int) :
    (s.withWords ws).iss? = some (x.fetching ws) := by
  obtain ⟨hcur, hteam, hgang, hgrid, hctx⟩ := iss?_eq s x h
  have hteam' : (s.withWords ws).team? x.issue.team = some x.team := hteam
  have hgrid' : (s.withWords ws).grid? x.team.grid = some x.grid := hgrid
  have hctx' : (s.withWords ws).ctx? x.grid.ctx = some x.ctx := hctx
  have hcur' : (s.withWords ws).cur = some { x.issue with words := ws } := by simp [State.withWords, hcur]
  have hdown : (s.withWords ws).pairDown x.team.core = x.down := (State.iss?_down h).symm
  simp [State.iss?, hcur', hteam', hgang, hgrid', hctx', hdown, Iss.fetching]

theorem issueOnce_of_runsWords {v t : State} (h : RunsWords v t) : issueOnce exec v = .next t := by
  obtain ⟨w, x0, x, ws, i, n, hx0, hx, hw, hsweep, howed, hfetch, hdecode, hexec⟩ := h
  have hwords : ((w.fetched x ws.length).withWords ws).iss? = some (x.fetching ws) := by
    refine State.iss?_withWords ?_ ws
    rw [← hx, hw]
    exact State.iss?_of_aside ((State.fetched_aside _ _ _).trans (State.touchWalks_aside _ _ _ _))
  have howed' : (x.fetching ws).owed = none := howed
  simp only [issueOnce, hx0, hx, hsweep, ← hw, hfetch, hwords, howed', hdecode, hexec]

/-- What the attempt of the selected issue set y to issue ends in: the end of its stall is recorded first where it does not stall on (R444). -/
theorem issueNow_of_runsWords {v t t' : State} {y : Iss} (hy : v.iss? = some y) (ht : RunsWords v t)
    (hstall : y.stallsIn v = true ∧ y.stallsIn t = false ∧ RunsWords (v.endStall y) t' ∨ (y.stallsIn v = true → y.stallsIn t = true) ∧ t' = t) :
    issueNow exec v = .next t' := by
  simp only [issueNow, hy, issueOnce_of_runsWords ht]
  obtain ⟨hv, ht', hend⟩ | ⟨hon, rfl⟩ := hstall
  · simp [hv, ht', issueOnce_of_runsWords hend]
  · rw [if_neg]
    simpa using hon

/-! ### The issue sets tried in turn (R380) -/

theorem tryIssue_cons_of_not_stalled {apart : Bool} {c : Cand} {cs : List Cand} {u t : State} (h : issueNow exec (u.choose c apart) = .next t)
    (hs : t.stalled c = false) : tryIssue exec apart (c :: cs) u = (some (.next t), u) := by
  simp [tryIssue, h, hs]

theorem tryIssue_cons_of_stalled {apart : Bool} {c : Cand} {cs : List Cand} {u t : State} (h : issueNow exec (u.choose c apart) = .next t)
    (hs : t.stalled c = true) : tryIssue exec apart (c :: cs) u = tryIssue exec apart cs (u.unchoose c t) := by
  simp [tryIssue, h, hs]

/-- Agents and schedulers take turns where the agenda names none (log 1). -/
theorem State.begin_agents {s : State} (h : s.agenda.head? ≠ some .still) : s.begin.agents = s.agents := by
  obtain ⟨own, he⟩ := State.elapse_eq_pass h
  rw [State.begin, State.catchUp_agents, he, State.pass_agents]

theorem step_of_no_turn {s : State} (hagenda : s.begin.agenda = []) (hagents : s.begin.agents = false) :
    step s = issueStep { s.begin with agents := true } := by
  unfold step
  generalize s.begin = b at *
  cases b
  dsimp only at hagenda hagents
  subst hagenda hagents
  rfl

/-- The state u in which the issue sets cs are tried in a step from s: the turn is a scheduler's, or no turn is named and no agent is due. -/
def State.Tries (s u : State) (apart : Bool) (cs : List Cand) : Prop :=
  (∃ core sched rest, (s.agenda = .issue core sched :: rest ∧ apart = false ∨ s.agenda = .apart core sched :: rest ∧ apart = true) ∧
    u = { s.begin with agenda := rest } ∧ u.candidates core sched = cs) ∨
  (s.agenda = [] ∧ s.agents = false ∧ apart = false ∧ u = { s.begin with agents := true } ∧ u.allCandidates = cs)

/-- The step is what the first issue set that does not stall does. -/
theorem State.Tries.step_eq {s u : State} {apart : Bool} {cs : List Cand} (h : s.Tries u apart cs) {r : Answer} {z : State}
    (ht : tryIssue exec apart cs u = (some r, z)) : step s = r := by
  obtain ⟨core, sched, rest, hagenda, rfl, rfl⟩ | ⟨hagenda, hagents, rfl, rfl, rfl⟩ := h
  · obtain ⟨ha, rfl⟩ | ⟨ha, rfl⟩ := hagenda <;> simp [step, State.begin_agenda_cons ha, schedulerStep, ht]
  · have hnil : s.begin.agenda = [] := (State.begin_agenda (by simp [hagenda])).trans hagenda
    have hturn : s.begin.agents = false := (State.begin_agents (by simp [hagenda])).trans hagents
    simp only [step_of_no_turn hnil hturn, issueStep, ht]

/-- Where all stall, a scheduler's turn ends with what the attempts leave. -/
theorem State.Tries.step_eq_next {s u : State} {apart : Bool} {cs : List Cand} (h : s.Tries u apart cs) {z : State}
    (ht : tryIssue exec apart cs u = (none, z)) (hne : s.agenda ≠ []) : step s = .next z := by
  obtain ⟨core, sched, rest, hagenda, rfl, rfl⟩ | ⟨hagenda, _⟩ := h
  · obtain ⟨ha, rfl⟩ | ⟨ha, rfl⟩ := hagenda <;> simp [step, State.begin_agenda_cons ha, schedulerStep, ht]
  · exact absurd hagenda hne

/-- Settles O4: fetching leaves the issue set as it is, so that its instruction is what its words decode to; the step is what the first issue set
that does not stall does. -/
theorem stepRunsDecoded : Obligations.StepRunsDecoded := by
  intro s u v t t' apart cs c y htries hv hy ht hstall
  have hturn : s.Tries u apart (c :: cs) := htries
  have hissue : issueNow exec (u.choose c apart) = .next t' := hv ▸ issueNow_of_runsWords hy ht hstall
  refine ⟨fun hs => hturn.step_eq (tryIssue_cons_of_not_stalled hissue hs), fun hs => ?_⟩
  have htry := tryIssue_cons_of_stalled (cs := cs) hissue hs
  refine ⟨fun r z hr => hturn.step_eq (htry.trans hr), fun z hz hne => hturn.step_eq_next (htry.trans hz) hne, fun hnil hne => ?_,
    fun d ds z hcons hd hnot => ?_⟩
  · exact hturn.step_eq_next (htry.trans (by rw [hnil]; rfl)) hne
  · exact hturn.step_eq (htry.trans (by rw [hcons]; exact tryIssue_cons_of_not_stalled hd hnot))

end Sys2Proof.Machine
/-! The decoder read backwards (R44 to R63): a word is the packing of its fields, and a field that meets no cause is the code of the operand that it
is read as; so what decodes is well-formed and is what the encoder writes. -/
namespace Sys2Proof.Proofs.Encoding
open Sys2Proof.Machine (wrap sub dropLow)
open Sys2Proof.Laws Sys2Proof.Proofs.Trits

/-! ### A word and its fields -/

theorem fits_add {m n : Nat} {w : Int} (h : Fits (m + n) w) : Fits n (dropLow m w) := by
  have hm := two_maxTrits m
  have hn := two_maxTrits n
  have hmn := two_maxTrits (m + n)
  have hp := pow3_pos m
  rw [pow3_add] at hmn
  have hw := wrap_add_dropLow m w
  obtain ⟨hlo, hhi⟩ := wrap_fits m w
  obtain ⟨hwlo, hwhi⟩ := h
  have hmax : maxTrits (m + n) = maxTrits m + pow3 m * maxTrits n := by nlinarith
  constructor
  · have : pow3 m * (-maxTrits n - 1) < pow3 m * dropLow m w := by nlinarith
    have := lt_of_mul_lt_mul_left this hp.le
    omega
  · have : pow3 m * dropLow m w < pow3 m * (maxTrits n + 1) := by nlinarith
    have := lt_of_mul_lt_mul_left this hp.le
    omega

theorem pack_unpack : ∀ {ns : List Nat} {w : Int}, Fits ns.sum w → pack ns (unpack ns w) = w
  | [], w, h => by
    obtain ⟨hlo, hhi⟩ := h
    have hzero : maxTrits 0 = 0 := rfl
    simp only [List.sum_nil, hzero] at hlo hhi
    simp only [pack]
    omega
  | n :: ns, w, h => by
    rw [List.sum_cons] at h
    rw [unpack, pack, pack_unpack (fits_add h), wrap_add_dropLow]

theorem firstCause_eq_none {es : List Cause} (h : firstCause es = none) : es = [] := by
  cases es with
  | nil => rfl
  | cons e es =>
    simp only [firstCause] at h
    split at h
    · cases h
    · split at h <;> cases h

/-! ### Fields that meet no cause -/

theorem need_eq_nil {c : Bool} {e : Cause} : need c e = [] ↔ c = true := by
  cases c <;> simp [need]

@[simp] theorem regOf_zero (n : Nat) [NeZero n] : regOf n 0 = 0 := by
  simp [regOf]

/-- A register field in range names the register that it reads as (R45). -/
theorem regField_regOf {n : Nat} [NeZero n] {f : Int} (hlo : -(n : Int) < 2 * f) (hhi : 2 * f < n) : regField n (regOf n f) = f := by
  have hn : 0 < n := Nat.pos_of_neZero n
  have hval : ((regOf n f).val : Int) = f % n := by
    have hlt : (f % (n : Int)).toNat < n := by
      have := Int.emod_lt_of_pos f (Int.natCast_pos.mpr hn)
      have := Int.emod_nonneg f (Int.natCast_ne_zero.mpr hn.ne')
      omega
    rw [regOf, Fin.val_ofNat, Nat.mod_eq_of_lt hlt, Int.toNat_of_nonneg (Int.emod_nonneg f (Int.natCast_ne_zero.mpr hn.ne'))]
  have hmod : f % n = if f < 0 then f + n else f := by
    split
    · rw [← Int.add_emod_right, Int.emod_eq_of_lt] <;> omega
    · rw [Int.emod_eq_of_lt] <;> omega
  rw [regField]
  split at hmod <;> split <;> omega

theorem val_regOf {n : Nat} [NeZero n] {f : Int} (hlo : 0 ≤ f) (hhi : f < n) : ((regOf n f).val : Int) = f := by
  rw [regOf, Fin.val_ofNat, Int.emod_eq_of_lt hlo hhi, Nat.mod_eq_of_lt (by omega), Int.toNat_of_nonneg hlo]


@[simp] theorem zeroF_eq_nil {f : Int} : zeroF f = [] ↔ f = 0 := by simp [zeroF, need_eq_nil]
@[simp] theorem laF_eq_nil {b : Bool} {f : Int} : laF b f = [] ↔ b = true ∨ f = 0 := by simp [laF, need_eq_nil]
@[simp] theorem codeF_eq_nil {b : Bool} : codeF b = [] ↔ b = true := need_eq_nil
@[simp] theorem pfxF_eq_nil {b : Bool} : pfxF b = [] ↔ b = true := need_eq_nil
@[simp] theorem noAttr_eq_nil {p : Pfx} : noAttr p = [] ↔ p.attr = none := by simp [noAttr, need_eq_nil]
@[simp] theorem noSweep_eq_nil {p : Pfx} : noSweep p = [] ↔ p.sweep = none := by simp [noSweep, need_eq_nil]
theorem inRange_iff {lo hi f : Int} : inRange lo hi f = true ↔ lo ≤ f ∧ f ≤ hi := by simp [inRange]

@[simp] theorem r27_regOf {f : Int} (h : reg27F f = []) : regField 27 (regOf 27 f) = f := by
  obtain ⟨hlo, hhi⟩ := inRange_iff.mp (need_eq_nil.mp h)
  exact regField_regOf (by omega) (by omega)

@[simp] theorem r9_regOf {f : Int} (h : reg9F f = []) : regField 9 (regOf 9 f) = f := by
  obtain ⟨hlo, hhi⟩ := inRange_iff.mp (need_eq_nil.mp h)
  exact regField_regOf (by omega) (by omega)

theorem regField_81_of_fits {f : Int} (h : Fits 4 f) : regField 81 (regOf 81 f) = f := by
  obtain ⟨hlo, hhi⟩ : -40 ≤ f ∧ f ≤ 40 := h
  exact regField_regOf (by omega) (by omega)

theorem regField_9_of_fits {f : Int} (h : Fits 2 f) : regField 9 (regOf 9 f) = f := by
  obtain ⟨hlo, hhi⟩ : -4 ≤ f ∧ f ≤ 4 := h
  exact regField_regOf (by omega) (by omega)

theorem laField_of_fits {f : Int} (h : Fits 3 f) : laField (laOf f) = f := by
  obtain ⟨hlo, hhi⟩ : -13 ≤ f ∧ f ≤ 13 := h
  exact regField_regOf (by omega) (by omega)

theorem tyField_of_tyOf {f : Int} {t : Ty} (h : tyOf f = some t) : tyField t = f := by
  unfold tyOf at h
  split_ifs at h <;> cases h <;> subst_vars <;> rfl

/-- A type field is the code of a type, or no type at all (R46). -/
theorem ty_cases (f : Int) : (∃ t, f = tyField t) ∨ tyOf f = none := by
  cases h : tyOf f with
  | none => exact .inr rfl
  | some t => exact .inl ⟨t, (tyField_of_tyOf h).symm⟩

@[simp] theorem tyF_tyField {acc : Ty → Bool} {t : Ty} : tyF acc (tyField t) = [] ↔ acc t = true := by
  simp [tyF, need_eq_nil]

theorem tyF_of_none {acc : Ty → Bool} {f : Int} (h : tyOf f = none) : tyF acc f ≠ [] := by
  simp [tyF, need_eq_nil, h]

@[simp] theorem condField_getD {f : Int} (h : (condOf f).isSome = true) : condField ((condOf f).getD .always) = f := by
  obtain ⟨t, ht⟩ := Option.isSome_iff_exists.mp h
  rw [ht, Option.getD_some]
  unfold condOf at ht
  split_ifs at ht <;> cases ht <;> subst_vars <;> rfl

@[simp] theorem scopeField_getD {f : Int} (h : (scopeOf f).isSome = true) : scopeField ((scopeOf f).getD .modul) = f := by
  obtain ⟨t, ht⟩ := Option.isSome_iff_exists.mp h
  rw [ht, Option.getD_some]
  unfold scopeOf at ht
  split_ifs at ht <;> cases ht <;> subst_vars <;> rfl

@[simp] theorem srField_getD {f : Int} (h : (srOf f).isSome = true) : srField ((srOf f).getD .core) = f := by
  have hrange : 1 ≤ f ∧ f ≤ 13 := by
    by_contra hout
    have hnone : srOf f = none := by simp (disch := omega) only [srOf, if_neg]
    rw [hnone] at h
    cases h
  obtain ⟨hlo, hhi⟩ := hrange
  interval_cases f <;> rfl

@[simp] theorem redOpField_getD {f : Int} (h : (redOpOf f).isSome = true) : redOpField ((redOpOf f).getD .add) = f := by
  obtain ⟨t, ht⟩ := Option.isSome_iff_exists.mp h
  rw [ht, Option.getD_some]
  unfold redOpOf at ht
  split_ifs at ht <;> cases ht <;> subst_vars <;> rfl

@[simp] theorem policyField_getD {f : Int} (h : (policyOf f).isSome = true) : policyField ((policyOf f).getD .dflt) = f := by
  obtain ⟨t, ht⟩ := Option.isSome_iff_exists.mp h
  rw [ht, Option.getD_some]
  unfold policyOf at ht
  split_ifs at ht <;> cases ht <;> subst_vars <;> rfl

@[simp] theorem rndField_rndOf {f : Int} (h : rndOk f = true) : rndField (rndOf f) = f := by
  rw [rndOk, Bool.or_eq_true, decide_eq_true_eq] at h
  obtain rfl | h := h
  · rfl
  · obtain ⟨t, ht⟩ := Option.isSome_iff_exists.mp h
    rw [ht]
    unfold rndOf at ht
    split_ifs at ht <;> cases ht <;> subst_vars <;> rfl

@[simp] theorem flagF_eq {f : Int} (h : f = 0 ∨ f = 1) : flagF (decide (f = 1)) = f := by
  obtain rfl | rfl := h <;> rfl

theorem immOk_of_fits {f : Int} (h : Fits 12 f) : immOk f = true := inRange_iff.mpr h
theorem offOk_of_fits {f : Int} (h : Fits 9 f) : offOk f = true := inRange_iff.mpr h
theorem dispOk_of_fits {f : Int} (h : Fits 16 f) : dispOk f = true := inRange_iff.mpr h
theorem disp8Ok_of_fits {f : Int} (h : Fits 8 f) : disp8Ok f = true := inRange_iff.mpr h

/-! ### Words of each format (R44) -/

theorem majorOf_eq (w : Int) : majorOf w = wrap 4 (dropLow 23 w) := rfl

/-- The fields of a word of the register or engine format. -/
theorem regWord_of_fields {w : Int} (h : Fits 27 w) : ∃ ty la k b a d m,
    unpack regWidths w = [ty, la, k, b, a, d, m, majorOf w] ∧ w = regWord (majorOf w) m d a b k la ty ∧
      laField (laOf la) = la ∧ r9 (regOf 9 k) = k ∧ r81 (regOf 81 b) = b ∧ r81 (regOf 81 a) = a ∧ r81 (regOf 81 d) = d := by
  have hu : unpack regWidths w = [wrap 3 w, wrap 3 (dropLow 3 w), wrap 2 (dropLow 6 w), wrap 4 (dropLow 8 w), wrap 4 (dropLow 12 w),
      wrap 4 (dropLow 16 w), wrap 3 (dropLow 20 w), majorOf w] := by
    simp only [regWidths, unpack, majorOf_eq, ← dropLow_add, Nat.reduceAdd]
  refine ⟨_, _, _, _, _, _, _, hu, ?_, laField_of_fits (wrap_fits _ _), regField_9_of_fits (wrap_fits _ _),
    regField_81_of_fits (wrap_fits _ _), regField_81_of_fits (wrap_fits _ _), regField_81_of_fits (wrap_fits _ _)⟩
  rw [regWord, ← hu]
  exact (pack_unpack (ns := regWidths) h).symm

/-- The fields of a word of the immediate format. -/
theorem immWord_of_fields {w : Int} (h : Fits 27 w) : ∃ i a d m,
    unpack immWidths w = [i, a, d, m, majorOf w] ∧ w = immWord (majorOf w) m d a i ∧
      immOk i = true ∧ r81 (regOf 81 a) = a ∧ r81 (regOf 81 d) = d := by
  have hu : unpack immWidths w = [wrap 12 w, wrap 4 (dropLow 12 w), wrap 4 (dropLow 16 w), wrap 3 (dropLow 20 w), majorOf w] := by
    simp only [immWidths, unpack, majorOf_eq, ← dropLow_add, Nat.reduceAdd]
  refine ⟨_, _, _, _, hu, ?_, immOk_of_fits (wrap_fits _ _), regField_81_of_fits (wrap_fits _ _), regField_81_of_fits (wrap_fits _ _)⟩
  rw [immWord, ← hu]
  exact (pack_unpack (ns := immWidths) h).symm

/-- The fields of a word of the memory format, with its offset apart in a word of VGTH and VSCT (R54). -/
theorem memWord_of_fields {w : Int} (h : Fits 27 w) : ∃ la o b d m i z,
    unpack memWidths w = [la, o, b, d, m, majorOf w] ∧ unpack gthWidths w = [la, z, i, b, d, m, majorOf w] ∧
      w = memWord (majorOf w) m d b o la ∧ memWord (majorOf w) m d b o la = pack gthWidths [la, z, i, b, d, m, majorOf w] ∧
      laField (laOf la) = la ∧ offOk o = true ∧ r81 (regOf 81 d) = d ∧ r81 (regOf 81 i) = i := by
  have hu : unpack memWidths w = [wrap 3 w, wrap 9 (dropLow 3 w), wrap 4 (dropLow 12 w), wrap 4 (dropLow 16 w), wrap 3 (dropLow 20 w),
      majorOf w] := by
    simp only [memWidths, unpack, majorOf_eq, ← dropLow_add, Nat.reduceAdd]
  have hg : unpack gthWidths w = [wrap 3 w, wrap 5 (dropLow 3 w), wrap 4 (dropLow 8 w), wrap 4 (dropLow 12 w), wrap 4 (dropLow 16 w),
      wrap 3 (dropLow 20 w), majorOf w] := by
    simp only [gthWidths, unpack, majorOf_eq, ← dropLow_add, Nat.reduceAdd]
  have hword : w = memWord (majorOf w) (wrap 3 (dropLow 20 w)) (wrap 4 (dropLow 16 w)) (wrap 4 (dropLow 12 w)) (wrap 9 (dropLow 3 w)) (wrap 3 w) := by
    rw [memWord, ← hu]
    exact (pack_unpack (ns := memWidths) h).symm
  refine ⟨_, _, _, _, _, _, _, hu, hg, hword, ?_, laField_of_fits (wrap_fits _ _), offOk_of_fits (wrap_fits _ _),
    regField_81_of_fits (wrap_fits _ _), regField_81_of_fits (wrap_fits _ _)⟩
  rw [← hword, ← hg]
  exact (pack_unpack (ns := gthWidths) h).symm

/-- The fields of a word of the branch or system format. -/
theorem braWord_of_fields {w : Int} (h : Fits 27 w) : ∃ i r m,
    unpack braWidths w = [i, r, m, majorOf w] ∧ w = braWord (majorOf w) m r i ∧ dispOk i = true := by
  have hu : unpack braWidths w = [wrap 16 w, wrap 4 (dropLow 16 w), wrap 3 (dropLow 20 w), majorOf w] := by
    simp only [braWidths, unpack, majorOf_eq, ← dropLow_add, Nat.reduceAdd]
  refine ⟨_, _, _, hu, ?_, dispOk_of_fits (wrap_fits _ _)⟩
  rw [braWord, ← hu]
  exact (pack_unpack (ns := braWidths) h).symm

/-- The fields of a word of B3. -/
theorem bra3Word_of_fields {w : Int} (h : Fits 27 w) : ∃ p n r m,
    unpack bra3Widths w = [p, n, r, m, majorOf w] ∧ w = pack bra3Widths [p, n, r, m, majorOf w] ∧ disp8Ok p = true ∧ disp8Ok n = true := by
  have hu : unpack bra3Widths w = [wrap 8 w, wrap 8 (dropLow 8 w), wrap 4 (dropLow 16 w), wrap 3 (dropLow 20 w), majorOf w] := by
    simp only [bra3Widths, unpack, majorOf_eq, ← dropLow_add, Nat.reduceAdd]
  refine ⟨_, _, _, _, hu, ?_, disp8Ok_of_fits (wrap_fits _ _), disp8Ok_of_fits (wrap_fits _ _)⟩
  rw [← hu]
  exact (pack_unpack (ns := bra3Widths) h).symm

/-! ### Prefixes (R55, R58) -/

/-- A prefix word of attributes that meets no cause is the word of the prefix that it reads as. -/
theorem attrWord_attrOf {w : Int} (hw : Fits 27 w) (hM : majorOf w = 12) (h : (attrOf w).1 = []) : attrWord (attrOf w).2 = w := by
  have hu : unpack attrWidths w = [wrap 11 w, wrap 1 (dropLow 11 w), wrap 1 (dropLow 12 w), wrap 4 (dropLow 13 w), wrap 2 (dropLow 17 w),
      wrap 2 (dropLow 19 w), wrap 2 (dropLow 21 w), 12] := by
    simp only [attrWidths, unpack, ← hM, majorOf_eq, ← dropLow_add, Nat.reduceAdd]
  have hpack : pack attrWidths (unpack attrWidths w) = w := pack_unpack hw
  have hfourth : Fits 4 (wrap 4 (dropLow 13 w)) := wrap_fits _ _
  have hmask : Fits 2 (wrap 2 (dropLow 21 w)) := wrap_fits _ _
  rw [hu] at hpack
  simp only [attrOf, hu, fieldOf, List.getD_cons_zero, List.getD_cons_succ, List.append_eq_nil_iff, codeF_eq_nil, zeroF_eq_nil, need_eq_nil,
    Bool.or_eq_true, decide_eq_true_eq] at h
  obtain ⟨⟨⟨⟨⟨hlow, hsat⟩, hpresent⟩, hreg⟩, hrnd⟩, hpolicy⟩ := h
  rw [hlow] at hpack
  refine Eq.trans ?_ hpack
  simp only [attrWord, attrOf, hu, fieldOf, List.getD_cons_zero, List.getD_cons_succ, flagF_eq hsat, rndField_rndOf hrnd, policyField_getD hpolicy,
    regField_9_of_fits hmask]
  obtain h0 | h1 := hpresent
  · have h4 : wrap 4 (dropLow 13 w) = 0 := hreg.resolve_left (not_not.mpr h0)
    simp only [h0, h4]
    rfl
  · simp only [h1, if_true, regField_81_of_fits hfourth]
    rfl

/-- A sweep prefix word that meets no cause is the word of the prefix that it reads as, which is well-formed. -/
theorem sweepWord_sweepOf {w : Int} (hw : Fits 27 w) (hM : majorOf w = 13) (h : (sweepOf w).1 = []) :
    sweepWord (sweepOf w).2 = w ∧ (sweepOf w).2.ok = true := by
  have hu : unpack sweepWidths w = [wrap 5 w, wrap 5 (dropLow 5 w), wrap 5 (dropLow 10 w), wrap 8 (dropLow 15 w), 13] := by
    simp only [sweepWidths, unpack, ← hM, majorOf_eq, ← dropLow_add, Nat.reduceAdd]
  have hpack : pack sweepWidths (unpack sweepWidths w) = w := pack_unpack hw
  obtain ⟨hclo, hchi⟩ : -3280 ≤ wrap 8 (dropLow 15 w) ∧ wrap 8 (dropLow 15 w) ≤ 3280 := wrap_fits 8 _
  obtain ⟨hblo, hbhi⟩ : -121 ≤ wrap 5 w ∧ wrap 5 w ≤ 121 := wrap_fits 5 _
  obtain ⟨halo, hahi⟩ : -121 ≤ wrap 5 (dropLow 5 w) ∧ wrap 5 (dropLow 5 w) ≤ 121 := wrap_fits 5 _
  obtain ⟨hdlo, hdhi⟩ : -121 ≤ wrap 5 (dropLow 10 w) ∧ wrap 5 (dropLow 10 w) ≤ 121 := wrap_fits 5 _
  rw [hu] at hpack
  simp only [Sys2Proof.sweepOf, hu, fieldOf, List.getD_cons_zero, List.getD_cons_succ, need_eq_nil, Bool.and_eq_true, decide_eq_true_eq] at h
  obtain ⟨⟨⟨hcount, hb⟩, ha⟩, hd⟩ := h
  have hback : ((wrap 8 (dropLow 15 w) + 3280).toNat : Int) - 3280 = wrap 8 (dropLow 15 w) := by omega
  simp only [sweepWord, Sys2Proof.sweepOf, hu, fieldOf, List.getD_cons_zero, List.getD_cons_succ, hback, Sweep.ok, inRange_iff, Bool.and_eq_true,
    decide_eq_true_eq]
  exact ⟨hpack, by omega⟩

end Sys2Proof.Proofs.Encoding
namespace Sys2Proof.Proofs.Encoding
open Sys2Proof.Machine (wrap sub dropLow)
open Sys2Proof.Laws Sys2Proof.Proofs.Trits

/-! ### The words of each major opcode -/

/-- Where the word behind the prefixes p meets no cause, it is the word that the encoder writes for what it reads as, which is well-formed. -/
def ReadsBack (p : Pfx) (w : Int) (d : Dec) : Prop :=
  d.errs = [] → d.ins.wellFormed = true ∧ encode d.ins = attrWords p.attr ++ (sweepWords p.sweep ++ [w])

theorem ReadsBack.ite {p : Pfx} {w : Int} {c : Prop} [Decidable c] {d e : Dec} (hd : c → ReadsBack p w d) (he : ReadsBack p w e) :
    ReadsBack p w (if c then d else e) := by
  split
  · next hc => exact hd hc
  · exact he

@[simp] theorem inRange_zero_one {f : Int} : inRange 0 1 f = true ↔ f = 0 ∨ f = 1 := by
  rw [inRange_iff]
  omega

/-- A mask field and a prefix's mask meet no cause exactly when at most one of them names a mask (R57). -/
theorem maskF_eq_nil {p : Pfx} {k : Int} (hk : r9 (regOf 9 k) = k) : maskF p k = [] ↔ maskOnce p.attr (regOf 9 k) = true := by
  have hzero : regOf 9 k = 0 ↔ k = 0 := by
    refine ⟨fun h => ?_, fun h => by rw [h]; rfl⟩
    rw [h] at hk
    exact hk.symm
  rw [maskF, pfxF_eq_nil]
  cases p.attr with
  | none => simp [maskOnce]
  | some a => simp [maskOnce, hzero, or_comm]

theorem val_regOf_3 {f : Int} (h : inRange 0 2 f = true) : ((regOf 3 f).val : Int) = f := by
  obtain ⟨hlo, hhi⟩ := inRange_iff.mp h
  exact val_regOf hlo (by omega)

theorem val_regOf_9 {f : Int} (h : inRange 0 8 f = true) : ((regOf 9 f).val : Int) = f := by
  obtain ⟨hlo, hhi⟩ := inRange_iff.mp h
  exact val_regOf hlo (by omega)

theorem val_regOf_27 {f : Int} (h : inRange 0 26 f = true) : ((regOf 27 f).val : Int) = f := by
  obtain ⟨hlo, hhi⟩ := inRange_iff.mp h
  exact val_regOf hlo (by omega)

theorem wrap_of_dropLow {n : Nat} {x : Int} (h : dropLow n x = 0) : wrap n x = x := by
  have hx := wrap_add_dropLow n x
  rw [h] at hx
  omega

@[simp] theorem tyField_i27 : tyField .i27 = 0 := rfl
@[simp] theorem tyField_n3 : tyField .n3 = 4 := rfl
@[simp] theorem tyOf_four : tyOf 4 = some .n3 := rfl

theorem offOk_of_dropLow {x : Int} (h : dropLow 9 x = 0) : offOk x = true := by
  rw [← wrap_of_dropLow h]
  exact offOk_of_fits (wrap_fits 9 x)

@[simp] theorem laField_zero : laField 0 = 0 := rfl

@[simp] theorem regField_zero (n : Nat) [NeZero n] : regField n 0 = 0 := by
  simp [regField, Nat.pos_of_neZero n]

/-- A scope field of TLBINV names the module or a hop count (R233). -/
theorem scopeOf_of_inRange {k : Int} (h : inRange 0 3 k = true) : (scopeOf k).isSome = true ∧ (scopeOf k).getD .modul ≠ .core ∧
    (scopeOf k).getD .modul ≠ .cluster ∧ (scopeOf k).getD .modul ≠ .die := by
  obtain ⟨hlo, hhi⟩ := inRange_iff.mp h
  interval_cases k <;> decide

theorem valuChk_eq (p : Pfx) (f : Nat → Int) (tys : Ty → Bool) (hasB need4 la : Bool) : valuChk p f tys hasB need4 la =
    pfxF (attr4 need4 p.attr) ++ maskF p (f 2) ++ tyF tys (f 0) ++ laF (la && p.sweep.isNone) (f 1) ++ (if hasB then [] else zeroF (f 3)) ++
      match p.sweep with
      | none => []
      | some sw => reg27F (f 5) ++ reg27F (f 4) ++ reg27F (f 3) ++ pfxF (hasB || decide (sw.bstep = 0)) := rfl

theorem decSalu_readsBack {p : Pfx} {w : Int} (hw : Fits 27 w) (hM : majorOf w = 1) : ReadsBack p w (decSalu p w) := by
  obtain ⟨ty, la, k, b, a, d, m, hu, hword, hla, -⟩ := regWord_of_fields hw
  rw [hM] at hword
  simp only [decSalu, hu, fieldOf, List.getD_cons_zero, List.getD_cons_succ]
  clear hu hM hw
  obtain ⟨t, rfl⟩ | hnone := ty_cases ty
  all_goals repeat' refine ReadsBack.ite (fun hm => ?_) ?_
  all_goals intro hcauses
  all_goals dsimp only [Instr.wellFormed, encode, encSalu, SaluF.ok]
  all_goals simp_all [sweepWords, tyF_of_none]

theorem decSimm_readsBack {p : Pfx} {w : Int} (hw : Fits 27 w) (hM : majorOf w = 2) : ReadsBack p w (decSimm p w) := by
  obtain ⟨i, a, d, m, hu, hword, hi, -⟩ := immWord_of_fields hw
  rw [hM] at hword
  simp only [decSimm, hu, fieldOf, List.getD_cons_zero, List.getD_cons_succ]
  clear hu hM hw
  repeat' refine ReadsBack.ite (fun hm => ?_) ?_
  all_goals intro hcauses
  all_goals dsimp only [Instr.wellFormed, encode, encSimm, SimmF.ok]
  all_goals simp_all [sweepWords]

theorem decB3_readsBack {p : Pfx} {w : Int} (hw : Fits 27 w) (hM : majorOf w = 4) : ReadsBack p w (decB3 p w) := by
  obtain ⟨q, n, r, m, hu, hword, hq, hn⟩ := bra3Word_of_fields hw
  rw [hM] at hword
  simp only [decB3, hu, fieldOf, List.getD_cons_zero, List.getD_cons_succ]
  clear hu hM hw
  intro hcauses
  dsimp only [Instr.wellFormed, encode]
  simp_all [attrWords, sweepWords]

theorem decCall_readsBack {p : Pfx} {w : Int} (hw : Fits 27 w) (hM : majorOf w = 5) : ReadsBack p w (decCall p w) := by
  obtain ⟨i, r, m, hu, hword, hi⟩ := braWord_of_fields hw
  rw [hM] at hword
  simp only [decCall, hu, fieldOf, List.getD_cons_zero, List.getD_cons_succ]
  clear hu hM hw
  intro hcauses
  dsimp only [Instr.wellFormed, encode]
  simp_all [attrWords, sweepWords]

theorem decCtl_readsBack {p : Pfx} {w : Int} (hw : Fits 27 w) (hM : majorOf w = 6) : ReadsBack p w (decCtl p w) := by
  obtain ⟨ty, la, k, b, a, d, m, hu, hword, -⟩ := regWord_of_fields hw
  rw [hM] at hword
  simp only [decCtl, hu, fieldOf, List.getD_cons_zero, List.getD_cons_succ]
  clear hu hM hw
  repeat' refine ReadsBack.ite (fun hm => ?_) ?_
  all_goals intro hcauses
  all_goals dsimp only [Instr.wellFormed, encode]
  all_goals simp_all [attrWords, sweepWords]

theorem decSys_readsBack {p : Pfx} {w : Int} (hw : Fits 27 w) (hM : majorOf w = 7) : ReadsBack p w (decSys p w) := by
  obtain ⟨i, r, m, hu, hword, hi⟩ := braWord_of_fields hw
  rw [hM] at hword
  simp only [decSys, hu, fieldOf, List.getD_cons_zero, List.getD_cons_succ]
  clear hu hM hw
  repeat' refine ReadsBack.ite (fun hm => ?_) ?_
  all_goals intro hcauses
  all_goals dsimp only [Instr.wellFormed, encode]
  all_goals simp_all [attrWords, sweepWords, wrap_of_dropLow, offOk_of_dropLow]

theorem decSmem_readsBack {p : Pfx} {w : Int} (hw : Fits 27 w) (hM : majorOf w = 9) : ReadsBack p w (decSmem p w) := by
  obtain ⟨la, o, b, d, m, _, _, hu, -, hmem, -, hla, ho, -⟩ := memWord_of_fields hw
  rw [hM] at hmem
  simp only [decSmem, hu, fieldOf, List.getD_cons_zero, List.getD_cons_succ]
  clear hu hM hw
  repeat' refine ReadsBack.ite (fun hm => ?_) ?_
  all_goals intro hcauses
  all_goals dsimp only [Instr.wellFormed, encode, encSmem, SmemF.ok]
  all_goals simp_all [attrWords, sweepWords]

theorem decValu_readsBack {p : Pfx} {w : Int} (hw : Fits 27 w) (hM : majorOf w = 14) (hs : ∀ s ∈ p.sweep, Sweep.ok s = true) : ReadsBack p w (decValu p w) := by
  obtain ⟨ty, la, k, b, a, d, m, hu, hword, hla, hk, hb, ha, hd⟩ := regWord_of_fields hw
  rw [hM] at hword
  simp only [decValu, hu, ← maskF.eq_1, fieldOf, List.getD_cons_zero, List.getD_cons_succ]
  clear hu hM hw
  obtain ⟨t, rfl⟩ | hnone := ty_cases ty
  all_goals obtain ⟨errs, attr, - | sw⟩ := p
  all_goals repeat' refine ReadsBack.ite (fun hm => ?_) ?_
  all_goals intro hcauses
  all_goals dsimp only [Instr.wellFormed, encode, encValu, ValuF.ok, VcmpF.ok]
  all_goals simp_all [valuChk_eq, vops3, maskF_eq_nil, fieldOf, sweepWords, tyF_of_none]

theorem decVsfu_readsBack {p : Pfx} {w : Int} (hw : Fits 27 w) (hM : majorOf w = 15) (hs : ∀ s ∈ p.sweep, Sweep.ok s = true) : ReadsBack p w (decVsfu p w) := by
  obtain ⟨ty, la, k, b, a, d, m, hu, hword, hla, hk, hb, ha, hd⟩ := regWord_of_fields hw
  rw [hM] at hword
  simp only [decVsfu, hu, fieldOf, List.getD_cons_zero, List.getD_cons_succ]
  clear hu hM hw
  obtain ⟨t, rfl⟩ | hnone := ty_cases ty
  all_goals obtain ⟨errs, attr, - | sw⟩ := p
  all_goals repeat' refine ReadsBack.ite (fun hm => ?_) ?_
  all_goals intro hcauses
  all_goals dsimp only [Instr.wellFormed, encode, encValu, ValuF.ok]
  all_goals simp_all [valuChk_eq, vops3, maskF_eq_nil, fieldOf, sweepWords, tyF_of_none]

theorem decVperm_readsBack {p : Pfx} {w : Int} (hw : Fits 27 w) (hM : majorOf w = 16) : ReadsBack p w (decVperm p w) := by
  obtain ⟨ty, la, k, b, a, d, m, hu, hword, hla, hk, hb, ha, hd⟩ := regWord_of_fields hw
  rw [hM] at hword
  simp only [decVperm, hu, fieldOf, List.getD_cons_zero, List.getD_cons_succ]
  clear hu hM hw
  obtain ⟨t, rfl⟩ | hnone := ty_cases ty
  all_goals obtain ⟨u, rfl⟩ | hnone := ty_cases b
  all_goals repeat' refine ReadsBack.ite (fun hm => ?_) ?_
  all_goals intro hcauses
  all_goals dsimp only [Instr.wellFormed, encode, encVperm]
  all_goals simp_all [sweepWords, maskF_eq_nil, need_eq_nil, tyF_of_none, CvtF.ok, VpermF.ok, VunpkF.ok, VredF.ok, VpermSF.ok, VcomprF.ok, VidxF.ok, VinsF.ok, isI27, RoundTrip.attr4_false, val_regOf_3]

theorem decVmask_readsBack {p : Pfx} {w : Int} (hw : Fits 27 w) (hM : majorOf w = 17) : ReadsBack p w (decVmask p w) := by
  obtain ⟨ty, la, k, b, a, d, m, hu, hword, -⟩ := regWord_of_fields hw
  rw [hM] at hword
  simp only [decVmask, hu, fieldOf, List.getD_cons_zero, List.getD_cons_succ]
  clear hu hM hw
  repeat' refine ReadsBack.ite (fun hm => ?_) ?_
  all_goals intro hcauses
  all_goals dsimp only [Instr.wellFormed, encode, encVmask]
  all_goals simp_all [attrWords, sweepWords]

theorem decVimm_readsBack {p : Pfx} {w : Int} (hw : Fits 27 w) (hM : majorOf w = 18) (hs : ∀ s ∈ p.sweep, Sweep.ok s = true) : ReadsBack p w (decVimm p w) := by
  obtain ⟨i, a, d, m, hu, hword, hi, ha, hd⟩ := immWord_of_fields hw
  rw [hM] at hword
  simp only [decVimm, hu, fieldOf, List.getD_cons_zero, List.getD_cons_succ]
  clear hu hM hw
  all_goals obtain ⟨errs, attr, - | sw⟩ := p
  all_goals repeat' refine ReadsBack.ite (fun hm => ?_) ?_
  all_goals intro hcauses
  all_goals dsimp only [Instr.wellFormed, encode, encVimm, VimmF.ok, VcmpiF.ok]
  all_goals simp_all [vops2, sweepWords]

theorem decVmem_readsBack {p : Pfx} {w : Int} (hw : Fits 27 w) (hM : majorOf w = 19) : ReadsBack p w (decVmem p w) := by
  obtain ⟨la, o, b, d, m, i, z, hu, hg, hmem, hgth, hla, ho, hd, hi⟩ := memWord_of_fields hw
  rw [hM] at hmem hgth
  simp only [decVmem, hu, hg, fieldOf, List.getD_cons_zero, List.getD_cons_succ]
  clear hu hg hM hw
  repeat' refine ReadsBack.ite (fun hm => ?_) ?_
  all_goals intro hcauses
  all_goals dsimp only [Instr.wellFormed, encode, encVmem, encVgth, VmemF.ok, VgthF.ok]
  all_goals simp_all [sweepWords]

theorem decMxm_readsBack {p : Pfx} {w : Int} (hw : Fits 27 w) (hM : majorOf w = 27) : ReadsBack p w (decMxm p w) := by
  obtain ⟨ty, la, k, b, a, d, m, hu, hword, -, -, hb, ha, -⟩ := regWord_of_fields hw
  rw [hM] at hword
  simp only [decMxm, hu, fieldOf, List.getD_cons_zero, List.getD_cons_succ]
  clear hu hM hw
  repeat' refine ReadsBack.ite (fun hm => ?_) ?_
  all_goals intro hcauses
  all_goals dsimp only [Instr.wellFormed, encode, encMxm]
  all_goals simp_all [attrWords, sweepWords, val_regOf_9]

theorem decMxt_readsBack {p : Pfx} {w : Int} (hw : Fits 27 w) (hM : majorOf w = 28) : ReadsBack p w (decMxt p w) := by
  obtain ⟨ty, la, k, b, a, d, m, hu, hword, -, -, -, -, hd⟩ := regWord_of_fields hw
  rw [hM] at hword
  simp only [decMxt, hu, fieldOf, List.getD_cons_zero, List.getD_cons_succ]
  clear hu hM hw
  repeat' refine ReadsBack.ite (fun hm => ?_) ?_
  all_goals try split
  all_goals intro hcauses
  all_goals dsimp only [Instr.wellFormed, encode, encEng]
  all_goals simp_all [attrWords, sweepWords]

theorem decMxq_readsBack {p : Pfx} {w : Int} (hw : Fits 27 w) (hM : majorOf w = 29) : ReadsBack p w (decMxq p w) := by
  obtain ⟨ty, la, k, b, a, d, m, hu, hword, hla, hk, hb, ha, hd⟩ := regWord_of_fields hw
  rw [hM] at hword
  simp only [decMxq, hu, fieldOf, List.getD_cons_zero, List.getD_cons_succ]
  clear hu hM hw
  obtain ⟨t, rfl⟩ | hnone := ty_cases ty
  all_goals repeat' refine ReadsBack.ite (fun hm => ?_) ?_
  all_goals intro hcauses
  all_goals dsimp only [Instr.wellFormed, encode, encMxq, encZpk, MxqF.ok, ZpkF.ok]
  all_goals simp_all [sweepWords, maskF_eq_nil, tyF_of_none, isN3]

theorem decSync_readsBack {p : Pfx} {w : Int} (hw : Fits 27 w) (hM : majorOf w = -14) : ReadsBack p w (decSync p w) := by
  obtain ⟨ty, la, k, b, a, d, m, hu, hword, -⟩ := regWord_of_fields hw
  rw [hM] at hword
  simp only [decSync, hu, fieldOf, List.getD_cons_zero, List.getD_cons_succ]
  clear hu hM hw
  repeat' refine ReadsBack.ite (fun hm => ?_) ?_
  all_goals try split
  all_goals intro hcauses
  all_goals dsimp only [Instr.wellFormed, encode, encEng]
  all_goals simp_all [attrWords, sweepWords, need_eq_nil]

theorem decCopy_readsBack {p : Pfx} {w : Int} (hw : Fits 27 w) (hM : majorOf w = -15) : ReadsBack p w (decCopy p w) := by
  obtain ⟨ty, la, k, b, a, d, m, hu, hword, -, -, -, -, hd⟩ := regWord_of_fields hw
  rw [hM] at hword
  simp only [decCopy, hu, fieldOf, List.getD_cons_zero, List.getD_cons_succ]
  clear hu hM hw
  repeat' refine ReadsBack.ite (fun hm => ?_) ?_
  all_goals try split
  all_goals intro hcauses
  all_goals dsimp only [Instr.wellFormed, encode, encEng]
  all_goals simp_all [attrWords, sweepWords]

theorem decBmem_readsBack {p : Pfx} {w : Int} (hw : Fits 27 w) (hM : majorOf w = -16) : ReadsBack p w (decBmem p w) := by
  obtain ⟨la, o, b, d, m, _, _, hu, -, hmem, -, -, ho, hd, -⟩ := memWord_of_fields hw
  rw [hM] at hmem
  simp only [decBmem, hu, fieldOf, List.getD_cons_zero, List.getD_cons_succ]
  clear hu hM hw
  repeat' refine ReadsBack.ite (fun hm => ?_) ?_
  all_goals intro hcauses
  all_goals dsimp only [Instr.wellFormed, encode, encBmem, BmemF.ok]
  all_goals simp_all [sweepWords]

theorem decAtom_readsBack {p : Pfx} {w : Int} (hw : Fits 27 w) (hM : majorOf w = -17) : ReadsBack p w (decAtom p w) := by
  obtain ⟨ty, la, k, b, a, d, m, hu, hword, hla, -⟩ := regWord_of_fields hw
  rw [hM] at hword
  simp only [decAtom, hu, fieldOf, List.getD_cons_zero, List.getD_cons_succ]
  clear hu hM hw
  obtain ⟨t, rfl⟩ | hnone := ty_cases ty
  all_goals repeat' refine ReadsBack.ite (fun hm => ?_) ?_
  all_goals intro hcauses
  all_goals dsimp only [Instr.wellFormed, encode, encAtom, encEng]
  all_goals simp_all [attrWords, sweepWords, tyF_of_none, scopeOf_of_inRange]

theorem decPort_readsBack {p : Pfx} {w : Int} (hw : Fits 27 w) (hM : majorOf w = -27) : ReadsBack p w (decPort p w) := by
  obtain ⟨ty, la, k, b, a, d, m, hu, hword, -⟩ := regWord_of_fields hw
  rw [hM] at hword
  simp only [decPort, hu, fieldOf, List.getD_cons_zero, List.getD_cons_succ]
  clear hu hM hw
  repeat' refine ReadsBack.ite (fun hm => ?_) ?_
  all_goals intro hcauses
  all_goals dsimp only [Instr.wellFormed, encode, encEng]
  all_goals simp_all [attrWords, sweepWords]

theorem decGrid_readsBack {p : Pfx} {w : Int} (hw : Fits 27 w) (hM : majorOf w = -28) : ReadsBack p w (decGrid p w) := by
  obtain ⟨ty, la, k, b, a, d, m, hu, hword, -⟩ := regWord_of_fields hw
  rw [hM] at hword
  simp only [decGrid, hu, fieldOf, List.getD_cons_zero, List.getD_cons_succ]
  clear hu hM hw
  repeat' refine ReadsBack.ite (fun hm => ?_) ?_
  all_goals intro hcauses
  all_goals dsimp only [Instr.wellFormed, encode, encEng]
  all_goals simp_all [attrWords, sweepWords]

theorem condOf_ne_always {f : Int} (h : f ≠ 0) (hsome : (condOf f).isSome = true) : (condOf f).getD .always ≠ .always := by
  intro halways
  have hfield := condField_getD hsome
  rw [halways] at hfield
  exact h hfield.symm

theorem decB_readsBack {p : Pfx} {w : Int} (hw : Fits 27 w) (hM : majorOf w = 3) : ReadsBack p w (decB p w) := by
  obtain ⟨i, r, m, hu, hword, hi⟩ := braWord_of_fields hw
  rw [hM] at hword
  simp only [decB, hu, fieldOf, List.getD_cons_zero, List.getD_cons_succ]
  clear hu hM hw
  intro hcauses
  dsimp only [Instr.wellFormed, encode]
  by_cases hm : m = 0
  · simp_all [attrWords, sweepWords]
  · simp_all [attrWords, sweepWords, condOf_ne_always]

theorem trcctl_readsBack {p : Pfx} {r k : Int} : ReadsBack p (braWord (-29) 2 r k)
    ⟨noAttr p ++ noSweep p ++ reg27F r ++ codeF (decide (k = 1) || decide (k = -1) || decide (k = 2)),
     if k = 1 then .trcctlStart (regOf 27 r) else if k = -1 then .trcctlStop (regOf 27 r) else .trcctlFlush (regOf 27 r)⟩ := by
  intro hcauses
  simp only [List.append_eq_nil_iff, noAttr_eq_nil, noSweep_eq_nil, codeF_eq_nil, Bool.or_eq_true, decide_eq_true_eq] at hcauses
  obtain ⟨⟨⟨hattr, hsweep⟩, hr⟩, (rfl | rfl) | rfl⟩ := hcauses <;> refine ⟨rfl, ?_⟩ <;> dsimp only [encode] <;>
    simp [attrWords, sweepWords, hattr, hsweep, hr]

theorem timerd_readsBack {p : Pfx} {r k : Int} : ReadsBack p (braWord (-29) 7 r k)
    ⟨noAttr p ++ noSweep p ++ reg27F r ++ codeF (inRange 0 2 k),
     .timerd (regOf 27 r) (if k = 0 then .fabric else if k = 1 then .skew else .cycles)⟩ := by
  intro hcauses
  simp only [List.append_eq_nil_iff, noAttr_eq_nil, noSweep_eq_nil, codeF_eq_nil, inRange_iff] at hcauses
  obtain ⟨⟨⟨hattr, hsweep⟩, hr⟩, hlo, hhi⟩ := hcauses
  refine ⟨rfl, ?_⟩
  dsimp only [encode]
  interval_cases k <;> simp [attrWords, sweepWords, hattr, hsweep, hr]

theorem accrd_readsBack {p : Pfx} {r k : Int} : ReadsBack p (braWord (-29) 8 r k)
    ⟨noAttr p ++ noSweep p ++ reg27F r ++ codeF (accOk k),
     if k % 27 = 26 then .accrdSnapshot (regOf 27 r) (k / 27).toNat else .accrd (regOf 27 r) (k / 27).toNat (k % 27).toNat⟩ := by
  intro hcauses
  simp only [List.append_eq_nil_iff, noAttr_eq_nil, noSweep_eq_nil, codeF_eq_nil, accOk, Bool.and_eq_true, Bool.or_eq_true, decide_eq_true_eq,
    inRange_iff] at hcauses
  obtain ⟨⟨⟨hattr, hsweep⟩, hr⟩, ⟨hlo, hhi⟩, hcounter⟩ := hcauses
  have hbound : (k / 27).toNat ≤ 242 := by omega
  split
  · next hsnapshot =>
    have hk : 27 * ((k / 27).toNat : Int) + 26 = k := by omega
    dsimp only [encode, Instr.wellFormed]
    simp only [attrWords, sweepWords, hattr, hsweep, r27_regOf hr, hk, hbound, decide_true, List.nil_append, and_self]
  · next hsnapshot =>
    have hk : 27 * ((k / 27).toNat : Int) + ((k % 27).toNat : Int) = k := by omega
    dsimp only [encode, Instr.wellFormed]
    simp only [attrWords, sweepWords, hattr, hsweep, r27_regOf hr, hk, hbound, hcounter.resolve_right hsnapshot, decide_true, Bool.and_self,
      List.nil_append, and_self]

theorem decDbg_readsBack {p : Pfx} {w : Int} (hw : Fits 27 w) (hM : majorOf w = -29) : ReadsBack p w (decDbg p w) := by
  obtain ⟨i, r, m, hu, hword, hi⟩ := braWord_of_fields hw
  rw [hM] at hword
  simp only [decDbg, hu, fieldOf, List.getD_cons_zero, List.getD_cons_succ]
  clear hu hM hw
  subst hword
  refine .ite (fun hm => ?_) (.ite (fun hm => by rw [hm]; exact trcctl_readsBack) (.ite (fun hm => ?_) (.ite (fun hm => ?_) (.ite (fun hm => ?_)
    (.ite (fun hm => ?_) (.ite (fun hm => ?_) (.ite (fun hm => ?_) (.ite (fun hm => by rw [hm]; exact timerd_readsBack)
      (.ite (fun hm => by rw [hm]; exact accrd_readsBack) ?_)))))))))
  all_goals intro hcauses
  all_goals dsimp only [Instr.wellFormed, encode]
  all_goals simp_all [attrWords, sweepWords, val_regOf_9, val_regOf_27]

/-- An instruction word is what the encoder writes for what it reads as, whatever its major opcode. -/
theorem decWord_readsBack {p : Pfx} {w : Int} (hw : Fits 27 w) (hs : ∀ s ∈ p.sweep, Sweep.ok s = true) : ReadsBack p w (decWord p w) := by
  unfold decWord
  refine .ite (decSalu_readsBack hw) (.ite (decSimm_readsBack hw) (.ite (decB_readsBack hw) (.ite (decB3_readsBack hw)
    (.ite (decCall_readsBack hw) (.ite (decCtl_readsBack hw) (.ite (decSys_readsBack hw) (.ite (decSmem_readsBack hw)
    (.ite (fun hM => decValu_readsBack hw hM hs) (.ite (fun hM => decVsfu_readsBack hw hM hs) (.ite (decVperm_readsBack hw)
    (.ite (decVmask_readsBack hw) (.ite (fun hM => decVimm_readsBack hw hM hs) (.ite (decVmem_readsBack hw) (.ite (decMxm_readsBack hw)
    (.ite (decMxt_readsBack hw) (.ite (decMxq_readsBack hw) (.ite (decSync_readsBack hw) (.ite (decCopy_readsBack hw)
    (.ite (decBmem_readsBack hw) (.ite (decAtom_readsBack hw) (.ite (decPort_readsBack hw) (.ite (decGrid_readsBack hw)
    (.ite (decDbg_readsBack hw) (.ite (fun _ => ?_) (.ite (fun _ => ?_) ?_)))))))))))))))))))))))))
  all_goals exact fun hcauses => absurd hcauses (by simp)

/-- Zero, as which too few words read, is no instruction word (R61, R65). -/
theorem decWord_zero (p : Pfx) : (decWord p 0).errs ≠ [] := by
  have hM : majorOf 0 = 0 := by decide
  simp [decWord, hM]

/-- Prefixes that meet no cause are the words of the prefixes that they read as (R60). -/
theorem prefixes_words {ws : List Int} (hws : ∀ w ∈ ws, Fits 27 w) (h : (prefixes ws).1.errs = []) :
    ws = attrWords (prefixes ws).1.attr ++ (sweepWords (prefixes ws).1.sweep ++ (prefixes ws).2) ∧
      ∀ s ∈ (prefixes ws).1.sweep, Sweep.ok s = true := by
  match ws, hws, h with
  | [], _, _ => exact ⟨rfl, by simp [prefixes, Pfx.none]⟩
  | w :: rest, hws, h =>
    have hw := hws w List.mem_cons_self
    by_cases h12 : majorOf w = 12
    · match rest, hws, h with
      | [], _, h =>
        simp only [prefixes, h12, if_true] at h ⊢
        simp [attrWords, sweepWords, attrWord_attrOf hw h12 h]
      | w' :: rest', hws, h =>
        have hw' := hws w' (List.mem_cons_of_mem _ List.mem_cons_self)
        by_cases h13 : majorOf w' = 13
        · simp only [prefixes, h12, h13, if_true, List.append_eq_nil_iff] at h ⊢
          obtain ⟨hattr, hsweep⟩ := h
          obtain ⟨hword, hok⟩ := sweepWord_sweepOf hw' h13 hsweep
          simp [attrWords, sweepWords, attrWord_attrOf hw h12 hattr, hword, hok]
        · simp only [prefixes, h12, h13, if_true, if_false] at h ⊢
          simp [attrWords, sweepWords, attrWord_attrOf hw h12 h]
    · by_cases h13 : majorOf w = 13
      · simp only [prefixes, h13, if_true, Int.reduceEq, if_false] at h ⊢
        obtain ⟨hword, hok⟩ := sweepWord_sweepOf hw h13 h
        simp [attrWords, sweepWords, hword, hok]
      · simp [prefixes, h12, h13, Pfx.none, attrWords, sweepWords]

/-- Settles O2: the fields of a word that decodes are the codes of the operands that it reads as, format by format. -/
theorem oneEncoding : Obligations.OneEncoding := by
  unfold Obligations.OneEncoding
  intro ws i n hws hdecode
  simp only [decode] at hdecode
  split at hdecode
  · cases hdecode
  · next hcause =>
    cases hdecode
    obtain ⟨hprefixes, herrs⟩ := List.append_eq_nil_iff.mp (firstCause_eq_none hcause)
    obtain ⟨hwords, hok⟩ := prefixes_words hws hprefixes
    cases hrest : (prefixes ws).2 with
    | nil =>
      rw [hrest] at herrs
      exact absurd herrs (decWord_zero _)
    | cons w rest =>
      rw [hrest] at herrs hwords
      have hw : Fits 27 w := hws w (by rw [hwords]; simp)
      obtain ⟨hwf, henc⟩ := decWord_readsBack hw hok herrs
      refine ⟨hwf, by rw [wordsNeeded, hrest], ?_⟩
      have hlength : ws.length - (w :: rest).length + 1 =
          (attrWords (prefixes ws).1.attr ++ (sweepWords (prefixes ws).1.sweep ++ [w])).length := by
        have := congrArg List.length hwords
        simp only [List.length_append, List.length_cons, List.length_nil] at this ⊢
        omega
      have happend : ws = (attrWords (prefixes ws).1.attr ++ (sweepWords (prefixes ws).1.sweep ++ [w])) ++ rest := by
        simpa using hwords
      rw [hlength]
      exact henc.trans (List.take_left.symm.trans (congrArg _ happend.symm))

end Sys2Proof.Proofs.Encoding
/-! Instructions with a vector destination (R56, R73, R77): one completion lemma for all that make no access, as `runsScalar_of_issue` is for scalar
destinations; and the rows of VALU and VSFU (R97, R102), which are one shape of lane-wise instruction. -/
namespace Sys2Proof.Machine

/-! ### Lanes -/

theorem Iss.lt_of_mem_lanes {x : Iss} (hin : ∀ k ∈ x.slices, k < 9) {i : Nat} (hi : i ∈ x.lanes) : i < 27 := by
  obtain ⟨k, hk, hmem⟩ := List.mem_flatMap.mp hi
  have := hin k hk
  simp only [List.mem_cons, List.not_mem_nil, or_false] at hmem
  omega

theorem setsZ_append (a b : List (Nat × Int)) (m : ZMap) : setsZ (a ++ b) m = setsZ b (setsZ a m) := List.foldl_append

/-- What lanes of run and of zero receive: results, and the zero word (R56). -/
def laneWrites (run zero : List Nat) (res : Nat → Res) : List (Nat × Int) := (run.map fun j => (j, (res j).val)) ++ zero.map fun j => (j, 0)

theorem mem_laneWrites {run zero : List Nat} {res : Nat → Res} {p : Nat × Int} (h : p ∈ laneWrites run zero res) : p.1 ∈ run ∨ p.1 ∈ zero := by
  obtain h | h := List.mem_append.mp h
  · obtain ⟨j, hj, rfl⟩ := List.mem_map.mp h
    exact .inl hj
  · obtain ⟨j, hj, rfl⟩ := List.mem_map.mp h
    exact .inr hj

theorem Gang.lane_setLanes_append (g : Gang) (r : VReg) (a b : List (Nat × Int)) : g.setLanes r (a ++ b) = (g.setLanes r a).setLanes r b := by
  simp only [Gang.setLanes, List.map_append, setsZ_append]

theorem Gang.lane_setLanes_map (g : Gang) (r : VReg) (ls : List Nat) (val : Nat → Int) {j : Nat} (hj : j ∈ ls) :
    (g.setLanes r (ls.map fun i => (i, val i))).lane r j = val j := by
  refine getZ_setsZ_mem _ _ _ _ (fun w hw he => ?_) ⟨(vKey r.val j, val j), ?_, rfl⟩
  · obtain ⟨p, hp, rfl⟩ := List.mem_map.mp hw
    obtain ⟨i, -, rfl⟩ := List.mem_map.mp hp
    exact congrArg val (Nat.add_left_cancel he)
  · exact List.mem_map.mpr ⟨(j, val j), List.mem_map_of_mem hj, rfl⟩

theorem Gang.lane_setLanes_of_not_mem (g : Gang) (r : VReg) (ws : List (Nat × Int)) {j : Nat} (hj : ∀ w ∈ ws, w.1 ≠ j) :
    (g.setLanes r ws).lane r j = g.lane r j := by
  refine getZ_setsZ _ _ _ fun w hw he => ?_
  obtain ⟨p, hp, rfl⟩ := List.mem_map.mp hw
  exact hj p hp (Nat.add_left_cancel he)

theorem Gang.lane_laneWrites_zero (g : Gang) (r : VReg) (run zero : List Nat) (res : Nat → Res) {j : Nat} (hj : j ∈ zero) :
    (g.setLanes r (laneWrites run zero res)).lane r j = 0 := by
  rw [laneWrites, Gang.lane_setLanes_append]
  exact Gang.lane_setLanes_map _ r zero (fun _ => 0) hj

theorem Gang.lane_laneWrites_run (g : Gang) (r : VReg) (run zero : List Nat) (res : Nat → Res) {j : Nat} (hj : j ∈ run) (hz : j ∉ zero) :
    (g.setLanes r (laneWrites run zero res)).lane r j = (res j).val := by
  rw [laneWrites, Gang.lane_setLanes_append, Gang.lane_setLanes_of_not_mem]
  · exact Gang.lane_setLanes_map g r run (fun i => (res i).val) hj
  · intro w hw he
    obtain ⟨i, hi, rfl⟩ := List.mem_map.mp hw
    exact hz (he ▸ hi)

/-! ### Vector results -/

/-- Vector results put at once with their flags, or as a pending result (R31, R50). -/
def Gang.putLanes (g : Gang) (ks : List Nat) (la : Fin 27) (r : VReg) (ws : List (Nat × Int)) (f : FlagSet) : Gang :=
  if la.val = 0 then { g.setLanes r ws with flags := joinF g.flags f }
  else { g with pending := g.pending ++ [{ slices := ks, dest := .vec r, writes := ws, flags := f, remaining := la.val }] }

theorem putV_eq (x : Iss) (la : Fin 27) (r : VReg) (ws : List (Nat × Int)) (f : FlagSet) (s : State) :
    x.putV la r ws f s = x.modGang (fun g => g.putLanes x.slices la r ws f) s := by
  unfold Iss.putV Gang.putLanes
  by_cases h : la.val = 0
  · simp only [h, if_true]
    exact Iss.modGang_modGang x s _ _ fun _ => rfl
  · simp only [h, if_false]
    rfl

/-- What an instruction with vector results does to its gang: draws spent, then the results of the lanes put (R27, R31, R50, R56). -/
def Iss.vectorEffect (x : Iss) (la : Fin 27) (d : VReg) (run zero : List Nat) (spent : List (Nat × Nat)) (res : Nat → Res) (g : Gang) : Gang :=
  (g.spend spent).putLanes x.slices la d (laneWrites run zero res) (joinAll (run.map fun j => (res j).flags))

section
variable (x : Iss) (la : Fin 27) (d : VReg) (run zero : List Nat) (spent : List (Nat × Nat)) (res : Nat → Res)

theorem Iss.vectorEffect_idx (g : Gang) : (x.vectorEffect la d run zero spent res g).idx = g.idx := by
  unfold Iss.vectorEffect Gang.putLanes; split <;> rfl

theorem Iss.vectorEffect_slices (g : Gang) : (x.vectorEffect la d run zero spent res g).slices = g.slices := by
  unfold Iss.vectorEffect Gang.putLanes; split <;> rfl

theorem Iss.vectorEffect_gens (g : Gang) : (x.vectorEffect la d run zero spent res g).gens = (g.spend spent).gens := by
  unfold Iss.vectorEffect Gang.putLanes; split <;> rfl

theorem Iss.ran_vectorEffect_pc {g : Gang} {k : Nat} (hk : k ∈ x.slices) (hl : k < g.slices.length) :
    ((x.ran (x.vectorEffect la d run zero spent res) g).slice k).pc = (g.slice k).pc + 3 * (x.issue.words.length : Int) := by
  have hslices : (x.vectorEffect la d run zero spent res (x.ticked g)).slices = g.slices :=
    (x.vectorEffect_slices la d run zero spent res _).trans (x.ticked_slices g)
  rw [Iss.ran, x.passed_pc hk (hslices ▸ hl), Gang.slice, hslices, Gang.slice]

theorem Iss.ran_vectorEffect_gens (g : Gang) (hd : (spent.map Prod.fst).Nodup) {w : Nat × Nat} (hw : w ∈ spent) :
    getZ w.1 (x.ran (x.vectorEffect la d run zero spent res) g).gens = iter genNext w.2 (getZ w.1 g.gens) := by
  rw [Iss.ran, x.passed_gens, x.vectorEffect_gens, getZ_gens_spend _ hd hw, x.ticked_gens]

theorem Iss.ran_vectorEffect_lane (g : Gang) (j : Nat) :
    (x.ran (x.vectorEffect 0 d run zero spent res) g).lane d j = (((x.ticked g).spend spent).setLanes d (laneWrites run zero res)).lane d j := rfl

theorem Iss.ran_vectorEffect_flags (g : Gang) :
    (x.ran (x.vectorEffect 0 d run zero spent res) g).flags = joinF g.flags (joinAll (run.map fun j => (res j).flags)) :=
  congrArg (joinF · _) (x.ticked_flags g)

theorem Iss.mem_ran_vectorEffect_pending (g : Gang) (hla : la ≠ 0) :
    { slices := x.slices, dest := .vec d, writes := (run.map fun j => (j, (res j).val)) ++ zero.map fun j => (j, 0),
      flags := joinAll (run.map fun j => (res j).flags), remaining := la.val } ∈ (x.ran (x.vectorEffect la d run zero spent res) g).pending := by
  rw [Iss.ran, x.passed_pending, Iss.vectorEffect, Gang.putLanes, if_neg fun h : la.val = 0 => hla (Fin.ext h)]
  exact List.mem_append_right _ List.mem_cons_self

/-- What an instruction with a vector result may write. -/
theorem Iss.ran_vectorEffect_frame (n : Option Nat) (hrun : ∀ j ∈ run, j < 27) (hzero : ∀ j ∈ zero, j < 27) (g : Gang) :
    GangFrame x.slices
      { vec := fun r j => la = 0 ∧ r = d ∧ (j ∈ run ∨ j ∈ zero), flags := la = 0, opens := la ≠ 0,
        gen := fun l => l ∈ spent.map Prod.fst, counted := n, touch := false } g (x.ran (x.vectorEffect la d run zero spent res) g) := by
  have hspent := ((GangFrame.refl x.slices
      { vec := fun r j => la = 0 ∧ r = d ∧ (j ∈ run ∨ j ∈ zero), flags := la = 0, opens := la ≠ 0,
        gen := fun l => l ∈ spent.map Prod.fst, counted := n, touch := false } g).begun g x).spend _ spent fun p hp => List.mem_map_of_mem hp
  refine (GangFrame.advance _ _ ?_).finished _
  unfold Iss.vectorEffect Gang.putLanes
  split
  case isTrue h0 =>
    have hla : la = 0 := Fin.ext h0
    refine (hspent.setLanes _ d _ fun p hp => ?_).raise _ _ hla
    have hp := mem_laneWrites hp
    exact ⟨hp.elim (hrun _) (hzero _), hla, rfl, hp⟩
  case isFalse h0 => exact hspent.open_ _ _ fun h => h0 (by rw [h]; rfl)

end

/-- The elements that an instruction counts for its agency, where it counts any (R465). -/
def Iss.counting (x : Iss) (n : Option Nat) (s : State) : State := match n with | some n => s.count x.ctx.agency 3 n | none => s

theorem Iss.counting_modGang (x : Iss) (n : Option Nat) (f : Gang → Gang) (s : State) :
    x.counting n (x.modGang f s) = x.modGang f (x.counting n s) := by
  cases n <;> rfl

@[simp] theorem Iss.counting_teams (x : Iss) (n : Option Nat) (s : State) : (x.counting n s).teams = s.teams := by
  cases n <;> rfl

@[simp] theorem Iss.counting_heldRecords (x : Iss) (n : Option Nat) (s : State) (a : Nat) : (x.counting n s).heldRecords a = s.heldRecords a := by
  cases n <;> rfl

theorem Iss.modGang_teams_congr (x : Iss) (f : Gang → Gang) {s t : State} (h : s.teams = t.teams) : (x.modGang f s).teams = (x.modGang f t).teams := by
  show mapIf _ _ s.teams = mapIf _ _ t.teams
  rw [h]

/-- What an instruction began in does not tell in its end, where no record is held. -/
theorem finish_quiet_congr (x : Iss) (s0 s1 s : State) (h : s.heldRecords x.ctx.agency = 0) :
    (x.finish s0 s).teams = (x.finish s1 s).teams ∧ (x.finish s0 s).beyond = (x.finish s1 s).beyond := by
  obtain ⟨hteams, hbeyond⟩ := finish_quiet x s0 s h
  obtain ⟨hteams', hbeyond'⟩ := finish_quiet x s1 s h
  exact ⟨hteams.trans hteams'.symm, hbeyond.trans hbeyond'.symm⟩

/-- An instruction that makes no access and whose effect is a vector result completes with it (R31, R50, R56). -/
theorem runsVector_of_issue {i : Instr} {s s0 : State} {x : Iss} {la : Fin 27} {d : VReg} {run zero : List Nat} {spent : List (Nat × Nat)}
    {n : Option Nat} {res : Nat → Res} {rs : List VReg} {opens : Nat} {uses : Iss → Uses} {body : Iss → Got → State → Except Stop State}
    (hx : Issues s false s0 x) (hw : Unwatched s0 x) (hc : x.clear [.vec d]) (hv : x.mayName rs) (ho : opens = 0 ∨ x.room opens)
    (he : exec i s = issue uses body s) (hu : uses x = { Uses.none with dests := [.vec d], vregs := rs, opens := opens })
    (hrun : ∀ j ∈ run, j ∈ x.lanes) (hzero : ∀ j ∈ zero, j ∈ x.lanes)
    (hb : body x ⟨[], [], []⟩ (x.begun s0) = .ok (x.counting n (x.modGang (x.vectorEffect la d run zero spent res) (x.begun s0)))) :
    RunsVector i s s0 x la d run zero spent n res := by
  obtain ⟨hfound, hquiet, hin⟩ := hx
  obtain ⟨x0, _, _, hiss⟩ := issuing_eq s s0 false x hfound
  have hgang : s0.gang? x.issue.team x.issue.gang = some x.gang := iss?_gang? s0 x hiss
  have hlanes : ∀ j ∈ x.lanes, j < 27 := fun j hj => Iss.lt_of_mem_lanes (fun k hk => (hin k hk).2) hj
  have hnext := issueWith_next false false true uses body s s0 _ x hfound (ha := by rw [hu]; rfl) (hf := by rw [hu]; rfl) (hm := by rw [hu]; rfl)
    (hk := by rw [hu]; rfl) (hp := by simp) (hc := by rw [hu]; exact hc) (hv := by rw [hu]; exact hv) (hw := .inr hw) (ho := by rw [hu]; exact ho)
    (hb := hb)
  rw [if_pos rfl, Iss.counting_modGang, show x.counting n (x.begun s0) = x.begun (x.counting n s0) from Iss.counting_modGang ..] at hnext
  have hheld := (x.counting_heldRecords n s0 _).trans hquiet
  obtain ⟨hran, hrest⟩ := finish_advance_modGang x (x.counting n s0) (x.vectorEffect_idx la d run zero spent res) hheld
  obtain ⟨hsame, hsame'⟩ := finish_quiet_congr x s0 (x.counting n s0)
    (x.advance (x.modGang (x.vectorEffect la d run zero spent res) (x.begun (x.counting n s0)))) hheld
  have hteams := (hsame.trans hran).trans (x.modGang_teams_congr _ (x.counting_teams n s0))
  have hbeyond := hsame'.trans hrest
  have hown : (x.finish s0 (x.advance (x.modGang (x.vectorEffect la d run zero spent res) (x.begun (x.counting n s0))))).gang? x.issue.team
      x.issue.gang = some (x.ran (x.vectorEffect la d run zero spent res) x.gang) := by
    have hmod := gang?_modGang s0 x.issue.team x.issue.gang x.issue.team x.issue.gang _
      (x.ran_idx (x.vectorEffect_idx la d run zero spent res))
    rw [if_pos ⟨rfl, rfl⟩, hgang] at hmod
    rw [← Option.map_some, ← hmod, State.gang?, State.gang?, State.team?, State.team?, hteams]
    rfl
  refine ⟨_, he.trans hnext, fun k hk => ?pc, frame_of s0 _ x _ _ hgang hteams (hbeyond.trans (by cases n <;> rfl))
    (x.ran_idx (x.vectorEffect_idx la d run zero spent res))
    (x.ran_vectorEffect_frame la d run zero spent res n (fun j hj => hlanes j (hrun j hj)) (fun j hj => hlanes j (hzero j hj)) x.gang),
    fun hd w hw => ?gens, fun hla => ⟨fun j hj hz => ?run, fun j hj => ?zero, ?flags⟩, fun hla => ?later⟩
  all_goals simp only [State.pcOf, State.genOf, State.vlane, Raised, State.flagsOf, State.pendsOf, hown, hgang]
  case pc => exact x.ran_vectorEffect_pc la d run zero spent res hk (hin k hk).1
  case gens => exact x.ran_vectorEffect_gens la d run zero spent res x.gang hd hw
  case run => rw [hla, x.ran_vectorEffect_lane]; exact Gang.lane_laneWrites_run _ d run zero res hj hz
  case zero => rw [hla, x.ran_vectorEffect_lane]; exact Gang.lane_laneWrites_zero _ d run zero res hj
  case flags => rw [hla]; exact x.ran_vectorEffect_flags d run zero spent res x.gang
  case later => exact x.mem_ran_vectorEffect_pending la d run zero spent res x.gang hla

/-! ### Lane-wise instructions on registers (R77, R98) -/

/-- Spending the draws of a mode, of lanes that make n each, is spending those that the mode makes. -/
theorem spend_eq_modGang_drawsOf_elems (x : Iss) (rnd : Rnd) (ls : List Nat) {n : Nat} (hn : n ≠ 0) (s : State) :
    x.spend rnd (ls.map fun l => (l, n)) s = x.modGang (fun g => g.spend (drawsOf rnd ls n)) s := by
  by_cases h : rnd = .stoch
  · simp [Iss.spend, drawsOf, h, hn]
  · simp only [Iss.spend, drawsOf, h, if_false, false_and]
    exact (modGang_id x s).symm

theorem elems_ne_zero (t : Ty) : elems t ≠ 0 := by
  unfold elems
  split <;> decide

theorem spend_spends (x : Iss) (o : LaneOp) (rnd : Rnd) (ls : List Nat) (s : State) :
    x.spend rnd (o.spends ls) s = x.modGang (fun g => g.spend (drawsOf rnd ls (if o.draws then elems o.ty else 0))) s := by
  unfold LaneOp.spends
  cases o.draws with
  | false =>
    simp only [drawsOf, Iss.spend, Bool.false_eq_true, if_false, ne_eq, not_true, and_false]
    split
    · rfl
    · exact (modGang_id x s).symm
  | true => exact spend_eq_modGang_drawsOf_elems x rnd ls (elems_ne_zero o.ty) s

/-- A lane's result of a lane-wise instruction, from the registers that it finds. -/
def LaneOp.result (o : LaneOp) (x : Iss) (a b : VReg) (i : Nat) : Res :=
  o.f (satOf o.attr) (x.rnd o.attr) (x.gang.draw i) (tritAt i (x.gang.mask (maskReg o.attr o.mask))) (x.v a i) (x.v b i) (x.v (fourthReg o.attr) i)

theorem LaneOp.mem_lanes_of_mem_runs {o : LaneOp} {x : Iss} {j : Nat} (h : j ∈ o.runs x) : j ∈ x.lanes := by
  unfold LaneOp.runs at h
  split at h
  · exact h
  · exact List.mem_of_mem_filter h

theorem LaneOp.mem_lanes_of_mem_zeros {o : LaneOp} {x : Iss} {j : Nat} (h : j ∈ o.zeros x) : j ∈ x.lanes := by
  unfold LaneOp.zeros at h
  split at h
  · cases h
  · exact List.mem_of_mem_filter h

/-- A lane-wise instruction on registers completes with the results of its lanes. -/
theorem runsVector_of_laneRegs {i : Instr} {s s0 : State} {x : Iss} {o : LaneOp} {d a b : VReg} (hx : Issues s false s0 x) (hw : Unwatched s0 x)
    (hc : x.clear [.vec d]) (hr : o.la = 0 ∨ x.room 1)
    (hv : x.mayName (d :: ((if o.hasA then [a] else []) ++ (if o.hasB then [b] else []) ++ if o.fourth then [fourthReg o.attr] else [])))
    (he : exec i s = laneRegs o d a b s) :
    RunsVector i s s0 x o.la d (o.runs x) (o.zeros x) (drawsOf (x.rnd o.attr) (o.runs x) (if o.draws then elems o.ty else 0))
      (some ((o.runs x).length * elems o.ty)) (o.result x a b) := by
  refine runsVector_of_issue hx hw hc hv (opens := if o.la.val = 0 ∨ x.lanes = [] then 0 else 1) ?opens he rfl
    (fun _ => LaneOp.mem_lanes_of_mem_runs) (fun _ => LaneOp.mem_lanes_of_mem_zeros) ?body
  case opens =>
    obtain h | h := hr
    · exact .inl (by rw [h]; rfl)
    · by_cases h0 : o.la.val = 0 ∨ x.lanes = []
      · exact .inl (if_pos h0)
      · exact .inr (by rw [if_neg h0]; exact h)
  case body =>
    dsimp only
    rw [spend_spends, putV_eq, Iss.modGang_modGang]
    · rfl
    · exact fun _ => rfl

end Sys2Proof.Machine

namespace Sys2Proof.Proofs.Vectors
open Sys2Proof.Machine

theorem natAbs_eq_ite (a : Int) : (a.natAbs : Int) = if a < 0 then -a else a := by
  split <;> omega

/-- The lane-wise instruction that a row of VALU and VSFU stands for. -/
def rowOp (row : (ValuF → Instr) × Bool × Bool × Bool × Bool × (Nat → Bool → Rnd → Int → Int → Int → Int → Res) ×
    (Fmt → Rnd → Int → Int → Int → Int → Res)) (f : ValuF) : LaneOp :=
  valu f row.2.1 row.2.2.1 row.2.2.2.1 row.2.2.2.2.1 row.2.2.2.2.2.1 row.2.2.2.2.2.2

/-- Every row of VALU and VSFU is one instruction of its shape (R97, R102). -/
theorem exec_valuTable : ∀ row ∈ valuTable, ∀ f s, exec (row.1 f) s = laneOp3 (rowOp row f) f.ops s := by
  simp only [valuTable, List.forall_mem_cons, List.not_mem_nil, false_imp_iff, implies_true, and_true]
  refine ⟨?_, ?_, ?_, ?_, ?vmin, ?vmax, ?_, ?_, ?vabs, ?_, ?_, ?_, ?_, ?_, ?_, ?_, ?_, ?_, ?_, ?_, ?_, ?_, ?_, ?_, ?_, ?_, ?_⟩
  case vmin => 
    intro f s
    simp only [← min_def]
    rfl
  case vmax => 
    intro f s
    simp only [← max_def]
    rfl
  case vabs =>
    intro f s
    simp only [← natAbs_eq_ite]
    rfl
  all_goals exact fun _ _ => rfl

/-- Settles O21: every VALU and VSFU instruction is one lane-wise result of its shape. -/
theorem vectorArithmetic : Obligations.VectorArithmetic := by
  unfold Obligations.VectorArithmetic
  intro row hrow s s0 x f d a b hops hx hw hc hr hv
  have he : exec (row.1 f) s = laneRegs (rowOp row f) d a b s := by
    rw [exec_valuTable row hrow, hops]
    rfl
  exact runsVector_of_laneRegs (o := rowOp row f) (a := a) (b := b) hx hw hc hr hv he

end Sys2Proof.Proofs.Vectors
/-! FENCE of a traced agency (R194, R440): the stall that an issue set goes on to from another is the end of the other, which the trace records. -/
namespace Sys2Proof.Proofs.Traced
open Sys2Proof.Machine

/-- An update of slice 0 of the demonstration gang that has not taken its place. -/
def lateUpdate : RedmUpd :=
  { id := 0, ctx := 0, grid := 0, core := 0, team := 1, gang := 0, slice := 0, addr := 19683,
    upd := { op := .add, ty := .i27, v := 1, cmp := 0, rnd := .near, draw := 0 }, word := 0 }

/-- The traced gang of `full`, standing in a stall that the trace has imposed, with an update outstanding. -/
def fenced : State :=
  let s := full.modGang 1 0 fun g => g.modSlices (List.range 9) fun _ y => { y with stall := some .trace }
  { s with eng := { s.eng with redms := [lateUpdate] }, scope := { s.scope with stallAt := [(1, 0, 0, 0)] } }

theorem isSome_issuing_fenced : (fenced.issuing false).isSome = true := by decide +kernel

/-- The state in which the FENCE finds the gang, and its issue set. -/
def fencer : State × Iss := (fenced.issuing false).get isSome_issuing_fenced

theorem issuing_fenced : fenced.issuing false = some (fencer.1, fencer.2) := (Option.some_get isSome_issuing_fenced).symm

theorem issues_fenced : Issues fenced false fencer.1 fencer.2 := ⟨issuing_fenced, by decide +kernel, by decide +kernel⟩

theorem not_ctxHalted_fencer : fencer.1.ctxHalted fencer.2.ctx.num = false := by decide +kernel

/-- How many records the agencies of a state hold. -/
def heldOf (s : State) : List Nat := s.scope.cfgs.map fun c => c.holds.length

/-- How many records the agencies of the state that an instruction answers hold. -/
def heldAfter (a : Answer) : List Nat := match a with | .next t => heldOf t | _ => []

theorem heldOf_eq_of_kept {s t : State} {x : Iss} (h : Kept s t x {}) : heldOf t = heldOf s := by
  have hbeyond : t.beyond = s.beyond := h.beyond
  change heldOf t.beyond = heldOf s.beyond
  rw [hbeyond]

theorem heldAfter_fence : heldAfter (exec (.fence .modul) fenced) = [2] := by decide +kernel
theorem heldOf_fencer : heldOf fencer.1 = [0] := by decide +kernel

/-- Refutes O33: where the issue set of a traced agency stands in the stall that the trace has imposed, and an update of its own is outstanding, FENCE
stalls it for another reason, so that the stall before is over and its record (R440, R444), after the synchronisation record that goes before it,
is formed and held. The clause on the FENCE that stalls says that nothing but the gang changes, and has no premise on traces. -/
theorem not_fencesAndCaches : ¬ Obligations.FencesAndCaches := by
  rintro ⟨hfences, -⟩
  obtain ⟨-, hstalls, -⟩ := hfences fenced fencer.1 fencer.2 .modul issues_fenced
  obtain ⟨t, hexec, hkept, -⟩ := hstalls not_ctxHalted_fencer (by decide +kernel)
  have hheld := heldAfter_fence
  rw [hexec, heldAfter, heldOf_eq_of_kept hkept, heldOf_fencer] at hheld
  exact absurd hheld (by decide)

end Sys2Proof.Proofs.Traced
/-! Instructions whose accesses lie in scratchpads (R59, R155): what issuing one does, and what touching, storing and queueing leave as they were. -/
namespace Sys2Proof.Machine

/-! ### Issuing an instruction whose accesses are admitted -/

/-- The state after the touches of accesses at their places (R163, R186). -/
def Iss.touches (x : Iss) (cs : List (Acc × List Loc)) (s : State) : State :=
  cs.foldl (fun s p => s.touch (x.who p.1.lane) p.1.op p.1.addr p.2) s

/-- ISSUING, when the checks pass: the effect finds the lines of its accesses touched. -/
theorem issueWith_of_admits {uses : Iss → Uses} {body : Iss → Got → State → Except Stop State} {s s0 s3 : State} {x : Iss}
    {p : List (List Loc)}
    (hfound : s.issuing false = some (s0, x)) (h : Admits s0 x (uses x) p []) (hlater : (uses x).later = false)
    (hleases : (uses x).leases = false) (hopens : (uses x).opens = 0) (hwhole : wholeLines ((uses x).accs.zip p) = [])
    (hb : body x ⟨(uses x).accs.zip p, [], s0.accLeaves x (uses x).accs⟩ (x.touches ((uses x).accs.zip p) (x.begun s0)) = .ok s3) :
    issueWith false false false uses body s = .next (x.finish s0 s3) := by
  obtain ⟨x0, h0, hs0, hx⟩ := issuing_eq s s0 false x hfound
  have hown : s0.leased x (uses x) ((uses x).accs.zip p) = [] := by simp [State.leased, hleases]
  unfold issueWith
  rw [h0]
  simp only
  rw [show x0.landDue false s = s0 from hs0.symm, hx]
  simp only [h.passes, List.filter_nil, List.map_nil, ite_self, ne_eq, not_true, if_false, hown, List.isEmpty_nil, Bool.not_true, hlater,
    Bool.false_eq_true, Bool.false_or, hwhole, replaced_nil]
  rw [show x.modGang (fun g => if x.segments = 0 then g.tickWindows x.slices else g) s0 = x.begun s0 from rfl]
  rw [show ∀ s : State, ((uses x).accs.zip p).foldl (fun s p => s.touch (x.who p.1.lane) p.1.op p.1.addr p.2) s =
    x.touches ((uses x).accs.zip p) s from fun _ => rfl, hb]
  simp only [State.watchRecords, List.foldl_nil]
  rw [if_neg (by omega)]

/-! ### Touching places of scratchpads -/

/-- A state with other leases and other counts of accesses. -/
def State.eased (s : State) (ls : List Lease) (as : ZMap) : State :=
  { s with mem := { s.mem with leases := ls }, hub := { s.hub with accesses := as } }

theorem atAddr_snd {a : Int} {ls : List Loc} {c : Int × Loc} (h : c ∈ atAddr a ls) : c.2 ∈ ls := by
  obtain ⟨l, hl, rfl⟩ := List.mem_map.mp h
  exact List.fst_mem_of_mem_zipIdx hl

theorem foldl_eq_self {α β : Type} {f : β → α → β} {b : β} {l : List α} (h : ∀ a ∈ l, f b a = b) : l.foldl f b = b := by
  induction l with
  | nil => rfl
  | cons a l ih => rw [List.foldl_cons, h a List.mem_cons_self, ih fun c hc => h c (List.mem_cons_of_mem _ hc)]

theorem pagePlaces_of_scratch {cs : List (Int × Loc)} (h : ∀ c ∈ cs, c.2.isScratch = true) : pagePlaces cs = [] := by
  refine foldl_eq_self fun c hc => ?_
  have hs := h c hc
  split <;> simp_all [Loc.isScratch]

theorem linePlaces_of_scratch {cs : List (Int × Loc)} (h : ∀ c ∈ cs, c.2.isScratch = true) : linePlaces cs = [] := by
  refine foldl_eq_self fun c hc => ?_
  have hs := h c hc
  split <;> simp_all [Loc.isScratch]

/-- An access in scratchpads touches no line: its core comes to stand at the present place in S, and its agency is charged (R186, R465). -/
theorem touch_of_scratch (s : State) (w : Who) (op : AccOp) (a : Int) {ls : List Loc} (h : ∀ l ∈ ls, l.isScratch = true) :
    ∃ qs as, s.touch w op a ls = s.eased qs as := by
  have hcs : ∀ c ∈ atAddr a ls, c.2.isScratch = true := fun c hc => h _ (atAddr_snd hc)
  unfold State.touch State.touchAt
  rw [pagePlaces_of_scratch hcs, linePlaces_of_scratch hcs]
  simp only [List.foldl_nil]
  repeat' split
  all_goals exact ⟨_, _, rfl⟩

theorem touches_of_scratch (x : Iss) (cs : List (Acc × List Loc)) (s : State) (h : ∀ c ∈ cs, ∀ l ∈ c.2, l.isScratch = true) :
    ∃ qs as, x.touches cs s = s.eased qs as := by
  induction cs generalizing s with
  | nil => exact ⟨s.mem.leases, s.hub.accesses, rfl⟩
  | cons c cs ih =>
    obtain ⟨qs, as, he⟩ := touch_of_scratch s (x.who c.1.lane) c.1.op c.1.addr (h c List.mem_cons_self)
    obtain ⟨qs', as', he'⟩ := ih (s.eased qs as) fun d hd => h d (List.mem_cons_of_mem _ hd)
    refine ⟨qs', as', ?_⟩
    rw [Iss.touches, List.foldl_cons, he]
    exact he'

theorem wholeLines_of_scratch {cs : List (Acc × List Loc)} (h : ∀ c ∈ cs, ∀ l ∈ c.2, l.isScratch = true) : wholeLines cs = [] := by
  have hnone : (cs.flatMap fun c => if c.1.op.wr && !c.1.op.rd then hbmOf c.2 else []) = [] := by
    refine List.flatMap_eq_nil_iff.mpr fun c hc => ?_
    split
    · refine List.filterMap_eq_nil_iff.mpr fun l hl => ?_
      have hs := h c hc l hl
      split <;> simp_all [Loc.isScratch]
    · rfl
  rw [wholeLines, hnone]
  rfl

end Sys2Proof.Machine
namespace Sys2Proof.Machine

/-! ### Storing at places of one scratchpad -/

/-- A team with cells of its scratchpad written. -/
def Team.stored (ws : List (Nat × Int)) (u : Team) : Team := { u with scratch := setsZ ws u.scratch }

/-- A state with cells of the scratchpads of the teams with key t written. -/
def State.scratched (s : State) (t : Nat) (ws : List (Nat × Int)) : State := s.modTeam t (Team.stored ws)

theorem Team.stored_stored (ws vs : List (Nat × Int)) (u : Team) : (u.stored ws).stored vs = u.stored (ws ++ vs) := by
  simp only [Team.stored, setsZ_append]

theorem scratched_scratched (s : State) (t : Nat) (ws vs : List (Nat × Int)) : (s.scratched t ws).scratched t vs = s.scratched t (ws ++ vs) := by
  have hfused := mapIf_mapIf (fun u => decide (u.key = t)) (Team.stored vs) (Team.stored ws) s.teams fun _ => rfl
  simp only [Team.stored_stored] at hfused
  exact congrArg (fun ts => { s with teams := ts }) hfused

theorem scratched_nil (s : State) (t : Nat) : s.scratched t [] = s := by
  have hsame : mapIf (fun u : Team => decide (u.key = t)) (Team.stored []) s.teams = s.teams := by
    simp [mapIf, Team.stored, setsZ]
  exact congrArg (fun ts => { s with teams := ts }) hsame

theorem foldl_writeLoc_scratch (s : State) (bin : Bool) (t : Nat) (ws : List (Nat × Int)) :
    (ws.map fun w => (Loc.scratch t w.1, w.2)).foldl (fun s w => s.writeLoc bin w.1 w.2) s = s.scratched t ws := by
  induction ws generalizing s with
  | nil => exact (scratched_nil s t).symm
  | cons w ws ih =>
    rw [List.map_cons, List.foldl_cons, ih]
    exact scratched_scratched s t [w] ws

theorem writeRaw_scratch (s : State) (bin : Bool) (t : Nat) (os : List Nat) (vs : List Int) :
    s.writeRaw bin (os.map (.scratch t)) vs = s.scratched t (os.zip vs) := by
  have hzip : (os.map (Loc.scratch t)).zip vs = (os.zip vs).map fun w => (Loc.scratch t w.1, w.2) := by
    rw [List.zip_map_left]
    rfl
  rw [← foldl_writeLoc_scratch s bin, State.writeRaw, hzip]
  simp [List.filterMap_map, List.filter_map, Function.comp_def]

theorem offsOf_scratch (t : Nat) (os : List Nat) : offsOf t (os.map (.scratch t)) = os := by
  simp [offsOf]

theorem hbmOf_scratch (t : Nat) (os : List Nat) : hbmOf (os.map (.scratch t)) = [] := by
  simp [hbmOf]

theorem teamsOf_scratch (t : Nat) (o : Nat) (os : List Nat) : teamsOf ((o :: os).map (.scratch t)) = [t] := by
  induction os generalizing o with
  | nil => rfl
  | cons q os ih =>
    have := ih q
    simp_all [teamsOf]

/-- A store at places of one scratchpad writes them, and tests the phasers there (R117). -/
theorem writeLocs_scratch (s : State) (bin : Bool) (t : Nat) (o : Nat) (os : List Nat) (vs : List Int) :
    s.writeLocs bin ((o :: os).map (.scratch t)) vs = (s.scratched t ((o :: os).zip vs)).phStored t (o :: os) := by
  unfold State.writeLocs
  rw [writeRaw_scratch, teamsOf_scratch, hbmOf_scratch]
  simp only [List.foldl_cons, List.foldl_nil, offsOf_scratch]
  rw [show wholeOf [] = [] from rfl, replaced_nil, ite_self]

/-- A place of the scratchpad that no phaser of its team covers. -/
def State.offPhasers (s : State) (t : Nat) (os : List Nat) : Prop :=
  ∀ o ∈ os, ∀ u, s.team? t = some u → ∀ q ∈ u.phasers, o < q ∨ q + 9 ≤ o

theorem phStored_of_offPhasers {s : State} {t : Nat} {os : List Nat} (h : s.offPhasers t os) : s.phStored t os = s := by
  unfold State.phStored
  split
  · rfl
  · next u hu =>
    have hnone : (u.phasers.filter fun p => os.any fun o => decide (p ≤ o) && decide (o < p + 9)) = [] := by
      refine List.filter_eq_nil_iff.mpr fun q hq => ?_
      simp only [List.any_eq_true, Bool.and_eq_true, decide_eq_true_eq, not_exists, not_and]
      intro o ho
      have := h o ho u hu q hq
      omega
    simp only [hnone, List.foldl_nil]

/-- A gang without what accesses to phasers mean for its slices' waits. -/
def Gang.fateless (g : Gang) : Gang := { g with slices := g.slices.map fun y => { y with fate := .waits } }

/-- A state whose gangs are those of another but for the fates of waits, with the same tracing and debugging. -/
structure SameButFates (s t : State) : Prop where
  gangs  : ∀ a b, (t.gang? a b).map Gang.fateless = (s.gang? a b).map Gang.fateless
  scope  : t.scope = s.scope

theorem SameButFates.refl (s : State) : SameButFates s s := ⟨fun _ _ => rfl, rfl⟩

theorem SameButFates.trans {s t u : State} (h : SameButFates s t) (k : SameButFates t u) : SameButFates s u :=
  ⟨fun a b => (k.gangs a b).trans (h.gangs a b), k.scope.trans h.scope⟩

theorem gang?_modTeam_of_gangs (s : State) (k a b : Nat) (f : Team → Team) (hkey : ∀ u, (f u).key = u.key)
    (hgangs : ∀ u, (f u).gangs = u.gangs) : (s.modTeam k f).gang? a b = s.gang? a b := by
  unfold State.gang?
  rw [team?_modTeam s k a f hkey]
  split
  · next h =>
    subst h
    cases s.team? a with
    | none => rfl
    | some u => simp [Team.gang?, hgangs]
  · rfl

theorem sameButFates_modTeam (s : State) (k : Nat) (f : Team → Team) (hkey : ∀ u, (f u).key = u.key) (hgangs : ∀ u, (f u).gangs = u.gangs) :
    SameButFates s (s.modTeam k f) :=
  ⟨fun a b => by rw [gang?_modTeam_of_gangs s k a b f hkey hgangs], rfl⟩

theorem sameButFates_scratched (s : State) (t : Nat) (ws : List (Nat × Int)) : SameButFates s (s.scratched t ws) :=
  sameButFates_modTeam s t _ (fun _ => rfl) fun _ => rfl

theorem fateOf_fate (s : State) (u : Team) (p : Nat × Nat) (t : Team) (y : Slice) :
    ({ s.fateOf u p t y with fate := .waits } : Slice) = { y with fate := .waits } := by
  unfold State.fateOf
  repeat' split
  all_goals rfl

theorem sameButFates_freeWaiters (s : State) (p : Nat × Nat) : SameButFates s (s.freeWaiters p) := by
  unfold State.freeWaiters
  split
  · exact .refl s
  · next u hu =>
    refine ⟨fun a b => ?_, rfl⟩
    have hgang : ∀ g : Gang, ∀ t : Team, Gang.fateless { g with slices := g.slices.map (s.fateOf u p t) } = g.fateless := by
      intro g t
      simp only [Gang.fateless, List.map_map, Function.comp_def, fateOf_fate]
    simp only [State.gang?, State.team?, List.find?_map, Function.comp_def]
    cases s.teams.find? fun t => decide (t.key = a) with
    | none => rfl
    | some t =>
      simp only [Option.map_some, Option.bind_some, Team.gang?, List.find?_map, Function.comp_def, Option.map_map, hgang]

theorem phTest_key (t : Team) (direct : Bool) (off : Nat) : (t.phTest direct off).key = t.key := by
  unfold Team.phTest
  split <;> rfl

theorem phTest_gangs (t : Team) (direct : Bool) (off : Nat) : (t.phTest direct off).gangs = t.gangs := by
  unfold Team.phTest
  split <;> rfl

theorem sameButFates_foldl {α : Type} {f : State → α → State} (h : ∀ s a, SameButFates s (f s a)) (l : List α) (s : State) :
    SameButFates s (l.foldl f s) := by
  induction l generalizing s with
  | nil => exact .refl s
  | cons a l ih => exact (h s a).trans (ih _)

theorem sameButFates_phStored (s : State) (t : Nat) (os : List Nat) : SameButFates s (s.phStored t os) := by
  unfold State.phStored
  split
  · exact .refl s
  · refine sameButFates_foldl (fun s p => ?_) _ s
    exact (sameButFates_modTeam s t _ (fun u => phTest_key u false p) fun u => phTest_gangs u false p).trans (sameButFates_freeWaiters _ _)

theorem sameButFates_writeLocs (s : State) (bin : Bool) (t : Nat) (o : Nat) (os : List Nat) (vs : List Int) :
    SameButFates s (s.writeLocs bin ((o :: os).map (.scratch t)) vs) := by
  rw [writeLocs_scratch]
  exact (sameButFates_scratched s t _).trans (sameButFates_phStored _ t _)

/-! ### Stores put behind those of their instruction (R182) -/

theorem sameButFates_of_teams {s t : State} (hteams : t.teams = s.teams) (hscope : t.scope = s.scope) : SameButFates s t :=
  ⟨fun a b => by simp only [State.gang?, State.team?, hteams], hscope⟩

/-- The state in which stores of issue set x, which had none, have been put there. -/
def Iss.queued (x : Iss) (ps : List StorePart) (s : State) : State :=
  { s with eng := { s.eng with nextId := s.eng.nextId + 1, stores := s.eng.stores ++
      [{ id := s.eng.nextId, ctx := x.ctx.num, team := x.issue.team, gang := x.issue.gang, slices := x.slices, parts := ps }] } }

theorem sameButFates_queueStore (x : Iss) (p : StorePart) (s : State) : SameButFates s (x.queueStore p s) := by
  unfold Iss.queueStore
  dsimp only
  split <;> exact sameButFates_of_teams rfl rfl

/-- A sequence of stores is that of the issue set. -/
def Iss.ownsStores (x : Iss) (q : StoreSeq) : Bool :=
  decide (q.team = x.issue.team) && decide (q.gang = x.issue.gang) && decide (q.slices = x.slices)

theorem Iss.ownsStores_of_not_storing {s : State} {x : Iss} (hne : x.slices ≠ [])
    (h : s.storing x.issue.team x.issue.gang x.slices = false) : ∀ q ∈ s.eng.stores, x.ownsStores q = false := by
  intro q hq
  have hout := List.any_eq_false.mp h q hq
  by_contra hmine
  rw [Bool.not_eq_false, Iss.ownsStores, Bool.and_eq_true, Bool.and_eq_true, decide_eq_true_eq, decide_eq_true_eq, decide_eq_true_eq] at hmine
  obtain ⟨⟨hteam, hgang⟩, hslices⟩ := hmine
  obtain ⟨k, hk⟩ := List.exists_mem_of_ne_nil _ hne
  refine hout ?_
  simp only [hteam, hgang, hslices, decide_true, Bool.true_and, List.any_eq_true]
  exact ⟨k, hk, by simpa using hk⟩

theorem queueStore_of_any {s : State} {x : Iss} (p : StorePart) (h : s.eng.stores.any x.ownsStores = true) : x.queueStore p s =
    { s with eng := { s.eng with stores := mapIf x.ownsStores (fun q => { q with parts := q.parts ++ [p] }) s.eng.stores } } := if_pos h

theorem queueStore_of_not_any {s : State} {x : Iss} (p : StorePart) (h : s.eng.stores.any x.ownsStores = false) :
    x.queueStore p s = x.queued [p] s := if_neg fun ht => Bool.false_ne_true (h.symm.trans ht)

section
variable {s : State} {x : Iss} (h : ∀ q ∈ s.eng.stores, x.ownsStores q = false)
include h

theorem queueStore_first (p : StorePart) : x.queueStore p s = x.queued [p] s :=
  queueStore_of_not_any p (List.any_eq_false.mpr fun q hq => by rw [h q hq]; exact Bool.false_ne_true)

theorem queueStore_next (ps : List StorePart) (p : StorePart) : x.queueStore p (x.queued ps s) = x.queued (ps ++ [p]) s := by
  have hkept : mapIf x.ownsStores (fun q => { q with parts := q.parts ++ [p] }) s.eng.stores = s.eng.stores := by
    unfold mapIf
    refine (List.map_congr_left fun q hq => ?_).trans (List.map_id _)
    rw [if_neg (by rw [h q hq]; exact Bool.false_ne_true), id]
  rw [queueStore_of_any]
  · simp only [Iss.queued, mapIf, List.map_append, List.map_cons, List.map_nil] at hkept ⊢
    rw [hkept]
    simp [Iss.ownsStores]
  · simp [Iss.queued, Iss.ownsStores]

theorem queueStores (ps qs : List StorePart) : ps.foldl (fun s p => x.queueStore p s) (x.queued qs s) = x.queued (qs ++ ps) s := by
  induction ps generalizing qs with
  | nil => rw [List.append_nil]; rfl
  | cons p ps ih => rw [List.foldl_cons, queueStore_next h, ih, List.append_assoc]; rfl

/-- Stores accepted one after another by an issue set that had none. -/
theorem queueStores_first (ps : List StorePart) (hne : ps ≠ []) : ps.foldl (fun s p => x.queueStore p s) s = x.queued ps s := by
  cases ps with
  | nil => exact absurd rfl hne
  | cons p ps => rw [List.foldl_cons, queueStore_first h, queueStores h]; rfl

end

end Sys2Proof.Machine
namespace Sys2Proof.Machine

/-! ### What an instruction keeps that updates only its own gang -/

/-- A state whose teams are those of u but for an update of the gang of issue set x in program counters, stalls, sweeps, windows, flags and
generators keeps what s holds, where u has the gangs of s. -/
theorem kept_of_modGang {s u t : State} {x : Iss} {w : Writes} {f : Gang → Gang} {g : Gang} (hu : ∀ a b, u.gang? a b = s.gang? a b)
    (hx : s.gang? x.issue.team x.issue.gang = some g) (ht : t.teams = (x.modGang f u).teams) (hmem : ∀ p, t.hbmAt p = s.hbmAt p)
    (hb : t.beyond.cut w.touch w.store =
      (match w.counted with | some n => s.count x.ctx.agency 3 n | none => s).beyond.cut w.touch w.store)
    (hi : ∀ g, (f g).idx = g.idx) (hget : ∀ k r, ((f g).slice k).get r = (g.slice k).get r) (hv : (f g).v = g.v) (hm : (f g).m = g.m)
    (hmode : (f g).mode = g.mode) (hgen : ∀ i, ¬ w.gen i → getZ i (f g).gens = getZ i g.gens) (hflags : w.flags) : Kept s t x w := by
  have hg : ∀ a b, t.gang? a b = if a = x.issue.team ∧ b = x.issue.gang then some (f g) else s.gang? a b := fun a b => by
    have hmod := gang?_modGang u x.issue.team x.issue.gang a b f hi
    rw [hu, hu, hx] at hmod
    rw [← Option.map_some, ← hmod, State.gang?, State.gang?, State.team?, State.team?, ht]
    rfl
  have hown : t.gang? x.issue.team x.issue.gang = some (f g) := (hg _ _).trans (if_pos ⟨rfl, rfl⟩)
  refine { memory := fun p _ => hmem p, beyond := hb, others := fun a b hab => (hg a b).trans (if_neg ?_), sca := fun k r _ => ?_,
           vec := fun r i _ _ => ?_, msk := fun r _ => ?_, gen := fun i h => ?_, flags := fun h => absurd hflags h, mode := fun _ => ?_ }
  · rintro ⟨rfl, rfl⟩
    exact hab rfl
  all_goals simp only [State.sreg, State.vlane, State.mreg, State.genOf, State.modeOf, hown, hx]
  · exact hget k r
  · rw [Gang.lane, Gang.lane, hv]
  · rw [Gang.mask, Gang.mask, hm]
  · exact hgen i h
  · exact hmode

/-! ### What a gang keeps but for fates -/

section
variable {g h : Gang} (hf : h.fateless = g.fateless)
include hf

theorem flags_of_fateless : h.flags = g.flags := by
  change h.fateless.flags = g.fateless.flags
  rw [hf]

theorem gens_of_fateless : h.gens = g.gens := by
  change h.fateless.gens = g.fateless.gens
  rw [hf]

theorem slices_of_fateless : (h.slices.map fun y => { y with fate := .waits }) = g.slices.map fun y => { y with fate := .waits } :=
  congrArg Gang.slices hf

theorem length_of_fateless : h.slices.length = g.slices.length := by
  simpa using congrArg List.length (slices_of_fateless hf)

theorem slice_of_fateless (k : Nat) : ({ h.slice k with fate := .waits } : Slice) = { g.slice k with fate := .waits } := by
  have hget : ∀ ys : List Slice, (ys.map fun y : Slice => { y with fate := .waits }).getD k { Slice.none with fate := .waits } =
      { ys.getD k Slice.none with fate := .waits } := fun ys => by
    simp only [List.getD_eq_getElem?_getD, List.getElem?_map]
    cases ys[k]? <;> rfl
  have hslices := congrArg (fun ys => ys.getD k { Slice.none with fate := .waits }) (slices_of_fateless hf)
  exact (hget _).symm.trans (hslices.trans (hget _))

theorem pc_of_fateless (k : Nat) : (h.slice k).pc = (g.slice k).pc := by
  simpa using congrArg Slice.pc (slice_of_fateless hf k)

end

/-! ### What a segment does to its gang (R59) -/

/-- What a segment of a sweep does to its gang besides its stores: draws spent, flags raised, the sweep of each slice held or given up, the program
counters moved by step. -/
def Iss.segmentEffect (x : Iss) (spent : List (Nat × Nat)) (fs : FlagSet) (v : Option SweepHold) (step : Int) (g : Gang) : Gang :=
  Gang.modSlices { g.spend spent with flags := joinF g.flags fs } x.slices fun _ y => { y with sweep := v, pc := y.pc + step }

section
variable (x : Iss) (spent : List (Nat × Nat)) (fs : FlagSet) (v : Option SweepHold) (step : Int)

theorem Iss.segmentEffect_slice {g : Gang} {k : Nat} (hk : k ∈ x.slices) (hl : k < g.slices.length) :
    (x.segmentEffect spent fs v step g).slice k = { g.slice k with sweep := v, pc := (g.slice k).pc + step } := by
  rw [Iss.segmentEffect, Gang.slice_modSlices, if_pos ⟨hl, hk⟩]
  rfl

theorem Iss.segmentEffect_get (g : Gang) (k : Nat) (r : SReg) : ((x.segmentEffect spent fs v step g).slice k).get r = (g.slice k).get r := by
  rw [Iss.segmentEffect, Gang.slice_modSlices]
  split <;> rfl

theorem Gang.finished_get (g : Gang) (ks : List Nat) (k : Nat) (r : SReg) : ((g.finished ks).slice k).get r = (g.slice k).get r := by
  rw [Gang.slice_finished]
  split <;> rfl

/-- The gang after a segment. -/
def Iss.segmented (g : Gang) : Gang := (x.segmentEffect spent fs v step g).finished x.slices

theorem Iss.segmented_idx (g : Gang) : (x.segmented spent fs v step g).idx = g.idx := rfl
theorem Iss.segmented_flags (g : Gang) : (x.segmented spent fs v step g).flags = joinF g.flags fs := rfl
theorem Iss.segmented_gens (g : Gang) : (x.segmented spent fs v step g).gens = (g.spend spent).gens := rfl

theorem Iss.segmented_pc {g : Gang} {k : Nat} (hk : k ∈ x.slices) (hl : k < g.slices.length) :
    ((x.segmented spent fs v step g).slice k).pc = (g.slice k).pc + step := by
  rw [Iss.segmented, Gang.slice_finished, if_pos ⟨by simpa [Iss.segmentEffect] using hl, hk⟩, x.segmentEffect_slice spent fs v step hk hl]

theorem Iss.segmented_sweep {g : Gang} {k : Nat} (hk : k ∈ x.slices) (hl : k < g.slices.length) :
    ((x.segmented spent fs v step g).slice k).sweep = v := by
  rw [Iss.segmented, Gang.slice_finished, if_pos ⟨by simpa [Iss.segmentEffect] using hl, hk⟩, x.segmentEffect_slice spent fs v step hk hl]

theorem Iss.segmented_get (g : Gang) (k : Nat) (r : SReg) : ((x.segmented spent fs v step g).slice k).get r = (g.slice k).get r := by
  rw [Iss.segmented, Gang.finished_get, x.segmentEffect_get]

end

end Sys2Proof.Machine
namespace Sys2Proof.Machine

/-! ### Lists with positions -/

theorem map_zipIdx_eq {α β : Type} {l : List α} {f : α × Nat → β} {g : α → β} (h : ∀ j a, l[j]? = some a → f (a, j) = g a) :
    l.zipIdx.map f = l.map g := by
  refine List.ext_getElem? fun j => ?_
  simp only [List.getElem?_map, List.getElem?_zipIdx, Nat.zero_add, Option.map_map]
  cases hj : l[j]? with
  | none => rfl
  | some a => exact congrArg some (h j a hj)

theorem foldl_zipIdx_eq {α β : Type} {l : List α} {f : β → α × Nat → β} {g : β → α → β}
    (h : ∀ j a, l[j]? = some a → ∀ b, f b (a, j) = g b a)
    (b : β) : l.zipIdx.foldl f b = l.foldl g b := by
  have hsame : l.zipIdx.foldl f b = l.zipIdx.foldl (fun b p => g b p.1) b := by
    refine List.foldl_ext _ _ _ fun c p hp => ?_
    exact h p.2 p.1 (List.mem_zipIdx_iff_getElem?.mp hp) c
  rw [hsame, ← List.foldl_map (f := Prod.fst) (g := g), List.zipIdx_map_fst]

/-- The value that a list of results gives a lane: its result's, and 0 where it has none. -/
def resultOf (rs : List (Nat × Res)) (i : Nat) : Int := match rs.find? fun q => decide (q.1 = i) with | some q => q.2.val | none => 0

theorem resultOf_map (ls : List Nat) (res : Nat → Res) (i : Nat) :
    resultOf (ls.map fun l => (l, res l)) i = if i ∈ ls then (res i).val else 0 := by
  induction ls with
  | nil => rfl
  | cons l ls ih =>
    unfold resultOf at *
    by_cases h : l = i
    · simp [h]
    · rw [List.map_cons, List.find?_cons_of_neg (by simpa using h), ih]
      simp [Ne.symm h]

/-! ### What admitted accesses read and write -/

theorem Got.read_of_get {got : Got} {i : Nat} {c : Acc} {ls : List Loc} (s : State) (hrem : got.rem = []) (h : got.accs[i]? = some (c, ls)) :
    got.read s i = ofTrytes (ls.map fun l => s.readLoc c.op.bin l) := by
  have hkept : ∀ j, got.kept i j = none := fun j => by rw [Got.kept, hrem]; rfl
  unfold Got.read Got.readBytes
  rw [h]
  simp only [hkept, Option.getD_none]
  exact congrArg ofTrytes (map_zipIdx_eq fun _ _ _ => rfl)

theorem Got.write_of_get {got : Got} {i : Nat} {c : Acc} {ls : List Loc} (x : Iss) (vs : List Int) (s : State) (h : got.accs[i]? = some (c, ls)) :
    got.write x i vs s = if got.queued x then
      x.queueStore { addr := c.addr, len := c.len, bin := c.op.bin, pages := got.pages.getD i [], locs := ls, vals := vs } s
    else s.writeLocs c.op.bin ls vs := by
  unfold Got.write
  rw [h]

/-! ### The accesses of a segment (R59) -/

/-- The offsets of a lane's word in the scratchpad, in a line at an address. -/
def wordOffs (q : Int) (l : Nat) : List Nat := (List.range 3).map fun j => (q - localBase).toNat + 3 * l + j

/-- The places of a lane's word in the scratchpad of a team, in a line at an address. -/
def wordPlaces (t : Nat) (q : Int) (l : Nat) : List Loc := (List.range 3).map fun j => Loc.scratch t ((q - localBase).toNat + 3 * l + j)

theorem wordPlaces_eq (t : Nat) (q : Int) (l : Nat) : wordPlaces t q l = (wordOffs q l).map (.scratch t) := by
  simp [wordPlaces, wordOffs, Function.comp_def]

/-- The places of a segment's access, as its address gives them. -/
def accPlace (t : Nat) (c : Acc) : List Loc := (List.range 3).map fun j => .scratch t ((c.addr - localBase).toNat + j)

theorem accPlace_sweepAcc (t : Nat) (op : AccOp) {q : Int} (hq : localBase ≤ q) (l : Nat) : accPlace t (sweepAcc op q l) = wordPlaces t q l := by
  have haddr : (q + 3 * (l : Int) - localBase).toNat = (q - localBase).toNat + 3 * l := by omega
  simp only [accPlace, sweepAcc, wordPlaces, haddr]

theorem isScratch_accPlace (t : Nat) (c : Acc) : ∀ l ∈ accPlace t c, l.isScratch = true := by
  intro l hl
  obtain ⟨j, -, rfl⟩ := List.mem_map.mp hl
  rfl

/-- The word that a lane reads in a line at an address of a scratchpad. -/
def State.sweptWord (s : State) (t : Nat) (q : Int) (l : Nat) : Int :=
  ofTrytes ((List.range 3).map fun j => s.scratchAt t ((q - localBase).toNat + 3 * l + j))

theorem readLoc_wordPlaces (s : State) (t : Nat) (q : Int) (l : Nat) :
    ofTrytes ((wordPlaces t q l).map fun p => s.readLoc false p) = s.sweptWord t q l := by
  simp only [wordPlaces, List.map_map, State.sweptWord, Function.comp_def]
  rfl

section
variable (o : LaneOp) (x : Iss) (h : SweepHold) (sw : Sweep) (d a b : SReg)

/-- The lanes whose words a segment stores. -/
def LaneOp.sweepOuts : List Nat := x.lanes.filter fun i => (o.heldRuns x h).contains i || (o.heldZeros x h).contains i

/-- Every operand's line lies in the team's allocation, at a multiple of 3 (R59). -/
def LaneOp.sound : Prop := ∀ q ∈ o.sweepAddrs h sw d a b, q % 3 = 0 ∧ localBase ≤ q ∧ q + 81 ≤ localBase + (x.team.alloc : Int)

variable (hs : o.sound x h sw d a b)
include hs

theorem LaneOp.sweepFault_of_sound {q : Int} (hq : q ∈ o.sweepAddrs h sw d a b) : sweepFault x q = none := by
  obtain ⟨h3, hlo, hhi⟩ := hs q hq
  unfold sweepFault
  rw [if_neg (not_not.mpr h3), if_pos ⟨hlo, hhi⟩]

theorem LaneOp.sweepFaults_of_sound : o.sweepFaults x h sw d a b = [] :=
  List.flatMap_eq_nil_iff.mpr fun q hq => by rw [o.sweepFault_of_sound x h sw d a b hs hq]

theorem LaneOp.sweepAccs_of_sound : o.sweepAccs x h sw d a b =
    (if o.hasA then (o.heldRuns x h).map (sweepAcc .load (sweepAddr h a sw.astep)) else []) ++
    (if o.hasB then (o.heldRuns x h).map (sweepAcc .load (sweepAddr h b sw.bstep)) else []) ++
    (o.sweepOuts x h).map (sweepAcc .store (sweepAddr h d sw.dstep)) := by
  have hnone : ((o.sweepAddrs h sw d a b).any fun p => (sweepFault x p).isSome) = false :=
    List.any_eq_false.mpr fun q hq => by rw [o.sweepFault_of_sound x h sw d a b hs hq]; exact Bool.false_ne_true
  unfold LaneOp.sweepAccs
  rw [hnone]
  rfl

theorem LaneOp.le_dest : localBase ≤ sweepAddr h d sw.dstep := (hs _ List.mem_cons_self).2.1

theorem LaneOp.le_a (ha : o.hasA = true) : localBase ≤ sweepAddr h a sw.astep :=
  (hs _ (List.mem_cons_of_mem _ (by simp [ha]))).2.1

theorem LaneOp.le_b (hb : o.hasB = true) : localBase ≤ sweepAddr h b sw.bstep :=
  (hs _ (List.mem_cons_of_mem _ (by simp [hb]))).2.1

end

end Sys2Proof.Machine
namespace Sys2Proof.Machine

/-! ### Where an admitted access of a scratchpad lies -/

/-- Checks that pass have found the places of every access. -/
theorem accPlaces_of_precheck {s : State} {x : Iss} {u : Uses} {got : Got} {hs : List WatchMatch} (h : s.precheck x false u = (.ok got, hs)) :
    got.accs = accPlaces (u.accs.map fun a => (a, s.checkAcc x a)) := by
  unfold State.precheck at h
  simp only [Bool.false_and, Bool.false_eq_true, if_false] at h
  repeat' split at h
  all_goals cases h
  all_goals rfl

theorem isLocal_iff {a : Int} : isLocal a = true ↔ localBase ≤ a ∧ a ≤ localLast := by
  simp [isLocal]

/-- A place of a scratchpad as far from its start as the address from the start of the local region lies in a core's own scratchpad. -/
theorem lt_of_window_scratch {s : State} {w : Who} {a : Int} {t : Nat} (h : s.window w a = .ok (.scratch t (a - localBase).toNat)) :
    a < localBase + scratchSize := by
  by_contra hout
  have hfar : ¬ a - localBase < scratchSize := by omega
  unfold State.window at h
  dsimp only at h
  split at h
  · cases h
  · rw [if_neg hfar] at h
    split at h
    · split at h <;> cases h
    · split at h
      · next hcluster =>
        split at h
        · split at h
          · injection h with h
            injection h with _ h
            unfold clusterBase scratchSize at *
            omega
          · cases h
        · cases h
      · split at h
        · split at h
          · split at h <;> cases h
          · cases h
        · cases h

theorem debugAt_ne_scratch (s : State) (w : Who) (a : Int) (t o : Nat) : s.debugAt w a ≠ .ok (.scratch t o) := by
  intro h
  unfold State.debugAt at h
  dsimp only at h
  split at h
  · cases h
  · split at h
    · split at h
      · cases h
      · split at h
        · cases h
        · split at h
          · split at h <;> cases h
          · cases h
    · cases h

theorem debugXl_ne_scratch (s : State) (w : Who) (op : AccOp) (a : Int) (t o : Nat) : s.debugXl w op a ≠ .ok (.scratch t o) := by
  intro h
  have hne := debugAt_ne_scratch s w a t o
  unfold State.debugXl at h
  split at h
  · cases h
  · split at h
    · next hl =>
      split at h
      · cases h
      · exact hne (hl.trans h)
    · exact hne h

theorem leafXl_ne_scratch (s : State) (op : AccOp) (l : Leaf) (a : Int) (t o : Nat) : s.leafXl op l a ≠ .ok (.scratch t o) := by
  intro h
  unfold State.leafXl at h
  extract_lets at h
  split at h
  · cases h
  · split at h
    · injection h with h
      split at h <;> cases h
    · cases h

theorem own_of_xlate1_scratch {s : State} {w : Who} {op : AccOp} {a : Int} {t : Nat}
    (h : s.xlate1 w op a = .ok (.scratch t (a - localBase).toNat)) : localBase ≤ a ∧ a < localBase + scratchSize := by
  unfold State.xlate1 at h
  split at h
  · cases h
  · split at h
    · next hlocal =>
      refine ⟨(isLocal_iff.mp hlocal).1, ?_⟩
      split at h
      · cases h
      · split at h
        · cases h
        · exact lt_of_window_scratch h
    · repeat' split at h
      · exact (debugXl_ne_scratch s w op a t _ h).elim
      · cases h
      · cases h
      · cases h
      · exact (leafXl_ne_scratch s op _ a t _ h).elim

theorem Loc.shift_zero (l : Loc) : l.shift 0 = l := by
  cases l <;> rfl

/-- A word of a core's own scratchpad that is located where its address says. -/
theorem own_of_locate {s : State} {w : Who} {op : AccOp} {a : Int} {t : Nat} (hop : op.bin = false) (ha : a % 3 = 0)
    (h : s.locate w op a 3 = .ok ((List.range 3).map fun j => .scratch t ((a - localBase).toNat + j))) :
    localBase ≤ a ∧ a < localBase + scratchSize := by
  refine own_of_xlate1_scratch (s := s) (w := w) (op := op) (t := t) ?_
  have hpieces : pieces op a 3 = [(a, 3)] := by
    simp [pieces, hop, ha]
  unfold State.locate at h
  simp only [hpieces, List.map_cons, List.map_nil, OfNat.ofNat_ne_zero, if_false] at h
  split at h
  · cases h
  · generalize hx : s.xlate1 w op a = r at h ⊢
    cases r with
    | ok l =>
      simp [xlCauses, xlPages, firstOf, List.range_succ, Loc.shift_zero] at h
      rw [h.1]
    | bad cs =>
      split at h
      · cases h
      · simp [xlPages, List.range_succ] at h
    | migr p q =>
      split at h
      · cases h
      · simp [xlPages] at h

end Sys2Proof.Machine
namespace Sys2Proof.Machine

/-- An access to a word, at a multiple of 3. -/
structure Acc.IsWord (c : Acc) : Prop where
  aligned : c.aligned = true
  bin : c.op.bin = false
  addr : c.addr % 3 = 0
  len : c.len = 3

/-- Words that the checks find where their addresses say in a core's own scratchpad lie in its window. -/
theorem own_of_admits {s : State} {x : Iss} {u : Uses} {t : Nat} (h : Admits s x u (u.accs.map (accPlace t)) []) {c : Acc} (hc : c ∈ u.accs)
    (hw : c.IsWord) : localBase ≤ c.addr ∧ c.addr < localBase + scratchSize := by
  have hplaces := accPlaces_of_precheck h.passes
  simp only [← List.map_prod_left_eq_zip, accPlaces, List.map_map, Function.comp_def] at hplaces
  have hplace := congrArg Prod.snd (List.map_inj_left.mp hplaces c hc)
  simp only [State.checkAcc, hw.aligned, if_true, hw.len] at hplace
  split at hplace
  · next ls hls => exact own_of_locate hw.bin hw.addr (hls.trans (congrArg Xs.ok hplace.symm))
  · simp [accPlace, List.range_succ] at hplace

theorem pagesOf_of_own (s : State) (w : Who) {a : Int} (h : localBase ≤ a ∧ a < localBase + scratchSize) : s.pagesOf w a 3 = [] := by
  have hlocal : isLocal a = true ∧ isLocal (a + 2) = true := by
    simp only [isLocal_iff]
    unfold localLast localBase scratchSize at *
    omega
  simp [State.pagesOf, hlocal, show a + 3 - 1 = a + 2 by omega]

/-- No page translates an access of words in the core's own scratchpad (R232). -/
theorem accLeaves_getD_of_admits {s : State} {x : Iss} {u : Uses} {t : Nat} (h : Admits s x u (u.accs.map (accPlace t)) [])
    (hw : ∀ c ∈ u.accs, c.IsWord) (i : Nat) : (s.accLeaves x u.accs).getD i [] = [] := by
  rw [List.getD_eq_getElem?_getD, State.accLeaves, List.getElem?_map]
  cases hc : u.accs[i]? with
  | none => rfl
  | some c =>
    have hmem := List.mem_of_getElem? hc
    show s.pagesOf _ c.addr c.len = []
    rw [(hw c hmem).len]
    exact pagesOf_of_own s _ (own_of_admits h hmem (hw c hmem))

end Sys2Proof.Machine
namespace Sys2Proof.Machine

section
variable (o : LaneOp) (x : Iss) (h : SweepHold) (sw : Sweep) (d a b : SReg)

/-- The number of words that a segment loads for a source operand that it has or has not. -/
def LaneOp.loads (has : Bool) : Nat := if has then (o.heldRuns x h).length else 0

section
variable (hs : o.sound x h sw d a b)
include hs

theorem LaneOp.sweepAccs_a (ha : o.hasA = true) {j l : Nat} (hj : (o.heldRuns x h)[j]? = some l) :
    (o.sweepAccs x h sw d a b)[j]? = some (sweepAcc .load (sweepAddr h a sw.astep) l) := by
  have hlt := (List.getElem?_eq_some_iff.mp hj).1
  rw [o.sweepAccs_of_sound x h sw d a b hs, if_pos ha, List.append_assoc, List.getElem?_append_left (by simpa using hlt), List.getElem?_map, hj]
  rfl

theorem LaneOp.sweepAccs_b (hb : o.hasB = true) {j l : Nat} (hj : (o.heldRuns x h)[j]? = some l) :
    (o.sweepAccs x h sw d a b)[o.loads x h o.hasA + j]? = some (sweepAcc .load (sweepAddr h b sw.bstep) l) := by
  have hlt := (List.getElem?_eq_some_iff.mp hj).1
  rw [o.sweepAccs_of_sound x h sw d a b hs, if_pos hb, List.append_assoc]
  cases ha : o.hasA <;> simp [LaneOp.loads, List.getElem?_append_right, List.getElem?_append_left, hlt, (List.getElem?_eq_some_iff.mp hj).2]

theorem LaneOp.sweepAccs_store {j l : Nat} (hj : (o.sweepOuts x h)[j]? = some l) :
    (o.sweepAccs x h sw d a b)[o.loads x h o.hasA + o.loads x h o.hasB + j]? = some (sweepAcc .store (sweepAddr h d sw.dstep) l) := by
  rw [o.sweepAccs_of_sound x h sw d a b hs]
  have hlen : ∀ (has : Bool) (q : Int), (if has then (o.heldRuns x h).map (sweepAcc .load q) else []).length = o.loads x h has := by
    intro has q
    cases has <;> simp [LaneOp.loads]
  rw [List.getElem?_append_right (by simp only [List.length_append, hlen]; omega), List.length_append, hlen, hlen, Nat.add_sub_cancel_left,
    List.getElem?_map, hj]
  rfl

theorem LaneOp.mem_sweepAccs {c : Acc} (hc : c ∈ o.sweepAccs x h sw d a b) :
    ∃ op q l, c = sweepAcc op q l ∧ op.bin = false ∧ q ∈ o.sweepAddrs h sw d a b := by
  rw [o.sweepAccs_of_sound x h sw d a b hs, List.mem_append, List.mem_append] at hc
  obtain (hc | hc) | hc := hc
  · split at hc
    · next ha =>
      obtain ⟨l, -, rfl⟩ := List.mem_map.mp hc
      exact ⟨_, _, l, rfl, rfl, by simp [LaneOp.sweepAddrs, ha]⟩
    · cases hc
  · split at hc
    · next hb =>
      obtain ⟨l, -, rfl⟩ := List.mem_map.mp hc
      exact ⟨_, _, l, rfl, rfl, by simp [LaneOp.sweepAddrs, hb]⟩
    · cases hc
  · obtain ⟨l, -, rfl⟩ := List.mem_map.mp hc
    exact ⟨_, _, l, rfl, rfl, List.mem_cons_self⟩

theorem LaneOp.isWord_of_mem_sweepAccs {c : Acc} (hc : c ∈ o.sweepAccs x h sw d a b) : c.IsWord := by
  obtain ⟨op, q, l, rfl, hop, hq⟩ := o.mem_sweepAccs x h sw d a b hs hc
  have h3 := (hs q hq).1
  exact ⟨rfl, hop, by simp only [sweepAcc]; omega, rfl⟩

end

/-! ### The results of a segment and their stores -/

/-- A lane's result in a segment, from what a state's scratchpad holds (R59). -/
def LaneOp.segmentRes (s : State) (l : Nat) : Res :=
  o.f (satOf o.attr) h.rnd (x.gang.draw l) (tritAt l h.mask) (if o.hasA then s.sweptWord x.issue.team (sweepAddr h a sw.astep) l else 0)
    (if o.hasB then s.sweptWord x.issue.team (sweepAddr h b sw.bstep) l else 0) (h.fourth.getD l 0)

/-- A lane's result in a segment, from what its accesses read; p is the lane and its place among those that compute. -/
def LaneOp.readRes (got : Got) (s : State) (p : Nat × Nat) : Res :=
  o.f (satOf o.attr) h.rnd (x.gang.draw p.1) (tritAt p.1 h.mask) (if o.hasA then got.read s p.2 else 0)
    (if o.hasB then got.read s (o.loads x h o.hasA + p.2) else 0) (h.fourth.getD p.1 0)

/-- What the accesses of the segment have been found to be. -/
structure LaneOp.Found (got : Got) : Prop where
  accs : got.accs = (o.sweepAccs x h sw d a b).map fun c => (c, accPlace x.issue.team c)
  rem : got.rem = []
  pages : ∀ i, got.pages.getD i [] = []

/-- The word that a segment stores for a lane: its result, or the zero word. -/
def LaneOp.segmentVal (res : Nat → Res) (l : Nat) : List Int := toTrytes 3 (if l ∈ o.heldRuns x h then (res l).val else 0)

/-- The store of a lane's word as a sequence of stores keeps it (R182). -/
def LaneOp.segmentPart (l : Nat) (vs : List Int) : StorePart :=
  { addr := sweepAddr h d sw.dstep + 3 * (l : Int), len := 3, bin := false, pages := [],
    locs := wordPlaces x.issue.team (sweepAddr h d sw.dstep) l, vals := vs }

/-- A lane's word stored, or put behind those of its instruction. -/
def LaneOp.segmentStore (queued : Bool) (l : Nat) (vs : List Int) (s : State) : State :=
  if queued then x.queueStore (LaneOp.segmentPart x h sw d l vs) s
  else s.writeLocs false (wordPlaces x.issue.team (sweepAddr h d sw.dstep) l) vs

/-- The words of a segment stored, or put behind those of their instruction. -/
def LaneOp.segmentStores (queued : Bool) (res : Nat → Res) (s : State) : State :=
  (o.sweepOuts x h).foldl (fun s l => LaneOp.segmentStore x h sw d queued l (o.segmentVal x h res l) s) s

variable {o x h sw d a b}
variable (hs : o.sound x h sw d a b) {got : Got} (hg : o.Found x h sw d a b got)
include hs hg

theorem LaneOp.Found.read_a (ha : o.hasA = true) (s : State) {j l : Nat} (hj : (o.heldRuns x h)[j]? = some l) :
    got.read s j = s.sweptWord x.issue.team (sweepAddr h a sw.astep) l := by
  rw [Got.read_of_get s hg.rem (by rw [hg.accs, List.getElem?_map, o.sweepAccs_a x h sw d a b hs ha hj]; rfl),
    accPlace_sweepAcc _ _ (o.le_a x h sw d a b hs ha)]
  exact readLoc_wordPlaces ..

theorem LaneOp.Found.read_b (hb : o.hasB = true) (s : State) {j l : Nat} (hj : (o.heldRuns x h)[j]? = some l) :
    got.read s (o.loads x h o.hasA + j) = s.sweptWord x.issue.team (sweepAddr h b sw.bstep) l := by
  rw [Got.read_of_get s hg.rem (by rw [hg.accs, List.getElem?_map, o.sweepAccs_b x h sw d a b hs hb hj]; rfl),
    accPlace_sweepAcc _ _ (o.le_b x h sw d a b hs hb)]
  exact readLoc_wordPlaces ..

theorem LaneOp.Found.readRes_eq (s : State) {j l : Nat} (hj : (o.heldRuns x h)[j]? = some l) :
    o.readRes x h got s (l, j) = o.segmentRes x h sw a b s l := by
  unfold LaneOp.readRes LaneOp.segmentRes
  congr 1
  · split
    · next ha => exact hg.read_a hs ha s hj
    · rfl
  · split
    · next hb => exact hg.read_b hs hb s hj
    · rfl

theorem LaneOp.Found.write (vs : List Int) (s : State) {j l : Nat} (hj : (o.sweepOuts x h)[j]? = some l) :
    got.write x (o.loads x h o.hasA + o.loads x h o.hasB + j) vs s = LaneOp.segmentStore x h sw d (got.queued x) l vs s := by
  rw [Got.write_of_get x vs s (by rw [hg.accs, List.getElem?_map, o.sweepAccs_store x h sw d a b hs hj]; rfl),
    accPlace_sweepAcc _ _ (o.le_dest x h sw d a b hs), hg.pages]
  rfl

end

end Sys2Proof.Machine
namespace Sys2Proof.Machine

/-- The sweep that a slice holds after a segment: none after the last (R59). -/
def SweepHold.next (h : SweepHold) (sw : Sweep) : Option SweepHold :=
  if h.done + 1 < sw.count then some { h with done := h.done + 1, paused := false } else none

/-- What the program counters move by after a segment: the instruction's length after the last (R59). -/
def Iss.segmentStep (x : Iss) (h : SweepHold) (sw : Sweep) : Int :=
  if h.done + 1 < sw.count then 0 else 3 * (x.issue.words.length : Int)

theorem mapPos_mapPos {α : Type} (p : Nat → Bool) (f g : Nat → α → α) (l : List α) :
    mapPos p f (mapPos p g l) = mapPos p (fun k a => f k (g k a)) l := by
  refine List.ext_getElem? fun j => ?_
  simp only [mapPos, List.getElem?_map, List.getElem?_zipIdx, Option.map_map, Nat.zero_add]
  cases l[j]? with
  | none => rfl
  | some a => cases hp : p j <;> simp [hp]

theorem Gang.modSlices_modSlices (g : Gang) (ks : List Nat) (f f' : Nat → Slice → Slice) :
    (g.modSlices ks f').modSlices ks f = g.modSlices ks fun k y => f k (f' k y) :=
  congrArg (fun ys => { g with slices := ys }) (mapPos_mapPos ..)

section
variable (x : Iss) (spent : List (Nat × Nat)) (fs : FlagSet) (v : Option SweepHold)

/-- A segment's effect on its gang that leaves the program counters. -/
theorem Iss.segmentEffect_zero (g : Gang) : x.segmentEffect spent fs v 0 g =
    Gang.modSlices { g.spend spent with flags := joinF g.flags fs } x.slices fun _ y => { y with sweep := v } := by
  unfold Iss.segmentEffect
  simp only [Int.add_zero]

theorem Iss.segmentEffect_step (step : Int) (g : Gang) :
    (x.segmentEffect spent fs v 0 g).modSlices x.slices (fun _ y => { y with pc := y.pc + step }) = x.segmentEffect spent fs v step g := by
  rw [Iss.segmentEffect_zero, Gang.modSlices_modSlices]
  rfl

/-- Draws, flags, the count of elements and the sweep held are one update of the gang. -/
theorem modGang_segmentEffect_zero (n : Nat) (s : State) :
    x.modSlices (fun _ y => { y with sweep := v }) (x.countElems n (x.raise fs (x.modGang (fun g => g.spend spent) s))) =
      x.modGang (x.segmentEffect spent fs v 0) (x.counting (some n) s) := by
  rw [funext (x.segmentEffect_zero spent fs v), Iss.raise, Iss.modGang_modGang]
  · refine (Iss.modGang_modGang x (x.counting (some n) s) _ _ ?_).trans rfl
    exact fun _ => rfl
  · exact fun _ => rfl

theorem advance_segmentEffect (s : State) :
    x.advance (x.modGang (x.segmentEffect spent fs v 0) s) = x.modGang (x.segmentEffect spent fs v (3 * (x.issue.words.length : Int))) s := by
  rw [← funext (x.segmentEffect_step spent fs v (3 * (x.issue.words.length : Int)))]
  exact Iss.modGang_modGang x s _ (x.segmentEffect spent fs v 0) fun _ => rfl

end

section
variable (o : LaneOp) (x : Iss) (h : SweepHold) (sw : Sweep) (d a b : SReg)

/-- What a segment does once its results are known. -/
def LaneOp.conclude (got : Got) (rs : List (Nat × Res)) (s : State) : Except Stop State :=
  let s1 := (o.sweepOuts x h).zipIdx.foldl
    (fun s p => got.write x (o.loads x h o.hasA + o.loads x h o.hasB + p.2) (toTrytes 3 (resultOf rs p.1)) s) s
  let s2 := x.spend h.rnd (o.spends (o.heldRuns x h)) s1
  let s3 := x.countElems ((o.heldRuns x h).length * elems o.ty) (x.raise (joinAll (rs.map fun q => q.2.flags)) s2)
  if h.done + 1 < sw.count then
    .ok (x.modSlices (fun _ y => { y with sweep := some { h with done := h.done + 1, paused := false } }) s3)
  else .ok (x.advance (x.modSlices (fun _ y => { y with sweep := none }) s3))

/-- What a segment names, accesses and fails by. -/
def LaneOp.sweptUses : Uses :=
  { Uses.none with
    vregs := (if o.fourth && x.segments = 0 then [fourthReg o.attr] else []), accs := o.sweepAccs x (o.hold x [d, a, b]) sw d a b,
    faults := if x.mustRest then [] else o.sweepFaults x (o.hold x [d, a, b]) sw d a b }

/-- The effect of a segment: it rests where a handler is to begin, or concludes with the results of the lanes that compute. -/
def LaneOp.sweptBody (got : Got) (s : State) : Except Stop State :=
  if o.sweepFaults x (o.hold x [d, a, b]) sw d a b ≠ [] then
    .ok (x.modSlices (fun _ y => { y with sweep := some { o.hold x [d, a, b] with paused := true } }) s)
  else o.conclude x (o.hold x [d, a, b]) sw got
    ((o.heldRuns x (o.hold x [d, a, b])).zipIdx.map fun p => (p.1, o.readRes x (o.hold x [d, a, b]) got s p)) s

theorem laneSweep_eq (s : State) :
    laneSweep o sw d a b s = issueWith false false false (fun x => o.sweptUses x sw d a b) (fun x => o.sweptBody x sw d a b) s := rfl

/-- The draws that a segment spends. -/
def LaneOp.segmentDraws : List (Nat × Nat) := drawsOf h.rnd (o.heldRuns x h) (if o.draws then elems o.ty else 0)

/-- The state after a segment with its results and stores. -/
def LaneOp.segmentDone (queued : Bool) (res : Nat → Res) (s : State) : State :=
  x.modGang (x.segmentEffect (o.segmentDraws x h) (joinAll ((o.heldRuns x h).map fun l => (res l).flags)) (h.next sw) (x.segmentStep h sw))
    (x.counting (some ((o.heldRuns x h).length * elems o.ty)) (o.segmentStores x h sw d queued res s))

variable {o x h sw d a b}
variable (hs : o.sound x h sw d a b) {got : Got} (hg : o.Found x h sw d a b got)
include hs hg

theorem LaneOp.Found.stores (res : Nat → Res) (s : State) :
    (o.sweepOuts x h).zipIdx.foldl (fun s p => got.write x (o.loads x h o.hasA + o.loads x h o.hasB + p.2) (o.segmentVal x h res p.1) s) s =
      o.segmentStores x h sw d (got.queued x) res s :=
  foldl_zipIdx_eq (fun _ _ hj s => hg.write hs _ s hj) s

theorem LaneOp.Found.results (s : State) :
    ((o.heldRuns x h).zipIdx.map fun p => (p.1, o.readRes x h got s p)) = (o.heldRuns x h).map fun l => (l, o.segmentRes x h sw a b s l) :=
  map_zipIdx_eq fun _ l hj => by rw [hg.readRes_eq hs s hj]

theorem LaneOp.Found.conclude (res : Nat → Res) (s : State) :
    o.conclude x h sw got ((o.heldRuns x h).map fun l => (l, res l)) s = .ok (o.segmentDone x h sw d (got.queued x) res s) := by
  have hstores := hg.stores hs res s
  unfold LaneOp.segmentVal at hstores
  unfold LaneOp.conclude LaneOp.segmentDone
  simp only [resultOf_map, List.map_map, Function.comp_def, hstores, spend_spends]
  unfold SweepHold.next Iss.segmentStep
  split
  · exact congrArg Except.ok (modGang_segmentEffect_zero ..)
  · exact congrArg Except.ok ((congrArg x.advance (modGang_segmentEffect_zero ..)).trans (advance_segmentEffect ..))

end

end Sys2Proof.Machine
namespace Sys2Proof.Machine

/-! ### What storing words of lanes writes -/

theorem lastAt_append (ws : List (Loc × Int)) (w : Loc × Int) (l : Loc) : lastAt (ws ++ [w]) l = if w.1 = l then some w.2 else lastAt ws l := by
  unfold lastAt
  rw [List.filter_append]
  by_cases h : w.1 = l <;> simp [h]

/-- A cell after writes in order holds the last value written to it. -/
theorem getZ_setsZ_lastAt (t : Nat) (ws : List (Nat × Int)) (m : ZMap) (q : Nat) :
    getZ q (setsZ ws m) = (lastAt (ws.map fun w => (Loc.scratch t w.1, w.2)) (.scratch t q)).getD (getZ q m) := by
  induction ws using List.reverseRecOn with
  | nil => rfl
  | append_singleton ws w ih =>
    rw [setsZ_append, List.map_append, List.map_singleton, lastAt_append]
    by_cases h : w.1 = q
    · subst h
      simp [setsZ]
    · rw [if_neg (by simpa using h), ← ih]
      exact getZ_setZ_other _ _ _ _ (Ne.symm h)

theorem lastAt_of_not_mem {ws : List (Loc × Int)} {l : Loc} (h : l ∉ ws.map Prod.fst) : lastAt ws l = none := by
  have hnone : (ws.filter fun w => decide (w.1 = l)) = [] :=
    List.filter_eq_nil_iff.mpr fun w hw he => h (List.mem_map.mpr ⟨w, hw, by simpa using he⟩)
  rw [lastAt, hnone]
  rfl

theorem team?_scratched (s : State) (t a : Nat) (ws : List (Nat × Int)) :
    (s.scratched t ws).team? a = if a = t then (s.team? t).map (Team.stored ws) else s.team? a :=
  team?_modTeam s t a (Team.stored ws) fun _ => rfl

theorem offPhasers_scratched {s : State} {t : Nat} {os : List Nat} (ws : List (Nat × Int)) (h : s.offPhasers t os) :
    (s.scratched t ws).offPhasers t os := by
  intro o ho u hu q hq
  rw [team?_scratched, if_pos rfl] at hu
  obtain ⟨v, hv, rfl⟩ := Option.map_eq_some_iff.mp hu
  exact h o ho v hv q hq

/-- The cells of lanes' words in a line at an address. -/
def laneCells (q : Int) (vals : Nat → List Int) (ls : List Nat) : List (Nat × Int) := ls.flatMap fun l => (wordOffs q l).zip (vals l)

theorem map_laneCells (t : Nat) (q : Int) (vals : Nat → List Int) (ls : List Nat) :
    (laneCells q vals ls).map (fun w => (Loc.scratch t w.1, w.2)) = ls.flatMap fun l => (wordPlaces t q l).zip (vals l) := by
  rw [laneCells, List.map_flatMap]
  refine congrArg (List.flatMap · ls) (funext fun l => ?_)
  rw [wordPlaces_eq, List.zip_map_left]
  rfl

/-- Words of lanes stored one after another, where no phaser stands, are their cells written. -/
theorem foldl_writeLocs_offPhasers {s : State} {t : Nat} {q : Int} (vals : Nat → List Int) {ls : List Nat}
    (h : ∀ l ∈ ls, s.offPhasers t (wordOffs q l)) :
    ls.foldl (fun s l => s.writeLocs false (wordPlaces t q l) (vals l)) s = s.scratched t (laneCells q vals ls) := by
  induction ls generalizing s with
  | nil => exact (scratched_nil s t).symm
  | cons l ls ih =>
    have hword : s.writeLocs false (wordPlaces t q l) (vals l) = s.scratched t ((wordOffs q l).zip (vals l)) := by
      rw [wordPlaces_eq]
      exact (writeLocs_scratch s false t _ _ _).trans (phStored_of_offPhasers (offPhasers_scratched _ (h l List.mem_cons_self)))
    rw [List.foldl_cons, hword, ih fun k hk => offPhasers_scratched _ (h k (List.mem_cons_of_mem _ hk)), scratched_scratched]
    rfl

end Sys2Proof.Machine
namespace Sys2Proof.Machine

/-! ### A segment as an instruction (R59) -/

theorem scratchAt_modGang (x : Iss) (f : Gang → Gang) (s : State) (t o : Nat) : (x.modGang f s).scratchAt t o = s.scratchAt t o := by
  unfold State.scratchAt Iss.modGang State.modGang
  rw [team?_modTeam s x.issue.team t (fun u => u.modGang x.issue.gang f) fun _ => rfl]
  by_cases h : t = x.issue.team
  · rw [if_pos h, h]
    cases s.team? x.issue.team <;> rfl
  · rw [if_neg h]

section
variable (o : LaneOp) (x : Iss) (sw : Sweep) (d a b : SReg)

/-- What a segment names and accesses, whose operands' lines are sound. -/
def LaneOp.segmentUses : Uses :=
  { Uses.none with vregs := if o.fourth && x.segments = 0 then [fourthReg o.attr] else [], accs := o.sweepAccs x (o.hold x [d, a, b]) sw d a b }

theorem LaneOp.segmentRes_begun (h : SweepHold) (s : State) (ls : List Lease) (as : ZMap) :
    o.segmentRes x h sw a b ((x.begun s).eased ls as) = o.segmentRes x h sw a b s := by
  have hword : ∀ q l, ((x.begun s).eased ls as).sweptWord x.issue.team q l = s.sweptWord x.issue.team q l := fun q l => by
    unfold State.sweptWord
    exact congrArg ofTrytes (List.map_congr_left fun j _ => scratchAt_modGang x _ s _ _)
  funext l
  unfold LaneOp.segmentRes
  rw [hword, hword]

variable {o x sw d a b}

/-- The accesses of an admitted segment, as its effect finds them. -/
theorem LaneOp.found_of_admits {s0 : State} (hs : o.sound x (o.hold x [d, a, b]) sw d a b)
    (h : Admits s0 x (o.segmentUses x sw d a b) ((o.segmentUses x sw d a b).accs.map (accPlace x.issue.team)) []) :
    o.Found x (o.hold x [d, a, b]) sw d a b ⟨(o.segmentUses x sw d a b).accs.zip ((o.segmentUses x sw d a b).accs.map (accPlace x.issue.team)), [],
      s0.accLeaves x (o.segmentUses x sw d a b).accs⟩ :=
  ⟨(List.map_prod_left_eq_zip ..).symm, rfl, accLeaves_getD_of_admits h fun _ hc => o.isWord_of_mem_sweepAccs x _ sw d a b hs hc⟩

/-- An admitted segment completes: its results, from the words found, are stored, and its gang is updated. -/
theorem laneSweep_of_admits {s s0 : State} (hfound : s.issuing false = some (s0, x)) (hs : o.sound x (o.hold x [d, a, b]) sw d a b)
    (h : Admits s0 x (o.segmentUses x sw d a b) ((o.segmentUses x sw d a b).accs.map (accPlace x.issue.team)) []) :
    ∃ ls as, laneSweep o sw d a b s = .next (x.finish s0 (o.segmentDone x (o.hold x [d, a, b]) sw d
      (x.queues (o.segmentUses x sw d a b) ((o.segmentUses x sw d a b).accs.map (accPlace x.issue.team)))
      (o.segmentRes x (o.hold x [d, a, b]) sw a b s0) ((x.begun s0).eased ls as))) := by
  have hgot := LaneOp.found_of_admits hs h
  have hscratch : ∀ c ∈ (o.segmentUses x sw d a b).accs.zip ((o.segmentUses x sw d a b).accs.map (accPlace x.issue.team)),
      ∀ l ∈ c.2, l.isScratch = true := by
    intro c hc
    rw [← List.map_prod_left_eq_zip] at hc
    obtain ⟨c, -, rfl⟩ := List.mem_map.mp hc
    exact isScratch_accPlace x.issue.team c
  obtain ⟨ls, as, htouch⟩ := touches_of_scratch x _ (x.begun s0) hscratch
  have hfaults := o.sweepFaults_of_sound x _ sw d a b hs
  have huses : o.sweptUses x sw d a b = o.segmentUses x sw d a b := by
    rw [LaneOp.sweptUses, hfaults, ite_self]
    rfl
  refine ⟨ls, as, ?_⟩
  rw [laneSweep_eq]
  refine issueWith_of_admits hfound (p := (o.segmentUses x sw d a b).accs.map (accPlace x.issue.team)) ?_ ?_ ?_ ?_ ?_ ?_
  all_goals rw [huses]
  · exact h
  · rfl
  · rfl
  · rfl
  · exact wholeLines_of_scratch hscratch
  · rw [htouch, LaneOp.sweptBody, if_neg (not_not.mpr hfaults), hgot.results hs, LaneOp.segmentRes_begun]
    exact hgot.conclude hs _ _

end

end Sys2Proof.Machine
namespace Sys2Proof.Machine

/-! ### The state after a segment (R59) -/

theorem sameButFates_segmentStores (o : LaneOp) (x : Iss) (h : SweepHold) (sw : Sweep) (d : SReg) (queued : Bool) (res : Nat → Res) (s : State) :
    SameButFates s (o.segmentStores x h sw d queued res s) := by
  refine sameButFates_foldl (fun s l => ?_) _ s
  unfold LaneOp.segmentStore
  split
  · exact sameButFates_queueStore ..
  · rw [wordPlaces_eq]
    exact sameButFates_writeLocs s false x.issue.team _ _ _

theorem heldRecords_of_scope {s t : State} (h : t.scope = s.scope) (a : Nat) : t.heldRecords a = s.heldRecords a := by
  unfold State.heldRecords State.cfg?
  rw [h]

theorem Iss.ticked_v (x : Iss) (g : Gang) : (x.ticked g).v = g.v := by unfold Iss.ticked; split <;> rfl
theorem Iss.ticked_m (x : Iss) (g : Gang) : (x.ticked g).m = g.m := by unfold Iss.ticked; split <;> rfl
theorem Iss.ticked_mode (x : Iss) (g : Gang) : (x.ticked g).mode = g.mode := by unfold Iss.ticked; split <;> rfl
theorem Iss.ticked_lanes (x : Iss) (g : Gang) : (x.ticked g).lanes = g.lanes := by unfold Iss.ticked; split <;> rfl

section
variable (x : Iss) (spent : List (Nat × Nat)) (fs : FlagSet) (v : Option SweepHold) (step : Int) (n : Option Nat)

/-- The end of a segment, of an agency that holds no record back: only its gang changes, elements are counted, and what the fabric keeps of its
requests. -/
theorem finish_segmentEffect (s0 w : State) (hq : w.heldRecords x.ctx.agency = 0) :
    (x.finish s0 (x.modGang (x.segmentEffect spent fs v step) (x.counting n w))).teams = (x.modGang (x.segmented spent fs v step) w).teams ∧
      (x.finish s0 (x.modGang (x.segmentEffect spent fs v step) (x.counting n w))).beyond = (x.counting n w).beyond := by
  obtain ⟨hteams, hbeyond⟩ := finish_quiet x s0 (x.modGang (x.segmentEffect spent fs v step) (x.counting n w))
    ((x.counting_heldRecords n w _).trans hq)
  refine ⟨hteams.trans ?_, hbeyond⟩
  rw [Iss.modGang_modGang]
  · exact x.modGang_teams_congr _ (x.counting_teams n w)
  · exact fun _ => rfl

/-- The gang after a segment: `Iss.segmented` of what the stores left of it. -/
theorem gang?_of_segmented {t w : State} {g : Gang} (ht : t.teams = (x.modGang (x.segmented spent fs v step) w).teams)
    (hw : w.gang? x.issue.team x.issue.gang = some g) : t.gang? x.issue.team x.issue.gang = some (x.segmented spent fs v step g) := by
  have hmod := gang?_modGang w x.issue.team x.issue.gang x.issue.team x.issue.gang _ (x.segmented_idx spent fs v step)
  rw [if_pos ⟨rfl, rfl⟩, hw] at hmod
  rw [← Option.map_some, ← hmod, State.gang?, State.gang?, State.team?, State.team?, ht]
  rfl

variable {x spent fs v step} {s0 t : State} {g : Gang}

section
variable (hg : g.fateless = (x.ticked x.gang).fateless)
  (ht : t.gang? x.issue.team x.issue.gang = some (x.segmented spent fs v step g))
include hg ht

theorem spent_of_segmented (hx : s0.gang? x.issue.team x.issue.gang = some x.gang) : Spent s0 t x spent := by
  intro hd w hw
  simp only [State.genOf, ht, hx, x.segmented_gens]
  rw [getZ_gens_spend _ hd hw, gens_of_fateless hg, x.ticked_gens]

theorem flagsOf_of_segmented (hx : s0.gang? x.issue.team x.issue.gang = some x.gang) :
    t.flagsOf x.issue.team x.issue.gang = joinF (s0.flagsOf x.issue.team x.issue.gang) fs := by
  simp only [State.flagsOf, ht, hx, x.segmented_flags, flags_of_fateless hg, x.ticked_flags]

theorem pcOf_of_segmented {k : Nat} (hk : k ∈ x.slices) (hl : k < x.gang.slices.length) :
    t.pcOf x.issue.team x.issue.gang k = (x.gang.slice k).pc + step := by
  have hlen : k < g.slices.length := by rw [length_of_fateless hg, x.ticked_slices]; exact hl
  simp only [State.pcOf, ht, x.segmented_pc spent fs v step hk hlen, pc_of_fateless hg]
  rw [x.ticked_slice]

theorem sweep_of_segmented {k : Nat} (hk : k ∈ x.slices) (hl : k < x.gang.slices.length) :
    (t.slc x.issue.team x.issue.gang k).sweep = v := by
  have hlen : k < g.slices.length := by rw [length_of_fateless hg, x.ticked_slices]; exact hl
  simp only [State.slc, ht, x.segmented_sweep spent fs v step hk hlen]

end

/-- What a segment keeps of its gang besides its generators and flags. -/
theorem kept_of_segmented {u : State} {w : Writes} (hx : s0.gang? x.issue.team x.issue.gang = some x.gang)
    (hu : ∀ a b, u.gang? a b = s0.gang? a b) (ht : t.teams = (x.modGang (x.segmented spent fs v step) (x.begun u)).teams)
    (hmem : ∀ p, t.hbmAt p = s0.hbmAt p)
    (hb : t.beyond.cut w.touch w.store =
      (match w.counted with | some n => s0.count x.ctx.agency 3 n | none => s0).beyond.cut w.touch w.store)
    (hgen : ∀ i, ¬ w.gen i → i ∉ spent.map Prod.fst) (hflags : w.flags) : Kept s0 t x w := by
  rw [x.begun_eq, Iss.modGang_modGang _ _ _ _ x.ticked_idx] at ht
  refine kept_of_modGang hu hx ht hmem hb (fun g => x.ticked_idx g) (fun k r => ?_) (x.ticked_v _) (x.ticked_m _) (x.ticked_mode _)
    (fun i hi => ?_) hflags
  · rw [x.segmented_get, x.ticked_slice]
  · rw [x.segmented_gens, getZ_gens_spend_of_not_mem _ (hgen i hi), x.ticked_gens]

end

end Sys2Proof.Machine
namespace Sys2Proof.Machine

/-! ### What storage reads after a segment -/

theorem scratchAt_congr {s t : State} (h : ∀ a, (t.team? a).map Team.scratch = (s.team? a).map Team.scratch) (bin : Bool) (a q : Nat) :
    t.readLoc bin (.scratch a q) = s.readLoc bin (.scratch a q) := by
  have hscratch := h a
  simp only [State.readLoc]
  cases ht : t.team? a with
  | none => 
    rw [ht] at hscratch
    cases hs : s.team? a with
    | none => rfl
    | some u => rw [hs] at hscratch; cases hscratch
  | some v =>
    rw [ht] at hscratch
    cases hs : s.team? a with
    | none => rw [hs] at hscratch; cases hscratch
    | some u =>
      rw [hs] at hscratch
      exact congrArg (getZ q) (Option.some.inj hscratch)

theorem lane_congr {s t : State} {a b : Nat} (h : (t.gang? a b).map Gang.lanes = (s.gang? a b).map Gang.lanes) (bin : Bool) (c : Nat) :
    t.readLoc bin (.lane a b c) = s.readLoc bin (.lane a b c) := by
  simp only [State.readLoc]
  cases ht : t.gang? a b <;> cases hs : s.gang? a b <;> simp_all

/-- Storage of this module reads as it did where only a gang has changed, and the trytes of its own lanes have not. -/
theorem readLoc_of_modGang {u t : State} {x : Iss} {f : Gang → Gang} (ht : t.teams = (x.modGang f u).teams)
    (hcells : ∀ bin p, t.mem.cell bin p = u.mem.cell bin p) (hgrids : t.grids = u.grids) (hi : ∀ g, (f g).idx = g.idx)
    (hlanes : ∀ g, (f g).lanes = g.lanes) {l : Loc} (hl : l.isOwn = true) (bin : Bool) : t.readLoc bin l = u.readLoc bin l := by
  have hteam : ∀ a, t.team? a = (x.modGang f u).team? a := fun a => congrArg (List.find? fun v : Team => decide (v.key = a)) ht
  cases l with
  | hbm p => exact hcells bin p
  | chip g q =>
    simp only [State.readLoc, State.grid?, hgrids]
  | scratch a q =>
    refine scratchAt_congr (fun a => ?_) bin a q
    rw [hteam, Iss.modGang, State.modGang, team?_modTeam u x.issue.team a (fun v => v.modGang x.issue.gang f) fun _ => rfl]
    split
    · next h => rw [h, Option.map_map]; rfl
    · rfl
  | lane a b c =>
    refine lane_congr ?_ bin c
    rw [State.gang?, hteam, ← State.gang?, Iss.modGang, gang?_modGang u _ _ a b f hi]
    split
    · next h =>
      rw [h.1, h.2, Option.map_map]
      exact congrArg (fun k => (u.gang? x.issue.team x.issue.gang).map k) (funext hlanes)
    · rfl
  | peer m p => cases hl
  | window n q => cases hl
  | peerWin m n q => cases hl

/-- Every place reads as the last value written to it. -/
theorem readLoc_scratched {s : State} {t : Nat} {u : Team} (hu : s.team? t = some u) (ws : List (Nat × Int)) (bin : Bool) {l : Loc}
    (hl : l.isOwn = true) :
    (s.scratched t ws).readLoc bin l = (lastAt (ws.map fun w => (Loc.scratch t w.1, w.2)) l).getD (s.readLoc bin l) := by
  have hother : (∀ q, l ≠ .scratch t q) → lastAt (ws.map fun w => (Loc.scratch t w.1, w.2)) l = none := fun h => by
    refine lastAt_of_not_mem fun hmem => ?_
    rw [List.map_map] at hmem
    obtain ⟨w, -, hw⟩ := List.mem_map.mp hmem
    exact h w.1 hw.symm
  cases l with
  | hbm p => rw [hother fun q => nofun]; rfl
  | chip g q => rw [hother fun q => nofun]; rfl
  | scratch a q =>
    simp only [State.readLoc, team?_scratched]
    by_cases h : a = t
    · rw [if_pos h, h, hu]
      exact getZ_setsZ_lastAt t ws u.scratch q
    · rw [if_neg h, hother fun q he => h (Loc.scratch.inj he).1]
      rfl
  | lane a b c =>
    rw [hother fun q => nofun]
    exact lane_congr (congrArg _ (gang?_modTeam_of_gangs s t a b (Team.stored ws) (fun _ => rfl) fun _ => rfl)) bin c
  | peer m p => cases hl
  | window n q => cases hl
  | peerWin m n q => cases hl

end Sys2Proof.Machine
namespace Sys2Proof.Machine

section
variable {o : LaneOp} {x : Iss} {h : SweepHold} {sw : Sweep} {d a b : SReg}

/-! ### A segment whose words are stored at once -/

theorem teams_scratched_begun (x : Iss) (s : State) (ls : List Lease) (as : ZMap) (ws : List (Nat × Int)) :
    (((x.begun s).eased ls as).scratched x.issue.team ws).teams = (x.begun (s.scratched x.issue.team ws)).teams := by
  have hleft := mapIf_mapIf (fun u : Team => decide (u.key = x.issue.team)) (Team.stored ws) (fun u => u.modGang x.issue.gang x.ticked) s.teams
    fun _ => rfl
  have hright := mapIf_mapIf (fun u : Team => decide (u.key = x.issue.team)) (fun u => u.modGang x.issue.gang x.ticked) (Team.stored ws) s.teams
    fun _ => rfl
  exact hleft.trans hright.symm

theorem offPhasers_begun {s : State} {os : List Nat} (ls : List Lease) (as : ZMap) (hoff : s.offPhasers x.issue.team os) :
    ((x.begun s).eased ls as).offPhasers x.issue.team os := by
  intro q hq u hu p hp
  have hu : (s.modTeam x.issue.team fun u => u.modGang x.issue.gang x.ticked).team? x.issue.team = some u := hu
  rw [team?_modTeam s _ _ (fun u => u.modGang x.issue.gang x.ticked) fun _ => rfl, if_pos rfl] at hu
  obtain ⟨v, hv, rfl⟩ := Option.map_eq_some_iff.mp hu
  exact hoff q hq v hv p hp

/-- The cells that a segment writes. -/
def LaneOp.segmentCells (o : LaneOp) (x : Iss) (h : SweepHold) (sw : Sweep) (d : SReg) (res : Nat → Res) : List (Nat × Int) :=
  laneCells (sweepAddr h d sw.dstep) (o.segmentVal x h res) (o.sweepOuts x h)

theorem segmentStores_of_offPhasers {s : State} (ls : List Lease) (as : ZMap) (res : Nat → Res)
    (hoff : ∀ l ∈ o.sweepOuts x h, s.offPhasers x.issue.team (wordOffs (sweepAddr h d sw.dstep) l)) :
    o.segmentStores x h sw d false res ((x.begun s).eased ls as) =
      ((x.begun s).eased ls as).scratched x.issue.team (o.segmentCells x h sw d res) :=
  foldl_writeLocs_offPhasers _ fun l hl => offPhasers_begun ls as (hoff l hl)

theorem offPhasers_of_plain {s : State} {op : AccOp} {q : Int} (hq : localBase ≤ q) {l : Nat} {p : List Loc} {t : Nat}
    (hp : p = accPlace t (sweepAcc op q l)) (hplain : ∀ k ∈ p, Plain s k) : s.offPhasers t (wordOffs q l) := by
  intro k hk u hu r hr
  refine hplain (.scratch t k) ?_ u hu r hr
  rw [hp, accPlace_sweepAcc t op hq, wordPlaces_eq]
  exact List.mem_map_of_mem hk

theorem segmentStores_queued {s : State} (hown : ∀ q ∈ s.eng.stores, x.ownsStores q = false) (hne : o.sweepOuts x h ≠ []) (res : Nat → Res) :
    o.segmentStores x h sw d true res s =
      x.queued ((o.sweepOuts x h).map fun l => LaneOp.segmentPart x h sw d l (o.segmentVal x h res l)) s := by
  rw [← queueStores_first hown _ (by simpa using hne), List.foldl_map]
  rfl

variable {s0 t : State} {res : Nat → Res} {ls : List Lease} {as : ZMap} {spent : List (Nat × Nat)} {fs : FlagSet} {v : Option SweepHold}
  {step : Int} {n : Nat} (hx : s0.gang? x.issue.team x.issue.gang = some x.gang)
include hx

/-- What a segment keeps and stores whose words enter S at once, where no phaser stands. -/
theorem kept_of_plain_segment {ws : List (Loc × Int)} (hu : s0.team? x.issue.team = some x.team)
    (hoff : ∀ l ∈ o.sweepOuts x h, s0.offPhasers x.issue.team (wordOffs (sweepAddr h d sw.dstep) l))
    (ht : t.teams = (x.modGang (x.segmented spent fs v step) (o.segmentStores x h sw d false res ((x.begun s0).eased ls as))).teams)
    (hb : t.beyond = (x.counting (some n) (o.segmentStores x h sw d false res ((x.begun s0).eased ls as))).beyond)
    (hws : ws = (o.segmentCells x h sw d res).map fun w => (.scratch x.issue.team w.1, w.2)) :
    Kept s0 t x { storing s0 false ws with flags := True, gen := fun l => l ∈ spent.map Prod.fst, counted := some n } ∧ Stored s0 t false ws := by
  rw [segmentStores_of_offPhasers ls as res hoff] at ht hb
  have hteams : t.teams = (x.modGang (x.segmented spent fs v step) (x.begun (s0.scratched x.issue.team (o.segmentCells x h sw d res)))).teams :=
    ht.trans (x.modGang_teams_congr _ (teams_scratched_begun ..))
  have hmem : t.mem = { s0.mem with leases := ls } := congrArg State.mem hb
  have hgrids : t.grids = s0.grids := (congrArg State.grids hb :)
  refine ⟨kept_of_segmented hx (fun a b => gang?_modTeam_of_gangs s0 _ a b (Team.stored _) (fun _ => rfl) fun _ => rfl) hteams
    (fun p => by rw [State.hbmAt, hmem]; rfl) (by rw [hb]; rfl) (fun _ hi => hi) trivial, fun l hl => ?_⟩
  rw [x.begun_eq, Iss.modGang_modGang _ _ _ _ x.ticked_idx] at hteams
  rw [hws, ← readLoc_scratched hu _ false hl]
  exact readLoc_of_modGang hteams (fun _ _ => by rw [hmem]; rfl) hgrids (fun g => x.ticked_idx g) (fun g => x.ticked_lanes g) hl _

/-! ### A segment whose words are put behind those of their instruction (R182) -/

/-- What a segment keeps whose words are put behind those of their instruction: all but the sequence of stores. -/
theorem kept_of_queued_segment (hown : ∀ q ∈ s0.eng.stores, x.ownsStores q = false) (hne : o.sweepOuts x h ≠ [])
    (ht : t.teams = (x.modGang (x.segmented spent fs v step) (o.segmentStores x h sw d true res ((x.begun s0).eased ls as))).teams)
    (hb : t.beyond = (x.counting (some n) (o.segmentStores x h sw d true res ((x.begun s0).eased ls as))).beyond) :
    t.eng = { s0.eng with nextId := s0.eng.nextId + 1, stores := s0.eng.stores ++
      [{ id := s0.eng.nextId, ctx := x.ctx.num, team := x.issue.team, gang := x.issue.gang, slices := x.slices,
         parts := (o.sweepOuts x h).map fun l => LaneOp.segmentPart x h sw d l (o.segmentVal x h res l) }] } ∧
    Kept { s0 with eng := t.eng } t x { flags := True, touch := true, gen := fun l => l ∈ spent.map Prod.fst, counted := some n } ∧
    ∀ bin l, l.isOwn = true → t.readLoc bin l = s0.readLoc bin l := by
  rw [segmentStores_queued (s := (x.begun s0).eased ls as) hown hne] at ht hb
  have hteams : t.teams = (x.modGang (x.segmented spent fs v step) (x.begun s0)).teams := ht
  have hmem : t.mem = { s0.mem with leases := ls } := congrArg State.mem hb
  have hgrids : t.grids = s0.grids := (congrArg State.grids hb :)
  have heng := congrArg State.eng hb
  refine ⟨heng, kept_of_segmented (s0 := { s0 with eng := t.eng }) (u := s0) hx (fun _ _ => rfl) hteams (fun p => by rw [State.hbmAt, hmem]; rfl)
    ?_ (fun _ hi => hi) trivial, fun bin l hl => ?_⟩
  · rw [hb, show t.eng = _ from heng]
    rfl
  · rw [x.begun_eq, Iss.modGang_modGang _ _ _ _ x.ticked_idx] at hteams
    exact readLoc_of_modGang hteams (fun _ _ => by rw [hmem]; rfl) hgrids (fun g => x.ticked_idx g) (fun g => x.ticked_lanes g) hl _

end

end Sys2Proof.Machine
namespace Sys2Proof.Machine

/-! ### Swept instructions and their segments (R58, R59) -/

section
variable {i : Instr} {o o' : LaneOp} {sw : Sweep} {d a b : SReg}

theorem laneOp3_of_swept {ops : VOps3}
    (h : (match ops with | .swept sw d a b => some (o', sw, d, a, b) | .regs _ _ _ => none) = some (o, sw, d, a, b)) (s : State) :
    laneOp3 o' ops s = laneSweep o sw d a b s := by
  cases ops with
  | regs d a b => cases h
  | swept sw d a b => cases h; rfl

theorem laneOp2_of_swept {ops : VOps2}
    (h : (match ops with | .swept sw d a => some (o', sw, d, a, 0) | .regs _ _ => none) = some (o, sw, d, a, b)) (s : State) :
    laneOp2 o' ops s = laneSweep o sw d a b s := by
  cases ops with
  | regs d a => cases h
  | swept sw d a => cases h; rfl

/-- The instruction that opens a sweep is its first segment. -/
theorem exec_of_sweepOf (h : sweepOf i = some (o, sw, d, a, b)) (s : State) : exec i s = laneSweep o sw d a b s := by
  unfold sweepOf at h
  split at h
  iterate 28 exact laneOp3_of_swept h s
  iterate 5 exact laneOp2_of_swept h s
  cases h

theorem landDue_cur (x : Iss) (ends : Bool) (s : State) : (x.landDue ends s).cur = s.cur := by
  unfold Iss.landDue
  split <;> rfl

/-- Results that land leave the issue set selected. -/
theorem issue_of_issuing {s s0 : State} {x y : Iss} {ends : Bool} (h : s.issuing ends = some (s0, x)) (hy : s.iss? = some y) : y.issue = x.issue := by
  obtain ⟨x0, hx0, hs0, hx⟩ := issuing_eq s s0 ends x h
  obtain ⟨hcur, -⟩ := iss?_eq s x0 hx0
  obtain ⟨hcur0, -⟩ := iss?_eq s0 x hx
  rw [hs0, State.settled, landDue_cur, hcur] at hcur0
  rw [← Option.some.inj (hx0.symm.trans hy)]
  exact Option.some.inj hcur0

/-- A step of SWEEP_SEGMENT is the next segment of the sweep that the issue set holds. -/
theorem exec_sweepSegment {s s0 : State} {x : Iss} {h : SweepHold} {n : Nat} (hfound : s.issuing false = some (s0, x))
    (hheld : (s.iss?.map fun y => (y.gang.slice y.low).sweep) = some (some h)) (hdec : decode h.words = .ok (i, n))
    (hi : sweepOf i = some (o, sw, d, a, b)) :
    exec (.sweepSegment ⟨x.issue.team, x.issue.gang, x.low⟩) s = laneSweep o sw d a b s := by
  obtain ⟨y, hy, hsweep⟩ := Option.map_eq_some_iff.mp hheld
  have hissue := issue_of_issuing hfound hy
  show execSweepSegment _ s = _
  unfold execSweepSegment
  simp only [hy, hsweep, hdec, hi]
  rw [if_pos]
  rw [Iss.low, Iss.low, Iss.slices, Iss.slices, hissue]

end

/-! ### The statement's lists -/

section
variable (o : LaneOp) (x : Iss) (h : SweepHold)

theorem LaneOp.sweepOuts_eq : o.sweepOuts x h = x.lanes.filter fun l => decide (l ∈ o.heldRuns x h ∨ l ∈ o.heldZeros x h) :=
  List.filter_congr fun l _ => by simp

variable {o x h} {sw : Sweep} {d a b : SReg}

theorem LaneOp.mem_sweepOuts_of_mem_heldRuns {l : Nat} (hl : l ∈ o.heldRuns x h) : l ∈ o.sweepOuts x h := by
  rw [LaneOp.sweepOuts_eq, List.mem_filter]
  exact ⟨List.mem_of_mem_filter hl, by simp [hl]⟩

/-- A segment without words to store makes no access. -/
theorem LaneOp.sweepAccs_of_sweepOuts_nil (hs : o.sound x h sw d a b) (hnil : o.sweepOuts x h = []) : o.sweepAccs x h sw d a b = [] := by
  have hruns : o.heldRuns x h = [] := List.eq_nil_iff_forall_not_mem.mpr fun l hl => by
    have := LaneOp.mem_sweepOuts_of_mem_heldRuns hl
    rw [hnil] at this
    cases this
  rw [o.sweepAccs_of_sound x h sw d a b hs, hruns, hnil]
  simp

theorem not_queues_of_nil {u : Uses} {p : List (List Loc)} (h : u.accs = []) : x.queues u p = false := by
  simp [Iss.queues, Got.queued, h]

end

end Sys2Proof.Machine
namespace Sys2Proof.Machine

/-- What stores leave of the gang of a segment, but for fates. -/
theorem gang?_segmentStores (o : LaneOp) {x : Iss} {s0 : State} (h : SweepHold) (sw : Sweep) (d : SReg) (queued : Bool) (res : Nat → Res)
    (ls : List Lease) (as : ZMap) (hx : s0.gang? x.issue.team x.issue.gang = some x.gang) :
    ∃ g, (o.segmentStores x h sw d queued res ((x.begun s0).eased ls as)).gang? x.issue.team x.issue.gang = some g ∧
      g.fateless = (x.ticked x.gang).fateless := by
  have hgang := (sameButFates_segmentStores o x h sw d queued res ((x.begun s0).eased ls as)).gangs x.issue.team x.issue.gang
  have hbegun : ((x.begun s0).eased ls as).gang? x.issue.team x.issue.gang = some (x.ticked x.gang) := by
    have hmod := gang?_modGang s0 x.issue.team x.issue.gang x.issue.team x.issue.gang x.ticked x.ticked_idx
    rw [if_pos ⟨rfl, rfl⟩, hx] at hmod
    exact hmod
  rw [hbegun] at hgang
  exact Option.map_eq_some_iff.mp hgang

theorem heldRecords_segmentStores (o : LaneOp) (x : Iss) (s0 : State) (h : SweepHold) (sw : Sweep) (d : SReg) (queued : Bool) (res : Nat → Res)
    (ls : List Lease) (as : ZMap) (n : Nat) :
    (o.segmentStores x h sw d queued res ((x.begun s0).eased ls as)).heldRecords n = s0.heldRecords n :=
  heldRecords_of_scope (sameButFates_segmentStores o x h sw d queued res ((x.begun s0).eased ls as)).scope n

/-- Where the words of an admitted segment are stored, no phaser stands, if no place that it accesses is one. -/
theorem offPhasers_of_admits {o : LaneOp} {x : Iss} {h : SweepHold} {sw : Sweep} {d a b : SReg} {s0 : State} (hs : o.sound x h sw d a b)
    (hplain : ∀ l ∈ ((o.sweepAccs x h sw d a b).map (accPlace x.issue.team)).flatten, Plain s0 l) :
    ∀ l ∈ o.sweepOuts x h, s0.offPhasers x.issue.team (wordOffs (sweepAddr h d sw.dstep) l) := by
  intro l hl
  refine offPhasers_of_plain (op := .store) (o.le_dest x h sw d a b hs) rfl fun k hk => hplain k (List.mem_flatten.mpr ⟨_, ?_, hk⟩)
  refine List.mem_map_of_mem ?_
  rw [o.sweepAccs_of_sound x h sw d a b hs]
  exact List.mem_append_right _ (List.mem_map_of_mem hl)

/-- An admitted segment completes in a state whose teams are those after its stores, its gang updated, and which is else what its stores left. -/
theorem laneSweep_next {o : LaneOp} {x : Iss} {sw : Sweep} {d a b : SReg} {s s0 : State} {p : List (List Loc)} {queued : Bool} {res : Nat → Res}
    (hfound : s.issuing false = some (s0, x)) (hquiet : s0.heldRecords x.ctx.agency = 0) (hs : o.sound x (o.hold x [d, a, b]) sw d a b)
    (hp : p = (o.segmentUses x sw d a b).accs.map (accPlace x.issue.team)) (h : Admits s0 x (o.segmentUses x sw d a b) p [])
    (hqueued : x.queues (o.segmentUses x sw d a b) p = queued) (hres : o.segmentRes x (o.hold x [d, a, b]) sw a b s0 = res) :
    ∃ t ls as, laneSweep o sw d a b s = .next t ∧
      t.teams = (x.modGang (x.segmented (o.segmentDraws x (o.hold x [d, a, b]))
        (joinAll ((o.heldRuns x (o.hold x [d, a, b])).map fun l => (res l).flags))
        ((o.hold x [d, a, b]).next sw) (x.segmentStep (o.hold x [d, a, b]) sw))
        (o.segmentStores x (o.hold x [d, a, b]) sw d queued res ((x.begun s0).eased ls as))).teams ∧
      t.beyond = (x.counting (some ((o.heldRuns x (o.hold x [d, a, b])).length * elems o.ty))
        (o.segmentStores x (o.hold x [d, a, b]) sw d queued res ((x.begun s0).eased ls as))).beyond := by
  subst hp hqueued hres
  obtain ⟨ls, as, hnext⟩ := laneSweep_of_admits hfound hs h
  exact ⟨_, ls, as, hnext, finish_segmentEffect x _ _ _ _ _ s0 _ ((heldRecords_segmentStores ..).trans hquiet)⟩

/-- Where a segment leaves the slices: at the instruction with their sweep held, or past it. -/
theorem slices_of_segmented {x : Iss} {h : SweepHold} {sw : Sweep} {spent : List (Nat × Nat)} {fs : FlagSet} {s0 t : State} {g : Gang}
    (hx : s0.gang? x.issue.team x.issue.gang = some x.gang) (hg : g.fateless = (x.ticked x.gang).fateless)
    (ht : t.gang? x.issue.team x.issue.gang = some (x.segmented spent fs (h.next sw) (x.segmentStep h sw) g))
    (hin : ∀ k ∈ x.slices, k < x.gang.slices.length) :
    if h.done + 1 < sw.count then
      ∀ k ∈ x.slices, t.pcOf x.issue.team x.issue.gang k = (x.gang.slice k).pc ∧
        (t.slc x.issue.team x.issue.gang k).sweep = some { h with done := h.done + 1, paused := false }
    else GoesOn s0 t x ∧ ∀ k ∈ x.slices, (t.slc x.issue.team x.issue.gang k).sweep = none := by
  have hpc : ∀ k ∈ x.slices, t.pcOf x.issue.team x.issue.gang k = (x.gang.slice k).pc + x.segmentStep h sw :=
    fun k hk => pcOf_of_segmented hg ht hk (hin k hk)
  have hsweep : ∀ k ∈ x.slices, (t.slc x.issue.team x.issue.gang k).sweep = h.next sw := fun k hk => sweep_of_segmented hg ht hk (hin k hk)
  unfold SweepHold.next Iss.segmentStep at *
  split
  · next hmore =>
    simp only [hmore, if_true, Int.add_zero] at hpc hsweep
    exact fun k hk => ⟨hpc k hk, hsweep k hk⟩
  · next hlast =>
    simp only [hlast, if_false] at hpc hsweep
    refine ⟨fun k hk => ?_, hsweep⟩
    rw [hpc k hk, State.pcOf, hx]

end Sys2Proof.Machine

namespace Sys2Proof.Proofs.Sweeps
open Sys2Proof.Machine

/-- Settles O26: a segment's accesses are found in the scratchpad, its results stored there or put behind those of its instruction, and its gang
updated once. -/
theorem sweptSegments : Obligations.SweptSegments := by
  unfold Obligations.SweptSegments
  intro i e o sw d a b hi s s0 x p hissues hne _ he h run at_ u hsound hadm hp _ word res out places vals ws spent
  obtain ⟨hfound, hquiet, hin⟩ := hissues
  obtain ⟨_, _, _, hiss⟩ := issuing_eq s s0 false x hfound
  obtain ⟨-, hteam, -⟩ := iss?_eq s0 x hiss
  have hx := iss?_gang? s0 x hiss
  have hs : o.sound x h sw d a b := hsound
  have hexec : exec e s = laneSweep o sw d a b s := by
    obtain ⟨rfl, -⟩ | ⟨rfl, h', n, hheld, -, hdec⟩ := he
    · exact exec_of_sweepOf hi s
    · exact exec_sweepSegment hfound hheld hdec hi
  obtain ⟨t, ls, as, hnext, hteams, hbeyond⟩ := laneSweep_next (queued := x.queues u p) (res := res) hfound hquiet hs hp hadm rfl rfl
  obtain ⟨g, hgang, hg⟩ := gang?_segmentStores o h sw d (x.queues u p) res ls as hx
  have hgang := gang?_of_segmented x _ _ _ _ hteams hgang
  have hout : o.sweepOuts x h = out := o.sweepOuts_eq x h
  refine ⟨t, hexec.trans hnext, fun hq hplain => ?plain, fun hq hown => ?queued, spent_of_segmented hg hgang hx,
    flagsOf_of_segmented hg hgang hx, slices_of_segmented hx hg hgang fun k hk => (hin k hk).1⟩
  case plain =>
    have hws : ws = (o.segmentCells x h sw d res).map fun w => (.scratch x.issue.team w.1, w.2) := by
      rw [LaneOp.segmentCells, map_laneCells, hout]
      rfl
    subst hp
    rw [hq] at hteams hbeyond
    exact kept_of_plain_segment hx hteam (offPhasers_of_admits hs hplain) hteams hbeyond hws
  case queued =>
    have houts : o.sweepOuts x h ≠ [] := fun hnil =>
      Bool.false_ne_true ((not_queues_of_nil (LaneOp.sweepAccs_of_sweepOuts_nil hs hnil)).symm.trans hq)
    rw [hq] at hteams hbeyond
    rw [← hout]
    exact kept_of_queued_segment hx (Iss.ownsStores_of_not_storing hne hown) houts hteams hbeyond

end Sys2Proof.Proofs.Sweeps

/-! A trap whose record a full trace buffer holds (R440): the clause of O13 on failing targets. -/
namespace Sys2Proof.Proofs.Traced
open Sys2Proof.Machine

theorem isSome_issuing_full_ending : (full.issuing true).isSome = true := by decide +kernel

/-- The state in which an instruction that ends windows finds the gang, and its issue set. -/
def leaver : State × Iss := (full.issuing true).get isSome_issuing_full_ending

theorem issuing_full_ending : full.issuing true = some (leaver.1, leaver.2) := (Option.some_get isSome_issuing_full_ending).symm

/-- The slices whose target of JR traps, with the address of each lane. -/
def badTargets : List (Nat × Cause × Int) :=
  leaver.2.slices.flatMap fun k =>
    match targetCause (leaver.2.s k 5) with
    | some w => [(3 * k, w, leaver.2.s k 5), (3 * k + 1, w, leaver.2.s k 5), (3 * k + 2, w, leaver.2.s k 5)]
    | none => []

theorem stallAfter_jr : stallAfter (exec (.jr 5) full) = some .trace := by decide +kernel

theorem stallAfter_takeTrap_badTargets : stallAfter (.next (takeTrap leaver.1 leaver.2 (.lanesOnly badTargets))) = none := by decide +kernel

/-- Refutes O13: where the agency is traced in lossless mode and its buffer is full, the record of the trap that JR to a target which is no multiple of 3
raises is held, and the gang stalls with the trace as reason (R440): the state is not that after the trap alone. The clause on failing targets has no
premise on traces. -/
theorem not_transfers : ¬ Obligations.Transfers := by
  rintro ⟨_, hfaults⟩
  have htrap : exec (.jr 5) full = .next (takeTrap leaver.1 leaver.2 (.lanesOnly badTargets)) :=
    hfaults .always 5 0 0 0 0 (.jr 5, none, fun x k => x.s k 5) (by simp [transferRows]) full leaver.1 leaver.2 issuing_full_ending
      (by unfold Iss.clear; decide +kernel) (by decide +kernel)
  have hstall := stallAfter_jr
  rw [htrap, stallAfter_takeTrap_badTargets] at hstall
  cases hstall

end Sys2Proof.Proofs.Traced

/-! An access to a scratchpad is counted for its agency (R465): what instructions on phasers read of the scratchpad shows in the counters of accesses. -/
namespace Sys2Proof.Proofs.Counted
open Sys2Proof.Machine

/-- The demonstration grid with 6,561 trytes of scratchpad for each team. -/
def padGrid : Grid := { demoGrid with launch := demoLaunch.set 4 6561 }

/-- Slice 0 of the demonstration gang chosen, with the address of the scratchpad's first phaser in s5, phase -1 in s6 and the address of its code in
s7. -/
def poised : State :=
  let s := State.reset.demo
  let t : State := { s with grids := [padGrid], teams := [Team.fresh s padGrid 1 0 0 0 0 [0]],
                            cur := some { team := 1, gang := 0, slices := [0], words := [0], apart := false } }
  t.modGang 1 0 fun g => g.modSlices [0] fun _ y => ((y.set 5 localBase).set 6 (-1)).set 7 19683

theorem isSome_issuing_poised : (poised.issuing true).isSome = true := by decide +kernel

/-- The state in which the gang's next instruction finds it, and its issue set. -/
def reader : State × Iss := (poised.issuing true).get isSome_issuing_poised

theorem issues_poised : Issues poised true reader.1 reader.2 :=
  ⟨(Option.some_get isSome_issuing_poised).symm, by decide +kernel, by decide +kernel⟩

theorem phaserAt_poised : ∀ k ∈ reader.2.slices, reader.1.phaserAt reader.2.team (reader.2.s k 5) = .ok (1, 0) := by decide +kernel

theorem phWords_poised :
    (phaserOf reader.1 (1, 0)).map (fun p => (p.phase, p.count, p.arrived, p.expected, p.landed)) = some (0, 0, 0, 0, 0) := by decide +kernel

/-- The phaser that slice 0 names has phase 0, and nothing is expected of it. -/
theorem phaserOf_poised : phaserOf reader.1 (1, 0) = some ⟨0, 0, 0, 0, 0⟩ := by
  obtain ⟨⟨_, _, _, _, _⟩, hp, hwords⟩ := Option.map_eq_some_iff.mp phWords_poised
  cases hwords
  exact hp

theorem targets_poised : ∀ k ∈ reader.2.slices, targetCause (reader.2.s k 7) = none := by decide +kernel

theorem jobsMerged_poised : JobsMerged reader.1 := by
  have hjobs : ∀ c ∈ reader.1.ctxs, c.jobs = [] := by decide +kernel
  intro c hc j hj
  rw [hjobs c hc] at hj
  cases hj

/-- What reading the phaser uses, and where its words lie. -/
def reading : Uses := { Uses.none with accs := reader.2.phAccs 5 .load }

def readingPlaces : List (List Loc) := reading.accs.map fun a => match reader.1.checkAcc reader.2 a with | .ok ls => ls | _ => []

/-- Whether checks pass and found what is given. -/
def passesWith (e : Except Stop Got × List WatchMatch) (g : Got) : Bool := match e with | (.ok h, []) => decide (h = g) | _ => false

theorem eq_of_passesWith {e : Except Stop Got × List WatchMatch} {g : Got} (h : passesWith e g = true) : e = (.ok g, []) := by
  unfold passesWith at h
  split at h
  · rw [of_decide_eq_true h]
  · cases h

theorem admits_poised : Admits reader.1 reader.2 reading readingPlaces [] :=
  ⟨eq_of_passesWith (by decide +kernel), by decide +kernel, by decide +kernel⟩

/-- The accesses counted in the state that an instruction answers. -/
def accessesAfter (a : Answer) : Option ZMap := match a with | .next t => some t.hub.accesses | _ => none

theorem accesses_of_kept {t : State} {a : Answer} (ha : a = .next t) (h : Kept reader.1 t reader.2 {}) :
    accessesAfter a = some reader.1.hub.accesses := by
  have hacc := congrArg (fun u : State => u.hub.accesses) h.beyond
  exact ha ▸ congrArg some hacc

theorem accessesAfter_phwait : accessesAfter (exec (.phwait 5 6) poised) ≠ some reader.1.hub.accesses := by decide +kernel

theorem accessesAfter_yield : accessesAfter (exec (.yield 5 6 7) poised) ≠ some reader.1.hub.accesses := by decide +kernel

/-- Refutes O34: PHWAIT reads its phaser in the scratchpad, and that access is counted for the agency (R465), while the statement has it leave everything
but the gang as it was. -/
theorem not_phasers : ¬ Obligations.Phasers := by
  intro h
  obtain ⟨_, hphaser⟩ := h poised reader.1 reader.2 5 6 0 (fun _ => (1, 0)) issues_poised phaserAt_poised fun _ _ _ _ => .inl rfl
  obtain ⟨_, _, hwait⟩ := hphaser (fun _ => ⟨0, 0, 0, 0, 0⟩) fun _ _ => phaserOf_poised
  obtain ⟨t, ht, hkept, _⟩ := hwait ⟨_, admits_poised⟩ jobsMerged_poised
  exact accessesAfter_phwait (accesses_of_kept ht hkept)

/-- Refutes O36: YIELD reads its phaser in the scratchpad, and that access is counted for the agency (R465), while the statement has it leave everything
but the gang as it was. -/
theorem not_waitsEnd : ¬ Obligations.WaitsEnd := by
  rintro ⟨⟨hyield, _⟩, _⟩
  obtain ⟨t, ht, hkept, _⟩ := hyield poised reader.1 reader.2 5 6 7 (fun _ => ⟨0, 0, 0, 0, 0⟩) (fun _ => (1, 0)) issues_poised (by decide +kernel)
    jobsMerged_poised (fun k hk => ⟨phaserAt_poised k hk, phaserOf_poised, targets_poised k hk⟩) ⟨_, admits_poised⟩
  exact accessesAfter_yield (accesses_of_kept ht hkept)

end Sys2Proof.Proofs.Counted

/-! Instructions that make no access and whose whole effect is an update of their gang: one completion lemma for all of them. -/
namespace Sys2Proof.Machine

/-- An update of the gang of issue set x that moves no program counter and writes at most what w names. -/
structure GangOp (x : Iss) (w : Writes) (f : Gang → Gang) : Prop where
  idx   : ∀ g, (f g).idx = g.idx
  pc    : ∀ g k, ((f g).slice k).pc = (g.slice k).pc
  frame : ∀ a g, GangFrame x.slices w a g → GangFrame x.slices w a (f g)

theorem GangOp.id (x : Iss) (w : Writes) : GangOp x w fun g => g := ⟨fun _ => rfl, fun _ _ => rfl, fun _ _ h => h⟩

theorem GangOp.comp {x : Iss} {w : Writes} {f g : Gang → Gang} (hf : GangOp x w f) (hg : GangOp x w g) : GangOp x w fun a => f (g a) :=
  ⟨fun a => (hf.idx _).trans (hg.idx a), fun a k => (hf.pc _ k).trans (hg.pc a k), fun a b h => hf.frame a _ (hg.frame a b h)⟩

theorem GangOp.length {x : Iss} {w : Writes} {f : Gang → Gang} (hf : GangOp x w f) (g : Gang) : (f g).slices.length = g.slices.length :=
  (hf.frame g g (GangFrame.refl _ _ g)).length

theorem GangOp.ran_frame {x : Iss} {w : Writes} {f : Gang → Gang} (hf : GangOp x w f) (g : Gang) : GangFrame x.slices w g (x.ran f g) :=
  ((hf.frame g _ ((GangFrame.refl _ _ g).begun g x)).advance _ _).finished _

theorem GangOp.ran_pc {x : Iss} {w : Writes} {f : Gang → Gang} (hf : GangOp x w f) {g : Gang} {k : Nat} (hk : k ∈ x.slices)
    (hl : k < g.slices.length) : ((x.ran f g).slice k).pc = (g.slice k).pc + 3 * (x.issue.words.length : Int) := by
  have hlen : (f (x.ticked g)).slices.length = g.slices.length := (hf.length _).trans (congrArg List.length (x.ticked_slices g))
  rw [Iss.ran, x.passed_pc hk (hlen ▸ hl), hf.pc, x.ticked_slice]

/-- The gang of an issue set after an update of it. -/
theorem gang?_of_teams_modGang {s t : State} {x : Iss} {f : Gang → Gang} (hf : ∀ g, (f g).idx = g.idx)
    (hgang : s.gang? x.issue.team x.issue.gang = some x.gang) (ht : t.teams = (x.modGang f s).teams) :
    t.gang? x.issue.team x.issue.gang = some (f x.gang) := by
  have hmod := gang?_modGang s x.issue.team x.issue.gang x.issue.team x.issue.gang _ hf
  rw [if_pos ⟨rfl, rfl⟩, hgang] at hmod
  rw [← Option.map_some, ← hmod, State.gang?, State.gang?, State.team?, State.team?, ht]
  rfl

theorem Issues.gang {s s0 : State} {ends : Bool} {x : Iss} (hx : Issues s ends s0 x) : s0.gang? x.issue.team x.issue.gang = some x.gang := by
  obtain ⟨_, _, _, hiss⟩ := issuing_eq s s0 ends x hx.found
  exact iss?_gang? s0 x hiss

theorem heldRecords_of_beyond {s t : State} {touch store : Bool} (h : t.beyond.cut touch store = s.beyond.cut touch store) (a : Nat) :
    t.heldRecords a = s.heldRecords a := by
  have hcut : ∀ u : State, u.heldRecords a = (u.beyond.cut touch store).heldRecords a := fun u => by cases touch <;> cases store <;> rfl
  rw [hcut t, hcut s, h]

theorem hbmAt_of_beyond {s t : State} {touch : Bool} (h : t.beyond.cut touch false = s.beyond.cut touch false) (p : Nat) : t.hbmAt p = s.hbmAt p := by
  have hcut : ∀ u : State, u.hbmAt p = (u.beyond.cut touch false).hbmAt p := fun u => by cases touch <;> rfl
  rw [hcut t, hcut s, h]

/-- A frame speaks of the teams, of memory, and of what lies beyond the teams. -/
theorem Frame.congr {s t t' : State} {x : Iss} {w : Writes} (h : Frame s t' x w) (ht : t.teams = t'.teams)
    (hm : ∀ p, ¬ w.hbm p → t.hbmAt p = s.hbmAt p)
    (hb : t.beyond.cut w.touch w.store = t'.beyond.cut w.touch w.store) : Frame s t x w := by
  have hg : ∀ a b, t.gang? a b = t'.gang? a b := fun a b => by simp only [State.gang?, State.team?, ht]
  refine { memory := hm, beyond := hb.trans h.beyond, teams := ht ▸ h.teams, others := fun a b hab => (hg a b).trans (h.others a b hab),
           gang := by rw [hg]; exact h.gang, slices := fun g k hs hk => h.slices g k hs (by rwa [← hg]),
           sca := ?_, vec := ?_, msk := ?_, gen := ?_, flags := ?_, mode := ?_, opens := ?_ }
  all_goals simp only [State.sreg, State.vlane, State.mreg, State.genOf, State.flagsOf, State.modeOf, State.pendingOf, hg]
  · exact h.sca
  · exact h.vec
  · exact h.msk
  · exact h.gen
  · exact h.flags
  · exact h.mode
  · exact h.opens

/-- The end of an instruction that goes on, whose effect on the teams is an update of its gang. -/
theorem finish_advance_teams (x : Iss) {s0 s3 : State} {f : Gang → Gang} (hf : ∀ g, (f g).idx = g.idx) (hq : s0.heldRecords x.ctx.agency = 0)
    (hq3 : s3.heldRecords x.ctx.agency = 0) (ht : s3.teams = (x.modGang f (x.begun s0)).teams) :
    (x.finish s0 (x.advance s3)).teams = (x.modGang (x.ran f) s0).teams ∧ (x.finish s0 (x.advance s3)).beyond = s3.beyond := by
  obtain ⟨hteams, hbeyond⟩ := finish_quiet x s0 (x.advance s3) hq3
  have hsame := (finish_quiet x s0 (x.advance (x.modGang f (x.begun s0))) hq).1
  refine ⟨hteams.trans (Eq.trans ?_ (hsame.symm.trans (finish_advance_modGang x s0 hf hq).1)), hbeyond⟩
  exact x.modGang_teams_congr _ (x.modGang_teams_congr _ ht)

/-- An instruction that goes on completes with its effect, where that is, on the teams, an update of its gang. -/
theorem runs_of_next {i : Instr} {s s0 s3 : State} {x : Iss} {w : Writes} {f : Gang → Gang} {p : State → Prop} (hx : Issues s false s0 x)
    (he : exec i s = .next (x.finish s0 (x.advance s3))) (hf : GangOp x w f) (ht : s3.teams = (x.modGang f (x.begun s0)).teams)
    (hm : ∀ p, ¬ w.hbm p → s3.hbmAt p = s0.hbmAt p)
    (hb : s3.beyond.cut w.touch w.store = (x.counting w.counted s0).beyond.cut w.touch w.store)
    (hp : ∀ t : State, t.gang? x.issue.team x.issue.gang = some (x.ran f x.gang) → p t) : Runs i s s0 x w p := by
  have hgang := hx.gang
  have hq3 : s3.heldRecords x.ctx.agency = 0 :=
    (heldRecords_of_beyond hb _).trans ((x.counting_heldRecords w.counted s0 _).trans hx.quiet)
  obtain ⟨hteams, hbeyond⟩ := finish_advance_teams x hf.idx hx.quiet hq3 ht
  have hown := gang?_of_teams_modGang (x.ran_idx hf.idx) hgang hteams
  have hframe : Frame s0 (x.counting w.counted (x.modGang (x.ran f) s0)) x w :=
    frame_of s0 _ x w _ hgang (x.counting_teams _ _) (by cases w.counted <;> rfl) (x.ran_idx hf.idx) (hf.ran_frame _)
  refine ⟨_, he, fun k hk => ?_, hframe.congr (hteams.trans (x.counting_teams _ _).symm) (fun p h => ?_) ?_, hp _ hown⟩
  · simp only [State.pcOf, hown, hgang]
    exact hf.ran_pc hk (hx.inGang k hk).1
  · have hmem : (x.finish s0 (x.advance s3)).hbmAt p = s3.hbmAt p := by
      have hsame := congrArg (fun u : State => u.hbmAt p) hbeyond
      exact hsame
    exact hmem.trans (hm p h)
  · rw [hbeyond, hb]
    cases w.counted <;> rfl

/-- An instruction that makes no access and whose effect is an update of its gang completes with it. -/
theorem runs_of_issue {i : Instr} {s s0 : State} {x : Iss} {w : Writes} {f : Gang → Gang} {ds : List Dest} {rs : List VReg} {opens : Nat}
    {uses : Iss → Uses} {body : Iss → Got → State → Except Stop State} {p : State → Prop} (hx : Issues s false s0 x)
    (hw : rs = [] ∨ Unwatched s0 x) (hc : x.clear ds) (hv : x.mayName rs) (ho : opens = 0 ∨ x.room opens) (he : exec i s = issue uses body s)
    (hu : uses x = { Uses.none with dests := ds, vregs := rs, opens := opens }) (hf : GangOp x w f)
    (hb : body x ⟨[], [], []⟩ (x.begun s0) = .ok (x.counting w.counted (x.modGang f (x.begun s0))))
    (hp : ∀ t : State, t.gang? x.issue.team x.issue.gang = some (x.ran f x.gang) → p t) : Runs i s s0 x w p := by
  have hnext := issueWith_next false false true uses body s s0 _ x hx.found (ha := by rw [hu]; rfl) (hf := by rw [hu]; rfl) (hm := by rw [hu]; rfl)
    (hk := by rw [hu]; rfl) (hp := by simp) (hc := by rw [hu]; exact hc) (hv := by rw [hu]; exact hv)
    (hw := by rw [hu]; exact hw.imp_left fun h => ⟨rfl, h⟩) (ho := by rw [hu]; exact ho) (hb := hb)
  refine runs_of_next hx (he.trans hnext) hf (x.counting_teams _ _) (fun p _ => ?_) ?_ hp <;> cases w.counted <;> rfl

end Sys2Proof.Machine

/-! Mask instructions and reads of special registers (R91, R95, R111). -/
namespace Sys2Proof.Machine

/-! ### Mask registers -/

/-- The value that the trits of a list leave at position j: the last of them for j. -/
theorem tritAt_foldl_setTrit {t : Nat → Int} (ht : ∀ i, Fits 1 (t i)) (ls : List Nat) (j : Nat) (m : Int) :
    tritAt j ((ls.map fun i => (i, t i)).foldl (fun m w => setTrit w.1 w.2 m) m) = if j ∈ ls then t j else tritAt j m := by
  induction ls generalizing m with
  | nil => simp
  | cons l ls ih =>
    rw [List.map_cons, List.foldl_cons, ih, Proofs.Trits.tritAt_setTrit (ht l)]
    by_cases hj : j ∈ ls
    · simp [hj]
    · by_cases hl : j = l <;> simp [hj, hl]

theorem Gang.mask_zero (g : Gang) : g.mask 0 = maxTrits 27 := rfl

theorem tritAt_maxTrits : ∀ j < 27, tritAt j (maxTrits 27) = 1 := by decide

/-- Trit j of a mask register after trits of lanes are written to it (R73). -/
theorem Gang.tritAt_mask_setMask (g : Gang) {r : MReg} (hr : r ≠ 0) {t : Nat → Int} (ht : ∀ i, Fits 1 (t i)) (ls : List Nat) (j : Nat) :
    tritAt j ((g.setMask r (ls.map fun i => (i, t i))).mask r) = if j ∈ ls then t j else tritAt j (g.mask r) := by
  have h0 : r.val ≠ 0 := fun h => hr (Fin.ext h)
  simp only [Gang.mask, Gang.setMask, h0, if_false, getZ_setZ, if_true]
  exact tritAt_foldl_setTrit ht ls j _

theorem gangOp_setMask (x : Iss) {w : Writes} (r : MReg) (ws : List (Nat × Int)) (hw : w.msk r ∨ r.val = 0) :
    GangOp x w fun g => g.setMask r ws where
  idx g := by unfold Gang.setMask; split <;> rfl
  pc g k := by unfold Gang.setMask; split <;> rfl
  frame _ g h := h.setMask g r ws hw

@[simp] theorem Iss.passed_mask (x : Iss) (g : Gang) (r : MReg) : (x.passed g).mask r = g.mask r := rfl

@[simp] theorem Iss.ticked_mask (x : Iss) (g : Gang) (r : MReg) : (x.ticked g).mask r = g.mask r := by
  unfold Iss.ticked; split <;> rfl

/-- An agency that is not traced has no records written. -/
theorem emit_of_untraced {s : State} {a : Nat} (h : s.cfg? a = none) (src trit : Nat) (r : List Int) : s.emit a src trit r = s := by
  unfold State.emit
  rw [h]

/-- A mask register written for an agency that is not traced. -/
theorem putMask_eq (x : Iss) (r : MReg) (ws : List (Nat × Int)) {s : State} (h : s.cfg? x.ctx.agency = none) :
    x.putMask r ws s = x.modGang (fun g => g.setMask r ws) s := by
  exact emit_of_untraced (s := x.modGang (fun g => g.setMask r ws) s) h _ _ _

@[simp] theorem Iss.modGang_cfg? (x : Iss) (f : Gang → Gang) (s : State) (a : Nat) : (x.modGang f s).cfg? a = s.cfg? a := rfl
@[simp] theorem Iss.begun_cfg? (x : Iss) (s : State) (a : Nat) : (x.begun s).cfg? a = s.cfg? a := rfl

/-! ### Results without flags -/

theorem joinF_zero (f : FlagSet) : joinF f 0 = f := by
  unfold joinF
  split
  · next h => exact h.symm
  · rfl

theorem joinAll_of_zeros {α : Type} (l : List α) : joinAll (l.map fun _ => 0) = 0 := by
  unfold joinAll
  induction l with
  | nil => rfl
  | cons a l ih => rw [List.map_cons, List.foldl_cons, joinF_zero]; exact ih

/-- Scalars written without flags are a scalar result (R76). -/
theorem setS_eq (x : Iss) (d : SReg) (v : Nat → Int) (s : State) :
    x.setS d (x.slices.map fun k => (k, v k)) s = x.modGang (x.scalarEffect 0 d [] fun k => ⟨v k, 0⟩) s := by
  unfold Iss.setS
  congr 1
  funext g
  simp only [Iss.scalarEffect, Gang.spend, List.foldl_nil, Gang.putRes, Fin.val_zero, if_true, List.map_map, Function.comp_def,
    joinAll_of_zeros, joinF_zero]
  rfl

/-- An instruction that writes scalars without flags completes with them. -/
theorem runsScalar_of_setS {i : Instr} {s s0 : State} {x : Iss} {d : SReg} (v : Iss → State → Nat → Int) (hx : Issues s false s0 x)
    (hc : x.clear (x.sDests d))
    (he : exec i s = issue (fun x => { Uses.none with dests := x.sDests d })
      (fun x _ s => .ok (x.setS d (x.slices.map fun k => (k, v x s k)) s)) s) :
    RunsScalar i s s0 x 0 d [] fun k => ⟨v x (x.begun s0) k, 0⟩ :=
  runsScalar_of_issue hx hc (.inl rfl) he rfl (congrArg Except.ok (setS_eq x d (v x (x.begun s0)) (x.begun s0)))

end Sys2Proof.Machine

namespace Sys2Proof.Proofs.Masks
open Sys2Proof.Machine Sys2Proof.Proofs.Trits

theorem fits_consensus {p q : Int} (hp : Fits 1 p) : Fits 1 (if p = q then p else 0) := by
  split
  · exact hp
  · exact ⟨by decide, by decide⟩

/-- Every row of VMASK is one mask instruction of its shape (R111), and gives trits. -/
theorem exec_maskRows (d a b : MReg) (u : SReg) :
    ∀ row ∈ maskRows d a b u, (∀ s, exec row.1 s = vmask d row.2 s) ∧ ∀ x i, Fits 1 (row.2 x i) := by
  simp only [maskRows, List.forall_mem_cons, List.not_mem_nil, false_imp_iff, implies_true, and_true]
  refine ⟨⟨fun _ => rfl, fun x i => ?_⟩, ⟨fun _ => rfl, fun x i => ?_⟩, ⟨fun _ => rfl, fun x i => fits_neg (tritAt_fits _ _)⟩,
    ⟨fun _ => rfl, fun x i => fits_consensus (tritAt_fits _ _)⟩, fun _ => rfl, fun x i => tritAt_fits _ _⟩
  · exact min_rec' (Fits 1) (tritAt_fits _ _) (tritAt_fits _ _)
  · exact max_rec' (Fits 1) (tritAt_fits _ _) (tritAt_fits _ _)

theorem maskWrites : MaskWrites := by
  intro d a b u row hrow s s0 x hx hcfg hc
  obtain ⟨hexec, hfits⟩ := exec_maskRows d a b u row hrow
  have hd : ∀ {P : Prop}, d = 0 ∨ P ∨ d.val = 0 → P ∨ d.val = 0 := fun h => h.elim (fun h => .inr (by rw [h]; rfl)) fun h => h
  refine runs_of_issue (f := fun g => g.setMask d (x.lanes.map fun i => (i, row.2 x i))) (opens := 0) hx (.inl rfl) hc (by simp [Iss.mayName]) (.inl rfl)
    (hexec s) rfl (gangOp_setMask x d _ (by by_cases h : d = 0 <;> simp [h])) ?body fun t ht j hj => ?trit
  case body =>
    rw [putMask_eq x d _ (by simpa using hcfg)]
    rfl
  case trit =>
    by_cases h0 : d = 0
    · simp only [State.mreg, ht, h0, if_true]
      exact tritAt_maxTrits j hj
    · have hmask : s0.mreg x.issue.team x.issue.gang d = x.gang.mask d := by simp only [State.mreg, hx.gang]
      rw [if_neg h0, hmask, ← x.ticked_mask, ← Gang.tritAt_mask_setMask _ h0 (fun i => hfits x i)]
      simp only [State.mreg, ht, Iss.ran, Iss.passed_mask]

theorem scalarReads : ScalarReads := by
  intro s s0 x d hx hc
  refine ⟨fun a => ?mget, fun a c => ?mcnt, fun sr => ?rdsr, fun f hf => ?lea⟩
  case mget =>
    simp only [← pow3_eq]
    exact runsScalar_of_setS (fun x _ _ => (x.lanes.map fun i => x.m a i * pow3 i).sum) hx hc rfl
  case mcnt => exact runsScalar_of_setS (fun x _ _ => ((x.lanes.filter fun i => decide (x.m a i = c)).length : Int)) hx hc rfl
  case rdsr =>
    have hread := runsScalar_of_setS (i := .rdsr d sr) (fun x s k => x.special s k sr) hx hc rfl
    cases sr <;> exact hread
  case lea =>
    have haddr : ∀ k, x.s k f.b + f.off = x.smemAddr f 1 k := fun k => by rw [Iss.smemAddr, mul_one]
    simp only [haddr]
    subst hf
    exact runsScalar_of_setS (fun x _ k => wrap 54 (x.smemAddr f 1 k)) hx hc rfl

/-- Settles O11: a mask instruction sets the trits of its lanes, a read writes one scalar in every slice. -/
theorem masksAndReads : Obligations.MasksAndReads := ⟨maskWrites, scalarReads⟩

end Sys2Proof.Proofs.Masks

/-! Vector instructions that select, take an immediate, or compare into a mask (R99, R100, R112). -/
namespace Sys2Proof.Machine

/-- Flags raised into the gang (R31). -/
def Gang.raised (f : FlagSet) (g : Gang) : Gang := { g with flags := joinF g.flags f }

theorem gangOp_raised (x : Iss) {w : Writes} (f : FlagSet) (hw : w.flags) : GangOp x w (Gang.raised f) :=
  ⟨fun _ => rfl, fun _ _ => rfl, fun _ g h => h.raise g f hw⟩

theorem drawsOf_zero (rnd : Rnd) (ls : List Nat) : drawsOf rnd ls 0 = [] := by simp [drawsOf]

theorem Gang.setMask_flags (g : Gang) (r : MReg) (ws : List (Nat × Int)) : (g.setMask r ws).flags = g.flags := by
  unfold Gang.setMask; split <;> rfl

theorem Iss.not_mem_zeroed_of_mem_active {x : Iss} {attr : Option Attr} {m : MReg} {i : Nat} (h : i ∈ x.active attr m) : i ∉ x.zeroed attr m := by
  intro hz
  have hrun := of_decide_eq_true (List.mem_filter.mp h).2
  have hzero := of_decide_eq_true (List.mem_filter.mp hz).2
  rw [hrun] at hzero
  cases hzero

/-- Trit j of a mask register after lanes of run have received trits and lanes of zero have been zeroed (R56, R99). -/
theorem Gang.tritAt_mask_setMask_zeroing (g : Gang) {r : MReg} (hr : r ≠ 0) {t : Nat → Int} (ht : ∀ i, Fits 1 (t i)) (run zero : List Nat) (j : Nat) :
    tritAt j ((g.setMask r ((run.map fun i => (i, t i)) ++ zero.map fun i => (i, 0))).mask r) =
      if j ∈ zero then 0 else if j ∈ run then t j else tritAt j (g.mask r) := by
  have h0 : r.val ≠ 0 := fun h => hr (Fin.ext h)
  simp only [Gang.mask, Gang.setMask, h0, if_false, getZ_setZ, if_true, List.foldl_append]
  rw [tritAt_foldl_setTrit (t := fun _ => 0) (fun _ => ⟨by decide, by decide⟩), tritAt_foldl_setTrit ht]

end Sys2Proof.Machine

namespace Sys2Proof.Proofs.Compares
open Sys2Proof.Machine Sys2Proof.Proofs.Trits

theorem vectorSelect : VectorSelect := by
  intro s s0 x f d a b hops hx hw hc hr hv
  have he : exec (.vsel3 f) s = laneRegs (opVsel3 f) d a b s := by
    show laneOp3 _ f.ops s = _
    rw [hops]
    rfl
  have hrun := runsVector_of_laneRegs (o := opVsel3 f) (a := a) (b := b) hx hw hc hr hv he
  rwa [show (if (opVsel3 f).draws then elems (opVsel3 f).ty else 0) = 0 from rfl, drawsOf_zero] at hrun

/-- The lane-wise instruction that a row of VIMM stands for (R112). -/
def immOp (row : (VimmF → Instr) × Bool × Bool × (Bool → Rnd → Int → Int → Int → Res)) (f : VimmF) : LaneOp :=
  vimm f row.2.1 row.2.2.1 fun sat r d a => row.2.2.2 sat r d a f.imm

theorem vectorImmediate : VectorImmediate := by
  intro row hrow s s0 x f d a hops hx hw hc hv
  have he : exec (row.1 f) s = laneRegs (immOp row f) d a 0 s := by
    have hrows : exec (row.1 f) s = laneOp2 (immOp row f) f.ops s := by
      simp only [List.mem_cons, List.not_mem_nil, or_false] at hrow
      rcases hrow with rfl | rfl | rfl | rfl | rfl <;> rfl
    rw [hrows, hops]
    rfl
  have hnames : x.mayName (d :: ((if row.2.1 then [a] else []) ++ [] ++ [])) := by rwa [List.append_nil, List.append_nil]
  have hrun := runsVector_of_laneRegs (o := immOp row f) (a := a) (b := 0) hx hw hc (.inl rfl) hnames he
  rwa [show elems (immOp row f).ty = 1 from rfl, mul_one] at hrun

/-- The comparison trit of a lane (R99). -/
def cmpRes (ty : Ty) (a b : Int) : Res := if ty = .f27 then f27.cmp a b else ⟨cmpTrit a b, 0⟩

theorem fits_cmpTrit (a b : Int) : Fits 1 (cmpTrit a b) := by
  unfold cmpTrit
  split_ifs <;> exact ⟨by decide, by decide⟩

theorem fits_cmpRes (ty : Ty) (a b : Int) : Fits 1 (cmpRes ty a b).val := by
  unfold cmpRes Fmt.cmp
  split
  · split_ifs
    · exact ⟨by decide, by decide⟩
    · exact fits_cmpTrit _ _
  · exact fits_cmpTrit _ _

/-- What VCMP and VCMPI write: lanes of run their comparison trits, lanes of zero 0, with the flags of the comparisons (R56, R99). -/
def compareEffect (d : MReg) (run zero : List Nat) (res : Nat → Res) (g : Gang) : Gang :=
  (g.setMask d ((run.map fun i => (i, (res i).val)) ++ zero.map fun i => (i, 0))).raised (joinAll (run.map fun i => (res i).flags))

theorem compareEffect_flags (d : MReg) (run zero : List Nat) (res : Nat → Res) (g : Gang) :
    (compareEffect d run zero res g).flags = joinF g.flags (joinAll (run.map fun i => (res i).flags)) :=
  congrArg (joinF · _) (g.setMask_flags d _)

theorem compareEffect_mask (d : MReg) (run zero : List Nat) (res : Nat → Res) (g : Gang) (r : MReg) :
    (compareEffect d run zero res g).mask r =
      (g.setMask d ((run.map fun i => (i, (res i).val)) ++ zero.map fun i => (i, 0))).mask r := rfl

/-- A comparison into a mask register of an agency that is not traced. -/
theorem runs_compareMask {i : Instr} {s s0 : State} {x : Iss} {attr : Option Attr} {m d : MReg} {ty : Ty} {rs : List VReg} {a b : Iss → Nat → Int}
    {res : Nat → Res} (hx : Issues s false s0 x) (hw : Unwatched s0 x) (hcfg : s0.cfg? x.ctx.agency = none) (hc : x.clear (if d.val = 0 then [] else [.msk d]))
    (hv : x.mayName rs) (he : exec i s = compareMask attr m ty d rs a b s) (hres : ∀ j, cmpRes ty (a x j) (b x j) = res j) :
    Runs i s s0 x { msk := fun r => r = d ∧ d ≠ 0, flags := True, counted := some (x.active attr m).length } fun t =>
      Raised s0 t x ((x.active attr m).map fun j => (res j).flags) ∧
      ∀ j, j < 27 → tritAt j (t.mreg x.issue.team x.issue.gang d) =
        if d = 0 then 1 else if j ∈ x.active attr m then (res j).val else if j ∈ x.zeroed attr m then 0
        else tritAt j (s0.mreg x.issue.team x.issue.gang d) := by
  obtain rfl : (fun j => cmpRes ty (a x j) (b x j)) = res := funext hres
  have hmask : d = 0 ∨ d ≠ 0 → (d = d ∧ d ≠ 0) ∨ d.val = 0 := fun h => h.elim (fun h => .inr (congrArg Fin.val h)) fun h => .inl ⟨rfl, h⟩
  refine runs_of_issue (opens := 0) (f := compareEffect d (x.active attr m) (x.zeroed attr m) fun j => cmpRes ty (a x j) (b x j)) hx (.inr hw) hc hv
    (.inl rfl) he rfl ((gangOp_raised x _ trivial).comp (gangOp_setMask x d _ (hmask (em _)))) ?body fun t ht => ⟨?flags, fun j hj => ?trit⟩
  case body =>
    dsimp only
    rw [putMask_eq x d _ (by simpa using hcfg), Iss.raise, Iss.modGang_modGang]
    · rfl
    · exact (gangOp_setMask x (w := { msk := fun r => r = d ∧ d ≠ 0 }) d _ (hmask (em _))).idx
  case flags =>
    simp only [Raised, State.flagsOf, ht, hx.gang]
    rw [Iss.ran, x.passed_flags, compareEffect_flags, x.ticked_flags]
  case trit =>
    simp only [State.mreg, ht, hx.gang, Iss.ran, Iss.passed_mask, compareEffect_mask]
    by_cases h0 : d = 0
    · rw [if_pos h0, h0]
      exact tritAt_maxTrits j hj
    · rw [if_neg h0, Gang.tritAt_mask_setMask_zeroing _ h0 (fun i => fits_cmpRes ty (a x i) (b x i)), x.ticked_mask]
      by_cases hrun : j ∈ x.active attr m
      · rw [if_neg (Iss.not_mem_zeroed_of_mem_active hrun)]
        simp [hrun]
      · simp [hrun]

theorem vectorCompare : VectorCompare := by
  intro s s0 x hx hw hcfg
  refine ⟨fun f hc hv => ?vcmp, fun f hc hv => ?vcmpi⟩
  case vcmp =>
    have he : exec (.vcmp f) s = compareMask f.attr f.mask f.ty f.d [f.a, f.b] (fun x i => x.v f.a i) (fun x i => x.v f.b i) s := rfl
    exact runs_compareMask hx hw hcfg hc hv he fun _ => rfl
  case vcmpi =>
    have he : exec (.vcmpi f) s = compareMask f.attr 0 .i27 f.d [f.a] (fun x i => x.v f.a i) (fun _ _ => f.imm) s := rfl
    exact runs_compareMask hx hw hcfg hc hv he fun _ => rfl

/-- Settles O22: selects and immediates are lane-wise results of their shape, comparisons write trits of a mask and flags. -/
theorem vectorSelectsAndCompares : Obligations.VectorSelectsAndCompares := ⟨vectorSelect, vectorImmediate, vectorCompare⟩

end Sys2Proof.Proofs.Compares

/-! Conversion and lane movement (R104 to R110): one completion lemma for the forms with a vector destination, whose rows are what each computes. -/
namespace Sys2Proof.Machine

/-! ### Draws of which none may be made -/

theorem getZ_gens_spend_none (g : Gang) (ls : List Nat) (i : Nat) : getZ i (g.spend (ls.map fun l => (l, 0))).gens = getZ i g.gens := by
  unfold Gang.spend
  simp only
  generalize g.gens = m
  induction ls generalizing m with
  | nil => rfl
  | cons l ls ih =>
    rw [List.map_cons, List.foldl_cons, ih, getZ_setZ]
    split
    · next h => rw [h]; rfl
    · rfl

/-- Lanes that make n draws each leave the generators as the draws that the mode makes do, none among them. -/
theorem getZ_gens_spend_drawsOf (g : Gang) (rnd : Rnd) (ls : List Nat) (n i : Nat) :
    getZ i (g.spend (if rnd = .stoch then ls.map fun l => (l, n) else [])).gens = getZ i (g.spend (drawsOf rnd ls n)).gens := by
  unfold drawsOf
  by_cases hn : n = 0
  · rw [if_neg (c := rnd = .stoch ∧ n ≠ 0) (by simp [hn])]
    split
    · rw [hn]; exact getZ_gens_spend_none g ls i
    · rfl
  · simp [hn]

theorem spend_eq_modGang (x : Iss) (rnd : Rnd) (ws : List (Nat × Nat)) (s : State) :
    x.spend rnd ws s = x.modGang (fun g => g.spend (if rnd = .stoch then ws else [])) s := by
  rw [spend_eq]
  split <;> rfl

/-! ### Completion -/

theorem gangOp_vectorEffect {x : Iss} {w : Writes} {la : Fin 27} {d : VReg} {run zero : List Nat} {spent : List (Nat × Nat)} {res : Nat → Res}
    (hgen : ∀ g i, ¬ w.gen i → getZ i (Gang.spend g spent).gens = getZ i g.gens)
    (hvec : la = 0 → ∀ j, j ∈ run ∨ j ∈ zero → j < 27 ∧ w.vec d j) (hflags : la = 0 → w.flags) (hopens : la ≠ 0 → w.opens) :
    GangOp x w (x.vectorEffect la d run zero spent res) where
  idx := x.vectorEffect_idx la d run zero spent res
  pc g k := by rw [Gang.slice, x.vectorEffect_slices, Gang.slice]
  frame a g h := by
    have hspent : GangFrame x.slices w a (g.spend spent) := h.trans { GangFrame.refl _ w g with gen := hgen g }
    unfold Iss.vectorEffect Gang.putLanes
    split
    case isTrue h0 =>
      have hla : la = 0 := Fin.ext h0
      exact (hspent.setLanes _ d _ fun p hp => hvec hla _ (mem_laneWrites hp)).raise _ _ (hflags hla)
    case isFalse h0 => exact hspent.open_ _ _ (hopens fun h => h0 (by rw [h]; rfl))

/-- A VPERM form with a vector destination completes with what it writes; where its lanes make no draw, none need be spent. -/
theorem runsVector_of_perm {i : Instr} {s s0 : State} {x : Iss} {faults : Iss → List (Nat × Cause × Int)} {attr : Option Attr} {la : Fin 27}
    {d : VReg} {srcs : List VReg} {out : Iss → PermOut} {run zero : List Nat} {spent made : List (Nat × Nat)} {n : Nat} {res : Nat → Res}
    (hx : Issues s false s0 x) (hw : Unwatched s0 x) (hc : x.clear [.vec d]) (hr : la = 0 ∨ x.room 1) (hv : x.mayName (d :: srcs))
    (he : exec i s = permWith faults attr la d srcs out s) (hfaults : faults x = [])
    (hout : out x = ⟨run.map fun i => (i, res i), zero, n, made⟩) (hrun : ∀ j ∈ run, j ∈ x.lanes) (hzero : ∀ j ∈ zero, j ∈ x.lanes)
    (hspent : ∀ g l, getZ l (Gang.spend g (if x.rnd attr = .stoch then made else [])).gens = getZ l (g.spend spent).gens) :
    RunsVector i s s0 x la d run zero spent (some n) res := by
  have hlanes : ∀ j, j ∈ run ∨ j ∈ zero → j < 27 :=
    fun j hj => Iss.lt_of_mem_lanes (fun k hk => (hx.inGang k hk).2) (hj.elim (hrun j) (hzero j))
  refine runs_of_issue (opens := if la.val = 0 ∨ x.lanes = [] then 0 else 1)
    (f := x.vectorEffect la d run zero (if x.rnd attr = .stoch then made else []) res) hx (.inr hw) hc hv ?opens he (by rw [hfaults]; rfl)
    (gangOp_vectorEffect (fun g l hl => (hspent g l).trans (getZ_gens_spend_of_not_mem g hl)) (fun hla j hj => ⟨hlanes j hj, hla, rfl, hj⟩) id id)
    ?body fun t ht => ⟨fun hd w hw => ?gens, fun hla => ⟨fun j hj hz => ?run, fun j hj => ?zero, ?flags⟩, fun hla => ?later⟩
  case opens =>
    obtain h | h := hr
    · exact .inl (if_pos (.inl (by rw [h]; rfl)))
    · by_cases h0 : la.val = 0 ∨ x.lanes = []
      · exact .inl (if_pos h0)
      · exact .inr (by rw [if_neg h0]; exact h)
  case body =>
    dsimp only
    rw [hout, spend_eq_modGang, putV_eq, Iss.modGang_modGang]
    · simp only [List.map_map, Function.comp_def]
      rfl
    · exact fun _ => rfl
  all_goals simp only [State.genOf, State.vlane, Raised, State.flagsOf, State.pendsOf, ht, hx.gang]
  case gens => rw [Iss.ran, x.passed_gens, x.vectorEffect_gens, hspent, getZ_gens_spend _ hd hw, x.ticked_gens]
  case run => rw [hla, x.ran_vectorEffect_lane]; exact Gang.lane_laneWrites_run _ d run zero res hj hz
  case zero => rw [hla, x.ran_vectorEffect_lane]; exact Gang.lane_laneWrites_zero _ d run zero res hj
  case flags => rw [hla]; exact x.ran_vectorEffect_flags d run zero _ res x.gang
  case later => exact x.mem_ran_vectorEffect_pending la d run zero _ res x.gang hla

theorem Iss.mem_lanes_of_mem_active {x : Iss} {attr : Option Attr} {m : MReg} {j : Nat} (h : j ∈ x.active attr m) : j ∈ x.lanes :=
  List.mem_of_mem_filter h

theorem Iss.mem_lanes_of_mem_zeroed {x : Iss} {attr : Option Attr} {m : MReg} {j : Nat} (h : j ∈ x.zeroed attr m) : j ∈ x.lanes :=
  List.mem_of_mem_filter h

/-- A VPERM form that computes each active lane by itself completes with their results. -/
theorem runsVector_of_permLanes {i : Instr} {s s0 : State} {x : Iss} {attr : Option Attr} {m : MReg} {la : Fin 27} {d : VReg} {srcs : List VReg}
    {counted draws : Nat} {f : Iss → Nat → Res} (hx : Issues s false s0 x) (hw : Unwatched s0 x)
    (he : exec i s = permLanes attr m la d srcs counted draws f s) (hc : x.clear [.vec d]) (hr : la = 0 ∨ x.room 1) (hv : x.mayName (d :: srcs)) :
    RunsVector i s s0 x la d (x.active attr m) (x.zeroed attr m) (drawsOf (x.rnd attr) (x.active attr m) draws)
      (some ((x.active attr m).length * counted)) (f x) :=
  runsVector_of_perm hx hw hc hr hv he rfl rfl (fun _ => Iss.mem_lanes_of_mem_active) (fun _ => Iss.mem_lanes_of_mem_zeroed)
    fun g => getZ_gens_spend_drawsOf g _ _ _

theorem gangOp_putSca {x : Iss} {w : Writes} {r : SReg} {ws : List (Nat × Int)} (hw : ∀ p ∈ ws, w.sca p.1 r ∨ r.val = 0) :
    GangOp x w fun g => g.putSca r ws :=
  ⟨fun g => putSca_idx g r ws, fun g k => putSca_pc g r ws k, fun _ g h => putSca_frame g h r ws hw⟩

/-! ### Elements -/

theorem elemOf_zero (t : Ty) (e : Nat) : elemOf t e 0 = 0 := by
  unfold elemOf subLane sub
  split
  · rw [Proofs.Trits.dropLow_zero, Proofs.Trits.wrap_zero]
  · rfl

theorem elemIn_eq_elemAt (x : Iss) (t : Ty) (r : VReg) (j : Int) : x.elemIn t r j = elemAt x t r j := by
  have hcount : (elemCount t : Int) = 27 * (elems t : Int) := by simp [elemCount]
  unfold Iss.elemIn elemAt Iss.vIn
  rw [hcount]
  by_cases hl : j.toNat / elems t ∈ x.lanes
  · simp [hl]
  · simp [hl, elemOf_zero]

/-- No element of a register has a number beyond 80. -/
theorem Iss.elemsTo_eq_of_le (x : Iss) (t : Ty) (r : VReg) {ls : List Nat} (hls : ∀ i ∈ ls, i < 27) {j k : Nat} (hj : 80 ≤ j) (hk : 80 ≤ k) :
    x.elemsTo t r ls j = x.elemsTo t r ls k := by
  have helems : elems t ≤ 3 := by unfold elems; split <;> decide
  unfold Iss.elemsTo
  refine List.flatMap_congr fun i hi => List.filterMap_congr fun e he => ?_
  have hi := hls i hi
  have he := List.mem_range.mp he
  have hbound : elems t * i + e ≤ 80 := by
    have : elems t * i ≤ elems t * 26 := Nat.mul_le_mul_left _ (by omega)
    omega
  rw [if_pos (by omega), if_pos (by omega)]

end Sys2Proof.Machine

namespace Sys2Proof.Proofs.Permutations
open Sys2Proof.Machine

theorem ofSubLanes_eq (a b c : Int) : a + 3 ^ 9 * b + 3 ^ 18 * c = ofSubLanes a b c := rfl

/-- VPACK of integers narrows each of its three words (R106). -/
theorem exec_vpack_of_ne {f : VpermF} (h : f.ty ≠ .f27) (s : State) :
    exec (.vpack f) s = permLanes f.attr f.mask 0 f.d [f.a, f.b, fourthReg f.attr] 3 0 (fun x i =>
      let n := fun r => narrowInt 9 (x.v r i)
      ⟨ofSubLanes (n f.a).val (n f.b).val (n (fourthReg f.attr)).val, joinAll [(n f.a).flags, (n f.b).flags, (n (fourthReg f.attr)).flags]⟩) s := by
  show execVpack f s = _
  unfold execVpack
  simp only [h, if_false]
  rfl

/-- VPACK of floats converts each of its three words, with a draw of its own (R27, R106). -/
theorem exec_vpack_of_eq {f : VpermF} (h : f.ty = .f27) (s : State) :
    exec (.vpack f) s = permLanes f.attr f.mask 0 f.d [f.a, f.b, fourthReg f.attr] 3 3 (fun x i =>
      let n := fun (r : VReg) (k : Nat) => cvtElem .f27 .f9 (x.rnd f.attr) (x.gang.draw i k) (x.v r i)
      ⟨ofSubLanes (n f.a 0).val (n f.b 1).val (n (fourthReg f.attr) 2).val,
        joinAll [(n f.a 0).flags, (n f.b 1).flags, (n (fourthReg f.attr) 2).flags]⟩) s := by
  show execVpack f s = _
  unfold execVpack
  simp only [h, if_true]
  rfl

theorem laneMovements : LaneMovements := by
  intro s s0 x hx hw
  refine ⟨fun f => runsVector_of_permLanes hx hw (i := .cvt f) rfl, fun f hty => ?intPack, fun f hty => ?floatPack,
    fun f => runsVector_of_permLanes hx hw (i := .vunpk f) rfl, fun f => ?shfl, fun f => ?rotl, fun f h0 hlt => ?bcast,
    fun f => runsVector_of_permLanes hx hw (i := .vidx f) rfl, fun f => runsVector_of_permLanes hx hw (i := .vins f) rfl⟩
  case intPack => exact runsVector_of_permLanes hx hw (exec_vpack_of_ne hty s)
  case floatPack => exact runsVector_of_permLanes hx hw (exec_vpack_of_eq hty s)
  case shfl =>
    simp only [← elemIn_eq_elemAt]
    exact runsVector_of_permLanes hx hw (i := .vshfl f) rfl
  case rotl =>
    have hcount : (27 * elems f.ty : Int) = (elemCount f.ty : Int) := by simp [elemCount]
    intro hc hr hv
    simp only [← elemIn_eq_elemAt, hcount]
    exact runsVector_of_permLanes hx hw (i := .vrotl f) rfl hc hr hv
  case bcast =>
    have hcount : (elemCount f.ty : Int) = 27 * elems f.ty := by simp [elemCount]
    intro hc hr hv
    simp only [← elemIn_eq_elemAt, drawsOf_zero]
    refine runsVector_of_perm hx hw hc hr hv (i := .vbcast f) rfl ?_ rfl (fun _ => Iss.mem_lanes_of_mem_active) (fun _ => Iss.mem_lanes_of_mem_zeroed)
      fun g l => ?_
    · exact if_neg (by rw [hcount]; exact not_or.mpr ⟨h0.not_gt, hlt.not_ge⟩)
    · rw [ite_self]

/-! ### Forms that combine or gather lanes (R108, R109) -/

theorem nodup_lanesOf {ks : List Nat} (h : ks.Nodup) : (lanesOf ks).Nodup := by
  unfold lanesOf
  refine List.nodup_flatMap.mpr ⟨fun k _ => by simp, h.imp fun {a b} hab => ?_⟩
  simp only [Function.onFun, List.disjoint_left, List.mem_cons, List.not_mem_nil, or_false]
  omega

/-- VRED of some active lane: what it writes (R108). -/
theorem vred_out {x : Iss} {f : VredF} (h : x.active f.attr f.mask ≠ []) (hlt : ∀ i ∈ x.active f.attr f.mask, i < 27) :
    ∃ out, (∀ s, exec (.vred f) s = perm f.attr f.la f.d [f.a] out s) ∧
      out x = ⟨(x.active f.attr f.mask).map fun i => (i,
          let r := combine f.ty f.op (satOf f.attr) (x.rnd f.attr) (x.gang.draw ((x.active f.attr f.mask).headD 0) 0)
            (x.elemsTo f.ty f.a (x.active f.attr f.mask) 80)
          ⟨(laneRes f.ty fun _ => ⟨r.val, 0⟩).val, r.flags⟩),
        x.zeroed f.attr f.mask, (x.active f.attr f.mask).length * elems f.ty,
        if combineDraws f.ty f.op then [((x.active f.attr f.mask).headD 0, 1)] else []⟩ := by
  refine ⟨_, fun _ => rfl, ?_⟩
  obtain ⟨low, ls, hls⟩ := List.exists_cons_of_ne_nil h
  simp only [x.elemsTo_eq_of_le f.ty f.a hlt (le_refl 80) (by decide : 80 ≤ 81)]
  rw [hls]
  rfl

/-- Draws that a combination makes where it sums floats, and none elsewhere (R27). -/
theorem getZ_gens_spend_if_draws (g : Gang) (rnd : Rnd) (c : Bool) (ls : List Nat) (n l : Nat) :
    getZ l (g.spend (if rnd = .stoch then (if c then ls.map fun i => (i, n) else []) else [])).gens =
      getZ l (g.spend (drawsOf rnd ls (if c then n else 0))).gens := by
  cases c with
  | false => simp [drawsOf_zero]
  | true => exact getZ_gens_spend_drawsOf g rnd ls n l

section
variable {s s0 : State} {x : Iss} (hx : Issues s false s0 x) (hw : Unwatched s0 x)
include hx hw

theorem vcompr_runs {f : VcomprF} (hc : x.clear [.vec f.d]) (hr : f.la = 0 ∨ x.room 1) (hv : x.mayName [f.d, f.a]) (hd : x.lanes.Nodup) :
    RunsVector (.vcompr f) s s0 x f.la f.d x.lanes [] [] (some (x.active f.attr f.mask).length) fun i =>
      ⟨match (x.active f.attr f.mask)[x.lanes.idxOf i]? with | some q => x.v f.a q | none => 0, 0⟩ := by
  refine runsVector_of_perm hx hw hc hr hv (i := .vcompr f) rfl rfl ?_ (fun _ h => h) (fun _ h => nomatch h) fun g l => by rw [ite_self]
  refine congrArg (fun ls => (⟨ls, [], _, []⟩ : PermOut)) (map_zipIdx_eq fun j i hi => ?_)
  obtain ⟨hj, rfl⟩ := List.getElem?_eq_some_iff.mp hi
  exact congrArg (fun k => (x.lanes[j], (⟨match (x.active f.attr f.mask)[k]? with | some q => x.v f.a q | none => 0, 0⟩ : Res)))
    (hd.idxOf_getElem j hj).symm

theorem vexpd_runs {f : VcomprF} (hc : x.clear [.vec f.d]) (hr : f.la = 0 ∨ x.room 1) (hv : x.mayName [f.d, f.a]) (hd : x.lanes.Nodup) :
    RunsVector (.vexpd f) s s0 x f.la f.d (x.active f.attr f.mask) (x.zeroed f.attr f.mask) [] (some (x.active f.attr f.mask).length) fun i =>
      ⟨x.v f.a (x.lanes.getD ((x.active f.attr f.mask).idxOf i) 0), 0⟩ := by
  refine runsVector_of_perm hx hw hc hr hv (i := .vexpd f) rfl rfl ?_ (fun _ => Iss.mem_lanes_of_mem_active) (fun _ => Iss.mem_lanes_of_mem_zeroed)
    fun g l => by rw [ite_self]
  refine congrArg (fun ls => (⟨ls, _, _, []⟩ : PermOut)) (map_zipIdx_eq fun j i hi => ?_)
  obtain ⟨hj, rfl⟩ := List.getElem?_eq_some_iff.mp hi
  have hle : j < x.lanes.length := hj.trans_le (List.length_filter_le _ _)
  have hidx : (x.active f.attr f.mask).idxOf (x.active f.attr f.mask)[j] = j := (hd.filter _).idxOf_getElem j hj
  rw [hidx, List.getD_eq_getElem?_getD]
  simp only [List.getElem?_eq_getElem hle, Option.getD_some]

theorem vext_runs {f : VextF} (hc : x.clear (x.sDests f.d)) (hv : x.mayName [f.a]) (hk : ∀ k ∈ x.slices, 0 ≤ x.s k f.sb ∧ x.s k f.sb ≤ 26) :
    Runs (.vext f) s s0 x { sca := fun k r => k ∈ x.slices ∧ r = f.d ∧ f.d ≠ 0, counted := some x.slices.length } fun t =>
      ∀ k ∈ x.slices, f.d ≠ 0 → t.sreg x.issue.team x.issue.gang k f.d =
        if (x.s k f.sb).toNat ∈ x.lanes then x.v f.a (x.s k f.sb).toNat else 0 := by
  have hfaults : x.slices.filter (fun k => decide (x.s k f.sb < 0) || decide (x.s k f.sb > 26)) = [] :=
    List.filter_eq_nil_iff.mpr fun k hmem => by simpa [not_lt] using hk k hmem
  refine runs_of_issue (opens := 0) (f := fun g => g.putSca f.d (x.slices.map fun k => (k, x.vIn f.a (x.s k f.sb).toNat))) hx (.inr hw) hc hv (.inl rfl)
    (show exec (.vext f) s = execVext f s from rfl) ?uses (gangOp_putSca fun p hp => ?sca) ?body fun t ht k hmem hd => ?val
  case uses => rw [hfaults]; rfl
  case body => rfl
  case sca =>
    obtain ⟨k, hmem, rfl⟩ := List.mem_map.mp hp
    exact (em (f.d = 0)).elim (fun h => .inr (congrArg Fin.val h)) fun h => .inl ⟨hmem, rfl, h⟩
  case val =>
    simp only [State.sreg, ht, Iss.ran, Iss.passed_get]
    rw [putSca_get, if_pos ⟨hmem, by rw [x.ticked_slices]; exact (hx.inGang k hmem).1, rfl, fun h => hd (Fin.ext h)⟩, Iss.vIn]
    simp only [List.contains_iff_mem]

end

theorem laneCombinations : LaneCombinations := by
  intro s s0 x hx hw
  refine ⟨fun f hc hr hv hne => ⟨?vred, ?vscan⟩, fun f hc hr hv hd => ⟨vcompr_runs hx hw hc hr hv (nodup_lanesOf hd), vexpd_runs hx hw hc hr hv (nodup_lanesOf hd)⟩,
    fun f hc hv hk => vext_runs hx hw hc hv hk⟩
  case vred =>
    obtain ⟨out, he, hout⟩ := vred_out hne fun i hi => Iss.lt_of_mem_lanes (fun k hk => (hx.inGang k hk).2) (Iss.mem_lanes_of_mem_active hi)
    exact runsVector_of_perm hx hw hc hr hv (he s) rfl hout (fun _ => Iss.mem_lanes_of_mem_active) (fun _ => Iss.mem_lanes_of_mem_zeroed)
      fun g => getZ_gens_spend_if_draws g _ _ [_] 1
  case vscan =>
    refine runsVector_of_perm hx hw hc hr hv (i := .vscan f) rfl rfl (if_neg hne) (fun _ => Iss.mem_lanes_of_mem_active)
      (fun _ => Iss.mem_lanes_of_mem_zeroed) fun g => getZ_gens_spend_if_draws g _ _ _ _

/-- Settles O23: each VPERM form writes the lanes that it computes. -/
theorem lanePermutations : Obligations.LanePermutations := ⟨laneMovements, laneCombinations⟩

end Sys2Proof.Proofs.Permutations

/-! What touching lines changes where no slot has been upset (R163, R178, R186, R249): the cache, the leases, the forms of slots, and the counters. One
lemma for each operation that it goes through, in the order of their definitions. -/
namespace Sys2Proof.Machine

/-- The state without what touching lines changes. -/
def State.untouched (s : State) : State := s.cut true false

theorem upsets_of_untouched {s t : State} (h : t.untouched = s.untouched) (hs : s.mem.upsets = []) : t.mem.upsets = [] := by
  have hmem := congrArg (fun u : State => u.mem.upsets) h
  exact Eq.trans hmem hs

theorem teams_of_untouched {s t : State} (h : t.untouched = s.untouched) : t.teams = s.teams := by
  have hteams := congrArg State.teams h
  exact hteams

/-- An operation that only touches lines, wherever no slot has been upset. -/
def Touching (f : State → State) : Prop := ∀ s : State, s.mem.upsets = [] → (f s).untouched = s.untouched

theorem Touching.id : Touching fun s => s := fun _ _ => rfl

theorem Touching.comp {f g : State → State} (hf : Touching f) (hg : Touching g) : Touching fun s => f (g s) :=
  fun s hs => (hf _ (upsets_of_untouched (hg s hs) hs)).trans (hg s hs)

theorem Touching.foldl {α : Type} {f : State → α → State} (h : ∀ a, Touching fun s => f s a) (l : List α) : Touching fun s => l.foldl f s := by
  induction l with
  | nil => exact Touching.id
  | cons a l ih => exact ih.comp (h a)

theorem touching_count (a c : Nat) (n : Int) : Touching fun s => s.count a c n := fun _ _ => rfl
theorem touching_countAccess (a k : Nat) : Touching fun s => s.countAccess a k := fun _ _ => rfl
theorem touching_catchUp (p : Nat → Bool) : Touching fun s => s.catchUp p := fun _ _ => rfl

/-! ### Slots that no upset has reached -/

theorem Mem.rewritten_of_upsets {m : Mem} (h : m.upsets = []) (line : Nat) : m.rewritten line = m := by
  cases m
  simp only at h
  subst h
  rfl

theorem Mem.judge_of_upsets {m : Mem} (h : m.upsets = []) (line : Nat) : m.judge line = m := by
  unfold Mem.judge
  rw [if_pos (by simp [h])]

theorem State.correctSlot_of_upsets {s : State} (h : s.mem.upsets = []) (line : Nat) : s.correctSlot line = s := by
  unfold State.correctSlot
  rw [if_pos (by simp [h])]

theorem touching_readSlot (a line : Nat) : Touching fun s => s.readSlot a line := fun s hs => by
  have hslot := congrArg State.untouched (State.correctSlot_of_upsets (s := s.count a 4 (s.slotTrytes line)) hs line)
  exact hslot

theorem touching_writeSlot (a line : Nat) (comp : Bool) : Touching fun s => s.writeSlot a line comp := fun s hs => by
  simp only [State.writeSlot, Mem.inForm, Mem.rewritten_of_upsets hs]
  rfl

/-! ### The cache -/

theorem touching_evict (line : Nat) : Touching fun s => s.evict line := fun s hs => by
  dsimp only [State.evict]
  split
  · rfl
  · next x _ =>
    by_cases hd : x.dirty = true
    · simp only [hd, if_true]
      exact touching_writeSlot x.agency line x.form s hs
    · simp only [hd, Bool.false_eq_true, if_false]
      rw [Mem.judge_of_upsets (m := s.mem.uncache line) hs]
      rfl

theorem touching_cacheRoom (keep n : Nat) : Touching (State.cacheRoom keep n) := by
  induction n with
  | zero => exact Touching.id
  | succ n ih =>
    intro s hs
    unfold State.cacheRoom
    split
    · rfl
    · split
      · next l _ => exact (ih.comp (touching_evict l)) s hs
      · rfl

theorem touching_makeRoom (line : Nat) : Touching fun s => s.makeRoom line := fun s hs => by
  dsimp only [State.makeRoom]
  split
  · rfl
  · exact touching_cacheRoom _ _ s hs

theorem touching_cacheLine (c : CacheLine) : Touching fun s => s.cacheLine c := fun s hs =>
  touching_makeRoom c.line { s with mem := { s.mem with cache := c :: (s.mem.uncache c.line).cache } } hs

theorem touching_leaveFor (comp : Bool) (line : Nat) : Touching fun s => s.leaveFor comp line := fun s hs => by
  dsimp only [State.leaveFor]
  split
  · next c _ =>
    by_cases hf : c.form = comp
    · simp only [hf, if_true]
      exact touching_evict line s hs
    · simp only [hf, if_false]
      exact touching_writeSlot c.agency line c.form s hs
  · rfl

/-! ### Lines, walks and leases -/

theorem touching_fetch (skip : Bool) (a line : Nat) : Touching fun s => if skip then s else s.readSlot a line := fun s hs => by
  cases skip
  · exact touching_readSlot a line s hs
  · rfl

theorem touching_touchLine (a : Nat) (op : AccOp) (whole : Bool) (l : Leaf) (line : Nat) : Touching fun s => s.touchLine a op whole l line := by
  have hfetch := touching_fetch (whole && !op.rd) a line
  have hrefetch := hfetch.comp (touching_leaveFor l.compress line)
  intro s hs
  have hcount : (s.countAccess a 0).untouched = s.untouched := rfl
  have hs1 : (s.countAccess a 0).mem.upsets = [] := hs
  dsimp only [State.touchLine]
  generalize s.countAccess a 0 = u at hcount hs1 ⊢
  refine Eq.trans ?_ hcount
  split
  · split
    · exact ((touching_cacheLine _).comp hrefetch) u hs1
    · exact hrefetch u hs1
  · split
    · split
      · split <;> rfl
      · exact ((touching_cacheLine _).comp hrefetch) u hs1
    · exact ((touching_cacheLine _).comp hfetch) u hs1

theorem touching_touchWalk (w : Who) (a : Int) : Touching fun s => s.touchWalk w a := fun s hs => by
  dsimp only [State.touchWalk]
  split
  · rfl
  · generalize s.walkLines w.ctx a = ls
    clear * - hs
    induction ls generalizing s with
    | nil => rfl
    | cons l ls ih =>
      have h := touching_touchLine w.ctx.agency .load false (s.heldLeaf l) l s hs
      exact (ih _ (upsets_of_untouched h hs)).trans h

theorem touching_touchWalks (w : Who) (a : Int) (n : Nat) : Touching fun s => s.touchWalks w a n := by
  refine Touching.foldl (f := fun s b => if b > maxAddr ∨ b < -maxAddr ∨ (0 ≤ b ∧ b < 19683) ∨ (b < 0 ∧ w.ctx.priv = false) then s
    else s.touchWalk w b) (fun b s hs => ?_) _
  dsimp only
  split
  · rfl
  · exact touching_touchWalk w b s hs

theorem touching_lease (w : Who) (op : AccOp) (line : Nat) : Touching fun s => s.lease w op line := fun s _ => by
  dsimp only [State.lease]
  split
  · rfl
  · split <;> rfl

theorem touching_touchAt (w : Who) (op : AccOp) (cs : List (Int × Loc)) : Touching fun s => s.touchAt w op cs := by
  have hcatch : Touching fun s => match w.core with | some c => if op.wr then s else s.catchUp fun k => decide (k = c) | none => s :=
    fun s _ => by dsimp only; split <;> [split <;> rfl; rfl]
  have hcount : Touching fun s => if cs.any fun c => c.2.isScratch then s.countAccess w.ctx.agency 1 else s :=
    fun s _ => by dsimp only; split <;> rfl
  have hwalks := Touching.foldl (f := fun s p => s.touchWalk w p.2) (fun p => touching_touchWalk w p.2) (pagePlaces cs)
  have hlines := Touching.foldl (f := fun s q => match s.leafFor w q.2 with
      | .leaf lf => (s.touchLine w.ctx.agency op ((if op.wr then wholeOf (hbmOf (cs.map Prod.snd)) else []).contains q.1) lf q.1).lease w op q.1
      | .fault _ => s)
    (fun q s hs => by
      dsimp only
      split
      · exact ((touching_lease w op q.1).comp (touching_touchLine _ _ _ _ _)) s hs
      · rfl) (linePlaces cs)
  exact hlines.comp (hwalks.comp (hcount.comp hcatch))

theorem touching_touch (w : Who) (op : AccOp) (a : Int) (ls : List Loc) : Touching fun s => s.touch w op a ls := touching_touchAt w op _

/-! ### Instructions that only touch lines -/

/-- An instruction of the issue set that makes no access and only touches lines completes and writes nothing else (R95, R114). -/
theorem runs_of_touching {i : Instr} {s s0 : State} {x : Iss} {f : Iss → State → State} (hx : Issues s false s0 x) (hu : s0.mem.upsets = [])
    (he : exec i s = issue (fun _ => Uses.none) (fun x _ s => .ok (f x s)) s) (hf : Touching (f x)) :
    Runs i s s0 x { touch := true } fun _ => True := by
  have hsame : (f x (x.begun s0)).untouched = (x.begun s0).untouched := hf (x.begun s0) hu
  have hnext := issueWith_next false false true (fun _ => Uses.none) (fun x _ s => .ok (f x s)) s s0 _ x hx.found rfl rfl rfl rfl (by simp)
    (by simp [Iss.clear, Uses.none]) (by simp [Iss.mayName, Uses.none]) (.inl ⟨rfl, rfl⟩) (.inl rfl) rfl
  refine runs_of_next hx (he.trans hnext) (GangOp.id x _) ?_ (fun p _ => ?_) ?_ fun _ _ => trivial
  · rw [teams_of_untouched hsame, modGang_id]
  · have hmem := congrArg (fun u : State => u.hbmAt p) hsame
    exact hmem
  · have hbeyond := congrArg State.beyond hsame
    exact hbeyond

end Sys2Proof.Machine

namespace Sys2Proof.Proofs.Prefetch
open Sys2Proof.Machine

theorem nopHasNoEffect : NopHasNoEffect := by
  intro s s0 x hx
  refine runs_of_issue (opens := 0) hx (.inl rfl) (by simp [Iss.clear]) (by simp [Iss.mayName]) (.inl rfl) (show exec .nop s = execNop s from rfl) rfl
    (GangOp.id x _) ?_ fun _ _ => trivial
  exact congrArg Except.ok (modGang_id x _).symm

/-- A prefetch touches the line of an address that translates, and does nothing at another (R95, R114). -/
theorem touching_prefetch (who : Nat → Who) (addr : Nat → Int) (ks : List Nat) :
    Touching fun s => ks.foldl (fun s k => match s.locate (who k) .load (addr k) 1 with
      | .ok ls => s.touch (who k) .load (addr k) ls
      | _ => s) s := by
  refine Touching.foldl (f := fun s k => match s.locate (who k) .load (addr k) 1 with
    | .ok ls => s.touch (who k) .load (addr k) ls
    | _ => s) (fun k s hs => ?_) ks
  dsimp only
  split
  · exact touching_touch _ _ _ _ s hs
  · rfl

theorem prefetches : Prefetches := by
  intro s s0 x hx hu
  refine ⟨fun f => ?_, fun f => ?_⟩
  · exact runs_of_touching hx hu (show exec (.pf f) s = execPf f s from rfl) (touching_prefetch (fun k => x.who (some (3 * k))) (fun k => x.smemAddr f 81 k) x.slices)
  · exact runs_of_touching hx hu (show exec (.vpf f) s = execVpf f s from rfl) (touching_prefetch (fun _ => x.who none) (fun k => x.vmemLine f (3 * k)) x.slices)

/-- Settles O20: NOP does nothing, and a prefetch only touches lines. -/
theorem noEffect : Obligations.NoEffect := ⟨nopHasNoEffect, prefetches⟩

end Sys2Proof.Proofs.Prefetch

/-! Synchronisation instructions (R52, R133): what they leave of a gang's registers, how they end, and how their slices wait or go on. -/
namespace Sys2Proof.Machine

/-! ### Regrouping -/

/-- Regrouping changes of a slice its sub-gang alone. -/
theorem Gang.slice_regroup (g : Gang) (ks : List Nat) (k : Nat) : ∃ n, (g.regroup ks).slice k = { g.slice k with sub := n } := by
  have hslice := Gang.slice_modSlices g (ks.filter fun k => !(g.slice k).ended) (fun k y => { y with sub :=
    ((ks.filter fun k => !(g.slice k).ended).find? fun j => decide ((g.slice j).sub = (g.slice k).sub) && decide ((g.slice j).pc = (g.slice k).pc)).getD k }) k
  by_cases h : k < g.slices.length ∧ k ∈ ks.filter fun k => !(g.slice k).ended
  · rw [if_pos h] at hslice
    exact ⟨_, hslice⟩
  · rw [if_neg h] at hslice
    exact ⟨(g.slice k).sub, hslice⟩

@[simp] theorem Gang.regroup_idx (g : Gang) (ks : List Nat) : (g.regroup ks).idx = g.idx := rfl

@[simp] theorem Gang.regroup_length (g : Gang) (ks : List Nat) : (g.regroup ks).slices.length = g.slices.length := by
  simp only [Gang.regroup, Gang.modSlices_length]

theorem Gang.regroup_pc (g : Gang) (ks : List Nat) (k : Nat) : ((g.regroup ks).slice k).pc = (g.slice k).pc := by
  obtain ⟨n, h⟩ := g.slice_regroup ks k
  rw [h]

theorem Gang.regroup_wait (g : Gang) (ks : List Nat) (k : Nat) : ((g.regroup ks).slice k).wait = (g.slice k).wait := by
  obtain ⟨n, h⟩ := g.slice_regroup ks k
  rw [h]

theorem Gang.regroup_get (g : Gang) (ks : List Nat) (k : Nat) (r : SReg) : ((g.regroup ks).slice k).get r = (g.slice k).get r := by
  obtain ⟨n, h⟩ := g.slice_regroup ks k
  rw [h]
  rfl

theorem Gang.finished_pc (g : Gang) (ks : List Nat) (k : Nat) : ((g.finished ks).slice k).pc = (g.slice k).pc := by
  rw [Gang.slice_finished]
  split <;> rfl

theorem Gang.finished_wait (g : Gang) (ks : List Nat) (k : Nat) : ((g.finished ks).slice k).wait = (g.slice k).wait := by
  rw [Gang.slice_finished]
  split <;> rfl

/-! ### What a gang's registers hold -/

/-- Gang h holds in its registers what g does, but for what w names. -/
structure SameRegs (w : Writes) (g h : Gang) : Prop where
  sca   : ∀ k r, ¬ w.sca k r → (h.slice k).get r = (g.slice k).get r
  vec   : ∀ r i, i < 27 → ¬ w.vec r i → h.lane r i = g.lane r i
  msk   : ∀ r, ¬ w.msk r → h.mask r = g.mask r
  gen   : ∀ i, ¬ w.gen i → getZ i h.gens = getZ i g.gens
  flags : ¬ w.flags → h.flags = g.flags
  mode  : ¬ w.mode → h.mode = g.mode

section
variable {w : Writes} {a : Gang}

theorem SameRegs.refl (w : Writes) (g : Gang) : SameRegs w g g :=
  ⟨fun _ _ _ => rfl, fun _ _ _ _ => rfl, fun _ _ => rfl, fun _ _ => rfl, fun _ => rfl, fun _ => rfl⟩

theorem SameRegs.trans {b c : Gang} (h : SameRegs w a b) (k : SameRegs w b c) : SameRegs w a c where
  sca i r hr := (k.sca i r hr).trans (h.sca i r hr)
  vec r i hi hr := (k.vec r i hi hr).trans (h.vec r i hi hr)
  msk r hr := (k.msk r hr).trans (h.msk r hr)
  gen i hi := (k.gen i hi).trans (h.gen i hi)
  flags hf := (k.flags hf).trans (h.flags hf)
  mode hf := (k.mode hf).trans (h.mode hf)

theorem SameRegs.of_get {g h : Gang} (hget : ∀ k r, (h.slice k).get r = (g.slice k).get r) (hv : h.v = g.v) (hm : h.m = g.m) (hgens : h.gens = g.gens)
    (hflags : h.flags = g.flags) (hmode : h.mode = g.mode) : SameRegs w g h :=
  ⟨fun k r _ => hget k r, fun _ _ _ _ => by rw [Gang.lane, hv, Gang.lane], fun _ _ => by rw [Gang.mask, hm, Gang.mask],
    fun _ _ => by rw [hgens], fun _ => hflags, fun _ => hmode⟩

theorem SameRegs.of_eq {g h : Gang} (hs : h.slices = g.slices) (hv : h.v = g.v) (hm : h.m = g.m) (hgens : h.gens = g.gens)
    (hflags : h.flags = g.flags) (hmode : h.mode = g.mode) : SameRegs w g h :=
  .of_get (fun _ _ => by rw [Gang.slice, hs, Gang.slice]) hv hm hgens hflags hmode

theorem SameRegs.ticked (g : Gang) (x : Iss) : SameRegs w g (x.ticked g) := by
  unfold Iss.ticked
  split
  · exact .of_eq rfl rfl rfl rfl rfl rfl
  · exact .refl _ _

/-- Slices changed in nothing that a register holds. -/
theorem SameRegs.modSlices (g : Gang) (ks : List Nat) {f : Nat → Slice → Slice} (hf : ∀ k y, (f k y).s = y.s) :
    SameRegs w g (g.modSlices ks f) := by
  refine { SameRegs.refl w g with sca := fun k r _ => ?_ }
  rw [Gang.slice_modSlices]
  split
  · rw [Slice.get, hf, Slice.get]
  · rfl

theorem SameRegs.regroup (g : Gang) (ks : List Nat) : SameRegs w g (g.regroup ks) :=
  .of_get (g.regroup_get ks) rfl rfl rfl rfl rfl

theorem SameRegs.finished (g : Gang) (ks : List Nat) : SameRegs w g (g.finished ks) :=
  .of_get (Gang.finished_get g ks) rfl rfl rfl rfl rfl

theorem SameRegs.leave (g : Gang) (ks : List Nat) : SameRegs w g (g.leave ks) :=
  (SameRegs.modSlices g ks (f := fun _ y => { y with wait := none, fate := .waits, pc := y.pc + 3 }) fun _ _ => rfl).trans (.regroup _ _)

end

/-- A state that agrees with another in memory, in what lies beyond the teams and in the other gangs, and whose own gang holds in its registers what it
did but for what w names, keeps the other. -/
theorem kept_of_gang {s t : State} {x : Iss} {w : Writes} {g h : Gang} (hg : s.gang? x.issue.team x.issue.gang = some g)
    (hh : t.gang? x.issue.team x.issue.gang = some h) (hr : SameRegs w g h)
    (hothers : ∀ a b, (a, b) ≠ (x.issue.team, x.issue.gang) → t.gang? a b = s.gang? a b) (hm : ∀ p, ¬ w.hbm p → t.hbmAt p = s.hbmAt p)
    (hb : t.beyond.cut w.touch w.store =
      (match w.counted with | some n => s.count x.ctx.agency 3 n | none => s).beyond.cut w.touch w.store) : Kept s t x w := by
  refine { memory := hm, beyond := hb, others := hothers, sca := ?_, vec := ?_, msk := ?_, gen := ?_, flags := ?_, mode := ?_ }
  all_goals simp only [State.sreg, State.vlane, State.mreg, State.genOf, State.flagsOf, State.modeOf, hg, hh]
  · exact hr.sca
  · exact hr.vec
  · exact hr.msk
  · exact hr.gen
  · exact hr.flags
  · exact hr.mode

/-! ### The end of an instruction -/

/-- An instruction that ends windows and makes no access, whose program counters it moves itself. -/
theorem syncIssue_next {i : Instr} {s s0 s3 : State} {x : Iss} {ds : List Dest} {uses : Iss → Uses} {body : Iss → State → Except Stop State}
    (hx : Issues s true s0 x) (hc : x.clear ds) (he : exec i s = syncIssue uses body s) (hu : uses x = { Uses.none with dests := ds })
    (hb : body x (x.begun s0) = .ok s3) : exec i s = .next (x.finish s0 s3) :=
  he.trans (issueWith_next true false false uses (fun x _ s => body x s) s s0 _ x hx.found (by rw [hu]; rfl) (by rw [hu]; rfl) (by rw [hu]; rfl)
    (by rw [hu]; rfl) (by simp) (by rw [hu]; exact hc) (by rw [hu]; simp [Iss.mayName, Uses.none]) (.inl (by rw [hu]; exact ⟨rfl, rfl⟩))
    (.inl (by rw [hu]; rfl)) hb)

section
variable {x : Iss} {s0 s3 : State} (hq : s3.heldRecords x.ctx.agency = 0)
include hq

theorem finish_gang? (a b : Nat) : (x.finish s0 s3).gang? a b =
    if a = x.issue.team ∧ b = x.issue.gang then (s3.gang? a b).map fun g => g.finished x.slices else s3.gang? a b := by
  have hteams := (finish_quiet x s0 s3 hq).1
  have hgang : (x.finish s0 s3).gang? a b = (x.modGang (fun g => g.finished x.slices) s3).gang? a b := by
    simp only [State.gang?, State.team?, hteams]
  rw [hgang, Iss.modGang, gang?_modGang s3 _ _ a b (fun g => g.finished x.slices) fun _ => rfl]
  split
  · next h => rw [h.1, h.2]
  · rfl

theorem finish_team? (a : Nat) : (x.finish s0 s3).team? a =
    if a = x.issue.team then (s3.team? a).map fun u => u.modGang x.issue.gang fun g => g.finished x.slices else s3.team? a := by
  have hteams := (finish_quiet x s0 s3 hq).1
  have hteam : (x.finish s0 s3).team? a = (x.modGang (fun g => g.finished x.slices) s3).team? a := by
    simp only [State.team?, hteams]
  rw [hteam, Iss.modGang, State.modGang, team?_modTeam s3 _ a (fun u => u.modGang x.issue.gang fun g => g.finished x.slices) fun _ => rfl]
  split
  · next h => rw [h]
  · rfl

theorem finish_hbmAt (p : Nat) : (x.finish s0 s3).hbmAt p = s3.hbmAt p := by
  have hsame := congrArg (fun u : State => u.hbmAt p) (finish_quiet x s0 s3 hq).2
  exact hsame

/-- What an instruction keeps, from what its effect keeps. -/
theorem finish_kept {s : State} {w : Writes} {g h : Gang} (hg : s.gang? x.issue.team x.issue.gang = some g)
    (hh : s3.gang? x.issue.team x.issue.gang = some h) (hr : SameRegs w g h)
    (hothers : ∀ a b, (a, b) ≠ (x.issue.team, x.issue.gang) → s3.gang? a b = s.gang? a b) (hm : ∀ p, ¬ w.hbm p → s3.hbmAt p = s.hbmAt p)
    (hb : s3.beyond.cut w.touch w.store =
      (match w.counted with | some n => s.count x.ctx.agency 3 n | none => s).beyond.cut w.touch w.store) : Kept s (x.finish s0 s3) x w := by
  refine kept_of_gang (h := h.finished x.slices) hg ?_ (hr.trans (.finished h x.slices)) (fun a b hab => ?_) (fun p hp => ?_) ?_
  · rw [finish_gang? hq, if_pos ⟨rfl, rfl⟩, hh]
    rfl
  · rw [finish_gang? hq, if_neg fun h => hab (Prod.ext h.1 h.2)]
    exact hothers a b hab
  · rw [finish_hbmAt hq]
    exact hm p hp
  · rw [(finish_quiet x s0 s3 hq).2]
    exact hb

end

/-! ### Slices that wait or go on (R133) -/

/-- The gang whose slices of ks stand in their waits, or go on past an instruction of one word. -/
def Gang.waiting (g : Gang) (ks : List Nat) (w : Nat → Option Wait) : Gang :=
  (g.modSlices ks fun k y =>
    match w k with
    | some v => { y with wait := some v, fate := .waits }
    | none => { y with pc := y.pc + 3 }).regroup ks

theorem waitOn_eq (x : Iss) (w : Nat → Option Wait) (s : State) : x.waitOn w s = x.modGang (fun g => g.waiting x.slices w) s := rfl

theorem SameRegs.waiting {w : Writes} (g : Gang) (ks : List Nat) (ws : Nat → Option Wait) : SameRegs w g (g.waiting ks ws) :=
  (SameRegs.modSlices g ks fun k y => by split <;> rfl).trans (.regroup _ _)

section
variable {g : Gang} {ks : List Nat} {k : Nat} {w : Nat → Option Wait} (hk : k ∈ ks) (hl : k < g.slices.length)
include hk hl

theorem Gang.waiting_of_some {v : Wait} (hw : w k = some v) :
    ((g.waiting ks w).slice k).wait = some v ∧ ((g.waiting ks w).slice k).pc = (g.slice k).pc := by
  rw [Gang.waiting, Gang.regroup_wait, Gang.regroup_pc, Gang.slice_modSlices, if_pos ⟨hl, hk⟩, hw]
  exact ⟨rfl, rfl⟩

theorem Gang.waiting_pc_of_none (hw : w k = none) : ((g.waiting ks w).slice k).pc = (g.slice k).pc + 3 := by
  rw [Gang.waiting, Gang.regroup_pc, Gang.slice_modSlices, if_pos ⟨hl, hk⟩, hw]

end

/-- Slices that were put into waits stand in them; those that were not have gone on. -/
theorem waits_of_waiting {s t : State} {x : Iss} {g h : Gang} {w : Nat → Option Wait} (hg : s.gang? x.issue.team x.issue.gang = some g)
    (hh : t.gang? x.issue.team x.issue.gang = some ((h.waiting x.slices w).finished x.slices)) (hpc : ∀ k, (h.slice k).pc = (g.slice k).pc)
    (hl : ∀ k ∈ x.slices, k < h.slices.length) : Waits s t x w := by
  intro k hk
  simp only [State.slc, State.pcOf, hg, hh, Gang.finished_wait, Gang.finished_pc]
  cases hw : w k with
  | some v =>
    obtain ⟨hwait, hat⟩ := Gang.waiting_of_some hk (hl k hk) hw
    exact ⟨hwait, hat.trans (hpc k)⟩
  | none => exact (Gang.waiting_pc_of_none hk (hl k hk) hw).trans (congrArg (· + 3) (hpc k))

theorem waitOn_gang? (x : Iss) (w : Nat → Option Wait) (s : State) (a b : Nat) : (x.waitOn w s).gang? a b =
    if a = x.issue.team ∧ b = x.issue.gang then (s.gang? a b).map fun g => g.waiting x.slices w else s.gang? a b := by
  rw [waitOn_eq, Iss.modGang, gang?_modGang s _ _ a b (fun g => g.waiting x.slices w) fun _ => rfl]
  split
  · next h => rw [h.1, h.2]
  · rfl

/-- What such an end leaves of the team of the issue set, its gangs apart. -/
theorem finish_waitOn_team? {α : Type} {s0 s1 : State} {x : Iss} (w : Nat → Option Wait) (f : Team → α) (hf : ∀ u b h, f (Team.modGang u b h) = f u)
    (hq : s1.heldRecords x.ctx.agency = 0) : ((x.finish s0 (x.waitOn w s1)).team? x.issue.team).map f = (s1.team? x.issue.team).map f := by
  have hteam := team?_modTeam s1 x.issue.team x.issue.team (fun u => u.modGang x.issue.gang fun g => g.waiting x.slices w) fun _ => rfl
  rw [if_pos rfl] at hteam
  rw [finish_team? (s3 := x.waitOn w s1) hq, if_pos rfl, waitOn_eq, Iss.modGang, State.modGang, hteam]
  simp only [Option.map_map, Function.comp_def, hf]

/-- The end of a synchronisation instruction that puts its slices into waits, or lets them go on, once its effect has left the registers as they were. -/
theorem finish_waitOn {s s0 s1 : State} {x : Iss} {g h : Gang} (w : Nat → Option Wait) (hin : ∀ k ∈ x.slices, k < g.slices.length)
    (hg : s.gang? x.issue.team x.issue.gang = some g) (hh : s1.gang? x.issue.team x.issue.gang = some h)
    (hpc : ∀ k, (h.slice k).pc = (g.slice k).pc) (hlen : h.slices.length = g.slices.length) (hr : SameRegs {} g h)
    (hothers : ∀ a b, (a, b) ≠ (x.issue.team, x.issue.gang) → s1.gang? a b = s.gang? a b) (hb : s1.beyond = s.beyond)
    (hq : s.heldRecords x.ctx.agency = 0) :
    Kept s (x.finish s0 (x.waitOn w s1)) x {} ∧ Waits s (x.finish s0 (x.waitOn w s1)) x w := by
  have hbeyond : (x.waitOn w s1).beyond = s.beyond := hb
  have hq1 : (x.waitOn w s1).heldRecords x.ctx.agency = 0 :=
    (heldRecords_of_beyond (touch := false) (store := false) hbeyond _).trans hq
  have hwaiting : (x.waitOn w s1).gang? x.issue.team x.issue.gang = some (h.waiting x.slices w) := by
    rw [waitOn_gang?, if_pos ⟨rfl, rfl⟩, hh]
    rfl
  constructor
  · refine finish_kept hq1 hg hwaiting (hr.trans (.waiting h x.slices w)) (fun a b hab => ?_)
      (fun p _ => hbmAt_of_beyond (touch := false) hbeyond p) hbeyond
    rw [waitOn_gang?, if_neg fun h => hab (Prod.ext h.1 h.2)]
    exact hothers a b hab
  · refine waits_of_waiting hg ?_ hpc fun k hk => hlen ▸ hin k hk
    rw [finish_gang? hq1, if_pos ⟨rfl, rfl⟩, hwaiting]
    rfl

/-- The same, where the effect is an update of the gang that changes none of its slices. -/
theorem finish_waitOn_modGang {s s0 : State} {x : Iss} {f : Gang → Gang} (w : Nat → Option Wait) (hx : Issues s true s0 x)
    (hi : ∀ g, (f g).idx = g.idx) (hs : ∀ g, (f g).slices = g.slices) (hr : ∀ g, SameRegs {} g (f g)) :
    Kept s0 (x.finish s0 (x.waitOn w (x.modGang f (x.begun s0)))) x {} ∧ Waits s0 (x.finish s0 (x.waitOn w (x.modGang f (x.begun s0)))) x w := by
  have hmod : x.modGang f (x.begun s0) = x.modGang (fun g => f (x.ticked g)) s0 := Iss.modGang_modGang x s0 f x.ticked x.ticked_idx
  have hidx : ∀ g, (f (x.ticked g)).idx = g.idx := fun g => (hi _).trans (x.ticked_idx g)
  have hslices : ∀ g, (f (x.ticked g)).slices = g.slices := fun g => (hs _).trans (x.ticked_slices g)
  refine finish_waitOn w (fun k hk => (hx.inGang k hk).1) hx.gang (h := f (x.ticked x.gang)) (gang?_of_teams_modGang hidx hx.gang (by rw [hmod]))
    (fun k => by rw [Gang.slice, hslices, Gang.slice]) (by rw [hslices]) ((SameRegs.ticked _ x).trans (hr _)) (fun a b hab => ?_) rfl hx.quiet
  rw [hmod, Iss.modGang, gang?_modGang s0 _ _ a b _ hidx, if_neg fun h => hab (Prod.ext h.1 h.2)]

end Sys2Proof.Machine

/-! BAR, SYNCS and REGANG (R93, R123, R141, R144): an arrival at an implicit phaser, and what it means for the phase. -/
namespace Sys2Proof.Proofs.Meetings
open Sys2Proof.Machine hiding Regang
open Sys2Proof.Laws Sys2Proof.Proofs.Trits

/-! ### Phases -/

theorem passed_next (p : Int) : passed (wrap 27 (p + 1)) p = true := by
  have hsum := wrap_add_dropLow 27 (p + 1)
  have hdiff : wrap 27 (p + 1) - p = 1 + pow3 27 * -dropLow 27 (p + 1) := by linear_combination hsum
  rw [passed, hdiff, wrap_field]
  decide

theorem passed_self (p : Int) : passed p p = false := by
  rw [passed, sub_self]
  decide

/-- What a slice waits for that arrived in phase p, where the phaser then holds phase q (R123). -/
def waitIf (q p : Int) (v : Wait) : Option Wait := if passed q p then none else some v

theorem waitIf_next (p : Int) (v : Wait) : waitIf (wrap 27 (p + 1)) p v = none := by
  rw [waitIf, passed_next]
  rfl

theorem waitIf_self (p : Int) (v : Wait) : waitIf p p v = some v := by
  rw [waitIf, passed_self]
  rfl

/-- Sets without a trit -1 among the low ones. -/
theorem hasMinus_of_tritAt {n : Nat} {z : Int} (h : ∀ i < n, tritAt i z ≠ -1) : hasMinus n z = false := by
  rw [hasMinus, trits_eq_map_tritAt]
  refine List.any_eq_false.mpr fun t ht => ?_
  obtain ⟨i, hi, rfl⟩ := List.mem_map.mp ht
  simpa using h i (List.mem_range.mp hi)

/-! ### SYNCS -/

/-- The gang after slices ks have arrived at SYNCS, whose participants are parts (R123). -/
def syncArrived (parts ks : List Nat) (g : Gang) : Gang :=
  Gang.testSyncs { g with phaser := { g.phaser with set := tritSet parts, parts := parts, arrived := g.phaser.arrived ++ ks.map fun k => (g.idx, k) } }

theorem syncArrived_idx (parts ks : List Nat) (g : Gang) : (syncArrived parts ks g).idx = g.idx := by
  unfold syncArrived Gang.testSyncs
  simp only
  split <;> rfl

theorem syncArrived_slices (parts ks : List Nat) (g : Gang) : (syncArrived parts ks g).slices = g.slices := by
  unfold syncArrived Gang.testSyncs
  simp only
  split <;> rfl

theorem sameRegs_syncArrived (parts ks : List Nat) (g : Gang) : SameRegs {} g (syncArrived parts ks g) := by
  unfold syncArrived Gang.testSyncs
  simp only
  split <;> exact .of_eq rfl rfl rfl rfl rfl rfl

/-- All participants of SYNCS are there once these slices have arrived. -/
def syncsMet (g : Gang) (parts ks : List Nat) : Prop :=
  parts ≠ [] ∧ ∀ k ∈ parts, (g.idx, k) ∈ g.phaser.arrived ++ (ks.map fun k => (g.idx, k)) ∧ (g.slice k).ended = false

theorem syncArrived_phase_of_met {g : Gang} {parts ks : List Nat} (h : syncsMet g parts ks) :
    (syncArrived parts ks g).phaser.phase = wrap 27 (g.phaser.phase + 1) := by
  obtain ⟨hne, hall⟩ := h
  unfold syncArrived Gang.testSyncs
  simp only
  rw [if_pos]
  simp only [ne_eq, hne, not_false_eq_true, decide_true, Bool.true_and, List.all_eq_true, Bool.and_eq_true, Bool.not_eq_true', List.contains_iff_mem]
  exact hall

theorem syncArrived_phase_of_not_met {g : Gang} {parts ks : List Nat} (h : ¬ syncsMet g parts ks) :
    (syncArrived parts ks g).phaser.phase = g.phaser.phase := by
  unfold syncArrived Gang.testSyncs
  simp only
  rw [if_neg]
  intro hall
  simp only [ne_eq, Bool.and_eq_true, decide_eq_true_eq, List.all_eq_true, Bool.not_eq_true', List.contains_iff_mem] at hall
  exact h hall

/-- What an arrival with sets that agree with each other and the phase's meets (R123, R144). -/
theorem syncsMeets_of_agree {x : Iss} {r : SReg} (hne : x.slices ≠ [])
    (hset : ∀ k ∈ x.slices, highZero 9 (x.s k r) = true ∧ hasMinus 9 (x.s k r) = false ∧ x.gang.syncSet (x.s k r) = x.gang.syncSet (x.s x.low r) ∧
      k ∈ x.gang.syncSet (x.s x.low r))
    (hparts : x.gang.phaser.parts = [] ∨ x.gang.phaser.parts = x.gang.syncSet (x.s x.low r)) (hregangs : x.gang.regangs = [])
    (hended : ∀ k ∈ x.gang.syncSet (x.s x.low r), (x.gang.slice k).ended = false) :
    x.syncsMeets r = ⟨x.gang.syncSet (x.s x.low r), [], false, false⟩ := by
  have hbad : x.slices.filter (x.syncsInvalid r) = [] := by
    refine List.filter_eq_nil_iff.mpr fun k hk => ?_
    obtain ⟨hhigh, hminus, hsame, _⟩ := hset k hk
    have hnamed : ∀ j ∈ x.slices, j ∈ x.gang.syncSet (x.s k r) := fun j hj => by
      obtain ⟨_, _, _, hmem⟩ := hset j hj
      exact hsame ▸ hmem
    simpa [Iss.syncsInvalid, hhigh, hminus] using hnamed
  have hsets : (x.slices.map fun k => x.gang.syncSet (x.s k r)) = x.slices.map fun _ => x.gang.syncSet (x.s x.low r) :=
    List.map_congr_left fun k hk => (hset k hk).2.2.1
  have hhead : (x.slices.map fun _ => x.gang.syncSet (x.s x.low r)).headD [] = x.gang.syncSet (x.s x.low r) := by
    obtain ⟨k, ks, hks⟩ := List.exists_cons_of_ne_nil hne
    rw [hks]
    rfl
  have hfixed : (if x.gang.phaser.parts = [] then x.gang.syncSet (x.s x.low r) else x.gang.phaser.parts) = x.gang.syncSet (x.s x.low r) := by
    split
    · rfl
    · next h => exact hparts.resolve_left h
  have hnone : ((x.gang.syncSet (x.s x.low r)).any fun k => (x.gang.slice k).ended) = false :=
    List.any_eq_false.mpr fun k hk => by simp [hended k hk]
  have hall : x.slices.filter (fun k => !([] : List Nat).contains k) = x.slices := List.filter_eq_self.mpr fun _ _ => rfl
  unfold Iss.syncsMeets
  simp only [hbad, hall, hsets, hhead, hfixed, hnone, hregangs, List.isEmpty_nil, Bool.not_true, Bool.false_or, Bool.and_false]
  congr 1
  simp

/-- Where they agree, the slices arrive, and wait unless the phase has completed. -/
theorem exec_syncs {s s0 : State} {x : Iss} {r : SReg} {parts : List Nat} (hx : Issues s true s0 x) (hmeets : x.syncsMeets r = ⟨parts, [], false, false⟩) :
    exec (.syncs r) s = .next (x.finish s0 (x.waitOn
      (fun _ => waitIf (syncArrived parts x.slices (x.ticked x.gang)).phaser.phase x.gang.phaser.phase (.syncs x.gang.phaser.phase))
      (x.modGang (syncArrived parts x.slices) (x.begun s0)))) := by
  have hgang : (x.modGang (fun h => Gang.testSyncs { h with phaser := { h.phaser with
      set := tritSet parts, parts := parts, arrived := h.phaser.arrived ++ x.slices.map fun k => (h.idx, k) } }) (x.begun s0)).gang?
        x.issue.team x.issue.gang = some (syncArrived parts x.slices (x.ticked x.gang)) := by
    rw [x.begun_eq, Iss.modGang_modGang _ _ _ _ x.ticked_idx]
    exact gang?_of_teams_modGang (fun g => (syncArrived_idx _ _ _).trans (x.ticked_idx g)) hx.gang rfl
  refine syncIssue_next hx (ds := []) (by simp [Iss.clear]) (show exec (.syncs r) s = execSyncs r s from rfl) rfl ?_
  have hfaults : (x.syncsMeets r).faults x = [] := by rw [hmeets]; rfl
  dsimp only
  rw [if_neg (not_not.mpr hfaults), hmeets]
  dsimp only
  rw [hgang]
  rfl

theorem syncs : ∀ (s s0 : State) (x : Iss), Issues s true s0 x → x.slices ≠ [] → ∀ r : SReg,
    let parts := x.gang.syncSet (x.s x.low r)
    let arrived := x.gang.phaser.arrived ++ x.slices.map fun k => (x.gang.idx, k)
    (∀ k ∈ x.slices, highZero 9 (x.s k r) = true ∧ hasMinus 9 (x.s k r) = false ∧ x.gang.syncSet (x.s k r) = parts ∧ k ∈ parts) →
    (x.gang.phaser.parts = [] ∨ x.gang.phaser.parts = parts) → x.gang.regangs = [] → (∀ k ∈ parts, (x.gang.slice k).ended = false) →
    ∃ t, exec (.syncs r) s = .next t ∧ Kept s0 t x {} ∧
      ((∀ k ∈ parts, (x.gang.idx, k) ∈ arrived) → Waits s0 t x fun _ => none) ∧
      ((∃ k ∈ parts, (x.gang.idx, k) ∉ arrived) → Waits s0 t x fun _ => some (.syncs x.gang.phaser.phase)) := by
  intro s s0 x hx hne r parts arrived hset hparts hregangs hended
  have hexec := exec_syncs hx (syncsMeets_of_agree hne hset hparts hregangs hended)
  have hphaser : (x.ticked x.gang).phaser = x.gang.phaser := by unfold Iss.ticked; split <;> rfl
  have hpartsNe : parts ≠ [] := by
    obtain ⟨k, ks, hks⟩ := List.exists_cons_of_ne_nil hne
    obtain ⟨_, _, _, hmem⟩ := hset k (hks ▸ List.mem_cons_self)
    exact List.ne_nil_of_mem hmem
  have hmet : syncsMet (x.ticked x.gang) parts x.slices ↔ ∀ k ∈ parts, (x.gang.idx, k) ∈ arrived := by
    simp only [syncsMet, x.ticked_idx, x.ticked_slice, hphaser]
    exact ⟨fun h k hk => (h.2 k hk).1, fun h => ⟨hpartsNe, fun k hk => ⟨h k hk, hended k hk⟩⟩⟩
  obtain ⟨hkept, hwaits⟩ := finish_waitOn_modGang
    (fun _ => waitIf (syncArrived parts x.slices (x.ticked x.gang)).phaser.phase x.gang.phaser.phase (.syncs x.gang.phaser.phase)) hx
    (syncArrived_idx parts x.slices) (syncArrived_slices parts x.slices) (sameRegs_syncArrived parts x.slices)
  generalize x.finish s0 _ = t at hexec hkept hwaits
  refine ⟨t, hexec, hkept, fun h => ?_, fun ⟨k, hk, hout⟩ => ?_⟩
  · simpa only [syncArrived_phase_of_met (hmet.mpr h), hphaser, waitIf_next] using hwaits
  · simpa only [syncArrived_phase_of_not_met fun h => hout (hmet.mp h k hk), hphaser, waitIf_self] using hwaits

/-! ### REGANG -/

/-- The slices that a REGANG names have all arrived once these slices have (R93). -/
def regangMet (g : Gang) (ks : List Nat) (set : Int) : Prop := ∀ k ∈ g.named set, k ∈ ks ∨ ∃ a ∈ g.regangs, a.slice = k

theorem all_regangs_iff {g : Gang} {ks : List Nat} {set addr : Int} :
    ((g.named set).all fun k => (g.regangs ++ ks.map fun k => Machine.Regang.mk k set addr).any fun r => decide (r.slice = k)) = true ↔ regangMet g ks set := by
  simp only [List.all_eq_true, List.any_append, Bool.or_eq_true, List.any_eq_true, decide_eq_true_eq, List.mem_map, regangMet]
  refine forall₂_congr fun k _ => ?_
  constructor
  · rintro (h | ⟨_, ⟨j, hj, rfl⟩, rfl⟩)
    · exact .inr h
    · exact .inl hj
  · rintro (h | h)
    · exact .inr ⟨_, ⟨k, h, rfl⟩, rfl⟩
    · exact .inl h

/-- The slices of a gang whose REGANG is complete: those named are one sub-gang past it (R93). -/
theorem regang_slices_of_met {g : Gang} {ks : List Nat} {set addr : Int} (h : regangMet g ks set) :
    (g.regang ks set addr).slices =
      (g.modSlices (g.named set) fun _ y => { y with sub := (g.named set).headD 0, wait := none, fate := .waits, pc := addr + 3 }).slices := by
  unfold Gang.regang
  dsimp only
  split
  · rfl
  · next hn => exact absurd (all_regangs_iff.mpr h) hn

/-- The slices of a gang whose REGANG some are still to reach: those that have arrived wait (R93). -/
theorem regang_slices_of_not_met {g : Gang} {ks : List Nat} {set addr : Int} (h : ¬ regangMet g ks set) :
    (g.regang ks set addr).slices = (g.modSlices ks fun _ y => { y with wait := some (.regang set), fate := .waits }).slices := by
  unfold Gang.regang
  dsimp only
  split
  · next hy => exact absurd (all_regangs_iff.mp hy) h
  · rfl

theorem slice_of_slices {g h : Gang} (e : h.slices = g.slices) (k : Nat) : h.slice k = g.slice k := by rw [Gang.slice, e, Gang.slice]

theorem regang_idx (g : Gang) (ks : List Nat) (set addr : Int) : (g.regang ks set addr).idx = g.idx := by
  unfold Gang.regang
  simp only
  split <;> rfl

theorem sameRegs_regang (g : Gang) (ks : List Nat) (set addr : Int) : SameRegs {} g (g.regang ks set addr) := by
  have hget : ∀ k r, ((g.regang ks set addr).slice k).get r = (g.slice k).get r := fun k r => by
    by_cases h : regangMet g ks set
    · rw [slice_of_slices (regang_slices_of_met h), Gang.slice_modSlices]
      split <;> rfl
    · rw [slice_of_slices (regang_slices_of_not_met h), Gang.slice_modSlices]
      split <;> rfl
  refine .of_get hget ?_ ?_ ?_ ?_ ?_ <;>
  · unfold Gang.regang
    simp only
    split <;> rfl

theorem exec_regang {s s0 : State} {x : Iss} {set : Int} (hx : Issues s true s0 x) (hset : ∀ i < 9, tritAt i set ≠ -1)
    (hnamed : ∀ k ∈ x.slices, k ∈ x.gang.named set) (hclash : x.gang.regangClash set (x.pc x.low) = [])
    (hended : ∀ k ∈ x.gang.named set, (x.gang.slice k).ended = false) (hphaser : x.gang.phaser.parts = []) :
    exec (.regang set) s = .next (x.finish s0 (x.modGang (fun g => g.regang x.slices set (x.pc x.low)) (x.begun s0))) := by
  have hvalid : x.regangInvalid set = false := by
    have hall : (x.slices.any fun k => !(x.gang.named set).contains k) = false := List.any_eq_false.mpr fun k hk => by simpa using hnamed k hk
    rw [Iss.regangInvalid, hasMinus_of_tritAt hset, hall]
    rfl
  have halive : ((x.gang.named set).any fun k => (x.gang.slice k).ended) = false := List.any_eq_false.mpr fun k hk => by simp [hended k hk]
  refine (show exec (.regang set) s = execRegang set s from rfl).trans ?_
  refine issueWith_next true false false _ _ s s0 _ x hx.found rfl ?_ rfl rfl (by simp) (by simp [Iss.clear, Uses.none]) (by simp [Iss.mayName, Uses.none])
    (.inl ⟨rfl, rfl⟩) (.inl rfl) ?_
  · rw [if_neg (by simp [hvalid])]
  · dsimp only
    rw [if_neg (by simp [hphaser, hclash]), if_neg (by simp [halive])]
    rfl

theorem regang : Regang := by
  intro s s0 x set hx _ names hset hnamed hclash hended hphaser
  have hexec := exec_regang hx hset hnamed hclash hended hphaser
  have hidx : ∀ g, ((x.ticked g).regang x.slices set (x.pc x.low)).idx = g.idx := fun g => (regang_idx _ _ _ _).trans (x.ticked_idx g)
  have hnames : (x.ticked x.gang).named set = names := by rw [Gang.named, x.ticked_slices]
  have hmod : x.modGang (fun g => g.regang x.slices set (x.pc x.low)) (x.begun s0) =
      x.modGang (fun g => (x.ticked g).regang x.slices set (x.pc x.low)) s0 := Iss.modGang_modGang x s0 _ x.ticked x.ticked_idx
  have hregangs : (x.ticked x.gang).regangs = x.gang.regangs := by unfold Iss.ticked; split <;> rfl
  have hmet : regangMet (x.ticked x.gang) x.slices set ↔ ∀ k ∈ names, k ∈ x.slices ∨ ∃ a ∈ x.gang.regangs, a.slice = k := by
    rw [regangMet, hnames, hregangs]
  rw [hmod] at hexec
  have hq : (x.modGang (fun g => (x.ticked g).regang x.slices set (x.pc x.low)) s0).heldRecords x.ctx.agency = 0 := hx.quiet
  have hgang := gang?_of_teams_modGang (t := x.modGang (fun g => (x.ticked g).regang x.slices set (x.pc x.low)) s0) hidx hx.gang rfl
  have hown := finish_gang? (s0 := s0) hq x.issue.team x.issue.gang
  rw [if_pos ⟨rfl, rfl⟩, hgang, Option.map_some] at hown
  refine ⟨_, hexec, ?kept, fun h k hk => ?met, fun ⟨k, hk, hout, hnone⟩ => ?waits⟩
  case kept =>
    refine finish_kept hq hx.gang hgang ((SameRegs.ticked _ x).trans (sameRegs_regang _ _ _ _)) (fun a b hab => ?_) (fun _ _ => rfl) rfl
    rw [Iss.modGang, gang?_modGang s0 _ _ a b _ hidx, if_neg fun h => hab (Prod.ext h.1 h.2)]
  case met =>
    have hlen : k < (x.ticked x.gang).slices.length := by
      rw [x.ticked_slices]
      exact List.mem_range.mp (List.mem_filter.mp hk).1
    simp only [State.slc, State.pcOf, hown]
    rw [Gang.slice_finished]
    have hslice := slice_of_slices (regang_slices_of_met (addr := x.pc x.low) (hmet.mpr h)) k
    rw [Gang.slice_modSlices, if_pos ⟨hlen, hnames ▸ hk⟩, hnames] at hslice
    rw [hslice]
    split <;> exact ⟨rfl, rfl, rfl⟩
  case waits =>
    intro j hj
    have hslice := slice_of_slices (regang_slices_of_not_met (addr := x.pc x.low) fun h => ((hmet.mp h k hk).elim hout fun ⟨a, ha, e⟩ => hnone a ha e)) j
    rw [Gang.slice_modSlices, if_pos ⟨by rw [x.ticked_slices]; exact (hx.inGang j hj).1, hj⟩] at hslice
    simp only [State.slc, State.pcOf, hown, hx.gang, Gang.finished_wait, Gang.finished_pc, hslice, x.ticked_slice]
    exact ⟨trivial, trivial⟩

/-! ### BAR -/

/-- The participants of a team's phase once gangs that a set names arrive: those of the first arrival (R123). -/
def barParts (u : Team) (set : Int) : List Nat := if u.bar.parts = [] then u.namedLive set else u.bar.parts

/-- Those who have arrived at a team's phase once slices ks of gang b have (R123). -/
def barArrivals (u : Team) (b : Nat) (ks : List Nat) : List (Nat × Nat) := u.bar.arrived ++ ks.map fun k => (b, k)

/-- The phase of a team completes with the arrival of slices ks of gang b with a set (R123). -/
def barMet (u : Team) (b : Nat) (ks : List Nat) (set : Int) : Prop :=
  barParts u set ≠ [] ∧ allArrived u (barParts u set) (barArrivals u b ks) = true

/-- The team once slices have arrived, its phase still to be tested. -/
def barEntered (u : Team) (b : Nat) (ks : List Nat) (set : Int) : Team :=
  { u with bar := { u.bar with set := if u.bar.parts = [] then set else u.bar.set, parts := barParts u set, arrived := barArrivals u b ks } }

theorem barArrive_eq (u : Team) (b : Nat) (ks : List Nat) (set : Int) : u.barArrive b ks set = (barEntered u b ks set).testBar := by
  unfold Team.barArrive barEntered barParts
  dsimp only
  split <;> rfl

theorem testBar_of_met {u : Team} (h : u.bar.parts ≠ [] ∧ allArrived u u.bar.parts u.bar.arrived = true) :
    u.testBar = { u with bar := ⟨wrap 27 (u.bar.phase + 1), 0, [], []⟩ } := by
  obtain ⟨hne, hall⟩ := h
  unfold Team.testBar
  dsimp only
  refine if_pos ?_
  rw [Bool.and_eq_true]
  exact ⟨decide_eq_true hne, hall⟩

theorem testBar_of_not_met {u : Team} (h : ¬ (u.bar.parts ≠ [] ∧ allArrived u u.bar.parts u.bar.arrived = true)) : u.testBar = u := by
  unfold Team.testBar
  dsimp only
  refine if_neg fun hall => h ?_
  rw [Bool.and_eq_true] at hall
  exact ⟨of_decide_eq_true hall.1, hall.2⟩

theorem testBar_gangs (u : Team) : u.testBar.gangs = u.gangs := by
  unfold Team.testBar
  dsimp only
  split <;> rfl

theorem testBar_key (u : Team) : u.testBar.key = u.key := by
  unfold Team.testBar
  dsimp only
  split <;> rfl

/-- An update of a gang that changes neither its number nor its slices changes nothing that a phase asks of the team. -/
theorem live_modGang {u : Team} {b : Nat} {f : Gang → Gang} (hs : ∀ g, (f g).slices = g.slices) :
    (u.modGang b f).live = mapIf (fun g => decide (g.idx = b)) f u.live := by
  have hdead : ∀ g, (f g).dead = g.dead := fun g => by rw [Gang.dead, hs, Gang.dead]
  unfold Team.live Team.modGang mapIf
  rw [List.filter_map]
  congr 1
  refine List.filter_congr fun g _ => ?_
  simp only [Function.comp]
  split
  · rw [hdead]
  · rfl

theorem liveSlices_of_slices {g h : Gang} (e : h.slices = g.slices) : h.liveSlices = g.liveSlices := by
  rw [Gang.liveSlices, Gang.liveSlices, e]
  exact List.filter_congr fun k _ => by rw [slice_of_slices e]

theorem allArrived_modGang {u : Team} {b : Nat} {f : Gang → Gang} (hi : ∀ g, (f g).idx = g.idx) (hs : ∀ g, (f g).slices = g.slices)
    (parts : List Nat) (arrived : List (Nat × Nat)) : allArrived (u.modGang b f) parts arrived = allArrived u parts arrived := by
  unfold allArrived
  congr 1
  funext p
  rw [live_modGang hs, find?_mapIf _ _ _ _ fun g => by simp only [hi]]
  cases u.live.find? fun g => decide (g.idx = p) with
  | none => rfl
  | some g =>
    simp only [Option.map_some]
    split
    · rw [liveSlices_of_slices (hs g)]
    · rfl

theorem namedLive_modGang {u : Team} {b : Nat} {f : Gang → Gang} (hi : ∀ g, (f g).idx = g.idx) (hs : ∀ g, (f g).slices = g.slices) (set : Int) :
    (u.modGang b f).namedLive set = u.namedLive set := by
  have hif : ∀ g, (if decide (g.idx = b) then f g else g).idx = g.idx := fun g => by split <;> simp only [hi]
  unfold Team.namedLive
  rw [live_modGang hs]
  unfold mapIf
  rw [List.filter_map, List.map_map]
  simp only [Function.comp_def, hif]

theorem barParts_modGang {u : Team} {b : Nat} {f : Gang → Gang} (hi : ∀ g, (f g).idx = g.idx) (hs : ∀ g, (f g).slices = g.slices) (set : Int) :
    barParts (u.modGang b f) set = barParts u set := by
  unfold barParts
  rw [namedLive_modGang hi hs]
  rfl

theorem barMet_modGang {u : Team} {b : Nat} {f : Gang → Gang} (hi : ∀ g, (f g).idx = g.idx) (hs : ∀ g, (f g).slices = g.slices) (a : Nat)
    (ks : List Nat) (set : Int) : barMet (u.modGang b f) a ks set ↔ barMet u a ks set := by
  unfold barMet
  rw [barParts_modGang hi hs, allArrived_modGang hi hs]
  rfl

theorem barClash_eq_none {u : Team} {b : Nat} {set : Int} (h : u.bar.parts ≠ [] →
    b ∈ u.bar.parts ∧ (∀ p ∈ u.bar.parts, p < 100 ∧ tritAt p set = 1) ∧ ∀ p ∈ u.namedLive set, p ∈ u.bar.parts) : u.barClash b set = none := by
  unfold Team.barClash
  split
  · rfl
  · next hne =>
    obtain ⟨hmem, hparts, hnamed⟩ := h hne
    have hagrees : u.barAgrees b set = true := by
      unfold Team.barAgrees
      simp only [Bool.and_eq_true, List.all_eq_true, List.contains_iff_mem, decide_eq_true_eq]
      refine ⟨⟨hmem, fun p hp => ?_⟩, hnamed⟩
      obtain ⟨hlt, htrit⟩ := hparts p hp
      rw [endedMark, Nat.mod_eq_of_lt hlt]
      exact htrit
    have halive : (u.bar.parts.any fun p => decide (p ≥ endedMark)) = false :=
      List.any_eq_false.mpr fun p hp => by simpa [endedMark] using (hparts p hp).1
    rw [hagrees, halive]
    rfl

/-- The team after the arrival of BAR, whose own gang has had its windows shortened (R50, R123). -/
def barAfter (x : Iss) (m : MReg) : Team := (x.team.modGang x.issue.gang x.ticked).barArrive x.issue.gang x.slices (x.gang.mask m)

/-- The state after the arrival of BAR. -/
def barState (x : Iss) (m : MReg) (s0 : State) : State :=
  (x.begun s0).modTeam x.team.key fun u => { u with bar := x.team.bar }.barArrive x.issue.gang x.slices (x.gang.mask m)

/-- What a slice waits for after BAR. -/
def barWait (x : Iss) (m : MReg) : Option Wait := waitIf (barAfter x m).bar.phase x.team.bar.phase (.bar x.team.bar.phase)

/-- The state in which BAR ends. -/
def barEnd (x : Iss) (m : MReg) (s0 : State) : State := x.finish s0 (x.waitOn (fun _ => barWait x m) (barState x m s0))

theorem barAfter_of_met {x : Iss} {m : MReg} (h : barMet x.team x.issue.gang x.slices (x.gang.mask m)) :
    (barAfter x m).bar = ⟨wrap 27 (x.team.bar.phase + 1), 0, [], []⟩ := by
  have hmet := (barMet_modGang x.ticked_idx x.ticked_slices (b := x.issue.gang) _ _ _).mpr h
  rw [barAfter, barArrive_eq]
  exact congrArg Team.bar (testBar_of_met (u := barEntered (x.team.modGang x.issue.gang x.ticked) x.issue.gang x.slices (x.gang.mask m)) hmet)

theorem barAfter_of_not_met {x : Iss} {m : MReg} (h : ¬ barMet x.team x.issue.gang x.slices (x.gang.mask m)) :
    ((barAfter x m).bar.phase, (barAfter x m).bar.parts, (barAfter x m).bar.arrived) =
      (x.team.bar.phase, barParts x.team (x.gang.mask m), barArrivals x.team x.issue.gang x.slices) := by
  have hmet := mt (barMet_modGang x.ticked_idx x.ticked_slices (b := x.issue.gang) _ _ _).mp h
  have hparts := barParts_modGang x.ticked_idx x.ticked_slices (u := x.team) (b := x.issue.gang) (x.gang.mask m)
  rw [barAfter, barArrive_eq,
    testBar_of_not_met (u := barEntered (x.team.modGang x.issue.gang x.ticked) x.issue.gang x.slices (x.gang.mask m)) hmet, ← hparts]
  rfl

theorem team_of_issues {s s0 : State} {ends : Bool} {x : Iss} (hx : Issues s ends s0 x) :
    s0.team? x.issue.team = some x.team ∧ x.team.key = x.issue.team := by
  obtain ⟨_, _, _, hiss⟩ := issuing_eq s s0 ends x hx.found
  obtain ⟨_, hteam, _⟩ := iss?_eq s0 x hiss
  exact ⟨hteam, find?_key Team.key _ _ _ hteam⟩

theorem team?_begun {s s0 : State} {ends : Bool} {x : Iss} (hx : Issues s ends s0 x) :
    (x.begun s0).team? x.issue.team = some (x.team.modGang x.issue.gang x.ticked) := by
  obtain ⟨hteam, _⟩ := team_of_issues hx
  have hmod := team?_modTeam s0 x.issue.team x.issue.team (fun u => u.modGang x.issue.gang x.ticked) fun _ => rfl
  rwa [if_pos rfl, hteam] at hmod

theorem team?_barState {s s0 : State} {x : Iss} {m : MReg} (hx : Issues s true s0 x) :
    (barState x m s0).team? x.issue.team = some (barAfter x m) := by
  obtain ⟨_, hkey⟩ := team_of_issues hx
  rw [barState, hkey, team?_modTeam, if_pos rfl, team?_begun hx]
  · rfl
  · intro u
    rw [barArrive_eq, testBar_key]
    rfl

theorem exec_bar {s s0 : State} {x : Iss} {m : MReg} (hx : Issues s true s0 x) (hset : ∀ i < 27, tritAt i (x.gang.mask m) ≠ -1)
    (hin : tritAt x.issue.gang (x.gang.mask m) = 1) (hopen : x.team.barOpen = x.team.bar)
    (hclash : x.team.barClash x.issue.gang (x.gang.mask m) = none) :
    exec (.bar m) s = .next (barEnd x m s0) := by
  obtain ⟨_, hkey⟩ := team_of_issues hx
  have hteam := team?_barState (m := m) hx
  refine syncIssue_next hx (ds := []) (s3 := x.waitOn (fun _ => barWait x m) (barState x m s0)) (by simp [Iss.clear])
    (show exec (.bar m) s = execBar m s from rfl) ?_ ?_
  · rw [if_neg (by simp [hasMinus_of_tritAt hset, hin])]
    rfl
  · dsimp only
    rw [hopen]
    have hsame : ({ x.team with bar := x.team.bar } : Team).barClash x.issue.gang (x.gang.mask m) = none := hclash
    rw [hsame]
    dsimp only
    rw [← hkey] at hteam
    unfold barState at hteam
    rw [hteam]
    rfl

theorem barState_gang? {s s0 : State} {x : Iss} {m : MReg} (hx : Issues s true s0 x) (a b : Nat) : (barState x m s0).gang? a b =
    if a = x.issue.team ∧ b = x.issue.gang then some (x.ticked x.gang) else s0.gang? a b := by
  have hbegun := gang?_modGang s0 x.issue.team x.issue.gang a b x.ticked x.ticked_idx
  rw [hx.gang] at hbegun
  refine (gang?_modTeam_of_gangs _ _ a b _ (fun u => ?_) fun u => ?_).trans hbegun
  · rw [barArrive_eq, testBar_key]
    rfl
  · rw [barArrive_eq, testBar_gangs]
    rfl

theorem barEnd_kept_waits {s s0 : State} {x : Iss} {m : MReg} (hx : Issues s true s0 x) :
    Kept s0 (barEnd x m s0) x {} ∧ Waits s0 (barEnd x m s0) x fun _ => barWait x m :=
  finish_waitOn _ (fun k hk => (hx.inGang k hk).1) hx.gang ((barState_gang? hx _ _).trans (if_pos ⟨rfl, rfl⟩)) (fun k => by rw [x.ticked_slice])
    (by rw [x.ticked_slices]) (.ticked _ x) (fun a b hab => (barState_gang? hx a b).trans (if_neg fun h => hab (Prod.ext h.1 h.2))) rfl hx.quiet

theorem barEnd_team? {α : Type} {s s0 : State} {x : Iss} {m : MReg} (hx : Issues s true s0 x) (f : Team → α) (hf : ∀ u b h, f (Team.modGang u b h) = f u) :
    ((barEnd x m s0).team? x.issue.team).map f = some (f (barAfter x m)) := by
  have hq : (barState x m s0).heldRecords x.ctx.agency = 0 := hx.quiet
  rw [barEnd, finish_waitOn_team? _ f hf hq, team?_barState hx]
  rfl

theorem bar (s s0 : State) (x : Iss) (hx : Issues s true s0 x) (m : MReg) (hset : ∀ i < 27, tritAt i (x.gang.mask m) ≠ -1)
    (hin : tritAt x.issue.gang (x.gang.mask m) = 1) (harrivals : x.team.bar.parts = [] → x.team.arrivals = [])
    (hagree : x.team.bar.parts ≠ [] → x.issue.gang ∈ x.team.bar.parts ∧ (∀ p ∈ x.team.bar.parts, p < 100 ∧ tritAt p (x.gang.mask m) = 1) ∧
      ∀ p ∈ x.team.namedLive (x.gang.mask m), p ∈ x.team.bar.parts) :
    ∃ t, exec (.bar m) s = .next t ∧ Kept s0 t x {} ∧
      (barMet x.team x.issue.gang x.slices (x.gang.mask m) → Waits s0 t x (fun _ => none) ∧
        (t.team? x.issue.team).map Team.bar = some ⟨wrap 27 (x.team.bar.phase + 1), 0, [], []⟩) ∧
      (¬ barMet x.team x.issue.gang x.slices (x.gang.mask m) → Waits s0 t x (fun _ => some (.bar x.team.bar.phase)) ∧
        (t.team? x.issue.team).map (fun u => (u.bar.phase, u.bar.parts, u.bar.arrived)) =
          some (x.team.bar.phase, barParts x.team (x.gang.mask m), barArrivals x.team x.issue.gang x.slices)) := by
  have hopen : x.team.barOpen = x.team.bar := by
    unfold Team.barOpen
    by_cases h : x.team.bar.parts = []
    · simp [harrivals h]
    · simp [h]
  obtain ⟨hkept, hwaits⟩ := barEnd_kept_waits (m := m) hx
  refine ⟨barEnd x m s0, exec_bar hx hset hin hopen (barClash_eq_none hagree), hkept, fun h => ⟨?_, ?_⟩, fun h => ⟨?_, ?_⟩⟩
  · have hwait : barWait x m = none := by rw [barWait, barAfter_of_met h, waitIf_next]
    exact hwait ▸ hwaits
  · rw [barEnd_team? hx Team.bar fun _ _ _ => rfl, barAfter_of_met h]
  · have hphase : (barAfter x m).bar.phase = x.team.bar.phase := congrArg Prod.fst (barAfter_of_not_met h)
    have hwait : barWait x m = some (.bar x.team.bar.phase) := by rw [barWait, hphase, waitIf_self]
    exact hwait ▸ hwaits
  · rw [barEnd_team? hx (fun u => (u.bar.phase, u.bar.parts, u.bar.arrived)) fun _ _ _ => rfl, barAfter_of_not_met h]

/-- Settles O35: an arrival enters a phase and, as the last, completes it; REGANG joins the slices once all have come. -/
theorem meetings : Obligations.Meetings :=
  ⟨fun s s0 x hx hne => ⟨fun m hset hin harrivals hagree => bar s s0 x hx m hset hin harrivals fun h => by simpa [h] using hagree h, syncs s s0 x hx hne⟩, regang⟩

end Sys2Proof.Proofs.Meetings

/-! The blocks of vector registers that a gang holds: RACQ and RREL (R79, R124, R138, R140). -/
namespace Sys2Proof.Machine

/-! ### Sets of trits -/

/-- Trits that all read a, raised by c at once, are set to a + c. -/
theorem add_mul_tritSet {a c : Int} (ha : Fits 1 (a + c)) {l : List Nat} (hl : l.Nodup) {z : Int} (hz : ∀ i ∈ l, tritAt i z = a) :
    z + c * tritSet l = (l.map fun i => (i, a + c)).foldl (fun m w => setTrit w.1 w.2 m) z := by
  induction l generalizing z with
  | nil => simp [tritSet]
  | cons i l ih =>
    obtain ⟨hi, hl⟩ := List.nodup_cons.mp hl
    have hset : setTrit i (a + c) z = z + c * pow3 i := by
      rw [setTrit, hz i (by simp)]
      ring
    have hrest : ∀ j ∈ l, tritAt j (setTrit i (a + c) z) = a := fun j hj => by
      rw [Proofs.Trits.tritAt_setTrit ha, if_neg (ne_of_mem_of_not_mem hj hi)]
      exact hz j (by simp [hj])
    rw [List.map_cons, List.foldl_cons, ← ih hl hrest, hset, tritSet, tritSet, List.map_cons, List.sum_cons]
    ring

theorem tritAt_add_tritSet {l : List Nat} (hl : l.Nodup) {z : Int} (hz : ∀ i ∈ l, tritAt i z = 0) (j : Nat) :
    tritAt j (z + tritSet l) = if j ∈ l then 1 else tritAt j z := by
  have h := add_mul_tritSet (a := 0) (c := 1) (by simp [Fits, maxTrits]) hl hz
  rw [one_mul] at h
  rw [h]
  exact tritAt_foldl_setTrit (t := fun _ => 1) (fun _ => by simp [Fits, maxTrits]) l j z

theorem tritAt_sub_tritSet {l : List Nat} (hl : l.Nodup) {z : Int} (hz : ∀ i ∈ l, tritAt i z = 1) (j : Nat) :
    tritAt j (z - tritSet l) = if j ∈ l then 0 else tritAt j z := by
  have h := add_mul_tritSet (a := 1) (c := -1) (by simp [Fits, maxTrits]) hl hz
  rw [neg_one_mul, ← sub_eq_add_neg] at h
  rw [h]
  exact tritAt_foldl_setTrit (t := fun _ => 0) (fun _ => by simp [Fits, maxTrits]) l j z

theorem tritAt_tritSet {l : List Nat} (hl : l.Nodup) (j : Nat) : tritAt j (tritSet l) = if j ∈ l then 1 else 0 := by
  have hzero : ∀ i, tritAt i 0 = 0 := fun i => by simp [tritAt, sub, Proofs.Trits.dropLow_zero, Proofs.Trits.wrap_zero]
  have h := tritAt_add_tritSet hl (z := 0) (fun i _ => hzero i) j
  rwa [zero_add, hzero] at h

theorem eq_zero_of_fits_one {z : Int} (h : Fits 1 z) (hneg : z ≠ -1) (hone : z ≠ 1) : z = 0 := by
  simp only [Fits, show maxTrits 1 = 1 from rfl] at h
  omega

/-! ### Blocks that read zero -/

/-- The gang with the registers of some blocks cleared. -/
def Gang.cleared (g : Gang) (bs : List Nat) : Gang := bs.foldl Gang.clearBlock g

theorem Gang.clearBlock_eq {g : Gang} (h : g.bank = none) (b : Nat) : g.clearBlock b = { g with v := clearZ (243 * b) 243 g.v } := by
  rw [Gang.clearBlock, h]

/-- Clearing blocks of a gang outside a handler changes its vector registers alone. -/
theorem Gang.cleared_eq {g : Gang} (h : g.bank = none) (bs : List Nat) : ∃ v, g.cleared bs = { g with v := v } ∧
    ∀ (r : VReg) (i : Nat), i < 27 → getZ (vKey r.val i) v = if r.val / 9 ∈ bs then 0 else g.lane r i := by
  induction bs generalizing g with
  | nil => exact ⟨g.v, rfl, fun r i _ => by simp [Gang.lane]⟩
  | cons b bs ih =>
    obtain ⟨v, hv, hlane⟩ := ih (g := { g with v := clearZ (243 * b) 243 g.v }) h
    refine ⟨v, ?_, fun r i hi => ?_⟩
    · rw [Gang.cleared, List.foldl_cons, Gang.clearBlock_eq h]
      exact hv
    · have hblock : (243 * b ≤ vKey r.val i ∧ vKey r.val i < 243 * b + 243) ↔ r.val / 9 = b := by
        unfold vKey
        omega
      rw [hlane r i hi, Gang.lane, getZ_clearZ, if_congr hblock rfl rfl, Gang.lane]
      by_cases hb : r.val / 9 = b <;> by_cases hbs : r.val / 9 ∈ bs <;> simp [List.mem_cons, hb, hbs]

/-! ### Blocks acquired and released (R124) -/

/-- The blocks that gang g holds become those that satisfy p, and those that satisfy q read zero. -/
structure Reblocked (g h : Gang) (p q : Nat → Prop) : Prop where
  idx    : h.idx = g.idx
  slices : h.slices = g.slices
  regs   : ∀ w : Writes, (∀ r i, q (r.val / 9) → w.vec r i) → SameRegs w g h
  holds  : ∀ b < 9, (h.holds b = true ↔ p b)
  fresh  : ∀ r : VReg, q (r.val / 9) → ∀ l < 27, h.lane r l = 0

/-- A gang whose blocks are given anew and some of whose blocks are cleared. -/
theorem reblocked_of_cleared {g : Gang} (hb : g.bank = none) (z : Int) (bs : List Nat) {p q : Nat → Prop}
    (hp : ∀ b < 9, tritAt b z = 1 ↔ p b) (hq : ∀ b < 9, b ∈ bs ↔ q b) : Reblocked g (Gang.cleared { g with blocks := z } bs) p q := by
  obtain ⟨v, hv, hlane⟩ := Gang.cleared_eq (g := { g with blocks := z }) hb bs
  have hblock : ∀ r : VReg, r.val / 9 ∈ bs ↔ q (r.val / 9) := fun r => hq _ (by omega)
  rw [hv]
  refine ⟨rfl, rfl, fun w hw => ?_, fun b hlt => ?_, fun r hr l hl => ?_⟩
  · refine { SameRegs.refl w g with vec := fun r i hi hr => ?_ }
    rw [Gang.lane, hlane r i hi, if_neg fun h => hr (hw r i ((hblock r).mp h))]
    rfl
  · rw [← hp b hlt]
    exact decide_eq_true_iff
  · rw [Gang.lane, hlane r l hl, if_pos ((hblock r).mpr hr)]

theorem reblocked_acquire {g : Gang} (hb : g.bank = none) (hpos : ∀ b < 9, tritAt b g.blocks ≠ -1) {bs : List Nat} (hbs : ∀ b ∈ bs, b < 9)
    (hn : bs.Nodup) : Reblocked g (g.acquire bs) (fun b => g.holds b = true ∨ b ∈ bs) fun b => b ∈ bs ∧ g.holds b = false := by
  have hzero : ∀ b ∈ bs.filter fun b => !g.holds b, tritAt b g.blocks = 0 := fun b h => by
    obtain ⟨hmem, hfree⟩ := List.mem_filter.mp h
    have hone : tritAt b g.blocks ≠ 1 := by simpa [Gang.holds] using hfree
    exact eq_zero_of_fits_one (Proofs.Trits.tritAt_fits b g.blocks) (hpos b (hbs b hmem)) hone
  refine reblocked_of_cleared hb _ _ (fun b hlt => ?_) fun b _ => by simp [List.mem_filter]
  rw [tritAt_add_tritSet (hn.filter _) hzero]
  by_cases hmem : b ∈ bs <;> by_cases hone : tritAt b g.blocks = 1 <;> simp [List.mem_filter, hmem, hone, Gang.holds]

theorem reblocked_release {g : Gang} (hb : g.bank = none) {bs : List Nat} (hn : bs.Nodup) :
    Reblocked g (g.release bs) (fun b => g.holds b = true ∧ b ∉ bs) fun b => b ∈ bs ∧ g.holds b = true := by
  have hone : ∀ b ∈ bs.filter fun b => g.holds b, tritAt b g.blocks = 1 := fun b h => of_decide_eq_true (List.mem_filter.mp h).2
  refine reblocked_of_cleared hb _ _ (fun b hlt => ?_) fun b _ => by simp [List.mem_filter]
  rw [tritAt_sub_tritSet (hn.filter _) hone]
  by_cases hmem : b ∈ bs <;> by_cases hheld : tritAt b g.blocks = 1 <;> simp [List.mem_filter, hmem, hheld, Gang.holds]

theorem Gang.cleared_idx (g : Gang) (bs : List Nat) : (g.cleared bs).idx = g.idx := by
  induction bs generalizing g with
  | nil => rfl
  | cons b bs ih =>
    rw [Gang.cleared, List.foldl_cons]
    refine (ih _).trans ?_
    unfold Gang.clearBlock
    split
    · split <;> rfl
    · rfl

theorem Gang.acquire_idx (g : Gang) (bs : List Nat) : (g.acquire bs).idx = g.idx := Gang.cleared_idx _ _

theorem Gang.release_idx (g : Gang) (bs : List Nat) : (g.release bs).idx = g.idx := Gang.cleared_idx _ _

/-! ### Registers after a write of a mask, and past an instruction -/

theorem SameRegs.setMask {w : Writes} {g h : Gang} (hr : SameRegs w g h) {m : MReg} (hm : m ≠ 0 → w.msk m) (ws : List (Nat × Int)) :
    SameRegs w g (h.setMask m ws) := by
  unfold Gang.setMask
  split
  · exact hr
  · next h0 =>
    refine { hr with msk := fun r hwr => (?_ : _ = h.mask r).trans (hr.msk r hwr) }
    have hne : r.val ≠ m.val := fun heq => hwr (Fin.ext heq ▸ hm fun h => h0 (congrArg Fin.val h))
    simp only [Gang.mask, getZ_setZ, if_neg hne]

theorem SameRegs.passed {w : Writes} (x : Iss) (g : Gang) : SameRegs w g (x.passed g) :=
  (SameRegs.modSlices g x.slices (f := fun _ y => { y with pc := y.pc + 3 * (x.issue.words.length : Int) }) fun _ _ => rfl).trans (.finished _ _)

/-- A synchronisation instruction that goes on, whose effect is an update of its gang. -/
theorem syncRuns {s s0 : State} {x : Iss} {w : Writes} {f : Gang → Gang} (hx : Issues s true s0 x) (hc : w.counted = none)
    (hi : ∀ g, (f g).idx = g.idx) (hs : (f (x.ticked x.gang)).slices = x.gang.slices) (hr : SameRegs w (x.ticked x.gang) (f (x.ticked x.gang))) :
    let t := x.finish s0 (x.advance (x.modGang f (x.begun s0)))
    GoesOn s0 t x ∧ Kept s0 t x w ∧ t.gang? x.issue.team x.issue.gang = some (x.passed (f (x.ticked x.gang))) := by
  obtain ⟨hteams, hbeyond⟩ := finish_advance_modGang x s0 hi hx.quiet
  have hown := gang?_of_teams_modGang (x.ran_idx hi) hx.gang hteams
  have hbeyond' : (x.finish s0 (x.advance (x.modGang f (x.begun s0)))).beyond.cut w.touch w.store = s0.beyond.cut w.touch w.store := by rw [hbeyond]
  refine ⟨fun k hk => ?_, kept_of_gang hx.gang hown (((SameRegs.ticked _ x).trans hr).trans (.passed x _)) (fun a b hab => ?_) (fun p _ => ?_) ?_, hown⟩
  · simp only [State.pcOf, hown, hx.gang, Iss.ran]
    rw [x.passed_pc hk (by rw [hs]; exact (hx.inGang k hk).1), Gang.slice, hs, Gang.slice]
  · rw [State.gang?, State.team?, hteams, ← State.team?, ← State.gang?, Iss.modGang, gang?_modGang s0 _ _ a b (x.ran f) (x.ran_idx hi),
      if_neg fun h => hab (Prod.ext h.1 h.2)]
  · exact hbmAt_of_beyond (touch := false) (congrArg (State.cut false false) hbeyond) p
  · rw [hc]
    exact hbeyond'

theorem Iss.ticked_blocks (x : Iss) (g : Gang) : (x.ticked g).blocks = g.blocks := by unfold Iss.ticked; split <;> rfl
theorem Iss.ticked_bank (x : Iss) (g : Gang) : (x.ticked g).bank = g.bank := by unfold Iss.ticked; split <;> rfl

theorem Iss.ticked_holds (x : Iss) (g : Gang) (b : Nat) : (x.ticked g).holds b = g.holds b := by
  rw [Gang.holds, Iss.ticked_blocks, Gang.holds]

end Sys2Proof.Machine

namespace Sys2Proof.Proofs.RegisterBlocks
open Sys2Proof.Machine

/-! ### The pool of a core (R138, R140) -/

/-- A team of a place at the core has the number a. -/
def teamAt (s : State) (core a : Nat) : Bool := match s.team? a with | some t => decide (t.core = core) && t.onCore | none => false

theorem racqWaits_eq (s : State) (core : Nat) : s.racqWaits core = s.eng.racq.any fun r => teamAt s core r.1 := rfl

theorem teamAt_modGang (x : Iss) (f : Gang → Gang) (s : State) (core a : Nat) : teamAt (x.modGang f s) core a = teamAt s core a := by
  have h := team?_modTeam s x.issue.team a (fun u => u.modGang x.issue.gang f) fun _ => rfl
  rw [teamAt, Iss.modGang, State.modGang, h, teamAt]
  by_cases ha : a = x.issue.team
  · subst ha
    rw [if_pos rfl]
    cases s.team? x.issue.team <;> rfl
  · rw [if_neg ha]

theorem racqWaits_modGang (x : Iss) (f : Gang → Gang) (s : State) (core : Nat) : (x.modGang f s).racqWaits core = s.racqWaits core := by
  simp only [racqWaits_eq, teamAt_modGang]
  rfl

/-- No request waits, so none is granted when blocks return. -/
theorem blocksReturned_of_not_waits {s : State} {core : Nat} (h : s.racqWaits core = false) : s.blocksReturned core = s := by
  have hnone : (s.eng.racq.find? fun r => teamAt s core r.1) = none :=
    List.find?_eq_none.mpr fun r hr => by
      rw [racqWaits_eq, List.any_eq_false] at h
      exact h r hr
  rw [State.blocksReturned, State.grantRacq]
  dsimp only
  split
  · rfl
  · next r hr => cases hnone.symm.trans hr

/-- The pool counts the blocks of the gangs alone. -/
theorem freeBlocks_modGang (x : Iss) {f : Gang → Gang} (hf : ∀ g, (f g).blocks = g.blocks) (s : State) (core : Nat) :
    (x.modGang f s).freeBlocks core = s.freeBlocks core := by
  have hgangs : ∀ u : Team, (u.modGang x.issue.gang f).gangs.map (fun g => g.blockList.length) = u.gangs.map fun g => g.blockList.length := fun u => by
    simp only [Team.modGang, mapIf, List.map_map]
    refine List.map_congr_left fun g _ => ?_
    simp only [Function.comp_apply]
    split
    · rw [Gang.blockList, hf, Gang.blockList]
    · rfl
  have hteams : (x.modGang f s).teams = s.teams.map fun u => if decide (u.key = x.issue.team) then u.modGang x.issue.gang f else u := rfl
  have hplace : ∀ u : Team, (if decide (u.key = x.issue.team) then u.modGang x.issue.gang f else u).core = u.core ∧
      (if decide (u.key = x.issue.team) then u.modGang x.issue.gang f else u).onCore = u.onCore ∧
      (if decide (u.key = x.issue.team) then u.modGang x.issue.gang f else u).gangs.map (fun g => g.blockList.length) =
        u.gangs.map fun g => g.blockList.length := fun u => by
    split
    · exact ⟨rfl, rfl, hgangs u⟩
    · exact ⟨rfl, rfl, rfl⟩
  simp only [State.freeBlocks, hteams, List.filter_map, List.flatMap_map, Function.comp_def, fun u => (hplace u).1, fun u => (hplace u).2.1,
    fun u => (hplace u).2.2]

/-! ### The blocks that an issue set names -/

/-- A slice of the issue set names block b. -/
def Named (x : Iss) (r : SReg) (b : Nat) : Prop := ∃ k ∈ x.slices, tritAt b (x.s k r) = 1

section
variable {x : Iss} {r : SReg}

theorem mem_blockSet {b : Nat} (hb : b < 9) : b ∈ x.blockSet r ↔ Named x r b := by
  simp [Named, Iss.blockSet, List.mem_filter, hb]

theorem lt_of_mem_blockSet {b : Nat} (hb : b ∈ x.blockSet r) : b < 9 := by
  simpa using (List.mem_filter.mp hb).1

theorem nodup_blockSet : (x.blockSet r).Nodup := List.nodup_range.filter _

theorem blockFaults_eq_nil (h : ∀ k ∈ x.slices, highZero 9 (x.s k r) = true ∧ hasMinus 9 (x.s k r) = false) : x.blockFaults r = [] := by
  have hnone : (x.slices.filter fun k => !highZero 9 (x.s k r) || hasMinus 9 (x.s k r)) = [] :=
    List.filter_eq_nil_iff.mpr fun k hk => by simp [h k hk]
  rw [Iss.blockFaults, Iss.sliceFaults, hnone]
  rfl

end

/-- The pool covers what the slices name, and no request waits before theirs. -/
def Free (s0 : State) (x : Iss) (r : SReg) : Prop :=
  s0.racqWaits x.team.core = false ∧ x.lacks (x.blockSet r) ≤ s0.freeBlocks x.team.core

theorem grantsNow_begun (s0 : State) (x : Iss) (r : SReg) : (x.begun s0).grantsNow x (x.blockSet r) = true ↔ Free s0 x r := by
  rw [State.grantsNow, show x.begun s0 = x.modGang x.ticked s0 from rfl, racqWaits_modGang, freeBlocks_modGang x (Iss.ticked_blocks x)]
  simp [Free]

theorem free_iff (s0 : State) (x : Iss) (r : SReg) : Free s0 x r ↔ s0.racqWaits x.team.core = false ∧
    ((List.range 9).filter fun b => (x.slices.any fun k => decide (tritAt b (x.s k r) = 1)) && !x.gang.holds b).length ≤ s0.freeBlocks x.team.core := by
  rw [Free, Iss.lacks, Iss.blockSet, List.filter_filter]
  simp only [Bool.and_comm]

/-! ### RACQ, RACQ.w and RREL -/

/-- The blocks of the gang in state t are those that satisfy p. -/
def Blocks (t : State) (x : Iss) (p : Nat → Prop) : Prop := ∃ g, t.gang? x.issue.team x.issue.gang = some g ∧ ∀ b < 9, (g.holds b = true ↔ p b)

/-- The registers of the blocks that satisfy p read zero in t. -/
def Fresh (t : State) (x : Iss) (p : Nat → Prop) : Prop := ∀ v : VReg, p (v.val / 9) → ∀ l < 27, t.vlane x.issue.team x.issue.gang v l = 0

section
variable {s s0 t : State} {x : Iss} {r : SReg}

/-- The gang of an issue set acquires the blocks that its slices name. -/
theorem reblocked_racq (hbank : x.gang.bank = none) (hpos : ∀ b < 9, tritAt b x.gang.blocks ≠ -1) :
    Reblocked (x.ticked x.gang) ((x.ticked x.gang).acquire (x.blockSet r)) (fun b => x.gang.holds b = true ∨ b ∈ x.blockSet r)
      fun b => b ∈ x.blockSet r ∧ x.gang.holds b = false := by
  have h := reblocked_acquire (g := x.ticked x.gang) (by rw [Iss.ticked_bank, hbank]) (by rwa [Iss.ticked_blocks])
    (fun _ => lt_of_mem_blockSet (x := x) (r := r)) nodup_blockSet
  simpa only [Iss.ticked_holds] using h

/-- The gang of an issue set releases those of the blocks that its slices name which it holds. -/
theorem reblocked_rrel (hbank : x.gang.bank = none) :
    Reblocked (x.ticked x.gang) ((x.ticked x.gang).release (x.blockSet r)) (fun b => x.gang.holds b = true ∧ b ∉ x.blockSet r)
      fun b => b ∈ x.blockSet r ∧ x.gang.holds b = true := by
  have h := reblocked_release (g := x.ticked x.gang) (by rw [Iss.ticked_bank, hbank]) (nodup_blockSet (x := x) (r := r))
  simpa only [Iss.ticked_holds] using h

/-- What a gang's blocks are, once its instruction has ended. -/
theorem blocks_of_reblocked {g h h' : Gang} {p p' q q' : Nat → Prop} (hr : Reblocked g h p q) (hb : h'.blocks = h.blocks) (hv : h'.v = h.v)
    (hp : ∀ b < 9, p b ↔ p' b) (hq : ∀ b < 9, q b ↔ q' b) (ht : t.gang? x.issue.team x.issue.gang = some (x.passed h')) :
    Blocks t x p' ∧ Fresh t x q' := by
  refine ⟨⟨_, ht, fun b hlt => ?_⟩, fun v hqv l hl => ?_⟩
  · rw [← hp b hlt, ← hr.holds b hlt, Gang.holds, Gang.holds, ← hb]
    rfl
  · have hlane : (x.passed h').lane v l = h.lane v l := by
      rw [Gang.lane, Gang.lane, ← hv]
      rfl
    rw [State.vlane, ht]
    exact hlane.trans (hr.fresh v ((hq _ (by omega)).mpr hqv) l hl)

theorem landsInto_of_subset {g : Gang} {bs cs : List Nat} (hsub : ∀ b ∈ bs, b ∈ cs) (h : g.landsInto cs = false) : g.landsInto bs = false := by
  rw [Gang.landsInto, List.any_eq_false] at h ⊢
  intro o ho
  have hnot := h o ho
  cases o with
  | mx _ => simp
  | move m =>
    simp only [Bool.and_eq_true, List.any_eq_true, not_and, not_exists] at hnot ⊢
    exact fun hload b hb => hnot hload b (hsub b hb)

/-- The gang whose slices wait for blocks. -/
def queuing (x : Iss) (r : SReg) (g : Gang) : Gang :=
  (x.ticked g).modSlices x.slices fun _ y => { y with wait := some (.racq (tritSet (x.blockSet r))), fate := .waits }

/-- The state in which RACQ.w has put its request behind the others. -/
def queued (x : Iss) (r : SReg) (s0 : State) : State :=
  x.modSlices (fun _ y => { y with wait := some (.racq (tritSet (x.blockSet r))), fate := .waits })
    { x.begun s0 with eng := { s0.eng with racq := s0.eng.racq ++ [(x.issue.team, x.issue.gang, x.low, tritSet (x.blockSet r))] } }

theorem gang?_queued (hx : Issues s true s0 x) (a b : Nat) : (queued x r s0).gang? a b =
    if a = x.issue.team ∧ b = x.issue.gang then some (queuing x r x.gang) else s0.gang? a b := by
  have hboth := congrArg State.teams (Iss.modGang_modGang x s0 (fun g => g.modSlices x.slices fun _ y =>
    { y with wait := some (.racq (tritSet (x.blockSet r))), fate := .waits }) x.ticked x.ticked_idx)
  have hteams : (queued x r s0).teams = (x.modGang (queuing x r) s0).teams := hboth
  have hmod := gang?_modGang s0 x.issue.team x.issue.gang a b (queuing x r) x.ticked_idx
  rw [hx.gang] at hmod
  rw [State.gang?, State.team?, hteams]
  exact hmod

/-- The effect of RACQ on its gang, whose request is granted or not. -/
def racqEffect (x : Iss) (r : SReg) (m : MReg) (ok : Bool) (g : Gang) : Gang :=
  (if ok then g.acquire (x.blockSet r) else g).setMask m (x.lanes.map fun i => (i, if ok then 1 else 0))

variable (hx : Issues s true s0 x) (hnamed : ∀ k ∈ x.slices, highZero 9 (x.s k r) = true ∧ hasMinus 9 (x.s k r) = false)
include hx hnamed

theorem exec_racqW {s3 : State} (hb : (if (x.begun s0).grantsNow x (x.blockSet r) then
        (.ok (x.advance (x.modGang (fun g => g.acquire (x.blockSet r)) (x.begun s0))) : Except Stop State)
      else .ok (x.modSlices (fun _ y => { y with wait := some (.racq (tritSet (x.blockSet r))), fate := .waits })
        { x.begun s0 with eng := { s0.eng with racq := s0.eng.racq ++ [(x.issue.team, x.issue.gang, x.low, tritSet (x.blockSet r))] } })) = .ok s3) :
    exec (.racqW r) s = .next (x.finish s0 s3) :=
  syncIssue_next (ds := []) hx (by simp [Iss.clear]) (show exec (.racqW r) s = execRacqW r s from rfl)
    (by rw [blockFaults_eq_nil hnamed]; rfl) hb

theorem racqW_free (hbank : x.gang.bank = none) (hpos : ∀ b < 9, tritAt b x.gang.blocks ≠ -1) (hfree : Free s0 x r) :
    ∃ t, exec (.racqW r) s = .next t ∧ GoesOn s0 t x ∧ Kept s0 t x { vec := fun v _ => Named x r (v.val / 9) ∧ x.gang.holds (v.val / 9) = false } ∧
      Blocks t x (fun b => x.gang.holds b = true ∨ Named x r b) ∧ Fresh t x fun b => Named x r b ∧ x.gang.holds b = false := by
  have hr := reblocked_racq (r := r) hbank hpos
  obtain ⟨hon, hkept, hown⟩ := syncRuns (f := fun g => g.acquire (x.blockSet r)) hx rfl
    (w := { vec := fun v _ => Named x r (v.val / 9) ∧ x.gang.holds (v.val / 9) = false }) (fun g => g.acquire_idx _)
    (hr.slices.trans (x.ticked_slices _)) (hr.regs _ fun v _ hv => ⟨(mem_blockSet (by omega)).mp hv.1, hv.2⟩)
  refine ⟨_, exec_racqW hx hnamed (if_pos ((grantsNow_begun s0 x r).mpr hfree)), hon, hkept, ?_⟩
  exact blocks_of_reblocked hr rfl rfl (fun b hb => by rw [mem_blockSet hb]) (fun b hb => by rw [mem_blockSet hb]) hown

theorem racqW_waits (hfree : ¬ Free s0 x r) :
    ∃ t v, exec (.racqW r) s = .next t ∧ Kept { s0 with eng := t.eng } t x {} ∧ Waits s0 t x (fun _ => some (.racq v)) ∧
      t.eng = { s0.eng with racq := s0.eng.racq ++ [(x.issue.team, x.issue.gang, x.low, v)] } ∧ ∀ b < 9, (tritAt b v = 1 ↔ Named x r b) := by
  have hexec := exec_racqW hx hnamed (if_neg fun h => hfree ((grantsNow_begun s0 x r).mp h))
  have hquiet : (queued x r s0).heldRecords x.ctx.agency = 0 := hx.quiet
  have hown := gang?_queued (r := r) hx
  have hend : (x.finish s0 (queued x r s0)).gang? x.issue.team x.issue.gang = some ((queuing x r x.gang).finished x.slices) := by
    rw [finish_gang? hquiet, if_pos ⟨rfl, rfl⟩, hown _ _, if_pos ⟨rfl, rfl⟩]
    rfl
  have heng : (x.finish s0 (queued x r s0)).eng =
      { s0.eng with racq := s0.eng.racq ++ [(x.issue.team, x.issue.gang, x.low, tritSet (x.blockSet r))] } := by
    have h := congrArg State.eng (finish_quiet x s0 (queued x r s0) hquiet).2
    exact h
  refine ⟨x.finish s0 (queued x r s0), tritSet (x.blockSet r), hexec, ?_, fun k hk => ?_, heng, fun b hb => ?_⟩
  · refine finish_kept (s3 := queued x r s0) hquiet hx.gang ((hown _ _).trans (if_pos ⟨rfl, rfl⟩))
      ((SameRegs.ticked _ x).trans (.modSlices _ _ fun _ _ => rfl)) (fun a b hab => (hown a b).trans (if_neg fun h => hab (Prod.ext h.1 h.2)))
      (fun _ _ => rfl) ?_
    show _ = ({ s0 with eng := (x.finish s0 (queued x r s0)).eng } : State).beyond
    rw [heng]
    rfl
  · have hl : k < (x.ticked x.gang).slices.length := by rw [x.ticked_slices]; exact (hx.inGang k hk).1
    simp only [State.slc, State.pcOf, hend, hx.gang, Gang.finished_wait, Gang.finished_pc, queuing, Gang.slice_modSlices, if_pos (And.intro hl hk),
      x.ticked_slice, and_self]
  · rw [tritAt_tritSet nodup_blockSet, ← mem_blockSet hb]
    by_cases h : b ∈ x.blockSet r <;> simp [h]

theorem rrel (hbank : x.gang.bank = none) (hquiet : s0.racqWaits x.team.core = false) (hland : x.gang.landsInto (List.range 9) = false) :
    ∃ t, exec (.rrel r) s = .next t ∧ GoesOn s0 t x ∧ Kept s0 t x { vec := fun v _ => Named x r (v.val / 9) ∧ x.gang.holds (v.val / 9) = true } ∧
      Blocks t x (fun b => x.gang.holds b = true ∧ ¬ Named x r b) ∧ Fresh t x fun b => Named x r b ∧ x.gang.holds b = true := by
  have hr := reblocked_rrel (r := r) hbank
  obtain ⟨hon, hkept, hown⟩ := syncRuns (f := fun g => g.release (x.blockSet r)) hx rfl
    (w := { vec := fun v _ => Named x r (v.val / 9) ∧ x.gang.holds (v.val / 9) = true }) (fun g => g.release_idx _)
    (hr.slices.trans (x.ticked_slices _)) (hr.regs _ fun v _ hv => ⟨(mem_blockSet (by omega)).mp hv.1, hv.2⟩)
  have hclear : x.gang.landsInto ((x.blockSet r).filter fun b => x.gang.holds b) = false :=
    landsInto_of_subset (fun b hb => List.mem_range.mpr (lt_of_mem_blockSet (List.mem_filter.mp hb).1)) hland
  have hwaits : (x.advance (x.modGang (fun g => g.release (x.blockSet r)) (x.begun s0))).racqWaits x.team.core = false := by
    rw [Iss.advance, Iss.modSlices, racqWaits_modGang, racqWaits_modGang, Iss.begun, racqWaits_modGang, hquiet]
  refine ⟨_, syncIssue_next (ds := []) hx (by simp [Iss.clear]) (show exec (.rrel r) s = execRrel r s from rfl)
    (by rw [blockFaults_eq_nil hnamed]; rfl) ?_, hon, hkept, ?_⟩
  · dsimp only
    rw [if_neg (by simp [hclear]), blocksReturned_of_not_waits hwaits]
  · exact blocks_of_reblocked hr rfl rfl (fun b hb => by rw [mem_blockSet hb]) (fun b hb => by rw [mem_blockSet hb]) hown

variable (hcfg : s0.cfg? x.ctx.agency = none) (m : MReg) (hclear : x.clear (if m.val = 0 then [] else [.msk m]))
include hcfg hclear

theorem exec_racq : exec (.racq r m) s =
    .next (x.finish s0 (x.advance (x.modGang (racqEffect x r m ((x.begun s0).grantsNow x (x.blockSet r))) (x.begun s0)))) := by
  refine syncIssue_next hx hclear (show exec (.racq r m) s = execRacq r m s from rfl) (by rw [blockFaults_eq_nil hnamed]; rfl) ?_
  cases (x.begun s0).grantsNow x (x.blockSet r) with
  | false => exact congrArg (fun u => Except.ok (x.advance u)) (putMask_eq x m _ hcfg)
  | true =>
    refine congrArg (fun u => Except.ok (x.advance u)) ((putMask_eq x m _ (s := x.modGang (fun g => g.acquire (x.blockSet r)) (x.begun s0)) hcfg).trans ?_)
    exact Iss.modGang_modGang x _ _ _ fun g => g.acquire_idx _

end

theorem setMask_slices (g : Gang) (m : MReg) (ws : List (Nat × Int)) : (g.setMask m ws).slices = g.slices := by unfold Gang.setMask; split <;> rfl
theorem setMask_blocks (g : Gang) (m : MReg) (ws : List (Nat × Int)) : (g.setMask m ws).blocks = g.blocks := by unfold Gang.setMask; split <;> rfl
theorem setMask_v (g : Gang) (m : MReg) (ws : List (Nat × Int)) : (g.setMask m ws).v = g.v := by unfold Gang.setMask; split <;> rfl
theorem setMask_idx (g : Gang) (m : MReg) (ws : List (Nat × Int)) : (g.setMask m ws).idx = g.idx := by unfold Gang.setMask; split <;> rfl

theorem racqEffect_idx (x : Iss) (r : SReg) (m : MReg) (ok : Bool) (g : Gang) : (racqEffect x r m ok g).idx = g.idx := by
  rw [racqEffect, setMask_idx]
  split
  · exact g.acquire_idx _
  · rfl

/-- What RACQ writes. -/
def racqWrites (s0 : State) (x : Iss) (r : SReg) (m : MReg) : Writes :=
  { msk := fun q => q = m ∧ m ≠ 0, vec := fun v _ => Free s0 x r ∧ Named x r (v.val / 9) ∧ x.gang.holds (v.val / 9) = false }

theorem tritAt_racqEffect {x : Iss} {r : SReg} {m : MReg} (hm : m ≠ 0) (ok : Bool) {l : Nat} (hl : l ∈ x.lanes) (g : Gang) :
    tritAt l ((racqEffect x r m ok g).mask m) = if ok then 1 else 0 := by
  rw [racqEffect, Gang.tritAt_mask_setMask _ hm (t := fun _ => if ok then 1 else 0) (fun _ => by cases ok <;> simp [Fits, maxTrits]), if_pos hl]

section
variable {s s0 : State} {x : Iss} {r : SReg} (hx : Issues s true s0 x) (hbank : x.gang.bank = none) (hpos : ∀ b < 9, tritAt b x.gang.blocks ≠ -1)
include hx

/-- How RACQ ends, granted or not: it goes on, and its mask says which. -/
theorem racq_ends (m : MReg) (ok : Bool) (hok : ok = true ↔ Free s0 x r)
    (hs : (racqEffect x r m ok (x.ticked x.gang)).slices = x.gang.slices)
    (hr : SameRegs (racqWrites s0 x r m) (x.ticked x.gang) (racqEffect x r m ok (x.ticked x.gang))) :
    let t := x.finish s0 (x.advance (x.modGang (racqEffect x r m ok) (x.begun s0)))
    GoesOn s0 t x ∧ Kept s0 t x (racqWrites s0 x r m) ∧
      t.gang? x.issue.team x.issue.gang = some (x.passed (racqEffect x r m ok (x.ticked x.gang))) ∧
      (m ≠ 0 → ∀ l ∈ x.lanes, l < 27 → (tritAt l (t.mreg x.issue.team x.issue.gang m) = 1 ↔ Free s0 x r) ∧
        (tritAt l (t.mreg x.issue.team x.issue.gang m) = 0 ↔ ¬ Free s0 x r)) := by
  obtain ⟨hon, hkept, hown⟩ := syncRuns (f := racqEffect x r m ok) hx rfl (racqEffect_idx x r m ok) hs hr
  refine ⟨hon, hkept, hown, fun hm l hl _ => ?_⟩
  rw [State.mreg, hown]
  simp only [x.passed_mask, tritAt_racqEffect hm ok hl]
  rw [← hok]
  cases ok <;> simp

theorem racq_free (hbank : x.gang.bank = none) (hpos : ∀ b < 9, tritAt b x.gang.blocks ≠ -1) (hfree : Free s0 x r) (m : MReg) :
    let t := x.finish s0 (x.advance (x.modGang (racqEffect x r m true) (x.begun s0)))
    GoesOn s0 t x ∧ Kept s0 t x (racqWrites s0 x r m) ∧ (Blocks t x (fun b => x.gang.holds b = true ∨ Named x r b) ∧
        Fresh t x fun b => Named x r b ∧ x.gang.holds b = false) ∧
      (m ≠ 0 → ∀ l ∈ x.lanes, l < 27 → (tritAt l (t.mreg x.issue.team x.issue.gang m) = 1 ↔ Free s0 x r) ∧
        (tritAt l (t.mreg x.issue.team x.issue.gang m) = 0 ↔ ¬ Free s0 x r)) := by
  have hr := reblocked_racq (r := r) hbank hpos
  obtain ⟨hon, hkept, hown, hmask⟩ := racq_ends (r := r) hx m true (by simp [hfree])
    ((setMask_slices _ _ _).trans (hr.slices.trans (x.ticked_slices _)))
    ((hr.regs (racqWrites s0 x r m) fun v _ hv => ⟨hfree, (mem_blockSet (by omega)).mp hv.1, hv.2⟩).setMask (fun h => ⟨rfl, h⟩) _)
  exact ⟨hon, hkept, blocks_of_reblocked hr (setMask_blocks _ _ _) (setMask_v _ _ _) (fun b hb => by rw [mem_blockSet hb])
    (fun b hb => by rw [mem_blockSet hb]) hown, hmask⟩

theorem racq_refused (hfree : ¬ Free s0 x r) (m : MReg) :
    let t := x.finish s0 (x.advance (x.modGang (racqEffect x r m false) (x.begun s0)))
    GoesOn s0 t x ∧ Kept s0 t x (racqWrites s0 x r m) ∧ Blocks t x (fun b => x.gang.holds b = true) ∧
      (m ≠ 0 → ∀ l ∈ x.lanes, l < 27 → (tritAt l (t.mreg x.issue.team x.issue.gang m) = 1 ↔ Free s0 x r) ∧
        (tritAt l (t.mreg x.issue.team x.issue.gang m) = 0 ↔ ¬ Free s0 x r)) := by
  obtain ⟨hon, hkept, hown, hmask⟩ := racq_ends (r := r) hx m false (by simp [hfree]) ((setMask_slices _ _ _).trans (x.ticked_slices _))
    ((SameRegs.refl (racqWrites s0 x r m) _).setMask (fun h => ⟨rfl, h⟩) _)
  refine ⟨hon, hkept, ⟨_, hown, fun b _ => ?_⟩, hmask⟩
  have hblocks : (x.passed (racqEffect x r m false (x.ticked x.gang))).blocks = x.gang.blocks :=
    (setMask_blocks _ _ _).trans (x.ticked_blocks x.gang)
  simp only [Gang.holds, hblocks]

end

/-- RACQ: it ends at once, granted just when a request would be. -/
theorem racq {s s0 : State} {x : Iss} {r : SReg} (hx : Issues s true s0 x) (hcfg : s0.cfg? x.ctx.agency = none) (hbank : x.gang.bank = none)
    (hnamed : ∀ k ∈ x.slices, highZero 9 (x.s k r) = true ∧ hasMinus 9 (x.s k r) = false) (hpos : ∀ b < 9, tritAt b x.gang.blocks ≠ -1)
    (m : MReg) (hclear : x.clear (if m.val = 0 then [] else [.msk m])) :
    ∃ t, exec (.racq r m) s = .next t ∧ GoesOn s0 t x ∧ Kept s0 t x (racqWrites s0 x r m) ∧
      (Free s0 x r → Blocks t x (fun b => x.gang.holds b = true ∨ Named x r b) ∧ Fresh t x fun b => Named x r b ∧ x.gang.holds b = false) ∧
      (¬ Free s0 x r → Blocks t x fun b => x.gang.holds b = true) ∧
      (m ≠ 0 → ∀ l ∈ x.lanes, l < 27 → (tritAt l (t.mreg x.issue.team x.issue.gang m) = 1 ↔ Free s0 x r) ∧
        (tritAt l (t.mreg x.issue.team x.issue.gang m) = 0 ↔ ¬ Free s0 x r)) := by
  have hexec := exec_racq hx hnamed hcfg m hclear
  by_cases hfree : Free s0 x r
  · rw [(grantsNow_begun s0 x r).mpr hfree] at hexec
    obtain ⟨hon, hkept, hblocks, hmask⟩ := racq_free hx hbank hpos hfree m
    exact ⟨_, hexec, hon, hkept, fun _ => hblocks, fun h => absurd hfree h, hmask⟩
  · rw [Bool.eq_false_iff.mpr (mt (grantsNow_begun s0 x r).mp hfree)] at hexec
    obtain ⟨hon, hkept, hblocks, hmask⟩ := racq_refused hx hfree m
    exact ⟨_, hexec, hon, hkept, fun h => absurd h hfree, fun _ => hblocks, hmask⟩

/-- Settles O37: a request is granted just when no other waits and the pool covers it, and else stands behind the others. -/
theorem registerBlocks : Obligations.RegisterBlocks := by
  intro s s0 x r hx hcfg hbank hnamed hpos named free blocks fresh
  have hfree : free = Free s0 x r := (propext (free_iff s0 x r)).symm
  clear_value free
  subst hfree
  exact ⟨fun m hclear => racq hx hcfg hbank hnamed hpos m hclear, racqW_free hx hnamed hbank hpos, racqW_waits hx hnamed,
    rrel hx hnamed hbank⟩

end Sys2Proof.Proofs.RegisterBlocks

/-! TRAP and BRK: instructions that raise a trap, and what entering the handler leaves in the registers (R89, R258, R259). -/
namespace Sys2Proof.Machine

/-- ISSUING, when only a trap that the instruction itself raises stops it. -/
theorem issueWith_trap {ends adv : Bool} {uses : Iss → Uses} {body : Iss → Got → State → Except Stop State} {s s0 : State} {x : Iss} {t : Trap}
    (hi : s.issuing ends = some (s0, x)) (hu : uses x = Uses.none) (hb : body x ⟨[], [], []⟩ (x.begun s0) = .error (.trap t)) :
    issueWith ends false adv uses body s = .next (x.stopped s0 [] (.trap t)) := by
  obtain ⟨x0, h0, hs0, hx⟩ := issuing_eq s s0 ends x hi
  have hpre := precheck_plain s0 x false (uses x) (by rw [hu]; rfl) (by rw [hu]; rfl) (by rw [hu]; rfl) (by rw [hu]; rfl) (by simp)
    (by simp [hu, Uses.none, Iss.clear]) (by simp [hu, Uses.none, Iss.mayName]) (.inl (by rw [hu]; exact ⟨rfl, rfl⟩))
  unfold issueWith
  rw [h0]
  simp only
  rw [show x0.landDue ends s = s0 from hs0.symm, hx]
  simp only [hpre, List.filter_nil, List.map_nil, ite_self, ne_eq, not_true, if_false, List.foldl_nil]
  rw [show x.modGang (fun g => if x.segments = 0 then g.tickWindows x.slices else g) s0 = x.begun s0 from rfl]
  rw [show wholeLines [] = [] from rfl, replaced_nil, ite_self, hb]
  rfl

/-! ### The causes of a trap -/

theorem firstOf_replicate (c : Cause) (n : Nat) : firstOf (List.replicate (n + 1) c) = some c := by
  induction n with
  | zero => rfl
  | succ n ih => rw [List.replicate_succ, firstOf, ih]; exact if_pos le_rfl

theorem firstOf_map_const {α : Type} (c : Cause) {l : List α} (h : l ≠ []) : firstOf (l.map fun _ => c) = some c := by
  obtain ⟨a, l, rfl⟩ := List.exists_cons_of_ne_nil h
  rw [List.map_const', List.length_cons, firstOf_replicate]

/-- A trap of one cause in some lanes, without effective addresses. -/
structure Trap.Uniform (t : Trap) (c : Cause) (ls : List Nat) : Prop where
  lanes : t.lanes = ls.map fun l => (l, c, 0)
  some  : ls ≠ []

section
variable {t : Trap} {c : Cause} {ls : List Nat} (ht : t.Uniform c ls)
include ht

theorem Trap.Uniform.cause : t.cause = c := by
  rw [Trap.cause, ht.lanes, List.map_map]
  simp only [Function.comp_def, firstOf_map_const c ht.some]

/-- The first of the causes in lane i. -/
theorem Trap.Uniform.firstOf_lane (i : Nat) :
    firstOf ((t.lanes.filter fun l => decide (l.1 = i)).map fun l => l.2.1) = if i ∈ ls then Option.some c else none := by
  have hsplit : (t.lanes.filter fun l => decide (l.1 = i)).map (fun l => l.2.1) = (ls.filter fun l => decide (l = i)).map fun _ => c := by
    rw [ht.lanes, List.filter_map, List.map_map]
    rfl
  rw [hsplit]
  split
  · next hi => exact firstOf_map_const c (List.ne_nil_of_mem (List.mem_filter.mpr ⟨hi, decide_eq_true rfl⟩))
  · next hi =>
    have hnil : (ls.filter fun l => decide (l = i)) = [] :=
      List.filter_eq_nil_iff.mpr fun l hl h => hi (of_decide_eq_true h ▸ hl)
    rw [hnil]
    rfl

theorem Trap.Uniform.find_lane {i : Nat} (hi : i ∈ ls) :
    (t.lanes.find? fun l => decide (l.1 = i) && decide (l.2.1 = c)) = Option.some (i, c, 0) := by
  obtain ⟨l, hl⟩ : ∃ l, (t.lanes.find? fun l => decide (l.1 = i) && decide (l.2.1 = c)) = Option.some l :=
    Option.isSome_iff_exists.mp (List.find?_isSome.mpr ⟨(i, c, 0), by rw [ht.lanes]; exact List.mem_map_of_mem hi, by simp⟩)
  have hmem := List.mem_of_find?_eq_some hl
  have hat := List.find?_some hl
  rw [ht.lanes] at hmem
  obtain ⟨j, _, rfl⟩ := List.mem_map.mp hmem
  simp only [decide_true, Bool.and_true, decide_eq_true_eq] at hat
  rw [hl, hat]

/-- The faulting lanes of such a trap are its lanes. -/
theorem Trap.Uniform.faults : t.faults = ((List.range 27).filter fun i => decide (i ∈ ls)).map fun i => (i, c, 0) := by
  rw [Trap.faults]
  induction List.range 27 with
  | nil => rfl
  | cons i is ih =>
    by_cases hi : i ∈ ls
    · rw [List.filterMap_cons_some (b := (i, c, 0)), ih, List.filter_cons_of_pos (p := fun i => decide (i ∈ ls)) (decide_eq_true hi), List.map_cons]
      rw [ht.firstOf_lane, if_pos hi]
      exact ht.find_lane hi
    · rw [List.filterMap_cons_none, ih, List.filter_cons_of_neg (p := fun i => decide (i ∈ ls)) (by simpa using hi)]
      rw [ht.firstOf_lane, if_neg hi]

end

theorem Trap.Uniform.lanes_faults {t : Trap} {c : Cause} {ls : List Nat} (ht : t.Uniform c ls) :
    (t.faults.map fun l => l.1) = (List.range 27).filter fun i => decide (i ∈ ls) := by
  rw [ht.faults, List.map_map]
  exact List.map_id _

/-! ### Entering a handler (R258, R259) -/

/-- The gang that has entered its handler. -/
def Iss.entered (x : Iss) (t : Trap) (g : Gang) : Gang :=
  let h := (x.bankTrap t g).modSlices x.slices fun _ y => { y with pc := x.grid.dbl 6 }
  { h with mode := setTrit 4 1 h.mode }

theorem emitFault_of_untraced {s : State} {a : Nat} (h : s.cfg? a = none) (core : Nat) (name code cause : Int) :
    s.emitFault a core name code cause = s := emit_of_untraced h _ _ _

theorem emitSched_of_untraced {s : State} {a : Nat} (h : s.cfg? a = none) (u : Team) (g : Gang) (code operand : Int) :
    s.emitSched a u g code operand = s := emit_of_untraced h _ _ _

/-- A trap outside a handler enters the handler of the launch record. -/
theorem takeTrap_enters {s : State} {x : Iss} (t : Trap) (hcfg : s.cfg? x.ctx.agency = none) (hin : x.gang.inHandler = false) (hh : x.grid.dbl 6 ≠ 0) :
    takeTrap s x t = x.modGang (x.entered t) ((s.dropWaits x.parker).forget x.issue.team x.issue.gang) := by
  have hquiet : ((s.dropWaits x.parker).forget x.issue.team x.issue.gang).cfg? x.ctx.agency = none := hcfg
  have hsched : ∀ (f : Gang → Gang) (u : State) (code operand : Int), u.cfg? x.ctx.agency = none →
      (x.modGang f u).emitSched x.ctx.agency x.team x.gang code operand = x.modGang f u := fun f u _ _ h =>
    emitSched_of_untraced (s := x.modGang f u) h _ _ _ _
  unfold takeTrap
  dsimp only
  rw [hin, if_neg (by simp), if_neg hh, emitFault_of_untraced hquiet, hsched _ _ _ _ hquiet]
  simp only [if_neg hh]
  rfl

/-- The state after an instruction that a trap of its own stops, where a handler is entered. -/
theorem stopped_trap_enters {s : State} {x : Iss} (t : Trap) (hcfg : s.cfg? x.ctx.agency = none) (hin : x.gang.inHandler = false)
    (hh : x.grid.dbl 6 ≠ 0) : (x.stopped s [] (.trap t)).teams = (x.modGang (x.entered t) s).teams ∧ (x.stopped s [] (.trap t)).beyond = s.beyond := by
  have hwatch : t.withWatch [] = t := by simp [Trap.withWatch]
  have hstop : x.stopped s [] (.trap t) = x.modGang (x.entered t) ((s.dropWaits x.parker).forget x.issue.team x.issue.gang) := by
    have hkeep : (x.modGang (x.entered t) ((s.dropWaits x.parker).forget x.issue.team x.issue.gang)).cfg? x.ctx.agency = none := hcfg
    rw [Iss.stopped, State.watchRecords, List.foldl_nil, List.filter_nil, hwatch, takeTrap_enters t hcfg hin hh, Iss.backPressure, hkeep]
  rw [hstop]
  exact ⟨rfl, rfl⟩

section
variable (x : Iss) (t : Trap) (g : Gang)

theorem Iss.entered_idx : (x.entered t g).idx = g.idx := rfl
theorem Iss.entered_mode : (x.entered t g).mode = setTrit 4 1 g.mode := rfl

/-- The slices of the issue set in the handler, and the others. -/
theorem Iss.entered_slice (k : Nat) : (x.entered t g).slice k =
    if k < g.slices.length ∧ k ∈ x.slices then
      { g.slice k with s := setRangeZ 18 (x.trapScalars t k) (g.slice k).s, sweep := none, stall := none, wait := none, fate := .waits, owed := none,
                       moved := (g.slice k).moved && decide (t.cause ≠ .teamMoved), pc := x.grid.dbl 6 }
    else g.slice k := by
  have houter := Gang.slice_modSlices (x.bankTrap t g) x.slices (fun _ y => { y with pc := x.grid.dbl 6 }) k
  have hinner := Gang.slice_modSlices { g with
      bank := (x.bankTrap t g).bank, v := (x.bankTrap t g).v, pending := [], ops := (x.bankTrap t g).ops } x.slices (fun k y =>
    { y with s := setRangeZ 18 (x.trapScalars t k) y.s, sweep := none, stall := none, wait := none, fate := .waits, owed := none,
             moved := y.moved && decide (t.cause ≠ .teamMoved) }) k
  have hlength : (x.bankTrap t g).slices.length = g.slices.length := Gang.modSlices_length ..
  rw [hlength] at houter
  refine houter.trans ?_
  split
  · next h =>
    have hslice := hinner.trans (if_pos h)
    have hbank : (x.bankTrap t g).slice k = _ := hslice
    rw [hbank]
    rfl
  · next h => exact hinner.trans (if_neg h)

/-- What the banked scalar registers hold in the handler. -/
theorem Iss.entered_get {k : Nat} (h : k < g.slices.length ∧ k ∈ x.slices) (q : SReg) :
    ((x.entered t g).slice k).get q = if 18 ≤ q.val then (x.trapScalars t k).getD (q.val - 18) 0 else (g.slice k).get q := by
  have hlen : (x.trapScalars t k).length = 9 := rfl
  rw [x.entered_slice, if_pos h, Slice.get, getZ_setRangeZ, hlen, Slice.get]
  by_cases hq : 18 ≤ q.val
  · rw [if_neg (by omega), if_pos ⟨hq, by omega⟩, if_pos hq]
  · rw [if_neg (fun hin : 18 ≤ q.val ∧ q.val < 18 + 9 => hq hin.1), if_neg hq]

theorem Iss.entered_v : (x.entered t g).v = setsZ (t.faults.flatMap fun l =>
    (vKey 72 l.1, causeCode l.2.1) :: [(vKey 73 l.1, wrap 27 l.2.2), (vKey 74 l.1, dropLow 27 l.2.2)]) (clearZ 1944 243 g.v) := rfl

/-- Entering a handler writes the banked registers and sr.mode alone. -/
theorem SameRegs.entered : SameRegs { sca := fun k q => k ∈ x.slices ∧ 18 ≤ q.val, vec := fun q _ => 72 ≤ q.val, mode := True } g (x.entered t g) where
  sca k q hq := by
    by_cases hk : k < g.slices.length ∧ k ∈ x.slices
    · rw [x.entered_get t g hk, if_neg fun h => hq ⟨hk.2, h⟩]
    · rw [x.entered_slice, if_neg hk]
  vec q i hi hq := by
    have hkey : ∀ l ∈ t.faults.flatMap fun l => (vKey 72 l.1, causeCode l.2.1) :: [(vKey 73 l.1, wrap 27 l.2.2), (vKey 74 l.1, dropLow 27 l.2.2)],
        l.1 ≠ vKey q.val i := fun l hl => by
      obtain ⟨f, _, hf⟩ := List.mem_flatMap.mp hl
      simp only [List.mem_cons, List.not_mem_nil, or_false] at hf
      rcases hf with rfl | rfl | rfl <;> simp only [vKey] <;> omega
    rw [Gang.lane, x.entered_v, getZ_setsZ _ _ _ hkey, getZ_clearZ, if_neg (by unfold vKey; omega), Gang.lane]
  msk _ _ := rfl
  gen _ _ := rfl
  flags _ := rfl
  mode h := absurd trivial h

end

/-- What the banked vector registers hold in the handler after a trap without effective addresses: the cause in its lanes. -/
theorem Iss.entered_lane (x : Iss) {t : Trap} {c : Cause} {ls : List Nat} (ht : t.Uniform c ls) (g : Gang) {q : VReg} (hq : 72 ≤ q.val) {i : Nat}
    (hi : i < 27) : (x.entered t g).lane q i = if q.val = 72 ∧ i ∈ ls then causeCode c else 0 := by
  have hval : ∀ w ∈ t.faults.flatMap fun l => (vKey 72 l.1, causeCode l.2.1) :: [(vKey 73 l.1, wrap 27 l.2.2), (vKey 74 l.1, dropLow 27 l.2.2)],
      w.1 = vKey q.val i → w.2 = if q.val = 72 ∧ i ∈ ls then causeCode c else 0 := fun w hw hkey => by
    rw [ht.faults] at hw
    obtain ⟨_, hf, hw⟩ := List.mem_flatMap.mp hw
    obtain ⟨l, hl, rfl⟩ := List.mem_map.mp hf
    obtain ⟨hlt, hls⟩ := List.mem_filter.mp hl
    rw [List.mem_range] at hlt
    simp only [List.mem_cons, List.not_mem_nil, or_false, Proofs.Trits.wrap_zero, Proofs.Trits.dropLow_zero] at hw
    rcases hw with rfl | rfl | rfl <;> simp only [vKey] at hkey
    · obtain rfl : l = i := by omega
      rw [if_pos ⟨by omega, of_decide_eq_true hls⟩]
    · rw [if_neg (by omega)]
    · rw [if_neg (by omega)]
  rw [Gang.lane, x.entered_v]
  by_cases hany : ∃ w ∈ t.faults.flatMap fun l => (vKey 72 l.1, causeCode l.2.1) :: [(vKey 73 l.1, wrap 27 l.2.2), (vKey 74 l.1, dropLow 27 l.2.2)],
      w.1 = vKey q.val i
  · exact getZ_setsZ_mem _ _ _ _ hval hany
  · rw [getZ_setsZ _ _ _ fun w hw hkey => hany ⟨w, hw, hkey⟩, getZ_clearZ, if_pos (by unfold vKey; omega), if_neg]
    rintro ⟨h72, hls⟩
    refine hany ⟨(vKey 72 i, causeCode c), List.mem_flatMap.mpr ⟨(i, c, 0), ?_, by simp⟩, by rw [h72]⟩
    rw [ht.faults]
    exact List.mem_map_of_mem (List.mem_filter.mpr ⟨List.mem_range.mpr hi, decide_eq_true hls⟩)

end Sys2Proof.Machine

namespace Sys2Proof.Proofs.SoftwareTraps
open Sys2Proof.Machine

/-- The trap that TRAP or BRK raises, with what s25 holds in each slice. -/
def softTrap (x : Iss) (c : Cause) (args : List (Nat × Int)) (code : Int) : Trap :=
  { Trap.of x.lanes c with args := args, imm := code, after := true }

theorem lanes_ne_nil {x : Iss} (h : x.slices ≠ []) : x.lanes ≠ [] := by
  obtain ⟨k, ks, hk⟩ := List.exists_cons_of_ne_nil h
  rw [Iss.lanes, hk]
  simp [lanesOf]

theorem softTrap_uniform {x : Iss} (h : x.slices ≠ []) (c : Cause) (args : List (Nat × Int)) (code : Int) :
    (softTrap x c args code).Uniform c x.lanes := ⟨rfl, lanes_ne_nil h⟩

/-- What s25 holds after TRAP: the register that it names. -/
theorem s25_trap {x : Iss} {c : Cause} {code : Int} {f : Nat → Int} {k : Nat} (hk : k ∈ x.slices) :
    (softTrap x c (x.slices.map fun k => (k, f k)) code).s25 k = f k := by
  obtain ⟨a, ha⟩ : ∃ a, ((x.slices.map fun k => (k, f k)).find? fun a => decide (a.1 = k)) = some a :=
    Option.isSome_iff_exists.mp (List.find?_isSome.mpr ⟨(k, f k), List.mem_map_of_mem hk, by simp⟩)
  obtain ⟨j, _, rfl⟩ := List.mem_map.mp (List.mem_of_find?_eq_some ha)
  have hj := List.find?_some ha
  simp only [decide_eq_true_eq] at hj
  unfold Trap.s25
  rw [show (softTrap x c (x.slices.map fun k => (k, f k)) code).args = x.slices.map fun k => (k, f k) from rfl, ha, hj]

/-- What s25 holds after BRK: no lane has an effective address. -/
theorem s25_brk {x : Iss} (h : x.slices ≠ []) (c : Cause) (code : Int) (k : Nat) : (softTrap x c [] code).s25 k = 0 := by
  unfold Trap.s25
  rw [show (softTrap x c [] code).args.find? (fun a => decide (a.1 = k)) = none from rfl, (softTrap_uniform h c [] code).faults]
  dsimp only
  split
  · next l hl =>
    obtain ⟨_, _, rfl⟩ := List.mem_map.mp (List.mem_of_find?_eq_some hl)
    simp
  · rfl

section
variable {s s0 : State} {x : Iss} (hfound : s.issuing true = some (s0, x)) (hcfg : s0.cfg? x.ctx.agency = none)
include hfound

theorem exec_trap (r : SReg) (code : Int) :
    exec (.trap r code) s = .next (x.stopped s0 [] (.trap (softTrap x .softwareTrap (x.slices.map fun k => (k, x.s k r)) code))) :=
  (show exec (.trap r code) s = execTrap r code s from rfl).trans (issueWith_trap hfound rfl rfl)

theorem exec_brk (hwin : s0.scope.windows = []) (code : Int) :
    exec (.brk code) s = .next (x.stopped s0 [] (.trap (softTrap x .breakpoint [] code))) := by
  have hclosed : (x.begun s0).debugged x.issue.team x.issue.gang = false := by
    unfold State.debugged
    rw [show (x.begun s0).scope.windows = [] from hwin]
    rfl
  refine (show exec (.brk code) s = execBrk code s from rfl).trans (issueWith_trap hfound rfl ?_)
  dsimp only
  rw [hclosed]
  rfl

end

/-- What TRAP and BRK leave, once they have raised their trap. -/
theorem enters {s s0 : State} {x : Iss} {c : Cause} {args : List (Nat × Int)} {code : Int} (hx : Issues s true s0 x) (hcfg : s0.cfg? x.ctx.agency = none)
    (hne : x.slices ≠ []) (hin : x.gang.inHandler = false) (hh : x.grid.dbl 6 ≠ 0) :
    let t := x.stopped s0 [] (.trap (softTrap x c args code))
    Kept s0 t x { sca := fun k q => k ∈ x.slices ∧ 18 ≤ q.val, vec := fun q _ => 72 ≤ q.val, mode := True } ∧
      t.modeOf x.issue.team x.issue.gang = x.gang.mode + 81 * (1 - tritAt 4 x.gang.mode) ∧
      (∀ k ∈ x.slices,
        t.pcOf x.issue.team x.issue.gang k = x.grid.dbl 6 ∧
        t.sreg x.issue.team x.issue.gang k 18 = causeCode c ∧
        t.sreg x.issue.team x.issue.gang k 19 = (x.gang.slice k).pc + 3 * (x.issue.words.length : Int) ∧
        (∀ i < 27, tritAt i (t.sreg x.issue.team x.issue.gang k 20) = if i ∈ x.lanes then 1 else 0) ∧
        t.sreg x.issue.team x.issue.gang k 21 = x.issue.words.getLastD 0 ∧
        t.sreg x.issue.team x.issue.gang k 24 = code ∧
        t.sreg x.issue.team x.issue.gang k 25 = (softTrap x c args code).s25 k) ∧
      (∀ q : VReg, 72 ≤ q.val → ∀ i < 27,
        t.vlane x.issue.team x.issue.gang q i = if q.val = 72 ∧ i ∈ x.lanes then causeCode c else 0) := by
  have hu := softTrap_uniform hne c args code
  obtain ⟨hteams, hbeyond⟩ := stopped_trap_enters (softTrap x c args code) hcfg hin hh
  have hown := gang?_of_teams_modGang (f := x.entered (softTrap x c args code)) (fun _ => rfl) hx.gang hteams
  refine ⟨kept_of_gang hx.gang hown (.entered x _ _) (fun a b hab => ?_) (fun p _ => hbmAt_of_beyond (touch := false) hbeyond p) hbeyond, ?_,
    fun k hk => ?_, fun q hq i hi => ?_⟩
  · rw [State.gang?, State.team?, hteams, ← State.team?, ← State.gang?, Iss.modGang,
      gang?_modGang s0 _ _ a b (x.entered (softTrap x c args code)) fun _ => rfl, if_neg fun h => hab (Prod.ext h.1 h.2)]
  · rw [State.modeOf, hown]
    simp only [x.entered_mode, setTrit]
    rfl
  · have hkin := And.intro (hx.inGang k hk).1 hk
    have hget : ∀ q : SReg, 18 ≤ q.val → (x.stopped s0 [] (.trap (softTrap x c args code))).sreg x.issue.team x.issue.gang k q =
        (x.trapScalars (softTrap x c args code) k).getD (q.val - 18) 0 := fun q hq => by
      simp only [State.sreg, hown]
      rw [x.entered_get _ _ hkin, if_pos hq]
    refine ⟨?_, (hget 18 (by decide)).trans (congrArg causeCode hu.cause), hget 19 (by decide), fun i hi => ?_, hget 21 (by decide), hget 24 (by decide),
      hget 25 (by decide)⟩
    · simp only [State.pcOf, hown, x.entered_slice, if_pos hkin]
    · rw [hget 20 (by decide)]
      refine (congrArg (fun l => tritAt i (tritSet l)) hu.lanes_faults).trans ?_
      rw [tritAt_tritSet (List.nodup_range.filter _)]
      by_cases h : i ∈ x.lanes <;> simp [List.mem_filter, hi, h]
  · rw [State.vlane, hown]
    exact x.entered_lane hu x.gang hq hi

/-- Settles O15: both raise a trap of one cause in every lane of the issue set, which enters the handler. -/
theorem softwareTrapEntry : Obligations.SoftwareTrapEntry := by
  intro r code row hrow s s0 x hfound hcfg hin hne hhandler hh hwin
  have hx : Issues s true s0 x := ⟨hfound, by rw [State.heldRecords, hcfg], hin⟩
  simp only [softTraps, List.mem_cons, List.not_mem_nil, or_false] at hrow
  rcases hrow with rfl | rfl
  · obtain ⟨hkept, hmode, hslices, hlanes⟩ := enters (c := .softwareTrap) (args := x.slices.map fun k => (k, x.s k r)) (code := code) hx hcfg hne
      hhandler hh
    refine ⟨_, exec_trap hfound r code, hkept, hmode, fun k hk => ?_, hlanes⟩
    obtain ⟨hpc, h18, h19, h20, h21, h24, h25⟩ := hslices k hk
    exact ⟨hpc, h18, h19, h20, h21, h24, h25.trans (s25_trap hk)⟩
  · obtain ⟨hkept, hmode, hslices, hlanes⟩ := enters (c := .breakpoint) (args := []) (code := code) hx hcfg hne hhandler hh
    refine ⟨_, exec_brk hfound hwin code, hkept, hmode, fun k hk => ?_, hlanes⟩
    obtain ⟨hpc, h18, h19, h20, h21, h24, h25⟩ := hslices k hk
    exact ⟨hpc, h18, h19, h20, h21, h24, h25.trans (s25_brk hne _ _ k)⟩

end Sys2Proof.Proofs.SoftwareTraps

/-! EXIT: slices that end, and the end of their gang (R88, R135). -/
namespace Sys2Proof.Machine

/-! ### Gangs alike but for waits -/

/-- Slice z stands where y does, with the same scalar registers and batches, and has ended just when y has. -/
structure Slice.Alike (y z : Slice) : Prop where
  pc    : z.pc = y.pc
  s     : z.s = y.s
  copy  : z.copy = y.copy
  ended : z.ended = y.ended

theorem Slice.Alike.refl (y : Slice) : Slice.Alike y y := ⟨rfl, rfl, rfl, rfl⟩

theorem Slice.Alike.trans {y z w : Slice} (h : Slice.Alike y z) (k : Slice.Alike z w) : Slice.Alike y w :=
  ⟨k.pc.trans h.pc, k.s.trans h.s, k.copy.trans h.copy, k.ended.trans h.ended⟩

/-- Gang h holds what g does, and its slices are alike. -/
structure Gang.Alike (g h : Gang) : Prop where
  idx    : h.idx = g.idx
  v      : h.v = g.v
  m      : h.m = g.m
  blocks : h.blocks = g.blocks
  ops    : h.ops = g.ops
  bank   : h.bank = g.bank
  length : h.slices.length = g.slices.length
  slice  : ∀ k, Slice.Alike (g.slice k) (h.slice k)

theorem Gang.Alike.refl (g : Gang) : Gang.Alike g g := ⟨rfl, rfl, rfl, rfl, rfl, rfl, rfl, fun _ => .refl _⟩

theorem Gang.Alike.trans {g h i : Gang} (a : Gang.Alike g h) (b : Gang.Alike h i) : Gang.Alike g i :=
  ⟨b.idx.trans a.idx, b.v.trans a.v, b.m.trans a.m, b.blocks.trans a.blocks, b.ops.trans a.ops, b.bank.trans a.bank, b.length.trans a.length,
    fun k => (a.slice k).trans (b.slice k)⟩

/-- A gang that differs in what the relation does not speak of. -/
theorem Gang.Alike.of_slices {g h : Gang} (hi : h.idx = g.idx) (hv : h.v = g.v) (hm : h.m = g.m) (hb : h.blocks = g.blocks) (ho : h.ops = g.ops)
    (hk : h.bank = g.bank) (hs : h.slices = g.slices) : Gang.Alike g h :=
  ⟨hi, hv, hm, hb, ho, hk, congrArg List.length hs, fun k => by
    have hslice : h.slice k = g.slice k := by rw [Gang.slice, hs, Gang.slice]
    rw [hslice]
    exact .refl _⟩

theorem Gang.alike_modSlices (g : Gang) (ks : List Nat) {f : Nat → Slice → Slice} (hf : ∀ k y, Slice.Alike y (f k y)) : Gang.Alike g (g.modSlices ks f) := by
  refine ⟨rfl, rfl, rfl, rfl, rfl, rfl, Gang.modSlices_length .., fun k => ?_⟩
  rw [Gang.slice_modSlices]
  split
  · exact hf k _
  · exact .refl _

theorem Gang.alike_owe (g : Gang) (ks : List Nat) (c : Cause) : Gang.Alike g (g.owe ks c) :=
  g.alike_modSlices ks fun _ y => by
    split
    · exact .refl _
    · exact ⟨rfl, rfl, rfl, rfl⟩

theorem Gang.alike_regroup (g : Gang) (ks : List Nat) : Gang.Alike g (g.regroup ks) := by
  refine ⟨rfl, rfl, rfl, rfl, rfl, rfl, g.regroup_length ks, fun k => ?_⟩
  obtain ⟨n, h⟩ := g.slice_regroup ks k
  rw [h]
  exact ⟨rfl, rfl, rfl, rfl⟩

/-- The arrivals of REGANG that name a slice of ks. -/
def Gang.hitBy (g : Gang) (ks : List Nat) : List Regang := g.regangs.filter fun r => ks.any fun k => decide (tritAt k r.set = 1)

theorem Gang.alike_afterEnds (g : Gang) (ks : List Nat) : Gang.Alike g (g.afterEnds ks) := by
  have hleft : Gang.Alike g { g with regangs := g.regangs.filter fun r => !(g.hitBy ks).contains r } := .of_slices rfl rfl rfl rfl rfl rfl rfl
  have howe := hleft.trans (Gang.alike_owe _ ((g.hitBy ks).map Regang.slice) .participantEnded)
  unfold Gang.afterEnds
  dsimp only
  split
  · exact (howe.trans (Gang.alike_owe _ _ .participantEnded)).trans (.of_slices rfl rfl rfl rfl rfl rfl rfl)
  · exact howe

theorem Gang.alike_finished (g : Gang) (ks : List Nat) : Gang.Alike g (g.finished ks) :=
  (g.alike_modSlices ks (f := fun _ y => { y with stall := none }) fun _ _ => ⟨rfl, rfl, rfl, rfl⟩).trans (.of_slices rfl rfl rfl rfl rfl rfl rfl)

theorem Iss.alike_ticked (x : Iss) (g : Gang) : Gang.Alike g (x.ticked g) := by
  unfold Iss.ticked
  split
  · exact .of_slices rfl rfl rfl rfl rfl rfl rfl
  · exact .refl _

/-- A gang outside a handler has nowhere to return. -/
theorem Gang.tryReturn_of_bank {g : Gang} (h : g.bank = none) : g.tryReturn = g := by
  have hnot : g.allReturned = false := by rw [Gang.allReturned, h]
  rw [Gang.tryReturn, hnot]
  rfl

theorem Gang.dead_iff (g : Gang) : g.dead = true ↔ ∀ j < g.slices.length, (g.slice j).ended = true := by
  simp only [Gang.dead, List.all_eq_true, Gang.slice]
  constructor
  · intro h j hj
    rw [List.getD_eq_getElem _ _ hj]
    exact h _ (List.getElem_mem hj)
  · intro h y hy
    obtain ⟨j, hj, rfl⟩ := List.getElem_of_mem hy
    rw [← List.getD_eq_getElem _ Slice.none hj]
    exact h j hj

/-! ### The end of slices -/

/-- The gang with slices ks ended, and what that means for those that wait for them. -/
def Gang.endingSlices (g : Gang) (ks : List Nat) : Gang :=
  (((g.modSlices ks fun _ y => { y with ended := true, wait := none, fate := .waits, stall := none, owed := none }).regroup ks).afterEnds ks).tryReturn

/-- Gang h is g with slices ks ended. -/
structure EndedIn (ks : List Nat) (g h : Gang) : Prop where
  idx    : h.idx = g.idx
  v      : h.v = g.v
  m      : h.m = g.m
  blocks : h.blocks = g.blocks
  ops    : h.ops = g.ops
  length : h.slices.length = g.slices.length
  inside : ∀ k ∈ ks, (h.slice k).ended = true
  apart  : ∀ k, k ∉ ks → Slice.Alike (g.slice k) (h.slice k)
  copies : ∀ k, (h.slice k).copy = (g.slice k).copy

theorem EndedIn.alike_right {ks : List Nat} {g h i : Gang} (a : EndedIn ks g h) (b : Gang.Alike h i) : EndedIn ks g i :=
  ⟨b.idx.trans a.idx, b.v.trans a.v, b.m.trans a.m, b.blocks.trans a.blocks, b.ops.trans a.ops, b.length.trans a.length,
    fun k hk => (b.slice k).ended.trans (a.inside k hk), fun k hk => (a.apart k hk).trans (b.slice k), fun k => (b.slice k).copy.trans (a.copies k)⟩

theorem EndedIn.alike_left {ks : List Nat} {g h i : Gang} (a : Gang.Alike g h) (b : EndedIn ks h i) : EndedIn ks g i :=
  ⟨b.idx.trans a.idx, b.v.trans a.v, b.m.trans a.m, b.blocks.trans a.blocks, b.ops.trans a.ops, b.length.trans a.length,
    b.inside, fun k hk => (a.slice k).trans (b.apart k hk), fun k => (b.copies k).trans (a.slice k).copy⟩

theorem endedIn_endingSlices {g : Gang} (hbank : g.bank = none) (ks : List Nat) : EndedIn ks g (g.endingSlices ks) := by
  have hends : EndedIn ks g (g.modSlices ks fun _ y => { y with ended := true, wait := none, fate := .waits, stall := none, owed := none }) := by
    refine ⟨rfl, rfl, rfl, rfl, rfl, Gang.modSlices_length .., fun k hk => ?_, fun k hk => ?_, fun k => ?_⟩ <;> rw [Gang.slice_modSlices]
    · split
      · rfl
      · next h =>
        have hout : g.slices.length ≤ k := Nat.le_of_not_lt fun hl => h ⟨hl, hk⟩
        rw [Gang.slice, List.getD_eq_default _ _ hout]
        rfl
    · rw [if_neg fun h => hk h.2]
      exact .refl _
    · split <;> rfl
  have hwaits := (Gang.alike_regroup (g.modSlices ks fun _ y =>
    { y with ended := true, wait := none, fate := .waits, stall := none, owed := none }) ks).trans (Gang.alike_afterEnds _ ks)
  rw [Gang.endingSlices, Gang.tryReturn_of_bank (hwaits.bank.trans hbank)]
  exact hends.alike_right hwaits

theorem EndedIn.dead_iff {ks : List Nat} {g h : Gang} (e : EndedIn ks g h) :
    h.dead = true ↔ ∀ j < g.slices.length, j ∈ ks ∨ (g.slice j).ended = true := by
  rw [Gang.dead_iff, e.length]
  refine forall_congr' fun j => imp_congr_right fun _ => ?_
  by_cases hj : j ∈ ks
  · simp [hj, e.inside j hj]
  · simp [hj, (e.apart j hj).ended]

theorem EndedIn.busy {ks : List Nat} {g h : Gang} (e : EndedIn ks g h) : h.busy = g.busy := by
  have hcopies : h.slices.map Slice.copy = g.slices.map Slice.copy := by
    refine List.ext_getElem (by simp [e.length]) fun j hj hj' => ?_
    have hcopy := e.copies j
    simp only [List.length_map] at hj hj'
    rw [Gang.slice, Gang.slice, List.getD_eq_getElem _ _ hj, List.getD_eq_getElem _ _ hj'] at hcopy
    simpa using hcopy
  have hany : ∀ i : Gang, (i.slices.any fun y => !y.copy.sealed.isEmpty || y.copy.openB.any BatchEntry.isJob) =
      (i.slices.map Slice.copy).any fun c => !c.sealed.isEmpty || c.openB.any BatchEntry.isJob := fun i => by
    rw [List.any_map]
    rfl
  rw [Gang.busy, Gang.busy, hany, hany, hcopies, e.ops]

theorem Gang.unbank_idx (g : Gang) (pc : Nat → Slice → Int) : (g.unbank pc).idx = g.idx := by
  unfold Gang.unbank
  split <;> rfl

theorem Gang.tryReturn_idx (g : Gang) : g.tryReturn.idx = g.idx := by
  unfold Gang.tryReturn
  dsimp only
  split
  · rfl
  · split
    · exact g.unbank_idx _
    · split <;> rfl

theorem Gang.endingSlices_idx (g : Gang) (ks : List Nat) : (g.endingSlices ks).idx = g.idx :=
  (Gang.tryReturn_idx _).trans (Gang.alike_afterEnds _ ks).idx

/-! ### Blocks that return to the pool -/

/-- What the granting of waiting requests leaves as it was: memory, traces, and the gangs that there are. -/
structure Granted (s t : State) : Prop where
  mem   : t.mem = s.mem
  scope : t.scope = s.scope
  gone  : ∀ a b, s.gang? a b = none → t.gang? a b = none

theorem Granted.refl (s : State) : Granted s s := ⟨rfl, rfl, fun _ _ h => h⟩

theorem Granted.trans {s t u : State} (h : Granted s t) (k : Granted t u) : Granted s u :=
  ⟨k.mem.trans h.mem, k.scope.trans h.scope, fun a b hn => k.gone a b (h.gone a b hn)⟩

theorem granted_modGang (s : State) (a b : Nat) {f : Gang → Gang} (hf : ∀ g, (f g).idx = g.idx) : Granted s (s.modGang a b f) := by
  refine ⟨rfl, rfl, fun c d hn => ?_⟩
  rw [gang?_modGang s a b c d f hf]
  split
  · next h => rw [← h.1, ← h.2, hn]; rfl
  · exact hn

theorem granted_grantRacq (s : State) (core n : Nat) : Granted s (s.grantRacq core n) := by
  induction n generalizing s with
  | zero => exact .refl s
  | succ n ih =>
    rw [State.grantRacq]
    dsimp only
    split
    · exact .refl s
    · next r _ =>
      have hdrop : Granted s { s with eng := { s.eng with racq := s.eng.racq.filter fun q => decide (q ≠ r) } } := ⟨rfl, rfl, fun _ _ h => h⟩
      split
      · split
        · refine (hdrop.trans (granted_modGang _ _ _ fun g => ?_)).trans (ih _)
          exact g.acquire_idx _
        · exact .refl s
      · exact hdrop.trans (ih _)

theorem granted_blocksReturned (s : State) (core : Nat) : Granted s (s.blocksReturned core) := granted_grantRacq s core _

/-! ### The end of a gang -/

theorem team?_modTeam_const {s : State} {a : Nat} {u v : Team} (hs : s.team? a = some u) (hv : v.key = a) : (s.modTeam a fun _ => v).team? a = some v := by
  have hsame : (s.modTeam a fun _ => v) = s.modTeam a fun w => if w.key = a then v else w := by
    simp only [State.modTeam, mapIf]
    congr 1
    refine List.map_congr_left fun w _ => ?_
    by_cases h : w.key = a <;> simp [h]
  rw [hsame, team?_modTeam, if_pos rfl, hs, Option.map_some, if_pos (find?_key Team.key _ _ _ hs)]
  intro w
  split
  · next h => rw [hv, h]
  · rfl

theorem Team.afterGangEnd_key (u : Team) (p : Nat) : (u.afterGangEnd p).key = u.key := by
  unfold Team.afterGangEnd
  split
  · rfl
  · exact Proofs.Meetings.testBar_key u

/-- What the end of a gang means for a phase leaves which gangs there are. -/
theorem Team.afterGangEnd_gang?_none {u : Team} {p b : Nat} (h : u.gang? b = none) : (u.afterGangEnd p).gang? b = none := by
  rw [Team.gang?, List.find?_eq_none] at h ⊢
  unfold Team.afterGangEnd
  split
  · intro g hg
    obtain ⟨g', hg', rfl⟩ := List.mem_map.mp hg
    exact h g' hg'
  · rwa [Proofs.Meetings.testBar_gangs]

/-- A team put in a team's place, blocks returned, and engines and a context told of it. -/
theorem replaced_team {s : State} {a b core n : Nat} {u v : Team} {f : Context → Context} {e : Engines} (hs : s.team? a = some u) (hv : v.key = a) :
    (({ (s.modTeam a fun _ => v).blocksReturned core with eng := e } : State).modCtx n f).mem = s.mem ∧
      (({ (s.modTeam a fun _ => v).blocksReturned core with eng := e } : State).modCtx n f).scope = s.scope ∧
      (v.gang? b = none → (({ (s.modTeam a fun _ => v).blocksReturned core with eng := e } : State).modCtx n f).gang? a b = none) := by
  have hblocks := granted_blocksReturned (s.modTeam a fun _ => v) core
  refine ⟨hblocks.mem, hblocks.scope, fun hnone => hblocks.gone a b ?_⟩
  rw [State.gang?, team?_modTeam_const hs hv]
  exact hnone

theorem Team.gang?_filter (u : Team) (b : Nat) : (u.gangs.filter fun g => decide (g.idx ≠ b)).find? (fun g => decide (g.idx = b)) = none :=
  List.find?_eq_none.mpr fun g hg => by simpa using (List.mem_filter.mp hg).2

/-- The end of a gang leaves memory and traces, and, where nothing of it is outstanding, no gang of its number. -/
theorem endGang_keeps {s : State} {a b : Nat} {u : Team} {g : Gang} {r : Grid} {c : Context} (hu : s.team? a = some u) (hg : s.gang? a b = some g)
    (hr : s.grid? u.grid = some r) (hc : s.ctx? r.ctx = some c) (hcfg : s.cfg? c.agency = none) :
    (s.endGang a b).mem = s.mem ∧ (s.endGang a b).scope = s.scope ∧ (g.busy = false → (s.endGang a b).gang? a b = none) := by
  have hgang : u.gang? b = some g := by
    rw [State.gang?, hu] at hg
    exact hg
  have hkey : u.key = a := find?_key Team.key _ _ _ hu
  unfold State.endGang
  simp only [hu, hgang, hr, hc, emitSched_of_untraced hcfg]
  refine (replaced_team hu ?_).imp_right (And.imp_right fun hgone hbusy => hgone ?_)
  · rw [Team.afterGangEnd_key]
    dsimp only
    split <;> exact hkey
  · refine Team.afterGangEnd_gang?_none ?_
    simp only [hbusy, Bool.false_eq_true, if_false]
    exact u.gang?_filter b

end Sys2Proof.Machine

namespace Sys2Proof.Proofs.Exits
open Sys2Proof.Machine

/-- The gang once the slices of the issue set have ended. -/
def gangEnding (x : Iss) (g : Gang) : Gang := (x.ticked g).endingSlices x.slices

theorem gangEnding_idx (x : Iss) (g : Gang) : (gangEnding x g).idx = g.idx := (Gang.endingSlices_idx _ _).trans (x.ticked_idx g)

/-- The state in which the slices of the issue set have ended. -/
def slicesEnded (x : Iss) (s0 : State) : State := x.modGang (gangEnding x) s0

/-- The state after the effect of EXIT. -/
def exited (x : Iss) (s0 : State) : State := (x.begun s0).endSlices x.issue.team x.issue.gang x.slices

section
variable {s s0 : State} {x : Iss} (hx : Issues s true s0 x)
include hx

theorem exec_exit : exec .exit s = .next (x.finish s0 (exited x s0)) :=
  syncIssue_next (uses := fun _ => Uses.none) (body := fun x s => .ok (s.endSlices x.issue.team x.issue.gang x.slices)) (ds := []) hx (by simp [Iss.clear])
    rfl rfl rfl

theorem gang?_slicesEnded : (slicesEnded x s0).gang? x.issue.team x.issue.gang = some (gangEnding x x.gang) :=
  gang?_of_teams_modGang (gangEnding_idx x) hx.gang rfl

theorem exited_eq : exited x s0 = if (gangEnding x x.gang).dead then (slicesEnded x s0).endGang x.issue.team x.issue.gang
    else (slicesEnded x s0).modTeam x.issue.team Team.testBar := by
  have hmod : (x.begun s0).modGang x.issue.team x.issue.gang (fun g => g.endingSlices x.slices) = slicesEnded x s0 :=
    Iss.modGang_modGang x s0 (fun g => g.endingSlices x.slices) x.ticked x.ticked_idx
  have hown := gang?_slicesEnded hx
  rw [← hmod] at hown
  unfold exited State.endSlices
  dsimp only
  split
  · next g hg =>
    obtain rfl := Option.some.inj (hg.symm.trans hown)
    exact congrArg (fun u : State => if (gangEnding x x.gang).dead then u.endGang x.issue.team x.issue.gang else u.modTeam x.issue.team Team.testBar) hmod
  · next hg => cases hg.symm.trans hown

/-- EXIT leaves memory and traces; and the last slice to end takes an idle gang with it. -/
theorem exited_keeps (hcfg : s0.cfg? x.ctx.agency = none) : (exited x s0).mem = s0.mem ∧ (exited x s0).scope = s0.scope ∧
    ((gangEnding x x.gang).dead = true → (gangEnding x x.gang).busy = false → (exited x s0).gang? x.issue.team x.issue.gang = none) := by
  rw [exited_eq hx]
  cases hdead : (gangEnding x x.gang).dead with
  | false => exact ⟨rfl, rfl, fun h => by simp at h⟩
  | true =>
    obtain ⟨_, _, _, hiss⟩ := issuing_eq s s0 true x hx.found
    obtain ⟨_, hteam, _, hgrid, hctx⟩ := iss?_eq s0 x hiss
    have hmod := team?_modTeam s0 x.issue.team x.issue.team (fun u => u.modGang x.issue.gang (gangEnding x)) fun _ => rfl
    rw [if_pos rfl, hteam] at hmod
    obtain ⟨hmem, hscope, hgone⟩ := endGang_keeps (s := slicesEnded x s0) hmod (gang?_slicesEnded hx) hgrid hctx hcfg
    exact ⟨hmem, hscope, fun _ => hgone⟩

/-- EXIT of slices beside others that go on. -/
theorem gang?_exited_of_alive (h : (gangEnding x x.gang).dead = false) :
    (exited x s0).gang? x.issue.team x.issue.gang = some (gangEnding x x.gang) := by
  rw [exited_eq hx, h, if_neg (by simp), gang?_modTeam_of_gangs _ _ _ _ _ Proofs.Meetings.testBar_key Proofs.Meetings.testBar_gangs]
  exact gang?_slicesEnded hx

end

/-- Settles O14: the slices end in their gang, which goes with the last of them when nothing of it is outstanding. -/
theorem exitEndsSlices : Obligations.ExitEndsSlices := by
  intro s s0 x hx hcfg hbank
  obtain ⟨hmem, hscope, hgone⟩ := exited_keeps hx hcfg
  have hquiet : (exited x s0).heldRecords x.ctx.agency = 0 := by
    rw [State.heldRecords, State.cfg?, hscope]
    exact hx.quiet
  have hended : EndedIn x.slices x.gang (gangEnding x x.gang) :=
    .alike_left (x.alike_ticked x.gang) (endedIn_endingSlices ((x.ticked_bank x.gang).trans hbank) _)
  refine ⟨_, exec_exit hx, fun p => ?_, fun ⟨j, hj, hnot, halive⟩ => ?_, fun hall hidle => ?_⟩
  · rw [finish_hbmAt hquiet, State.hbmAt, hmem, State.hbmAt]
  · have hdead : (gangEnding x x.gang).dead = false := Bool.eq_false_iff.mpr fun h => by
      rcases hended.dead_iff.mp h j hj with hin | hend
      · exact hnot hin
      · rw [halive] at hend
        cases hend
    have hfin := hended.alike_right (Gang.alike_finished _ x.slices)
    refine ⟨(gangEnding x x.gang).finished x.slices, ?_, hfin.inside, fun i hi => ?_, hfin.v, hfin.m, hfin.blocks⟩
    · rw [finish_gang? hquiet, if_pos ⟨rfl, rfl⟩, gang?_exited_of_alive hx hdead]
      rfl
    · obtain ⟨hpc, hs, _, hsame⟩ := hfin.apart i hi
      exact ⟨hsame, hpc, fun q => by rw [Slice.get, hs, Slice.get]⟩
  · have hnone := hgone (hended.dead_iff.mpr hall) (hended.busy.trans hidle)
    rw [finish_gang? hquiet, if_pos ⟨rfl, rfl⟩, hnone]
    rfl

end Sys2Proof.Proofs.Exits

/-! What a gang carries across a phase boundary (R125, R146). -/
namespace Sys2Proof.Machine

/-- A read after keeping the cells of some keys. -/
theorem getZ_filter_key (j : Nat) (p : Nat → Bool) (m : ZMap) : getZ j (m.filter fun c => p c.1) = if p j = true then getZ j m else 0 := by
  induction m with
  | nil => simp
  | cons c r ih =>
    obtain ⟨a, v⟩ := c
    rw [List.filter_cons]
    by_cases hp : p a = true
    · rw [if_pos hp]
      simp only [getZ, ih]
      by_cases hj : j = a
      · subst hj; simp [hp]
      · simp [hj]
    · rw [if_neg hp, ih]
      simp only [getZ]
      by_cases hj : j = a
      · subst hj; simp [hp]
      · simp [hj]

theorem Reblocked.congr {g h : Gang} {p p' q q' : Nat → Prop} (hr : Reblocked g h p q) (hp : ∀ b < 9, p b ↔ p' b) (hq : ∀ b < 9, q b ↔ q' b) :
    Reblocked g h p' q' :=
  ⟨hr.idx, hr.slices, fun w hw => hr.regs w fun r i hi => hw r i ((hq _ (by omega)).mp hi), fun b hb => (hr.holds b hb).trans (hp b hb),
    fun r hi => hr.fresh r ((hq _ (by omega)).mpr hi)⟩

section
variable {u : Team} {g : Gang} {a : Arrival} {as : List Arrival}

/-- A gang without the blocks and tiles that an arrival does not carry. -/
def Gang.shed (a : Arrival) (g : Gang) : Gang :=
  let h := g.release ((List.range 9).filter fun b => decide (tritAt b a.blocks ≠ 1))
  if a.tiles || h.token then h else { h with tiles := [], tileSet := [] }

/-- The scalar registers that the arrivals of a gang carry for slice k. -/
def carried (a : Arrival) (as : List Arrival) (k : Nat) : Int := (((a :: as).find? fun b => decide (b.slice = k)).getD a).scalars

theorem passGang_eq (h : u.arrivalsOf g.idx = a :: as) : u.passGang g =
    ((g.shed a).modSlices ((a :: as).map Arrival.slice) fun k y => { y with s := y.s.filter fun c => decide (tritAt c.1 (carried a as k) = 1) }).leave
      ((a :: as).map Arrival.slice) := by
  unfold Team.passGang
  rw [h]
  rfl

theorem Gang.leave_blocks (g : Gang) (ks : List Nat) : (g.leave ks).blocks = g.blocks := rfl

theorem Gang.leave_v (g : Gang) (ks : List Nat) : (g.leave ks).v = g.v := rfl

/-- Slices that leave their waits go on past an instruction of one word. -/
theorem Gang.slice_leave {g : Gang} {ks : List Nat} {k : Nat} (hk : k ∈ ks) (hl : k < g.slices.length) :
    ((g.leave ks).slice k).pc = (g.slice k).pc + 3 ∧ ((g.leave ks).slice k).wait = none := by
  rw [Gang.leave, Gang.regroup_pc, Gang.regroup_wait, Gang.slice_modSlices, if_pos ⟨hl, hk⟩]
  exact ⟨rfl, rfl⟩

theorem Gang.leave_get (g : Gang) (ks : List Nat) (k : Nat) (r : SReg) : ((g.leave ks).slice k).get r = (g.slice k).get r :=
  (SameRegs.leave (w := {}) g ks).sca k r not_false

/-- What a gang sheds: blocks that the arrival does not carry, which read zero. -/
theorem reblocked_shed (hbank : g.bank = none) : Reblocked g (g.shed a) (fun b => g.holds b = true ∧ tritAt b a.blocks = 1)
    fun b => g.holds b = true ∧ tritAt b a.blocks ≠ 1 := by
  have hrel : Reblocked g (g.release ((List.range 9).filter fun b => decide (tritAt b a.blocks ≠ 1)))
      (fun b => g.holds b = true ∧ tritAt b a.blocks = 1) fun b => g.holds b = true ∧ tritAt b a.blocks ≠ 1 :=
    (reblocked_release hbank (List.nodup_range.filter _)).congr (fun b hb => by simp [List.mem_filter, hb]) fun b hb => by
      simp [List.mem_filter, hb, and_comm]
  unfold Gang.shed
  dsimp only
  split
  · exact hrel
  · exact ⟨hrel.idx, hrel.slices, fun w hw => (hrel.regs w hw).trans (.of_eq rfl rfl rfl rfl rfl rfl), hrel.holds, hrel.fresh⟩

/-- The blocks of a gang past the boundary are those of its own that the arrivals carry. -/
theorem passGang_holds (h : u.arrivalsOf g.idx = a :: as) (hbank : g.bank = none) {i : Nat} (hi : i < 9) :
    (u.passGang g).holds i = true ↔ (g.holds i = true ∧ tritAt i a.blocks = 1) := by
  rw [passGang_eq h, ← (reblocked_shed hbank).holds i hi]
  rfl

/-- The registers of the blocks that the arrivals do not carry read zero past the boundary. -/
theorem passGang_lane (h : u.arrivalsOf g.idx = a :: as) (hbank : g.bank = none) (v : VReg) {l : Nat} (hl : l < 27) :
    (u.passGang g).lane v l = if g.holds (v.val / 9) = true ∧ tritAt (v.val / 9) a.blocks ≠ 1 then 0 else g.lane v l := by
  have hshed := reblocked_shed (a := a) hbank
  have hlane : (u.passGang g).lane v l = (g.shed a).lane v l := by rw [passGang_eq h]; rfl
  rw [hlane]
  split
  · next hq => exact hshed.fresh v hq l hl
  · next hq => exact (hshed.regs { vec := fun r _ => g.holds (r.val / 9) = true ∧ tritAt (r.val / 9) a.blocks ≠ 1 } fun _ _ h => h).vec v l hl hq

/-- A slice goes on past its PHASE with the scalar registers that its own arrival carries. -/
theorem passGang_slice (h : u.arrivalsOf g.idx = a :: as) (hbank : g.bank = none) {k : Nat} (hk : k < g.slices.length) {c : Arrival}
    (hc : (a :: as).find? (fun c => decide (c.slice = k)) = some c) :
    ((u.passGang g).slice k).pc = (g.slice k).pc + 3 ∧ ((u.passGang g).slice k).wait = none ∧
      ∀ r : SReg, ((u.passGang g).slice k).get r = if tritAt r.val c.scalars = 1 then (g.slice k).get r else 0 := by
  have hslices := (reblocked_shed (a := a) hbank).slices
  have hmem : k ∈ (a :: as).map Arrival.slice := by
    have hslice := List.find?_some hc
    simp only [decide_eq_true_eq] at hslice
    exact hslice ▸ List.mem_map_of_mem (List.mem_of_find?_eq_some hc)
  have hlen : k < (g.shed a).slices.length := by rw [hslices]; exact hk
  have hkept := Gang.slice_modSlices (g.shed a) ((a :: as).map Arrival.slice) (fun k y =>
    { y with s := y.s.filter fun c => decide (tritAt c.1 (carried a as k) = 1) }) k
  rw [if_pos ⟨hlen, hmem⟩, Gang.slice, Gang.slice, hslices, ← Gang.slice, ← Gang.slice] at hkept
  obtain ⟨hpc, hwait⟩ := Gang.slice_leave (g := (g.shed a).modSlices ((a :: as).map Arrival.slice) fun k y =>
    { y with s := y.s.filter fun c => decide (tritAt c.1 (carried a as k) = 1) }) hmem (by rw [Gang.modSlices_length]; exact hlen)
  rw [passGang_eq h]
  refine ⟨hpc.trans (by rw [hkept]), hwait, fun r => ?_⟩
  rw [Gang.leave_get, hkept, Slice.get, Slice.get, carried, hc]
  dsimp only [Option.getD_some]
  rw [getZ_filter_key r.val fun i => decide (tritAt i c.scalars = 1)]
  by_cases h0 : r.val = 0 <;> by_cases ht : tritAt r.val c.scalars = 1 <;> simp [h0, ht]

end

end Sys2Proof.Machine

/-! A phase boundary that its last arrival passes (R125, R146). -/
namespace Sys2Proof.Proofs.PhaseBoundaries
open Sys2Proof.Machine

/-! ### The work that asks for places -/

/-- A team without its gangs and what stands at a boundary. -/
def placed (u : Team) : Team := { u with gangs := [], arrivals := [], tiles := [], tokens := [], passing := [], bar := ⟨0, 0, [], []⟩ }

section
variable {u v : Team} (h : placed u = placed v)
include h

theorem key_of_placed : u.key = v.key := by
  have hsame := congrArg Team.key h
  exact hsame

theorem grid_of_placed : u.grid = v.grid := by
  have hsame := congrArg Team.grid h
  exact hsame

theorem core_of_placed : u.core = v.core := by
  have hsame := congrArg Team.core h
  exact hsame

end

theorem outGroup_placed (s : State) (u : Team) : ({ s with teams := s.teams.map placed } : State).outGroup (placed u) = (s.outGroup u).map placed := by
  have hgroup : ({ s with teams := s.teams.map placed } : State).groupOf (placed u) = (s.groupOf u).map placed := by
    unfold State.groupOf
    show (if u.group ≤ 1 then [placed u] else (s.teams.map placed).filter _) = _
    split
    · rfl
    · rw [List.filter_map]
      rfl
  rw [State.outGroup, State.outGroup, hgroup, List.filter_map]
  rfl

/-- The pending work goes by the places of the teams alone. -/
theorem pending_placed (s : State) : ({ s with teams := s.teams.map placed } : State).pending = s.pending := by
  unfold State.pending
  dsimp only
  congr 1
  rw [List.filterMap_map]
  refine List.filterMap_congr fun u _ => ?_
  have hhead : ((s.outGroup u).map placed).head?.map Team.key = (s.outGroup u).head?.map Team.key := by rw [List.head?_map, Option.map_map]; rfl
  have hkept : ((s.outGroup u).map placed).any ({ s with teams := s.teams.map placed } : State).kept = (s.outGroup u).any s.kept := by
    rw [List.any_map]
    rfl
  simp only [Function.comp_apply, outGroup_placed, hhead, hkept]
  rfl

theorem racqWaits_placed (s : State) (core : Nat) : ({ s with teams := s.teams.map placed } : State).racqWaits core = s.racqWaits core := by
  have hat : ∀ a, RegisterBlocks.teamAt { s with teams := s.teams.map placed } core a = RegisterBlocks.teamAt s core a := fun a => by
    have hteam : ({ s with teams := s.teams.map placed } : State).team? a = (s.team? a).map placed := by
      rw [State.team?, State.team?, List.find?_map]
      rfl
    rw [RegisterBlocks.teamAt, hteam, RegisterBlocks.teamAt]
    cases s.team? a <;> rfl
  rw [RegisterBlocks.racqWaits_eq, RegisterBlocks.racqWaits_eq]
  exact congrArg (fun f => s.eng.racq.any f) (funext fun r => hat r.1)

/-! ### What passing a boundary keeps -/

/-- State t differs from s in the gangs of one team, in what it has at its boundary, and in what contexts keep of jobs. -/
structure Crossing (key : Nat) (s t : State) : Prop where
  placed : t.teams.map placed = s.teams.map placed
  grids  : t.grids = s.grids
  trust  : t.trust = s.trust
  clock  : t.clock = s.clock
  eng    : t.eng = s.eng
  mem    : t.mem = s.mem
  scope  : t.scope = s.scope
  others : ∀ v e, v ≠ key → t.gang? v e = s.gang? v e

section
variable {key : Nat} {s t u : State}

theorem Crossing.refl (key : Nat) (s : State) : Crossing key s s := ⟨rfl, rfl, rfl, rfl, rfl, rfl, rfl, fun _ _ _ => rfl⟩

theorem Crossing.trans (h : Crossing key s t) (k : Crossing key t u) : Crossing key s u :=
  ⟨k.placed.trans h.placed, k.grids.trans h.grids, k.trust.trans h.trust, k.clock.trans h.clock, k.eng.trans h.eng, k.mem.trans h.mem,
    k.scope.trans h.scope, fun v e hv => (k.others v e hv).trans (h.others v e hv)⟩

theorem Crossing.pending (h : Crossing key s t) : t.pending = s.pending := by
  rw [← pending_placed t, ← pending_placed s, h.placed]
  unfold State.pending State.outGroup State.groupOf State.kept State.grid?
  dsimp only
  rw [h.grids, h.trust]

theorem Crossing.racqWaits (h : Crossing key s t) (core : Nat) : t.racqWaits core = s.racqWaits core := by
  rw [← racqWaits_placed t, ← racqWaits_placed s, h.placed]
  unfold State.racqWaits State.team?
  dsimp only
  rw [h.eng]

theorem crossing_modTeam (s : State) (key : Nat) {f : Team → Team} (hf : ∀ v, PhaseBoundaries.placed (f v) = PhaseBoundaries.placed v) :
    Crossing key s (s.modTeam key f) := by
  have hkey : ∀ v, (f v).key = v.key := fun v => key_of_placed (hf v)
  refine ⟨?_, rfl, rfl, rfl, rfl, rfl, rfl, fun v e hv => ?_⟩
  · simp only [State.modTeam, mapIf, List.map_map]
    refine List.map_congr_left fun v _ => ?_
    simp only [Function.comp_apply]
    split
    · exact hf v
    · rfl
  · rw [State.gang?, team?_modTeam s key v f hkey, if_neg hv, State.gang?]

theorem crossing_modGang (s : State) (key b : Nat) (f : Gang → Gang) : Crossing key s (s.modGang key b f) := crossing_modTeam s key fun _ => rfl

end

/-! ### The team at the boundary -/

/-- Team v has what u has at its boundary, and its gangs are alike. -/
structure SameMeeting (u v : Team) : Prop where
  arrivals : v.arrivals = u.arrivals
  gangs    : ∀ e g, u.gang? e = some g → ∃ h, v.gang? e = some h ∧ Gang.Alike g h

theorem SameMeeting.refl (u : Team) : SameMeeting u u := ⟨rfl, fun _ g hg => ⟨g, hg, .refl g⟩⟩

theorem SameMeeting.trans {u v w : Team} (a : SameMeeting u v) (b : SameMeeting v w) : SameMeeting u w :=
  ⟨b.arrivals.trans a.arrivals, fun e g hg => by
    obtain ⟨h, hh, hgh⟩ := a.gangs e g hg
    obtain ⟨i, hi, hhi⟩ := b.gangs e h hh
    exact ⟨i, hi, hgh.trans hhi⟩⟩

theorem gang?_team_modGang (u : Team) (b e : Nat) {f : Gang → Gang} (hf : ∀ g, (f g).idx = g.idx) :
    (u.modGang b f).gang? e = (u.gang? e).map fun g => if g.idx = b then f g else g := by
  rw [Team.gang?, Team.modGang, find?_mapIf _ _ _ _ fun g => by rw [hf]]
  simp only [decide_eq_true_eq]
  rfl

theorem sameMeeting_modGang (u : Team) (b : Nat) {f : Gang → Gang} (hf : ∀ g, Gang.Alike g (f g)) : SameMeeting u (u.modGang b f) := by
  refine ⟨rfl, fun e g hg => ⟨if g.idx = b then f g else g, ?_, ?_⟩⟩
  · rw [gang?_team_modGang u b e fun g => (hf g).idx, hg]
    rfl
  · split
    · exact hf g
    · exact .refl g

/-- State t, which differs from s in the team's boundary, still has the team, alike. -/
structure Boundary (key : Nat) (s t : State) : Prop extends Crossing key s t where
  team : ∀ u, s.team? key = some u → ∃ v, t.team? key = some v ∧ SameMeeting u v

section
variable {key : Nat} {s t u : State}

theorem Boundary.refl (key : Nat) (s : State) : Boundary key s s := ⟨.refl key s, fun v hv => ⟨v, hv, .refl v⟩⟩

theorem Boundary.trans (h : Boundary key s t) (k : Boundary key t u) : Boundary key s u :=
  ⟨h.toCrossing.trans k.toCrossing, fun v hv => by
    obtain ⟨w, hw, hvw⟩ := h.team v hv
    obtain ⟨y, hy, hwy⟩ := k.team w hw
    exact ⟨y, hy, hvw.trans hwy⟩⟩

/-- The boundary observes a job of the team (R31, R218): flags of a gang alone change. -/
theorem boundary_mergeJob (s : State) (j : Job) : Boundary j.team s (s.mergeJob j) := by
  unfold State.mergeJob
  split
  · exact .refl _ s
  · have hctx : Boundary j.team s (s.modCtx j.ctx fun c =>
        { c with jobs := mapIf (fun i => decide (i.num = j.num)) (fun i => { i with merged := true }) c.jobs }) :=
      ⟨⟨rfl, rfl, rfl, rfl, rfl, rfl, rfl, fun _ _ _ => rfl⟩, fun v hv => ⟨v, hv, .refl v⟩⟩
    refine hctx.trans ⟨crossing_modGang _ _ _ _, fun v hv => ⟨v.modGang j.gang fun g => { g with flags := joinF g.flags j.flags }, ?_, ?_⟩⟩
    · rw [State.modGang, team?_modTeam _ _ _ (fun u => u.modGang j.gang fun g => { g with flags := joinF g.flags j.flags }) fun _ => rfl, if_pos rfl, hv]
      rfl
    · exact sameMeeting_modGang v _ fun g => .of_slices rfl rfl rfl rfl rfl rfl rfl

theorem boundary_foldl_mergeJob (js : List Job) (hjs : ∀ j ∈ js, j.team = key) (s : State) : Boundary key s (js.foldl State.mergeJob s) := by
  induction js generalizing s with
  | nil => exact .refl key s
  | cons j js ih =>
    have hj := boundary_mergeJob s j
    rw [hjs j (by simp)] at hj
    exact hj.trans (ih (fun i hi => hjs i (by simp [hi])) _)

theorem boundary_mergeBoundary (s : State) (v : Team) : Boundary v.key s (s.mergeBoundary v) := by
  refine boundary_foldl_mergeJob _ (fun j hj => ?_) s
  have hmine := (List.mem_filter.mp hj).2
  simp only [Bool.and_eq_true, decide_eq_true_eq] at hmine
  obtain ⟨⟨_, hteam⟩, _⟩ := hmine
  exact hteam

end

/-! ### Passing the boundary of a team of no group -/

theorem team_placed {key : Nat} {s t : State} (h : Crossing key s t) (a : Nat) : (t.team? a).map placed = (s.team? a).map placed := by
  have hteam : ∀ u : State, (u.team? a).map placed = (u.teams.map placed).find? fun v => decide (v.key = a) := fun u => by
    rw [State.team?, List.find?_map]
    rfl
  rw [hteam, hteam, h.placed]

theorem liveGroup_eq {s : State} {u : Team} (hgroup : u.group ≤ 1) (hended : u.ended = false) : s.liveGroup u = [u] := by
  rw [State.liveGroup, State.groupOf, if_pos hgroup, List.filter_cons_of_pos (by simp [hended])]
  rfl

/-- No pending work may take the place of a team of priority prio (R378). -/
def Unasked (s : State) (prio : Int) : Prop := ∀ p ∈ s.pending, p.prio < prio ∨ (p.prio = prio ∧ s.clock.cycle - p.since < 1594323)

theorem wantsCore_eq_false {s : State} {u : Team} {r : Grid} (hgrid : s.grid? u.grid = some r) (h : Unasked s r.prio) : s.wantsCore [u] = false := by
  unfold State.wantsCore
  simp only [hgrid]
  refine List.any_eq_false.mpr fun p hp => ?_
  have hcase := h p hp
  simp only [Bool.and_eq_true, Bool.or_eq_true, decide_eq_true_eq, not_and_or, not_or]
  exact .inl ⟨by omega, by omega⟩

theorem placed_pass (u : Team) : placed u.pass = placed u := by
  unfold Team.pass
  dsimp only
  split <;> rfl

theorem passGang_idx (u : Team) (g : Gang) : (u.passGang g).idx = g.idx := by
  cases h : u.arrivalsOf g.idx with
  | nil => rw [Team.passGang, h]
  | cons a as =>
    rw [passGang_eq h]
    show (g.shed a).idx = g.idx
    unfold Gang.shed
    dsimp only
    split <;> exact g.release_idx _

theorem pass_gang? (u : Team) (e : Nat) : u.pass.gang? e = (u.gang? e).map u.passGang := by
  have hgangs : u.pass.gangs = u.gangs.map u.passGang := by
    unfold Team.pass
    dsimp only
    split <;> rfl
  rw [Team.gang?, hgangs, List.find?_map, Team.gang?]
  simp only [Function.comp_def, passGang_idx]

theorem team?_passed {s : State} {u w : Team} (hw : (s.mergeBoundary u).team? u.key = some w) :
    ((s.mergeBoundary u).modTeam u.key Team.pass).team? u.key = some w.pass := by
  have hkey : ∀ v : Team, v.pass.key = v.key := fun v => key_of_placed (placed_pass v)
  rw [team?_modTeam _ _ _ Team.pass hkey, if_pos rfl, hw]
  rfl

section
variable {s : State} {u : Team} {r : Grid} (hteam : s.team? u.key = some u) (hgroup : u.group ≤ 1) (hended : u.ended = false)
  (hgrid : s.grid? u.grid = some r) (hasked : Unasked s r.prio)

/-- The state past the boundary. -/
def crossed (s : State) (u : Team) : State := ((s.mergeBoundary u).modTeam u.key Team.pass).modTeam u.key fun v => { v with arrivals := [] }

include hteam

theorem crossed_spec : Crossing u.key s (crossed s u) ∧
    ∃ w, SameMeeting u w ∧ (crossed s u).team? u.key = some { w.pass with arrivals := [] } := by
  have hmerge := boundary_mergeBoundary s u
  obtain ⟨w, hw, hsame⟩ := hmerge.team u hteam
  refine ⟨(hmerge.toCrossing.trans (crossing_modTeam _ _ placed_pass)).trans (crossing_modTeam _ _ fun _ => rfl), w, hsame, ?_⟩
  rw [crossed, team?_modTeam _ _ _ (fun v => { v with arrivals := [] }) fun _ => rfl, if_pos rfl, team?_passed hw]
  rfl

include hgroup hended hgrid hasked

theorem passBoundary_eq (hforms : u.formsDiffer = false) (hwaits : s.racqWaits u.core = false) : s.passBoundary u = crossed s u := by
  have hmerge := boundary_mergeBoundary s u
  obtain ⟨w, hw, _⟩ := hmerge.team u hteam
  have hpass : Crossing u.key s ((s.mergeBoundary u).modTeam u.key Team.pass) := hmerge.toCrossing.trans (crossing_modTeam _ _ placed_pass)
  have hown := team?_passed hw
  have hplaced := team_placed hpass u.key
  rw [hown, hteam, Option.map_some, Option.map_some, Option.some_inj] at hplaced
  have hkey : w.pass.key = u.key := key_of_placed hplaced
  have hat : w.pass.grid = u.grid := grid_of_placed hplaced
  have hback : ((s.mergeBoundary u).modTeam u.key Team.pass).blocksReturned u.core = (s.mergeBoundary u).modTeam u.key Team.pass :=
    RegisterBlocks.blocksReturned_of_not_waits ((hpass.racqWaits _).trans hwaits)
  have hfree : ((s.mergeBoundary u).modTeam u.key Team.pass).wantsCore [w.pass] = false := by
    refine wantsCore_eq_false (r := r) ?_ ?_
    · rw [hat, State.grid?, hpass.grids]
      exact hgrid
    · rw [Unasked, hpass.pending, hpass.clock]
      exact hasked
  rw [State.passBoundary, liveGroup_eq hgroup hended]
  simp only [List.filter_cons, hforms, List.filter_nil, Bool.false_eq_true, if_false, ne_eq, not_true, List.foldl_cons, List.foldl_nil, hback,
    List.filterMap_cons, hown, List.filterMap_nil, hfree, hkey]
  rfl

end

end Sys2Proof.Proofs.PhaseBoundaries

/-! PHASE: arrivals at a boundary, of which the last passes it (R125, R146). -/
namespace Sys2Proof.Proofs.PhaseBoundaries
open Sys2Proof.Machine

/-! ### Gangs alike that arrive -/

theorem alike_dead {g h : Gang} (a : Gang.Alike g h) : h.dead = g.dead := by
  rw [Bool.eq_iff_iff, Gang.dead_iff, Gang.dead_iff, a.length]
  simp only [fun k => (a.slice k).ended]

theorem alike_liveSlices {g h : Gang} (a : Gang.Alike g h) : h.liveSlices = g.liveSlices := by
  simp only [Gang.liveSlices, a.length, fun k => (a.slice k).ended]

/-- The arrivals of slices of a PHASE. -/
def newArrivals (x : Iss) (a b : SReg) (tiles : Bool) : List Arrival :=
  x.slices.map fun k => ⟨x.issue.gang, k, carriedBlocks (x.s x.low a), x.s k b, tiles⟩

/-- The gang whose slices wait at the boundary. -/
def arrivedGang (x : Iss) (g : Gang) : Gang := (x.ticked g).modSlices x.slices fun _ y => { y with wait := some .boundary, fate := .waits }

theorem alike_arrivedGang (x : Iss) (g : Gang) : Gang.Alike g (arrivedGang x g) :=
  (x.alike_ticked g).trans (Gang.alike_modSlices _ _ fun _ _ => ⟨rfl, rfl, rfl, rfl⟩)

/-- The team with the arrivals. -/
def arrivedTeam (x : Iss) (new : List Arrival) : Team :=
  { x.team.modGang x.issue.gang (arrivedGang x) with arrivals := x.team.arrivals ++ new }

/-- The team with arrivals that count, where BAR has opened the phase of the team phaser, for that phase too (log 85). -/
def arriving (x : Iss) (new : List Arrival) (u : Team) : Team :=
  { (if u.bar.parts = [] then u else u.barArrive x.issue.gang x.slices u.phaseSet) with arrivals := u.arrivals ++ new }

/-- The state with the arrivals. -/
def arrivedState (x : Iss) (new : List Arrival) (s0 : State) : State :=
  x.modSlices (fun _ y => { y with wait := some .boundary, fate := .waits }) ((x.begun s0).modTeam x.issue.team (arriving x new))

theorem arriving_gangs (x : Iss) (new : List Arrival) (u : Team) : (arriving x new u).gangs = u.gangs := by
  unfold arriving
  split
  · rfl
  · rw [Meetings.barArrive_eq]
    exact Meetings.testBar_gangs _

theorem placed_arriving (x : Iss) (new : List Arrival) (u : Team) : placed (arriving x new u) = placed u := by
  unfold arriving
  split
  · rfl
  · rw [Meetings.barArrive_eq]
    unfold Team.testBar
    dsimp only
    split <;> rfl

theorem mem_arrivedTeam_gangs {x : Iss} {new : List Arrival} {h : Gang} (hh : h ∈ (arrivedTeam x new).gangs) :
    ∃ g ∈ x.team.gangs, Gang.Alike g h := by
  obtain ⟨g, hg, rfl⟩ := List.mem_map.mp hh
  refine ⟨g, hg, ?_⟩
  dsimp only
  split
  · exact alike_arrivedGang x g
  · exact .refl g

theorem arrivedTeam_gang? (x : Iss) (new : List Arrival) {e : Nat} {g : Gang} (hg : x.team.gang? e = some g) :
    ∃ h, (arrivedTeam x new).gang? e = some h ∧ Gang.Alike g h :=
  (sameMeeting_modGang x.team x.issue.gang (alike_arrivedGang x)).gangs e g hg

/-- A gang of another number stands as it did. -/
theorem mem_arrivedTeam_of_ne {x : Iss} {new : List Arrival} {g : Gang} (hg : g ∈ x.team.gangs) (hne : g.idx ≠ x.issue.gang) :
    g ∈ (arrivedTeam x new).gangs :=
  List.mem_map.mpr ⟨g, hg, by simp [hne]⟩

theorem crossing_arrivedState (s0 : State) (x : Iss) (new : List Arrival) : Crossing x.issue.team s0 (arrivedState x new s0) :=
  ((crossing_modGang s0 _ _ _).trans (crossing_modTeam _ _ (placed_arriving x new))).trans (crossing_modGang _ _ _ _)

section
variable {s s0 : State} {x : Iss} {new : List Arrival} (hx : Issues s true s0 x)
include hx

theorem gang?_arrivedState (v e : Nat) : (arrivedState x new s0).gang? v e =
    if v = x.issue.team ∧ e = x.issue.gang then some (arrivedGang x x.gang) else s0.gang? v e := by
  have hkey : ∀ u, (arriving x new u).key = u.key := fun u => key_of_placed (placed_arriving x new u)
  have hwait := gang?_modGang ((x.begun s0).modTeam x.issue.team (arriving x new)) x.issue.team x.issue.gang v e
    (fun g => g.modSlices x.slices fun _ y => { y with wait := some .boundary, fate := .waits }) fun _ => rfl
  have hbegun := gang?_modGang s0 x.issue.team x.issue.gang v e x.ticked x.ticked_idx
  have hown := gang?_modGang s0 x.issue.team x.issue.gang x.issue.team x.issue.gang x.ticked x.ticked_idx
  rw [if_pos ⟨rfl, rfl⟩, hx.gang] at hown
  refine hwait.trans ?_
  rw [gang?_modTeam_of_gangs _ _ _ _ _ hkey (arriving_gangs x new), gang?_modTeam_of_gangs _ _ _ _ _ hkey (arriving_gangs x new), Iss.begun]
  split
  · rw [← Iss.begun]
    exact congrArg (Option.map _) hown
  · next hne => exact hbegun.trans (if_neg hne)

theorem team?_arrivedState (hbar : x.team.bar.parts = []) : (arrivedState x new s0).team? x.issue.team = some (arrivedTeam x new) := by
  have hkey : ∀ u, (arriving x new u).key = u.key := fun u => key_of_placed (placed_arriving x new u)
  have hwait := team?_modTeam ((x.begun s0).modTeam x.issue.team (arriving x new)) x.issue.team x.issue.team
    (fun u => u.modGang x.issue.gang fun g => g.modSlices x.slices fun _ y => { y with wait := some .boundary, fate := .waits }) fun _ => rfl
  rw [if_pos rfl, team?_modTeam _ _ _ _ hkey, if_pos rfl, Meetings.team?_begun hx] at hwait
  refine hwait.trans (congrArg some ?_)
  have hopen : arriving x new (x.team.modGang x.issue.gang x.ticked) =
      { x.team.modGang x.issue.gang x.ticked with arrivals := x.team.arrivals ++ new } := by
    rw [arriving, if_pos (by exact hbar)]
    rfl
  rw [hopen]
  have hgangs := mapIf_mapIf (fun g : Gang => decide (g.idx = x.issue.gang)) (fun g => g.modSlices x.slices fun _ y =>
    { y with wait := some .boundary, fate := .waits }) x.ticked x.team.gangs fun g => by rw [x.ticked_idx]
  simp only [Team.modGang, arrivedTeam, hgangs]
  rfl

end

/-! ### PHASE -/

/-- The slices of the issue set agree with one another, and with the arrivals of their gang, on the form and the blocks that they carry. -/
structure Agreeing (x : Iss) (a : SReg) (tiles : Bool) : Prop where
  slices   : ∀ k ∈ x.slices, ∀ i < 9, (tritAt i (x.s k a) = 1 ↔ tritAt i (x.s x.low a) = 1)
  arrivals : ∀ c ∈ x.team.arrivals, c.gang = x.issue.gang → c.blocks = carriedBlocks (x.s x.low a) ∧ c.tiles = tiles

theorem phaseDiffers_eq_false {x : Iss} {a : SReg} {tiles : Bool} (h : Agreeing x a tiles) : x.phaseDiffers tiles a = false := by
  have hsets : ∀ k ∈ x.slices, carriedBlocks (x.s k a) = carriedBlocks (x.s x.low a) := fun k hk => by
    have hfilter : plusTrits 9 (x.s k a) = plusTrits 9 (x.s x.low a) :=
      List.filter_congr fun i hi => decide_eq_decide.mpr (h.slices k hk i (List.mem_range.mp hi))
    rw [carriedBlocks, hfilter, carriedBlocks]
  unfold Iss.phaseDiffers
  dsimp only
  rw [Bool.or_eq_false_iff, List.any_eq_false, List.any_eq_false]
  refine ⟨fun k hk => by simp [hsets k hk], fun c hc => ?_⟩
  obtain ⟨hmem, hgang⟩ := List.mem_filter.mp hc
  obtain ⟨hblocks, htiles⟩ := h.arrivals c hmem (of_decide_eq_true hgang)
  simp [hblocks, htiles]

/-- What PHASE does with the arrivals. -/
def phased (x : Iss) (new : List Arrival) (s0 : State) : State :=
  ((arrivedState x new s0).boundaryTurn (arrivedTeam x new) fun s => s.passBoundary (arrivedTeam x new)).getD (arrivedState x new s0)

theorem exec_phase {i : Instr} {s s0 : State} {x : Iss} {a b : SReg} {tiles : Bool} (hx : Issues s true s0 x)
    (he : exec i s = phaseArrive tiles a b s) (hbar : x.team.bar.parts = []) (h : Agreeing x a tiles) :
    exec i s = .next (x.finish s0 (phased x (newArrivals x a b tiles) s0)) := by
  refine syncIssue_next (ds := []) hx (by simp [Iss.clear]) he rfl ?_
  dsimp only
  rw [phaseDiffers_eq_false h, if_neg (by simp), if_pos hbar]
  have hteam := team?_arrivedState (new := newArrivals x a b tiles) hx hbar
  dsimp only
  split
  · next u hu =>
    obtain rfl := Option.some.inj (hteam.symm.trans hu)
    rfl
  · next hnone => cases hteam.symm.trans hnone

/-! ### A boundary that is not yet passed -/

/-- A slice of another gang has not arrived. -/
def Missing (x : Iss) : Prop :=
  ∃ g ∈ x.team.live, g.idx ≠ x.issue.gang ∧ ∃ k ∈ g.liveSlices, ∀ c ∈ x.team.arrivals, c.gang = g.idx → c.slice ≠ k

theorem teamAtBoundary_of_missing {x : Iss} (h : Missing x) (a b : SReg) (tiles : Bool) (s : State) :
    s.teamAtBoundary (arrivedTeam x (newArrivals x a b tiles)) = false := by
  obtain ⟨g, hg, hidx, k, hk, hnone⟩ := h
  obtain ⟨hmem, hlive⟩ := List.mem_filter.mp hg
  have hin : g ∈ (arrivedTeam x (newArrivals x a b tiles)).live := List.mem_filter.mpr ⟨mem_arrivedTeam_of_ne hmem hidx, hlive⟩
  have hany : ((arrivedTeam x (newArrivals x a b tiles)).arrivals.any fun c => decide (c.gang = g.idx) && decide (c.slice = k)) = false := by
    refine List.any_eq_false.mpr fun c hc => ?_
    simp only [Bool.and_eq_true, decide_eq_true_eq, not_and]
    rcases List.mem_append.mp hc with hold | hnew
    · exact hnone c hold
    · obtain ⟨j, _, rfl⟩ := List.mem_map.mp hnew
      exact fun heq => absurd heq.symm hidx
  have hall : (g.liveSlices.all fun k => (arrivedTeam x (newArrivals x a b tiles)).arrivals.any fun c =>
      decide (c.gang = g.idx) && decide (c.slice = k)) = false := List.all_eq_false.mpr ⟨k, hk, by rw [hany]; simp⟩
  rw [State.teamAtBoundary, Bool.and_eq_false_iff]
  exact .inr (List.all_eq_false.mpr ⟨g, hin, by rw [hall]; simp⟩)

theorem mem_liveGroup_self {s : State} {u : Team} (hteam : s.team? u.key = some u) (hended : u.ended = false) : u ∈ s.liveGroup u := by
  refine List.mem_filter.mpr ⟨?_, by simp [hended]⟩
  unfold State.groupOf
  split
  · exact List.mem_singleton_self u
  · exact List.mem_filter.mpr ⟨List.mem_of_find?_eq_some hteam, by simp⟩

theorem phased_of_missing {s s0 : State} {x : Iss} (hx : Issues s true s0 x) (hbar : x.team.bar.parts = []) (hended : x.team.ended = false)
    (h : Missing x) (a b : SReg) (tiles : Bool) : phased x (newArrivals x a b tiles) s0 = arrivedState x (newArrivals x a b tiles) s0 := by
  obtain ⟨_, hkey⟩ := Meetings.team_of_issues hx
  have hteam : (arrivedState x (newArrivals x a b tiles) s0).team? (arrivedTeam x (newArrivals x a b tiles)).key =
      some (arrivedTeam x (newArrivals x a b tiles)) := by
    rw [show (arrivedTeam x (newArrivals x a b tiles)).key = x.issue.team from hkey]
    exact team?_arrivedState hx hbar
  have hgroup : (arrivedState x (newArrivals x a b tiles) s0).groupArrived (arrivedTeam x (newArrivals x a b tiles)) = false := by
    have hall : ((arrivedState x (newArrivals x a b tiles) s0).liveGroup (arrivedTeam x (newArrivals x a b tiles))).all
        (fun u => (arrivedState x (newArrivals x a b tiles) s0).teamAtBoundary u) = false :=
      List.all_eq_false.mpr ⟨_, mem_liveGroup_self hteam hended, by rw [teamAtBoundary_of_missing h]; simp⟩
    rw [State.groupArrived]
    rw [hall]
    rfl
  have hready : (arrivedState x (newArrivals x a b tiles) s0).boundaryReady (arrivedTeam x (newArrivals x a b tiles)) = false := by
    rw [State.boundaryReady]
    rw [hgroup]
    rfl
  rw [phased, State.boundaryTurn, hready, hgroup]
  rfl

/-- PHASE before the last arrival: the slices wait. -/
theorem phase_waits {i : Instr} {s s0 : State} {x : Iss} {a b : SReg} {tiles : Bool} (hx : Issues s true s0 x)
    (he : exec i s = phaseArrive tiles a b s) (hagree : Agreeing x a tiles) (hmissing : Missing x) (hbar : x.team.bar.parts = [])
    (hended : x.team.ended = false) :
    ∃ t, exec i s = .next t ∧ Kept s0 t x {} ∧ Waits s0 t x (fun _ => some .boundary) ∧
      (t.team? x.issue.team).map Team.arrivals = some (x.team.arrivals ++ newArrivals x a b tiles) := by
  have hexec := exec_phase hx he hbar hagree
  rw [phased_of_missing hx hbar hended hmissing] at hexec
  have hq : (arrivedState x (newArrivals x a b tiles) s0).heldRecords x.ctx.agency = 0 := hx.quiet
  have hgangs := gang?_arrivedState (new := newArrivals x a b tiles) hx
  have hown := (hgangs x.issue.team x.issue.gang).trans (if_pos ⟨rfl, rfl⟩)
  refine ⟨_, hexec, finish_kept hq hx.gang hown ((SameRegs.ticked _ x).trans (.modSlices _ _ fun _ _ => rfl))
    (fun v e hve => (hgangs v e).trans (if_neg fun h => hve (Prod.ext h.1 h.2))) (fun _ _ => rfl) rfl, fun k hk => ?_, ?_⟩
  · have hl : k < (x.ticked x.gang).slices.length := by rw [x.ticked_slices]; exact (hx.inGang k hk).1
    have hend := finish_gang? (s0 := s0) hq x.issue.team x.issue.gang
    rw [if_pos ⟨rfl, rfl⟩, hown] at hend
    simp only [State.slc, State.pcOf, hend, hx.gang, Option.map_some, Gang.finished_wait, Gang.finished_pc, arrivedGang, Gang.slice_modSlices,
      if_pos (And.intro hl hk), x.ticked_slice, and_self]
  · rw [finish_team? hq, if_pos rfl, team?_arrivedState hx hbar]
    rfl

/-! ### The last arrival -/

/-- Every slice of the team has arrived, and nothing of its gangs is under way (R125). -/
def AllArrived (s0 : State) (x : Iss) (as : List Arrival) : Prop :=
  ∀ g ∈ x.team.live, (∀ k ∈ g.liveSlices, ∃ c ∈ as, c.gang = g.idx ∧ c.slice = k) ∧ g.ops = [] ∧
    (∀ c ∈ s0.eng.copies, c.team = x.issue.team → c.gang ≠ g.idx) ∧
    ∀ c ∈ s0.ctxs, ∀ j ∈ c.jobs, j.team = x.issue.team → j.gang = g.idx → j.state = .visible ∨ j.state = .finished

/-- A team that has arrived whole, of no group, for whose place no work asks. -/
structure Passable (s0 : State) (x : Iss) (a b : SReg) (tiles : Bool) : Prop where
  agree  : Agreeing x a tiles
  forms  : ∀ c ∈ x.team.arrivals, c.tiles = tiles
  slices : x.slices ≠ []
  group  : x.team.group ≤ 1
  bar    : x.team.bar.parts = []
  place  : x.team.place = .resident
  live   : x.team.ended = false
  whole  : AllArrived s0 x (x.team.arrivals ++ newArrivals x a b tiles)
  asked  : Unasked s0 x.grid.prio
  pool   : s0.racqWaits x.team.core = false

section
variable {s s0 : State} {x : Iss} {a b : SReg} {tiles : Bool} (hx : Issues s true s0 x) (h : Passable s0 x a b tiles)
include hx h

theorem teamAtBoundary_of_passable :
    (arrivedState x (newArrivals x a b tiles) s0).teamAtBoundary (arrivedTeam x (newArrivals x a b tiles)) = true := by
  obtain ⟨_, hkey⟩ := Meetings.team_of_issues hx
  have hplace : (arrivedTeam x (newArrivals x a b tiles)).place = .resident := h.place
  rw [State.teamAtBoundary, hplace, decide_eq_true rfl, Bool.true_and, List.all_eq_true]
  intro g hg
  obtain ⟨hmem, hlive⟩ := List.mem_filter.mp hg
  obtain ⟨g0, hg0, halike⟩ := mem_arrivedTeam_gangs hmem
  rw [alike_dead halike] at hlive
  obtain ⟨hslices, hops, hcopies, hjobs⟩ := h.whole g0 (List.mem_filter.mpr ⟨hg0, hlive⟩)
  simp only [Bool.and_eq_true]
  refine ⟨⟨⟨List.all_eq_true.mpr fun k hk => ?_, by rw [halike.ops, hops]; rfl⟩, ?_⟩, ?_⟩
  · rw [alike_liveSlices halike] at hk
    obtain ⟨c, hc, hgang, hslice⟩ := hslices k hk
    exact List.any_eq_true.mpr ⟨c, hc, by simp [hgang, hslice, halike.idx]⟩
  · rw [Bool.not_eq_true', List.any_eq_false]
    intro c hc
    simp only [Bool.and_eq_true, decide_eq_true_eq, not_and, halike.idx]
    exact fun hteam => hcopies c hc (hteam.trans hkey)
  · refine List.all_eq_true.mpr fun c hc => List.all_eq_true.mpr fun j hj => ?_
    by_cases hteam : j.team = x.team.key
    · by_cases hgang : j.gang = g.idx
      · rcases hjobs c hc j hj (hteam.trans hkey) (hgang.trans halike.idx) with hstate | hstate <;> simp [hstate, JobState.isVisible]
      · simp [hgang]
    · have hne : j.team ≠ (arrivedTeam x (newArrivals x a b tiles)).key := hteam
      simp [hne]

theorem unasked_arrived : (arrivedState x (newArrivals x a b tiles) s0).grid? (arrivedTeam x (newArrivals x a b tiles)).grid = some x.grid ∧
    Unasked (arrivedState x (newArrivals x a b tiles) s0) x.grid.prio := by
  have hcross := crossing_arrivedState s0 x (newArrivals x a b tiles)
  obtain ⟨_, _, _, hiss⟩ := issuing_eq s s0 true x hx.found
  obtain ⟨_, _, _, hgrid, _⟩ := iss?_eq s0 x hiss
  refine ⟨hgrid, ?_⟩
  rw [Unasked, hcross.pending, hcross.clock]
  exact h.asked

theorem phased_of_passable : phased x (newArrivals x a b tiles) s0 =
    crossed (arrivedState x (newArrivals x a b tiles) s0) (arrivedTeam x (newArrivals x a b tiles)) := by
  obtain ⟨_, hkey⟩ := Meetings.team_of_issues hx
  obtain ⟨hgrid, hasked⟩ := unasked_arrived hx h
  have hteam : (arrivedState x (newArrivals x a b tiles) s0).team? (arrivedTeam x (newArrivals x a b tiles)).key =
      some (arrivedTeam x (newArrivals x a b tiles)) := by
    rw [show (arrivedTeam x (newArrivals x a b tiles)).key = x.issue.team from hkey]
    exact team?_arrivedState hx h.bar
  have hgroup := liveGroup_eq (s := arrivedState x (newArrivals x a b tiles) s0) (u := arrivedTeam x (newArrivals x a b tiles)) h.group h.live
  have hsome : (arrivedTeam x (newArrivals x a b tiles)).arrivals.isEmpty = false := by
    obtain ⟨k, ks, hks⟩ := List.exists_cons_of_ne_nil h.slices
    simp [arrivedTeam, newArrivals, hks]
  have hready : (arrivedState x (newArrivals x a b tiles) s0).boundaryReady (arrivedTeam x (newArrivals x a b tiles)) = true := by
    rw [State.boundaryReady, State.groupArrived, hgroup, wantsCore_eq_false hgrid hasked]
    simp [teamAtBoundary_of_passable hx h, hsome]
  have hforms : (arrivedTeam x (newArrivals x a b tiles)).formsDiffer = false := by
    have htiles : ∀ c ∈ (arrivedTeam x (newArrivals x a b tiles)).arrivals, c.tiles = tiles := fun c hc => by
      rcases List.mem_append.mp hc with hold | hnew
      · exact h.forms c hold
      · obtain ⟨k, _, rfl⟩ := List.mem_map.mp hnew
        rfl
    rw [Team.formsDiffer, Bool.and_eq_false_iff, Bool.and_eq_false_iff]
    cases tiles
    · exact .inl (.inr (List.any_eq_false.mpr fun c hc => by simp [htiles c hc]))
    · exact .inr (List.any_eq_false.mpr fun c hc => by simp [htiles c hc])
  have hwaits := ((crossing_arrivedState s0 x (newArrivals x a b tiles)).racqWaits x.team.core).trans h.pool
  rw [phased, State.boundaryTurn, hready, if_pos rfl, Option.getD_some]
  exact passBoundary_eq hteam h.group h.live hgrid hasked hforms hwaits

/-- The team of the issue set past the boundary. -/
theorem phased_team? : Crossing x.issue.team s0 (phased x (newArrivals x a b tiles) s0) ∧
    ∃ w, SameMeeting (arrivedTeam x (newArrivals x a b tiles)) w ∧
      (phased x (newArrivals x a b tiles) s0).team? x.issue.team = some { w.pass with arrivals := [] } := by
  obtain ⟨_, hkey⟩ := Meetings.team_of_issues hx
  have hteam := team?_arrivedState (new := newArrivals x a b tiles) hx h.bar
  have hat : (arrivedTeam x (newArrivals x a b tiles)).key = x.issue.team := hkey
  rw [← hat] at hteam
  obtain ⟨hcross, w, hw, hpast⟩ := crossed_spec hteam
  rw [phased_of_passable hx h]
  rw [hat] at hcross hpast
  exact ⟨(crossing_arrivedState s0 x _).trans hcross, w, hw, hpast⟩

end

/-- What the end of the instruction leaves of a gang past the boundary. -/
theorem finish_gang?_alike {s0 s3 : State} {x : Iss} (hq : s3.heldRecords x.ctx.agency = 0) {e : Nat} {p : Gang} (hp : s3.gang? x.issue.team e = some p) :
    ∃ h, (x.finish s0 s3).gang? x.issue.team e = some h ∧ h.blocks = p.blocks ∧
      ∀ k, (h.slice k).pc = (p.slice k).pc ∧ (h.slice k).wait = (p.slice k).wait ∧ ∀ r, (h.slice k).get r = (p.slice k).get r := by
  rw [finish_gang? hq]
  by_cases he : e = x.issue.gang
  · rw [if_pos ⟨rfl, he⟩, hp]
    exact ⟨p.finished x.slices, rfl, rfl, fun k => ⟨p.finished_pc _ k, p.finished_wait _ k, Gang.finished_get p _ k⟩⟩
  · rw [if_neg fun hand => he hand.2]
    exact ⟨p, hp, rfl, fun _ => ⟨rfl, rfl, fun _ => rfl⟩⟩

/-- PHASE with the last arrival: the boundary is passed. -/
theorem phase_passes {i : Instr} {s s0 : State} {x : Iss} {a b : SReg} {tiles : Bool} (hx : Issues s true s0 x)
    (he : exec i s = phaseArrive tiles a b s) (hpass : Passable s0 x a b tiles) :
    ∃ t, exec i s = .next t ∧ (∀ p, t.hbmAt p = s0.hbmAt p) ∧ (∀ v e, v ≠ x.issue.team → t.gang? v e = s0.gang? v e) ∧
      (t.team? x.issue.team).map Team.arrivals = some [] ∧
      ∀ e g, x.team.gang? e = some g → g.bank = none → (∀ i < 9, tritAt i g.blocks ≠ -1) →
        ∀ c ds, (x.team.arrivals ++ newArrivals x a b tiles).filter (fun c => decide (c.gang = e)) = c :: ds →
          ∃ h, t.gang? x.issue.team e = some h ∧
            (∀ i < 9, h.holds i = true ↔ (g.holds i = true ∧ tritAt i c.blocks = 1)) ∧
            ∀ k < g.slices.length, ∀ d, (c :: ds).find? (fun c => decide (c.slice = k)) = some d →
              (h.slice k).pc = (g.slice k).pc + 3 ∧ (h.slice k).wait = none ∧
              ∀ r : SReg, (h.slice k).get r = if tritAt r.val d.scalars = 1 then (g.slice k).get r else 0 := by
  obtain ⟨hcross, w, hw, hteam⟩ := phased_team? hx hpass
  have hq : (phased x (newArrivals x a b tiles) s0).heldRecords x.ctx.agency = 0 := by
    rw [State.heldRecords, State.cfg?, hcross.scope]
    exact hx.quiet
  refine ⟨_, exec_phase hx he hpass.bar hpass.agree, fun p => ?_, fun v e hv => ?_, ?_, fun e g hg hbank _ c ds hcs => ?_⟩
  · rw [finish_hbmAt hq, State.hbmAt, hcross.mem, State.hbmAt]
  · rw [finish_gang? hq, if_neg fun hand => hv hand.1]
    exact hcross.others v e hv
  · rw [finish_team? hq, if_pos rfl, hteam]
    rfl
  · obtain ⟨g1, hg1, hgg1⟩ := arrivedTeam_gang? x (newArrivals x a b tiles) hg
    obtain ⟨g2, hg2, hg12⟩ := hw.gangs e g1 hg1
    have halike := hgg1.trans hg12
    have hidx : g2.idx = e := find?_key Gang.idx _ _ _ hg2
    have harrivals : w.arrivalsOf g2.idx = c :: ds := by
      rw [Team.arrivalsOf, hw.arrivals, hidx]
      exact hcs
    have hbank2 : g2.bank = none := halike.bank.trans hbank
    have hpast : (phased x (newArrivals x a b tiles) s0).gang? x.issue.team e = some (w.passGang g2) := by
      rw [State.gang?, hteam]
      show w.pass.gang? e = _
      rw [pass_gang?, hg2]
      rfl
    obtain ⟨h, hh, hblocks, hslices⟩ := finish_gang?_alike (s0 := s0) hq hpast
    refine ⟨h, hh, fun j hj => ?_, fun k hk d hd => ?_⟩
    · have hholds := passGang_holds harrivals hbank2 hj
      simp only [Gang.holds, hblocks, halike.blocks] at hholds ⊢
      exact hholds
    · obtain ⟨hpc, hwait, hget⟩ := passGang_slice harrivals hbank2 (by rw [halike.length]; exact hk) hd
      obtain ⟨hpc', hwait', hget'⟩ := hslices k
      have hslice := halike.slice k
      refine ⟨hpc'.trans (hpc.trans (by rw [hslice.pc])), hwait'.trans hwait, fun r => (hget' r).trans ((hget r).trans ?_)⟩
      rw [Slice.get, hslice.s, Slice.get]

theorem exec_phase_rows {a b : SReg} : ∀ row ∈ ([(.phase, false), (.phaseT, true)] : List ((SReg → SReg → Instr) × Bool)),
    ∀ s, exec (row.1 a b) s = phaseArrive row.2 a b s := by
  simp only [List.mem_cons, List.not_mem_nil, or_false]
  rintro row (rfl | rfl) s <;> rfl

/-- Settles O38: an arrival waits at the boundary until the last, with which the team passes it. -/
theorem phaseBoundaries : Obligations.PhaseBoundaries := by
  refine ⟨fun row hrow s s0 x a b hx hsets => ?_, fun row hrow s s0 x a b hx hne hsets => ?_, fun u g a as harrivals hbank _ => ?_⟩
  · intro set harrivals hmissing hbar _ hended
    exact phase_waits hx (exec_phase_rows row hrow s) ⟨hsets, harrivals⟩ hmissing hbar hended
  · intro set as harrivals hgroup hbar hplace hended hwhole hasked hpool
    exact phase_passes hx (exec_phase_rows row hrow s)
      ⟨⟨hsets, fun c hc hgang => ⟨(harrivals c hc).1 hgang, (harrivals c hc).2⟩⟩, fun c hc => (harrivals c hc).2, hne, hgroup, hbar, hplace, hended,
        hwhole, hasked, hpool⟩
  · exact ⟨fun i hi => passGang_holds harrivals hbank hi, fun v l hl => passGang_lane harrivals hbank v hl,
      fun k hk c hc => passGang_slice harrivals hbank hk hc⟩

end Sys2Proof.Proofs.PhaseBoundaries

/-! A gang that looks at its own pending results through a debug window (R267, R360) finds them as its instruction, once begun, has left their windows
(R50). -/
namespace Sys2Proof.Proofs.OwnWindows
open Sys2Proof.Machine

/-- The demonstration gang, halted, with a debug window onto itself whose line of pending results has its address in s5, and with one result pending
for 5 more instructions. -/
def peeping : State :=
  let s := State.reset.demo
  let t : State := { s with grids := [demoGrid], teams := [Team.fresh s demoGrid 1 0 0 0 0 [0]],
                            cur := some { team := 1, gang := 0, slices := [0], words := [0], apart := false },
                            scope := { s.scope with windows := [(0, gangName s.modul 1 0, gangName s.modul 1 0)] } }
  t.modGang 1 0 fun g => { (g.modSlices [0] fun _ y => y.set 5 (debugBase + 69255)) with
    halt := some .haltg, pending := [{ slices := [0], dest := .sca 0 7, writes := [(0, 1)], flags := 0, remaining := 5 }] }

theorem isSome_issuing_peeping : (peeping.issuing false).isSome = true := by decide +kernel

/-- The state in which the gang's next instruction finds it, and its issue set. -/
def viewer : State × Iss := (peeping.issuing false).get isSome_issuing_peeping

theorem issues_peeping : Issues peeping false viewer.1 viewer.2 :=
  ⟨(Option.some_get isSome_issuing_peeping).symm, by decide +kernel, by decide +kernel⟩

/-- VLD of the line at s5 into v1. -/
def peep : VmemF := { attr := none, d := 1, base := 5, off := 0, la := 0 }

/-- What VLD uses. -/
def peepUses : Uses :=
  { Uses.none with dests := [.vec 1], vregs := [1], accs := (viewer.2.active none 0).map (viewer.2.vmemAcc peep .load),
                   opens := if (0 : Fin 27).val = 0 ∨ viewer.2.lanes = [] then 0 else 1, leases := true }

/-- The places that the lanes read: the first words of the line. -/
def peepPlaces : List (List Loc) :=
  (List.range 3).map fun i => (List.range 3).map fun j => .window (gangName viewer.1.modul 1 0) (69255 + 3 * i + j)

theorem locate_peep : (viewer.2.active none 0).map (fun i => viewer.1.locate (viewer.2.who (viewer.2.vmemAcc peep .load i).lane) .load
    (viewer.2.s (i / 3) peep.base + 81 * peep.off + 3 * i) 3) = peepPlaces.map Xs.ok := by decide +kernel

theorem admits_peeping : Admits viewer.1 viewer.2 peepUses peepPlaces [] :=
  ⟨Counted.eq_of_passesWith (by decide +kernel), by decide +kernel, by decide +kernel⟩

/-- Lane 0 of v1 in the state that an instruction answers. -/
def seenAfter (a : Answer) : Option Int := match a with | .next t => some (t.vlane viewer.2.issue.team viewer.2.issue.gang 1 0) | _ => none

theorem seenAfter_peep : seenAfter (exec (.vld peep) peeping) ≠
    some (ofTrytes (readAt viewer.1 false peepPlaces [] ((viewer.2.active none 0).idxOf 0))) := by decide +kernel

theorem mem_active : 0 ∈ viewer.2.active none 0 ∧ 0 ∉ viewer.2.zeroed none 0 := by decide +kernel

/-- Refutes O24: beginning VLD uses up an instruction of its own pending result's window (R50) before the load reads, so a gang that is halted and has a
debug window open onto itself loads another directory word than stood there in s0. The statement on loads has no premise that the gang runs, nor that its
places are no debug windows, as that on stores has. -/
theorem not_vectorMemory : ¬ Obligations.VectorMemory := by
  rintro ⟨hloads, _⟩
  obtain ⟨hvld, _⟩ := hloads peeping viewer.1 viewer.2 peepPlaces [] issues_peeping (by decide +kernel)
  obtain ⟨t, hnext, _, _, _, hlanes, _⟩ := hvld peep locate_peep admits_peeping (.inl rfl)
  obtain ⟨hactive, hzeroed⟩ := mem_active
  have hlane := (hlanes rfl).1 0 hactive hzeroed
  exact seenAfter_peep (hnext ▸ congrArg some hlane)

end Sys2Proof.Proofs.OwnWindows

/-! LAUNCH of a record that stands in the launching gang's own pending results, seen through a debug window (R267, R349, R360). -/
namespace Sys2Proof.Proofs.OwnRecords
open Sys2Proof.Machine

/-- The gang of `peeping` with 17 results pending, whose directory line, at the address in s5, reads as demoLaunch but for double 8, the argument in
s2 (R377): the words of doubles 0 to 7 stand in its edits, and the low word of double 8 is the directory word of the last result. -/
def peepingAtRecord : State :=
  OwnWindows.peeping.modGang 1 0 fun g => { g with
    pending := List.replicate 17 { slices := [0], dest := .sca 0 7, writes := [(0, 0)], flags := 0, remaining := 5 },
    edits := (demoLaunch.take 8).zipIdx.flatMap fun d =>
      [(27 * 855 + 2 * d.2, halfOf false d.1), (27 * 855 + 2 * d.2 + 1, halfOf true d.1)] }

theorem isSome_issuing_peepingAtRecord : (peepingAtRecord.issuing false).isSome = true := by decide +kernel

/-- The state in which LAUNCH finds it, and its issue set. -/
def launcher : State × Iss := (peepingAtRecord.issuing false).get isSome_issuing_peepingAtRecord

theorem issues_peepingAtRecord : Issues peepingAtRecord false launcher.1 launcher.2 :=
  ⟨(Option.some_get isSome_issuing_peepingAtRecord).symm, by decide +kernel, by decide +kernel⟩

theorem unwatched_launcher : Unwatched launcher.1 launcher.2 := by
  have hnone : launcher.1.scope.watches = [] := by decide +kernel
  simp [Unwatched, hnone]

/-- What LAUNCH uses to read its record. -/
def recordUses : Uses := { Uses.none with accs := launcher.2.cardAccs 5 27 81 }

/-- Where the record lies: the line of pending results and the line after it. -/
def recordPlaces : List (List Loc) := [(List.range 162).map fun i => .window (gangName launcher.1.modul 1 0) (69255 + i)]

theorem admits_peepingAtRecord : Admits launcher.1 launcher.2 recordUses recordPlaces [] :=
  ⟨Counted.eq_of_passesWith (by decide +kernel), by decide +kernel, by decide +kernel⟩

/-- The record as it stands in s0, for the only slice. -/
def recordSeen (k : Nat) : List Int := digits 54 27 (ofTrytes (readAt launcher.1 false recordPlaces [] (launcher.2.slices.idxOf k)))

/-- A record without a pattern table launches with no patterns, where it is well-formed and its teams fit an empty core (R348, R349, R373). -/
theorem launchSlice_of_no_table {s : State} {x : Iss} {k : Nat} {r : List Int} (hok : launchOk r = true)
    (hfits : (Grid.ofRecord 0 x.ctx.num 0 none r [] 0).fitsEmpty = true) (htable : (Grid.ofRecord 0 x.ctx.num 0 none r [] 0).dbl 11 = 0) :
    s.launchSlice x k r = .ok [] := by
  simp [State.launchSlice, hok, hfits, htable]

theorem launchSlice_recordSeen : ∀ k ∈ launcher.2.slices, launcher.1.launchSlice launcher.2 k (recordSeen k) = .ok [] := by
  have hform : ∀ k ∈ launcher.2.slices, launchOk (recordSeen k) = true ∧
      (Grid.ofRecord 0 launcher.2.ctx.num 0 none (recordSeen k) [] 0).fitsEmpty = true ∧
      (Grid.ofRecord 0 launcher.2.ctx.num 0 none (recordSeen k) [] 0).dbl 11 = 0 := by decide +kernel
  intro k hk
  obtain ⟨hok, hfits, htable⟩ := hform k hk
  exact launchSlice_of_no_table hok hfits htable

/-- The launch records of the grids in the state that an instruction answers. -/
def recordsAfter (a : Answer) : Option (List (List Int)) := match a with | .next t => some (t.grids.map Grid.launch) | _ => none

theorem recordsAfter_launch : recordsAfter (exec (.launch 5) peepingAtRecord) ≠
    some (launcher.1.grids.map Grid.launch ++ launcher.2.slices.map recordSeen) := by decide +kernel

/-- Refutes O45: beginning LAUNCH uses up an instruction of its own pending results' windows (R50) before the record is read, so a gang that is halted and
has a debug window open onto itself launches another record than stood there in s0, double 8 of it being a directory word. The clause on LAUNCH has no
premise that the gang runs, nor that the record lies in no debug window. -/
theorem not_gridsAndPlacement : ¬ Obligations.GridsAndPlacement := by
  rintro ⟨⟨hlaunch, _⟩, _⟩
  obtain ⟨t, hnext, _, _, _, hgrids⟩ := hlaunch peepingAtRecord launcher.1 launcher.2 5 recordPlaces [] (fun _ => []) issues_peepingAtRecord
    (by decide +kernel) unwatched_launcher (by decide +kernel) (by decide +kernel) admits_peepingAtRecord launchSlice_recordSeen (by decide +kernel)
  refine recordsAfter_launch ?_
  have hrecords : t.grids.map Grid.launch = launcher.1.grids.map Grid.launch ++ launcher.2.slices.map recordSeen := by
    rw [hgrids, List.map_append, List.map_map]
    exact congrArg _ (by decide +kernel)
  rw [hnext, ← hrecords]
  rfl

end Sys2Proof.Proofs.OwnRecords

/-! ## The canonical form of memory, kept by every step (O7)

Log 2 gives storage one form: keys rising, no cell of value 0 listed. Mem.Canonical names it. Within a step storage is written by setCell, setCells
and fill alone, which keep it, or reset; every other function that answers states is carried along by one lemma of its own, named after it, in the
order of the model's files. So h.foo says that what foo makes of a canonical state is canonical, and a proof reads as its function does: one branch per
branch, h.foo.bar for bar after foo. Results that carry a state in some of their cases have a predicate Canonical each; AllSome and OkErr lift
these to options and to results with errors. -/

namespace Sys2Proof.Machine

/-- Memory in its canonical form. -/
def Mem.Canonical (m : Mem) : Prop := m.wf = true

/-! ### Results that carry states -/

/-- What an option holds, if anything, satisfies p. -/
abbrev AllSome {α : Type} (p : α → Prop) : Option α → Prop
  | none => True
  | some a => p a

/-- An error satisfies p, a value q. -/
abbrev OkErr {ε α : Type} (p : ε → Prop) (q : α → Prop) : Except ε α → Prop
  | .error e => p e
  | .ok a => q a

/-- The next state of an answer, if there is one, has canonical memory; so for the other results that carry states. -/
def Answer.Canonical : Answer → Prop
  | .next t => t.mem.Canonical
  | _ => True

def Stop.Canonical : Stop → Prop
  | .trap _ => True
  | .trapWith _ s | .stall _ s | .halt _ s => s.mem.Canonical

def Dev.Canonical : Dev State → Prop
  | .ok s => s.mem.Canonical
  | _ => True

def Reserve.Canonical : Reserve → Prop
  | .taken s => s.mem.Canonical
  | _ => True

def FarUpdate.Canonical : FarUpdate → Prop
  | .done s _ _ | .waits s => s.mem.Canonical
  | .bad _ => True

def DevStep.Canonical : DevStep → Prop
  | .done s | .waits s => s.mem.Canonical
  | .migr _ => True

def EngRead.Canonical : EngRead → Prop
  | .ok _ _ s | .bad _ s | .wait s => s.mem.Canonical
  | .migr _ => True

def Reserved.Canonical : Reserved → Prop
  | .bad _ => True
  | .waits s | .got s _ => s.mem.Canonical

def Entered.Canonical : Entered → Prop
  | .bad _ _ s | .waits s | .done s _ => s.mem.Canonical
  | .migr _ => True

def HostTry.Canonical : HostTry → Prop
  | .uncorrectable _ s | .wait s => s.mem.Canonical
  | _ => True

def QueueTry.Canonical : QueueTry → Prop
  | .status _ _ _ s | .frozen _ s | .wait s => s.mem.Canonical

def EntryWrite.Canonical : EntryWrite → Prop
  | .made s | .waits s => s.mem.Canonical
  | .failed => True

def Command.Canonical : Command → Prop
  | .status _ s | .wait s => s.mem.Canonical

def Served.Canonical : Served → Prop
  | .reply _ s | .waits s => s.mem.Canonical
  | .held => True

abbrev Word1.Canonical : Word1 → Prop
  | .at_ _ => True
  | .stop e => e.Canonical

section
variable {α β ε : Type}

theorem AllSome.of {p : α → Prop} {x y : Option α} (e : x = y) (h : AllSome p x) : AllSome p y := e ▸ h
theorem OkErr.of {p : ε → Prop} {q : α → Prop} {x y : Except ε α} (e : x = y) (h : OkErr p q x) : OkErr p q y := e ▸ h
theorem Answer.Canonical.of {x y : Answer} (e : x = y) (h : Answer.Canonical x) : Answer.Canonical y := e ▸ h
theorem Dev.Canonical.of {x y : Dev State} (e : x = y) (h : x.Canonical) : y.Canonical := e ▸ h
theorem Reserve.Canonical.of {x y : Reserve} (e : x = y) (h : x.Canonical) : y.Canonical := e ▸ h
theorem FarUpdate.Canonical.of {x y : FarUpdate} (e : x = y) (h : x.Canonical) : y.Canonical := e ▸ h
theorem DevStep.Canonical.of {x y : DevStep} (e : x = y) (h : x.Canonical) : y.Canonical := e ▸ h
theorem EngRead.Canonical.of {x y : EngRead} (e : x = y) (h : x.Canonical) : y.Canonical := e ▸ h
theorem Reserved.Canonical.of {x y : Reserved} (e : x = y) (h : x.Canonical) : y.Canonical := e ▸ h
theorem Entered.Canonical.of {x y : Entered} (e : x = y) (h : x.Canonical) : y.Canonical := e ▸ h
theorem HostTry.Canonical.of {x y : HostTry} (e : x = y) (h : x.Canonical) : y.Canonical := e ▸ h
theorem QueueTry.Canonical.of {x y : QueueTry} (e : x = y) (h : x.Canonical) : y.Canonical := e ▸ h
theorem EntryWrite.Canonical.of {x y : EntryWrite} (e : x = y) (h : x.Canonical) : y.Canonical := e ▸ h
theorem Command.Canonical.of {x y : Command} (e : x = y) (h : x.Canonical) : y.Canonical := e ▸ h
theorem Served.Canonical.of {x y : Served} (e : x = y) (h : x.Canonical) : y.Canonical := e ▸ h
theorem Word1.Canonical.of {x y : Word1} (e : x = y) (h : x.Canonical) : y.Canonical := e ▸ h

theorem AllSome.map {p : α → Prop} {q : β → Prop} {f : α → β} {o : Option α} (h : AllSome p o) (hf : ∀ a, p a → q (f a)) :
    AllSome q (o.map f) := by
  cases o with
  | none => trivial
  | some a => exact hf a h

theorem OkErr.error {p : ε → Prop} {q : α → Prop} {e : ε} (h : OkErr p q (.error e)) : p e := h

theorem AllSome.answer {o : Option State} (h : AllSome (·.mem.Canonical) o) :
    AllSome Answer.Canonical (o.map fun t => (.next t : Answer)) :=
  h.map fun _ ht => ht

theorem allSome_map {q : β → Prop} {f : α → β} {o : Option α} (hf : ∀ a, q (f a)) : AllSome q (o.map f) := by
  cases o with
  | none => trivial
  | some a => exact hf a

theorem AllSome.orElse {p : α → Prop} {o : Option α} {f : Unit → Option α} (h : AllSome p o) (hf : ∀ u, AllSome p (f u)) :
    AllSome p (o.orElse f) := by
  cases o with
  | none => exact hf ()
  | some a => exact h

/-- What holds of an option's value, if any, and of a default holds of the choice between them. -/
theorem getD_of {p : α → Prop} {o : Option α} {a : α} (h : AllSome p o) (ha : p a) : p (o.getD a) := by
  cases o with
  | none => exact ha
  | some b => exact h

theorem AllSome.getD {o : Option State} {s : State} (h : AllSome (·.mem.Canonical) o) (hs : s.mem.Canonical) :
    (o.getD s).mem.Canonical :=
  getD_of (p := fun s : State => s.mem.Canonical) h hs
theorem AllSome.stopGetD {o : Option Stop} {e : Stop} (h : AllSome Stop.Canonical o) (he : e.Canonical) :
    (o.getD e).Canonical := getD_of h he
theorem AllSome.answerGetD {o : Option Answer} {r : Answer} (h : AllSome Answer.Canonical o) (hr : r.Canonical) :
    Answer.Canonical (o.getD r) := getD_of h hr

theorem AllSome.bind {p : α → Prop} {q : β → Prop} {f : α → Option β} {o : Option α} (h : AllSome p o)
    (hf : ∀ a, p a → AllSome q (f a)) : AllSome q (o.bind f) := by
  cases o with
  | none => trivial
  | some a => exact hf a h

theorem allSome_bind {q : β → Prop} {f : α → Option β} {o : Option α} (hf : ∀ a, AllSome q (f a)) : AllSome q (o.bind f) := by
  cases o with
  | none => trivial
  | some a => exact hf a

theorem allSome_findSome? {p : β → Prop} {f : α → Option β} {l : List α} (hf : ∀ a, AllSome p (f a)) : AllSome p (l.findSome? f) := by
  induction l with
  | nil => trivial
  | cons a l ih =>
    rw [List.findSome?_cons]
    split
    next b e => exact (hf a).of e
    · exact ih

theorem forall_mem_filterMap {q : β → Prop} {f : α → Option β} {l : List α} (hf : ∀ a ∈ l, AllSome q (f a)) :
    ∀ b ∈ l.filterMap f, q b := by
  intro b hb
  obtain ⟨a, ha, hab⟩ := List.mem_filterMap.mp hb
  exact (hf a ha).of hab

/-! ### Conditions and folds -/

variable {s t : State} {c : Prop} [Decidable c]

/-- What holds of both sides of a condition holds of what it chooses. -/
theorem ite_of {p : α → Prop} {x y : α} (hx : p x) (hy : p y) : p (if c then x else y) := by
  split
  · exact hx
  · exact hy

theorem Mem.Canonical.ite (hs : s.mem.Canonical) (ht : t.mem.Canonical) : (if c then s else t).mem.Canonical :=
  ite_of (p := fun s : State => s.mem.Canonical) hs ht
theorem Mem.Canonical.fstIte {x y : State × α} (hx : x.1.mem.Canonical) (hy : y.1.mem.Canonical) :
    (if c then x else y).1.mem.Canonical :=
  ite_of (p := fun x : State × α => x.1.mem.Canonical) hx hy
theorem AllSome.ite {p : α → Prop} {x y : Option α} (hx : AllSome p x) (hy : AllSome p y) : AllSome p (if c then x else y) :=
  ite_of hx hy
theorem OkErr.ite {p : ε → Prop} {q : α → Prop} {x y : Except ε α} (hx : OkErr p q x) (hy : OkErr p q y) :
    OkErr p q (if c then x else y) := ite_of hx hy
theorem OkErr.fstIte {p : ε → Prop} {q : α → Prop} {x y : Except ε α × β} (hx : OkErr p q x.1) (hy : OkErr p q y.1) :
    OkErr p q (if c then x else y).1 := ite_of (p := fun x : Except ε α × β => OkErr p q x.1) hx hy
theorem Answer.Canonical.ite {x y : Answer} (hx : x.Canonical) (hy : y.Canonical) : Answer.Canonical (if c then x else y) :=
  ite_of hx hy
theorem Stop.Canonical.ite {x y : Stop} (hx : x.Canonical) (hy : y.Canonical) : Stop.Canonical (if c then x else y) :=
  ite_of hx hy
theorem Reserve.Canonical.ite {x y : Reserve} (hx : x.Canonical) (hy : y.Canonical) : Reserve.Canonical (if c then x else y) :=
  ite_of hx hy
theorem FarUpdate.Canonical.ite {x y : FarUpdate} (hx : x.Canonical) (hy : y.Canonical) : FarUpdate.Canonical (if c then x else y) :=
  ite_of hx hy
theorem DevStep.Canonical.ite {x y : DevStep} (hx : x.Canonical) (hy : y.Canonical) : DevStep.Canonical (if c then x else y) :=
  ite_of hx hy
theorem EngRead.Canonical.ite {x y : EngRead} (hx : x.Canonical) (hy : y.Canonical) : EngRead.Canonical (if c then x else y) :=
  ite_of hx hy
theorem HostTry.Canonical.ite {x y : HostTry} (hx : x.Canonical) (hy : y.Canonical) : HostTry.Canonical (if c then x else y) :=
  ite_of hx hy
theorem QueueTry.Canonical.ite {x y : QueueTry} (hx : x.Canonical) (hy : y.Canonical) : QueueTry.Canonical (if c then x else y) :=
  ite_of hx hy
theorem Command.Canonical.ite {x y : Command} (hx : x.Canonical) (hy : y.Canonical) : Command.Canonical (if c then x else y) :=
  ite_of hx hy
theorem Served.Canonical.ite {x y : Served} (hx : x.Canonical) (hy : y.Canonical) : Served.Canonical (if c then x else y) :=
  ite_of hx hy
theorem Word1.Canonical.ite {x y : Word1} (hx : x.Canonical) (hy : y.Canonical) : Word1.Canonical (if c then x else y) :=
  ite_of hx hy

theorem Mem.Canonical.foldl {f : State → α → State} {l : List α} (h : s.mem.Canonical)
    (hf : ∀ s a, s.mem.Canonical → (f s a).mem.Canonical) : (l.foldl f s).mem.Canonical :=
  List.foldlRecOn (motive := fun s : State => s.mem.Canonical) l f h fun s hs a _ => hf s a hs

theorem Mem.Canonical.foldlFst {f : State × β → α → State × β} {l : List α} {r : State × β} (h : r.1.mem.Canonical)
    (hf : ∀ r a, r.1.mem.Canonical → (f r a).1.mem.Canonical) : (l.foldl f r).1.mem.Canonical :=
  List.foldlRecOn (motive := fun r : State × β => r.1.mem.Canonical) l f h fun r hr a _ => hf r a hr

theorem Mem.Canonical.foldlMem {f : Mem → α → Mem} {l : List α} {m : Mem} (h : m.Canonical)
    (hf : ∀ m a, m.Canonical → (f m a).Canonical) : (l.foldl f m).Canonical :=
  List.foldlRecOn (motive := Mem.Canonical) l f h fun m hm a _ => hf m a hm

end

/-! ### Cells -/

theorem Mem.Canonical.setCell {m : Mem} {bin : Bool} {p : Nat} {v : Int} (h : m.Canonical) : (m.setCell bin p v).Canonical := by
  unfold Mem.setCell
  dsimp only
  split
  · exact wfZ_setZ _ _ _ h
  · exact wfZ_setZ _ _ _ (wfZ_clearZ _ _ _ h)

theorem Mem.Canonical.setCells {m : Mem} {bin : Bool} {ws : List (Nat × Int)} (h : m.Canonical) : (m.setCells bin ws).Canonical := by
  have hcells : (ws.foldl (fun m w => m.setCell bin w.1 w.2) m).Canonical := h.foldlMem fun _ _ h => h.setCell
  dsimp only [Mem.setCells]
  split
  · exact hcells
  · exact hcells

theorem Mem.Canonical.fill {m : Mem} {line : Nat} {f : Int} {vs : List Int} (h : m.Canonical) : (m.fill line f vs).Canonical :=
  wfZ_setRangeZ _ _ _ h

theorem State.reset_canonical : State.reset.mem.Canonical := rfl

section
variable {s : State}

/-! ### Machine/Access -/

theorem Mem.Canonical.modCtx {n : Nat} {f : Context → Context} (h : s.mem.Canonical) :
    (s.modCtx n f).mem.Canonical := h

theorem Mem.Canonical.modGrid {n : Nat} {f : Grid → Grid} (h : s.mem.Canonical) : (s.modGrid n f).mem.Canonical := h

theorem Mem.Canonical.modTeam {k : Nat} {f : Team → Team} (h : s.mem.Canonical) : (s.modTeam k f).mem.Canonical := h

theorem Mem.Canonical.modGang {t g : Nat} {f : Gang → Gang} (h : s.mem.Canonical) :
    (s.modGang t g f).mem.Canonical := h.modTeam

theorem Mem.Canonical.issModGang {x : Iss} {f : Gang → Gang} (h : s.mem.Canonical) :
    (x.modGang f s).mem.Canonical := h.modGang

theorem Mem.Canonical.issModSlices {x : Iss} {f : Nat → Slice → Slice} (h : s.mem.Canonical) :
    (x.modSlices f s).mem.Canonical := h.issModGang

theorem Mem.Canonical.issSetS {x : Iss} {r : SReg} {ws : List (Nat × Int)} (h : s.mem.Canonical) :
    (x.setS r ws s).mem.Canonical := h.issModGang

/-! ### Machine/Flits -/

theorem Mem.Canonical.transmitOn {port src dst : Nat} {m : FlitMsg} (h : s.mem.Canonical) :
    (s.transmitOn port src dst m).mem.Canonical := h

theorem Mem.Canonical.resend {port : Nat} (h : s.mem.Canonical) : (s.resend port).mem.Canonical := h

theorem Mem.Canonical.launch {q : Outgoing} (h : s.mem.Canonical) : AllSome (·.mem.Canonical) (s.launch q) := by
  dsimp only [State.launch]
  split
  · exact .ite (.transmitOn h) trivial
  · trivial

theorem Mem.Canonical.transmitFrom {src dst : Nat} {m : FlitMsg} (h : s.mem.Canonical) :
    (s.transmitFrom src dst m).mem.Canonical := Mem.Canonical.ite h (AllSome.getD (Mem.Canonical.launch h) h)

theorem Mem.Canonical.launchNext (h : s.mem.Canonical) :
    AllSome (·.mem.Canonical) s.launchNext := allSome_findSome? fun _ => .ite trivial (Mem.Canonical.launch h)

theorem Mem.Canonical.transmit {dst : Nat} {m : FlitMsg} (h : s.mem.Canonical) :
    (s.transmit dst m).mem.Canonical := h.transmitFrom

theorem Mem.Canonical.acknowledge {port ack : Nat} (h : s.mem.Canonical) :
    (s.acknowledge port ack).mem.Canonical := by
  dsimp only [State.acknowledge]
  split <;> exact h

/-! ### Machine/Health -/

theorem Mem.Canonical.health {event kind index spare detail : Nat} (h : s.mem.Canonical) :
    (s.health event kind index spare detail).mem.Canonical := by
  dsimp only [State.health]
  exact h

theorem Mem.Canonical.setReady {off : Nat} {v : Int} (h : s.mem.Canonical) : (s.setReady off v).mem.Canonical := h

theorem Mem.Canonical.logUnit {event : Nat} {u : TestUnit} {spare : Nat} (h : s.mem.Canonical) :
    (s.logUnit event u spare).mem.Canonical := h.health

theorem Mem.Canonical.setTesting {l : List TestUnit} (h : s.mem.Canonical) : (s.setTesting l).mem.Canonical := h

theorem Mem.Canonical.rowError {corrected : Bool} {stack row : Nat} (h : s.mem.Canonical) :
    (s.rowError corrected stack row).mem.Canonical := h.logUnit.ite h.logUnit.setTesting

/-! ### Machine/Xlate -/

theorem Mem.Canonical.setWindowWord {name : Int} {off : Nat} {v : Int} (h : s.mem.Canonical) :
    (s.setWindowWord name off v).mem.Canonical := by
  dsimp only [State.setWindowWord]
  split
  · exact h.modTeam
  · exact h

theorem Mem.Canonical.writeLoc {bin : Bool} {l : Loc} {v : Int} (h : s.mem.Canonical) :
    (s.writeLoc bin l v).mem.Canonical := by
  dsimp only [State.writeLoc]
  split
  · exact h.setCell
  · exact h.modTeam
  · exact h.modGrid
  · exact h.modGang
  · exact h
  · exact h
  · exact h.setWindowWord

theorem Mem.Canonical.writeRaw {bin : Bool} {ls : List Loc} {vs : List Int} (h : s.mem.Canonical) :
    (s.writeRaw bin ls vs).mem.Canonical := (h.ite h.setCells).foldl fun _ _ hs => hs.writeLoc

theorem Mem.Canonical.replaced {lines : List Nat} (h : s.mem.Canonical) : (s.replaced lines).mem.Canonical := h

theorem Mem.Canonical.freeWaiters {p : Nat × Nat} (h : s.mem.Canonical) : (s.freeWaiters p).mem.Canonical := by
  dsimp only [State.freeWaiters]
  split <;> exact h

theorem Mem.Canonical.retest {team gang : Nat} (h : s.mem.Canonical) : (s.retest team gang).mem.Canonical := by
  dsimp only [State.retest]
  split
  · exact h
  · split
    · exact h
    · refine h.foldl fun s1 a hs => ?_
      split
      · split
        · exact hs.freeWaiters
        · exact hs
      · split
        · exact hs.freeWaiters
        · exact hs
      · exact hs

theorem Mem.Canonical.phStored {t : Nat} {offs : List Nat} (h : s.mem.Canonical) :
    (s.phStored t offs).mem.Canonical := by
  dsimp only [State.phStored]
  split
  · exact h
  · exact h.foldl fun _ _ hs => hs.modTeam.freeWaiters

/-! ### Machine/Slots -/

theorem Mem.Canonical.withSlot {m : Mem} {line : Nat} {bs : List Nat} (h : m.Canonical) :
    (m.withSlot line bs).Canonical := h

theorem Mem.Canonical.judge {m : Mem} {line : Nat} (h : m.Canonical) : (m.judge line).Canonical := by
  dsimp only [Mem.judge]
  split
  · exact h
  · split
    · exact h
    · exact h.fill.withSlot

theorem Mem.Canonical.upset {line : Nat} {bytes : List (Nat × Nat)} (h : s.mem.Canonical) :
    (s.upset line bytes).mem.Canonical := by
  refine h.ite ?_
  dsimp only
  split
  · exact h.withSlot
  · exact h.withSlot.judge

theorem Mem.Canonical.rewritten {m : Mem} {line : Nat} (h : m.Canonical) : (m.rewritten line).Canonical := h

theorem Mem.Canonical.correctSlot {line : Nat} (h : s.mem.Canonical) :
    (s.correctSlot line).mem.Canonical := h.ite (.rowError h.rewritten)

theorem Mem.Canonical.uncorrectable {line : Nat} (h : s.mem.Canonical) :
    (s.uncorrectable line).mem.Canonical := h.rowError

theorem Mem.Canonical.noteBad {ls : List Loc} (h : s.mem.Canonical) : (s.noteBad ls).mem.Canonical := by
  dsimp only [State.noteBad]
  split
  · exact h.uncorrectable
  · exact h

/-! ### Machine/Account -/

theorem Mem.Canonical.count {agency c : Nat} {n : Int} (h : s.mem.Canonical) : (s.count agency c n).mem.Canonical := h

theorem Mem.Canonical.countAccess {agency kind : Nat} (h : s.mem.Canonical) :
    (s.countAccess agency kind).mem.Canonical := h

theorem Mem.Canonical.readSlot {agency line : Nat} (h : s.mem.Canonical) :
    (s.readSlot agency line).mem.Canonical := h.count.correctSlot

theorem Mem.Canonical.inForm {m : Mem} {line : Nat} {comp : Bool} (h : m.Canonical) : (m.inForm line comp).Canonical := h

theorem Mem.Canonical.writeSlot {agency line : Nat} {comp : Bool} (h : s.mem.Canonical) :
    (s.writeSlot agency line comp).mem.Canonical := .count h.inForm

theorem Mem.Canonical.uncache {m : Mem} {line : Nat} (h : m.Canonical) : (m.uncache line).Canonical := h

theorem Mem.Canonical.evict {line : Nat} (h : s.mem.Canonical) : (s.evict line).mem.Canonical := by
  dsimp only [State.evict]
  split
  · exact h
  · split
    · exact h.writeSlot.uncache
    · exact h.uncache.judge

theorem Mem.Canonical.cacheRoom {keep n : Nat} (h : s.mem.Canonical) : (State.cacheRoom keep n s).mem.Canonical := by
  induction n generalizing s with
  | zero => exact h
  | succ n ih =>
    unfold State.cacheRoom
    split
    · exact h
    · split
      · exact ih h.evict
      · exact h

theorem Mem.Canonical.makeRoom {line : Nat} (h : s.mem.Canonical) :
    (s.makeRoom line).mem.Canonical := h.ite h.cacheRoom

theorem Mem.Canonical.cacheLine {x : CacheLine} (h : s.mem.Canonical) : (s.cacheLine x).mem.Canonical := .makeRoom h

theorem Mem.Canonical.leaveFor {comp : Bool} {line : Nat} (h : s.mem.Canonical) :
    (s.leaveFor comp line).mem.Canonical := by
  dsimp only [State.leaveFor]
  split
  · exact h.evict.ite h.writeSlot.uncache
  · exact h

theorem Mem.Canonical.touchLine {agency : Nat} {op : AccOp} {whole : Bool} {l : Leaf} {line : Nat} (h : s.mem.Canonical) :
    (s.touchLine agency op whole l line).mem.Canonical := by
  unfold State.touchLine
  extract_lets t fetch fresh
  have ht : t.mem.Canonical := h.countAccess
  have hfetch : ∀ {r : State}, r.mem.Canonical → (fetch r).mem.Canonical := fun hr => hr.ite hr.readSlot
  refine .ite (.ite (hfetch ht.leaveFor).cacheLine (hfetch ht.leaveFor)) ?_
  split
  · exact .ite (.ite ht ht) (hfetch ht.leaveFor).cacheLine
  · exact (hfetch ht).cacheLine

theorem Mem.Canonical.catchUp {cores : Nat → Bool} (h : s.mem.Canonical) : (s.catchUp cores).mem.Canonical := h

theorem Mem.Canonical.lease {w : Who} {op : AccOp} {line : Nat} (h : s.mem.Canonical) :
    (s.lease w op line).mem.Canonical := by
  dsimp only [State.lease]
  split
  · exact h
  · exact h.ite h

theorem Mem.Canonical.touchServed {op : AccOp} {ps : List Nat} (h : s.mem.Canonical) :
    (s.touchServed op ps).mem.Canonical := .ite (h.foldl fun _ _ hs => hs.touchLine) (h.foldl fun _ _ hs => hs.touchLine)

theorem Mem.Canonical.touchWalk {w : Who} {a : Int} (h : s.mem.Canonical) :
    (s.touchWalk w a).mem.Canonical := h.ite (h.foldl fun _ _ hs => hs.touchLine)

theorem Mem.Canonical.touchWalks {w : Who} {a : Int} {n : Nat} (h : s.mem.Canonical) :
    (s.touchWalks w a n).mem.Canonical := h.foldl fun _ _ hs => hs.ite hs.touchWalk

theorem Mem.Canonical.noteWalk {w : Who} {a : Int} (h : s.mem.Canonical) : (s.noteWalk w a).mem.Canonical := by
  dsimp only [State.noteWalk]
  split
  · exact h.uncorrectable
  · exact h

theorem Mem.Canonical.touchAt {s0 : State} {w : Who} {op : AccOp} {cs : List (Int × Loc)} (h : s0.mem.Canonical) :
    (s0.touchAt w op cs).mem.Canonical := by
  refine .foldl ?_ fun s a hs => ?_
  · refine .foldl (.ite ?_ ?_) fun _ _ hs => hs.touchWalk
    · refine .countAccess ?_
      split
      · exact h.ite h.catchUp
      · exact h
    · split
      · exact h.ite h.catchUp
      · exact h
  · split
    · exact hs.touchLine.lease
    · exact hs

theorem Mem.Canonical.touch {w : Who} {op : AccOp} {a : Int} {ls : List Loc} (h : s.mem.Canonical) :
    (s.touch w op a ls).mem.Canonical := h.touchAt

theorem Mem.Canonical.passThrough {wrote : Bool} {ls : List Loc} (h : s.mem.Canonical) : (s.passThrough wrote ls).mem.Canonical := by
  unfold State.passThrough
  split
  · exact h.foldl fun _ _ hs => .ite (.ite hs.evict hs.uncache.judge) hs
  · exact h

theorem Mem.Canonical.writeLocs {bin : Bool} {ls : List Loc} {vs : List Int} (h : s.mem.Canonical) :
    (s.writeLocs bin ls vs).mem.Canonical := by
  unfold State.writeLocs
  extract_lets s1 s2
  have h1 : s1.mem.Canonical := h.writeRaw.foldl fun _ _ hs => hs.phStored
  have h2 : s2.mem.Canonical := h1.ite h1.replaced
  split
  · exact h2.passThrough.makeRoom
  · exact h2

theorem Mem.Canonical.send {agency dst : Nat} {m : FlitMsg} (h : s.mem.Canonical) :
    (s.send agency dst m).mem.Canonical := h.transmit.count

theorem Mem.Canonical.ask {agency : Nat} {w : RemoteWait} {r : RemoteReq} (h : s.mem.Canonical) :
    (s.ask agency w r).mem.Canonical := by
  dsimp only [State.ask]
  exact h.send

theorem Mem.Canonical.devSend {w : Who} {a : Int} {ls : List Loc} {vs : List Int} (h : s.mem.Canonical) :
    (s.devSend w a ls vs).mem.Canonical := h.foldl fun _ _ hs => hs.ask

theorem Mem.Canonical.devWrite {w : Who} {a : Int} {n : Nat} {v : Int} (h : s.mem.Canonical) :
    (s.devWrite w a n v).Canonical := by
  dsimp only [State.devWrite]
  split
  · exact h.touch.writeLocs.devSend
  · trivial
  · trivial

/-! ### Machine/Trace -/

theorem Mem.Canonical.devWrites {w : Who} {a : Int} {vs : List Int} (h : s.mem.Canonical) : (s.devWrites w a vs).mem.Canonical := by
  induction vs generalizing s a with
  | nil => exact h
  | cons v vs ih =>
    unfold State.devWrites
    split
    next t e => exact ih (h.devWrite.of e)
    · exact h

theorem Mem.Canonical.logDoubles {c : Nat} {ds : List Int} (h : s.mem.Canonical) :
    (s.logDoubles c ds).mem.Canonical := by
  dsimp only [State.logDoubles]
  split
  · exact h
  · refine .ite h ?_
    split
    · exact (h.foldl fun _ _ hs => hs.devWrites).modCtx
    · exact h

theorem Mem.Canonical.logFault {c : Nat} {e : LogEntry} (h : s.mem.Canonical) :
    (s.logFault c e).mem.Canonical := h.logDoubles

theorem Mem.Canonical.modCfg {agency : Nat} {f : TraceCfg → TraceCfg} (h : s.mem.Canonical) :
    (s.modCfg agency f).mem.Canonical := h

theorem Mem.Canonical.dropCfg {agency : Nat} (h : s.mem.Canonical) : (s.dropCfg agency).mem.Canonical := h

theorem Mem.Canonical.park {ctx : Nat} {who : Parker} {ps : List (Int × Int)} (h : s.mem.Canonical) :
    (s.park ctx who ps).mem.Canonical := h

theorem Mem.Canonical.traceBytes {w : Who} {c : TraceCfg} {off : Nat} {vs : List Int} (h : s.mem.Canonical) :
    OkErr (fun _ => True) (fun r => r.1.mem.Canonical) (s.traceBytes w c off vs) := by
  induction vs generalizing s off with
  | nil => exact h
  | cons v vs ih =>
    unfold State.traceBytes
    split
    next t e => exact ih (h.devWrite.of e)
    · trivial
    · exact h

theorem Mem.Canonical.traceFail {c : TraceCfg} {e : Cause} (h : s.mem.Canonical) :
    (s.traceFail c e).mem.Canonical := h.dropCfg.logFault

theorem Mem.Canonical.traceWrite {agency src : Nat} {r : List Int} (h : s.mem.Canonical) :
    (s.traceWrite agency src r).mem.Canonical := by
  dsimp only [State.traceWrite]
  split
  · exact h
  · split
    · exact h
    · split
      · exact h.traceFail
      next e2 =>
        split
        next e3 => exact Dev.Canonical.of e3 (Mem.Canonical.devWrite (Mem.Canonical.count (Mem.Canonical.modCfg (h.traceBytes.of e2))))
        · exact .traceFail (.count (.modCfg (h.traceBytes.of e2)))
        · exact .count (.modCfg (h.traceBytes.of e2))

theorem Mem.Canonical.traceLose {agency n cycle : Nat} (h : s.mem.Canonical) :
    (s.traceLose agency n cycle).mem.Canonical := by
  dsimp only [State.traceLose]
  split
  · exact h
  · split
    · split
      next e3 => exact .modCfg (h.traceBytes.of e3)
      · exact h.traceFail
    · exact h

theorem Mem.Canonical.closeMark {agency : Nat} (h : s.mem.Canonical) : (s.closeMark agency).mem.Canonical := by
  refine .modCfg ?_
  split
  · exact h.ite h.traceLose
  · exact h

theorem Mem.Canonical.openMark {c : TraceCfg} {src time : Nat} (h : s.mem.Canonical) :
    (s.openMark c src time).mem.Canonical := h.traceWrite.modCfg

theorem Mem.Canonical.traceLossy1 {agency src time : Nat} {r : List Int} (h : s.mem.Canonical) :
    (s.traceLossy1 agency src time r).mem.Canonical := by
  dsimp only [State.traceLossy1]
  split
  · exact h
  · split
    · exact h.traceFail
    · exact h.openMark.park
    · exact h.traceWrite.ite h.openMark

theorem Mem.Canonical.traceLossy {agency src cycle : Nat} {event : Bool} {rs : List (Nat × List Int)} (h : s.mem.Canonical) :
    (s.traceLossy agency src cycle event rs).mem.Canonical := by
  induction rs generalizing s with
  | nil => exact h
  | cons r rs ih =>
    unfold State.traceLossy
    refine .ite ?_ (ih h.traceLossy1)
    split
    · exact h
    · dsimp only
      split
      · exact (h.closeMark.foldl fun _ _ hs => hs.traceWrite).ite h.traceLose
      · exact h.traceFail
      · exact h.traceLose.park

theorem Mem.Canonical.traceLossless {agency src cycle : Nat} {r : List Int} (h : s.mem.Canonical) :
    (s.traceLossless agency src cycle r).mem.Canonical := by
  dsimp only [State.traceLossless]
  split
  · exact h
  · split
    · exact h.traceFail
    · exact h.modCfg.park
    · exact h.traceWrite.ite h.modCfg

theorem Mem.Canonical.traceStream {agency src cycle : Nat} {sync : Bool} {ev : List (List Int)} (h : s.mem.Canonical) :
    (s.traceStream agency src cycle sync ev).mem.Canonical := by
  dsimp only [State.traceStream]
  split
  · exact h
  · exact (h.modCfg.foldl fun _ _ hs => hs.traceLossless).ite h.modCfg.traceLossy

theorem Mem.Canonical.emit {agency src trit : Nat} {r : List Int} (h : s.mem.Canonical) :
    (s.emit agency src trit r).mem.Canonical := by
  dsimp only [State.emit]
  split
  · exact h
  · exact h.traceStream.ite h

theorem Mem.Canonical.emitSample {agency src cycle : Nat} {r : List Int} (h : s.mem.Canonical) :
    (s.emitSample agency src cycle r).mem.Canonical := by
  dsimp only [State.emitSample]
  split
  · exact h
  · refine h.ite (h.traceStream.ite ?_)
    split
    · exact h.traceStream.ite h.modCfg
    · exact h.traceFail
    · exact h.modCfg.park

theorem Mem.Canonical.emitSched {agency : Nat} {t : Team} {g : Gang} {code operand : Int} (h : s.mem.Canonical) :
    (s.emitSched agency t g code operand).mem.Canonical := h.emit

theorem Mem.Canonical.emitFault {agency core : Nat} {name code cause : Int} (h : s.mem.Canonical) :
    (s.emitFault agency core name code cause).mem.Canonical := h.emit

theorem Mem.Canonical.emitEngine {agency src : Nat} {queue code name num : Int} (h : s.mem.Canonical) :
    (s.emitEngine agency src queue code name num).mem.Canonical := h.emit

theorem Mem.Canonical.logEvent {c : Nat} {e : LogEntry} {name : Int} (h : s.mem.Canonical) :
    (s.logEvent c e name).mem.Canonical := by
  dsimp only [State.logEvent]
  split
  · exact h.logFault.emitFault
  · exact h.logFault

/-! ### Machine/Ops -/

theorem Mem.Canonical.forget {team gang : Nat} (h : s.mem.Canonical) : (s.forget team gang).mem.Canonical := h

theorem Mem.Canonical.stallOver {agency : Nat} {t : Team} {g : Gang} {k cycle : Nat} (h : s.mem.Canonical) :
    (s.stallOver agency t g k cycle).mem.Canonical := by
  dsimp only [State.stallOver]
  split
  · split
    · exact .ite (.traceStream h) h
    · exact h
  · exact h

theorem Mem.Canonical.endStalls {agency : Nat} {t : Team} {g : Gang} (h : s.mem.Canonical) :
    (s.endStalls agency t g).mem.Canonical := (h.foldl fun _ _ hs => hs.stallOver).modGang

theorem Mem.Canonical.halt {agency team gang : Nat} {h : Halt} {cause : Int} (hs : s.mem.Canonical) :
    (s.halt agency team gang h cause).mem.Canonical := by
  dsimp only [State.halt]
  split
  · exact hs
  · split
    · exact hs
    · refine hs.ite ?_
      split
      · exact (hs.forget.endStalls.modGang.ite hs.forget.endStalls.modGang.emitSched).emitFault
      · exact hs.forget.endStalls.modGang.ite hs.forget.endStalls.modGang.emitSched

theorem Mem.Canonical.dropWaits {p : Parker} (h : s.mem.Canonical) : (s.dropWaits p).mem.Canonical := h

theorem Mem.Canonical.noteFor {p : Parker} {m ctx key : Nat} {todo : Option (List Loc × Update)} (h : s.mem.Canonical) :
    (s.noteFor p m ctx key todo).mem.Canonical := h

theorem Mem.Canonical.unhold {p : Parker} (h : s.mem.Canonical) : (s.unhold p).mem.Canonical := h

theorem Mem.Canonical.askFor {p : Parker} {agency ctx : Nat} {rs : List RemReq} (h : s.mem.Canonical) :
    (s.askFor p agency ctx rs).mem.Canonical := h.ite (h.foldl fun _ _ hs => hs.ask)

theorem Mem.Canonical.askParts {p : Parker} {agency ctx : Nat} {mixed : Bool} {rs : List RemReq} (h : s.mem.Canonical) :
    (s.askParts p agency ctx mixed rs).mem.Canonical := h.askFor.ite (h.foldl fun _ _ hs => hs.noteFor).askFor

theorem Mem.Canonical.takeTrap {x : Iss} {t : Trap} (h : s.mem.Canonical) :
    (takeTrap s x t).mem.Canonical :=
  .ite h.dropWaits.forget.emitFault.issModSlices.logEvent.halt
    ((h.dropWaits.forget.issModSlices.ite h.dropWaits.forget.emitFault.issModGang.logEvent.halt).ite
      h.dropWaits.forget.emitFault.issModGang.emitSched)

theorem Mem.Canonical.keepRead {x : Iss} {r : ReadRun} (h : s.mem.Canonical) : (s.keepRead x r).mem.Canonical := h

theorem Mem.Canonical.readAccess {x : Iss} {last : Bool} {rs : List ReadRun} (h : s.mem.Canonical) :
    (readAccess x last rs s).1.mem.Canonical :=
  .fstIte h.askParts (.fstIte h (.fstIte h.unhold (.fstIte h (h.foldl fun _ _ hs => hs.keepRead).unhold)))

theorem Mem.Canonical.readTurns {x : Iss} {rs : List (List ReadRun)} (h : s.mem.Canonical) : (readTurns x rs s).1.mem.Canonical := by
  induction rs generalizing s with
  | nil => exact h
  | cons r rs ih =>
    unfold readTurns
    dsimp only
    split
    · exact ih h.readAccess
    · exact h.readAccess

theorem Mem.Canonical.reach {x : Iss} {later : Bool} {accs : List (Acc × List Loc)} (h : s.mem.Canonical) :
    OkErr (·.mem.Canonical) (fun _ => True) (s.reach x later accs) := by
  refine .ite h (.ite trivial ?_)
  dsimp only
  split
  · exact h
  · exact h.askFor
  · exact .ite h.readTurns trivial

theorem Mem.Canonical.asked {x : Iss} {rs : List RemReq} (h : s.mem.Canonical) :
    OkErr (·.mem.Canonical) (fun _ => True) (s.asked x rs) := by
  dsimp only [State.asked]
  split
  · exact h
  · exact h.askFor
  · trivial
  · trivial

theorem Mem.Canonical.issQueueStore {x : Iss} {p : StorePart} (h : s.mem.Canonical) :
    (x.queueStore p s).mem.Canonical := .ite h h

theorem Mem.Canonical.gotWrite {got : Got} {x : Iss} {i : Nat} {vs : List Int} (h : s.mem.Canonical) :
    (got.write x i vs s).mem.Canonical := by
  dsimp only [Got.write]
  split
  · exact h
  · exact h.issQueueStore.ite h.writeLocs

theorem Mem.Canonical.dropStore {q : StoreSeq} (h : s.mem.Canonical) : (s.dropStore q).mem.Canonical := by
  dsimp only [State.dropStore]
  exact h.dropWaits

theorem Mem.Canonical.drainStore {q : StoreSeq} (h : s.mem.Canonical) : (s.drainStore q).mem.Canonical := by
  dsimp only [State.drainStore]
  split
  · exact h
  · refine h.ite (h.writeLocs.dropStore.ite ?_)
    split
    · exact h
    · exact h.askFor
    · exact h.writeLocs.dropStore

theorem Mem.Canonical.watchRecords {x : Iss} {hs : List WatchMatch} (h : s.mem.Canonical) :
    (s.watchRecords x hs).mem.Canonical := by
  refine h.foldl fun s1 a hs1 => ?_
  split
  · exact hs1
  · exact hs1.traceStream

theorem Mem.Canonical.endStall {x : Iss} (h : s.mem.Canonical) :
    (s.endStall x).mem.Canonical := h.stallOver.issModSlices

theorem Mem.Canonical.setStall {i : Issue} {w : Stall} (h : s.mem.Canonical) : (s.setStall i w).mem.Canonical := by
  refine .ite ?_ ?_
  · refine .modGang (.ite ?_ h)
    split
    · exact h.endStall
    · exact h
  · dsimp only
    refine .modGang (.ite ?_ h)
    split
    · exact h.endStall
    · exact h

theorem Mem.Canonical.issAdvance {x : Iss} (h : s.mem.Canonical) : (x.advance s).mem.Canonical := h.issModSlices

theorem Mem.Canonical.stoppedWalks {x : Iss} {rs : List (Acc × Xs)} (h : s.mem.Canonical) :
    (s.stoppedWalks x rs).mem.Canonical := by
  refine h.foldl fun s1 a hs => ?_
  split
  · exact hs
  · exact hs.touchWalks.ite hs

theorem Mem.Canonical.stopBad {x : Iss} {a : Acc} {line : Option Nat} (h : s.mem.Canonical) :
    (s.stopBad x a line).Canonical := by
  refine .logEvent ?_
  split
  · exact h.uncorrectable
  · exact h

theorem Mem.Canonical.stopWalk {x : Iss} {a : Acc} (h : s.mem.Canonical) : (s.stopWalk x a).Canonical := h.stopBad

theorem Mem.Canonical.precheck {x : Iss} {priv : Bool} {u : Uses} (h : s.mem.Canonical) :
    OkErr Stop.Canonical (fun _ => True) (s.precheck x priv u).1 := by
  refine .fstIte trivial (.fstIte trivial (.fstIte h (.fstIte h ?_)))
  extract_lets held loose rs hits places
  split
  next s' e => exact (h.reach.of e).error
  · extract_lets got lost
    split
    next s' e => exact (h.asked.of e).error
    · refine .fstIte (Stop.Canonical.ite trivial h.stoppedWalks) (.fstIte (h.stoppedWalks.dropWaits (p := x.parker)) ?_)
      split
      · exact h.stopBad
      · split
        · exact h.stopWalk
        · split
          · exact h.stopBad
          · trivial

theorem Mem.Canonical.watchLate {x : Iss} {u : Uses} {accs : List (Acc × Xs)} (h : s.mem.Canonical) :
    OkErr Stop.Canonical (·.mem.Canonical) (s.watchLate x u accs) := .ite h.watchRecords (.ite h.watchRecords h.watchRecords)

theorem Mem.Canonical.issBackPressure {x : Iss} {s0 : State} (h : s.mem.Canonical) :
    (x.backPressure s0 s).mem.Canonical := by
  dsimp only [Iss.backPressure]
  split
  · exact h.setStall.ite h
  · exact h

theorem Mem.Canonical.issFinish {x : Iss} {s0 : State} (h : s.mem.Canonical) :
    (x.finish s0 s).mem.Canonical := h.issModGang.dropWaits.issBackPressure

theorem Mem.Canonical.issStopped {x : Iss} {hs : List WatchMatch} {e : Stop} (h : s.mem.Canonical) (he : e.Canonical) :
    (x.stopped s hs e).mem.Canonical := by
  dsimp only [Iss.stopped]
  split
  · exact h.watchRecords.takeTrap.issBackPressure
  · exact .issBackPressure (.takeTrap (.watchRecords he))
  · exact .setStall he
  · exact .halt (.watchRecords he)

theorem Stop.Canonical.stopUnticked {e : Stop} {x : Iss} (h : e.Canonical) : (e.unticked x).Canonical := by
  dsimp only [Stop.unticked]
  split
  · exact h
  · exact .issModGang h
  · exact .issModGang h
  · exact .issModGang h

theorem Mem.Canonical.issLandDue {x : Iss} {ends : Bool} (h : s.mem.Canonical) :
    (x.landDue ends s).mem.Canonical := h.ite h.issModGang

theorem Mem.Canonical.issueWith {ends priv adv : Bool} {uses : Iss → Uses} {body : Iss → Got → State → Except Stop State}
    (h : s.mem.Canonical)
    (hbody : ∀ (x : Iss) (got : Got) (t : State), t.mem.Canonical → OkErr Stop.Canonical (·.mem.Canonical) (body x got t)) :
    (issueWith ends priv adv uses body s).Canonical := by
  unfold Machine.issueWith
  split
  · trivial
  · extract_lets s0
    have h0 : s0.mem.Canonical := h.issLandDue
    split
    · trivial
    · extract_lets u r soft stops hs s1
      split
      next e hcheck => exact h0.issStopped (h0.precheck.of hcheck).error
      · refine .ite (.ite h0.watchRecords.halt h0.watchRecords.takeTrap.issBackPressure) ?_
        extract_lets own s2
        have h1 : s1.mem.Canonical := h0.issModGang
        have h2 : s2.mem.Canonical := h1.ite (h1.foldl fun _ _ ht => ht.touchWalks.ite ht.touch)
        split
        next e hstop => exact h0.issStopped (.stopUnticked ((hbody _ _ _ (h2.ite h2.replaced)).of hstop).error)
        next s3 hdone =>
          have h3 : s3.mem.Canonical := (hbody _ _ _ (h2.ite h2.replaced)).of hdone
          exact .ite h0.setStall (h3.issAdvance.ite h3).watchRecords.issFinish

theorem Mem.Canonical.issue {uses : Iss → Uses} {body : Iss → Got → State → Except Stop State} (h : s.mem.Canonical)
    (hbody : ∀ (x : Iss) (got : Got) (t : State), t.mem.Canonical → OkErr Stop.Canonical (·.mem.Canonical) (body x got t)) :
    (issue uses body s).Canonical := h.issueWith hbody

theorem Mem.Canonical.issRaise {x : Iss} {f : FlagSet} (h : s.mem.Canonical) :
    (x.raise f s).mem.Canonical := h.issModGang

/-! ### Machine/Operands -/

theorem Mem.Canonical.issSpend {x : Iss} {rnd : Rnd} {ws : List (Nat × Nat)} (h : s.mem.Canonical) :
    (x.spend rnd ws s).mem.Canonical := h.issModGang.ite h

theorem Mem.Canonical.issOpen_ {x : Iss} {p : Pending} (h : s.mem.Canonical) :
    (x.open_ p s).mem.Canonical := h.issModGang

theorem Mem.Canonical.issPutS {x : Iss} {la : Fin 27} {r : SReg} {rs : List (Nat × Res)} (h : s.mem.Canonical) :
    (x.putS la r rs s).mem.Canonical := h.issSetS.issRaise.ite (h.foldl fun _ _ hs => hs.issOpen_)

theorem Mem.Canonical.issPutV {x : Iss} {la : Fin 27} {r : VReg} {ws : List (Nat × Int)} {f : FlagSet} (h : s.mem.Canonical) :
    (x.putV la r ws f s).mem.Canonical := h.issModGang.issRaise.ite h.issOpen_

theorem Mem.Canonical.issPutMask {x : Iss} {r : MReg} {ws : List (Nat × Int)} (h : s.mem.Canonical) :
    (x.putMask r ws s).mem.Canonical := h.issModGang.emit

theorem Mem.Canonical.issCountElems {x : Iss} {n : Nat} (h : s.mem.Canonical) :
    (x.countElems n s).mem.Canonical := h.count

/-! ### Machine/Barriers -/

theorem Mem.Canonical.grantRacq {core n : Nat} (h : s.mem.Canonical) : (s.grantRacq core n).mem.Canonical := by
  induction n generalizing s with
  | zero => exact h
  | succ n ih =>
    unfold State.grantRacq
    dsimp only
    split
    · exact h
    · split
      · split
        · exact ih (.modGang h)
        · exact h
      · exact ih h

theorem Mem.Canonical.blocksReturned {core : Nat} (h : s.mem.Canonical) :
    (s.blocksReturned core).mem.Canonical := h.grantRacq

theorem Mem.Canonical.endGang {team gang : Nat} (h : s.mem.Canonical) : (s.endGang team gang).mem.Canonical := by
  dsimp only [State.endGang]
  split
  · exact h
  · split
    · exact .modCtx h.emitSched.modTeam.blocksReturned
    · exact h

theorem Mem.Canonical.reap {team : Nat} (h : s.mem.Canonical) : (s.reap team).mem.Canonical := h.modTeam

theorem Mem.Canonical.endSlices {team gang : Nat} {ks : List Nat} (h : s.mem.Canonical) :
    (s.endSlices team gang ks).mem.Canonical := by
  dsimp only [State.endSlices]
  split
  · exact h.modGang.endGang.ite h.modGang.modTeam
  · exact h.modGang

/-! ### Machine/Join -/

theorem Mem.Canonical.writePort {t : Team} {i : Nat} {p : Port} (h : s.mem.Canonical) :
    (s.writePort t i p).mem.Canonical := by
  refine h.modTeam.ite ?_
  split
  · exact h.modTeam
  · split
    next e1 => exact h.modTeam.devWrite.of e1
    · exact h.modTeam

theorem Mem.Canonical.emitJoin {t : Team} {what idx gang : Int} (h : s.mem.Canonical) :
    (s.emitJoin t what idx gang).mem.Canonical := by
  dsimp only [State.emitJoin]
  split
  · exact h.emit
  · exact h

theorem Mem.Canonical.logFor {n : Nat} {e : LogEntry} (h : s.mem.Canonical) :
    (s.logFor n e).mem.Canonical := h.logEvent.ite h.send

theorem Mem.Canonical.dropPost {h : HeldPost} {c : Cause} (hs : s.mem.Canonical) :
    (s.dropPost h c).mem.Canonical := by
  refine .logFor ?_
  split
  · exact .ite (.emitJoin hs) hs
  · exact hs

theorem Mem.Canonical.landHeldPost {held : Bool} {h : HeldPost} (hs : s.mem.Canonical) :
    AllSome (·.mem.Canonical) (s.landHeldPost held h) := by
  refine .ite trivial ?_
  split
  · exact hs.dropPost
  · exact hs.park
  · exact .ite (Mem.Canonical.ite (Mem.Canonical.emitJoin (Mem.Canonical.writePort hs)) (Mem.Canonical.writePort hs)) trivial

theorem Mem.Canonical.flushPosts {n : Int} (h : s.mem.Canonical) : (s.flushPosts n).mem.Canonical := by
  refine h.foldl fun s1 a hs => ?_
  split
  · refine .ite ?_ hs
    split
    next e1 => exact hs.landHeldPost.of e1
    · exact hs
  · exact hs

theorem Mem.Canonical.addReserved {t : Team} {i : Nat} {n : Int} (h : s.mem.Canonical) :
    (s.addReserved t i n).mem.Canonical := h.modTeam

theorem Mem.Canonical.reserve {n : Int} (h : s.mem.Canonical) : (s.reserve n).Canonical := by
  dsimp only [State.reserve]
  split
  · trivial
  · trivial
  · exact .ite h.flushPosts.addReserved trivial

theorem Mem.Canonical.unreserve {n : Int} (h : s.mem.Canonical) : (s.unreserve n).mem.Canonical := by
  dsimp only [State.unreserve]
  split
  · exact h
  · exact h.addReserved

theorem Mem.Canonical.landPost {n m : Int} (h : s.mem.Canonical) : (s.landPost n m).mem.Canonical := by
  dsimp only [State.landPost]
  split
  · exact h.writePort
  · exact h.unreserve

theorem Mem.Canonical.firePost {ctx : Nat} {port msg : Int} (h : s.mem.Canonical) :
    (s.firePost ctx port msg).mem.Canonical := by
  dsimp only [State.firePost]
  split
  · exact .dropPost h
  · refine h.send.ite (.ite h ?_)
    split
    next e1 => exact AllSome.of e1 (Mem.Canonical.landHeldPost h)
    · exact h

theorem Mem.Canonical.postAtRoot {ctx : Nat} {port msg : Int} (h : s.mem.Canonical) :
    (s.postAtRoot ctx port msg).mem.Canonical := .ite h h.firePost

theorem Mem.Canonical.landFarPost {h : HeldPost} (hs : s.mem.Canonical) :
    AllSome (·.mem.Canonical) (s.landFarPost h) := by
  dsimp only [State.landFarPost]
  split
  · exact hs.dropWaits.dropPost
  · split
    · exact .ite trivial hs.askFor
    · split
      · exact hs.dropWaits
      · exact hs.dropWaits.dropPost
      · trivial
    · refine .send ?_
      dsimp only
      exact hs.dropWaits

theorem Mem.Canonical.fireBinding {l : Loc} (h : s.mem.Canonical) : (s.fireBinding l).mem.Canonical := by
  dsimp only [State.fireBinding]
  split
  · exact h
  · exact .firePost h

theorem Mem.Canonical.bindSignal {ctx : Nat} {l : Loc} {value port msg : Int} (h : s.mem.Canonical) :
    (s.bindSignal ctx l value port msg).mem.Canonical := .ite h (.ite (.fireBinding h) h)

theorem Mem.Canonical.update {ctx : Nat} {ls : List Loc} {u : Update} (h : s.mem.Canonical) :
    (s.update ctx ls u).1.mem.Canonical := by
  unfold State.update
  extract_lets old r s1 l
  have h1 : s1.mem.Canonical := h.writeLocs.ite h.passThrough
  split
  · exact h1.fireBinding.ite h1
  · exact h1.bindSignal
  · exact h1

theorem Mem.Canonical.endSplit {p : Parker} {agency ctx : Nat} {ls : List Loc} {u : Update} {old : Int} (h : s.mem.Canonical) :
    (s.endSplit p agency ctx ls u old).Canonical := by
  unfold State.endSplit
  extract_lets r fire head own s0 s1 s2
  have h0 : s0.mem.Canonical := h.unhold
  have h1 : s1.mem.Canonical := h0.writeLocs.ite h0.passThrough
  show s2.mem.Canonical
  dsimp only [s2]
  split
  · exact h1.send.ite h1
  · exact h1.send
  · exact h1.fireBinding.ite h1
  · exact h1.bindSignal
  · exact h1

theorem Mem.Canonical.answerAs {p : Parker} {key : Nat} {r : RemoteReply} (h : s.mem.Canonical) :
    (s.answerAs p key r).mem.Canonical := h

theorem Mem.Canonical.dropWait {p : Parker} {key : Nat} (h : s.mem.Canonical) : (s.dropWait p key).mem.Canonical := h

theorem Mem.Canonical.swapHalf {p : Parker} {agency ctx base : Nat} {a : Int} {ls : List Loc} {u : Update} {m q j : Nat} {old : Int}
    (h : s.mem.Canonical) :
    (s.swapHalf p agency ctx base a ls u m q j old).Canonical := by
  refine h.endSplit.ite ?_
  split
  · exact h
  · exact .ite h h.noteFor.askFor
  · exact h.endSplit.ite h.answerAs.dropWait.dropWait
  · exact h.endSplit

theorem Mem.Canonical.splitUpdate {p : Parker} {agency ctx base : Nat} {a : Int} {ls : List Loc} {u : Update} (h : s.mem.Canonical) :
    (s.splitUpdate p agency ctx base a ls u).Canonical := by
  refine .ite h ?_
  split
  · exact h.askParts
  · trivial
  · split
    · exact h.swapHalf
    · refine h.endSplit.ite ?_
      split
      · exact h.askFor
      · exact h.endSplit

theorem Mem.Canonical.farUpdate {p : Parker} {agency ctx base : Nat} {a : Int} {ls : List Loc} {u : Update} (h : s.mem.Canonical) :
    (s.farUpdate p agency ctx base a ls u).Canonical := by
  refine .ite (.ite h h.update) ?_
  split
  · split
    · exact h.askFor
    · trivial
    · split <;> exact h
  · exact h.splitUpdate

theorem Mem.Canonical.decrementSignal {p : Parker} {c : Context} {a word : Int} (h : s.mem.Canonical) :
    (s.decrementSignal p c a word).Canonical := by
  dsimp only [State.decrementSignal]
  split
  · trivial
  · exact h.dropWaits.logEvent
  · refine .ite h.noteBad.dropWaits.logEvent ?_
    split
    next a1 _ _ e1 =>
      have ha1 : a1.mem.Canonical := (h.ite h.touch).farUpdate.of e1
      exact ha1.dropWaits
    next e1 => exact (h.ite h.touch).farUpdate.of e1
    · exact h.dropWaits.logEvent

/-! ### Machine/Engine -/

theorem Mem.Canonical.engineWatch {src ctx team gang : Nat} {wr : Bool} {a : Int} {n : Nat} {ls : List Loc} (h : s.mem.Canonical) :
    (s.engineWatch src ctx team gang wr a n ls).1.mem.Canonical := by
  refine .fstIte ?_ ?_
  · refine .modGang (h.foldl fun s1 a1 hs => ?_)
    split
    · exact hs
    · exact hs.traceStream
  · refine h.foldl fun s1 a1 hs => ?_
    split
    · exact hs
    · exact hs.traceStream

theorem Mem.Canonical.engineEvent {src ctx team gang : Nat} {queue code num : Int} (h : s.mem.Canonical) :
    (s.engineEvent src ctx team gang queue code num).mem.Canonical := h.emitEngine

theorem Mem.Canonical.engineTouch {ctx : Nat} {op : AccOp} {a : Int} {ls : List Loc} (h : s.mem.Canonical) :
    (s.engineTouch ctx op a ls).mem.Canonical := by
  dsimp only [State.engineTouch]
  split
  · exact h.touch
  · exact h

theorem Mem.Canonical.enterAll {p : Parker} {w : Who} {bin : Bool} {cs : Cells} (h : s.mem.Canonical) :
    OkErr (·.mem.Canonical) (·.mem.Canonical) (s.enterAll p w bin cs) := by
  refine .ite h ?_
  split
  · exact h.askFor
  · exact h.dropWaits.touchAt.writeLocs

theorem Mem.Canonical.endLeases {scope : Scope} {core : Nat} {lines : List Nat} (h : s.mem.Canonical) :
    (s.endLeases scope core lines).mem.Canonical := h

theorem Mem.Canonical.engineRead {w : Who} {p : Parker} {op : AccOp} {a : Int} {n : Nat} {pre : List Cause} (h : s.mem.Canonical) :
    (s.engineRead w p op a n pre).Canonical := by
  refine .ite h ?_
  split
  · exact h.noteWalk.ite h
  · split
    · exact h
    · trivial
    · refine .ite h.noteBad (.ite h ?_)
      split
      · exact h
      · exact h.askParts
      · exact h.dropWaits.touch

/-! ### Machine/Control -/

theorem Mem.Canonical.issEmitIndirect {x : Iss} {k : Nat} {what target : Int} (h : s.mem.Canonical) :
    (x.emitIndirect k what target s).mem.Canonical := h.emit

theorem Mem.Canonical.transfer {target : Iss → Nat → Int} {link : Option SReg} {rec : Iss → State → State} (h : s.mem.Canonical)
    (hrec : ∀ (x : Iss) (t : State), t.mem.Canonical → (rec x t).mem.Canonical) :
    (transfer target link rec s).Canonical := h.issueWith fun _ _ _ ht => hrec _ _ ht.issModGang

theorem Mem.Canonical.issEmitBranch {x : Iss} {f : Nat → Int} (h : s.mem.Canonical) :
    (x.emitBranch f s).mem.Canonical := h.emit

theorem Mem.Canonical.execB {c : Cond} {r : SReg} {disp : Int} (h : s.mem.Canonical) :
    (execB c r disp s).Canonical := h.transfer fun _ _ ht => ht.ite ht.issEmitBranch

theorem Mem.Canonical.execB3 {r : SReg} {neg pos : Int} (h : s.mem.Canonical) :
    (execB3 r neg pos s).Canonical := h.transfer fun _ _ ht => ht.issEmitBranch

theorem Mem.Canonical.execCall {link : SReg} {disp : Int} (h : s.mem.Canonical) :
    (execCall link disp s).Canonical := h.transfer fun _ _ ht => ht

theorem Mem.Canonical.execJr {r : SReg} (h : s.mem.Canonical) :
    (execJr r s).Canonical := h.transfer fun _ _ ht => ht.foldl fun _ _ hs => hs.issEmitIndirect

theorem Mem.Canonical.execJalr {link r : SReg} (h : s.mem.Canonical) :
    (execJalr link r s).Canonical := h.transfer fun _ _ ht => ht.foldl fun _ _ hs => hs.issEmitIndirect

theorem Mem.Canonical.execRet {r : SReg} (h : s.mem.Canonical) :
    (execRet r s).Canonical := h.transfer fun _ _ ht => ht.foldl fun _ _ hs => hs.issEmitIndirect

theorem Mem.Canonical.execNop (h : s.mem.Canonical) : (execNop s).Canonical := h.issue fun _ _ _ ht => ht

theorem Mem.Canonical.execTrap {r : SReg} {code : Int} (h : s.mem.Canonical) :
    (execTrap r code s).Canonical := h.issueWith fun _ _ _ _ => trivial

theorem Mem.Canonical.execBrk {code : Int} (h : s.mem.Canonical) :
    (execBrk code s).Canonical := h.issueWith fun _ _ _ ht => .ite ht.issAdvance trivial

theorem Mem.Canonical.execRett (h : s.mem.Canonical) :
    (execRett s).Canonical := h.issueWith fun _ _ _ ht => (ht.foldl fun _ _ hs => hs.issEmitIndirect).issModGang

theorem Mem.Canonical.execExit (h : s.mem.Canonical) :
    (execExit s).Canonical := h.issueWith fun _ _ _ ht => ht.endSlices

theorem Mem.Canonical.execRdsr {r : SReg} {sr : SpecialReg} (h : s.mem.Canonical) :
    (execRdsr r sr s).Canonical := h.issue fun _ _ _ ht => ht.issSetS

theorem Mem.Canonical.execWrsr {r : SReg} {sr : SpecialReg} (h : s.mem.Canonical) : (execWrsr r sr s).Canonical := by
  refine h.issue fun x got t ht => ?_
  split
  · exact ht.issModGang
  · exact ht.issModGang
  · exact ht.modCtx
  · exact ht

theorem Mem.Canonical.execRegang {set : Int} (h : s.mem.Canonical) :
    (execRegang set s).Canonical := h.issueWith fun _ _ _ ht => .ite ht.issModGang (.ite ht.issModGang ht.issModGang)

/-! ### Machine/Sync -/

theorem Mem.Canonical.issWaitOn {x : Iss} {w : Nat → Option Wait} (h : s.mem.Canonical) :
    (x.waitOn w s).mem.Canonical := h.issModGang

theorem Mem.Canonical.mergeJob {j : Job} (h : s.mem.Canonical) :
    (s.mergeJob j).mem.Canonical := h.ite h.modCtx.modGang

theorem Mem.Canonical.observeAt {p : Nat × Nat} (h : s.mem.Canonical) :
    (s.observeAt p).mem.Canonical := h.foldl fun _ _ hs => hs.mergeJob

theorem Mem.Canonical.syncIssue {uses : Iss → Uses} {body : Iss → State → Except Stop State} (h : s.mem.Canonical)
    (hbody : ∀ (x : Iss) (t : State), t.mem.Canonical → OkErr Stop.Canonical (·.mem.Canonical) (body x t)) :
    (syncIssue uses body s).Canonical := h.issueWith fun _ _ _ ht => hbody _ _ ht

theorem Mem.Canonical.initPhaser {p : Nat × Nat} {count : Int} (h : s.mem.Canonical) :
    (s.initPhaser p count).mem.Canonical := .writeLocs (.writeLocs h.modTeam.writeLocs)

theorem Mem.Canonical.execPhinit {rx ry : SReg} (h : s.mem.Canonical) :
    (execPhinit rx ry s).Canonical := h.syncIssue fun _ _ ht => (ht.foldl fun _ _ hs => hs.initPhaser).issAdvance

theorem Mem.Canonical.arrive {p : Nat × Nat} {n : Int} (h : s.mem.Canonical) :
    (s.arrive p n).mem.Canonical := h.modTeam.freeWaiters

theorem Mem.Canonical.pharr {wait : Bool} {rx ry rz : SReg} (h : s.mem.Canonical) :
    (pharr wait rx ry rz s).Canonical :=
  h.syncIssue fun _ _ ht => (((ht.issSetS.foldl fun _ _ hs => hs.arrive).foldl fun _ _ hs => hs.observeAt).ite
    (ht.issSetS.foldl fun _ _ hs => hs.arrive)).issWaitOn

theorem Mem.Canonical.execPharr {x y z : SReg} (h : s.mem.Canonical) : (execPharr x y z s).Canonical := h.pharr

theorem Mem.Canonical.execPharrW {x y z : SReg} (h : s.mem.Canonical) : (execPharrW x y z s).Canonical := h.pharr

theorem Mem.Canonical.issExpects {x : Iss} {rx ry : SReg} (h : s.mem.Canonical) :
    (x.expects rx ry s).1.mem.Canonical := by
  refine .foldlFst h fun r a hr => ?_
  split
  · exact .fstIte hr hr.modTeam.freeWaiters
  · exact hr

theorem Mem.Canonical.execPhexp {rx ry : SReg} (h : s.mem.Canonical) :
    (execPhexp rx ry s).Canonical := h.syncIssue fun _ _ ht => ht.issExpects.issAdvance

theorem Mem.Canonical.execPhwait {rx ry : SReg} (h : s.mem.Canonical) :
    (execPhwait rx ry s).Canonical :=
  h.syncIssue fun _ _ ht => ((ht.foldl fun _ _ hs => hs.modTeam).foldl fun _ _ hs => hs.observeAt).issWaitOn

theorem Mem.Canonical.resumeAt {agency team gang : Nat} {cs : List (Nat × Int)} (h : s.mem.Canonical) :
    (s.resumeAt agency team gang cs).mem.Canonical := by
  refine .modGang ?_
  split
  · split
    · exact h.foldl fun _ _ hs => hs.emit
    · exact h
  · exact h

theorem Mem.Canonical.execYield {rx ry rz : SReg} (h : s.mem.Canonical) :
    (execYield rx ry rz s).Canonical :=
  h.syncIssue fun _ _ ht => .ite ((ht.foldl fun _ _ hs => hs.modTeam).foldl fun _ _ hs => hs.observeAt).resumeAt
    (ht.foldl fun _ _ hs => hs.modTeam).emitSched.issModSlices

theorem Mem.Canonical.barClashed {team : Nat} {c : Cause} (h : s.mem.Canonical) :
    (s.barClashed team c).mem.Canonical := h.modTeam.ite h

theorem Mem.Canonical.execBar {m : MReg} (h : s.mem.Canonical) : (execBar m s).Canonical := by
  refine h.syncIssue fun x t ht => ?_
  dsimp only
  split
  · exact ht.barClashed
  · split
    · exact ht.modTeam.issWaitOn
    · exact ht.modTeam

theorem Mem.Canonical.execSyncs {r : SReg} (h : s.mem.Canonical) : (execSyncs r s).Canonical := by
  refine h.syncIssue fun x t ht => ?_
  dsimp only
  refine .ite ht.issModGang ?_
  split
  · exact ht.issModGang.issWaitOn
  · exact ht.issModGang

theorem Mem.Canonical.execRacq {r : SReg} {m : MReg} (h : s.mem.Canonical) :
    (execRacq r m s).Canonical := h.syncIssue fun _ _ ht => (ht.issModGang.ite ht).issPutMask.issAdvance

theorem Mem.Canonical.execRacqW {r : SReg} (h : s.mem.Canonical) :
    (execRacqW r s).Canonical := h.syncIssue fun _ _ ht => .ite ht.issModGang.issAdvance (.issModSlices ht)

theorem Mem.Canonical.execRrel {r : SReg} (h : s.mem.Canonical) :
    (execRrel r s).Canonical := h.syncIssue fun _ _ ht => .ite ht ht.issModGang.issAdvance.blocksReturned

/-! ### Machine/Copy -/

theorem Mem.Canonical.land {team : Nat} {a n : Int} (h : s.mem.Canonical) : (s.land team a n).mem.Canonical := by
  dsimp only [State.land]
  split
  · exact h
  · split
    · exact h.modTeam.freeWaiters
    · exact h

theorem Mem.Canonical.settle {ctx team gang slice : Nat} (h : s.mem.Canonical) :
    (s.settle ctx team gang slice).mem.Canonical := by
  dsimp only [State.settle]
  split
  · exact h
  · exact ((h.modGang.foldl fun _ _ hs => hs.engineEvent).foldl fun _ _ hs => hs.engineEvent).foldl fun _ _ hs => hs.ite hs.land

theorem Mem.Canonical.haltWaiters {ctx : Nat} (h : s.mem.Canonical) : (s.haltWaiters ctx).mem.Canonical := by
  refine h.ite (h.foldl fun s1 a hs => ?_)
  split
  · exact hs
  · exact hs.ite (hs.foldl fun _ _ hs2 => hs2.halt.ite hs2)

theorem Mem.Canonical.mergeJobs {ctx team gang slice : Nat} {visible : Bool} (h : s.mem.Canonical) :
    (s.mergeJobs ctx team gang slice visible).mem.Canonical := by
  dsimp only [State.mergeJobs]
  split
  · exact h.modCtx.modGang
  · exact h

theorem Mem.Canonical.cpy {scatter : Bool} {f : CpyF} (h : s.mem.Canonical) :
    (cpy scatter f s).Canonical := h.issue fun _ _ _ ht => .ite ht (.issModSlices ht)

theorem Mem.Canonical.execCpyG {f : CpyF} (h : s.mem.Canonical) : (execCpyG f s).Canonical := h.cpy

theorem Mem.Canonical.execCpyS {f : CpyF} (h : s.mem.Canonical) : (execCpyS f s).Canonical := h.cpy

theorem Mem.Canonical.execCpseal {rx ry : SReg} (h : s.mem.Canonical) :
    (execCpseal rx ry s).Canonical :=
  h.issue fun _ _ _ ht => .ite ht ((ht.issModSlices.issSetS.foldl fun _ _ hs => hs.engineEvent).foldl fun _ _ hs => hs.settle)

theorem Mem.Canonical.cpwait {visible : Bool} {r : SReg} (h : s.mem.Canonical) :
    (cpwait visible r s).Canonical := h.issueWith fun _ _ _ ht => (ht.foldl fun _ _ hs => hs.mergeJobs).issWaitOn.haltWaiters

theorem Mem.Canonical.execCpwaitRd {r : SReg} (h : s.mem.Canonical) : (execCpwaitRd r s).Canonical := h.cpwait

theorem Mem.Canonical.execCpwaitVis {r : SReg} (h : s.mem.Canonical) : (execCpwaitVis r s).Canonical := h.cpwait

theorem Mem.Canonical.modCopy {id : Nat} {f : LaneCopy → LaneCopy} (h : s.mem.Canonical) :
    (s.modCopy id f).mem.Canonical := h

theorem Mem.Canonical.freezeCopy {c : LaneCopy} {cause : Cause} (h : s.mem.Canonical) :
    (s.freezeCopy c cause).mem.Canonical := h.modCopy.engineEvent.logEvent.haltWaiters

theorem Mem.Canonical.dropCopy {id : Nat} (h : s.mem.Canonical) : (s.dropCopy id).mem.Canonical := h

theorem Mem.Canonical.execLaneCopyReadDone {id : Nat} (h : s.mem.Canonical) :
    (execLaneCopyReadDone id s).Canonical := by
  dsimp only [Machine.execLaneCopyReadDone]
  split
  · trivial
  · refine .ite trivial (.ite trivial (.ite h.noteBad.freezeCopy ?_))
    split
    · exact h.dropWaits.freezeCopy
    · exact .ite trivial h.askParts
    · exact h.dropWaits.engineTouch.engineWatch.modCopy.settle

theorem Mem.Canonical.execLaneCopyVisible {id : Nat} (h : s.mem.Canonical) :
    (execLaneCopyVisible id s).Canonical := by
  dsimp only [Machine.execLaneCopyVisible]
  split
  · trivial
  · refine .ite trivial (.ite h.noteBad.freezeCopy ?_)
    split
    · trivial
    next s' e1 =>
      have hs' : s'.mem.Canonical := AllSome.of e1 (allSome_map (fun _ => h.enterAll))
      exact .ite trivial hs'
    next s0 e1 =>
      have hs0 : s0.mem.Canonical := AllSome.of e1 (allSome_map (fun _ => h.enterAll))
      exact (hs0.engineWatch.engineEvent.ite hs0.engineWatch).endLeases.dropCopy.settle.reap

theorem Mem.Canonical.execFaultedCopyFinish {id : Nat} (h : s.mem.Canonical) :
    (execFaultedCopyFinish id s).Canonical := by
  dsimp only [Machine.execFaultedCopyFinish]
  split
  · trivial
  · exact .ite trivial h.dropCopy.modGang.settle.reap

/-! ### Machine/Ports -/

theorem Mem.Canonical.execPortcfg {rx ry rz : SReg} (h : s.mem.Canonical) :
    (execPortcfg rx ry rz s).Canonical := h.issue fun _ _ _ ht => ht.foldl fun _ _ hs => hs.modTeam.issSetS

theorem Mem.Canonical.reserveAll {ps : List (Nat × Int × Int)} (h : s.mem.Canonical) : (s.reserveAll ps).s.mem.Canonical := by
  refine List.foldlRecOn (motive := fun a : LocalPosts => a.s.mem.Canonical) ps _ h fun a ha p _ => ?_
  split
  · split <;> exact ha
  · split
    next s' e => exact ha.reserve.of e
    · exact ha
    · exact ha
    · exact ha

theorem Mem.Canonical.releaseRemote {x : Iss} {ps : List (Nat × Int × Int)} (h : s.mem.Canonical) :
    (s.releaseRemote x ps).mem.Canonical := by
  refine h.foldl fun s1 a hs => ?_
  split
  · exact hs.send
  · exact hs

theorem Mem.Canonical.note {x : Iss} {key : Nat} {r : RemoteReply} (h : s.mem.Canonical) :
    (s.note x key r).mem.Canonical := h

theorem Mem.Canonical.landTurns {x : Iss} {ps : List (Nat × Int × Int)} (h : s.mem.Canonical) : (s.landTurns x ps).1.mem.Canonical := by
  induction ps generalizing s with
  | nil => exact h
  | cons p ps ih =>
    unfold State.landTurns
    split
    · split
      · exact ih h
      · exact h
    · split
      · split
        · exact h.park
        · exact ih h.landPost.note
      · exact h.askFor

theorem Mem.Canonical.reservePosts {x : Iss} {nf : Bool} {ps : List (Nat × Int × Int)} (h : s.mem.Canonical) :
    (s.reservePosts x nf ps).Canonical := by
  dsimp only [State.reservePosts]
  generalize (s.reserveAll ps).bad ++ _ ++ _ = bad
  split
  · exact h.askFor
  · split
    · exact h
    · split
      · trivial
      · split
        · exact h.foldl fun _ _ hs => hs.park
        · exact h.reserveAll

/-- What a POST does to its destination mask once its messages have landed. -/
def postFinish (nf : Option MReg) (x : Iss) (ps : List (Nat × Int × Int)) (ok : List Nat) (s : State) : State :=
  match nf with
  | some m => x.putMask m (ps.flatMap fun p => (lanesOf [p.1]).map fun l => (l, if ok.contains p.1 then 1 else 0)) s
  | none => s

/-- The messages of a POST that got a place landed, and its mask written or the wait. -/
def postLand (nf : Option MReg) (x : Iss) (ps : List (Nat × Int × Int)) (ok : List Nat) (s : State) : Except Stop State :=
  if (s.landTurns x (ps.filter fun p => ok.contains p.1)).2 then
    .ok (postFinish nf x ps ok (s.landTurns x (ps.filter fun p => ok.contains p.1)).1)
  else .error (.stall .post (s.landTurns x (ps.filter fun p => ok.contains p.1)).1)

theorem Mem.Canonical.post {nf : Option MReg} {rx ry : SReg} (h : s.mem.Canonical) : (post nf rx ry s).Canonical := by
  refine h.issue fun x _ t ht => ?_
  have finish : ∀ {r : State} (ok : List Nat), r.mem.Canonical → (postFinish nf x (x.posts rx ry) ok r).mem.Canonical := by
    intro r ok hr
    cases nf with
    | none => exact hr
    | some m => exact hr.issPutMask
  have land : ∀ {r : State} (ok : List Nat), r.mem.Canonical →
      OkErr Stop.Canonical (·.mem.Canonical) (postLand nf x (x.posts rx ry) ok r) :=
    fun ok hr => .ite (finish ok hr.landTurns) hr.landTurns
  dsimp only
  split
  · exact land _ ht
  · split
    · exact .ite ht.releaseRemote ht.releaseRemote
    next s1 e => exact ht.reservePosts.of e
    next s1 ok e =>
      have hs1 : s1.mem.Canonical := ht.reservePosts.of e
      exact .ite (finish ok (hs1.foldl fun _ _ hs => hs.landPost)) (land ok hs1.note)

theorem Mem.Canonical.execPost {x y : SReg} (h : s.mem.Canonical) : (execPost x y s).Canonical := h.post

theorem Mem.Canonical.execPostNf {x y : SReg} {m : MReg} (h : s.mem.Canonical) :
    (execPostNf x y m s).Canonical := h.post

theorem Mem.Canonical.execPortqry {rx ry : SReg} (h : s.mem.Canonical) :
    (execPortqry rx ry s).Canonical := h.issue fun _ _ _ ht => ht.issSetS

theorem Mem.Canonical.execPatset {rx ry rz : SReg} {prio : Int} (h : s.mem.Canonical) :
    (execPatset rx ry rz prio s).Canonical := h.issue fun _ _ _ ht => ht.foldl fun _ _ hs => hs.modTeam

theorem Mem.Canonical.patSwitch {on : Bool} {rx : SReg} (h : s.mem.Canonical) :
    (patSwitch on rx s).Canonical := h.issue fun _ _ _ ht => ht.foldl fun _ _ hs => hs.modTeam

theorem Mem.Canonical.execPaten {x : SReg} (h : s.mem.Canonical) : (execPaten x s).Canonical := h.patSwitch

theorem Mem.Canonical.execPatdis {x : SReg} (h : s.mem.Canonical) : (execPatdis x s).Canonical := h.patSwitch

theorem Mem.Canonical.execHeldSignalPostLand {n : Nat} (h : s.mem.Canonical) :
    (execHeldSignalPostLand n s).Canonical := by
  dsimp only [Machine.execHeldSignalPostLand]
  split
  · trivial
  · refine .ite trivial ?_
    split
    next e1 => exact (h.landHeldPost.ite h.landFarPost).of e1
    · trivial

theorem Mem.Canonical.firePattern {t : Team} {i : Nat} (h : s.mem.Canonical) : (s.firePattern t i).mem.Canonical := by
  dsimp only [State.firePattern]
  split
  · refine .foldl ?_ fun s1 a hs => ?_
    · refine .emitSched (.emitJoin ?_)
      dsimp only
      exact h.modTeam
    · split
      · exact hs.flushPosts
      · exact hs
  · exact h

theorem Mem.Canonical.execJoinUnitCycle {core : Nat} (h : s.mem.Canonical) :
    (execJoinUnitCycle core s).Canonical := by
  refine .ite trivial ?_
  split
  · exact h.firePattern
  · exact h

/-! ### Machine/Record -/

theorem Mem.Canonical.putWord {w : Who} {a v : Int} (h : s.mem.Canonical) : (s.putWord w a v).mem.Canonical := by
  dsimp only [State.putWord]
  split
  next e => exact h.devWrite.of e
  · exact h

theorem Mem.Canonical.putWords {w : Who} {a : Int} {vs : List Int} (h : s.mem.Canonical) :
    (s.putWords w a vs).mem.Canonical := h.foldl fun _ _ hs => hs.putWord

theorem Mem.Canonical.writeRecord {t : Team} {boundary : Bool} (h : s.mem.Canonical) :
    (s.writeRecord t boundary).mem.Canonical := by
  dsimp only [State.writeRecord]
  split
  · exact h
  · refine .putWords (.foldl (.foldl ?_ fun _ _ hs => hs.putWords) fun _ _ hs => hs.devWrites)
    refine (h.putWords.foldl fun _ _ hs => hs.foldl fun _ _ hs2 => hs2.putWord).foldl fun s1 a hs => ?_
    split
    next e1 => exact hs.devWrite.of e1
    · exact hs

theorem Mem.Canonical.parkRecords {ts : List Team} (h : s.mem.Canonical) :
    (s.parkRecords ts).mem.Canonical := h.foldl fun _ _ hs => hs.ite hs.park

/-! ### Machine/Distribute -/

theorem Mem.Canonical.emitDist {t : Team} {what : Int} (h : s.mem.Canonical) : (s.emitDist t what).mem.Canonical := by
  dsimp only [State.emitDist]
  split
  · exact h.emit
  · exact h

theorem Mem.Canonical.allocate {m : Mem} {core line n : Nat} (h : m.Canonical) :
    (m.allocate core line n).Canonical := h

theorem Mem.Canonical.placeFresh {g : Grid} {index core line : Nat} (h : s.mem.Canonical) :
    AllSome (·.mem.Canonical) (s.placeFresh g index core line) := by
  dsimp only [State.placeFresh]
  split
  · trivial
  · split
    · trivial
    · exact .ite trivial (.foldl (.emitDist (.modCtx (.modGrid h.allocate))) fun _ _ hs => hs.emitSched)

theorem Mem.Canonical.retestTeam {t : Team} (h : s.mem.Canonical) :
    (s.retestTeam t).mem.Canonical := (h.foldl fun _ _ hs => hs.freeWaiters).foldl fun _ _ hs => hs.retest

theorem Mem.Canonical.placeResume {s0 : State} {t : Team} {core line : Nat} (h : s0.mem.Canonical) :
    AllSome (·.mem.Canonical) (s0.placeResume t core line) := by
  dsimp only [State.placeResume]
  split
  · split
    · exact h.dropWaits.modTeam.logEvent
    · exact .blocksReturned (.retestTeam (.emitDist (.putWord (.modTeam (.dropWaits h.allocate)))))
  · trivial

theorem Mem.Canonical.placeOn {core : Nat} {fresh : Option (Grid × Nat)} {key : Nat} (h : s.mem.Canonical) :
    AllSome (·.mem.Canonical) (s.placeOn core fresh key) := by
  refine .ite trivial ?_
  split
  · split
    · exact h.placeFresh
    · trivial
  · split
    · trivial
    · split
      · trivial
      · split
        · exact h.placeResume
        · trivial

theorem Mem.Canonical.placeEach {cores : List Nat} {qs : List (Option (Grid × Nat) × Nat)} (h : s.mem.Canonical) :
    AllSome (·.mem.Canonical) (s.placeEach cores qs) := by
  induction qs generalizing s with
  | nil => exact h
  | cons q qs ih =>
    unfold State.placeEach
    have hq : AllSome (·.mem.Canonical) (cores.findSome? fun c => s.placeOn c (s.refresh q.1) q.2) :=
      allSome_findSome? fun _ => h.placeOn
    split
    next s' e => exact ih (hq.of e)
    · trivial

theorem Mem.Canonical.placeHome {qs : List (Option (Grid × Nat) × Nat)} (h : s.mem.Canonical) :
    AllSome (·.mem.Canonical) (s.placeHome qs) := by
  refine List.foldlRecOn (motive := AllSome fun o : State => o.mem.Canonical) qs _ h fun o ho q _ => ?_
  exact ho.bind fun _ hs => allSome_bind fun _ => hs.placeOn

theorem Mem.Canonical.placeItem {p : Pend} (h : s.mem.Canonical) : AllSome (·.mem.Canonical) (s.placeItem p) := by
  dsimp only [State.placeItem]
  generalize (List.range 1024).map _ = order
  split
  · trivial
  · refine .ite h.placeHome (.ite ?_ ?_)
    · exact allSome_findSome? fun _ => h.placeEach.map fun _ hs => hs
    · exact allSome_findSome? fun _ => h.placeOn.map fun _ hs => hs

theorem Mem.Canonical.askRecords {ts : List Team} (h : s.mem.Canonical) : AllSome (·.mem.Canonical) (s.askRecords ts) := by
  refine List.foldlRecOn (motive := AllSome fun o : State => o.mem.Canonical) ts _ trivial fun o ho t _ => ?_
  dsimp only
  split
  · exact ho
  · split
    · exact (ho.getD h).askFor
    · exact ho

theorem Mem.Canonical.execDistributorPlace (h : s.mem.Canonical) : (execDistributorPlace s).Canonical := by
  dsimp only [Machine.execDistributorPlace]
  split
  · trivial
  · split
    · trivial
    next s1 e1 =>
      have hs1 : s1.mem.Canonical := h.placeItem.of e1
      refine .ite trivial (.ite h.parkRecords ?_)
      split
      · exact hs1
      next s11 e2 =>
        have hs11 : s11.mem.Canonical := h.askRecords.of e2
        exact .ite trivial hs11

theorem Mem.Canonical.switchOut {ts : List Team} (h : s.mem.Canonical) : (s.switchOut ts).mem.Canonical := by
  refine .foldl (h.foldl fun s1 a hs => ?_) fun _ _ hs => hs.blocksReturned
  split
  · exact hs.writeRecord.modTeam.emitDist
  · exact hs

/-! ### Machine/Jobs -/

theorem Mem.Canonical.submitJob {x : Iss} {k : Nat} {a : Int} {c : List Int} (h : s.mem.Canonical) :
    (s.submitJob x k a c).1.mem.Canonical := by
  dsimp only [State.submitJob]
  split
  · exact h
  · exact h.modCtx.issModGang

theorem Mem.Canonical.execJobsub {rx ry : SReg} (h : s.mem.Canonical) :
    (execJobsub rx ry s).Canonical := h.issue fun _ _ _ ht => .ite ht (ht.foldl fun _ _ hs => hs.submitJob.issSetS)

theorem Mem.Canonical.execJobqry {rx ry : SReg} (h : s.mem.Canonical) : (execJobqry rx ry s).Canonical := by
  refine h.issue fun x got t ht => ?_
  dsimp only [OkErr]
  refine ht.foldl fun s1 a hs => ?_
  split
  · exact hs.issSetS
  · exact (hs.mergeJob.ite hs).issSetS

theorem Mem.Canonical.bodyLoad {x : Iss} {k key : Nat} {a : Int} {n : Nat} {al : Int} (h : s.mem.Canonical) :
    OkErr Stop.Canonical (fun _ => True) (s.bodyLoad x k key a n al) := by
  refine .ite h ?_
  split
  · exact h.stopWalk
  · trivial
  · exact h.dropWaits.park
  · split
    · exact h.stopBad
    · split
      · exact h
      · exact h.askFor
      · exact .ite h.stopBad trivial
      · trivial

theorem Mem.Canonical.bodyDoubles {x : Iss} {k key : Nat} {a : Int} {n : Nat} {al : Int} (h : s.mem.Canonical) :
    OkErr Stop.Canonical (fun _ => True) (s.bodyDoubles x k key a n al) := by
  dsimp only [State.bodyDoubles]
  split
  next e1 =>
    dsimp only [OkErr]
    exact h.bodyLoad.of e1
  · trivial

theorem Mem.Canonical.bodyDone {x : Iss} {accs : List Acc} (h : s.mem.Canonical) :
    OkErr Stop.Canonical (·.mem.Canonical) (s.bodyDone x accs) := by
  dsimp only [State.bodyDone]
  split
  next e1 => exact h.watchLate.of e1
  next s3 e =>
    have hs3 : s3.mem.Canonical := h.watchLate.of e
    exact hs3.foldl fun _ _ hs => hs.touch

theorem sliceTrap_canonical {k : Nat} {c : Cause} : (sliceTrap k c).Canonical := trivial

theorem joinStops_canonical {es : List Stop} (hes : ∀ e ∈ es, e.Canonical) : AllSome Stop.Canonical (joinStops es) := by
  refine .ite trivial ?_
  cases es with
  | nil => trivial
  | cons e es => exact hes e List.mem_cons_self

theorem Mem.Canonical.stageCards {x : Iss} {k : Nat} {as : List (Int × Nat)} (h : s.mem.Canonical) :
    ∀ e ∈ (s.stageCards x k as).2, e.Canonical := by
  refine List.foldlRecOn (motive := fun r : List (Int × List Int) × List Stop => ∀ e ∈ r.2, e.Canonical) as _
    (fun _ he => absurd he List.not_mem_nil) fun r hr a _ => ?_
  split
  next e hread =>
    exact List.forall_mem_append.mpr ⟨hr, List.forall_mem_singleton.mpr (h.bodyDoubles.of hread)⟩
  · exact List.forall_mem_append.mpr ⟨hr, List.forall_mem_map.mpr fun _ _ => trivial⟩

theorem Mem.Canonical.stage {x : Iss} {k : Nat} {n : Int} (h : s.mem.Canonical) :
    OkErr Stop.Canonical (fun _ => True) (s.stage x k n) := by
  refine .ite trivial ?_
  split
  next e hread => exact (h.bodyDoubles.of hread).error
  · refine .ite trivial (.ite trivial ?_)
    split
    next e hread => exact (h.bodyDoubles.of hread).error
    · refine .ite trivial ?_
      split
      next e hread => exact (h.bodyDoubles.of hread).error
      · refine .ite trivial ?_
        split
        next e hread => exact (h.bodyDoubles.of hread).error
        next as _ =>
          dsimp only
          split
          next e hjoin =>
            refine (joinStops_canonical (List.forall_mem_append.mpr ⟨h.stageCards, ?_⟩)).of hjoin
            split
            · exact List.forall_mem_singleton.mpr trivial
            · exact fun _ he => absurd he List.not_mem_nil
          · trivial

theorem Mem.Canonical.stages {x : Iss} {rx : SReg} {ks : List Nat} {next : Int} (h : s.mem.Canonical) :
    ∀ p ∈ s.stages x rx ks next, OkErr Stop.Canonical (fun _ => True) p.2 := by
  induction ks generalizing next with
  | nil => exact fun _ hp => absurd hp List.not_mem_nil
  | cons k ks ih =>
    unfold State.stages
    split
    · exact List.forall_mem_cons.mpr ⟨trivial, ih⟩
    · split
      · exact List.forall_mem_cons.mpr ⟨trivial, ih⟩
      · split
        · exact List.forall_mem_cons.mpr ⟨trivial, ih⟩
        · split
          next e hstage => exact List.forall_mem_cons.mpr ⟨h.stage.of hstage, ih⟩
          · exact List.forall_mem_cons.mpr ⟨trivial, ih⟩

theorem Mem.Canonical.execAdvstg {rx ry : SReg} (h : s.mem.Canonical) : (execAdvstg rx ry s).Canonical := by
  refine h.issue fun x _ t ht => ?_
  dsimp only
  split
  next e hjoin =>
    refine (joinStops_canonical (forall_mem_filterMap fun p hp => ?_)).of hjoin
    split
    next e hstop => exact ((ht.stages p hp).of hstop).error
    · trivial
  · refine .ite ht ?_
    split
    next e hdone => exact ht.bodyDone.of hdone
    next s1 hdone =>
      have hs1 : s1.mem.Canonical := ht.bodyDone.of hdone
      refine hs1.foldl fun s p hs => ?_
      refine .issSetS (.ite ?_ (.modTeam ?_)) <;> exact hs.foldlFst fun _ _ hr => hr.submitJob

theorem Mem.Canonical.modJob {j : Job} {f : Job → Job} (h : s.mem.Canonical) :
    (s.modJob j f).mem.Canonical := h.modCtx

theorem Mem.Canonical.jobEvent {j : Job} {code : Int} (h : s.mem.Canonical) :
    (s.jobEvent j code).mem.Canonical := h.engineEvent

theorem Mem.Canonical.execJobStart {ctx n : Nat} (h : s.mem.Canonical) : (execJobStart ctx n s).Canonical := by
  dsimp only [Machine.execJobStart]
  split
  · trivial
  · split
    · trivial
    · exact .ite trivial h.modJob.jobEvent

theorem Mem.Canonical.faultJob {j : Job} {c : Cause} {a : Int} (h : s.mem.Canonical) :
    (s.faultJob j c a).mem.Canonical := h.modJob.dropWaits.jobEvent.logEvent.haltWaiters

theorem Mem.Canonical.jobPark {j : Job} {ps : List (Int × Int)} (h : s.mem.Canonical) :
    (s.jobPark j ps).mem.Canonical := h.park.modJob

theorem Mem.Canonical.jobRead {j : Job} {c : Context} {a : Int} {n : Nat} {bin : Bool} {al : Int} (h : s.mem.Canonical) :
    (s.jobRead j c a n bin al).mem.Canonical := by
  dsimp only [State.jobRead]
  split
  next s1 e1 =>
    have hs1 : s1.mem.Canonical := h.engineRead.of e1
    exact hs1.faultJob
  · exact h.jobPark
  next e => exact h.engineRead.of e
  next s1 e =>
    have hs1 : s1.mem.Canonical := h.engineRead.of e
    exact hs1.engineWatch.modJob

theorem Mem.Canonical.jobStage {j : Job} {c : Context} (h : s.mem.Canonical) : (s.jobStage j c).mem.Canonical := by
  dsimp only [State.jobStage]
  split
  · exact h.faultJob
  · split
    · exact h.faultJob
    · split
      · exact h.faultJob
      · exact h.jobPark
      · exact h.engineWatch.modJob

theorem Mem.Canonical.execJobAccess {ctx n : Nat} {s0 : State} (h : s0.mem.Canonical) :
    (execJobAccess ctx n s0).Canonical := by
  dsimp only [Machine.execJobAccess]
  split
  · exact .ite trivial (.ite h.modJob.jobRead (.ite h.modJob.faultJob (.ite h.modJob.jobRead h.modJob.jobStage)))
  · trivial

theorem Mem.Canonical.execJobReadDone {ctx n : Nat} (h : s.mem.Canonical) : (execJobReadDone ctx n s).Canonical := by
  dsimp only [Machine.execJobReadDone]
  split
  · exact .ite trivial h.modJob.jobEvent.settle
  · trivial

theorem Mem.Canonical.jobReport {j : Job} (h : s.mem.Canonical) :
    (s.jobReport j).mem.Canonical := (h.modJob.jobEvent.jobEvent.ite h.modJob.jobEvent).settle.reap

theorem Mem.Canonical.jobLand {j : Job} (h : s.mem.Canonical) : (s.jobLand j).mem.Canonical := h.ite h.land

theorem Mem.Canonical.enterStaged {p : Parker} {w : Who} {bin : Bool} {st : List (Int × Int)} (h : s.mem.Canonical) :
    (s.enterStaged p w bin st).Canonical := by
  dsimp only [State.enterStaged]
  split
  · exact h
  · split
    · trivial
    · split
      · exact h.noteBad
      · split
        · exact h.askFor
        · split <;> exact h
        · split
          next e4 => exact h.enterAll.of e4
          next e4 => exact h.enterAll.of e4

theorem Mem.Canonical.jobSignal {j : Job} {c : Context} (h : s.mem.Canonical) : (s.jobSignal j c).mem.Canonical := by
  refine h.jobReport.ite ?_
  split
  next a e =>
    have ha : a.mem.Canonical := h.decrementSignal.of e
    exact ha.jobReport
  next e => exact h.decrementSignal.of e
  · exact h.park

theorem Mem.Canonical.execJobVisibleCompletion {ctx n : Nat} (h : s.mem.Canonical) :
    (execJobVisibleCompletion ctx n s).Canonical := by
  dsimp only [Machine.execJobVisibleCompletion]
  split
  · refine .ite trivial (.ite (.ite trivial (.ite h.faultJob h.askFor)) (.ite (.ite trivial h.jobSignal) ?_))
    split
    next s1 e3 =>
      have hs1 : s1.mem.Canonical := h.enterStaged.of e3
      exact hs1.faultJob
    · exact h.park
    next s1 e2 =>
      have hs1 : s1.mem.Canonical := h.enterStaged.of e2
      exact .ite trivial hs1
    next s1 _ e2 =>
      have hs1 : s1.mem.Canonical := h.enterStaged.of e2
      exact hs1.endLeases.jobLand.modJob.jobSignal
  · trivial

theorem Mem.Canonical.jobAcked {j : Job} {c : Context} {tag : Nat} (h : s.mem.Canonical) :
    (s.jobAcked j c tag).mem.Canonical := h.dropWaits.jobLand.jobReport.ite h.dropWaits.jobLand.modJob.askFor

theorem Mem.Canonical.execM2mJobAck {ctx n : Nat} (h : s.mem.Canonical) : (execM2mJobAck ctx n s).Canonical := by
  dsimp only [Machine.execM2mJobAck]
  split
  · refine .ite trivial ?_
    split
    · refine .ite trivial (.ite h.dropWaits.jobReport ?_)
      split
      · exact h.faultJob
      · exact .ite trivial h.jobAcked
      · exact h.faultJob
    · trivial
  · trivial

theorem Mem.Canonical.execFaultedJobFinish {ctx n : Nat} (h : s.mem.Canonical) :
    (execFaultedJobFinish ctx n s).Canonical := by
  dsimp only [Machine.execFaultedJobFinish]
  split
  · exact .ite trivial h.modJob.settle.reap
  · trivial

/-! ### Machine/Matrix -/

theorem Mem.Canonical.enterMx {x : Iss} {o : MxOp} (h : s.mem.Canonical) : (s.enterMx x o).mem.Canonical := by
  refine .engineEvent ?_
  dsimp only
  exact h.issModGang

theorem Mem.Canonical.mxm {o : MxForm} {f : MxmF} (h : s.mem.Canonical) : (mxm o f s).Canonical := by
  refine h.issue fun x got t ht => ?_
  split
  · exact ht
  · exact .enterMx (ht.issSpend.ite ht)

theorem Mem.Canonical.execMxmN3 {f : MxmF} {d : Fin 9} (h : s.mem.Canonical) : (execMxmN3 f d s).Canonical := h.mxm

theorem Mem.Canonical.execMxmN3Z {f : MxmF} {d : Fin 9} (h : s.mem.Canonical) : (execMxmN3Z f d s).Canonical := h.mxm

theorem Mem.Canonical.execMxmI9 {f : MxmF} {sat : Bool} (h : s.mem.Canonical) : (execMxmI9 f sat s).Canonical := h.mxm

theorem Mem.Canonical.execMxmF9 {f : MxmF} {rnd : Option Rnd} (h : s.mem.Canonical) :
    (execMxmF9 f rnd s).Canonical := h.mxm

theorem Mem.Canonical.execMxmI27 {f : MxmF} {sat : Bool} (h : s.mem.Canonical) :
    (execMxmI27 f sat s).Canonical := h.mxm

theorem Mem.Canonical.execMxmF27 {f : MxmF} {rnd : Option Rnd} (h : s.mem.Canonical) :
    (execMxmF27 f rnd s).Canonical := h.mxm

theorem Mem.Canonical.execMxz {t : TReg} (h : s.mem.Canonical) : (execMxz t s).Canonical := by
  refine h.issue fun x got t1 ht => ?_
  split
  · exact ht
  · exact ht.enterMx

theorem Mem.Canonical.modTiles {team gang : Nat} {f : ZMap → ZMap} (h : s.mem.Canonical) :
    (s.modTiles team gang f).mem.Canonical := h.modTeam

theorem Mem.Canonical.execMatrixOpEnterArray {core : Nat} (h : s.mem.Canonical) :
    (execMatrixOpEnterArray core s).Canonical := by
  dsimp only [Machine.execMatrixOpEnterArray]
  split
  · trivial
  · exact h.modGang

theorem Mem.Canonical.execMatrixOpRetire {core : Nat} (h : s.mem.Canonical) :
    (execMatrixOpRetire core s).Canonical := by
  dsimp only [Machine.execMatrixOpRetire]
  split
  · trivial
  · split
    · exact h.modTiles.modGang.count.engineEvent.reap
    · trivial

theorem Mem.Canonical.tileMove {load cols : Bool} {v : VReg} {t : TReg} {rg : SReg} (h : s.mem.Canonical) :
    (tileMove load cols v t rg s).Canonical := h.issue fun _ _ _ ht => .ite ht ht.issModGang

theorem Mem.Canonical.execTld {x : VReg} {y : TReg} {z : SReg} (h : s.mem.Canonical) :
    (execTld x y z s).Canonical := h.tileMove

theorem Mem.Canonical.execTldC {x : VReg} {y : TReg} {z : SReg} (h : s.mem.Canonical) :
    (execTldC x y z s).Canonical := h.tileMove

theorem Mem.Canonical.execTst {x : VReg} {y : TReg} {z : SReg} (h : s.mem.Canonical) :
    (execTst x y z s).Canonical := h.tileMove

theorem Mem.Canonical.execTstC {x : VReg} {y : TReg} {z : SReg} (h : s.mem.Canonical) :
    (execTstC x y z s).Canonical := h.tileMove

theorem Mem.Canonical.execTileMoveLand {team gang : Nat} (h : s.mem.Canonical) :
    (execTileMoveLand team gang s).Canonical := by
  dsimp only [Machine.execTileMoveLand]
  split
  · split
    · exact .ite (h.modGang.ite h.modTiles).modGang.engineEvent.reap trivial
    · trivial
  · trivial

theorem Mem.Canonical.execTwait {r : SReg} (h : s.mem.Canonical) :
    (execTwait r s).Canonical := h.syncIssue fun _ _ ht => ht.issWaitOn

theorem Mem.Canonical.execMxseal {r : SReg} (h : s.mem.Canonical) :
    (execMxseal r s).Canonical := h.issue fun _ _ _ ht => ht.issModGang.issSetS

theorem Mem.Canonical.execMxwait {r : SReg} (h : s.mem.Canonical) :
    (execMxwait r s).Canonical := h.syncIssue fun _ _ ht => ht.issWaitOn

theorem Mem.Canonical.execTkgive {t : TReg} {r : SReg} (h : s.mem.Canonical) :
    (execTkgive t r s).Canonical := h.issue fun _ _ _ ht => .ite ht ht.modTeam

theorem Mem.Canonical.execTokenPass {team : Nat} {tile : TReg} (h : s.mem.Canonical) :
    (execTokenPass team tile s).Canonical := by
  dsimp only [Machine.execTokenPass]
  split
  · trivial
  · split
    · trivial
    · exact .ite trivial h.modTeam

theorem Mem.Canonical.execTktake {t : TReg} {m : MReg} (h : s.mem.Canonical) :
    (execTktake t m s).Canonical := h.issue fun _ _ _ ht => .ite ht ht.issPutMask

/-! ### Machine/Launch -/

theorem Mem.Canonical.acceptGrid {ctx depth : Nat} {parent : Option Nat} {r : List Int} {pats : List Pattern} (h : s.mem.Canonical) :
    (s.acceptGrid ctx depth parent r pats).mem.Canonical := h

theorem Mem.Canonical.launchSlice {x : Iss} {k : Nat} {r : List Int} (h : s.mem.Canonical) :
    OkErr Stop.Canonical (fun _ => True) (s.launchSlice x k r) := by
  refine .ite trivial ?_
  have hsmall : ∀ g : Grid, AllSome Stop.Canonical (if g.fitsEmpty then none else some (sliceTrap k .gridTooLarge)) :=
    fun _ => .ite trivial trivial
  split
  · split
    next e hfits => exact (hsmall _).of hfits
    · trivial
  · split
    next e hread =>
      have he : e.Canonical := h.bodyDoubles.of hread
      refine AllSome.stopGetD (joinStops_canonical (List.forall_mem_cons.mpr ⟨he, ?_⟩)) he
      intro e' hmem
      exact (hsmall _).of (Option.mem_toList.mp hmem)
    · split
      · trivial
      next e _ hfits => exact (hsmall _).of hfits
      · trivial

theorem Mem.Canonical.launchPlan {x : Iss} {rs : List (Nat × List Int)} (h : s.mem.Canonical) :
    ∀ p ∈ s.launchPlan x rs, OkErr Stop.Canonical (fun _ => True) p.2 :=
  List.forall_mem_map.mpr fun _ _ => h.launchSlice

theorem launchStops_canonical {plan : List (List Int × Except Stop (List Pattern))}
    (h : ∀ p ∈ plan, OkErr Stop.Canonical (fun _ => True) p.2) : ∀ e ∈ launchStops plan, e.Canonical := by
  refine forall_mem_filterMap fun p hp => ?_
  split
  next e hstop => exact ((h p hp).of hstop).error
  · trivial

theorem Mem.Canonical.execLaunch {rx : SReg} (h : s.mem.Canonical) : (execLaunch rx s).Canonical := by
  refine h.issue fun x got t ht => ?_
  dsimp only
  split
  next e hjoin => exact (joinStops_canonical (launchStops_canonical ht.launchPlan)).of hjoin
  · refine .ite ht ?_
    split
    next e hdone => exact ht.bodyDone.of hdone
    next s1 hdone =>
      have hs1 : s1.mem.Canonical := ht.bodyDone.of hdone
      exact hs1.foldl fun _ _ hs => hs.acceptGrid

theorem Mem.Canonical.execTeamEnd {team : Nat} (h : s.mem.Canonical) : (execTeamEnd team s).Canonical := by
  dsimp only [Machine.execTeamEnd]
  split
  · trivial
  · exact .ite (.ite trivial (.blocksReturned (.modCtx h))) (.ite trivial h.modTeam.modGrid)

theorem Mem.Canonical.execGridCompletion {n : Nat} (h : s.mem.Canonical) : (execGridCompletion n s).Canonical := by
  dsimp only [Machine.execGridCompletion]
  split
  · trivial
  · refine .ite trivial ?_
    split
    · exact h.modGrid
    · split
      next s1 e2 =>
        have hs1 : s1.mem.Canonical := h.decrementSignal.of e2
        exact hs1.modGrid
      · exact h.park
      next s1 e2 =>
        have hs1 : s1.mem.Canonical := h.decrementSignal.of e2
        exact .ite trivial hs1

/-! ### Machine/Windows -/

theorem Mem.Canonical.modPort {p : Fin 2} {f : HostPort → HostPort} (h : s.mem.Canonical) :
    (s.modPort p f).mem.Canonical := h

theorem Mem.Canonical.portCount {p : Fin 2} {off n : Nat} (h : s.mem.Canonical) :
    (s.portCount p off n).mem.Canonical := h.modPort

theorem Mem.Canonical.hostTry {c : Context} {p : Parker} {wr : Bool} {a : Int} {n : Nat} {full : Nat → Bool} (h : s.mem.Canonical) :
    (s.hostTry c p wr a n full).Canonical := by
  dsimp only [State.hostTry]
  split
  · exact h.noteWalk
  · trivial
  · exact h.park
  · refine .ite h ?_
    split
    · exact h.noteBad
    · split
      · split
        · trivial
        · exact h
      · exact h
      · exact h.askParts
      · trivial

theorem Mem.Canonical.hostEnter {p : Parker} {c : Context} {cs : List HostCell} (h : s.mem.Canonical) :
    (s.hostEnter p c cs).Canonical := by
  refine .ite h ?_
  split
  · exact h.askFor
  · exact h.dropWaits.touchAt.touchAt.writeLocs

theorem Mem.Canonical.complete {p : Fin 2} {status : Nat} {bs : List Byte} (h : s.mem.Canonical) :
    (s.complete p status bs).mem.Canonical := h.modPort

theorem Mem.Canonical.refuseWrite {posted : Bool} {p : Fin 2} {counter : Option Nat} {off n : Nat} (h : s.mem.Canonical) :
    (s.refuseWrite posted p counter off n).mem.Canonical := by
  refine .ite ?_ ?_
  · refine .modPort ?_
    split
    · exact h.portCount
    · exact h
  · refine .complete ?_
    split
    · exact h.portCount
    · exact h

theorem Mem.Canonical.logHost {c : Nat} {a : Int} (h : s.mem.Canonical) : (s.logHost c a).mem.Canonical := h.logFault

theorem Mem.Canonical.refuseHost {r : WinWrite} {k : Option Nat} (h : s.mem.Canonical) :
    (refuseHost r k s).mem.Canonical := h.dropWaits.refuseWrite

theorem Mem.Canonical.madeHost {r : WinWrite} (h : s.mem.Canonical) : (madeHost r s).mem.Canonical := h.ite h.complete

theorem Mem.Canonical.enterHost {r : WinWrite} {w : Win} {t0 : Nat} {ts : List (Int × Int)} {sat : Nat} (h : s.mem.Canonical) :
    (enterHost r w t0 ts sat s).Canonical := by
  dsimp only [Machine.enterHost]
  split
  · exact h.refuseHost
  · split
    next e1 => exact h.hostTry.of e1
    · exact h.refuseHost
    next s1 e1 =>
      have hs1 : s1.mem.Canonical := h.hostTry.of e1
      exact hs1.logHost.refuseHost
    · split
      next s1 e2 =>
        have hs1 : s1.mem.Canonical := h.hostEnter.of e2
        exact hs1.portCount.madeHost
      · exact h.hostEnter

theorem Mem.Canonical.takeHost {r : WinRead} {w : Win} {t0 n : Nat} {out : List Int → List Byte × Nat} (h : s.mem.Canonical) :
    (takeHost r w t0 n out s).Canonical := by
  dsimp only [Machine.takeHost]
  split
  · exact h.portCount.complete
  · split
    next e1 => exact h.hostTry.of e1
    · exact h.dropWaits.portCount.complete
    next s1 e1 =>
      have hs1 : s1.mem.Canonical := h.hostTry.of e1
      exact hs1.dropWaits.logHost.complete
    · exact h.dropWaits.touch.portCount.complete

theorem Mem.Canonical.rawWrite {r : WinWrite} {w : Win} (h : s.mem.Canonical) :
    (rawWrite r w s).Canonical := .ite h.refuseHost h.enterHost

theorem Mem.Canonical.rawRead {r : WinRead} {w : Win} (h : s.mem.Canonical) : (rawRead r w s).Canonical := by
  dsimp only [Machine.rawRead]
  exact h.takeHost

theorem Mem.Canonical.elemWrite {r : WinWrite} {w : Win} (h : s.mem.Canonical) :
    (elemWrite r w s).Canonical := .ite h.refuseHost (.ite h.refuseHost h.enterHost)

theorem Mem.Canonical.elemRead {r : WinRead} {w : Win} (h : s.mem.Canonical) : (elemRead r w s).Canonical := by
  dsimp only [Machine.elemRead]
  exact h.takeHost

theorem Mem.Canonical.physWrite {r : WinWrite} {w : Win} (h : s.mem.Canonical) : (physWrite r w s).Canonical := by
  refine .ite h.refuseHost (.ite h.refuseHost ?_)
  dsimp only
  split
  · exact (h.foldl fun _ _ hs => hs.evict.ite hs.evict.correctSlot).uncorrectable.refuseHost
  · exact .madeHost ((h.foldl fun _ _ hs => hs.evict.ite hs.evict.correctSlot).writeLocs.foldlMem fun _ _ hm => hm.inForm)

theorem Mem.Canonical.physRead {r : WinRead} {w : Win} (h : s.mem.Canonical) : (physRead r w s).Canonical := by
  refine .ite h.complete ?_
  split
  · exact (h.foldl fun _ _ hs => hs.ite hs.correctSlot).uncorrectable.complete
  · exact (h.foldl fun _ _ hs => hs.ite hs.correctSlot).complete

theorem Mem.Canonical.winGo {h : HeldReq} (hs : s.mem.Canonical) : (winGo h s).Canonical := by
  dsimp only [Machine.winGo]
  split
  · exact hs.rawWrite.ite (hs.physWrite.ite hs.elemWrite)
  · exact hs.rawRead.ite (hs.physRead.ite hs.elemRead)
  · exact hs

theorem Mem.Canonical.hold {p : Fin 2} {h : HeldReq} (hs : s.mem.Canonical) : (s.hold p h).mem.Canonical := hs.modPort

theorem Mem.Canonical.winRequest {row : String} {kind : Nat} {p : Fin 2} {n off len : Nat} {h : Win → HeldReq} {none_ : State → State}
    (hs : s.mem.Canonical) (hnone_ : ∀ (t : State), t.mem.Canonical → (none_ t).mem.Canonical) :
    (winRequest row kind p n off len h none_ s).Canonical := by
  refine .ite hs ?_
  split
  · exact hnone_ _ hs
  · refine .ite trivial (.ite hs.hold ?_)
    split
    next e1 => exact hs.winGo.of e1
    next a e1 =>
      have ha : a.mem.Canonical := hs.winGo.of e1
      exact ha.hold
    · exact hs.hold

theorem Mem.Canonical.winWrite {row : String} {kind : Nat} {r : WinWrite} (h : s.mem.Canonical) :
    (winWrite row kind r s).Canonical := h.winRequest fun _ ht => ht.ite ht.complete

theorem Mem.Canonical.winRead {row : String} {kind : Nat} {r : WinRead} (h : s.mem.Canonical) :
    (winRead row kind r s).Canonical := h.winRequest fun _ ht => ht.complete

theorem Mem.Canonical.execRawWindowWrite {r : WinWrite} (h : s.mem.Canonical) :
    (execRawWindowWrite r s).Canonical := h.winWrite

theorem Mem.Canonical.execRawWindowRead {r : WinRead} (h : s.mem.Canonical) :
    (execRawWindowRead r s).Canonical := h.winRead

theorem Mem.Canonical.execIntegerWindowWrite {r : WinWrite} (h : s.mem.Canonical) :
    (execIntegerWindowWrite r s).Canonical := h.winWrite

theorem Mem.Canonical.execIntegerWindowRead {r : WinRead} (h : s.mem.Canonical) :
    (execIntegerWindowRead r s).Canonical := h.winRead

theorem Mem.Canonical.execFloatWindowWrite {r : WinWrite} (h : s.mem.Canonical) :
    (execFloatWindowWrite r s).Canonical := h.winWrite

theorem Mem.Canonical.execFloatWindowRead {r : WinRead} (h : s.mem.Canonical) :
    (execFloatWindowRead r s).Canonical := h.winRead

theorem Mem.Canonical.execPhysicalWindowWrite {r : WinWrite} (h : s.mem.Canonical) :
    (execPhysicalWindowWrite r s).Canonical := h.winWrite

theorem Mem.Canonical.execPhysicalWindowRead {r : WinRead} (h : s.mem.Canonical) :
    (execPhysicalWindowRead r s).Canonical := h.winRead

/-! ### Machine/Host -/

theorem Mem.Canonical.queueWrite {p : Fin 2} {r : HeldReq} (h : s.mem.Canonical) :
    (s.queueWrite p r).mem.Canonical := h.hold.ite h.modPort

theorem Mem.Canonical.execQueueTailWrite {port : Fin 2} {q : Fin 27} {tail : Nat} (h : s.mem.Canonical) :
    (execQueueTailWrite port q tail s).Canonical := h.queueWrite.ite h

theorem Mem.Canonical.execQueueStateWrite {port : Fin 2} {q : Fin 27} {st : Nat} (h : s.mem.Canonical) :
    (execQueueStateWrite port q st s).Canonical := h.queueWrite.ite h

theorem Mem.Canonical.retryHeld {p : Fin 2} (h : s.mem.Canonical) : AllSome (·.mem.Canonical) (s.retryHeld p) := by
  refine .ite trivial (allSome_findSome? fun a => (.ite trivial ?_))
  split
  · trivial
  · refine .ite h.modPort.modPort ?_
    split
    next a1 e1 =>
      have ha1 : a1.mem.Canonical := h.winGo.of e1
      exact ha1.modPort
    next a1 e1 =>
      have ha1 : a1.mem.Canonical := h.winGo.of e1
      exact .ite trivial ha1
    · trivial

theorem Mem.Canonical.entryStatus {h : HostPort} {q : Nat} {r : List Int} {table : Option (List Int)} (hs : s.mem.Canonical) :
    (entryStatus h q r table s).Canonical := by
  dsimp only [Machine.entryStatus]
  split
  · exact .ite hs (.ite hs hs)
  · exact hs

theorem Mem.Canonical.queueTry {p : Fin 2} {q : Nat} {c : Context} {a : Int} (h : s.mem.Canonical) :
    (s.queueTry p q c a).Canonical := by
  dsimp only [State.queueTry]
  split
  next e => exact h.engineRead.of e
  · exact h.park
  next e => exact h.engineRead.of e
  next e => exact h.engineRead.of e
  next s1 e =>
    have hs1 : s1.mem.Canonical := h.engineRead.of e
    refine hs1.entryStatus.ite ?_
    split
    next e1 => exact h.engineRead.of e1
    · exact h.park
    next e1 => exact h.engineRead.of e1
    · exact hs1
    · exact hs1.dropWaits.engineTouch.entryStatus

theorem Mem.Canonical.entryDone {p : Fin 2} {q : Nat} {refused : Bool} (h : s.mem.Canonical) :
    (s.entryDone p q refused).mem.Canonical := (h.foldl fun _ _ hs => hs.dropWaits).modPort

theorem Mem.Canonical.entryWrite {p : Fin 2} {q : Nat} {c : Context} {a v : Int} (h : s.mem.Canonical) :
    (s.entryWrite p q c a v).Canonical := by
  dsimp only [State.entryWrite]
  split
  next e => exact h.hostTry.of e
  · split
    next e1 => exact h.hostEnter.of e1
    next e1 => exact h.hostEnter.of e1
    · exact h
  · trivial

theorem Mem.Canonical.entryWrites {p : Fin 2} {c : Context} {a : Int} {v : Serving} (h : s.mem.Canonical) :
    (s.entryWrites p c a v).mem.Canonical := by
  unfold State.entryWrites
  extract_lets status told
  have hstatus : ∀ {r : State}, r.mem.Canonical → (status r).mem.Canonical := by
    intro r hr
    dsimp only [status]
    split
    next s1 e =>
      have hs1 : s1.mem.Canonical := hr.entryWrite.of e
      exact hs1.entryDone
    · exact hr.entryDone
    next e => exact hr.entryWrite.of e
  refine (hstatus h).ite ?_
  split
  next s1 e =>
    have hs1 : s1.mem.Canonical := h.entryWrite.of e
    exact hstatus hs1.modPort
  · exact hstatus h.dropWaits.modPort
  next e => exact h.entryWrite.of e

theorem Mem.Canonical.execQueueEntryProcess {port : Fin 2} {q : Fin 27} (h : s.mem.Canonical) :
    (execQueueEntryProcess port q s).Canonical := by
  refine .ite trivial ?_
  split
  · exact h.entryDone
  · exact .ite trivial h.entryWrites
  · split
    next s1 e2 =>
      have hs1 : s1.mem.Canonical := h.queueTry.of e2
      exact .ite trivial hs1
    next s1 e2 =>
      have hs1 : s1.mem.Canonical := h.queueTry.of e2
      exact hs1.modPort.logHost
    next read e2 =>
      have hread : read.mem.Canonical := h.queueTry.of e2
      exact (hread.acceptGrid.ite hread).modPort.entryWrites

theorem Mem.Canonical.create {p : Fin 2} {c : CtxCreate} (h : s.mem.Canonical) : (s.create p c).Canonical := by
  refine .ite h (.ite h ?_)
  dsimp only
  split
  next e => exact h.hostTry.of e
  · split
    next e1 => exact h.hostEnter.of e1
    next e1 => exact h.hostEnter.of e1
    · exact h
  · exact h.dropWaits

theorem Mem.Canonical.destroy {n : Nat} (h : s.mem.Canonical) : (s.destroy n).Canonical := by
  refine .ite h ?_
  split
  · exact h
  · exact .ite h h

theorem Mem.Canonical.setLanding {open_ : Bool} {n m k : Nat} (h : s.mem.Canonical) :
    (s.setLanding open_ n m k).Canonical := by
  refine .ite h ?_
  split
  · exact h
  · exact .ite (.ite h h.modCtx) h.modCtx

theorem Mem.Canonical.command {p : Fin 2} (h : s.mem.Canonical) : (s.command p).Canonical := by
  dsimp only [State.command]
  split
  · exact h.create
  · exact h.destroy
  · exact h.setLanding
  · exact h.setLanding
  · exact h

theorem Mem.Canonical.carryOut {p : Fin 2} (h : s.mem.Canonical) : (s.carryOut p).mem.Canonical := by
  dsimp only [State.carryOut]
  split
  next e => exact h.command.of e
  next s1 e =>
    have hs1 : s1.mem.Canonical := h.command.of e
    exact hs1.modPort.modPort

theorem Mem.Canonical.ring {p : Fin 2} (h : s.mem.Canonical) :
    (s.ring p).mem.Canonical := h.modPort.modPort.ite h.modPort.carryOut

theorem Mem.Canonical.retryCommand {p : Fin 2} (h : s.mem.Canonical) :
    AllSome (·.mem.Canonical) (s.retryCommand p) := .ite trivial (.ite trivial h.carryOut)

theorem Mem.Canonical.runCommand {row : String} {p : Fin 2} {i : Instr} (h : s.mem.Canonical) :
    (runCommand row p i s).Canonical := by
  refine .ite h ?_
  split
  · trivial
  · exact .ite h.modPort.ring trivial

theorem Mem.Canonical.execContextCreate {port : Fin 2} {c : CtxCreate} (h : s.mem.Canonical) :
    (execContextCreate port c s).Canonical := h.runCommand

theorem Mem.Canonical.execContextDestroy {port : Fin 2} {ctx : Nat} (h : s.mem.Canonical) :
    (execContextDestroy port ctx s).Canonical := h.runCommand

theorem Mem.Canonical.execOpenLanding {port : Fin 2} {ctx peer peerCtx : Nat} (h : s.mem.Canonical) :
    (execOpenLanding port ctx peer peerCtx s).Canonical := h.runCommand

theorem Mem.Canonical.execCloseLanding {port : Fin 2} {ctx peer peerCtx : Nat} (h : s.mem.Canonical) :
    (execCloseLanding port ctx peer peerCtx s).Canonical := h.runCommand

theorem Mem.Canonical.writeBlock {p : Fin 2} {off : Nat} {bs : List Nat} (h : s.mem.Canonical) :
    (s.writeBlock p off bs).mem.Canonical := h.ite (h.modPort.ring.ite h.modPort)

theorem Mem.Canonical.execRegisterWrite {port : Fin 2} {off : Nat} {bytes : List Byte} (h : s.mem.Canonical) :
    (execRegisterWrite port off bytes s).Canonical := .ite h (h.modPort.queueWrite.ite h.modPort).writeBlock

/-! ### Machine/Atomic -/

theorem Mem.Canonical.putWait {x : Iss} {key : Nat} {w : RemoteWait} (h : s.mem.Canonical) :
    (s.putWait x key w).mem.Canonical := h

theorem Mem.Canonical.lostUpdate {u : Update} (h : s.mem.Canonical) : (s.lostUpdate u).1.mem.Canonical := h

theorem Mem.Canonical.atomTurns {x : Iss} {ks : List Nat} (h : s.mem.Canonical) : (s.atomTurns x ks).1.mem.Canonical := by
  induction ks generalizing s with
  | nil => exact h
  | cons k ks ih =>
    unfold State.atomTurns
    split
    · exact ih h
    · split
      · split
        next s1 e => exact h.farUpdate.of e
        next s1 ret f e =>
          have hs1 : s1.mem.Canonical := h.farUpdate.of e
          exact ih hs1.putWait
        · exact ih h.lostUpdate.putWait
      · exact ih h

theorem Mem.Canonical.unkeep {x : Iss} {its : AtomItems} (h : s.mem.Canonical) : (s.unkeep x its).mem.Canonical := by
  refine h.foldl fun s1 a hs => ?_
  split
  · exact hs.send.ite hs
  · exact hs

theorem Mem.Canonical.keepBinding {ctx : Nat} {l : Loc} (h : s.mem.Canonical) :
    (s.keepBinding ctx l).mem.Canonical := h.ite h

theorem Mem.Canonical.keepBindings {x : Iss} {its : AtomItems} (h : s.mem.Canonical) :
    OkErr Stop.Canonical (·.mem.Canonical) (s.keepBindings x its) := by
  dsimp only [State.keepBindings]
  split
  · exact h
  · exact h.askFor
  · exact h.unkeep
  · exact .ite h.unkeep h

theorem Mem.Canonical.issAtomSpend {x : Iss} {req : Iss → Nat → AtomReq} (h : s.mem.Canonical) :
    (x.atomSpend req s).mem.Canonical := h.issSpend

theorem Mem.Canonical.issAtomDone {x : Iss} {dest : Option SReg} {la : Fin 27} {req : Iss → Nat → AtomReq} {rs : List
    (Nat × Int × FlagSet)} (h : s.mem.Canonical) :
    (x.atomDone dest la req rs s).mem.Canonical := by
  dsimp only [Iss.atomDone]
  split
  · exact h.issPutS
  · exact h

theorem Mem.Canonical.beginTurns {x : Iss} {req : Iss → Nat → AtomReq} {accs : List (Acc × List Loc)} {its : AtomItems}
    (h : s.mem.Canonical) : (s.beginTurns x req accs its).mem.Canonical := by
  dsimp only [State.beginTurns]
  generalize hs2 : List.foldl _ _ its = s2
  have h2 : s2.mem.Canonical := by
    rw [← hs2]
    refine .foldl (.issAtomSpend h) fun t i ht => ?_
    split
    · exact ht.ite ht.keepBinding
    · exact ht
  split
  next s3 e => exact h2.watchLate.of e
  · exact h2

theorem Mem.Canonical.updates {x : Iss} {its : AtomItems} (h : s.mem.Canonical) :
    (s.updates x its).1.mem.Canonical := .foldlFst h fun _ _ hr => hr.update

theorem Mem.Canonical.atomics {dest : Option SReg} {la : Fin 27} {faults : Iss → List (Nat × Cause × Int)} {req : Iss → Nat → AtomReq}
    (h : s.mem.Canonical) :
    (atomics dest la faults req s).Canonical := by
  refine h.issue fun x got t ht => ?_
  refine .ite (.ite ht.atomTurns.issAtomDone ht.atomTurns) ?_
  split
  next e1 => exact ht.keepBindings.of e1
  next s3 e =>
    have hs3 : s3.mem.Canonical := ht.keepBindings.of e
    exact .ite (.ite hs3.beginTurns.atomTurns.issAtomDone hs3.beginTurns.atomTurns) hs3.updates.issAtomSpend.issAtomDone

theorem Mem.Canonical.atom {op : AtomOp} {f : AtomF} (h : s.mem.Canonical) : (atom op f s).Canonical := h.atomics

theorem Mem.Canonical.execAadd {f : AtomF} (h : s.mem.Canonical) : (execAadd f s).Canonical := h.atom

theorem Mem.Canonical.execAmin {f : AtomF} (h : s.mem.Canonical) : (execAmin f s).Canonical := h.atom

theorem Mem.Canonical.execAmax {f : AtomF} (h : s.mem.Canonical) : (execAmax f s).Canonical := h.atom

theorem Mem.Canonical.execAswp {f : AtomF} (h : s.mem.Canonical) : (execAswp f s).Canonical := h.atom

theorem Mem.Canonical.execAcas {f : AtomF} (h : s.mem.Canonical) : (execAcas f s).Canonical := h.atom

theorem Mem.Canonical.signal {dec : Bool} {rx ry rz : SReg} (h : s.mem.Canonical) :
    (signal dec rx ry rz s).Canonical := h.atomics

theorem Mem.Canonical.execSigdec {x y z : SReg} (h : s.mem.Canonical) : (execSigdec x y z s).Canonical := h.signal

theorem Mem.Canonical.execSigadd {x y z : SReg} (h : s.mem.Canonical) : (execSigadd x y z s).Canonical := h.signal

theorem Mem.Canonical.execSigbind {rx ry rz : SReg} (h : s.mem.Canonical) :
    (execSigbind rx ry rz s).Canonical := h.atomics

theorem Mem.Canonical.raiseLate {team gang slice : Nat} {f : FlagSet} (h : s.mem.Canonical) :
    (s.raiseLate team gang slice f).mem.Canonical := h.modGang

theorem Mem.Canonical.execRedm {rx ry : SReg} {op : RedOp} {ty : Ty} (h : s.mem.Canonical) :
    (execRedm rx ry op ty s).Canonical := by
  refine h.issue fun x got t ht => ?_
  dsimp only
  split
  next e1 => exact ht.watchLate.of e1
  next s3 e =>
    have hs3 : s3.mem.Canonical := ht.watchLate.of e
    exact .ite ht (.issSpend (.foldl hs3 fun _ _ hs => hs.raiseLate))

theorem Mem.Canonical.dropRedm {r : RedmUpd} (h : s.mem.Canonical) : (s.dropRedm r).mem.Canonical := .dropWaits h

theorem Mem.Canonical.failRedm {r : RedmUpd} {c : Cause} (h : s.mem.Canonical) :
    (s.failRedm r c).mem.Canonical := h.dropRedm.logEvent.reap

theorem Mem.Canonical.execRedmUpdate {id : Nat} (h : s.mem.Canonical) : (execRedmUpdate id s).Canonical := by
  dsimp only [Machine.execRedmUpdate]
  split
  · trivial
  · refine .ite trivial ?_
    split
    · exact h.dropRedm
    · refine .ite trivial ?_
      split
      · exact h.failRedm
      · exact h.park
      · refine .ite h.noteBad.failRedm ?_
        split
        · exact h.failRedm
        next s1 e3 =>
          have hs1 : s1.mem.Canonical := (h.touch.ite h).farUpdate.of e3
          exact .ite trivial hs1
        next s1 _ _ e3 =>
          have hs1 : s1.mem.Canonical := (h.touch.ite h).farUpdate.of e3
          exact hs1.raiseLate.dropRedm.reap

theorem Mem.Canonical.execFence {sc : Scope} (h : s.mem.Canonical) :
    (execFence sc s).Canonical := h.issue fun _ _ _ ht => .ite ht (.ite ht ht.endLeases.issModSlices.issRaise)

theorem Mem.Canonical.execTlbinv {rx ry rz : SReg} {x : Scope} (h : s.mem.Canonical) :
    (execTlbinv rx ry rz x s).Canonical := by
  refine h.issueWith fun x1 got t ht => ?_
  split
  · exact .ite ht ht
  · exact ht

theorem Mem.Canonical.execTlbinvComplete {id : Nat} (h : s.mem.Canonical) : (execTlbinvComplete id s).Canonical := by
  dsimp only [Machine.execTlbinvComplete]
  split
  · trivial
  · split
    · trivial
    · exact .ite trivial h

theorem Mem.Canonical.execTranslationWalk {core ctx : Nat} {a : Addr} (h : s.mem.Canonical) :
    (execTranslationWalk core ctx a s).Canonical := by
  dsimp only [Machine.execTranslationWalk]
  split
  · trivial
  · refine .ite trivial ?_
    split
    · exact h.touchWalk
    · exact .ite h.touchWalk h.touchWalk

theorem Mem.Canonical.cacheOp {f : Iss → State → (Nat → Bool) → State} {rx ry : SReg} (h : s.mem.Canonical)
    (hf : ∀ (x : Iss) (t : State) (a : Nat → Bool), t.mem.Canonical → (f x t a).mem.Canonical) :
    (cacheOp f rx ry s).Canonical := h.issue fun _ _ _ ht => ht.foldl fun _ _ hs => hf _ _ _ hs

theorem Mem.Canonical.execCwb {x y : SReg} (h : s.mem.Canonical) : (execCwb x y s).Canonical :=
  h.cacheOp fun _ _ _ ht => ht.foldl fun t c (ht : t.mem.Canonical) => show (t.writeSlot c.agency c.line c.form).mem.Canonical from
    ht.writeSlot

theorem Mem.Canonical.execCinv {x y : SReg} (h : s.mem.Canonical) :
    (execCinv x y s).Canonical := h.cacheOp fun _ _ _ ht => ht

theorem Mem.Canonical.execCwbi {x y : SReg} (h : s.mem.Canonical) :
    (execCwbi x y s).Canonical := h.cacheOp fun _ _ _ ht => ht.foldl fun _ _ hs => hs.evict

theorem Mem.Canonical.execLeaseExpiry {core line : Nat} (h : s.mem.Canonical) :
    (execLeaseExpiry core line s).Canonical := by
  dsimp only [Machine.execLeaseExpiry]
  split
  · exact .ite h trivial
  · trivial

/-! ### Machine/Issue -/

theorem Mem.Canonical.choose {c : Cand} {apart : Bool} (h : s.mem.Canonical) : (s.choose c apart).mem.Canonical := by
  dsimp only [State.choose]
  exact h.modGang

theorem Mem.Canonical.fetchPlace {x : Iss} {a : Int} (h : s.mem.Canonical) : (s.fetchPlace x a).Canonical := by
  refine Word1.Canonical.ite h ?_
  split
  · exact h.stopWalk
  · trivial
  · exact h
  · split
    · exact h.stopBad
    · trivial

theorem Mem.Canonical.fetchWords {x : Iss} {age i : Nat} {a : Int} (h : s.mem.Canonical) :
    OkErr Stop.Canonical (fun _ => True) (s.fetchWords x age i a) := by
  dsimp only [State.fetchWords]
  split
  next e1 => exact h.fetchPlace.of e1
  · trivial
  · split
    · split
      · exact .ite h.stopBad trivial
      · trivial
      · exact h
      · exact h.askParts
      · trivial
      · trivial
    · trivial

theorem Mem.Canonical.fetchUnit {x : Iss} {age n : Nat} {a : Int} {ws ahead : List Int} (h : s.mem.Canonical) :
    OkErr Stop.Canonical (fun _ => True) (s.fetchUnit x age a n ws ahead) := by
  induction n generalizing ws ahead with
  | zero => trivial
  | succ n ih =>
    cases ahead with
    | cons w ahead => exact .ite trivial ih
    | nil =>
      unfold State.fetchUnit
      split
      next e hread => exact (h.fetchWords.of hread).error
      · exact ih

theorem Mem.Canonical.fetch {x : Iss} (h : s.mem.Canonical) :
    OkErr Stop.Canonical (fun _ => True) (s.fetch x) := h.fetchUnit

theorem Mem.Canonical.keepWords {x : Iss} {n : Nat} (h : s.mem.Canonical) : (s.keepWords x n).mem.Canonical := by
  refine h.foldl fun s1 a hs => ?_
  split
  · exact hs.ite hs
  · exact hs

theorem Mem.Canonical.fetched {x : Iss} {n : Nat} (h : s.mem.Canonical) : (s.fetched x n).mem.Canonical := by
  unfold State.fetched
  extract_lets a b s0 s1
  have h0 : s0.mem.Canonical := h.ite h.touchWalks
  have h1 : s1.mem.Canonical := h0.keepWords.unhold.ite h0
  exact h1.ite (h1.foldl fun _ _ hs => hs.ite hs.correctSlot)

theorem Mem.Canonical.withWords {ws : List Int} (h : s.mem.Canonical) : (s.withWords ws).mem.Canonical := h

theorem Mem.Canonical.issueOnce {ex : Instr → State → Answer} {s0 : State} (h : s0.mem.Canonical)
    (hex : ∀ (a : Instr) (t : State), t.mem.Canonical → (ex a t).Canonical) :
    (issueOnce ex s0).Canonical := by
  dsimp only [Machine.issueOnce]
  split
  · trivial
  · split
    · trivial
    · split
      · exact hex _ _ h.issLandDue.withWords
      · split
        next e4 =>
          split
          · exact h.issLandDue.touchWalks.takeTrap
          · exact h.issLandDue.touchWalks.issStopped (h.issLandDue.touchWalks.fetch.of e4)
        · split
          · trivial
          · split
            · exact h.issLandDue.touchWalks.fetched.withWords.takeTrap
            · split
              · exact h.issLandDue.touchWalks.fetched.withWords.takeTrap
              · exact hex _ _ h.issLandDue.touchWalks.fetched.withWords

theorem Mem.Canonical.issueNow {ex : Instr → State → Answer} (h : s.mem.Canonical)
    (hex : ∀ (a : Instr) (t : State), t.mem.Canonical → (ex a t).Canonical) :
    (issueNow ex s).Canonical := by
  dsimp only [Machine.issueNow]
  split
  · trivial
  · split
    next t e1 =>
      have ht : t.mem.Canonical := (h.issueOnce hex).of e1
      exact (h.endStall.issueOnce hex).ite ht
    · exact h.issueOnce hex

theorem Mem.Canonical.unchoose {c : Cand} {s' : State} (h : s'.mem.Canonical) : (s.unchoose c s').mem.Canonical := by
  dsimp only [State.unchoose]
  exact h.modGang

theorem Mem.Canonical.tryIssue {ex : Instr → State → Answer} {apart : Bool} {cs : List Cand} (h : s.mem.Canonical)
    (hex : ∀ (i : Instr) (t : State), t.mem.Canonical → (ex i t).Canonical) :
    AllSome Answer.Canonical (tryIssue ex apart cs s).1 ∧ (tryIssue ex apart cs s).2.mem.Canonical := by
  induction cs generalizing s with
  | nil => exact ⟨trivial, h⟩
  | cons c cs ih =>
    unfold Machine.tryIssue
    have hnow : (Machine.issueNow ex (s.choose c apart)).Canonical := h.choose.issueNow hex
    split
    next t e =>
      have ht : t.mem.Canonical := hnow.of e
      split
      · exact ih ht.unchoose
      · exact ⟨ht, h⟩
    · exact ⟨hnow, h⟩

/-! ### Machine/Debug -/

theorem Mem.Canonical.perSlice {priv : Bool} {uses : Iss → Uses} {act : Iss → Nat → State → State} (h : s.mem.Canonical)
    (hact : ∀ (x : Iss) (n : Nat) (t : State), t.mem.Canonical → (act x n t).mem.Canonical) :
    (perSlice priv uses act s).Canonical := h.issueWith fun _ _ _ ht => ht.foldl fun _ _ hs => hact _ _ _ hs

theorem Mem.Canonical.execTrcev {r : SReg} {code : Int} (h : s.mem.Canonical) :
    (execTrcev r code s).Canonical := h.perSlice fun _ _ _ ht => ht.emit

theorem Mem.Canonical.flushTrace {agency : Nat} (h : s.mem.Canonical) :
    AllSome (·.mem.Canonical) (s.flushTrace agency) := by
  dsimp only [State.flushTrace]
  split
  · exact h
  · refine .ite (h.foldl fun _ _ hs => hs.traceStream) (.ite trivial ?_)
    split
    · exact .ite (h.foldl fun _ _ hs => hs.traceStream) trivial
    · exact h.traceFail
    · trivial

theorem Mem.Canonical.startTrace {x : Iss} {b : List Int} {offset : Nat} (h : s.mem.Canonical) :
    (s.startTrace x b offset).mem.Canonical := by
  refine .traceStream ?_
  dsimp only
  exact h.dropCfg

theorem Mem.Canonical.traceStarts {x : Iss} {bs : List (Nat × List Int)} (h : s.mem.Canonical) :
    AllSome (·.mem.Canonical) (s.traceStarts x bs).1 := by
  induction bs generalizing s with
  | nil => exact h
  | cons b bs ih =>
    unfold State.traceStarts
    split
    · trivial
    next s1 e =>
      have hs1 : s1.mem.Canonical := h.flushTrace.of e
      dsimp only
      split <;> exact ih hs1.startTrace

theorem Mem.Canonical.execTrcctlStart {r : SReg} (h : s.mem.Canonical) : (execTrcctlStart r s).Canonical := by
  refine h.issueWith fun x got t ht => ?_
  dsimp only
  split
  · split
    next s' e2 =>
      have hs' : s'.mem.Canonical := ht.traceStarts.of e2
      split
      · exact hs'.bodyDone
      next e3 => exact ht.bodyDone.of e3
    · exact ht
  · exact ht.stopBad
  · exact ht.dropWaits.park

theorem Mem.Canonical.traceFlush {stop : Bool} {r : SReg} (h : s.mem.Canonical) : (traceFlush stop r s).Canonical := by
  refine h.issueWith fun x _ t ht => ?_
  dsimp only
  generalize hfold : List.foldl _ _ x.slices = o
  have ho : AllSome (·.mem.Canonical) o := by
    rw [← hfold]
    refine List.foldlRecOn (motive := AllSome fun o : State => o.mem.Canonical) x.slices _ ht fun o ho k _ => ?_
    exact ho.bind fun _ hs => hs.flushTrace.map fun _ hs => hs.dropCfg.ite hs
  split
  · exact ho
  · exact ht

theorem Mem.Canonical.execTrcctlStop {r : SReg} (h : s.mem.Canonical) : (execTrcctlStop r s).Canonical := h.traceFlush

theorem Mem.Canonical.execTrcctlFlush {r : SReg} (h : s.mem.Canonical) :
    (execTrcctlFlush r s).Canonical := h.traceFlush

theorem Mem.Canonical.execPrfctl {r : SReg} {k : Nat} (h : s.mem.Canonical) :
    (execPrfctl r k s).Canonical := h.perSlice fun _ _ _ ht => ht

theorem Mem.Canonical.execWatch {r : SReg} {n : Fin 27} (h : s.mem.Canonical) :
    (execWatch r n s).Canonical := h.issueWith fun _ _ _ ht => ht.foldl fun _ _ hs => hs

theorem Mem.Canonical.execUnwatch {n : Fin 27} (h : s.mem.Canonical) :
    (execUnwatch n s).Canonical := h.perSlice fun _ _ _ ht => ht

theorem Mem.Canonical.setWindow {n : Nat} {name me : Int} (h : s.mem.Canonical) :
    (s.setWindow n name me).mem.Canonical := h

theorem Mem.Canonical.detachWindows {x : Iss} {n : Nat} {me : Int} {names : List Int} (h : s.mem.Canonical) :
    (s.detachWindows x n me names).mem.Canonical := h.foldl fun _ _ hs => hs.send

theorem Mem.Canonical.execDbgwin {r : SReg} {n : Fin 9} (h : s.mem.Canonical) : (execDbgwin r n s).Canonical := by
  refine h.issueWith fun x got t ht => ?_
  dsimp only
  split
  · exact ht.askFor
  · exact ht.detachWindows.foldl fun _ _ hs => hs.setWindow

theorem Mem.Canonical.execHaltg {r : SReg} (h : s.mem.Canonical) : (execHaltg r s).Canonical := by
  refine h.issueWith fun x got t ht => ?_
  split
  · exact ht.askFor
  · refine .ite ht (ht.issAdvance.foldl fun s1 a hs => ?_)
    split
    · exact hs.halt
    · exact hs

theorem Mem.Canonical.releaseNow {t : Team} {g : Gang} {h : Halt} (hs : s.mem.Canonical) :
    (s.releaseNow t g h).mem.Canonical := (hs.emitSched.foldl fun _ _ hs1 => hs1.emit).modGang.retest

theorem Mem.Canonical.release {t : Team} {g : Gang} (h : s.mem.Canonical) : (s.release t g).mem.Canonical := by
  dsimp only [State.release]
  split
  · exact h
  · split
    · split
      · exact h.modTeam.releaseNow
      · exact h
    · exact h

theorem Mem.Canonical.execResmg {r : SReg} (h : s.mem.Canonical) : (execResmg r s).Canonical := by
  refine h.issueWith fun x got t ht => ?_
  split
  · exact ht.askFor
  · refine ht.foldl fun s1 a hs => ?_
    split
    · exact hs.release
    · exact hs

theorem Mem.Canonical.execTimerd {d : SReg} {sel : TimeSel} (h : s.mem.Canonical) :
    (execTimerd d sel s).Canonical := h.issue fun _ _ _ ht => ht.issSetS

theorem Mem.Canonical.snapshot {agency : Nat} (h : s.mem.Canonical) : (s.snapshot agency).mem.Canonical := h

theorem Mem.Canonical.execAccrd {d : SReg} {agency c : Nat} (h : s.mem.Canonical) :
    (execAccrd d agency c s).Canonical := h.issueWith fun _ _ _ ht => ht.issSetS

theorem Mem.Canonical.execAccrdSnapshot {d : SReg} {agency : Nat} (h : s.mem.Canonical) :
    (execAccrdSnapshot d agency s).Canonical := h.perSlice fun _ _ _ ht => ht.snapshot.issSetS

theorem Mem.Canonical.execEngineWatchStop {team gang : Nat} (h : s.mem.Canonical) :
    (execEngineWatchStop team gang s).Canonical := by
  dsimp only [Machine.execEngineWatchStop]
  split
  · trivial
  · split
    · trivial
    · exact .ite h.halt trivial

theorem Mem.Canonical.execSyncRecordPeriodic {agency source cycle : Nat} (h : s.mem.Canonical) :
    (execSyncRecordPeriodic agency source cycle s).Canonical := by
  dsimp only [Machine.execSyncRecordPeriodic]
  split
  · trivial
  · exact .ite h.modCfg.traceStream trivial

theorem Mem.Canonical.sample {core sched cycle : Nat} (h : s.mem.Canonical) :
    (s.sample core sched cycle).mem.Canonical := by
  dsimp only [State.sample]
  split
  · exact h
  · exact .ite (.emitSample h) h

theorem Mem.Canonical.execSampleTick {core sched cycle : Nat} (h : s.mem.Canonical) :
    (execSampleTick core sched cycle s).Canonical := .ite h.sample trivial

theorem Mem.Canonical.drain {agency src n : Nat} (h : s.mem.Canonical) : (s.drain agency src n).mem.Canonical := by
  induction n generalizing s with
  | zero => exact h
  | succ n ih =>
    unfold State.drain
    split
    · exact h
    · split
      · exact h
      · exact h.traceFail
      · exact h.park
      · exact .ite (.ite (ih h.modCfg.traceWrite) h) (.ite (ih h.modCfg.traceWrite) h)

theorem Mem.Canonical.execTraceHoldDrain {agency source : Nat} (h : s.mem.Canonical) :
    (execTraceHoldDrain agency source s).Canonical := by
  dsimp only [Machine.execTraceHoldDrain]
  split
  · trivial
  · exact .ite trivial h.drain

theorem Mem.Canonical.gate {cluster : Nat} {forced : Bool} (h : s.mem.Canonical) :
    (s.gate cluster forced).mem.Canonical := h

theorem Mem.Canonical.execClusterPowerGate {cluster : Nat} {forced : Bool} (h : s.mem.Canonical) :
    (execClusterPowerGate cluster forced s).Canonical := .ite h.gate trivial

theorem Mem.Canonical.execGatedClusterRestart {cluster : Nat} (h : s.mem.Canonical) :
    (execGatedClusterRestart cluster s).Canonical := .ite h trivial

/-! ### Machine/Fabric -/

theorem Mem.Canonical.refusal {m : Nat} (h : s.mem.Canonical) : (s.refusal m).mem.Canonical := h

theorem Mem.Canonical.verdict {key : Int} {ctx num : Nat} {st : Int} (h : s.mem.Canonical) :
    (s.verdict key ctx num st).mem.Canonical := h.modCtx

theorem Mem.Canonical.rejoined {p : Nat → Bool} (h : s.mem.Canonical) : (s.rejoined p).mem.Canonical := h

theorem Mem.Canonical.deliver {src : Nat} {m : FlitMsg} (h : s.mem.Canonical) : (s.deliver src m).mem.Canonical := by
  dsimp only [State.deliver]
  split
  · exact h
  · exact h.rejoined
  · exact h.ite h
  · exact h.verdict
  · exact h
  · exact h
  · exact h

theorem Mem.Canonical.takeFlit {port : Nat} {f : Flit} (h : s.mem.Canonical) : (s.takeFlit port f).mem.Canonical := by
  exact h.acknowledge

theorem Mem.Canonical.answer {dst tag : Nat} {r : RemoteReply} (h : s.mem.Canonical) :
    (s.answer dst tag r).mem.Canonical := h.ite h.transmit

theorem Mem.Canonical.turnAway {src : Nat} {m : FlitMsg} (h : s.mem.Canonical) :
    (s.turnAway src m).mem.Canonical := by
  dsimp only [State.turnAway]
  split
  · exact h.answer
  · exact h

theorem Mem.Canonical.execFlitReceive {port : Fin 27} {f : Flit} (h : s.mem.Canonical) :
    (execFlitReceive port f s).Canonical :=
  .ite trivial (.ite (Mem.Canonical.health h) (.ite h (.ite (Mem.Canonical.ite (Mem.Canonical.turnAway (Mem.Canonical.takeFlit h))
    (Mem.Canonical.takeFlit h)) (.ite (Mem.Canonical.refusal (Mem.Canonical.takeFlit h))
      (.ite (Mem.Canonical.transmitFrom (Mem.Canonical.takeFlit h)) (Mem.Canonical.deliver (Mem.Canonical.takeFlit h)))))))

theorem Mem.Canonical.freshLink {p : Nat} (h : s.mem.Canonical) : (s.freshLink p).mem.Canonical := h

theorem Mem.Canonical.sendHello {p m : Nat} (h : s.mem.Canonical) : (s.sendHello p m).mem.Canonical := .transmitOn h

theorem Mem.Canonical.joinPort {p m : Nat} (h : s.mem.Canonical) :
    (s.joinPort p m).mem.Canonical := .setReady (.rejoined h)

theorem Mem.Canonical.execPortDiscovery {port : Fin 27} {n : Placement} (h : s.mem.Canonical) :
    (execPortDiscovery port n s).Canonical := .ite trivial (.ite h.freshLink.sendHello.joinPort h.freshLink.sendHello.health)

theorem Mem.Canonical.loseRoutes {ms : List Nat} (h : s.mem.Canonical) : (s.loseRoutes ms).mem.Canonical := h

theorem Mem.Canonical.routesTold {m : Nat} {live : Bool} (h : s.mem.Canonical) :
    (s.routesTold m live).mem.Canonical := .ite h (h.ite h.loseRoutes)

theorem Mem.Canonical.unsend {p : Nat} (h : s.mem.Canonical) : (s.unsend p).mem.Canonical := h

theorem Mem.Canonical.execLinkDownTimeout {port : Fin 27} (h : s.mem.Canonical) :
    (execLinkDownTimeout port s).Canonical := .ite trivial (h.unsend.setReady.loseRoutes.ite h.unsend.setReady)

theorem Mem.Canonical.endAccepted {src tag : Nat} (h : s.mem.Canonical) : (s.endAccepted src tag).mem.Canonical := h

theorem Mem.Canonical.serveWrites {src tag : Nat} {c : Context} {sig : Int} {ws : List (Addr × Tryte)} (h : s.mem.Canonical) :
    (s.serveWrites src tag c sig ws).Canonical := by
  refine .ite (h.endAccepted.ite h) ?_
  split
  next s1 e1 =>
    have hs1 : s1.mem.Canonical := h.enterStaged.of e1
    exact hs1.dropWaits.endAccepted
  · exact h.park
  next e => exact h.enterStaged.of e
  next s1 _ e =>
    have hs1 : s1.mem.Canonical := h.enterStaged.of e
    exact Mem.Canonical.ite (Mem.Canonical.endAccepted hs1) hs1

theorem Mem.Canonical.serveJob {src srcCtx tag landing : Nat} {ws : List (Addr × Tryte)} {sig word : Int} (h : s.mem.Canonical) :
    (s.serveJob src srcCtx tag landing ws sig word).Canonical := by
  dsimp only [State.serveJob]
  split
  · exact h.refusal.endAccepted
  · exact h.serveWrites.ite (.ite h.refusal (Mem.Canonical.serveWrites h))

theorem Mem.Canonical.serveSignal {src tag job : Nat} (h : s.mem.Canonical) :
    (s.serveSignal src tag job).Canonical := by
  dsimp only [State.serveSignal]
  split
  · exact h
  · split
    · exact h.endAccepted
    · split
      next a e2 =>
        have ha : a.mem.Canonical := h.decrementSignal.of e2
        exact ha.endAccepted
      next e2 => exact h.decrementSignal.of e2
      · exact h.park

theorem Mem.Canonical.serveDebug {name : Int} {op : DebugOp} (h : s.mem.Canonical) :
    (s.serveDebug name op).Canonical := by
  dsimp only [State.serveDebug]
  split
  · split
    · exact h
    · exact h
    · exact h.setWindow
    · exact h
  · split
    · exact h
    · exact h.setWindow
    · exact h.setWindow
    · exact h
    · exact .ite h.halt trivial
    · exact .ite h.release h
    · exact .ite h h
    · exact .ite h h.writeLocs

theorem Mem.Canonical.serve {src srcCtx tag : Nat} {r : RemoteReq} (h : s.mem.Canonical) :
    (s.serve src srcCtx tag r).Canonical := by
  unfold State.serve
  extract_lets row absent who at_ load store update
  have hat : ∀ {ps needs locks} {go : List Loc → Served}, (∀ ls, (go ls).Canonical) → (at_ ps needs locks go).Canonical :=
    fun hgo => .ite h.refusal (.ite trivial (.ite h.noteBad (hgo _)))
  have hload : ∀ bin ls, (load bin ls).Canonical := fun _ _ => h.touchServed
  have hstore : ∀ bin vs ls, (store bin vs ls).Canonical := fun _ _ _ => h.touchServed.writeLocs
  have hupdate : ∀ u ls, (update u ls).Canonical := fun _ _ => .ite h h.touchServed.update
  have hhere : ∀ _ : List Loc, (Served.reply .done s).Canonical := fun _ => h
  refine .ite trivial ?_
  cases r with
  | load p n bin => exact hat (hload bin)
  | loads ps bin => exact hat (hload bin)
  | accept p n needs => exact hat hhere
  | accepts ps needs => exact hat hhere
  | store p vs bin => exact hat (hstore bin vs)
  | stores ws bin => exact hat (hstore bin _)
  | patch ws => exact hat fun ls => hstore false _ ls
  | update p u => exact hat (hupdate u)
  | updates ps u => exact hat (hupdate u)
  | reserve n =>
    dsimp only
    split
    next e => exact h.reserve.of e
    · exact h
    · exact h
    · exact h.park
  | land n m =>
    dsimp only
    split
    · exact h.park
    · exact h.landPost
  | release n => exact h.unreserve
  | jobWrite landing ws sig word => exact h.serveJob
  | jobSignal job => exact h.serveSignal
  | fired n m => exact h.firePost
  | fault ctx e =>
    dsimp only
    split
    · exact h.logDoubles.emitFault
    · exact h
  | debug n op => exact h.serveDebug
  | acceptBind p => exact .ite h.refusal (.ite h h.keepBinding)
  | unbind p => exact h
  | zeroed p => exact h.fireBinding

theorem Mem.Canonical.serveFirst {p : RemoteReq → Bool} (h : s.mem.Canonical) :
    AllSome (·.mem.Canonical) (s.serveFirst p) := by
  refine allSome_findSome? fun a => ?_
  split
  · refine .ite trivial ?_
    split
    · trivial
    next s1 e1 =>
      have hs1 : s1.mem.Canonical := h.serve.of e1
      exact .ite trivial hs1
    next s1 e1 =>
      have hs1 : s1.mem.Canonical := h.serve.of e1
      exact Mem.Canonical.answer hs1
  · trivial

theorem Mem.Canonical.execRemoteRequestServe (h : s.mem.Canonical) : (execRemoteRequestServe s).Canonical := by
  dsimp only [Machine.execRemoteRequestServe]
  split
  next e => exact h.serveFirst.of e
  · trivial

theorem Mem.Canonical.execAtomicServe (h : s.mem.Canonical) : (execAtomicServe s).Canonical := by
  dsimp only [Machine.execAtomicServe]
  split
  next e => exact h.serveFirst.of e
  · trivial

theorem Mem.Canonical.execPeerFreeze {m : Nat} (h : s.mem.Canonical) :
    (execPeerFreeze m s).Canonical := .ite trivial (.foldl (.health h) fun _ _ hs => hs.turnAway)

/-! ### Machine/Reduce -/

theorem Mem.Canonical.redsubSlice {x : Iss} {k : Nat} {c : List Int} (h : s.mem.Canonical) :
    OkErr Stop.Canonical (fun _ => True) (s.redsubSlice x k c) := by
  dsimp only [State.redsubSlice]
  split
  · exact sliceTrap_canonical
  · split
    next e2 =>
      dsimp only [OkErr]
      exact h.bodyLoad.of e2
    · exact .ite trivial sliceTrap_canonical

theorem Mem.Canonical.submitRed {x : Iss} {k : Nat} {a : Int} {c ms : List Int} (h : s.mem.Canonical) :
    (s.submitRed x k a c ms).1.mem.Canonical := by
  dsimp only [State.submitRed]
  split
  · exact h
  · exact h.modCtx

theorem Mem.Canonical.redsubPlan {x : Iss} {cs : List (Nat × List Int)} (h : s.mem.Canonical) :
    ∀ p ∈ s.redsubPlan x cs, OkErr Stop.Canonical (fun _ => True) p.2.2 :=
  List.forall_mem_map.mpr fun _ _ => h.redsubSlice

theorem redsubStops_canonical {plan : List (Nat × List Int × Except Stop (List Int))}
    (hplan : ∀ p ∈ plan, OkErr Stop.Canonical (fun _ => True) p.2.2) : ∀ e ∈ redsubStops plan, e.Canonical := by
  refine forall_mem_filterMap fun p hp => ?_
  split
  next e hstop => exact ((hplan p hp).of hstop).error
  · trivial

theorem Mem.Canonical.execRedsub {rx ry : SReg} (h : s.mem.Canonical) : (execRedsub rx ry s).Canonical := by
  refine h.issue fun x got t ht => ?_
  dsimp only
  split
  next e hjoin => exact (joinStops_canonical (redsubStops_canonical ht.redsubPlan)).of hjoin
  · refine .ite ht ?_
    split
    next e hdone => exact (ht.bodyDone.of hdone).error
    next s1 hdone =>
      have hs1 : s1.mem.Canonical := ht.bodyDone.of hdone
      exact hs1.foldl fun _ _ hs => hs.submitRed.issSetS

theorem Mem.Canonical.execRedqry {rx ry : SReg} (h : s.mem.Canonical) :
    (execRedqry rx ry s).Canonical := h.issue fun _ _ _ ht => ht.issSetS

theorem Mem.Canonical.modRed {ctx n : Nat} {f : RedSub → RedSub} (h : s.mem.Canonical) :
    (s.modRed ctx n f).mem.Canonical := h.modCtx

theorem Mem.Canonical.execContributionSourceRead {ctx n : Nat} (h : s.mem.Canonical) :
    (execContributionSourceRead ctx n s).Canonical := by
  dsimp only [Machine.execContributionSourceRead]
  split
  · trivial
  · split
    · trivial
    · refine .ite trivial ?_
      split
      next s1 e2 =>
        have hs1 : s1.mem.Canonical := h.engineRead.of e2
        exact .ite trivial hs1
      · exact h.park
      next s0 e3 =>
        have hs0 : s0.mem.Canonical := h.engineRead.of e3
        exact hs0.dropWaits.modRed.engineEvent.logEvent
      next s1 e2 =>
        have hs1 : s1.mem.Canonical := h.engineRead.of e2
        exact hs1.engineWatch.modRed.engineEvent.engineEvent.engineEvent.ite hs1.engineWatch.modRed.engineEvent.engineEvent

theorem Mem.Canonical.modOpen {root : Bool} {key : Int} {f : RedOpen → RedOpen} (h : s.mem.Canonical) :
    (s.modOpen root key f).mem.Canonical := h

theorem Mem.Canonical.dropStage {key : Int} (h : s.mem.Canonical) : (s.dropStage key).mem.Canonical := h

theorem Mem.Canonical.emitRed {r : RedOpen} {code : Int} (h : s.mem.Canonical) :
    (s.emitRed r code).mem.Canonical := h.emit

theorem Mem.Canonical.tell {key : Int} {p : RedPart} {st : Int} (h : s.mem.Canonical) :
    (s.tell key p st).mem.Canonical := by
  refine .ite ?_ h.transmit
  split
  · exact h.verdict.engineEvent.ite h.verdict
  · exact h.verdict

theorem Mem.Canonical.forward {r : RedOpen} (h : s.mem.Canonical) :
    (s.forward r).mem.Canonical := h.dropStage.ite h.dropStage.transmit

theorem Mem.Canonical.forwardEarly {key : Int} (h : s.mem.Canonical) : (s.forwardEarly key).mem.Canonical := by
  dsimp only [State.forwardEarly]
  split
  · exact h.emitRed.forward.ite h
  · exact h

theorem Mem.Canonical.stageTakes {src : Nat} {c : Contribution} (h : s.mem.Canonical) :
    (s.stageTakes src c).mem.Canonical := by
  refine h.transmit.ite (h.transmit.ite ?_)
  split
  · exact h.modOpen.forwardEarly.ite h.transmit
  · split
    · exact h
    · exact .forwardEarly h

theorem Mem.Canonical.redRefuse {key : Int} {p : RedPart} (h : s.mem.Canonical) :
    (s.redRefuse key p).mem.Canonical := by
  refine .tell ?_
  split
  · exact h.emitRed
  · exact h

theorem Mem.Canonical.rootTakes1 {c : Contribution} {late passed : Bool} {p : RedPart} (h : s.mem.Canonical) :
    (s.rootTakes1 c late passed p).mem.Canonical := by
  refine .ite (h.redRefuse.ite h.redRefuse.refusal) (h.redRefuse.ite ?_)
  split
  · exact h.redRefuse.ite (h.redRefuse.ite h)
  · exact h.ite (h.redRefuse.ite h.modOpen)

theorem Mem.Canonical.rootTakes {src : Nat} {c : Contribution} (h : s.mem.Canonical) :
    (s.rootTakes src c).mem.Canonical := (h.foldl fun _ _ hs => hs.rootTakes1).ite (h.foldl fun _ _ hs => hs.rootTakes1).modOpen

theorem Mem.Canonical.execReductionContributionArrive (h : s.mem.Canonical) :
    (execReductionContributionArrive s).Canonical := by
  dsimp only [Machine.execReductionContributionArrive]
  split
  · trivial
  · exact Mem.Canonical.ite (Mem.Canonical.rootTakes h) (Mem.Canonical.stageTakes h)

theorem Mem.Canonical.execFlagFall {key : Int} (h : s.mem.Canonical) : (execFlagFall key s).Canonical := by
  dsimp only [Machine.execFlagFall]
  split
  · trivial
  · exact h.emitRed.modOpen.ite h.emitRed.forward

theorem Mem.Canonical.redLog {c : Context} {fails : List (Int × Nat × Cause)} (h : s.mem.Canonical) :
    (s.redLog c fails).mem.Canonical := h.foldl fun _ _ hs => hs.logEvent

theorem Mem.Canonical.redEnter {c : Context} {key : Int} {ws : List (Int × Nat × List Int)} (h : s.mem.Canonical) :
    (s.redEnter c key ws).Canonical := by
  dsimp only [State.redEnter]
  split
  · trivial
  · split
    · exact h.askFor
    · split
      next e2 => exact h.enterAll.of e2
      next s1 e2 =>
        have hs1 : s1.mem.Canonical := h.enterAll.of e2
        exact hs1.redLog
    · split
      next e2 => exact h.enterAll.of e2
      next s1 e2 =>
        have hs1 : s1.mem.Canonical := h.enterAll.of e2
        exact hs1.redLog

theorem Mem.Canonical.redOn {c : Context} {key : Int} {d : DevStep} {made : State → State} (h : s.mem.Canonical) (hd : d.Canonical)
    (hmade : ∀ (t : State), t.mem.Canonical → (made t).mem.Canonical) :
    (s.redOn c key d made).mem.Canonical := by
  dsimp only [State.redOn]
  split
  · exact hmade _ hd
  · exact hd
  · exact h.park

theorem Mem.Canonical.rootSignal {r : RedOpen} (h : s.mem.Canonical) : (s.rootSignal r).mem.Canonical := by
  dsimp only [State.rootSignal]
  split
  · exact h.modOpen
  · exact h.modOpen.ite (h.redOn h.decrementSignal fun _ ht => ht.modOpen)

theorem Mem.Canonical.rootEnter {r : RedOpen} (h : s.mem.Canonical) : (s.rootEnter r).mem.Canonical := by
  dsimp only [State.rootEnter]
  split
  · exact (h.modOpen.foldl fun _ _ hs => hs.tell).emitRed.rootSignal
  · exact h.redOn h.redEnter fun _ ht => (ht.modOpen.foldl fun _ _ hs => hs.tell).emitRed.rootSignal

theorem Mem.Canonical.rootWrite {r : RedOpen} (h : s.mem.Canonical) :
    (s.rootWrite r).mem.Canonical := h.modOpen.rootEnter

theorem Mem.Canonical.onward {name : String} {t : State} (h : t.mem.Canonical) :
    (onward name s t).Canonical := .ite trivial h

theorem Mem.Canonical.execRootWrite {key : Int} (h : s.mem.Canonical) : (execRootWrite key s).Canonical := by
  dsimp only [Machine.execRootWrite]
  split
  · trivial
  · refine .ite trivial ?_
    split
    · exact h.rootEnter.onward
    · exact h.rootSignal.onward
    · exact .ite h.rootWrite trivial

theorem Mem.Canonical.execRootWriteTimeout {key : Int} (h : s.mem.Canonical) :
    (execRootWriteTimeout key s).Canonical := by
  dsimp only [Machine.execRootWriteTimeout]
  split
  · trivial
  · exact .ite trivial h.rootWrite

theorem Mem.Canonical.redChange {c : Context} {key : Int} {ch : RedChange} (h : s.mem.Canonical) :
    OkErr DevStep.Canonical (fun r => r.1.mem.Canonical) (s.redChange c key ch) := by
  dsimp only [State.redChange]
  split
  · trivial
  · split
    · exact h.askFor
    · exact h.dropWaits.redLog
    · exact h.dropWaits.redLog

theorem Mem.Canonical.redCorrect {c : Context} {r : RedOpen} {ch : RedChange} {made : State → State} (h : s.mem.Canonical)
    (hmade : ∀ (t : State), t.mem.Canonical → (made t).mem.Canonical) :
    (s.redCorrect c r ch made).mem.Canonical := by
  refine .ite (h.redOn h.redEnter hmade) ?_
  split
  next e => exact h.redOn (h.redChange.of e) hmade
  next s1 _ e =>
    have hs1 : s1.mem.Canonical := h.redChange.of e
    exact hs1.modOpen.redOn hs1.modOpen.redEnter hmade

theorem Mem.Canonical.redRest {key : Int} {f : RedOpen → RedOpen} (h : s.mem.Canonical) :
    (s.redRest key f).mem.Canonical := h.modOpen

theorem Mem.Canonical.fenceStep {r : RedOpen} (h : s.mem.Canonical) : (s.fenceStep r).mem.Canonical := by
  dsimp only [State.fenceStep]
  split
  · exact h.redCorrect fun _ ht => ht.redRest
  · exact h.redRest

theorem Mem.Canonical.lateDone {r : RedOpen} {p : RedPart} {st : Int} (h : s.mem.Canonical) :
    (s.lateDone r p st).mem.Canonical := h.redRest.tell.emitRed

theorem Mem.Canonical.lateStep {r : RedOpen} (h : s.mem.Canonical) : (s.lateStep r).mem.Canonical := by
  dsimp only [State.lateStep]
  split
  · exact h
  · split
    · exact h.lateDone
    · exact (h.redCorrect fun _ ht => ht.modOpen.lateDone).ite (h.redOn h.redEnter fun _ ht => ht.postAtRoot.lateDone)

theorem Mem.Canonical.execCorrectionApply {key : Int} (h : s.mem.Canonical) :
    (execCorrectionApply key s).Canonical := by
  dsimp only [Machine.execCorrectionApply]
  split
  · trivial
  · refine .ite trivial ?_
    split
    · exact h.fenceStep.onward
    · exact h.lateStep.onward
    · exact h.modOpen.fenceStep
    · exact h.modOpen.lateStep
    · trivial

theorem Mem.Canonical.execReductionClose {key : Int} (h : s.mem.Canonical) :
    (execReductionClose key s).Canonical := by
  dsimp only [Machine.execReductionClose]
  split
  · trivial
  · exact .ite trivial h.modOpen

theorem Mem.Canonical.execReductionMapExpiry {key : Int} (h : s.mem.Canonical) :
    (execReductionMapExpiry key s).Canonical := .ite h trivial

theorem Mem.Canonical.fenceSubs {m : Nat} (h : s.mem.Canonical) :
    (s.fenceSubs m).mem.Canonical := h.foldl fun _ _ hs => hs.foldl fun _ _ hs2 => hs2.ite (hs2.modRed.ite (hs2.transmit.ite hs2))

theorem Mem.Canonical.fenceRoots {m : Nat} (h : s.mem.Canonical) : (s.fenceRoots m).mem.Canonical := h

theorem Mem.Canonical.dropStages (h : s.mem.Canonical) : s.dropStages.mem.Canonical := h

theorem Mem.Canonical.fence {m : Nat} (h : s.mem.Canonical) : (s.fence m).mem.Canonical := by
  refine h.ite (.foldl (.ite (.dropStages (.fenceRoots (.fenceSubs h))) ?_) fun _ _ hs => hs.forwardEarly)
  dsimp only
  exact .fenceRoots (.fenceSubs h)

theorem Mem.Canonical.announce {m : Nat} {ms : List Nat} (h : s.mem.Canonical) :
    (s.announce m ms).mem.Canonical := h.foldl fun _ _ hs => hs.transmit

theorem Mem.Canonical.execModuleFence {m : Nat} (h : s.mem.Canonical) :
    (execModuleFence m s).Canonical := .ite trivial h.fence.announce

theorem Mem.Canonical.execFenceAnnouncement {m : Nat} (h : s.mem.Canonical) :
    (execFenceAnnouncement m s).Canonical := .ite (.ite h (.announce (.fence h))) trivial

theorem Mem.Canonical.after {r : Answer} (h : s.mem.Canonical) (hr : r.Canonical) : (s.after r).mem.Canonical := by
  dsimp only [State.after]
  split
  · exact hr
  · exact h

theorem Mem.Canonical.deadlines (h : s.mem.Canonical) : s.deadlines.mem.Canonical := by
  refine h.foldl fun t k ht => ?_
  extract_lets s1 s2 s3 s4
  have h1 : s1.mem.Canonical := ht.after ht.execFlagFall
  have h2 : s2.mem.Canonical := h1.after h1.execFlagFall
  have h3 : s3.mem.Canonical := h2.after h2.execRootWriteTimeout
  have h4 : s4.mem.Canonical := h3.after h3.execReductionClose
  exact h4.after h4.execReductionMapExpiry

/-! ### Machine/Phases -/

theorem Mem.Canonical.boundaryTurn {t : Team} {pass : State → State} (h : s.mem.Canonical)
    (hpass : ∀ (t : State), t.mem.Canonical → (pass t).mem.Canonical) :
    AllSome (·.mem.Canonical) (s.boundaryTurn t pass) := .ite (hpass _ h) (.ite (.ite trivial h.parkRecords) trivial)

theorem Mem.Canonical.mergeBoundary {t : Team} (h : s.mem.Canonical) :
    (s.mergeBoundary t).mem.Canonical := h.foldl fun _ _ hs => hs.mergeJob

theorem Mem.Canonical.passBoundary {t : Team} (h : s.mem.Canonical) : (s.passBoundary t).mem.Canonical := by
  unfold State.passBoundary
  extract_lets us bad s1 s2 vs
  have h1 : s1.mem.Canonical := h.foldl fun _ _ hs => hs.mergeBoundary.modTeam
  have h2 : s2.mem.Canonical := h1.foldl fun _ _ hs => hs.blocksReturned
  exact .ite (h.foldl fun _ _ hs => hs.modTeam) (h2.switchOut.ite (h2.foldl fun _ _ hs => hs.modTeam))

theorem Mem.Canonical.phaseArrive {tiles : Bool} {rx ry : SReg} (h : s.mem.Canonical) :
    (phaseArrive tiles rx ry s).Canonical := by
  refine h.syncIssue fun x t ht => ?_
  dsimp only
  refine .ite ht.modTeam ?_
  split
  · exact ht.barClashed
  · split
    · exact (ht.modTeam.issModSlices.boundaryTurn fun _ ht1 => ht1.passBoundary).getD ht.modTeam.issModSlices
    · exact ht.modTeam.issModSlices

theorem Mem.Canonical.execPhase {x y : SReg} (h : s.mem.Canonical) : (execPhase x y s).Canonical := h.phaseArrive

theorem Mem.Canonical.execPhaseT {x y : SReg} (h : s.mem.Canonical) : (execPhaseT x y s).Canonical := h.phaseArrive

theorem Mem.Canonical.beginSave {ts : List Team} (h : s.mem.Canonical) :
    (s.beginSave ts).mem.Canonical := h.foldl fun _ _ hs => hs.modTeam

theorem Mem.Canonical.execHighPriorityWaitExpiry (h : s.mem.Canonical) :
    (execHighPriorityWaitExpiry s).Canonical := by
  refine .ite trivial ?_
  split
  · trivial
  · exact h.beginSave

theorem Mem.Canonical.saveOut {ts : List Team} (h : s.mem.Canonical) : (s.saveOut ts).mem.Canonical := by
  refine .foldl ?_ fun _ _ hs => hs.blocksReturned
  refine (h.foldl fun _ _ hs => hs.foldl fun _ _ hs2 => hs2.endStalls).foldl fun s1 a hs => ?_
  split
  · exact hs.writeRecord.modTeam.emitDist
  · exact hs

theorem Mem.Canonical.execMidPhaseSaveWrite {team : Nat} (h : s.mem.Canonical) :
    (execMidPhaseSaveWrite team s).Canonical := by
  dsimp only [Machine.execMidPhaseSaveWrite]
  split
  · trivial
  · exact .ite h.saveOut (.ite trivial (h.parkRecords.ite h))

/-! ### Machine/Release -/

theorem Mem.Canonical.releaseWaits {i : IssueRef} (h : s.mem.Canonical) :
    AllSome (·.mem.Canonical) (s.releaseWaits i) := by
  dsimp only [State.releaseWaits]
  split
  · trivial
  · split
    · trivial
    · refine .ite trivial ?_
      refine .ite ?_ ((h.boundaryTurn fun _ ht => ht.passBoundary).ite (.ite (.ite trivial h.blocksReturned) trivial))
      refine .modGang ((h.foldl fun _ _ hs => hs.observeAt).foldl fun s1 a hs => ?_)
      split
      · exact hs.mergeJobs
      · exact hs.mergeJobs
      · exact hs

theorem Mem.Canonical.execWaitRelease {i : IssueRef} (h : s.mem.Canonical) : (execWaitRelease i s).Canonical := by
  dsimp only [Machine.execWaitRelease]
  split
  next e => exact h.releaseWaits.of e
  · trivial

theorem Mem.Canonical.resumeYield {i : IssueRef} (h : s.mem.Canonical) :
    AllSome (·.mem.Canonical) (s.resumeYield i) := by
  dsimp only [State.resumeYield]
  split
  · trivial
  · split
    · trivial
    · exact .ite trivial (.ite h.modGang (.ite (h.foldl fun _ _ hs => hs.observeAt).emitSched.resumeAt trivial))

theorem Mem.Canonical.execYieldResume {i : IssueRef} (h : s.mem.Canonical) : (execYieldResume i s).Canonical := by
  dsimp only [Machine.execYieldResume]
  split
  next e => exact h.resumeYield.of e
  · trivial

theorem Mem.Canonical.execLookaheadResultLands {team gang : Nat} (h : s.mem.Canonical) :
    (execLookaheadResultLands team gang s).Canonical := by
  dsimp only [Machine.execLookaheadResultLands]
  split
  · trivial
  · split
    · trivial
    · split
      · exact .ite h.modGang trivial
      · trivial

/-! ### Machine/Trust -/

theorem Mem.Canonical.bootFail (h : s.mem.Canonical) : s.bootFail.mem.Canonical := .setReady h

theorem Mem.Canonical.measure {i : Nat} {d : List Byte} (h : s.mem.Canonical) :
    (s.measure i d).mem.Canonical := .ite h (.bootFail h)

theorem execModuleReset_canonical : (execModuleReset s).Canonical := by
  exact State.reset_canonical

theorem Mem.Canonical.bootEnd (h : s.mem.Canonical) : s.bootEnd.mem.Canonical := by
  exact h.measure.measure.ite (.measure (.setReady h.measure.measure))

theorem Mem.Canonical.execBootImageLoad {k : ImageKind} (h : s.mem.Canonical) : (execBootImageLoad k s).Canonical := by
  unfold Machine.execBootImageLoad
  extract_lets n s0
  have h0 : s0.mem.Canonical := h.measure.ite h
  refine .ite trivial (.ite h0 ?_)
  split
  · exact h0.bootFail
  · refine .ite h0.bootFail ?_
    extract_lets s1 s2 trust s3
    have h1 : s1.mem.Canonical := h0
    have h2 : s2.mem.Canonical := h1.measure
    have h3 : s3.mem.Canonical := h2
    exact .ite h2 (h3.bootEnd.ite h3)

theorem Mem.Canonical.execFunctionReady {f : Function} (h : s.mem.Canonical) :
    (execFunctionReady f s).Canonical := .ite h.setReady trivial

theorem Mem.Canonical.registerRead {p : Fin 2} {off n : Nat} (h : s.mem.Canonical) :
    (s.registerRead p off n).mem.Canonical := h.modPort.ite h

theorem Mem.Canonical.reply {e : Nat} {bs : List Byte} (h : s.mem.Canonical) : (s.reply e bs).mem.Canonical := h

theorem Mem.Canonical.answerFrame {kind seq : Nat} {payload : List Byte} (h : s.mem.Canonical) :
    (s.answerFrame kind seq payload).mem.Canonical := h.reply

theorem Mem.Canonical.setTranscript {e : Nat} {bs : List Byte} (h : s.mem.Canonical) :
    (s.setTranscript e bs).mem.Canonical := h

theorem Mem.Canonical.respond {e : Endpoint} {first fresh : Bool} {asked : Nat × List (List Byte)} {code : Nat} {parts : List (List Byte)}
    (h : s.mem.Canonical) :
    (respond e first fresh asked code parts s).Canonical := by
  dsimp only [Machine.respond]
  split
  · exact .ite h.setTranscript.reply h
  · exact h.setTranscript.answerFrame

theorem Mem.Canonical.execGetVersion {e : Endpoint} (h : s.mem.Canonical) :
    (execGetVersion e s).Canonical := h.respond

theorem Mem.Canonical.execGetCapabilities {e : Endpoint} (h : s.mem.Canonical) :
    (execGetCapabilities e s).Canonical := h.respond

theorem Mem.Canonical.execNegotiateAlgorithms {e : Endpoint} {mldsa44 sha : Bool} (h : s.mem.Canonical) :
    (execNegotiateAlgorithms e mldsa44 sha s).Canonical := h.respond.ite h.respond

theorem Mem.Canonical.execGetDigests {e : Endpoint} (h : s.mem.Canonical) :
    (execGetDigests e s).Canonical := h.respond

theorem Mem.Canonical.execGetCertificate {e : Endpoint} {slot : Nat} (h : s.mem.Canonical) :
    (execGetCertificate e slot s).Canonical := h.respond.ite h.respond

theorem Mem.Canonical.execChallenge {e : Endpoint} {slot : Nat} {nonce : List Byte} (h : s.mem.Canonical) :
    (execChallenge e slot nonce s).Canonical := .ite h.respond h.respond

theorem Mem.Canonical.execGetMeasurements {e : Endpoint} {idx : Nat} (h : s.mem.Canonical) :
    (execGetMeasurements e idx s).Canonical := h.respond.ite (h.respond.ite (h.respond.ite h.respond))

theorem Mem.Canonical.execPlacementRecordWrite {p : Placement} {bytes : Framed (List Byte)} (h : s.mem.Canonical) :
    (execPlacementRecordWrite p bytes s).Canonical := .ite (.answerFrame (.measure h)) h.answerFrame

theorem Mem.Canonical.execSignedSnapshot {agency : Nat} {nonce : Framed (List Byte)} (h : s.mem.Canonical) :
    (execSignedSnapshot agency nonce s).Canonical := .ite trivial (.ite h.answerFrame h.snapshot.answerFrame)

theorem Mem.Canonical.execFlashWrite {k : ImageKind} {img : Framed Image} (h : s.mem.Canonical) :
    (execFlashWrite k img s).Canonical := .answerFrame h

theorem Mem.Canonical.execMalformedManagementFrame {kind len datagram : Nat} (h : s.mem.Canonical) :
    (execMalformedManagementFrame kind len datagram s).Canonical := .ite trivial h.health

theorem Mem.Canonical.replaceCore {n : Nat} (h : s.mem.Canonical) : (s.replaceCore n).mem.Canonical := h

theorem Mem.Canonical.emptyCluster {c : Nat} (h : s.mem.Canonical) : (s.emptyCluster c).mem.Canonical := .beginSave h

theorem Mem.Canonical.outOfService {u : TestUnit} (h : s.mem.Canonical) : (s.outOfService u).mem.Canonical := by
  dsimp only [State.outOfService]
  split
  · exact h.logUnit.setReady.emptyCluster
  · dsimp only
    exact h.logUnit
  · exact h.logUnit.foldl fun _ _ hs => hs.evict
  · exact h.logUnit.setReady
  · exact h.logUnit

theorem Mem.Canonical.testEnd {u : TestUnit} {lasting : Bool} (h : s.mem.Canonical) :
    (s.testEnd u lasting).mem.Canonical := by
  refine h.logUnit.ite ?_
  dsimp only
  refine .ite ?_ h.logUnit.outOfService
  split
  · refine .replaceCore (.logUnit ?_)
    dsimp only
    exact h.logUnit
  · refine .logUnit ?_
    dsimp only
    exact h.logUnit

theorem Mem.Canonical.moveAside {core : Nat} (h : s.mem.Canonical) :
    (s.moveAside core).mem.Canonical := h.beginSave.foldl fun _ _ hs => hs.modTeam

theorem Mem.Canonical.beginTest {u : TestUnit} (h : s.mem.Canonical) : (s.beginTest u).mem.Canonical := by
  dsimp only [State.beginTest]
  split
  · exact h.moveAside
  · exact h.foldl fun _ _ hs => hs.evict
  · exact h

theorem Mem.Canonical.triggerTest {u : TestUnit} (h : s.mem.Canonical) :
    (s.triggerTest u).mem.Canonical := h.ite (h.setTesting.beginTest.ite h.setTesting)

theorem Mem.Canonical.unitError {u : TestUnit} {corrected : Bool} (h : s.mem.Canonical) :
    (s.unitError u corrected).mem.Canonical := h.logUnit.triggerTest.ite h

theorem Mem.Canonical.nextTest {u : TestUnit} (h : s.mem.Canonical) : (s.nextTest u).mem.Canonical := by
  dsimp only [State.nextTest]
  split
  · split
    · exact h.beginTest
    · exact h
  · exact h

theorem Mem.Canonical.execSelfTestComplete {u : TestUnit} {lasting : Bool} (h : s.mem.Canonical) :
    (execSelfTestComplete u lasting s).Canonical := .ite trivial h.setTesting.testEnd.nextTest

theorem Mem.Canonical.setTemp {die temp : Nat} (h : s.mem.Canonical) : (s.setTemp die temp).mem.Canonical := h

theorem Mem.Canonical.execThermalThrottle {die temp : Nat} (h : s.mem.Canonical) :
    (execThermalThrottle die temp s).Canonical := .ite trivial (h.setTemp.health.ite h.setTemp)

theorem Mem.Canonical.execThermalShutdown {die temp : Nat} (h : s.mem.Canonical) :
    (execThermalShutdown die temp s).Canonical := .ite trivial (h.setTemp.foldl fun _ _ hs => hs.ite hs.gate)

theorem Mem.Canonical.markTime (h : s.mem.Canonical) : s.markTime.mem.Canonical := h.setReady

theorem Mem.Canonical.syncAll (h : s.mem.Canonical) :
    s.syncAll.mem.Canonical := h.foldl fun _ _ hs => hs.foldl fun _ _ hs2 => hs2.traceStream

theorem Mem.Canonical.correctTime {d : Int} (h : s.mem.Canonical) :
    (s.correctTime d).mem.Canonical := .ite (.deadlines (.syncAll h)) h

theorem Mem.Canonical.ptpStep {m : PtpMsg} (h : s.mem.Canonical) : (s.ptpStep m).mem.Canonical := by
  dsimp only [State.ptpStep]
  split
  · exact h
  · exact .ite h h
  · split
    · exact .ite (.correctTime h) h
    · exact h

theorem Mem.Canonical.execPtpMessage {p : PtpUpdate} (h : s.mem.Canonical) :
    (execPtpMessage p s).Canonical := .ite h (.ptpStep (.markTime h))

theorem Mem.Canonical.execFabricTimeHoldover {die err : Nat} (h : s.mem.Canonical) :
    (execFabricTimeHoldover die err s).Canonical := .ite trivial (.markTime h)

theorem Mem.Canonical.execEnergyEstimateUpdate (h : s.mem.Canonical) :
    (execEnergyEstimateUpdate s).Canonical := .ite trivial h

theorem Mem.Canonical.countResidency (h : s.mem.Canonical) : s.countResidency.mem.Canonical := by
  exact h.foldl fun _ _ hs => hs.count

theorem Mem.Canonical.execResidencyCycleCount (h : s.mem.Canonical) :
    (execResidencyCycleCount s).Canonical := .ite trivial h.countResidency

/-! ### Machine/Pass -/

theorem Mem.Canonical.joinsAt {core f n : Nat} (h : s.mem.Canonical) : (State.joinsAt core f n s).mem.Canonical := by
  induction f generalizing s n with
  | zero => exact h
  | succ f ih =>
    unfold State.joinsAt
    refine .ite h ?_
    split
    · exact h
    · exact .ite h (ih h.firePattern)

theorem Mem.Canonical.endPressure (h : s.mem.Canonical) :
    s.endPressure.mem.Canonical :=
  h.foldl fun _ _ hs => hs.ite (hs.foldl fun _ _ hs2 => hs2.ite (hs2.foldl fun _ _ hs3 => hs3.stallOver).modGang)

theorem Mem.Canonical.syncsNow (h : s.mem.Canonical) :
    s.syncsNow.mem.Canonical := h.foldl fun _ _ hs => hs.ite (hs.foldl fun _ _ hs2 => hs2.after hs2.execSyncRecordPeriodic)

theorem Mem.Canonical.samplesNow (h : s.mem.Canonical) :
    s.samplesNow.mem.Canonical := h.ite (h.foldl fun _ _ hs => hs.after hs.execSampleTick)

theorem Mem.Canonical.comes {own : Option Nat} {m : Nat} (h : s.mem.Canonical) :
    (s.comes own m).mem.Canonical := .deadlines (.foldl (.endPressure (.syncsNow (.countResidency h))) fun _ _ hs => hs.joinsAt)

theorem Mem.Canonical.passTo {own : Option Nat} {target f : Nat} (h : s.mem.Canonical) :
    (State.passTo own target f s).mem.Canonical := by
  induction f generalizing s with
  | zero => exact h
  | succ f ih => exact .ite h (ih h.samplesNow.comes)

theorem Mem.Canonical.pass {own : Option Nat} (h : s.mem.Canonical) :
    (s.pass own).mem.Canonical := .ite (.countResidency h) (.passTo h)

theorem Mem.Canonical.elapse (h : s.mem.Canonical) : s.elapse.mem.Canonical := by
  dsimp only [State.elapse]
  split
  · exact h
  · exact h.pass
  · exact h.pass

theorem Mem.Canonical.begin (h : s.mem.Canonical) : s.begin.mem.Canonical := h.elapse.catchUp

/-! ### Machine/Agents -/

theorem Mem.Canonical.firstStep {α : Type} {ex : α → State → Answer} {l : List α} (h : s.mem.Canonical)
    (hex : ∀ (a : α) (t : State), t.mem.Canonical → (ex a t).Canonical) : AllSome Answer.Canonical (firstStep ex s l) := by
  induction l with
  | nil => trivial
  | cons a l ih =>
    unfold Machine.firstStep
    split
    next t e =>
      have ht : t.mem.Canonical := (hex a s h).of e
      split
      · exact ih
      · exact ht
    · exact ih

theorem Mem.Canonical.onto {t : State} (h : t.mem.Canonical) : AllSome (·.mem.Canonical) (s.onto t) := .ite trivial h

theorem Mem.Canonical.logChore {c : Nat} (h : s.mem.Canonical) : AllSome (·.mem.Canonical) (s.logChore c) := by
  dsimp only [State.logChore]
  split
  · refine .ite trivial ?_
    split
    · exact h.park
    next s1 e2 =>
      have hs1 : s1.mem.Canonical := h.engineRead.of e2
      exact hs1.onto
    · dsimp only [AllSome]
      exact h.dropWaits
    · split
      · exact h.park
      · split
        next s11 e4 =>
          have hs11 : s11.mem.Canonical := h.enterAll.of e4
          exact hs11.onto
        next s11 e4 =>
          have hs11 : s11.mem.Canonical := h.enterAll.of e4
          refine .modCtx ?_
          dsimp only
          exact hs11.dropWaits
  · dsimp only [AllSome]
    exact h.dropWaits
  · trivial

theorem Mem.Canonical.haltChore {x : Context} (h : s.mem.Canonical) : AllSome (·.mem.Canonical) (s.haltChore x) := by
  refine .ite trivial ?_
  split
  · exact h.park
  next s1 e =>
    have hs1 : s1.mem.Canonical := h.engineRead.of e
    exact hs1.onto
  next s1 e =>
    have hs1 : s1.mem.Canonical := h.engineRead.of e
    exact hs1.dropWaits.modCtx.onto
  next s1 e =>
    have hs1 : s1.mem.Canonical := h.engineRead.of e
    exact hs1.modCtx

theorem Mem.Canonical.leaseChore (h : s.mem.Canonical) : AllSome (·.mem.Canonical) s.leaseChore := .ite h trivial

theorem Mem.Canonical.chore (h : s.mem.Canonical) :
    AllSome (·.mem.Canonical) s.chore :=
  .orElse (allSome_findSome? (fun _ => h.drainStore.onto)) fun _ => h.launchNext.orElse fun _ => .orElse
    (allSome_findSome? (fun _ => h.logChore)) fun _ => .orElse (allSome_findSome? (fun _ => h.retryHeld.orElse fun _ => h.retryCommand))
      fun _ => h.leaseChore

theorem Mem.Canonical.firstAgent {ex : Instr → State → Answer} (h : s.mem.Canonical)
    (hex : ∀ (i : Instr) (t : State), t.mem.Canonical → (ex i t).Canonical) : AllSome Answer.Canonical (firstAgent ex s) := by
  have look : AllSome Answer.Canonical ((s.ctxs.findSome? s.haltChore).map fun t => .next t) :=
    (allSome_findSome? fun _ => h.haltChore).answer
  have rest : AllSome Answer.Canonical ((s.chore.map fun t => .next t).orElse fun _ =>
      (Machine.firstStep ex s s.due).orElse fun _ => Machine.firstStep Machine.execPeerFreeze s (s.fab.refusals.map Prod.fst)) :=
    h.chore.answer.orElse fun _ => (h.firstStep hex).orElse fun _ => h.firstStep fun _ _ ht => ht.execPeerFreeze
  exact .ite (look.orElse fun _ => rest) (rest.orElse fun _ => look)

/-! ### Machine/VecMem -/

theorem Mem.Canonical.vecLoad {attr : Option Attr} {d : VReg} {named : List VReg} {la : Fin 27} {acc : Iss → Nat → Acc}
    (h : s.mem.Canonical) :
    (vecLoad attr d named la acc s).Canonical := h.issue fun _ _ _ ht => ht.issPutV

theorem Mem.Canonical.vecStore {attr : Option Attr} {v : VReg} {named : List VReg} {acc : Iss → Nat → Acc} (h : s.mem.Canonical) :
    (vecStore attr v named acc s).Canonical := h.issue fun _ _ _ ht => ht.foldl fun _ _ hs => hs.gotWrite

theorem Mem.Canonical.execVld {f : VmemF} (h : s.mem.Canonical) : (execVld f s).Canonical := h.vecLoad

theorem Mem.Canonical.execVst {f : VmemF} (h : s.mem.Canonical) : (execVst f s).Canonical := h.vecStore

theorem Mem.Canonical.execVgth {f : VgthF} (h : s.mem.Canonical) : (execVgth f s).Canonical := h.vecLoad

theorem Mem.Canonical.execVsct {f : VgthF} (h : s.mem.Canonical) : (execVsct f s).Canonical := h.vecStore

theorem Mem.Canonical.execVpf {f : VmemF} (h : s.mem.Canonical) : (execVpf f s).Canonical := by
  refine h.issue fun x got t ht => ?_
  dsimp only [OkErr]
  refine ht.foldl fun s1 a hs => ?_
  split
  · exact hs.touch
  · exact hs

/-! ### Machine/Bmem -/

theorem Mem.Canonical.ldb {b : BinForm} {f : BmemF} (h : s.mem.Canonical) :
    (ldb b f s).Canonical := h.issue fun _ _ _ ht => ht.issPutV

theorem Mem.Canonical.stb {b : BinForm} {f : BmemF} (h : s.mem.Canonical) :
    (stb b f s).Canonical := h.issue fun _ _ _ ht => (ht.foldl fun _ _ hs => hs.gotWrite).issRaise

theorem Mem.Canonical.execLdbS8 {f : BmemF} (h : s.mem.Canonical) : (execLdbS8 f s).Canonical := h.ldb

theorem Mem.Canonical.execLdbS16 {f : BmemF} (h : s.mem.Canonical) : (execLdbS16 f s).Canonical := h.ldb

theorem Mem.Canonical.execLdbS32 {f : BmemF} (h : s.mem.Canonical) : (execLdbS32 f s).Canonical := h.ldb

theorem Mem.Canonical.execLdbS64 {f : BmemF} (h : s.mem.Canonical) : (execLdbS64 f s).Canonical := h.ldb

theorem Mem.Canonical.execLdbZ8 {f : BmemF} (h : s.mem.Canonical) : (execLdbZ8 f s).Canonical := h.ldb

theorem Mem.Canonical.execLdbZ16 {f : BmemF} (h : s.mem.Canonical) : (execLdbZ16 f s).Canonical := h.ldb

theorem Mem.Canonical.execLdbZ32 {f : BmemF} (h : s.mem.Canonical) : (execLdbZ32 f s).Canonical := h.ldb

theorem Mem.Canonical.execStbS8 {f : BmemF} (h : s.mem.Canonical) : (execStbS8 f s).Canonical := h.stb

theorem Mem.Canonical.execStbS16 {f : BmemF} (h : s.mem.Canonical) : (execStbS16 f s).Canonical := h.stb

theorem Mem.Canonical.execStbS32 {f : BmemF} (h : s.mem.Canonical) : (execStbS32 f s).Canonical := h.stb

theorem Mem.Canonical.execStbS64 {f : BmemF} (h : s.mem.Canonical) : (execStbS64 f s).Canonical := h.stb

theorem Mem.Canonical.execStbZ8 {f : BmemF} (h : s.mem.Canonical) : (execStbZ8 f s).Canonical := h.stb

theorem Mem.Canonical.execStbZ16 {f : BmemF} (h : s.mem.Canonical) : (execStbZ16 f s).Canonical := h.stb

theorem Mem.Canonical.execStbZ32 {f : BmemF} (h : s.mem.Canonical) : (execStbZ32 f s).Canonical := h.stb

/-! ### Machine/Mask -/

theorem Mem.Canonical.vmask {d : MReg} {f : Iss → Nat → Trit} (h : s.mem.Canonical) :
    (vmask d f s).Canonical := h.issue fun _ _ _ ht => ht.issPutMask

theorem Mem.Canonical.execMmin {d a b : MReg} (h : s.mem.Canonical) : (execMmin d a b s).Canonical := h.vmask

theorem Mem.Canonical.execMmax {d a b : MReg} (h : s.mem.Canonical) : (execMmax d a b s).Canonical := h.vmask

theorem Mem.Canonical.execMinv {d a : MReg} (h : s.mem.Canonical) : (execMinv d a s).Canonical := h.vmask

theorem Mem.Canonical.execMcon {d a b : MReg} (h : s.mem.Canonical) : (execMcon d a b s).Canonical := h.vmask

theorem Mem.Canonical.execMset {d : MReg} {a : SReg} (h : s.mem.Canonical) : (execMset d a s).Canonical := h.vmask

theorem Mem.Canonical.execMget {d : SReg} {a : MReg} (h : s.mem.Canonical) :
    (execMget d a s).Canonical := h.issue fun _ _ _ ht => ht.issSetS

theorem Mem.Canonical.execMcnt {d : SReg} {a : MReg} {c : Trit} (h : s.mem.Canonical) :
    (execMcnt d a c s).Canonical := h.issue fun _ _ _ ht => ht.issSetS

/-! ### Machine/Vector -/

theorem Mem.Canonical.laneRegs {o : LaneOp} {d a b : VReg} (h : s.mem.Canonical) :
    (laneRegs o d a b s).Canonical := h.issue fun _ _ _ ht => ht.issSpend.issPutV.issCountElems

theorem Mem.Canonical.laneSweep {o : LaneOp} {sw : Sweep} {d a b : SReg} (h : s.mem.Canonical) :
    (laneSweep o sw d a b s).Canonical := by
  refine h.issueWith fun x got t ht => ?_
  refine .ite ht.issModSlices ?_
  extract_lets ls n r rs outs base val s1 s2 s3
  have h1 : s1.mem.Canonical := ht.foldl fun _ _ hs => hs.gotWrite
  have h3 : s3.mem.Canonical := h1.issSpend.issRaise.issCountElems
  exact .ite h3.issModSlices h3.issModSlices.issAdvance

theorem Mem.Canonical.laneOp3 {o : LaneOp} {ops : VOps3} (h : s.mem.Canonical) : (laneOp3 o ops s).Canonical := by
  dsimp only [Machine.laneOp3]
  split
  · exact h.laneRegs
  · exact h.laneSweep

theorem Mem.Canonical.laneOp2 {o : LaneOp} {ops : VOps2} (h : s.mem.Canonical) : (laneOp2 o ops s).Canonical := by
  dsimp only [Machine.laneOp2]
  split
  · exact h.laneRegs
  · exact h.laneSweep

theorem Mem.Canonical.execVadd {f : ValuF} (h : s.mem.Canonical) : (execVadd f s).Canonical := h.laneOp3

theorem Mem.Canonical.execVsub {f : ValuF} (h : s.mem.Canonical) : (execVsub f s).Canonical := h.laneOp3

theorem Mem.Canonical.execVmul {f : ValuF} (h : s.mem.Canonical) : (execVmul f s).Canonical := h.laneOp3

theorem Mem.Canonical.execVdiv {f : ValuF} (h : s.mem.Canonical) : (execVdiv f s).Canonical := h.laneOp3

theorem Mem.Canonical.execVmin {f : ValuF} (h : s.mem.Canonical) : (execVmin f s).Canonical := h.laneOp3

theorem Mem.Canonical.execVmax {f : ValuF} (h : s.mem.Canonical) : (execVmax f s).Canonical := h.laneOp3

theorem Mem.Canonical.execVfma {f : ValuF} (h : s.mem.Canonical) : (execVfma f s).Canonical := h.laneOp3

theorem Mem.Canonical.execVfms {f : ValuF} (h : s.mem.Canonical) : (execVfms f s).Canonical := h.laneOp3

theorem Mem.Canonical.execVabs {f : ValuF} (h : s.mem.Canonical) : (execVabs f s).Canonical := h.laneOp3

theorem Mem.Canonical.execVsel3 {f : ValuF} (h : s.mem.Canonical) : (execVsel3 f s).Canonical := h.laneOp3

theorem Mem.Canonical.execVtinv {f : ValuF} (h : s.mem.Canonical) : (execVtinv f s).Canonical := h.laneOp3

theorem Mem.Canonical.execVtmin {f : ValuF} (h : s.mem.Canonical) : (execVtmin f s).Canonical := h.laneOp3

theorem Mem.Canonical.execVtmax {f : ValuF} (h : s.mem.Canonical) : (execVtmax f s).Canonical := h.laneOp3

theorem Mem.Canonical.execVtsum {f : ValuF} (h : s.mem.Canonical) : (execVtsum f s).Canonical := h.laneOp3

theorem Mem.Canonical.execVtcon {f : ValuF} (h : s.mem.Canonical) : (execVtcon f s).Canonical := h.laneOp3

theorem Mem.Canonical.execVshl {f : ValuF} (h : s.mem.Canonical) : (execVshl f s).Canonical := h.laneOp3

theorem Mem.Canonical.execVshr {f : ValuF} (h : s.mem.Canonical) : (execVshr f s).Canonical := h.laneOp3

theorem Mem.Canonical.execVmov {f : ValuF} (h : s.mem.Canonical) : (execVmov f s).Canonical := h.laneOp3

theorem Mem.Canonical.execVrcp {f : ValuF} (h : s.mem.Canonical) : (execVrcp f s).Canonical := h.laneOp3

theorem Mem.Canonical.execVrsq {f : ValuF} (h : s.mem.Canonical) : (execVrsq f s).Canonical := h.laneOp3

theorem Mem.Canonical.execVsqrt {f : ValuF} (h : s.mem.Canonical) : (execVsqrt f s).Canonical := h.laneOp3

theorem Mem.Canonical.execVexp3 {f : ValuF} (h : s.mem.Canonical) : (execVexp3 f s).Canonical := h.laneOp3

theorem Mem.Canonical.execVlog3 {f : ValuF} (h : s.mem.Canonical) : (execVlog3 f s).Canonical := h.laneOp3

theorem Mem.Canonical.execVexp {f : ValuF} (h : s.mem.Canonical) : (execVexp f s).Canonical := h.laneOp3

theorem Mem.Canonical.execVlog {f : ValuF} (h : s.mem.Canonical) : (execVlog f s).Canonical := h.laneOp3

theorem Mem.Canonical.execVsin {f : ValuF} (h : s.mem.Canonical) : (execVsin f s).Canonical := h.laneOp3

theorem Mem.Canonical.execVcos {f : ValuF} (h : s.mem.Canonical) : (execVcos f s).Canonical := h.laneOp3

theorem Mem.Canonical.execVtanh {f : ValuF} (h : s.mem.Canonical) : (execVtanh f s).Canonical := h.laneOp3

theorem Mem.Canonical.execVaddi {f : VimmF} (h : s.mem.Canonical) : (execVaddi f s).Canonical := h.laneOp2

theorem Mem.Canonical.execVmuli {f : VimmF} (h : s.mem.Canonical) : (execVmuli f s).Canonical := h.laneOp2

theorem Mem.Canonical.execVshli {f : VimmF} (h : s.mem.Canonical) : (execVshli f s).Canonical := h.laneOp2

theorem Mem.Canonical.execVshri {f : VimmF} (h : s.mem.Canonical) : (execVshri f s).Canonical := h.laneOp2

theorem Mem.Canonical.execVldi {f : VimmF} (h : s.mem.Canonical) : (execVldi f s).Canonical := h.laneOp2

theorem Mem.Canonical.compareMask {attr : Option Attr} {mask : MReg} {ty : Ty} {d : MReg} {vregs : List VReg} {a b : Iss → Nat → Int}
    (h : s.mem.Canonical) :
    (compareMask attr mask ty d vregs a b s).Canonical := h.issue fun _ _ _ ht => ht.issPutMask.issRaise.issCountElems

theorem Mem.Canonical.execVcmp {f : VcmpF} (h : s.mem.Canonical) : (execVcmp f s).Canonical := h.compareMask

theorem Mem.Canonical.execVcmpi {f : VcmpiF} (h : s.mem.Canonical) : (execVcmpi f s).Canonical := h.compareMask

theorem Mem.Canonical.execSweepSegment {i : IssueRef} (h : s.mem.Canonical) : (execSweepSegment i s).Canonical := by
  dsimp only [Machine.execSweepSegment]
  split
  · trivial
  · split
    · trivial
    · refine .ite ?_ trivial
      split
      · split
        · exact h.laneSweep
        · trivial
      · trivial

/-! ### Machine/Perm -/

theorem Mem.Canonical.permWith {faults : Iss → List (Nat × Cause × Int)} {attr : Option Attr} {la : Fin 27} {d : VReg} {srcs : List VReg}
    {f : Iss → PermOut} (h : s.mem.Canonical) :
    (permWith faults attr la d srcs f s).Canonical := h.issue fun _ _ _ ht => ht.issSpend.issPutV.issCountElems

theorem Mem.Canonical.perm {attr : Option Attr} {la : Fin 27} {d : VReg} {srcs : List VReg} {f : Iss → PermOut} (h : s.mem.Canonical) :
    (perm attr la d srcs f s).Canonical := h.permWith

theorem Mem.Canonical.permLanes {attr : Option Attr} {mask : MReg} {la : Fin 27} {d : VReg} {srcs : List VReg} {counted draws : Nat} {f :
    Iss → Nat → Res} (h : s.mem.Canonical) :
    (permLanes attr mask la d srcs counted draws f s).Canonical := h.perm

theorem Mem.Canonical.execCvt {f : CvtF} (h : s.mem.Canonical) : (execCvt f s).Canonical := h.permLanes

theorem Mem.Canonical.execVpack {f : VpermF} (h : s.mem.Canonical) : (execVpack f s).Canonical := h.permLanes

theorem Mem.Canonical.execVunpk {f : VunpkF} (h : s.mem.Canonical) : (execVunpk f s).Canonical := h.permLanes

theorem Mem.Canonical.execVshfl {f : VpermF} (h : s.mem.Canonical) : (execVshfl f s).Canonical := h.permLanes

theorem Mem.Canonical.execVrotl {f : VpermSF} (h : s.mem.Canonical) : (execVrotl f s).Canonical := h.permLanes

theorem Mem.Canonical.execVbcast {f : VpermSF} (h : s.mem.Canonical) : (execVbcast f s).Canonical := h.permWith

theorem Mem.Canonical.execVred {f : VredF} (h : s.mem.Canonical) : (execVred f s).Canonical := h.perm

theorem Mem.Canonical.execVscan {f : VredF} (h : s.mem.Canonical) : (execVscan f s).Canonical := h.perm

theorem Mem.Canonical.execVcompr {f : VcomprF} (h : s.mem.Canonical) : (execVcompr f s).Canonical := h.perm

theorem Mem.Canonical.execVexpd {f : VcomprF} (h : s.mem.Canonical) : (execVexpd f s).Canonical := h.perm

theorem Mem.Canonical.execVidx {f : VidxF} (h : s.mem.Canonical) : (execVidx f s).Canonical := h.permLanes

theorem Mem.Canonical.execVins {f : VinsF} (h : s.mem.Canonical) : (execVins f s).Canonical := h.permLanes

theorem Mem.Canonical.execVext {f : VextF} (h : s.mem.Canonical) :
    (execVext f s).Canonical := h.issue fun _ _ _ ht => ht.issSetS.issCountElems

/-! ### Machine/Quant -/

theorem Mem.Canonical.quantise {f : MxqF} {run : Nat} {srcs : List VReg} {faults : Iss → List Nat → List (Nat × Cause × Int)} {draws :
    Bool} {counted : Nat} {r : Iss → Nat → List Int × FlagSet} (h : s.mem.Canonical) :
    (quantise f run srcs faults draws counted r s).Canonical :=
  h.issue fun _ _ _ ht => ((ht.foldl fun _ _ hs => hs.issModGang).issSpend.ite
    (ht.foldl fun _ _ hs => hs.issModGang)).issRaise.issCountElems

theorem Mem.Canonical.execQnt {f : MxqF} (h : s.mem.Canonical) : (execQnt f s).Canonical := h.quantise

theorem Mem.Canonical.execDqnt {f : MxqF} (h : s.mem.Canonical) : (execDqnt f s).Canonical := h.quantise

theorem Mem.Canonical.execRqz {f : MxqF} (h : s.mem.Canonical) : (execRqz f s).Canonical := by
  dsimp only [Machine.execRqz]
  exact h.quantise

theorem Mem.Canonical.execBscl {f : MxqF} (h : s.mem.Canonical) : (execBscl f s).Canonical := h.quantise

theorem Mem.Canonical.execZpk {f : ZpkF} (h : s.mem.Canonical) :
    (execZpk f s).Canonical := h.issue fun _ _ _ ht => (ht.issModGang.ite ht).issSetS.issCountElems

theorem Mem.Canonical.execZupk {f : ZpkF} (h : s.mem.Canonical) :
    (execZupk f s).Canonical := h.issue fun _ _ _ ht => ht.issModGang.issCountElems

theorem Mem.Canonical.execVdot {f : MxqF} (h : s.mem.Canonical) : (execVdot f s).Canonical := h.laneRegs

theorem Mem.Canonical.execVdotn {f : MxqF} (h : s.mem.Canonical) : (execVdotn f s).Canonical := h.laneRegs

/-! ### Machine/Scalar -/

theorem Mem.Canonical.salu {c : SaluF} {draws : Bool} {f : Nat → Bool → Rnd → Int → Int → Int → Res} (h : s.mem.Canonical) :
    (salu c draws f s).Canonical := h.issue fun _ _ _ ht => (ht.issSpend.ite ht).issPutS

theorem Mem.Canonical.execAdd {f : SaluF} (h : s.mem.Canonical) : (execAdd f s).Canonical := h.salu

theorem Mem.Canonical.execSub {f : SaluF} (h : s.mem.Canonical) : (execSub f s).Canonical := h.salu

theorem Mem.Canonical.execMul {f : SaluF} (h : s.mem.Canonical) : (execMul f s).Canonical := h.salu

theorem Mem.Canonical.execMulh {f : SaluF} (h : s.mem.Canonical) : (execMulh f s).Canonical := h.salu

theorem Mem.Canonical.execDiv {f : SaluF} (h : s.mem.Canonical) : (execDiv f s).Canonical := h.salu

theorem Mem.Canonical.execRem {f : SaluF} (h : s.mem.Canonical) : (execRem f s).Canonical := h.salu

theorem Mem.Canonical.execCmp {f : SaluF} (h : s.mem.Canonical) : (execCmp f s).Canonical := h.salu

theorem Mem.Canonical.execMin {f : SaluF} (h : s.mem.Canonical) : (execMin f s).Canonical := h.salu

theorem Mem.Canonical.execMax {f : SaluF} (h : s.mem.Canonical) : (execMax f s).Canonical := h.salu

theorem Mem.Canonical.execTinv {f : SaluF} (h : s.mem.Canonical) : (execTinv f s).Canonical := h.salu

theorem Mem.Canonical.execTmin {f : SaluF} (h : s.mem.Canonical) : (execTmin f s).Canonical := h.salu

theorem Mem.Canonical.execTmax {f : SaluF} (h : s.mem.Canonical) : (execTmax f s).Canonical := h.salu

theorem Mem.Canonical.execTsum {f : SaluF} (h : s.mem.Canonical) : (execTsum f s).Canonical := h.salu

theorem Mem.Canonical.execTcon {f : SaluF} (h : s.mem.Canonical) : (execTcon f s).Canonical := h.salu

theorem Mem.Canonical.execShl {f : SaluF} (h : s.mem.Canonical) : (execShl f s).Canonical := h.salu

theorem Mem.Canonical.execShr {f : SaluF} (h : s.mem.Canonical) : (execShr f s).Canonical := h.salu

theorem Mem.Canonical.simm {c : SimmF} {draws : Bool} {f : Bool → Rnd → Int → Int → Res} (h : s.mem.Canonical) :
    (simm c draws f s).Canonical := h.issue fun _ _ _ ht => (ht.issSpend.ite ht).issPutS

theorem Mem.Canonical.execAddi {f : SimmF} (h : s.mem.Canonical) : (execAddi f s).Canonical := h.simm

theorem Mem.Canonical.execMuli {f : SimmF} (h : s.mem.Canonical) : (execMuli f s).Canonical := h.simm

theorem Mem.Canonical.execCmpi {f : SimmF} (h : s.mem.Canonical) : (execCmpi f s).Canonical := h.simm

theorem Mem.Canonical.execShli {f : SimmF} (h : s.mem.Canonical) : (execShli f s).Canonical := h.simm

theorem Mem.Canonical.execShri {f : SimmF} (h : s.mem.Canonical) : (execShri f s).Canonical := h.simm

theorem Mem.Canonical.execTmini {f : SimmF} (h : s.mem.Canonical) : (execTmini f s).Canonical := h.simm

theorem Mem.Canonical.execTmaxi {f : SimmF} (h : s.mem.Canonical) : (execTmaxi f s).Canonical := h.simm

theorem Mem.Canonical.execTsumi {f : SimmF} (h : s.mem.Canonical) : (execTsumi f s).Canonical := h.simm

theorem Mem.Canonical.execLdi {f : SimmF} (h : s.mem.Canonical) : (execLdi f s).Canonical := h.simm

theorem Mem.Canonical.execLdhi {f : SimmF} (h : s.mem.Canonical) : (execLdhi f s).Canonical := h.simm

/-! ### Machine/ScalarMem -/

theorem Mem.Canonical.smemLoad {n : Nat} {c : SmemF} (h : s.mem.Canonical) :
    (smemLoad n c s).Canonical := h.issue fun _ _ _ ht => ht.issPutS

theorem Mem.Canonical.smemStore {n : Nat} {c : SmemF} (h : s.mem.Canonical) :
    (smemStore n c s).Canonical := h.issue fun _ _ _ ht => (ht.foldl fun _ _ hs => hs.gotWrite).issRaise

theorem Mem.Canonical.execLdI9 {f : SmemF} (h : s.mem.Canonical) : (execLdI9 f s).Canonical := h.smemLoad

theorem Mem.Canonical.execLdI27 {f : SmemF} (h : s.mem.Canonical) : (execLdI27 f s).Canonical := h.smemLoad

theorem Mem.Canonical.execLdI54 {f : SmemF} (h : s.mem.Canonical) : (execLdI54 f s).Canonical := h.smemLoad

theorem Mem.Canonical.execStI9 {f : SmemF} (h : s.mem.Canonical) : (execStI9 f s).Canonical := h.smemStore

theorem Mem.Canonical.execStI27 {f : SmemF} (h : s.mem.Canonical) : (execStI27 f s).Canonical := h.smemStore

theorem Mem.Canonical.execStI54 {f : SmemF} (h : s.mem.Canonical) : (execStI54 f s).Canonical := h.smemStore

theorem Mem.Canonical.execLea {f : SmemF} (h : s.mem.Canonical) :
    (execLea f s).Canonical := h.issue fun _ _ _ ht => ht.issSetS

theorem Mem.Canonical.execPf {f : SmemF} (h : s.mem.Canonical) : (execPf f s).Canonical := by
  refine h.issue fun x got t ht => ?_
  dsimp only [OkErr]
  refine ht.foldl fun s1 a hs => ?_
  split
  · exact hs.touch
  · exact hs

/-! ### Machine/Dispatch -/

/-- What every instruction does to a canonical state, by the lemma of its own function. -/
theorem Mem.Canonical.exec {i : Instr} (h : s.mem.Canonical) : Answer.Canonical (exec i s) := by
  cases i with
  | add _ => exact h.execAdd
  | sub _ => exact h.execSub
  | mul _ => exact h.execMul
  | mulh _ => exact h.execMulh
  | div _ => exact h.execDiv
  | rem _ => exact h.execRem
  | cmp _ => exact h.execCmp
  | min _ => exact h.execMin
  | max _ => exact h.execMax
  | tinv _ => exact h.execTinv
  | tmin _ => exact h.execTmin
  | tmax _ => exact h.execTmax
  | tsum _ => exact h.execTsum
  | tcon _ => exact h.execTcon
  | shl _ => exact h.execShl
  | shr _ => exact h.execShr
  | addi _ => exact h.execAddi
  | muli _ => exact h.execMuli
  | cmpi _ => exact h.execCmpi
  | shli _ => exact h.execShli
  | shri _ => exact h.execShri
  | tmini _ => exact h.execTmini
  | tmaxi _ => exact h.execTmaxi
  | tsumi _ => exact h.execTsumi
  | ldi _ => exact h.execLdi
  | ldhi _ => exact h.execLdhi
  | b _ _ _ => exact h.execB
  | b3 _ _ _ => exact h.execB3
  | call _ _ => exact h.execCall
  | jr _ => exact h.execJr
  | jalr _ _ => exact h.execJalr
  | ret _ => exact h.execRet
  | nop => exact h.execNop
  | trap _ _ => exact h.execTrap
  | rett => exact h.execRett
  | brk _ => exact h.execBrk
  | exit => exact h.execExit
  | rdsr _ _ => exact h.execRdsr
  | wrsr _ _ => exact h.execWrsr
  | regang _ => exact h.execRegang
  | ldI9 _ => exact h.execLdI9
  | ldI27 _ => exact h.execLdI27
  | ldI54 _ => exact h.execLdI54
  | stI9 _ => exact h.execStI9
  | stI27 _ => exact h.execStI27
  | stI54 _ => exact h.execStI54
  | lea _ => exact h.execLea
  | pf _ => exact h.execPf
  | vadd _ => exact h.execVadd
  | vsub _ => exact h.execVsub
  | vmul _ => exact h.execVmul
  | vdiv _ => exact h.execVdiv
  | vmin _ => exact h.execVmin
  | vmax _ => exact h.execVmax
  | vfma _ => exact h.execVfma
  | vfms _ => exact h.execVfms
  | vabs _ => exact h.execVabs
  | vcmp _ => exact h.execVcmp
  | vsel3 _ => exact h.execVsel3
  | vtinv _ => exact h.execVtinv
  | vtmin _ => exact h.execVtmin
  | vtmax _ => exact h.execVtmax
  | vtsum _ => exact h.execVtsum
  | vtcon _ => exact h.execVtcon
  | vshl _ => exact h.execVshl
  | vshr _ => exact h.execVshr
  | vmov _ => exact h.execVmov
  | vrcp _ => exact h.execVrcp
  | vrsq _ => exact h.execVrsq
  | vsqrt _ => exact h.execVsqrt
  | vexp3 _ => exact h.execVexp3
  | vlog3 _ => exact h.execVlog3
  | vexp _ => exact h.execVexp
  | vlog _ => exact h.execVlog
  | vsin _ => exact h.execVsin
  | vcos _ => exact h.execVcos
  | vtanh _ => exact h.execVtanh
  | cvt _ => exact h.execCvt
  | vpack _ => exact h.execVpack
  | vunpk _ => exact h.execVunpk
  | vshfl _ => exact h.execVshfl
  | vrotl _ => exact h.execVrotl
  | vbcast _ => exact h.execVbcast
  | vred _ => exact h.execVred
  | vscan _ => exact h.execVscan
  | vcompr _ => exact h.execVcompr
  | vexpd _ => exact h.execVexpd
  | vidx _ => exact h.execVidx
  | vins _ => exact h.execVins
  | vext _ => exact h.execVext
  | mmin _ _ _ => exact h.execMmin
  | mmax _ _ _ => exact h.execMmax
  | minv _ _ => exact h.execMinv
  | mcon _ _ _ => exact h.execMcon
  | mset _ _ => exact h.execMset
  | mget _ _ => exact h.execMget
  | mcnt _ _ _ => exact h.execMcnt
  | vaddi _ => exact h.execVaddi
  | vmuli _ => exact h.execVmuli
  | vcmpi _ => exact h.execVcmpi
  | vshli _ => exact h.execVshli
  | vshri _ => exact h.execVshri
  | vldi _ => exact h.execVldi
  | vld _ => exact h.execVld
  | vst _ => exact h.execVst
  | vgth _ => exact h.execVgth
  | vsct _ => exact h.execVsct
  | vpf _ => exact h.execVpf
  | sweepSegment _ => exact h.execSweepSegment
  | lookaheadResultLands _ _ => exact h.execLookaheadResultLands
  | phinit _ _ => exact h.execPhinit
  | pharr _ _ _ => exact h.execPharr
  | pharrW _ _ _ => exact h.execPharrW
  | phexp _ _ => exact h.execPhexp
  | phwait _ _ => exact h.execPhwait
  | bar _ => exact h.execBar
  | syncs _ => exact h.execSyncs
  | yield _ _ _ => exact h.execYield
  | racq _ _ => exact h.execRacq
  | racqW _ => exact h.execRacqW
  | rrel _ => exact h.execRrel
  | phase _ _ => exact h.execPhase
  | phaseT _ _ => exact h.execPhaseT
  | waitRelease _ => exact h.execWaitRelease
  | yieldResume _ => exact h.execYieldResume
  | cpyG _ => exact h.execCpyG
  | cpyS _ => exact h.execCpyS
  | cpseal _ _ => exact h.execCpseal
  | cpwaitRd _ => exact h.execCpwaitRd
  | cpwaitVis _ => exact h.execCpwaitVis
  | laneCopyReadDone _ => exact h.execLaneCopyReadDone
  | laneCopyVisible _ => exact h.execLaneCopyVisible
  | faultedCopyFinish _ => exact h.execFaultedCopyFinish
  | jobsub _ _ => exact h.execJobsub
  | jobqry _ _ => exact h.execJobqry
  | advstg _ _ => exact h.execAdvstg
  | jobStart _ _ => exact h.execJobStart
  | jobAccess _ _ => exact h.execJobAccess
  | jobReadDone _ _ => exact h.execJobReadDone
  | jobVisibleCompletion _ _ => exact h.execJobVisibleCompletion
  | m2mJobAck _ _ => exact h.execM2mJobAck
  | faultedJobFinish _ _ => exact h.execFaultedJobFinish
  | ldbS8 _ => exact h.execLdbS8
  | ldbS16 _ => exact h.execLdbS16
  | ldbS32 _ => exact h.execLdbS32
  | ldbS64 _ => exact h.execLdbS64
  | ldbZ8 _ => exact h.execLdbZ8
  | ldbZ16 _ => exact h.execLdbZ16
  | ldbZ32 _ => exact h.execLdbZ32
  | stbS8 _ => exact h.execStbS8
  | stbS16 _ => exact h.execStbS16
  | stbS32 _ => exact h.execStbS32
  | stbS64 _ => exact h.execStbS64
  | stbZ8 _ => exact h.execStbZ8
  | stbZ16 _ => exact h.execStbZ16
  | stbZ32 _ => exact h.execStbZ32
  | aadd _ => exact h.execAadd
  | amin _ => exact h.execAmin
  | amax _ => exact h.execAmax
  | aswp _ => exact h.execAswp
  | acas _ => exact h.execAcas
  | atomicServe => exact h.execAtomicServe
  | redm _ _ _ _ => exact h.execRedm
  | redmUpdate _ => exact h.execRedmUpdate
  | fence _ => exact h.execFence
  | tlbinv _ _ _ sc => exact h.execTlbinv (x := sc)
  | tlbinvComplete _ => exact h.execTlbinvComplete
  | translationWalk _ _ _ => exact h.execTranslationWalk
  | cwb _ _ => exact h.execCwb
  | cinv _ _ => exact h.execCinv
  | cwbi _ _ => exact h.execCwbi
  | mxmN3 _ _ => exact h.execMxmN3
  | mxmN3Z _ _ => exact h.execMxmN3Z
  | mxmI9 _ _ => exact h.execMxmI9
  | mxmF9 _ _ => exact h.execMxmF9
  | mxmI27 _ _ => exact h.execMxmI27
  | mxmF27 _ _ => exact h.execMxmF27
  | matrixOpEnterArray _ => exact h.execMatrixOpEnterArray
  | matrixOpRetire _ => exact h.execMatrixOpRetire
  | mxz _ => exact h.execMxz
  | tld _ _ _ => exact h.execTld
  | tldC _ _ _ => exact h.execTldC
  | tst _ _ _ => exact h.execTst
  | tstC _ _ _ => exact h.execTstC
  | tileMoveLand _ _ => exact h.execTileMoveLand
  | twait _ => exact h.execTwait
  | mxseal _ => exact h.execMxseal
  | mxwait _ => exact h.execMxwait
  | tkgive _ _ => exact h.execTkgive
  | tokenPass _ _ => exact h.execTokenPass
  | tktake _ _ => exact h.execTktake
  | qnt _ => exact h.execQnt
  | dqnt _ => exact h.execDqnt
  | rqz _ => exact h.execRqz
  | bscl _ => exact h.execBscl
  | zpk _ => exact h.execZpk
  | zupk _ => exact h.execZupk
  | vdot _ => exact h.execVdot
  | vdotn _ => exact h.execVdotn
  | portcfg _ _ _ => exact h.execPortcfg
  | post _ _ => exact h.execPost
  | postNf _ _ _ => exact h.execPostNf
  | patset _ _ _ _ => exact h.execPatset
  | paten _ => exact h.execPaten
  | patdis _ => exact h.execPatdis
  | portqry _ _ => exact h.execPortqry
  | sigdec _ _ _ => exact h.execSigdec
  | sigadd _ _ _ => exact h.execSigadd
  | sigbind _ _ _ => exact h.execSigbind
  | heldSignalPostLand _ => exact h.execHeldSignalPostLand
  | joinUnitCycle _ => exact h.execJoinUnitCycle
  | launch _ => exact h.execLaunch
  | redsub _ _ => exact h.execRedsub
  | redqry _ _ => exact h.execRedqry
  | trcev _ _ => exact h.execTrcev
  | trcctlStart _ => exact h.execTrcctlStart
  | trcctlStop _ => exact h.execTrcctlStop
  | trcctlFlush _ => exact h.execTrcctlFlush
  | prfctl _ _ => exact h.execPrfctl
  | watch _ _ => exact h.execWatch
  | unwatch _ => exact h.execUnwatch
  | dbgwin _ _ => exact h.execDbgwin
  | haltg _ => exact h.execHaltg
  | resmg _ => exact h.execResmg
  | timerd _ _ => exact h.execTimerd
  | accrd _ _ _ => exact h.execAccrd
  | accrdSnapshot _ _ => exact h.execAccrdSnapshot
  | engineWatchStop _ _ => exact h.execEngineWatchStop
  | gridCompletion _ => exact h.execGridCompletion
  | teamEnd _ => exact h.execTeamEnd
  | distributorPlace => exact h.execDistributorPlace
  | highPriorityWaitExpiry => exact h.execHighPriorityWaitExpiry
  | midPhaseSaveWrite _ => exact h.execMidPhaseSaveWrite
  | queueEntryProcess _ _ => exact h.execQueueEntryProcess
  | queueTailWrite _ _ _ => exact h.execQueueTailWrite
  | queueStateWrite _ _ _ => exact h.execQueueStateWrite
  | contextCreate _ _ => exact h.execContextCreate
  | contextDestroy _ _ => exact h.execContextDestroy
  | openLanding _ _ _ _ => exact h.execOpenLanding
  | closeLanding _ _ _ _ => exact h.execCloseLanding
  | registerWrite _ _ _ => exact h.execRegisterWrite
  | rawWindowWrite _ => exact h.execRawWindowWrite
  | rawWindowRead _ => exact h.execRawWindowRead
  | integerWindowWrite _ => exact h.execIntegerWindowWrite
  | integerWindowRead _ => exact h.execIntegerWindowRead
  | floatWindowWrite _ => exact h.execFloatWindowWrite
  | floatWindowRead _ => exact h.execFloatWindowRead
  | physicalWindowWrite _ => exact h.execPhysicalWindowWrite
  | physicalWindowRead _ => exact h.execPhysicalWindowRead
  | flitReceive _ _ => exact h.execFlitReceive
  | remoteRequestServe => exact h.execRemoteRequestServe
  | portDiscovery _ _ => exact h.execPortDiscovery
  | linkDownTimeout _ => exact h.execLinkDownTimeout
  | moduleFence _ => exact h.execModuleFence
  | fenceAnnouncement _ => exact h.execFenceAnnouncement
  | peerFreeze _ => exact h.execPeerFreeze
  | reductionContributionArrive => exact h.execReductionContributionArrive
  | flagFall _ => exact h.execFlagFall
  | rootWrite _ => exact h.execRootWrite
  | rootWriteTimeout _ => exact h.execRootWriteTimeout
  | correctionApply _ => exact h.execCorrectionApply
  | reductionClose _ => exact h.execReductionClose
  | reductionMapExpiry _ => exact h.execReductionMapExpiry
  | syncRecordPeriodic _ _ _ => exact h.execSyncRecordPeriodic
  | sampleTick _ _ _ => exact h.execSampleTick
  | traceHoldDrain _ _ => exact h.execTraceHoldDrain
  | clusterPowerGate _ _ => exact h.execClusterPowerGate
  | ptpMessage _ => exact h.execPtpMessage
  | moduleReset => exact execModuleReset_canonical
  | bootImageLoad _ => exact h.execBootImageLoad
  | functionReady _ => exact h.execFunctionReady
  | getVersion _ => exact h.execGetVersion
  | getCapabilities _ => exact h.execGetCapabilities
  | negotiateAlgorithms _ _ _ => exact h.execNegotiateAlgorithms
  | getDigests _ => exact h.execGetDigests
  | getCertificate _ _ => exact h.execGetCertificate
  | challenge _ _ _ => exact h.execChallenge
  | getMeasurements _ _ => exact h.execGetMeasurements
  | placementRecordWrite _ _ => exact h.execPlacementRecordWrite
  | signedSnapshot _ _ => exact h.execSignedSnapshot
  | flashWrite _ _ => exact h.execFlashWrite
  | selfTestComplete _ _ => exact h.execSelfTestComplete
  | thermalThrottle _ _ => exact h.execThermalThrottle
  | thermalShutdown _ _ => exact h.execThermalShutdown
  | contributionSourceRead _ _ => exact h.execContributionSourceRead
  | leaseExpiry _ _ => exact h.execLeaseExpiry
  | fabricTimeHoldover _ _ => exact h.execFabricTimeHoldover
  | malformedManagementFrame _ _ _ => exact h.execMalformedManagementFrame
  | energyEstimateUpdate => exact h.execEnergyEstimateUpdate
  | residencyCycleCount => exact h.execResidencyCycleCount
  | gatedClusterRestart _ => exact h.execGatedClusterRestart

/-! ### Machine/Step -/

theorem Mem.Canonical.agentStep (h : s.mem.Canonical) : Answer.Canonical (agentStep s) := by
  have hfirst : AllSome Answer.Canonical (Machine.firstAgent Machine.exec { s with cur := none }) :=
    Mem.Canonical.firstAgent h fun _ _ ht => ht.exec
  exact hfirst.answerGetD h

theorem Mem.Canonical.issueStep (h : s.mem.Canonical) : Answer.Canonical (issueStep s) := by
  have htry := h.tryIssue (ex := Machine.exec) (apart := false) (cs := s.allCandidates) fun _ _ ht => ht.exec
  unfold Machine.issueStep
  split
  next r t e => exact (e ▸ htry).1
  next t e => exact Mem.Canonical.agentStep (e ▸ htry).2

theorem Mem.Canonical.schedulerStep {apart : Bool} {core sched : Nat} (h : s.mem.Canonical) :
    Answer.Canonical (schedulerStep apart core sched s) := by
  have htry := h.tryIssue (ex := Machine.exec) (apart := apart) (cs := s.candidates core sched) fun _ _ ht => ht.exec
  unfold Machine.schedulerStep
  split
  next r t e => exact (e ▸ htry).1
  next t e => exact (e ▸ htry).2

theorem Mem.Canonical.step (h : s.mem.Canonical) : Answer.Canonical (step s) := by
  have hrest : ∀ rest, ({ s.begin with agenda := rest } : State).mem.Canonical := fun _ => h.begin
  have hagents : ∀ b, ({ s.begin with agents := b } : State).mem.Canonical := fun _ => h.begin
  unfold Machine.step
  dsimp only
  split
  · exact Mem.Canonical.exec h.begin
  · exact h.begin
  · exact h.begin
  · exact (hrest _).schedulerStep
  · exact (hrest _).schedulerStep
  · exact (hrest _).upset
  · exact (hrest _).resend
  · exact (hrest _).routesTold
  · exact h.begin
  · exact (hrest _).unitError
  · exact (hrest _).registerRead
  · exact (hrest _).health
  · have hfirst : AllSome Answer.Canonical (Machine.firstAgent Machine.exec { s.begin with agents := !s.begin.agents, cur := none }) :=
      Mem.Canonical.firstAgent h.begin fun _ _ ht => ht.exec
    split
    · exact hfirst.answerGetD (hagents _).issueStep
    · exact (hagents _).issueStep

end

/-- Settles O7: the form is carried through the turn of the agenda or the agents' and schedulers' steps that the step takes. -/
theorem stepKeepsMemoryForm : Obligations.StepKeepsMemoryForm := by
  intro s t hs hstep
  have ht : Answer.Canonical (step s) := Mem.Canonical.step (s := s) hs
  exact ht.of hstep

end Sys2Proof.Machine

/-! TLBINV of a traced agency (R231, R232, R440): as with FENCE, the stall that it begins may end another, of which the trace keeps a record. -/
namespace Sys2Proof.Proofs.Traced
open Sys2Proof.Machine

theorem priv_fencer : fencer.2.ctx.priv = true := by decide +kernel
theorem invOf_fencer : fencer.1.invOf fencer.2 = none := by decide +kernel

/-- Every slice holds 19,684 in s5, a length that TLBINV takes, and 0 in s0, which names its own context. -/
theorem range_fencer : ∀ k ∈ fencer.2.slices, 1 ≤ fencer.2.s k 5 ∧ fencer.2.s k 5 ≤ 3 ^ 36 ∧ fencer.2.s k 0 = 0 := by decide +kernel

theorem heldAfter_tlbinv : heldAfter (exec (.tlbinv 5 5 0 .modul) fenced) = [2] := by decide +kernel

/-- Refutes O32: where the issue set of a traced agency stands in the stall that the trace has imposed, TLBINV enters its ranges and stalls it for
another reason, so that the stall before is over and its record (R440, R444), after the synchronisation record that goes before it, is formed and
held. The clause on the TLBINV that enters says that nothing but the entry and the gang changes, and has no premise on traces. -/
theorem not_translations : ¬ Obligations.Translations := by
  rintro ⟨htlbinv, -⟩
  obtain ⟨-, henters⟩ := htlbinv fenced fencer.1 fencer.2 5 5 0 .modul issues_fenced priv_fencer
  obtain ⟨t, hexec, hkept, -⟩ := henters invOf_fencer range_fencer
  have hheld := heldAfter_tlbinv
  have hsame : heldOf t = heldOf fencer.1 := heldOf_eq_of_kept (s := { fencer.1 with xlate := t.xlate }) hkept
  rw [hexec, heldAfter, hsame, heldOf_fencer] at hheld
  exact absurd hheld (by decide)

end Sys2Proof.Proofs.Traced

/-! REDM_UPDATE while every walker of its die is busy (R173, R191): the update's walk has no walker, and the step is not enabled. -/
namespace Sys2Proof.Proofs.BusyWalkers
open Sys2Proof.Machine

-- One proof at a time: each thread takes its stack from the memory that the check allows.
set_option Elab.async false

/-- The demonstration gang with an update outstanding in its page at 19,683, while the die's 81 walkers are parked at the 81 small pages after that page,
which migrate (R175). -/
def crowded : State :=
  let s := State.reset.demo
  { s with
    eng := { s.eng with redms := [Traced.lateUpdate] }
    xlate := { s.xlate with parked := (List.range 81).map fun i =>
      { ctx := 0, first := 19683 * ((i : Int) + 2), last := 19683 * ((i : Int) + 3) - 1, who := .issue 1 0 0 } } }

/-- Where the update lies: the first word of the page's frame. -/
def updatePlaces : List Loc := [.hbm 472392, .hbm 472393, .hbm 472394]

theorem locate_crowded : crowded.locate { ctx := demoCtx, team := crowded.team? 1, gang := 0, lane := none, core := some 0 } .rmw 19683 3 =
    .ok updatePlaces := by decide +kernel

theorem plain_crowded : ∀ l ∈ updatePlaces, l.isOwn = true ∧ Plain crowded l ∧ crowded.badLoc l = false := by
  simp [updatePlaces, Loc.isOwn, Plain, State.badLoc, crowded, State.demo]

/-- Whether the answer is that the step is not enabled. -/
def refused (a : Answer) : Bool := match a with | .fault _ => true | _ => false

theorem refused_crowded : refused (exec (.redmUpdate 0) crowded) = true := by decide +kernel

/-- Refutes O31: where 81 other walks are parked at the walkers of its core's die (R173, R175), the update of a REDM whose page no TLB entry holds is not
enabled, while the statement has its step answer a next state. The clause on the update has no premise on the walkers. -/
theorem not_memorySideReductions : ¬ Obligations.MemorySideReductions := by
  rintro ⟨-, hupdate⟩
  obtain ⟨t, hexec, -⟩ := hupdate crowded 0 Traced.lateUpdate demoCtx updatePlaces (by decide +kernel) (by decide +kernel) (by decide +kernel)
    (by decide +kernel) (by decide +kernel) (by decide +kernel) locate_crowded (.inl rfl) plain_crowded
  have hrefused := refused_crowded
  rw [hexec] at hrefused
  cases hrefused

end Sys2Proof.Proofs.BusyWalkers

/-! LANE_COPY_VISIBLE onto the header of its context's own fault log (R192, R193, R202, R205). -/
namespace Sys2Proof.Proofs.Acknowledged
open Sys2Proof.Machine

-- One proof at a time: each thread takes its stack from the memory that the check allows.
set_option Elab.async false

/-- The tables of demoCtx with the last small page below 0 mapping frame 24 too, as that of the context's fault log, whose count of entries is 1 (R192). -/
def logMemory (m : ZMap) : ZMap :=
  setRangeZ (19683 * 24) (toTrytes 6 1)
    (setRangeZ (19683 * 18 + 6 * 19682) (toTrytes 6 (24 * pow3 38 + pow3 28 + pow3 23 + pow3 22))
      (setRangeZ (19683 * 12 + 6 * 19682) (toTrytes 6 (18 * pow3 38)) (setRangeZ (19683 * 6 + 6 * 9841) (toTrytes 6 (12 * pow3 38)) m)))

/-- A lane copy that has read its 27 trytes and writes them to the log's header: a count of 1, of which 1 is acknowledged, and none lost. -/
def ackCopy : LaneCopy :=
  { id := 4, core := 0, ctx := 0, team := 1, grid := 0, gang := 0, slice := 0, lane := 0, cpy := 4, word := 0, src := 19764, dst := -19683,
    srcs := (List.range 27).map fun i => .hbm (472473 + i), dsts := (List.range 27).map fun i => .hbm (472392 + i), scope := .core, pages := [],
    stage := 1, data := toTrytes 6 1 ++ toTrytes 6 1 ++ List.replicate 15 0, watched := false }

/-- The batches of the slice: one restored with a faulted job (R268), and after it that of the copy. -/
def ackBatches : List Batch := [⟨1, 0, [.faulty], false⟩, ⟨2, 0, [.copies [4]], false⟩]

/-- The demonstration gang in a context that its fault log halts, with the copy in its engine. -/
def logged : State :=
  let s := State.reset.demo
  let t := s.modGang 1 0 fun g => g.modSlices [0] fun _ y => { y with copy := { y.copy with last := 2, sealed := ackBatches } }
  { t with
    ctxs := [{ demoCtx with faultLog := -19683, halted := true }]
    mem := { t.mem with hbm := logMemory t.mem.hbm }
    eng := { t.eng with copies := [ackCopy] } }

/-- The state but for the copy, as the statement has batches reported. -/
def unwritten : State := { logged with eng := { logged.eng with copies := [] } }

theorem places_ackCopy : ∀ l ∈ ackCopy.dsts, l.isOwn = true ∧ logged.badLoc l = false ∧ Plain logged l ∧
    ∀ a o, l = .scratch a o → (logged.team? a).isSome = true := by
  intro l hl
  obtain ⟨i, -, rfl⟩ := List.mem_map.mp hl
  simp [Loc.isOwn, Plain, State.badLoc, logged, State.demo, State.modGang, State.modTeam]

/-- The sealed batches of slice 0 in the state that a step answers. -/
def sealedAfter (a : Answer) : Option (List Batch) := match a with | .next t => some (t.slc 1 0 0).copy.sealed | _ => none

theorem sealedAfter_laneCopyVisible : sealedAfter (exec (.laneCopyVisible 4) logged) = some [] := by decide +kernel

/-- In the memory before the copy the log's entry is not acknowledged, so that the batch of the faulted job is not done, nor is any after it. -/
theorem batchesLeft_unwritten : batchesLeft unwritten 0 ackBatches = ackBatches := by decide +kernel

theorem gang?_logged : (logged.gang? 1 0).map (fun g => ((g.slice 0).copy.sealed, g.slices.length)) = some (ackBatches, 9) := by decide +kernel

/-- Refutes O39: a lane copy of a privileged context may write the header of the context's own fault log, and so acknowledge its last entry (R193). The
batches that its step then reports are those done in the memory that it has written, among them one of a faulted job, while the statement has them
be those done in the memory before. -/
theorem not_copies : ¬ Obligations.Copies := by
  rintro ⟨-, hsteps⟩
  obtain ⟨-, hvisible, -⟩ := hsteps logged 4 ackCopy (by decide +kernel) (by decide +kernel) (by decide +kernel) (by decide +kernel) (by decide +kernel)
  obtain ⟨t, hexec, heng, -, -, -, -, hsettled⟩ := hvisible rfl rfl (by decide +kernel) (by decide +kernel) (by decide +kernel) places_ackCopy
  obtain ⟨g, hg, hshape⟩ := Option.map_eq_some_iff.mp gang?_logged
  obtain ⟨hbatches, hlength⟩ := Prod.mk.inj hshape
  have hcopy := congrArg CopyState.sealed (hsettled g hg (by decide) (by rw [hlength]; decide))
  have hleft : batchesLeft { logged with eng := t.eng } ackCopy.ctx (g.slice ackCopy.slice).copy.sealed = ackBatches := by
    rw [heng]
    exact (congrArg (batchesLeft _ 0) hbatches).trans batchesLeft_unwritten
  have hnone := sealedAfter_laneCopyVisible
  rw [hexec] at hnone
  exact absurd ((Option.some.inj hnone).symm.trans (hcopy.trans hleft)) (by decide)

end Sys2Proof.Proofs.Acknowledged

/-! Storing at places of this module (R117, R163, R164, R180, R248): an access writes the trytes named, and in a line that held the other form the rest of
the line; besides that it changes only what touching lines changes. -/
namespace Sys2Proof.Machine

-- One proof at a time: each thread takes its stack from the memory that the check allows.
set_option Elab.async false

/-! ### The last of the values written -/

theorem lastAt_concat (ws vs : List (Loc × Int)) (l : Loc) : lastAt (ws ++ vs) l = (lastAt vs l).or (lastAt ws l) := by
  unfold lastAt
  rw [List.filter_append, List.getLast?_append, Option.map_or]

theorem isSome_lastAt {ws : List (Loc × Int)} {l : Loc} : (lastAt ws l).isSome = true ↔ l ∈ ws.map Prod.fst := by
  simp [lastAt]

theorem lastAt_singleton (l k : Loc) (v : Int) : lastAt [(l, v)] k = if l = k then some v else none := by
  by_cases h : l = k <;> simp [lastAt, h]

/-- Writes put in two groups, no place in both, leave the same values. -/
theorem lastAt_partition (p : Loc × Int → Bool) (ws : List (Loc × Int)) (l : Loc) (hp : ∀ v w, p (l, v) = p (l, w)) :
    lastAt (ws.filter p ++ ws.filter fun w => !p w) l = lastAt ws l := by
  have hgroup : ∀ q : Loc × Int → Bool, (∀ v, q (l, v) = true) → lastAt (ws.filter q) l = lastAt ws l := by
    intro q hq
    rw [lastAt, lastAt, List.filter_filter]
    refine congrArg (fun ws : List (Loc × Int) => ws.getLast?.map Prod.snd) (List.filter_congr fun w _ => ?_)
    by_cases h : w.1 = l
    · simp [← h, show q w = true by rw [← h] at hq; exact hq w.2]
    · simp [h]
  have hempty : ∀ q : Loc × Int → Bool, (∀ v, q (l, v) = false) → lastAt (ws.filter q) l = none := by
    intro q hq
    refine lastAt_of_not_mem fun hmem => ?_
    obtain ⟨w, hw, rfl⟩ := List.mem_map.mp hmem
    have hin := (List.mem_filter.mp hw).2
    rw [show q w = false from hq w.2] at hin
    cases hin
  rw [lastAt_concat]
  cases h : p (l, 0) with
  | true => rw [hgroup p fun v => (hp v 0).trans h, hempty _ fun v => by rw [hp v 0, h]; rfl]; rfl
  | false => rw [hempty p fun v => (hp v 0).trans h, hgroup _ fun v => by rw [hp v 0, h]; rfl, Option.or_none]

/-! ### States that differ in what storage holds -/

/-- A team without what its scratchpad holds. -/
def Team.drained (u : Team) : Team := { u with scratch := [] }

/-- t is s after the writes ws to places of this module, in ternary form, but for what touching lines changes. -/
structure Wrote (s t : State) (ws : List (Loc × Int)) : Prop where
  teams  : ∀ a, (t.team? a).map Team.drained = (s.team? a).map Team.drained
  beyond : t.beyond.cut true true = s.beyond.cut true true
  lines  : ∀ l, t.mem.binLines.contains l = true → s.mem.binLines.contains l = true
  hbm    : ∀ p, ¬ (storing s false ws).hbm p → t.hbmAt p = s.hbmAt p
  reads  : ∀ l, l.isOwn = true → t.readLoc false l = (lastAt ws l).getD (s.readLoc false l)

theorem Wrote.gangs {s t : State} {ws : List (Loc × Int)} (h : Wrote s t ws) (a b : Nat) : t.gang? a b = s.gang? a b := by
  have hbind : ∀ o : Option Team, (o.bind fun u => u.gang? b) = (o.map Team.drained).bind fun u => u.gang? b := fun o => by cases o <;> rfl
  rw [State.gang?, State.gang?, hbind, h.teams, ← hbind]

theorem Wrote.upsets {s t : State} {ws : List (Loc × Int)} (h : Wrote s t ws) : t.mem.upsets = s.mem.upsets := by
  have hup := congrArg (fun u : State => u.mem.upsets) h.beyond
  exact hup

theorem Wrote.trans {s t u : State} {ws vs : List (Loc × Int)} (h : Wrote s t ws) (k : Wrote t u vs) : Wrote s u (ws ++ vs) where
  teams a := (k.teams a).trans (h.teams a)
  beyond := k.beyond.trans h.beyond
  lines l hl := h.lines l (k.lines l hl)
  hbm p hp := by
    simp only [storing, List.map_append, List.mem_append, not_exists, not_and, ne_eq, Bool.not_eq_false] at hp
    refine (k.hbm p ?_).trans (h.hbm p ?_) <;> rintro ⟨q, hq, hcase⟩
    · exact hp q (.inr hq) (hcase.imp_right fun hline => ⟨hline.1, h.lines _ (by simpa using hline.2)⟩)
    · exact hp q (.inl hq) (by simpa using hcase)
  reads l hl := by
    rw [k.reads l hl, h.reads l hl, lastAt_concat]
    cases lastAt vs l <;> rfl

/-- Writes count by the value that they leave at each place. -/
theorem Wrote.congr {s t : State} {ws vs : List (Loc × Int)} (h : Wrote s t ws) (he : ∀ l, lastAt vs l = lastAt ws l) : Wrote s t vs where
  teams := h.teams
  beyond := h.beyond
  lines := h.lines
  hbm p hp := h.hbm p fun ⟨q, hq, hcase⟩ => hp ⟨q, isSome_lastAt.mp (he _ ▸ isSome_lastAt.mpr hq), hcase⟩
  reads l hl := he l ▸ h.reads l hl

/-- Touching lines writes nothing. -/
theorem wrote_of_untouched {s t : State} (h : t.untouched = s.untouched) : Wrote s t [] where
  teams a := by rw [State.team?, State.team?, teams_of_untouched h]
  beyond := by
    have hcut := congrArg (fun u : State => u.beyond.cut true true) h
    exact hcut
  lines l hl := by
    have hlines := congrArg (fun u : State => u.mem.binLines) h
    rwa [show t.mem.binLines = s.mem.binLines from hlines] at hl
  hbm p _ := by
    have hcells := congrArg (fun u : State => u.hbmAt p) h
    exact hcells
  reads l hl := by
    have hplace : ∀ u : State, u.readLoc false l = u.untouched.readLoc false l := fun u => by
      cases l with
      | window n o => cases hl
      | _ => rfl
    rw [hplace t, h, ← hplace s]
    rfl

theorem Wrote.refl (s : State) : Wrote s s [] := wrote_of_untouched rfl

theorem Wrote.touched {s t : State} {ws : List (Loc × Int)} {f : State → State} (h : Wrote s t ws) (hf : Touching f) (hs : s.mem.upsets = []) :
    Wrote s (f t) ws :=
  (h.trans (wrote_of_untouched (hf t (h.upsets.trans hs)))).congr fun l => by rw [List.append_nil]

/-- A state whose memory differs in what is kept of overwritten trytes and of uncorrectable lines has had the same writes. -/
theorem Wrote.noted {s t : State} {ws : List (Loc × Int)} (h : Wrote s t ws) (os : List Overwrite) (ls : List Nat) :
    Wrote s { t with mem := { t.mem with wlog := os, badLines := ls } } ws where
  teams := h.teams
  beyond := h.beyond
  lines := h.lines
  hbm := h.hbm
  reads l hl := by
    refine Eq.trans ?_ (h.reads l hl)
    cases l with
    | window n o => cases hl
    | _ => rfl

/-! ### Places that a store may write -/

/-- A place of storage that is there, in no lane's private slice. -/
def State.stands (s : State) (l : Loc) : Prop :=
  match l with
  | .hbm _ => True
  | .scratch a _ => (s.team? a).isSome = true
  | .chip g _ => (s.grid? g).isSome = true
  | _ => False

theorem State.stands.isOwn {s : State} {l : Loc} (h : s.stands l) : l.isOwn = true := by
  cases l with
  | hbm p => rfl
  | scratch a o => rfl
  | chip g o => rfl
  | _ => cases h

theorem isSome_grid? (s : State) (n : Nat) : (s.grid? n).isSome = (s.grids.map Grid.num).contains n := by
  rw [State.grid?, Bool.eq_iff_iff]
  simp [List.find?_isSome]

theorem Wrote.grid_nums {s t : State} {ws : List (Loc × Int)} (h : Wrote s t ws) : t.grids.map Grid.num = s.grids.map Grid.num := by
  have hgrids := congrArg (fun u : State => u.grids.map Grid.num) h.beyond
  simpa [State.cut, State.beyond, Function.comp_def] using hgrids

theorem Wrote.stands {s t : State} {ws : List (Loc × Int)} (h : Wrote s t ws) {l : Loc} (hl : s.stands l) : t.stands l := by
  cases l with
  | hbm p => trivial
  | scratch a o =>
    have hteam := congrArg Option.isSome (h.teams a)
    rw [Option.isSome_map, Option.isSome_map] at hteam
    exact hteam.trans hl
  | chip g o =>
    show (t.grid? g).isSome = true
    rw [isSome_grid?, h.grid_nums, ← isSome_grid?]
    exact hl
  | _ => cases hl

theorem Wrote.plain {s t : State} {ws : List (Loc × Int)} (h : Wrote s t ws) {l : Loc} (hl : Plain s l) : Plain t l := by
  cases l with
  | scratch a o =>
    intro u hu q hq
    have hteam := h.teams a
    rw [hu] at hteam
    obtain ⟨v, hv, hsame⟩ := Option.map_eq_some_iff.mp hteam.symm
    have hphasers : v.drained.phasers = u.drained.phasers := congrArg Team.phasers hsame
    exact hl v hv q (hphasers ▸ hq)
  | _ => exact hl

/-! ### One tryte written -/

theorem Mem.cell_setCell (m : Mem) (p q : Nat) (v : Int) : (m.setCell false p v).cell false q = if q = p then v else m.cell false q := by
  by_cases hbin : m.binLines.contains (p / 81) = false
  · rw [Mem.setCell, if_pos hbin]
    by_cases hq : q = p
    · rw [if_pos hq, hq, Mem.cell, if_pos hbin, getZ_setZ_same]
    · simp only [Mem.cell, getZ_setZ_other _ _ _ _ hq, if_neg hq]
  · rw [Mem.setCell, if_neg hbin]
    simp only [Mem.cell, getZ_setZ, getZ_clearZ, Bool.false_eq_true, if_false]
    by_cases hline : q / 81 = p / 81
    · have hin : 81 * (p / 81) ≤ q ∧ q < 81 * (p / 81) + 81 := by omega
      rw [hline, if_neg hbin, if_pos (by simp), if_pos hin]
    · have hout : ¬ (81 * (p / 81) ≤ q ∧ q < 81 * (p / 81) + 81) := by omega
      have hne : q ≠ p := fun h => hline (by rw [h])
      have hsame : (m.binLines.filter fun x => decide (x ≠ p / 81)).contains (q / 81) = m.binLines.contains (q / 81) := by
        rw [Bool.eq_iff_iff]
        simp [hline]
      rw [hsame, if_neg hne, if_neg hout, if_neg hne]

theorem wrote_writeLoc_hbm (s : State) (p : Nat) (v : Int) : Wrote s (s.writeLoc false (.hbm p) v) [(.hbm p, v)] where
  teams _ := rfl
  beyond := by
    simp only [State.writeLoc, Mem.setCell]
    split <;> rfl
  lines l hl := by
    simp only [State.writeLoc, Mem.setCell] at hl
    split at hl
    · exact hl
    · simp only [Bool.false_eq_true, if_false, List.contains_iff_mem, List.mem_filter] at hl ⊢
      exact hl.1
  hbm q hq := by
    simp only [storing, List.map_cons, List.map_nil, List.mem_singleton, Loc.hbm.injEq, exists_eq_left, not_or, not_and, ne_eq,
      Bool.not_eq_false] at hq
    obtain ⟨hne, hline⟩ := hq
    simp only [State.hbmAt, State.writeLoc, Mem.setCell]
    split
    · exact getZ_setZ_other _ _ _ _ (Ne.symm hne)
    · next hbin =>
      have hout : ¬ (81 * (p / 81) ≤ q ∧ q < 81 * (p / 81) + 81) := fun hin => by
        have hsame : p / 81 = q / 81 := by omega
        exact hline hsame (by simpa [hsame] using hbin)
      simp only [getZ_setZ_other _ _ _ _ (Ne.symm hne), getZ_clearZ, if_neg hout]
  reads l hl := by
    cases l with
    | hbm q =>
      rw [lastAt_singleton]
      refine (Mem.cell_setCell s.mem p q v).trans ?_
      by_cases h : q = p
      · simp [h]
      · rw [if_neg h, if_neg (fun e => h (Loc.hbm.inj e).symm)]
        rfl
    | window n o => cases hl
    | _ => rfl

theorem wrote_writeLoc_scratch {s : State} {a : Nat} (o : Nat) (v : Int) (h : (s.team? a).isSome = true) :
    Wrote s (s.writeLoc false (.scratch a o) v) [(.scratch a o, v)] where
  teams b := by
    rw [State.writeLoc, team?_modTeam s a b (fun u => { u with scratch := setZ o v u.scratch }) fun _ => rfl]
    split
    · next hb => rw [hb, Option.map_map]; rfl
    · rfl
  beyond := rfl
  lines _ hl := hl
  hbm _ _ := rfl
  reads _ hl := readLoc_scratched (Option.some_get h).symm [(o, v)] false hl

theorem wrote_writeLoc_chip {s : State} {g : Nat} (o : Nat) (v : Int) (h : (s.grid? g).isSome = true) :
    Wrote s (s.writeLoc false (.chip g o) v) [(.chip g o, v)] where
  teams _ := rfl
  beyond := by
    have hgrids : (mapIf (fun x : Grid => decide (x.num = g)) (fun x => { x with chip := setZ o v x.chip }) s.grids).map
        (fun x => { x with chip := [] }) = s.grids.map fun x => { x with chip := [] } := by
      rw [mapIf, List.map_map]
      refine List.map_congr_left fun x _ => ?_
      simp only [Function.comp]
      split <;> rfl
    exact congrArg (fun gs => { s.beyond.cut true true with grids := gs }) hgrids
  lines _ hl := hl
  hbm _ _ := rfl
  reads l hl := by
    cases l with
    | chip b q =>
      have hmod : (s.writeLoc false (.chip g o) v).grid? b =
          (s.grid? b).map fun x => if decide (x.num = g) then { x with chip := setZ o v x.chip } else x :=
        find?_mapIf _ _ _ s.grids fun _ => rfl
      simp only [State.readLoc, hmod, lastAt_singleton, Loc.chip.injEq]
      cases hb : s.grid? b with
      | none =>
        have hne : g ≠ b := fun e => by rw [e, hb] at h; cases h
        simp [hne]
      | some x =>
        have hnum : x.num = b := find?_key Grid.num b _ x hb
        by_cases hg : g = b
        · by_cases hq : q = o
          · simp [hnum, hg, hq]
          · simp [hnum, hg, hq, Ne.symm hq]
        · simp [hnum, hg, Ne.symm hg]
    | window n o => cases hl
    | _ => rfl

theorem wrote_writeLoc {s : State} {l : Loc} (h : s.stands l) (v : Int) : Wrote s (s.writeLoc false l v) [(l, v)] := by
  cases l with
  | hbm p => exact wrote_writeLoc_hbm s p v
  | scratch a o => exact wrote_writeLoc_scratch o v h
  | chip g o => exact wrote_writeLoc_chip o v h
  | _ => cases h

/-! ### An access that writes -/

theorem wrote_foldl_writeLoc {s : State} {ws : List (Loc × Int)} (h : ∀ w ∈ ws, s.stands w.1) :
    Wrote s (ws.foldl (fun s w => s.writeLoc false w.1 w.2) s) ws := by
  induction ws generalizing s with
  | nil => exact Wrote.refl s
  | cons w ws ih =>
    have hfirst := wrote_writeLoc (h w List.mem_cons_self) w.2
    exact hfirst.trans (ih fun v hv => hfirst.stands (h v (List.mem_cons_of_mem _ hv)))

/-- A tryte of HBM4 among writes. -/
def inHbm (w : Loc × Int) : Bool := match w.1 with | .hbm _ => true | _ => false

/-- The writes to HBM4, by physical address. -/
def hbmWrites (ws : List (Loc × Int)) : List (Nat × Int) := ws.filterMap fun w => match w.1 with | .hbm p => some (p, w.2) | _ => none

theorem hbmWrites_map (ws : List (Loc × Int)) : (hbmWrites ws).map (fun w => (Loc.hbm w.1, w.2)) = ws.filter inHbm := by
  induction ws with
  | nil => rfl
  | cons w ws ih =>
    obtain ⟨l, v⟩ := w
    cases l with
    | hbm p => exact congrArg ((Loc.hbm p, v) :: ·) ih
    | _ => exact ih

theorem foldl_writeLoc_hbm (s : State) (hs : List (Nat × Int)) :
    (hs.map fun w => (Loc.hbm w.1, w.2)).foldl (fun s w => s.writeLoc false w.1 w.2) s =
      { s with mem := hs.foldl (fun m w => m.setCell false w.1 w.2) s.mem } := by
  induction hs generalizing s with
  | nil => rfl
  | cons w hs ih => rw [List.map_cons, List.foldl_cons, ih]; rfl

theorem setCells_eq (m : Mem) (hs : List (Nat × Int)) :
    ∃ os ls, m.setCells false hs = { hs.foldl (fun m w => m.setCell false w.1 w.2) m with wlog := os, badLines := ls } := by
  unfold Mem.setCells
  dsimp only
  split
  · exact ⟨_, _, rfl⟩
  · exact ⟨_, _, rfl⟩

/-- The writes to HBM4 of one access. -/
theorem wrote_setCells (s : State) (ws : List (Loc × Int)) :
    Wrote s { s with mem := s.mem.setCells false (hbmWrites ws) } (ws.filter inHbm) := by
  have hstands : ∀ w ∈ ws.filter inHbm, s.stands w.1 := by
    rintro ⟨l, v⟩ hw
    have hin := (List.mem_filter.mp hw).2
    cases l with
    | hbm p => trivial
    | _ => cases hin
  have hfold := wrote_foldl_writeLoc hstands
  rw [← hbmWrites_map, foldl_writeLoc_hbm, hbmWrites_map] at hfold
  obtain ⟨os, ls, he⟩ := setCells_eq s.mem (hbmWrites ws)
  rw [he]
  exact hfold.noted os ls

theorem wrote_writeRaw {s : State} {ls : List Loc} (vs : List Int) (h : ∀ l ∈ ls, s.stands l) : Wrote s (s.writeRaw false ls vs) (ls.zip vs) := by
  have hraw : s.writeRaw false ls vs = ((ls.zip vs).filter fun w => !inHbm w).foldl (fun s w => s.writeLoc false w.1 w.2)
      (if hbmWrites (ls.zip vs) = [] then s else { s with mem := s.mem.setCells false (hbmWrites (ls.zip vs)) }) := by
    unfold State.writeRaw
    refine congrArg (List.foldl _ _) (List.filter_congr fun w _ => ?_)
    obtain ⟨l, v⟩ := w
    cases l <;> rfl
  have hcells : Wrote s (if hbmWrites (ls.zip vs) = [] then s else { s with mem := s.mem.setCells false (hbmWrites (ls.zip vs)) })
      ((ls.zip vs).filter inHbm) := by
    split
    · next hnil => rw [← hbmWrites_map, hnil]; exact Wrote.refl s
    · exact wrote_setCells s _
  rw [hraw]
  refine (hcells.trans (wrote_foldl_writeLoc fun w hw => hcells.stands (h _ (List.of_mem_zip (List.mem_of_mem_filter hw)).1))).congr fun l => ?_
  exact (lastAt_partition inHbm _ l fun _ _ => rfl).symm

theorem touching_passThrough (wrote : Bool) (ls : List Loc) : Touching fun s => s.passThrough wrote ls := by
  have hline : ∀ l, Touching fun s => if s.mem.cache.any fun c => c.through && decide (c.line = l) then
      (if wrote then s.evict l else { s with mem := (s.mem.uncache l).judge l }) else s := by
    intro l s hs
    dsimp only
    split
    · split
      · exact touching_evict l s hs
      · rw [Mem.judge_of_upsets (m := s.mem.uncache l) hs]; rfl
    · rfl
  intro s hs
  dsimp only [State.passThrough]
  split
  · exact Touching.foldl (f := fun s l => if s.mem.cache.any fun c => c.through && decide (c.line = l) then
      (if wrote then s.evict l else { s with mem := (s.mem.uncache l).judge l }) else s) hline _ s hs
  · rfl

/-- No phaser is tested for writes that fall on none (R117). -/
theorem phStored_of_plain {s t : State} {ws : List (Loc × Int)} (h : Wrote s t ws) {ls : List Loc} (hp : ∀ l ∈ ls, Plain s l) (a : Nat) :
    t.phStored a (offsOf a ls) = t := by
  refine phStored_of_offPhasers fun o ho => ?_
  obtain ⟨l, hl, hoff⟩ := List.mem_filterMap.mp ho
  have hplain := h.plain (hp l hl)
  cases l with
  | scratch b q =>
    dsimp only at hoff
    split at hoff
    · next hb =>
      cases hoff
      rw [← hb]
      exact hplain
    · cases hoff
  | _ => cases hoff

/-- An access that writes places of this module (R117, R164, R180). -/
theorem wrote_writeLocs {s : State} {ls : List Loc} (vs : List Int) (hup : s.mem.upsets = []) (h : ∀ l ∈ ls, s.stands l) (hp : ∀ l ∈ ls, Plain s l) :
    Wrote s (s.writeLocs false ls vs) (ls.zip vs) := by
  have hraw := wrote_writeRaw vs h
  have htested : (teamsOf ls).foldl (fun s a => s.phStored a (offsOf a ls)) (s.writeRaw false ls vs) = s.writeRaw false ls vs :=
    foldl_eq_self fun a _ => phStored_of_plain hraw hp a
  unfold State.writeLocs
  rw [htested]
  generalize s.writeRaw false ls vs = t at hraw ⊢
  have hwhole : Wrote s (if t.mem.badLines = [] then t else t.replaced (wholeOf (hbmOf ls))) (ls.zip vs) := by
    split
    · exact hraw
    · exact hraw.noted t.mem.wlog _
  dsimp only
  split
  · next p _ _ => exact hwhole.touched ((touching_makeRoom (p / 81)).comp (touching_passThrough true ls)) hup
  · exact hwhole

/-! ### Updates (R190, R226) -/

/-- An operation whose update does nothing but write its places: it fires and changes no binding (R341, R342). -/
def isUnbound (o : AtomOp) : Bool := match o with | .sigAdd | .bind _ _ => false | _ => true

theorem update_of_unbound {u : Update} (h : isUnbound u.op = true) (s : State) (ctx : Nat) (ls : List Loc) :
    s.update ctx ls u =
      (if (applyUpdate u (s.readLocs false ls)).wr then s.writeLocs false ls (toTrytes (updateLen u) (applyUpdate u (s.readLocs false ls)).new)
        else s.passThrough false ls, applyUpdate u (s.readLocs false ls)) := by
  unfold State.update
  dsimp only
  split
  · next hop => rw [hop] at h; cases h
  · next hop => rw [hop] at h; cases h
  · rfl

/-- The trytes that an update writes at its places, where old stood. -/
def updateWrites (u : Update) (ls : List Loc) (old : Int) : List (Loc × Int) :=
  if (applyUpdate u old).wr then ls.zip (toTrytes (updateLen u) (applyUpdate u old).new) else []

theorem wrote_update {s : State} {ls : List Loc} {u : Update} (hu : isUnbound u.op = true) (ctx : Nat) (hup : s.mem.upsets = [])
    (h : ∀ l ∈ ls, s.stands l) (hp : ∀ l ∈ ls, Plain s l) :
    Wrote s (s.update ctx ls u).1 (updateWrites u ls (s.readLocs false ls)) := by
  rw [update_of_unbound hu, updateWrites]
  split
  · exact wrote_writeLocs _ hup h hp
  · exact wrote_of_untouched (touching_passThrough false ls s hup)

theorem atomSeq_cons (m : Loc → Int) (ls : List Loc) (u : Update) (r : List (List Loc × Update)) :
    atomSeq m ((ls, u) :: r) =
      (applyUpdate u (ofTrytes (ls.map m)) ::
          (atomSeq (fun l => (lastAt (updateWrites u ls (ofTrytes (ls.map m))) l).getD (m l)) r).1,
        updateWrites u ls (ofTrytes (ls.map m)) ++ (atomSeq (fun l => (lastAt (updateWrites u ls (ofTrytes (ls.map m))) l).getD (m l)) r).2) := rfl

/-- Updates depend on what stands at their own places. -/
theorem atomSeq_congr {m n : Loc → Int} {r : List (List Loc × Update)} (h : ∀ q ∈ r, ∀ l ∈ q.1, m l = n l) : atomSeq m r = atomSeq n r := by
  induction r generalizing m n with
  | nil => rfl
  | cons q r ih =>
    obtain ⟨ls, u⟩ := q
    have hread : ls.map m = ls.map n := List.map_congr_left (h (ls, u) List.mem_cons_self)
    rw [atomSeq_cons, atomSeq_cons, hread, ih fun q hq l hl => congrArg (Option.getD _) (h q (List.mem_cons_of_mem _ hq) l hl)]

theorem length_atomSeq (m : Loc → Int) (r : List (List Loc × Update)) : (atomSeq m r).1.length = r.length := by
  induction r generalizing m with
  | nil => rfl
  | cons q r ih => rw [atomSeq_cons, List.length_cons, List.length_cons, ih]

/-- The update of one slice after those before it, with the outcomes so far. -/
def Iss.updateNext (x : Iss) (a : State × List (Nat × Int × FlagSet)) (i : Nat × List Loc × Update) : State × List (Nat × Int × FlagSet) :=
  ((a.1.update x.ctx.num i.2.1 i.2.2).1,
    a.2 ++ [(i.1, (a.1.update x.ctx.num i.2.1 i.2.2).2.ret, (a.1.update x.ctx.num i.2.1 i.2.2).2.flags)])

/-- An update whose places may be written, and which does nothing else. -/
structure State.Takes (s : State) (i : Nat × List Loc × Update) : Prop where
  unbound : isUnbound i.2.2.op = true
  stands  : ∀ l ∈ i.2.1, s.stands l
  plain   : ∀ l ∈ i.2.1, Plain s l

theorem Wrote.takes {s t : State} {ws : List (Loc × Int)} (h : Wrote s t ws) {i : Nat × List Loc × Update} (hi : s.Takes i) : t.Takes i :=
  ⟨hi.unbound, fun l hl => h.stands (hi.stands l hl), fun l hl => h.plain (hi.plain l hl)⟩

theorem foldl_updateNext {x : Iss} {its : AtomItems} {s : State} (hup : s.mem.upsets = []) (h : ∀ i ∈ its, s.Takes i)
    (rs : List (Nat × Int × FlagSet)) :
    Wrote s (its.foldl x.updateNext (s, rs)).1 (atomSeq (s.readLoc false) (its.map Prod.snd)).2 ∧
      (its.foldl x.updateNext (s, rs)).2 =
        rs ++ List.zipWith (fun i a => (i.1, a.ret, a.flags)) its (atomSeq (s.readLoc false) (its.map Prod.snd)).1 := by
  induction its generalizing s rs with
  | nil => exact ⟨Wrote.refl s, (List.append_nil rs).symm⟩
  | cons i its ih =>
    obtain ⟨k, ls, u⟩ := i
    have hi := h (k, ls, u) List.mem_cons_self
    have hfirst := wrote_update hi.unbound x.ctx.num hup hi.stands hi.plain
    have hnext : (s.update x.ctx.num ls u).2 = applyUpdate u (s.readLocs false ls) := by rw [update_of_unbound hi.unbound]
    obtain ⟨hrest, hvalues⟩ := ih (hfirst.upsets.trans hup) (fun j hj => hfirst.takes (h j (List.mem_cons_of_mem _ hj)))
      (rs ++ [(k, (s.update x.ctx.num ls u).2.ret, (s.update x.ctx.num ls u).2.flags)])
    have hreads : atomSeq ((s.update x.ctx.num ls u).1.readLoc false) (its.map Prod.snd) =
        atomSeq (fun l => (lastAt (updateWrites u ls (s.readLocs false ls)) l).getD (s.readLoc false l)) (its.map Prod.snd) := by
      refine atomSeq_congr fun q hq l hl => hfirst.reads l ?_
      obtain ⟨j, hj, rfl⟩ := List.mem_map.mp hq
      exact ((h j (List.mem_cons_of_mem _ hj)).stands l hl).isOwn
    rw [List.map_cons, atomSeq_cons, List.foldl_cons]
    rw [hreads] at hrest hvalues
    refine ⟨hfirst.trans hrest, hvalues.trans ?_⟩
    rw [List.append_assoc, List.zipWith_cons_cons, hnext]
    rfl

/-- Updates of places of this module, one after another. -/
theorem wrote_updates (x : Iss) {its : AtomItems} {s : State} (hup : s.mem.upsets = []) (h : ∀ i ∈ its, s.Takes i) :
    Wrote s (s.updates x its).1 (atomSeq (s.readLoc false) (its.map Prod.snd)).2 ∧
      (s.updates x its).2 = List.zipWith (fun i a => (i.1, a.ret, a.flags)) its (atomSeq (s.readLoc false) (its.map Prod.snd)).1 :=
  foldl_updateNext hup h []

/-! ### Where located places stand (R155 to R162) -/

theorem isOwn_shift (l : Loc) (k : Nat) : (l.shift k).isOwn = l.isOwn := by
  cases l <;> rfl

theorem State.stands.shift {s : State} {l : Loc} (h : s.stands l) (k : Nat) : s.stands (l.shift k) := by
  cases l <;> exact h

theorem stands_of_rankTeam {s : State} {t u : Team} {r o : Nat} (h : s.rankTeam t r = some u) : s.stands (.scratch u.key o) := by
  unfold State.rankTeam at h
  split at h
  · exact List.find?_isSome.mpr ⟨u, List.mem_of_find?_eq_some h, decide_eq_true rfl⟩
  · cases h

theorem stands_of_grid? {s : State} {n o : Nat} {g : Grid} (h : s.grid? n = some g) : s.stands (.chip g.num o) :=
  List.find?_isSome.mpr ⟨g, List.mem_of_find?_eq_some h, decide_eq_true rfl⟩

section
variable {s : State} {w : Who} (hteam : ∀ t, w.team = some t → (s.team? t.key).isSome = true) (hlane : w.lane = none)
include hteam hlane

/-- A place in a window of the local region of somebody whose team is there. -/
theorem stands_of_window {a : Int} {l : Loc} (h : s.window w a = .ok l) : s.stands l := by
  unfold State.window at h
  dsimp only at h
  split at h
  · cases h
  · next t ht =>
    split at h
    · split at h
      · cases h; exact hteam t ht
      · cases h
    · split at h
      · rw [hlane] at h; cases h
      · split at h
        · split at h
          · next hrank =>
            split at h
            · cases h; exact stands_of_rankTeam hrank
            · cases h
          · cases h
        · split at h
          · split at h
            · next hgrid =>
              split at h
              · cases h; exact stands_of_grid? hgrid
              · cases h
            · cases h
          · cases h

omit hteam hlane in
theorem not_isOwn_of_debugAt {a : Int} {l : Loc} (h : s.debugAt w a = .ok l) : l.isOwn = false := by
  unfold State.debugAt at h
  dsimp only at h
  split at h
  · cases h
  · split at h
    · split at h
      · cases h
      · split at h
        · cases h; rfl
        · split at h
          · split at h
            · cases h; rfl
            · cases h
          · cases h
    · cases h

omit hteam hlane in
theorem not_isOwn_of_debugXl {op : AccOp} {a : Int} {l : Loc} (h : s.debugXl w op a = .ok l) : l.isOwn = false := by
  unfold State.debugXl at h
  split at h
  · cases h
  · split at h
    · next hat =>
      split at h
      · cases h
      · cases h; exact not_isOwn_of_debugAt hat
    · exact not_isOwn_of_debugAt h

omit hteam hlane in
/-- What a page translates to is HBM4 of this module or of a peer. -/
theorem stands_of_leafXl {op : AccOp} {f : Leaf} {a : Int} {l : Loc} (h : s.leafXl op f a = .ok l) (hown : l.isOwn = true) : s.stands l := by
  unfold State.leafXl at h
  extract_lets at h
  split at h
  · cases h
  · split at h
    · injection h with h
      split at h
      · subst h; trivial
      · subst h; cases hown
    · cases h

theorem stands_of_xlate1 {op : AccOp} {a : Int} {l : Loc} (h : s.xlate1 w op a = .ok l) (hown : l.isOwn = true) : s.stands l := by
  unfold State.xlate1 at h
  split at h
  · cases h
  · split at h
    · split at h
      · cases h
      · split at h
        · cases h
        · exact stands_of_window hteam hlane h
    · split at h
      · rw [not_isOwn_of_debugXl h] at hown; cases hown
      · split at h
        · cases h
        · split at h
          · cases h
          · split at h
            · cases h
            · exact stands_of_leafXl h hown

/-- The places of an access are places that stand, as far as they are this module's. -/
theorem stands_of_locate {op : AccOp} {a : Int} {n : Nat} {ls : List Loc} (h : s.locate w op a n = .ok ls) :
    ∀ l ∈ ls, l.isOwn = true → s.stands l := by
  intro l hl hown
  unfold State.locate at h
  split at h
  · cases h; cases hl
  · split at h
    · cases h
    · dsimp only at h
      split at h
      · cases h
      · split at h
        · cases h
        · injection h with h
          subst h
          obtain ⟨p, hp, hl⟩ := List.mem_flatMap.mp hl
          obtain ⟨q, -, rfl⟩ := List.mem_map.mp hp
          split at hl
          · next k hk =>
            obtain ⟨j, -, rfl⟩ := List.mem_map.mp hl
            rw [isOwn_shift] at hown
            exact (stands_of_xlate1 hteam hlane hk hown).shift j
          · cases hl

end

/-- The places of this module that the checks have found for accesses of no lane's private slice stand. -/
theorem stands_of_admits {s : State} {x : Iss} {u : Uses} {p : List (List Loc)} (h : Admits s x u p []) (hx : s.iss? = some x)
    (hlane : ∀ a ∈ u.accs, a.lane = none) : ∀ l ∈ p.flatten, l.isOwn = true → s.stands l := by
  have hplaces : p = u.accs.map fun a => match s.checkAcc x a with | .ok ls => ls | _ => [] := by
    have hzip := congrArg (List.map Prod.snd) (accPlaces_of_precheck h.passes)
    rw [List.map_snd_zip (by rw [h.places]), accPlaces, List.map_map, List.map_map] at hzip
    exact hzip
  intro l hl hown
  rw [hplaces] at hl
  obtain ⟨ls, hls, hl⟩ := List.mem_flatten.mp hl
  obtain ⟨a, ha, rfl⟩ := List.mem_map.mp hls
  split at hl
  · next ls hcheck =>
    unfold State.checkAcc at hcheck
    split at hcheck
    · refine stands_of_locate (w := x.who a.lane) (fun t ht => ?_) (hlane a ha) hcheck l hl hown
      obtain ⟨-, hteam, -⟩ := iss?_eq s x hx
      cases ht
      rw [find?_key Team.key _ _ _ hteam, hteam]
      rfl
    · cases hcheck
  · cases hl

/-! ### An instruction whose accesses are admitted and that goes on -/

theorem touching_touches (x : Iss) (cs : List (Acc × List Loc)) : Touching (x.touches cs) := by
  induction cs with
  | nil => exact Touching.id
  | cons c cs ih => exact ih.comp (touching_touch (x.who c.1.lane) c.1.op c.1.addr c.2)

/-- ISSUING, when the checks pass and the program counters advance: the effect finds the lines of its accesses touched. -/
theorem issue_of_admits {uses : Iss → Uses} {body : Iss → Got → State → Except Stop State} {s s0 s3 : State} {x : Iss} {p : List (List Loc)}
    (hfound : s.issuing false = some (s0, x)) (h : Admits s0 x (uses x) p []) (hlater : (uses x).later = false)
    (hleases : (uses x).leases = false) (hopens : (uses x).opens = 0 ∨ x.room (uses x).opens) (hwhole : wholeLines ((uses x).accs.zip p) = [])
    (hb : body x ⟨(uses x).accs.zip p, [], s0.accLeaves x (uses x).accs⟩ (x.touches ((uses x).accs.zip p) (x.begun s0)) = .ok s3) :
    issue uses body s = .next (x.finish s0 (x.advance s3)) := by
  obtain ⟨x0, h0, hs0, hx⟩ := issuing_eq s s0 false x hfound
  have hown : s0.leased x (uses x) ((uses x).accs.zip p) = [] := by simp [State.leased, hleases]
  have hroom : ¬ ((uses x).opens > 0 ∧ x.gang.shown.length + (uses x).opens > 27) := by
    unfold Iss.room at hopens
    omega
  unfold issue issueWith
  rw [h0]
  simp only
  rw [show x0.landDue false s = s0 from hs0.symm, hx]
  simp only [h.passes, List.filter_nil, List.map_nil, ite_self, ne_eq, not_true, if_false, hown, List.isEmpty_nil, Bool.not_true, hlater,
    Bool.false_eq_true, Bool.false_or, hwhole, replaced_nil]
  rw [show x.modGang (fun g => if x.segments = 0 then g.tickWindows x.slices else g) s0 = x.begun s0 from rfl]
  rw [show ∀ s : State, ((uses x).accs.zip p).foldl (fun s p => s.touch (x.who p.1.lane) p.1.op p.1.addr p.2) s =
    x.touches ((uses x).accs.zip p) s from fun _ => rfl, hb]
  simp only [State.watchRecords, List.foldl_nil, if_true, if_neg hroom]

/-- Accesses that read what they write replace no line whole (R249). -/
theorem wholeLines_of_reads {cs : List (Acc × List Loc)} (h : ∀ c ∈ cs, c.1.op.rd = true) : wholeLines cs = [] := by
  have hnone : (cs.flatMap fun c => if c.1.op.wr && !c.1.op.rd then hbmOf c.2 else []) = [] :=
    List.flatMap_eq_nil_iff.mpr fun c hc => if_neg (by simp [h c hc])
  rw [wholeLines, hnone]
  rfl

theorem heldRecords_advance (x : Iss) (s : State) (a : Nat) : (x.advance s).heldRecords a = s.heldRecords a := rfl

theorem beyond_advance (x : Iss) (s : State) : (x.advance s).beyond = s.beyond := rfl

theorem modGang_finished_advance (x : Iss) (s : State) : x.modGang (fun g => g.finished x.slices) (x.advance s) = x.modGang x.passed s :=
  Iss.modGang_modGang x s (fun g => g.finished x.slices)
    (fun g => g.modSlices x.slices fun _ y => { y with pc := y.pc + 3 * (x.issue.words.length : Int) }) fun _ => rfl

/-- The end of an instruction that goes on from a state in which its agency holds no record back. -/
theorem finish_advance_of_quiet (x : Iss) (s0 : State) {s3 : State} (hq : s3.heldRecords x.ctx.agency = 0) :
    (x.finish s0 (x.advance s3)).teams = (x.modGang x.passed s3).teams ∧ (x.finish s0 (x.advance s3)).beyond = s3.beyond := by
  have hend := finish_quiet x s0 (x.advance s3) ((heldRecords_advance ..).trans hq)
  rwa [modGang_finished_advance, beyond_advance] at hend

/-! ### An instruction that stores and has scalar results -/

theorem scalarEffect_lanes (x : Iss) (la : Fin 27) (d : SReg) (spent : List (Nat × Nat)) (res : Nat → Res) (g : Gang) :
    (x.scalarEffect la d spent res g).lanes = g.lanes := by
  have hput : ∀ (ws : List (Nat × Int)) (g : Gang), (g.putSca d ws).lanes = g.lanes := by
    intro ws
    induction ws with
    | nil => exact fun _ => rfl
    | cons w ws ih => exact fun g => ih _
  unfold Iss.scalarEffect Gang.putRes
  split
  · exact hput _ _
  · rfl

theorem ticked_lanes (x : Iss) (g : Gang) : (x.ticked g).lanes = g.lanes := by
  unfold Iss.ticked
  split <;> rfl

theorem readLoc_begun (x : Iss) (s : State) {l : Loc} (hl : l.isOwn = true) : (x.begun s).readLoc false l = s.readLoc false l :=
  readLoc_of_modGang (f := x.ticked) (u := s) (x := x) rfl (fun _ _ => rfl) rfl x.ticked_idx (ticked_lanes x) hl false

section
variable {s s0 u t : State} {x : Iss} {la : Fin 27} {d : SReg} {spent : List (Nat × Nat)} {res : Nat → Res} {ws : List (Loc × Int)}

/-- t is the state after an instruction of issue set x that found s0, made the writes ws, which led to u, and had scalar results. -/
structure Stepped (s0 u t : State) (x : Iss) (la : Fin 27) (d : SReg) (spent : List (Nat × Nat)) (res : Nat → Res) (ws : List (Loc × Int)) : Prop where
  gang   : s0.gang? x.issue.team x.issue.gang = some x.gang
  inGang : ∀ k ∈ x.slices, k < x.gang.slices.length
  wrote  : Wrote (x.begun s0) u ws
  teams  : t.teams = (x.modGang (fun g => x.passed (x.scalarEffect la d spent res g)) u).teams
  beyond : t.beyond = u.beyond

theorem Stepped.gang?_eq (h : Stepped s0 u t x la d spent res ws) (a b : Nat) : t.gang? a b =
    if a = x.issue.team ∧ b = x.issue.gang then some (x.ran (x.scalarEffect la d spent res) x.gang) else s0.gang? a b := by
  have hidx : ∀ g, (x.passed (x.scalarEffect la d spent res g)).idx = g.idx := x.scalarEffect_idx la d spent res
  have hmod := gang?_modGang u x.issue.team x.issue.gang a b _ hidx
  have hbegun := gang?_modGang s0 x.issue.team x.issue.gang
  have ht : t.gang? a b = (x.modGang (fun g => x.passed (x.scalarEffect la d spent res g)) u).gang? a b := by
    rw [State.gang?, State.gang?, State.team?, State.team?, h.teams]
  rw [ht, Iss.modGang, hmod, h.wrote.gangs, h.wrote.gangs, x.begun_eq, Iss.modGang, hbegun _ _ _ x.ticked_idx, hbegun _ _ _ x.ticked_idx, h.gang]
  split
  · rw [if_pos ⟨rfl, rfl⟩]; rfl
  · rfl

theorem Stepped.own (h : Stepped s0 u t x la d spent res ws) :
    t.gang? x.issue.team x.issue.gang = some (x.ran (x.scalarEffect la d spent res) x.gang) :=
  (h.gang?_eq _ _).trans (if_pos ⟨rfl, rfl⟩)

theorem Stepped.kept (h : Stepped s0 u t x la d spent res ws) :
    Kept s0 t x { storing s0 false ws with sca := fun k r => la = 0 ∧ k ∈ x.slices ∧ r = d ∧ d ≠ 0, flags := la = 0,
                                           gen := fun l => l ∈ spent.map Prod.fst } := by
  have hframe := x.ran_scalarEffect_frame la d spent res x.gang
  have hmem : ∀ p, t.hbmAt p = u.hbmAt p := fun p => by
    have hcells := congrArg (fun v : State => v.hbmAt p) h.beyond
    exact hcells
  refine { memory := fun p hp => (hmem p).trans (h.wrote.hbm p hp), beyond := (congrArg (State.cut true true) h.beyond).trans h.wrote.beyond,
           others := fun a b hab => (h.gang?_eq a b).trans (if_neg ?_), sca := ?_, vec := ?_, msk := ?_, gen := ?_, flags := ?_, mode := ?_ }
  · rintro ⟨rfl, rfl⟩
    exact hab rfl
  all_goals simp only [State.sreg, State.vlane, State.mreg, State.genOf, State.flagsOf, State.modeOf, h.own, h.gang]
  · exact hframe.sca
  · exact hframe.vec
  · exact hframe.msk
  · exact hframe.gen
  · exact hframe.flags
  · exact hframe.mode

theorem Stepped.stored (h : Stepped s0 u t x la d spent res ws) : Stored s0 t false ws := by
  intro l hl
  have hmem := congrArg State.mem h.beyond
  have hgrids := congrArg State.grids h.beyond
  have hread : t.readLoc false l = u.readLoc false l :=
    readLoc_of_modGang h.teams (fun bin p => congrArg (fun m : Mem => m.cell bin p) hmem) hgrids (x.scalarEffect_idx la d spent res)
      (scalarEffect_lanes x la d spent res) hl false
  rw [hread, h.wrote.reads l hl, readLoc_begun x s0 hl]

theorem Stepped.goesOn (h : Stepped s0 u t x la d spent res ws) : GoesOn s0 t x := by
  intro k hk
  simp only [State.pcOf, h.own, h.gang]
  exact x.ran_scalarEffect_pc la d spent res hk (h.inGang k hk)

theorem Stepped.advances (h : Stepped s0 u t x la d spent res ws) : Spent s0 t x spent := by
  intro hd w hw
  simp only [State.genOf, h.own, h.gang]
  exact x.ran_scalarEffect_gens la d spent res x.gang hd hw

theorem Stepped.results (h : Stepped s0 u t x la d spent res ws) (hla : la = 0) :
    (∀ k ∈ x.slices, d ≠ 0 → t.sreg x.issue.team x.issue.gang k d = (res k).val) ∧ Raised s0 t x (x.slices.map fun k => (res k).flags) := by
  subst hla
  simp only [State.sreg, Raised, State.flagsOf, h.own, h.gang]
  exact ⟨fun k hk => x.ran_scalarEffect_get d spent res hk (h.inGang k hk), x.ran_scalarEffect_flags d spent res x.gang⟩

theorem Stepped.pending (h : Stepped s0 u t x la d spent res ws) (hla : la ≠ 0) {k : Nat} (hk : k ∈ x.slices) :
    { slices := [k], dest := .sca k d, writes := [(0, (res k).val)], flags := (res k).flags, remaining := la.val } ∈
      t.pendsOf x.issue.team x.issue.gang := by
  simp only [State.pendsOf, h.own]
  exact x.mem_ran_scalarEffect_pending la d spent res x.gang hk hla

/-- The state after an instruction that goes on from its writes and results. -/
theorem stepped_of_finish (hx : Issues s false s0 x) (hw : Wrote (x.begun s0) u ws) :
    Stepped s0 u (x.finish s0 (x.advance (x.modGang (x.scalarEffect la d spent res) u))) x la d spent res ws := by
  have hq : (x.modGang (x.scalarEffect la d spent res) u).heldRecords x.ctx.agency = 0 :=
    (heldRecords_of_beyond hw.beyond _).trans hx.quiet
  obtain ⟨hteams, hbeyond⟩ := finish_advance_of_quiet x s0 hq
  exact ⟨hx.gang, fun k hk => (hx.inGang k hk).1, hw,
    hteams.trans (congrArg State.teams (Iss.modGang_modGang x u _ _ (x.scalarEffect_idx la d spent res))), hbeyond⟩

end

/-! ### Returning atomics on this module's storage (R190, R225, R226) -/

theorem Iss.parker_congr {x y : Iss} (h : x.issue = y.issue) : x.parker = y.parker := by
  unfold Iss.parker Iss.low Iss.slices
  rw [h]

/-- An issue set that awaits no answer to an update is in the first part of its atomic. -/
theorem atomLate_of_firstTry {s s0 : State} {x y : Iss} (hfound : s.issuing false = some (s0, x)) (hy : s.iss? = some y) (h : FirstTry s0 x) :
    s.atomLate y = false := by
  obtain ⟨x0, hx0, hs0, -⟩ := issuing_eq s s0 false x hfound
  have hfab : s.fab = s0.fab := by
    rw [hs0, State.settled]
    unfold Iss.landDue
    split <;> rfl
  have hwaits : s.waitsOf y.parker = s0.waitsOf x.parker := by
    rw [State.waitsOf, State.waitsOf, hfab, Iss.parker_congr (issue_of_issuing hfound hy)]
  rw [State.atomLate, hwaits, List.any_eq_false]
  intro w hw
  have hkey := h.2 w hw
  have hturn : ¬ turnKey 0 ≤ w.key := by unfold turnKey; omega
  simp [hturn]

/-- Updates that bind no signal keep no places for bindings (R342). -/
theorem keepBindings_of_unbound {its : AtomItems} (h : ∀ i ∈ its, isUnbound i.2.2.op = true) (s : State) (x : Iss) : s.keepBindings x its = .ok s := by
  have hfaults : s.bindFaults x its = [] := by
    unfold State.bindFaults
    rw [foldl_eq_self]
    intro i hi
    have hop := h i hi
    dsimp only
    split
    · next hb => rw [hb] at hop; cases hop
    · rfl
  have hreqs : bindReqs its = [] := by
    refine List.filterMap_eq_nil_iff.mpr fun i hi => ?_
    have hop := h i hi
    split
    · next hb _ => rw [hb] at hop; cases hop
    · rfl
  unfold State.keepBindings
  rw [hfaults, hreqs]
  rfl

/-- One outcome for each of the slices, in their order. -/
theorem zipWith_eq_map_of_nodup {α β γ : Type} [DecidableEq α] {ks : List α} {as : List β} (hn : ks.Nodup) (hl : as.length = ks.length) (d : β)
    (f : α → β → γ) : List.zipWith f ks as = ks.map fun k => f k (as.getD (ks.idxOf k) d) := by
  refine List.ext_getElem (by simp [hl]) fun i hi hj => ?_
  have hks : i < ks.length := by simpa using hj
  rw [List.getElem_zipWith, List.getElem_map, hn.idxOf_getElem, List.getD_eq_getElem _ _ (hl.symm ▸ hks)]

/-- What the slices of an atomic update, whose accesses lie at the places p. -/
def Iss.atomItems (x : Iss) (req : Iss → Nat → AtomReq) (p : List (List Loc)) : AtomItems :=
  (x.slices.zip p).map fun q => (q.1, q.2, (req x q.1).upd)

theorem atomItems_eq (x : Iss) (req : Iss → Nat → AtomReq) (p : List (List Loc)) :
    ((x.slices.zip ((x.slices.map fun k => (req x k).acc).zip p)).map fun q => (q.1, q.2.2, (req x q.1).upd)) = x.atomItems req p := by
  unfold Iss.atomItems
  generalize x.slices = ks
  induction ks generalizing p with
  | nil => rfl
  | cons k ks ih =>
    cases p with
    | nil => rfl
    | cons ls p => exact congrArg ((k, ls, (req x k).upd) :: ·) (ih p)

theorem atomItems_snd (x : Iss) (req : Iss → Nat → AtomReq) (p : List (List Loc)) :
    (x.atomItems req p).map Prod.snd = p.zip (x.slices.map fun k => (req x k).upd) := by
  unfold Iss.atomItems
  generalize x.slices = ks
  induction ks generalizing p with
  | nil => exact (List.zip_nil_right).symm
  | cons k ks ih =>
    cases p with
    | nil => rfl
    | cons ls p => exact congrArg ((ls, (req x k).upd) :: ·) (ih p)

theorem atomItems_fst {x : Iss} {p : List (List Loc)} (req : Iss → Nat → AtomReq) (h : p.length = x.slices.length) :
    (x.atomItems req p).map Prod.fst = x.slices := by
  unfold Iss.atomItems
  rw [List.map_map]
  exact List.map_fst_zip h.ge

theorem mem_atomItems {x : Iss} {req : Iss → Nat → AtomReq} {p : List (List Loc)} {i : Nat × List Loc × Update} (h : i ∈ x.atomItems req p) :
    i.2.1 ∈ p ∧ i.2.2 = (req x i.1).upd := by
  obtain ⟨q, hq, rfl⟩ := List.mem_map.mp h
  exact ⟨(List.of_mem_zip hq).2, rfl⟩

/-- The draws that an atomic spends (R27, R226). -/
def Iss.atomDraws (x : Iss) (u : Nat → Update) : List (Nat × Nat) :=
  drawsOf x.gang.rnd ((x.slices.filter fun k => decide ((u k).op = .add ∧ (u k).ty = .f27)).map fun k => 3 * k) 1

/-- The result of slice k of an atomic, as its update answers and with the flags of preparing the operand. -/
def Iss.atomRes (x : Iss) (as : List Updated) (pre : Nat → FlagSet) (k : Nat) : Res :=
  ⟨(as.getD (x.slices.idxOf k) ⟨0, false, 0, 0⟩).ret, joinF (as.getD (x.slices.idxOf k) ⟨0, false, 0, 0⟩).flags (pre k)⟩

/-- The end of an atomic is an update of the gang: its draws spent, its results put. -/
theorem atomDone_eq {x : Iss} {req : Iss → Nat → AtomReq} {its : AtomItems} {as : List Updated} (hn : x.slices.Nodup)
    (hslices : its.map Prod.fst = x.slices) (has : as.length = x.slices.length) (d : SReg) (la : Fin 27) (s : State) :
    x.atomDone (some d) la req (List.zipWith (fun i a => (i.1, a.ret, a.flags)) its as) (x.atomSpend req s) =
      x.modGang (x.scalarEffect la d (x.atomDraws fun k => (req x k).upd) (x.atomRes as fun k => (req x k).pre)) s := by
  have hspend : x.atomSpend req s = x.modGang (fun g => g.spend (x.atomDraws fun k => (req x k).upd)) s := by
    have hdraws : (fun k => updateDraws (req x k).upd) = fun k => decide ((req x k).upd.op = .add ∧ (req x k).upd.ty = .f27) :=
      funext fun k => (Bool.decide_and ..).symm
    have hspent := spend_eq_modGang_drawsOf x x.gang.rnd ((x.slices.filter fun k => updateDraws (req x k).upd).map fun k => 3 * k) s
    rw [List.map_map, hdraws] at hspent
    rw [Iss.atomSpend, hdraws]
    exact hspent
  have hresults : (List.zipWith (fun (i : Nat × List Loc × Update) (a : Updated) => (i.1, a.ret, a.flags)) its as).map
      (fun r => (r.1, (⟨r.2.1, joinF r.2.2 (req x r.1).pre⟩ : Res))) = x.slices.map fun k => (k, x.atomRes as (fun k => (req x k).pre) k) := by
    have hzip := zipWith_eq_map_of_nodup hn has ⟨0, false, 0, 0⟩ fun k (a : Updated) => (k, (⟨a.ret, joinF a.flags (req x k).pre⟩ : Res))
    refine Eq.trans ?_ hzip
    rw [List.map_zipWith, ← hslices, List.zipWith_map_left]
  rw [hspend, Iss.atomDone]
  simp only [hresults]
  rw [putS_eq]
  exact Iss.modGang_modGang x s _ _ fun _ => rfl

/-! ### The places when the window of the issue set has ticked -/

theorem team?_begun (x : Iss) (s : State) (a : Nat) :
    (x.begun s).team? a = if a = x.issue.team then (s.team? a).map fun t => t.modGang x.issue.gang x.ticked else s.team? a := by
  have hmod := team?_modTeam s x.issue.team a (fun t => t.modGang x.issue.gang x.ticked) fun _ => rfl
  refine hmod.trans ?_
  split
  · next h => rw [h]
  · rfl

theorem stands_begun {x : Iss} {s : State} {l : Loc} (h : s.stands l) : (x.begun s).stands l := by
  cases l with
  | scratch a o =>
    show ((x.begun s).team? a).isSome = true
    rw [team?_begun]
    split
    · exact Option.isSome_map.trans h
    · exact h
  | hbm p => exact h
  | chip g o => exact h
  | _ => cases h

theorem plain_begun {x : Iss} {s : State} {l : Loc} (h : Plain s l) : Plain (x.begun s) l := by
  cases l with
  | scratch a o =>
    intro u hu
    rw [team?_begun] at hu
    split at hu
    · obtain ⟨v, hv, rfl⟩ := Option.map_eq_some_iff.mp hu
      exact h v hv
    · exact h u hu
  | _ => exact h

theorem isPeer_of_isOwn {l : Loc} (h : l.isOwn = true) : l.isPeer = false := by
  cases l with
  | peer m p => cases h
  | peerWin m n o => cases h
  | _ => rfl

section
variable {s s0 : State} {x : Iss} {la : Fin 27} {d : SReg} {req : Iss → Nat → AtomReq} {p : List (List Loc)}

/-- What an atomic of issue set x names in its first part. -/
def Iss.atomUses (x : Iss) (la : Fin 27) (d : SReg) (req : Iss → Nat → AtomReq) : Uses :=
  { Uses.none with dests := x.sDests d, accs := x.slices.map fun k => (req x k).acc, opens := x.sOpens la }

/-- The first part of an atomic, whose updates bind and fire nothing, on places of this module: its updates are made and it ends. -/
theorem atomics_of_admits (hx : Issues s false s0 x) (hfirst : FirstTry s0 x) (hroom : la = 0 ∨ x.room x.slices.length)
    (h : Admits s0 x (x.atomUses la d req) p []) (hp : ∀ l ∈ p.flatten, l.isOwn = true) (hunbound : ∀ k, isUnbound (req x k).upd.op = true)
    (hrmw : ∀ k, (req x k).acc.op = .rmw) :
    ∃ u, u = (x.touches ((x.slices.map fun k => (req x k).acc).zip p) (x.begun s0)).updates x (x.atomItems req p) ∧
      atomics (some d) la (fun _ => []) req s = .next (x.finish s0 (x.advance (x.atomDone (some d) la req u.2 (x.atomSpend req u.1)))) := by
  refine ⟨_, rfl, ?_⟩
  have hreads : ∀ c ∈ (x.slices.map fun k => (req x k).acc).zip p, c.1.op.rd = true := by
    intro c hc
    obtain ⟨k, -, hk⟩ := List.mem_map.mp (List.of_mem_zip hc).1
    rw [← hk, hrmw]
    rfl
  have hkept := keepBindings_of_unbound (its := x.atomItems req p) (fun i hi => (mem_atomItems hi).2 ▸ hunbound _)
    (x.touches ((x.slices.map fun k => (req x k).acc).zip p) (x.begun s0)) x
  have hnear : ((x.atomItems req p).any fun i => i.2.1.any Loc.isPeer) = false := by
    refine List.any_eq_false.mpr fun i hi => ?_
    rw [Bool.not_eq_true, List.any_eq_false]
    exact fun l hl => by rw [isPeer_of_isOwn (hp l (List.mem_flatten.mpr ⟨_, (mem_atomItems hi).1, hl⟩))]; exact Bool.false_ne_true
  have hopens : x.sOpens la = 0 ∨ x.room (x.sOpens la) := by
    unfold Iss.sOpens
    split
    · exact .inl rfl
    · next hla => exact .inr (hroom.resolve_left fun e => hla (congrArg Fin.val e))
  unfold atomics
  extract_lets late
  have hlate : late = false := by
    dsimp only [late]
    split
    · next y hy => exact atomLate_of_firstTry hx.found hy hfirst
    · rfl
  simp only [hlate, Bool.false_eq_true, if_false]
  refine issue_of_admits hx.found h rfl rfl hopens (wholeLines_of_reads hreads) ?_
  simp only [atomItems_eq, hkept, hfirst.1, hnear, Bool.or_self, Bool.false_eq_true, if_false]

/-- An atomic of whose updates none binds or fires makes them on this module's places one after another (R190, R225, R226). -/
theorem runsUpdates_of_atomics {i : Instr} (he : exec i s = atomics (some d) la (fun _ => []) req s) (hx : Issues s false s0 x)
    (hn : x.slices.Nodup) (hfirst : FirstTry s0 x) (hroom : la = 0 ∨ x.room x.slices.length) (h : Admits s0 x (x.atomUses la d req) p [])
    (hp : ∀ l ∈ p.flatten, l.isOwn = true ∧ Plain s0 l) (hunbound : ∀ k, isUnbound (req x k).upd.op = true)
    (hacc : ∀ k, (req x k).acc.op = .rmw ∧ (req x k).acc.lane = none) :
    RunsUpdates i s s0 x la d p (fun k => (req x k).upd) fun k => (req x k).pre := by
  obtain ⟨u, hu, hnext⟩ := atomics_of_admits hx hfirst hroom h (fun l hl => (hp l hl).1) hunbound fun k => (hacc k).1
  obtain ⟨x0, -, -, hiss⟩ := issuing_eq s s0 false x hx.found
  have hlen : p.length = x.slices.length := h.places.trans (List.length_map _)
  have hstands := stands_of_admits h hiss fun a ha => by
    obtain ⟨k, -, rfl⟩ := List.mem_map.mp ha
    exact (hacc k).2
  have htouched := wrote_of_untouched (touching_touches x ((x.slices.map fun k => (req x k).acc).zip p) (x.begun s0) h.sound)
  have htakes : ∀ i ∈ x.atomItems req p, (x.touches ((x.slices.map fun k => (req x k).acc).zip p) (x.begun s0)).Takes i := by
    intro i hi
    have hplaces : ∀ l ∈ i.2.1, l ∈ p.flatten := fun l hl => List.mem_flatten.mpr ⟨_, (mem_atomItems hi).1, hl⟩
    exact htouched.takes ⟨(mem_atomItems hi).2 ▸ hunbound _, fun l hl => stands_begun (hstands l (hplaces l hl) (hp l (hplaces l hl)).1),
      fun l hl => plain_begun (hp l (hplaces l hl)).2⟩
  obtain ⟨hwrote, hvalues⟩ := wrote_updates x (htouched.upsets.trans h.sound) htakes
  have hseq : atomSeq ((x.touches ((x.slices.map fun k => (req x k).acc).zip p) (x.begun s0)).readLoc false) ((x.atomItems req p).map Prod.snd) =
      atomSeq (s0.readLoc false) (p.zip (x.slices.map fun k => (req x k).upd)) := by
    rw [atomItems_snd]
    refine atomSeq_congr fun q hq l hl => ?_
    have hown := (hp l (List.mem_flatten.mpr ⟨_, (List.of_mem_zip hq).1, hl⟩)).1
    exact (htouched.reads l hown).trans (readLoc_begun x s0 hown)
  rw [hseq, ← hu] at hwrote hvalues
  have has : (atomSeq (s0.readLoc false) (p.zip (x.slices.map fun k => (req x k).upd))).1.length = x.slices.length := by
    rw [length_atomSeq, List.length_zip, List.length_map, hlen, Nat.min_self]
  rw [hvalues, atomDone_eq hn (atomItems_fst req hlen) has] at hnext
  have hstep := stepped_of_finish (la := la) (d := d) (spent := x.atomDraws fun k => (req x k).upd)
    (res := x.atomRes (atomSeq (s0.readLoc false) (p.zip (x.slices.map fun k => (req x k).upd))).1 fun k => (req x k).pre) hx
    (htouched.trans hwrote)
  exact ⟨_, he.trans hnext, hstep.goesOn, hstep.kept, hstep.stored, hstep.advances, hstep.results, fun hla k hk => hstep.pending hla hk⟩

end

/-! ### Asking peers changes no storage (R402) -/

/-- Memory and teams. -/
def State.storage (s : State) : Mem × List Team := (s.mem, s.teams)

theorem foldl_storage {α : Type} {f : State → α → State} (h : ∀ s a, (f s a).storage = s.storage) (l : List α) (s : State) :
    (l.foldl f s).storage = s.storage := by
  induction l generalizing s with
  | nil => rfl
  | cons a l ih => rw [List.foldl_cons, ih, h]

theorem launch_storage {s t : State} {q : Outgoing} (h : s.launch q = some t) : t.storage = s.storage := by
  unfold State.launch at h
  split at h
  · split at h
    · cases h; rfl
    · cases h
  · cases h

theorem transmit_storage (s : State) (dst : Nat) (m : FlitMsg) : (s.transmit dst m).storage = s.storage := by
  simp only [State.transmit, State.transmitFrom]
  split
  · rfl
  · cases h : State.launch _ _ with
    | none => rfl
    | some t => exact (launch_storage h).trans rfl

theorem ask_storage (s : State) (agency : Nat) (w : RemoteWait) (r : RemoteReq) : (s.ask agency w r).storage = s.storage :=
  transmit_storage s w.modul (.request (s.fab.nextTag + 1) s.modul w.ctx r)

theorem askFor_storage (s : State) (p : Parker) (agency ctx : Nat) (rs : List RemReq) : (s.askFor p agency ctx rs).storage = s.storage := by
  unfold State.askFor
  split
  · rfl
  · exact foldl_storage (fun _ _ => ask_storage ..) rs s

/-! ### An access with a part at a peer asks for it (R402) -/

theorem placeRuns_ne_nil (i : Nat) (ls : List Loc) : ∀ r ∈ placeRuns i ls, r.2 ≠ [] := by
  induction ls generalizing i with
  | nil => exact fun r hr => absurd hr List.not_mem_nil
  | cons l ls ih =>
    unfold placeRuns
    split
    · next heq =>
      have hrest := ih (i + 1)
      rw [heq] at hrest
      split
      · exact List.forall_mem_cons.mpr ⟨List.cons_ne_nil _ _, fun r hr => hrest r (List.mem_cons_of_mem _ hr)⟩
      · exact List.forall_mem_cons.mpr ⟨List.cons_ne_nil _ _, hrest⟩
    · exact List.forall_mem_singleton.mpr (List.cons_ne_nil _ _)

/-- The runs of an access hold all its places. -/
theorem flatMap_placeRuns (i : Nat) (ls : List Loc) : (placeRuns i ls).flatMap Prod.snd = ls := by
  induction ls generalizing i with
  | nil => rfl
  | cons l ls ih =>
    have hrest := ih (i + 1)
    unfold placeRuns
    split
    · next heq =>
      rw [heq] at hrest
      split
      · exact congrArg (l :: ·) hrest
      · exact congrArg (l :: ·) hrest
    · next hshape =>
      cases hruns : placeRuns (i + 1) ls with
      | nil =>
        rw [hruns] at hrest
        exact congrArg (l :: ·) hrest
      | cons r rs =>
        obtain ⟨j, ks⟩ := r
        cases ks with
        | nil => exact absurd rfl (placeRuns_ne_nil (i + 1) ls (j, []) (hruns ▸ List.mem_cons_self))
        | cons k ks => exact absurd hruns (hshape j k ks rs)

theorem farRuns_ne_nil {ls : List Loc} (h : ls.any Loc.isPeer = true) : farRuns ls ≠ [] := by
  obtain ⟨l, hl, hpeer⟩ := List.any_eq_true.mp h
  rw [← flatMap_placeRuns 0 ls] at hl
  obtain ⟨r, hr, hl⟩ := List.mem_flatMap.mp hl
  exact List.ne_nil_of_mem (List.mem_filter.mpr ⟨hr, List.any_eq_true.mpr ⟨l, hl, hpeer⟩⟩)

/-- An access that writes and has a part at a peer asks for an acceptance. -/
theorem acceptReqs_ne_nil {accs : List (Acc × List Loc)} {c : Acc × List Loc} (hc : c ∈ accs) (hwr : c.1.op.wr = true)
    (hpeer : c.2.any Loc.isPeer = true) : acceptReqs false accs ≠ [] := by
  obtain ⟨n, hn⟩ := List.mem_iff_getElem?.mp hc
  have hin : (c, n) ∈ accs.zipIdx := List.mk_mem_zipIdx_iff_getElem?.mpr hn
  intro hnil
  have hruns := List.flatMap_eq_nil_iff.mp hnil (c, n) hin
  dsimp only at hruns
  rw [if_neg (by simp [hwr])] at hruns
  exact farRuns_ne_nil hpeer (List.map_eq_nil_iff.mp hruns)

/-- Requests of somebody who has asked nothing yet, of owners none of whom is fenced, are all still to be sent. -/
theorem answers_of_unasked {s : State} {p : Parker} {rs : List RemReq} (hwaits : s.waitsOf p = []) (hfenced : ∀ m, s.isFenced m = false)
    (hrs : rs ≠ []) : s.answers p rs = .pending rs := by
  simp [State.answers, hwaits, hfenced, hrs]

/-- Accesses one of which writes at a peer who has not been asked yet stop the instruction in a state that differs in what it asks. -/
theorem reach_of_unasked {s : State} {x : Iss} {accs : List (Acc × List Loc)} {c : Acc × List Loc} (hc : c ∈ accs) (hwr : c.1.op.wr = true)
    (hpeer : c.2.any Loc.isPeer = true) (hwaits : s.waitsOf x.parker = []) (hfenced : ∀ m, s.isFenced m = false) :
    ∃ t, s.reach x false accs = .error t ∧ t.mem = s.mem ∧ t.teams = s.teams := by
  have hfar : (accs.all fun p => !p.2.any Loc.isPeer) = false := List.all_eq_false.mpr ⟨c, hc, by simp [hpeer]⟩
  have hasks := acceptReqs_ne_nil hc hwr hpeer
  unfold State.reach
  split
  · exact ⟨s, rfl, rfl, rfl⟩
  · rw [hfar, Bool.and_false, if_neg Bool.false_ne_true]
    dsimp only
    rw [answers_of_unasked hwaits hfenced hasks]
    split
    · next heq => exact absurd (Answers.pending.inj heq) hasks
    · next heq =>
      have hkept := askFor_storage s x.parker x.ctx.agency x.ctx.num (acceptReqs false accs)
      rw [← Answers.pending.inj heq]
      exact ⟨_, rfl, congrArg Prod.fst hkept, congrArg Prod.snd hkept⟩
    · next hno => exact absurd rfl (hno _)

/-! ### AADD, AMIN, AMAX, ASWP and ACAS (R225, R226) -/

theorem update_fst (x : Iss) (op : AtomOp) (ty : Ty) (k : Nat) (v cmp : Int) :
    (x.update op ty k v cmp).1 = { op := op, ty := ty, rnd := x.gang.rnd, draw := x.gang.draw (3 * k) 0,
                                   v := if ty = .i54 then v else if ty = .f27 then wrap 27 v else clamp 27 v,
                                   cmp := if ty = .i54 then cmp else wrap 27 cmp } := by
  cases ty <;> simp [Iss.update, prepOperand]

theorem update_snd (x : Iss) (op : AtomOp) (ty : Ty) (k : Nat) (v cmp : Int) :
    (x.update op ty k v cmp).2 = if ty ≠ .i54 ∧ ty ≠ .f27 ∧ outside 27 v = true then fNarrow else 0 := by
  cases ty <;> simp [Iss.update, prepOperand, flagIf]

/-- An instruction of the major ATOM on this module's storage. -/
theorem runsUpdates_of_atom {i : Instr} {op : AtomOp} {s s0 : State} {x : Iss} {f : AtomF} {p : List (List Loc)} (he : exec i s = atom op f s)
    (hop : isUnbound op = true) (hx : Issues s false s0 x) (hn : x.slices.Nodup) (hfirst : FirstTry s0 x) (hroom : f.la = 0 ∨ x.room x.slices.length)
    (h : Admits s0 x { Uses.none with dests := x.sDests f.x, accs := x.slices.map fun k => atomAcc k f.ty (x.s k f.y), opens := x.sOpens f.la } p [])
    (hp : ∀ l ∈ p.flatten, l.isOwn = true ∧ Plain s0 l) :
    RunsUpdates i s s0 x f.la f.x p
      (fun k => { op := op, ty := f.ty, rnd := x.gang.rnd, draw := x.gang.draw (3 * k) 0,
                  v := if f.ty = .i54 then x.s k f.z else if f.ty = .f27 then wrap 27 (x.s k f.z) else clamp 27 (x.s k f.z),
                  cmp := if f.ty = .i54 then x.s k f.x else wrap 27 (x.s k f.x) })
      fun k => if f.ty ≠ .i54 ∧ f.ty ≠ .f27 ∧ outside 27 (x.s k f.z) = true then fNarrow else 0 := by
  have hruns := runsUpdates_of_atomics he hx hn hfirst hroom h hp (fun _ => hop) fun _ => ⟨rfl, rfl⟩
  simpa only [update_fst, update_snd] using hruns

end Sys2Proof.Machine

namespace Sys2Proof.Proofs.Atomics
open Sys2Proof.Machine

/-- Settles O29: the updates of the slices are made one after another on what stands at their places, and each leaves what touching lines leaves but
its places; and a writing access with a part at a peer asks for its acceptance before anything is written. -/
theorem atomics : Obligations.Atomics := by
  refine ⟨fun row hrow s s0 x f p hx hn hfirst hroom h hp => ?_, ?_⟩
  · simp only [List.mem_cons, List.not_mem_nil, or_false] at hrow
    obtain rfl | rfl | rfl | rfl | rfl := hrow
    all_goals exact runsUpdates_of_atom rfl rfl hx hn hfirst hroom h hp
  · rintro s x p op hwr accs ⟨ls, hls, hpeer⟩ hlen - hwaits hfenced
    obtain ⟨k, hk⟩ : ∃ k, (k, ls) ∈ x.slices.zip p := by
      have hin : ls ∈ (x.slices.zip p).map Prod.snd := by rwa [List.map_snd_zip hlen]
      obtain ⟨q, hq, rfl⟩ := List.mem_map.mp hin
      exact ⟨q.1, hq⟩
    exact reach_of_unasked (List.mem_map.mpr ⟨(k, ls), hk, rfl⟩) hwr hpeer hwaits hfenced

end Sys2Proof.Proofs.Atomics
